-- ==== Sys2Proof/Word.lean ====
section
/-! DEFINITION. The word types of the block and the sparse map that every memory and table of State is. -/

namespace Sys2Proof

/-- One byte (R112). -/
abbrev Byte := BitVec 8

/-- A sparse table: pairs of key and value in rising key order, no entry equal to the table's default (log 1). -/
abbrev FMap (α : Type) := List (Nat × α)

/-- A memory addressed in bytes: `Host.Cell` pairs, an unlisted byte reads 0 (log 1). -/
abbrev Mem := FMap Byte

/-- An exact number without width limit, as the exact sums of R136 and R165 need: `m * 2^e`, an infinity, or a NaN; `inv` tells a NaN that an
invalid operation made from one that came in with an element or a scale (R126, R127, R161). -/
inductive XNum where
  | fin (m : Int) (e : Int)
  | inf (neg : Bool)
  | nan (inv : Bool)
deriving DecidableEq, Repr

end Sys2Proof
end

