-- ==== Sys2Proof/Syntax.lean ====
section
/-! DEFINITION. The commands of the block: one constructor for each row of spec/opcode_table.json, with the operands the model gives it
(the table gives none: log 6), and the types of those operands. -/

namespace Sys2Proof

/-- A logical core cluster.slot, numbered 12 * cluster + slot (R5, R108). -/
abbrev CoreId := Fin 192

/-- A fabric link (R308). -/
abbrev LinkId := Fin 16

/-- A sequence slot (R380). -/
abbrev SlotId := Fin 128

/-- The dictionary path a request takes (R425, R426). -/
inductive Path where
  | tributary
  | segment
deriving DecidableEq, Repr

/-- A place of memory that error correction names: a 64-bit granule of a scratchpad or pool, or a 1 KiB bed line, given as bed byte address
divided by 1,024 (R270, R275). -/
inductive MemLoc where
  | spad (c : CoreId) (granule : Nat)
  | pool (cl : Fin 16) (granule : Nat)
  | beds (line : Nat)
  | desc (c : CoreId) (granule : Nat)
  | vreg (c : CoreId) (granule : Nat)
  | sreg (c : CoreId) (granule : Nat)
  | acc (c : CoreId) (granule : Nat)
deriving DecidableEq, Repr

/-- What a scrub meets beside its place: whether a write reached the place before the write-back (R277, R278), and the bytes of the piece that a source
answers for a bad weight line (R275, R276). -/
structure ScrubRace where
  raced : Bool
  refetch : List (BitVec 8)
deriving DecidableEq, Repr

/-- Where a descriptor-bank write goes: bank B or A, the one that was inactive when it was sent (R103, R104), and the byte offset. -/
structure BankPlace where
  toB : Bool
  off : BitVec 32
deriving DecidableEq, Repr

/-- A memory with segment power gating (R280). -/
inductive SegUnit where
  | core (c : CoreId)
  | pool (cl : Fin 16)
deriving DecidableEq, Repr

/-- A control-network message as delivered (R299): source, destination, VC, the 46-bit operation field, the payload flits and the W-cycles the delivery
took. -/
structure CtlMsg where
  src : Fin 64
  dst : Fin 64
  vc : Fin 4
  op : BitVec 46
  flits : List (BitVec 64)
  wcycles : Nat
deriving DecidableEq, Repr

/-- A fabric packet: the head flit and 64 payload bytes (R315, R316). -/
structure Packet where
  head : BitVec 128 := 0
  data : List Byte := []
deriving DecidableEq, Repr

/-- A link frame: 16 data flits and the link control flit (R309), and how many symbols of it the FEC corrected on the way (Table 10-14). -/
structure Frame where
  flits : List (BitVec 128) := []
  ctl : BitVec 128 := 0
  fec : Nat := 0
deriving DecidableEq, Repr

/-- The header of a dictionary request (Table 13-7). -/
structure Pdu where
  typ : BitVec 16
  txn : BitVec 16
  index : BitVec 16
  sub : BitVec 8
  rsvd : BitVec 8
  offset : BitVec 32
  length : BitVec 32
deriving DecidableEq, Repr

/-- The commands of the block. -/
inductive Instr where
  /-- SYNC (R91): Sequencer operation that only waits on its flags and then issues its signals. -/
  | sync (c : CoreId)
  /-- SLI (R91): Sequencer operation that loads an immediate into a scalar register. -/
  | sli (c : CoreId)
  /-- SALU (R91): Sequencer scalar ALU operation on registers or an immediate, modulo 2^32. -/
  | salu (c : CoreId)
  /-- SLD (R91): Sequencer load of one scratchpad word into a scalar register, available from d + 6. -/
  | sld (c : CoreId)
  /-- SLOTMASK (R91): Sequencer operation that writes a bit mask of the slots of one quarter that are in a given state set. -/
  | slotmask (c : CoreId)
  /-- WEIR (R92): Sequencer operation that ends the core's dispatch for the step and checks its step index. -/
  | weir (c : CoreId)
  /-- BANKARM (R106): Sequencer operation that arms a descriptor-bank switch for the end of this step's Weir. -/
  | bankarm (c : CoreId)
  /-- QUEUE_FREE_DISPATCH (R97): A sequencer stalled on a full engine queue dispatches the held descriptor once a place frees. -/
  | queueFreeDispatch (c : CoreId)
  /-- ENGINE_START (R32): A queued operation starts once its engine is free and its waits are satisfied. -/
  | engineStart (c : CoreId) (e : Fin 16)
  /-- OPERATION_COMPLETE (R33): An operation's latency ends, its last results are written and its signal flags are issued. -/
  | operationComplete (c : CoreId) (e : Fin 16)
  /-- FLAG_SIGNAL_EFFECT (R87): Signals reach their target flag after the path latency and are combined with SET, SUB, ADD and clamping. -/
  | flagSignalEffect (c : CoreId) (f : Fin 64)
  /-- STREAM (R156): Matrix stream of M rows through the stationary tile into accumulator rows. -/
  | stream (c : CoreId) (a : Fin 4)
  /-- STLOAD (R579): Stationary load of a tile, its scales and outlier list into the shadow buffer. -/
  | stload (c : CoreId) (a : Fin 4)
  /-- SWAP (R154): Exchange of the active and shadow stationary buffers. -/
  | swap (c : CoreId) (a : Fin 4)
  /-- DRAIN (R163): Drain of accumulator rows through outlier sum, factor and conversion to scratchpad. -/
  | drain (c : CoreId) (a : Fin 4)
  /-- SNDLOAD (R172): Load of a Sounding reference plane into the sentinel buffer. -/
  | sndload (c : CoreId) (a : Fin 4)
  /-- SOUNDING_EVALUATE (R178): A pending Sounding sample is evaluated 24 S-cycles after its last spare-slot recomputation and updates the statistics. -/
  | soundingEvaluate (c : CoreId) (a : Fin 4)
  /-- VSETVL (R188): Vector operation that sets vl with clamping. -/
  | vsetvl (c : CoreId)
  /-- VINT (R199): Vector integer arithmetic, logic, shift or move operation. -/
  | vint (c : CoreId)
  /-- VCMP (R201): Vector comparison into a mask register. -/
  | vcmp (c : CoreId)
  /-- VMASK (R580): Vector mask logic operation on mask bits below vl. -/
  | vmask (c : CoreId)
  /-- VCVT (R205): Vector format conversion, including block encodes, decodes and splits. -/
  | vcvt (c : CoreId)
  /-- VLD (R208): Vector load from the own scratchpad into a register group. -/
  | vld (c : CoreId)
  /-- VST (R208): Vector store of a register group into the own scratchpad. -/
  | vst (c : CoreId)
  /-- VFLT (R200): Vector floating-point arithmetic. -/
  | vflt (c : CoreId)
  /-- VPERM (R204): Vector permute within each register. -/
  | vperm (c : CoreId)
  /-- VACC (R210): Vector accumulator view read of matrix accumulator rows. -/
  | vacc (c : CoreId)
  /-- VRCP (R202): Vector reciprocal or reciprocal square root. -/
  | vrcp (c : CoreId)
  /-- VEXP (R202): Vector exponential or logarithm base 2. -/
  | vexp (c : CoreId)
  /-- VDIV (R202): Vector divide or square root. -/
  | vdiv (c : CoreId)
  /-- VRED (R203): Vector cross-lane reduction by a fixed pairwise fold. -/
  | vred (c : CoreId)
  /-- SOFTMAX (R223): Online softmax of R rows with statistics output. -/
  | softmax (c : CoreId)
  /-- RMSNORM (R227): RMS normalisation of R rows. -/
  | rmsnorm (c : CoreId)
  /-- LAYERNORM (R227): Layer normalisation of R rows. -/
  | layernorm (c : CoreId)
  /-- ROTARY (R229): Rotary position encoding of R rows. -/
  | rotary (c : CoreId)
  /-- UNPACK (R231): Unpack of packed narrow, MX or ZB4 planes into wider elements. -/
  | unpack (c : CoreId)
  /-- SPLIT (R232): Split of BF16 or FP32 elements into one piece plane and its scales. -/
  | split (c : CoreId)
  /-- GATHER (R233): Adapter gather of the slot's pinned adapter bytes from the beds. -/
  | gather (c : CoreId)
  /-- SAMPLE (R241): Reproducible sampling of one token from a row of logits. -/
  | sample (c : CoreId)
  /-- VERIFY (R247): Verification of draft tokens against target tokens, with optional commit handover. -/
  | verify (c : CoreId)
  /-- COPY (R237): DMA copy between the own scratchpad and another scratchpad, pool, bed or descriptor bank. -/
  | copy (c : CoreId) (d : Fin 4)
  /-- FILL (R237): DMA fill of a destination with a scalar pattern. -/
  | fill (c : CoreId) (d : Fin 4)
  /-- TRD (R239): Read of entries from a Tributary input queue into the scratchpad. -/
  | trd (c : CoreId) (d : Fin 4)
  /-- TWR (R239): Append of entries from the scratchpad to a Tributary output queue. -/
  | twr (c : CoreId) (d : Fin 4)
  /-- SEND (R321): Fabric send of packets built from a path entry, handed to the router one per S-cycle. -/
  | send (c : CoreId) (d : Fin 4)
  /-- RECV (R326): Fabric receive on a queue half, due one S-cycle after start. -/
  | recv (c : CoreId) (d : Fin 4)
  /-- RECEIVE_COMPLETE (R37): The last counted packet lands in a receive window, completing a due receive and ending a cause-1 Eddy. -/
  | receiveComplete (c : CoreId) (d : Fin 4)
  /-- INJECTION_SPACE_FREE (R323): An injection buffer gains room for a blocked handoff, ending a cause-2 Eddy. -/
  | injectionSpaceFree (b : Fin 136)
  /-- TRIB_INPUT_ARRIVE (R46): A Tributary input entry arrives for a read that is waiting, ending a cause-3 Eddy. -/
  | tribInputArrive (q : Fin 128) (entry : List Byte)
  /-- TRIB_OUTPUT_SPACE (R46): The Tributary output buffer gains space for a blocked write, ending a cause-4 Eddy. -/
  | tribOutputSpace (n : Nat)
  /-- BANK_CONFLICT_SERVED (R257): A scratchpad bank conflict of m must-serve accesses is served one per W-cycle and the S-cycle begins. -/
  | bankConflictServed (c : CoreId) (m : Nat)
  /-- EDDY_LIMIT (R48): One Eddy lasts beyond the Eddy limit, raising fatal event 0x0202 and freezing the job. -/
  | eddyLimit
  /-- OXBOW_LIMIT (R100): A core's blocked count reaches the Oxbow limit, raising fatal event 0x0308. -/
  | oxbowLimit
  /-- WEIR_BEGIN (R304): The barrier unit samples the quiet tree true and the Weir of the step begins. -/
  | weirBegin
  /-- WEIR_END (R305): At the end of the Weir halts, bank switches, staged changes, remaps, frequency and credit are dealt with and the slot table applied. -/
  | weirEnd
  /-- STAGE_ACK (R437): A unit acknowledges a staging request on control VC 0. -/
  | stageAck (i : Nat)
  /-- STAGED_DISCARD (R439): A staged change not fully acknowledged within 100 µs is discarded. -/
  | stagedDiscard (i : Nat)
  /-- UNCORRECTABLE_READ (R271): A wide read finds an uncorrectable error and the chip enters a machine-check Eddy. -/
  | uncorrectableRead (m : MemLoc) (persistent : Bool)
  /-- REPLAY_READY (R275): After re-reads, rewrite or refetch, the replay is ready and the step restarts at its first S-cycle. -/
  | replayReady (refetch : List Byte)
  /-- UNCORRECTABLE_OUTSIDE (R276): An uncorrectable error is found outside the schedule and bed lines are handled at once. -/
  | uncorrectableOutside (m : MemLoc) (refetch : List Byte)
  /-- SCRUB_LINE (R277): A bed stack or memory scrubs its next line or granule in a free cycle. -/
  | scrubLine (m : MemLoc) (corrected : Nat) (race : ScrubRace)
  /-- SCRUB_OVERRUN (R279): A scrub pass overruns its period and raises event 0x080A. -/
  | scrubOverrun
  /-- SEGMENT_MASK_WRITE (R281): A write to a scratchpad or pool segment power mask, applied at once or staged. -/
  | segmentMaskWrite (p : Path) (u : SegUnit) (mask : BitVec 8)
  /-- SEGMENT_POWER_DOWN_DONE (R282): A segment's in-flight write count reaches 0 and its power-down completes and acknowledges. -/
  | segmentPowerDownDone (u : SegUnit) (i : Fin 8)
  /-- SEGMENT_POWER_UP_DONE (R283): A powered-up segment finishes clearing and acknowledges. -/
  | segmentPowerUpDone (u : SegUnit) (i : Fin 8)
  /-- PARTITION_WRITE (R264): A write to a bed partition entry, checked for overrun, overlap and repeated type. -/
  | partitionWrite (p : Path) (i : Fin 8) (v : BitVec 64)
  /-- FLUSH_ONDIE_DONE (R285): The on-die part of the Flush completes. -/
  | flushOndieDone
  /-- FLUSH_COMPLETE (R286): Both parts of the Flush complete and the device enters STANDBY. -/
  | flushComplete
  /-- CONTROL_MESSAGE (R299): A control-network message is delivered to its destination node. -/
  | controlMessage (m : CtlMsg)
  /-- LOAD (R434): Command 0x01 zeroes the image and placement buffers and enters LOADING. -/
  | load (p : Path)
  /-- IMAGE_WRITE (R578): A write of image bytes through 0x1811:00 in LOADING. -/
  | imageWrite (p : Path) (off : BitVec 32) (data : List Byte)
  /-- PLACEMENT_WRITE (R60): A write of placement-block bytes through 0x1812:00 in LOADING. -/
  | placementWrite (p : Path) (off : BitVec 32) (data : List Byte)
  /-- ACCEPT (R61): Command 0x02 runs the acceptance procedure and enters READY or STANDBY. -/
  | accept (p : Path)
  /-- UNLOAD (R434): Command 0x03 zeroes the image and descriptor regions and returns to STANDBY. -/
  | unload (p : Path)
  /-- RUN (R11): Command 0x04 starts a job from READY or reopens admission from DRAINING. -/
  | run (p : Path)
  /-- JOB_START (R473): S-cycle 0 of a job begins at the first µs boundary at which credit covers step 0. -/
  | jobStart
  /-- DRAIN_CMD (R434): Command 0x05 closes admission and enters DRAINING. -/
  | drainCmd (p : Path)
  /-- KILL (R284): Command 0x06 ends the job at once and starts the Flush. -/
  | kill (p : Path)
  /-- KILL_WEIGHTS (R284): Command 0x07 kills the job and also zeroes the weight partitions. -/
  | killWeights (p : Path)
  /-- SLEEP (R477): Command 0x08 enters SLACKWATER. -/
  | sleep (p : Path)
  /-- WAKE (R478): Command 0x09 starts a wake from SLACKWATER. -/
  | wake (p : Path)
  /-- WAKE_COMPLETE (R478): The wake phases finish and the device returns to its pre-sleep state. -/
  | wakeComplete (bad : List MemLoc)
  /-- SLEEP_REQ_ASSERT (R566): The board asserts SLEEP_REQ_N, entering SLACKWATER or pending until STANDBY or READY. -/
  | sleepReqAssert
  /-- SLEEP_REQ_RELEASE (R478): The board releases SLEEP_REQ_N and the device wakes. -/
  | sleepReqRelease
  /-- BANK_WRITE (R103): A write into a core's inactive descriptor bank through 0x2032. -/
  | bankWrite (p : Path) (c : CoreId) (place : BankPlace) (data : List Byte)
  /-- BANK_SEAL (R105): A write of 1 to 0x2033 seals the inactive descriptor bank. -/
  | bankSeal (p : Path) (c : CoreId)
  /-- BANK_SEAL_SWITCH (R106): A write of 2 to 0x2033 seals the bank and stages a switch. -/
  | bankSealSwitch (p : Path) (c : CoreId)
  /-- PATH_BANK_WRITE (R339): A write into the inactive path-table bank through 0x4020. -/
  | pathBankWrite (p : Path) (off : BitVec 32) (data : List Byte)
  /-- PATH_BANK_SEAL (R340): A write of 1 to 0x4021 seals the inactive path-table bank. -/
  | pathBankSeal (p : Path)
  /-- PATH_BANK_SEAL_SWITCH (R339): A write of 2 to 0x4021 seals the path table and switches at once or staged. -/
  | pathBankSealSwitch (p : Path)
  /-- LINK_FRAME_RECEIVE (R310): A link frame is received and taken or discarded, acting on ACK, NAK and XOFF. -/
  | linkFrameReceive (l : LinkId) (f : Frame)
  /-- LINK_ENABLE (R312): ENABLE written 1 starts link training. -/
  | linkEnable (p : Path) (l : LinkId) (v : BitVec 32)
  /-- LINK_DISABLE (R312): ENABLE written 0 drops queued packets and turns the link off. -/
  | linkDisable (p : Path) (l : LinkId) (v : BitVec 32)
  /-- LINK_RETRAIN (R313): RETRAIN written 1 retrains the link. -/
  | linkRetrain (p : Path) (l : LinkId) (v : BitVec 32)
  /-- LINK_FAULT (R312): Loss of lock, high symbol-error rate or 16 resends makes an up link retrain. -/
  | linkFault (l : LinkId) (bad : BitVec 8)
  /-- LINK_TRAINED (R312): Both ends lock and the link enters UP8 or UP4. -/
  | linkTrained (l : LinkId) (bad : BitVec 8) (delay : Nat)
  /-- LINK_TRAIN_TIMEOUT (R312): A link not up 20 ms after training starts enters FAILED. -/
  | linkTrainTimeout (l : LinkId)
  /-- PACKET_ARRIVE (R317): A packet enters a chip and is forwarded, dropped, written to a queue, fanned out or reduced. -/
  | packetArrive (l : LinkId) (pk : Packet)
  /-- LOCAL_ROUTE_DELIVER (R323): A packet leaves a local-route injection buffer and is handled as an arrival. -/
  | localRouteDeliver (set2 : Bool) (v : Fin 8)
  /-- REDUCE_PLACE_FREE (R333): A group place frees and a waiting reduce contribution takes it. -/
  | reducePlaceFree
  /-- GATE_WRITE (R341): A write to a link gate closes or opens traffic classes. -/
  | gateWrite (p : Path) (l : LinkId) (v : BitVec 8)
  /-- CLASS_DRAINED (R341): A closed class has no flit left for the link and its drained bit sets. -/
  | classDrained (l : LinkId) (tc : Fin 4)
  /-- DRAIN_TIMEOUT (R341): A closed class is not drained 10 ms after closing. -/
  | drainTimeout (l : LinkId) (tc : Fin 4)
  /-- BEACON_SEND (R343): Every 100 µs the beacon root sends a beacon on its child links. -/
  | beaconSend
  /-- BEACON_RECEIVE (R343): A follower takes a beacon from its parent link, corrects its time and forwards. -/
  | beaconReceive (l : LinkId) (t : BitVec 64)
  /-- BEACON_TIMEOUT (R344): A follower receives no beacon for 10 ms. -/
  | beaconTimeout
  /-- INTAKE_HEADER (R357): An intake header packet opens a piece or abandons the open one. -/
  | intakeHeader (st : Fin 8) (payload : List Byte)
  /-- INTAKE_DATA (R357): An intake data packet is written and hashed, or abandons the piece. -/
  | intakeData (st : Fin 8) (tag : Nat) (payload : List Byte)
  /-- TRIB_PIECE_WRITE (R356): A whole piece written through the Tributary port, relayed if enabled. -/
  | tribPieceWrite (data : List Byte)
  /-- PIECE_HASH_COMPLETE (R358): The hash of a fully written piece finishes and it becomes VALID or BAD. -/
  | pieceHashComplete (i : Nat)
  /-- SOURCE_REQUEST (R361): After the quiet time the chip requests missing pieces from its sources. -/
  | sourceRequest
  /-- PIECE_REQUEST (R363): A source receives a piece request and serves each piece or a STATUS 1 header. -/
  | pieceRequest (payload : List Byte)
  /-- RESCAN_PIECE (R366): A VALID piece is hashed again and becomes BAD if it fails. -/
  | rescanPiece (i : Nat)
  /-- RESCAN_OVERRUN (R366): A rescan pass overruns its period. -/
  | rescanOverrun
  /-- SWAP_IMAGE_WRITE (R369): A write of swap image bytes through 0x3070:01 in RUNNING. -/
  | swapImageWrite (p : Path) (off : BitVec 32) (data : List Byte)
  /-- SWAP_STAGE (R369): A write of 1 to 0x3071 checks and stages the swap image. -/
  | swapStage (p : Path)
  /-- SWAP_CANCEL (R371): A write of 0 to 0x3071 cancels a staged or armed swap. -/
  | swapCancel (p : Path)
  /-- RELEASE_STEP_WRITE (R372): A write of the release step arms the swap. -/
  | releaseStepWrite (p : Path) (v : BitVec 64)
  /-- SWAP_FILL_LIMIT (R374): A swap stays in FILLING for the fill limit and raises event 0x0B07. -/
  | swapFillLimit
  /-- SWAP_READY_NOTICE (R373): The entry chip counts a swap-ready notice and opens admission at the expected count. -/
  | swapReadyNotice
  /-- SERVING_REQUEST (R393): A request message arrives at the entry chip and is refused or stored. -/
  | servingRequest (msg : List Byte)
  /-- END_REQUEST (R406): An end request withdraws a waiting request or queues an END change. -/
  | endRequest (msg : List Byte)
  /-- PARK_LIMIT (R411): A slot PARKED for the park limit is ended with BUDGET. -/
  | parkLimit (sl : SlotId)
  /-- BUDGET_ADD (R410): A write to 0x5210:03 adds to the selected tenant's budget. -/
  | budgetAdd (p : Path) (v : BitVec 64)
  /-- CUT_STEP_WRITE (R405): A write of the cut step on the entry chip schedules a swap cut. -/
  | cutStepWrite (p : Path) (v : BitVec 64)
  /-- ADAPTER_ALLOC (R408): A write to 0x5320:01 requests an adapter slot for an ID. -/
  | adapterAlloc (p : Path) (id : BitVec 32)
  /-- ADAPTER_DATA_WRITE (R408): A write of adapter data into a FILLING slot. -/
  | adapterDataWrite (p : Path) (off : BitVec 32) (data : List Byte)
  /-- ADAPTER_DIGEST_WRITE (R408): A write of the adapter digest starts the check of the slot data. -/
  | adapterDigestWrite (p : Path) (digest : List Byte)
  /-- ADAPTER_VERIFIED (R408): The adapter check completes and a matching slot becomes VERIFIED. -/
  | adapterVerified (a : Fin 1024)
  /-- ADAPTER_PUBLISH (R408): A write to 0x5320:04 publishes a VERIFIED adapter slot. -/
  | adapterPublish (p : Path) (v : BitVec 16)
  /-- ADAPTER_WITHDRAW (R408): A write to 0x5320:05 withdraws a READY adapter slot. -/
  | adapterWithdraw (p : Path) (v : BitVec 16)
  /-- RELEASE_OF_RESET (R560): RESET_N and PWRGOOD both go high and boot phases 1 and 2 run. -/
  | releaseOfReset (segaddr : Fin 8)
  /-- RESET_ASSERT (R563): Reset is asserted or a rail is lost and the main die stops in OFF. -/
  | resetAssert (resetN : Bool) (pwrgood : Bool)
  /-- FIRMWARE_WRITE (R417): A write of firmware bytes through 0x1820 in BOOT. -/
  | firmwareWrite (p : Path) (off : BitVec 32) (data : List Byte)
  /-- FIRMWARE_START (R417): A write of 1 to 0x1821 checks, measures and starts the firmware. -/
  | firmwareStart (p : Path)
  /-- CONFIG_WRITE (R419): A write of configuration bytes through 0x1830 in BOOT. -/
  | configWrite (p : Path) (off : BitVec 32) (data : List Byte)
  /-- CONFIG_APPLY (R417): A write of 1 to 0x1831 checks and applies the configuration. -/
  | configApply (p : Path)
  /-- BOOT_COMPLETE (R417): Boot phase 4 completes and the device enters STANDBY. -/
  | bootComplete
  /-- BOOT_WAIT_TIMEOUT (R418): Phase 3 or 4 has not begun 60 s after phase 2, raising event 0x0D05. -/
  | bootWaitTimeout
  /-- OD_READ (R425): A dictionary read PDU is checked and answered with data. -/
  | odRead (p : Path) (h : Pdu)
  /-- OD_WRITE (R430): A dictionary write PDU to an object without a row of its own is checked, clamped, applied or staged. -/
  | odWrite (p : Path) (h : Pdu) (data : List Byte)
  /-- OD_DESCRIBE (R425): A describe PDU returns an object's type, access, size and limits. -/
  | odDescribe (p : Path) (h : Pdu)
  /-- CLAIM (R446): A read of CLAIM returns and activates the highest-priority deliverable source. -/
  | claim (h : Fin 4)
  /-- COMPLETE (R446): A write to COMPLETE ends the service of an active source. -/
  | complete (h : Fin 4) (src : Fin 256)
  /-- ISWSET (R444): A write to ISWSET sets firmware inputs of group 14. -/
  | iswset (v : BitVec 32)
  /-- HOLDOFF_EXPIRE (R447): A held-off source becomes deliverable once the hold-off time passes. -/
  | holdoffExpire (src : Fin 256)
  /-- REFERENCE_LOST (R457): Loss of the reference clock is detected and the PLLs switch to holdover. -/
  | referenceLost
  /-- HOLDOVER_LONG (R458): Holdover lasts 1 s and raises event 0x0E03. -/
  | holdoverLong
  /-- REFERENCE_RESTORED (R459): The reference is present for 1 ms and the PLLs slew back to it. -/
  | referenceRestored
  /-- MONITOR_SAMPLE (R460): Every µs each monitor measures supply, temperature and margin and forms its allowance. -/
  | monitorSample (m : Nat) (mv : Nat) (tempC : Int) (margin : Nat)
  /-- DROOP_CLEAR (R464): A tripped monitor's supply recovers and cause 10 ends after 4 W-cycles. -/
  | droopClear (m : Nat)
  /-- FREQUENCY_EVAL_IDLE (R463): Every 100 µs outside a running schedule the frequency F is formed and changed at once. -/
  | frequencyEvalIdle
  /-- CLOCK_CHANGE_DONE (R463): The channel clock is stable at the new frequency and cause 8 ends. -/
  | clockChangeDone
  /-- THERMAL_TRIP (R466): A critical temperature or THERMTRIP_N drops the clock to 900 MHz and halts a job. -/
  | thermalTrip (asserted : Bool)
  /-- PG_WARN_EDGE (R468): An edge of PG_WARN_N switches the ledger between sustained and warning limits. -/
  | pgWarnEdge (asserted : Bool)
  /-- LEDGER_UPDATE (R470): At every µs boundary the ledger adds the limit and subtracts metered energy. -/
  | ledgerUpdate (metered : Nat) (railMv : Nat)
  /-- METER_CALIBRATION (R469): Every 60 s the meter calibrates against its on-package references. -/
  | meterCalibration (ok : Bool)
  /-- IDLE_FEED (R475): Every 1 ms outside RUNNING and DRAINING the ledger sends an IDLE feed record. -/
  | idleFeed
  /-- FENCE_REQUEST (R485): A write to 0x2102 requests a fence of a physical core position. -/
  | fenceRequest (p : Path) (v : BitVec 16)
  /-- SPARE_READY (R485): A spare finishes preparation and the remap is armed. -/
  | spareReady (cl : Fin 16) (de : Bool)
  /-- REMAP_COMPLETE (R486): The copy to the spare and the port switch complete and cause 7 ends. -/
  | remapComplete
  /-- REMAP_TIMEOUT (R488): A remap not complete within 40 µs raises fatal event 0x0F0B. -/
  | remapTimeout
  /-- ROW_REPAIR_COPY_DONE (R492): The copy of a repaired bed row ends and reads are redirected to the spare row. -/
  | rowRepairCopyDone (stack : Fin 16) (tier : Fin 8) (row : Nat)
  /-- STACK_FENCE_REQUEST (R495): A write to 0x3094 requests a stack fence. -/
  | stackFenceRequest (p : Path) (v : BitVec 16)
  /-- WATCHDOG_EXPIRE (R499): An active hart's watchdog expires and a standby hart takes its role. -/
  | watchdogExpire (h : Fin 4)
  /-- FW_UPDATE_WRITE (R501): A write of firmware into the bank that does not run through 0x1823. -/
  | fwUpdateWrite (p : Path) (off : BitVec 32) (data : List Byte)
  /-- FW_UPDATE_CANCEL (R501): A write of 0 to 0x1824 discards the update bank. -/
  | fwUpdateCancel (p : Path)
  /-- FW_UPDATE_CHECK (R501): A write of 1 to 0x1824 checks and measures the new firmware. -/
  | fwUpdateCheck (p : Path)
  /-- FW_UPDATE_SWITCH (R501): A write of 2 to 0x1824 hands the roles to harts on the new bank. -/
  | fwUpdateSwitch (p : Path)
  /-- FW_UPDATE_CONFIRM (R501): A write of 3 to 0x1824 confirms the new bank. -/
  | fwUpdateConfirm (p : Path)
  /-- FW_TRIAL_TIMEOUT (R501): 60 s of trial pass without a watchdog expiry and the new bank is kept. -/
  | fwTrialTimeout
  /-- QUOTE_REQUEST (R513): A nonce write to 0x8020 snapshots the registers and starts a quote. -/
  | quoteRequest (p : Path) (nonce : List Byte)
  /-- QUOTE_SIGNED (R514): The trust block finishes signing the quote and sets its status to ready. -/
  | quoteSigned
  /-- IDENT_SEND (R519): Every 1 s the trust block sends an IDENT feed record. -/
  | identSend
  /-- GAUGE_POWER_UP (R518): The Gauge supply comes up and the Gauge starts a new epoch. -/
  | gaugePowerUp
  /-- FEED_RECORD (R521): The Gauge receives a feed record, checks it and counts it into the interval. -/
  | feedRecord (rec : List Byte)
  /-- GAUGE_INTERVAL_CLOSE (R524): 60,000 ms after the last close the Gauge closes its interval. -/
  | gaugeIntervalClose (g : Nat) (selfOk : Bool)
  /-- GAUGE_CLOSE_REQUEST (R524): A write of 1 to 0x9030 at the Gauge node closes the interval early. -/
  | gaugeCloseRequest (v : BitVec 8) (g : Nat) (selfOk : Bool)
  /-- STATEMENT_SIGNED (R524): The Gauge finishes signing a statement and stores it. -/
  | statementSigned
  /-- GAUGE_MIRROR (R527): Hart 1 copies the Gauge objects and checks new statements. -/
  | gaugeMirror (answers : Bool)
  /-- EVENT_RECORD_STORE (R532): An event record's last message arrives and the recorder stores it, freeing older records if needed. -/
  | eventRecordStore (node : Fin 64)
  /-- CURSOR_WRITE (R534): A write to a recorder cursor latches that path's window. -/
  | cursorWrite (p : Path) (v : BitVec 64)
  /-- DEBUG_HALT (R544): Debug command 1 halts at the next S-cycle boundary. -/
  | debugHalt (p : Path)
  /-- DEBUG_HALT_AT_WEIR (R544): Debug command 2 halts at the end of the next Weir. -/
  | debugHaltAtWeir (p : Path)
  /-- DEBUG_RESUME (R544): Debug command 3 resumes a debug-halted job. -/
  | debugResume (p : Path)
  /-- DEBUG_STEP (R544): Debug command 4 runs the step count of S-cycles and halts. -/
  | debugStep (p : Path)
  /-- DEBUG_RUN_TO_WEIR (R544): Debug command 5 runs to the end of the next Weir and halts. -/
  | debugRunToWeir (p : Path)
  /-- BREAK (R545): An armed break on a step, S-cycle or event ID fires and halts as a debug halt. -/
  | brk (k : Fin 3)
  /-- DEBUG_WRITE (R547): A write of debug data to a target in HALTED, recorded as DEBUGW. -/
  | debugWrite (p : Path) (off : BitVec 32) (data : List Byte)
  /-- EXTEST (R549): JTAG instruction for boundary test, effective only in OFF with reset asserted. -/
  | extest (cells : BitVec 13)
  /-- IDCODE (R548): JTAG instruction that returns the device identification code. -/
  | idcode
  /-- SAMPLE_PRELOAD (R548): JTAG instruction that samples or preloads the boundary-scan register. -/
  | samplePreload (cells : BitVec 13)
  /-- DTMCS (R551): JTAG access to the RISC-V debug transport control. -/
  | dtmcs (v : BitVec 32)
  /-- DMI (R551): JTAG access to the RISC-V debug module interface. -/
  | dmi (v : BitVec 41)
  /-- CDBG (R548): JTAG hardware debug command of Table 17-6 and halt-state capture. -/
  | cdbg (v : BitVec 32)
  /-- CMEM (R548): JTAG hardware read or write of a scratchpad or pool word. -/
  | cmem (v : BitVec 64)
  /-- BYPASS (R548): JTAG bypass instruction, also taken by unlisted codes. -/
  | bypass (tdi : Bool)
  /-- GAUGE_SUPPLY_LOSS (R518): The Gauge supply falls and the Gauge stops, losing every count since its last signed statement. -/
  | gaugeSupplyLoss
  /-- GAUGE_REFERENCE_LOST (R517): The reference clock at the Gauge's own input disappears, its oscillator runs free within ±200 ppm and the current statement's FLAGS[0] is set. -/
  | gaugeReferenceLost
  /-- GAUGE_REFERENCE_RESTORED (R517): The reference clock returns at the Gauge's input and the Gauge oscillator is disciplined to it again. -/
  | gaugeReferenceRestored
  /-- TEST_LOGIC_RESET (R550): The JTAG TAP passes Test-Logic-Reset, by TRST_N low or by TMS, ending the debug session so that the next debug shift opens a new one. -/
  | testLogicReset
  /-- CROSSING_OUT_OF_BOUND (R454): A clock-domain crossing's pointer separation leaves its latency bound and event 0x0E0D is raised, pending realignment. -/
  | crossingOutOfBound (x : Fin 4)
deriving DecidableEq, Repr

end Sys2Proof
end

