-- ==== Sys2Proof/Machine/State.lean ====
section
/-! DEFINITION. The state of the block as plain data: every register, buffer, counter, mode and pin the spec gives it, its reset value, and
the reasons a step can stop. INVENTORY.md lists each field with its rule. -/

namespace Sys2Proof.Machine

/-- Reasons a command faults. -/
inductive Fault where
  /-- A command names a monitor that the chip does not have (R460: 64 monitors). Raised by MONITOR_SAMPLE and DROOP_CLEAR. Safe: the hardware
  has no such unit. -/
  | noSuchUnit (n : Nat)
deriving DecidableEq, Repr

/-- Reasons a command is refused. -/
inductive Refusal where
  /-- The command has no meaning in the model yet. Raised by no meaning. Safe. -/
  | notModelled (mnemonic : String)
deriving DecidableEq, Repr

/-- Type tag of an accumulator row (R159). -/
inductive AccTag where
  | zero | int32 | fp32
deriving DecidableEq, Repr

/-- State of an inactive bank (R103, R339). -/
inductive BankState where
  | empty | filling | valid | spent
deriving DecidableEq, Repr

/-- Device states (Table 0-2). -/
inductive DevState where
  | off | boot | standby | loading | ready | running | draining | slackwater | halted
deriving DecidableEq, Repr

/-- Link states (Table 10-3). -/
inductive LinkState where
  | off | training | up8 | up4 | failed
deriving DecidableEq, Repr

/-- Piece states (Table 11-1). -/
inductive PieceState where
  | none | absent | filling | valid | bad
deriving DecidableEq, Repr

/-- Swap states (Table 11-8). -/
inductive SwapState where
  | idle | staged | armed | filling | switching | done
deriving DecidableEq, Repr

/-- Slot states (Table 12-2). -/
inductive SlotState where
  | free | prefill | decode | parked | ending
deriving DecidableEq, Repr

/-- Adapter-slot states (R407). -/
inductive AdapterState where
  | free | filling | verified | ready | retiring | broken
deriving DecidableEq, Repr

/-- Firmware update states (Table 15-6). -/
inductive UpdState where
  | idle | filling | checked | trial
deriving DecidableEq, Repr

/-- What a staged change changes (R436). -/
inductive StageKind where
  | numctl (c : Nat) (v : BitVec 32)
  | segment (u : SegUnit) (mask : BitVec 8)
  | bankSwitch (c : Nat)
  | pathSwitch
  | swapSwitch
deriving DecidableEq, Repr

/-- Payload of a feed record (Table 16-4). -/
inductive FeedBody where
  | ident (digest : List Byte) (stepping : Nat)
  | step (n : Nat) (energy : Nat) (merged : Nat) (tenants : List Nat)
  | idle (energy : Nat)
  | commit (n : Nat) (pairs : List (Nat × Nat))
deriving DecidableEq, Repr

/-- A scalar register write to come: a word read by SLD, or a scalar result of an engine (R90, R91, R198). -/
structure SldPend where
  rd : Nat
  value : BitVec 32
  atS : Nat
  /-- R90: the writer, 0 the sequencer, 1 + engine code otherwise; reset -. -/
  eng : Nat := 0
deriving DecidableEq, Repr

/-- A signal issued and not yet in effect (R86, R87): op 1 ADD, 2 SUB, 3 SET; `srcEng` 0 is the sequencer, 1 + engine code otherwise. -/
structure Signal where
  due : Nat
  core : Nat
  flag : Nat
  op : Nat
  value : Nat
  srcCore : Nat
  srcEng : Nat
deriving DecidableEq, Repr

/-- A half-open span of byte offsets that has been written. -/
structure Span where
  lo : Nat
  hi : Nat
deriving DecidableEq, Repr

/-- A pending decode pass (Table 12-2 `PEND`): entry step and rows; `probe` marks a probe pass (R403). -/
structure PendPass where
  step : Nat
  rows : Nat
  probe : Bool
deriving DecidableEq, Repr

/-- A stationary tile or sentinel plane of a matrix array (R145, R148, R172). -/
structure Tile where
  /-- R148, R167: 5-bit format code (Table 4-1); reset 0x05 INT8 (R167). -/
  fmt : Nat := 5
  /-- R145, R146: 8,192/4,096 bytes element plane; reset zero (R167). -/
  elems : Mem := []
  /-- R148: 512/256 bytes scale plane; reset zero (R167). -/
  scales : Mem := []
  /-- R166, 04 R121: outlier entries, 32 bits each; reset empty (R167). -/
  outl : List (BitVec 32) := []
  /-- R167, R172: 1 bit: sentinel plane loaded; reset not loaded (R167). -/
  loaded : Bool := false
  /-- R155: S-cycle at which the last load signals; reset 0. -/
  readyAt : Nat := 0
deriving DecidableEq, Repr

/-- The Sounding capture buffer's sample (R170, R171, R177). -/
structure Capture where
  /-- R170: c x 64 production values, FP32; reset empty (R167). -/
  prod : List (BitVec 32) := []
  /-- R170: captured streamed element bytes of the sub-tile, one list a row; reset empty. -/
  rows : List (List Byte) := []
  /-- R170: captured streamed scale bytes, one list a row; reset empty. -/
  scales : List (List Byte) := []
  /-- R170: streamed format code; reset 0x05. -/
  sfmt : Nat := 5
  /-- R177: first S-cycle at which recomputation may begin (the stream's occupancy has ended); reset 0. -/
  startS : Nat := 0
  /-- R177: recomputations not made yet (rows x passes); reset 0. -/
  left : Nat := 0
  /-- R177: S-cycle of the evaluation (24 after the last recomputation); reset 0. -/
  evalAt : Nat := 0
  /-- R170: valid rows that the sample captures in all, c; reset 0. -/
  want : Nat := 0
deriving DecidableEq, Repr

/-- Sounding record and window of one array (Table 5-7, R169, R178). -/
structure Sounding where
  /-- R169: count of marked streams; reset 0 at the start of a job (R169). -/
  streams : Nat := 0
  /-- R182 Table 5-7: U32; reset 0 (R182). -/
  samples : Nat := 0
  /-- R182 Table 5-7: U32; reset 0 (R182). -/
  missed : Nat := 0
  /-- R182 Table 5-7: U32; reset 0 (R182). -/
  nonfinite : Nat := 0
  /-- R182 Table 5-7: U32; reset 0 (R182). -/
  zeroref : Nat := 0
  /-- R182 Table 5-7: U32; reset 0 (R182). -/
  warn : Nat := 0
  /-- R182 Table 5-7: U32; reset 0 (R182). -/
  alarm : Nat := 0
  /-- R182 Table 5-7: F32; reset 0 (R182). -/
  ermsSum : BitVec 32 := 0
  /-- R182 Table 5-7: F32; reset 0 (R182). -/
  ermsMax : BitVec 32 := 0
  /-- R182 Table 5-7: F32; reset 0 (R182). -/
  ermsLast : BitVec 32 := 0
  /-- R182 Table 5-7: F32; reset 0 (R182). -/
  biasWin : BitVec 32 := 0
  /-- R182 Table 5-7: U32; reset 0 (R182). -/
  biasAlarm : Nat := 0
  /-- R178: F32 window sum of b; reset 0 (R182). -/
  winSum : BitVec 32 := 0
  /-- R178: samples in the window; reset 0 (R182). -/
  winN : Nat := 0
deriving DecidableEq, Repr

/-- One matrix array (R145, R159, R172). -/
structure MxArray where
  /-- R154: active stationary buffer; reset zero, INT8 (R167). -/
  active : Tile := {}
  /-- R148: shadow stationary buffer; reset zero, INT8 (R167). -/
  shadow : Tile := {}
  /-- R159: accumulator store 1,024 x 64 x 32 bits, key 64*row+column; reset zero (R167). -/
  acc : FMap (BitVec 32) := []
  /-- R159: type tag per accumulator row; reset tag 0 (R167). -/
  tags : FMap AccTag := []
  /-- R165: exact outlier sum per row and column, key 64*row+column; reset zero (R167). -/
  osum : FMap XNum := []
  /-- R172: sentinel plane 0; reset zero, not loaded (R167). -/
  plane0 : Tile := {}
  /-- R172: sentinel plane 1; reset zero, not loaded (R167). -/
  plane1 : Tile := {}
  /-- R171: capture buffer, one sample; reset empty (R167). -/
  capture : Option Capture := none
  /-- R182: Sounding statistics; reset zero (R182). -/
  snd : Sounding := {}
  /-- R270: granules of the accumulator store (two columns of a row, 32 × row + column / 2) with an uncorrectable error; reset none. -/
  bad : FMap Bool := []
deriving DecidableEq, Repr

/-- A descriptor in an engine queue, dispatched and not started (R96). -/
structure QItem where
  /-- R69: descriptor; reset -. -/
  desc : BitVec 512 := 0
  /-- R66: place in its bank; reset -. -/
  place : Nat := 0
  /-- R110: bank it came from; reset -. -/
  bankB : Bool := false
  /-- R32: S-cycle of dispatch; reset -. -/
  dispS : Nat := 0
deriving DecidableEq, Repr

/-- Bytes that an operation has read and not used yet (R258): which of its reads they belong to, and where they lie. -/
structure Piece where
  /-- R258: row, chunk or pass that reads them; reset -. -/
  key : Nat := 0
  /-- R258: byte address in the memory of its operand; reset -. -/
  addr : Nat := 0
  /-- R258: the bytes as they stood at the start of the S-cycle of the read; reset -. -/
  bytes : List Byte := []
deriving DecidableEq, Repr

/-- An operation that has started and not completed (R33). -/
structure RunOp where
  /-- R71: engine code; reset -. -/
  eng : Nat := 0
  /-- R96: its descriptor; reset -. -/
  item : QItem := {}
  /-- R32: S-cycle t of the start; reset -. -/
  startS : Nat := 0
  /-- R33: occupancy; reset -. -/
  occ : Nat := 0
  /-- R33, R42: latency, pads included; reset -. -/
  lat : Nat := 0
  /-- R90: scalars s0-s31 read in the start S-cycle; reset -. -/
  sregs : List (BitVec 32) := []
  /-- R188: vl read in the start S-cycle; reset -. -/
  vl : Nat := 0
  /-- R33: its whole effect has been performed (log 5); reset -. -/
  done : Bool := false
  /-- R37, 10 R326: RECV: the receive is complete; reset -. -/
  recvOk : Bool := false
  /-- R321, 07 R239: packets handed over or queue entries moved so far (one per S-cycle from t); of a `GATHER`, 1 more than
  the adapter slot that it reads, 0 for zeros (R234); reset -. -/
  prog : Nat := 0
  /-- R238: DMA completion status 0-3; reset -. -/
  status : Nat := 0
  /-- R239: TRD: the entries taken so far; reset -. -/
  got : List Byte := []
  /-- R258: S-cycles of its latency that have been performed (log 5); reset 0. -/
  ticks : Nat := 0
  /-- R12: its result is undefined; reset 0. -/
  bad : Bool := false
  /-- R76: the bank of a type 0x5 target that was inactive in its start S-cycle; reset -. -/
  bk : Bool := false
  /-- R117, R122: the event that it raises once has been raised; reset 0. -/
  told : Bool := false
  /-- R258: bytes of its operands read and not used yet; reset none. -/
  pieces : List Piece := []
  /-- R196: vector registers read so far, laid out as the register file; reset none. -/
  vreg : Mem := []
  /-- R196: the masks, read in the start S-cycle; reset none. -/
  mreg : FMap Bool := []
  /-- R152, R163, R210: the active tile at the start, and accumulator rows read so far; reset none. -/
  arr : MxArray := {}
deriving DecidableEq, Repr

/-- The scrub pass of one scratchpad or pool (R278, R279). -/
structure Scrub where
  /-- R279: next granule of the present pass; reset 0. -/
  next : Nat := 0
  /-- R279: tick at which the present pass began; reset 0. -/
  since : Nat := 0
  /-- R279: the overrun of this pass was reported; reset 0. -/
  late : Bool := false
deriving DecidableEq, Repr

/-- One logical core (R5, R16): its sequencer, flags, registers, descriptor banks, engines and scratchpad. -/
structure Core where
  /-- R251: 4 MiB (PF) / 1 MiB (DE) scratchpad, byte addressed; reset zero (13 R417 phase 4). -/
  spad : Mem := []
  /-- R270: granules (64 bits) holding an uncorrectable error, key = granule; reset none. -/
  bad : FMap Bool := []
  /-- R270: granules with an uncorrectable error in the other stores, key = granule + 2^24 × kind (0 descriptor stores, A then B, 1 vector
  registers, 2 scalar registers); reset none. -/
  badX : FMap Bool := []
  /-- R275: step-write bit per granule; reset 0. -/
  wrote : FMap Bool := []
  /-- R280: 0x2090:n segment power mask; reset 0xFF (R280). -/
  segMask : BitVec 8 := 255
  /-- R282: segments whose power-down has begun and not completed; reset 0. -/
  segDown : BitVec 8 := 0
  /-- R287: 0x2091:n U32; reset 0. -/
  corr : Nat := 0
  /-- R287: 0x2092:n U32; reset 0. -/
  uncorr : Nat := 0
  /-- R484: corrected errors in the present hour; reset 0. -/
  corrHour : Nat := 0
  /-- R278, R279: the scrub pass of the scratchpad; reset line 0. -/
  scrub : Scrub := {}
  /-- R66: descriptor bank A, 135,168 bytes; reset zero (R417). -/
  bankA : Mem := []
  /-- R66: descriptor bank B, 135,168 bytes; reset zero (R417). -/
  bankB : Mem := []
  /-- R66, R68: 0x2030:n active bank; reset A (R68 at acceptance; before it DESIGN CHOICE A, log 7). -/
  activeB : Bool := false
  /-- R103: 0x2031:n state of the inactive bank; reset EMPTY (R68 at acceptance; before it DESIGN CHOICE, log 7). -/
  inact : BankState := .empty
  /-- R107: the inactive bank was filled through 0x2032; reset 0. -/
  byOd : Bool := false
  /-- R107: the active bank was filled through 0x2032 before it was switched to; reset 0. -/
  byOdAct : Bool := false
  /-- R106: a switch is armed for this step's Weir by BANKARM; reset 0. -/
  armed : Bool := false
  /-- R89, R92: the accepted image holds a ring for this core; reset 0. -/
  ring : Bool := false
  /-- R95: place presented next; reset place 0 (R68). -/
  idx : Nat := 0
  /-- R97: a descriptor has passed its checks and is held; reset 0. -/
  held : Bool := false
  /-- R95: first S-cycle in which the sequencer may present again; reset 0. -/
  nextS : Nat := 0
  /-- R92: the sequencer has executed WEIR in this step; reset 0. -/
  weirDone : Bool := false
  /-- R92: NEXT of the executed WEIR; reset 0. -/
  weirNext : Nat := 0
  /-- R90: s0-s31, 32 bits each; s0 reads 0; reset zero (8-4 Flush, R417); kept at the start of a job (log 7). -/
  sregs : FMap (BitVec 32) := []
  /-- R91: SLD words read and not yet written (d + 5); reset none. -/
  sldPend : List SldPend := []
  /-- R91, 08 R255: S-cycle + 1 and byte address of the last scratchpad word an SLD has read; reset none. -/
  sldRead : Nat × Nat := (0, 0)
  /-- R84: 64 counting flags, 16 bits each; reset 0 (R84). -/
  flags : FMap Nat := []
  /-- R129: 0x2060:n NUMCTL; reset 0 (R129). -/
  numctl : BitVec 32 := 0
  /-- R132: 0x2061:n sticky numerical flags; reset 0 (Table 4-10). -/
  sticky : BitVec 32 := 0
  /-- R132: bits set in the present S-cycle; reset 0. -/
  stickySet : BitVec 32 := 0
  /-- R132: bits to clear at the next S-cycle boundary; reset 0. -/
  stickyClr : BitVec 32 := 0
  /-- R184: v0-v31, 16 KiB (PF) / 8 KiB (DE), byte i of register v at 4E*v+i; reset 0 (R185). -/
  vreg : Mem := []
  /-- R184: m0-m7 of 32E bits, bit i of mask m at 4096*m+i; reset 0 (R185). -/
  mreg : FMap Bool := []
  /-- R184: 0x2080:n vl, 0 to 32E; reset 0 (R185). -/
  vl : Nat := 0
  /-- R215: 0x2081:n U32; reset 0 at the start of a job (R215). -/
  vlClamps : Nat := 0
  /-- R96: 16 engine queues of 16 places, key = engine code; reset empty. -/
  queues : FMap (List QItem) := []
  /-- R33, 05 R150: first S-cycle each engine resource is free (array a: feed 3a, load 3a+1, drain 3a+2; others 12+engine); reset 0. -/
  busy : FMap Nat := []
  /-- R96: per engine: S-cycle after its last start; reset 0. -/
  lastS : FMap Nat := []
  /-- R33: operations started and not completed; reset none. -/
  run : List RunOp := []
  /-- R145: matrix arrays MX0-MX3; reset zero (R167). -/
  arrays : FMap MxArray := []
  /-- R108: 0x2035:n U32; reset 0 at the start of a job (R108). -/
  skips : Nat := 0
  /-- R108: 0x2036:n U32; reset 0 at the start of a job (R108). -/
  bounds : Nat := 0
  /-- R108: 0x2037:n U32; reset 0 at the start of a job (R108). -/
  stalls : Nat := 0
  /-- R104, R108: 0x2034:n U32; reset 0 at the start of a job (R108). -/
  refused : Nat := 0
  /-- R99, R100: Oxbow counter; reset 0. -/
  oxbow : Nat := 0
deriving DecidableEq, Repr

/-- The step-start copy of one core (R273). -/
structure CoreCopy where
  /-- R273: flags; reset -. -/
  flags : FMap Nat := []
  /-- R273: scalar registers; reset -. -/
  sregs : FMap (BitVec 32) := []
  /-- R273: vector registers; reset -. -/
  vreg : Mem := []
  /-- R273: masks; reset -. -/
  mreg : FMap Bool := []
  /-- R273: vl; reset -. -/
  vl : Nat := 0
  /-- R273: sticky numerical flags; reset -. -/
  sticky : BitVec 32 := 0
  /-- R273: Oxbow counter; reset -. -/
  oxbow : Nat := 0
  /-- R273, 05 R180: Sounding state, key = array; reset -. -/
  snd : FMap Sounding := []
  /-- R180: capture buffers held, key = array; reset -. -/
  capture : FMap Capture := []
  /-- R49: place presented in the step's first S-cycle; reset -. -/
  idx : Nat := 0
  /-- R49: queues at the step's first S-cycle (empty, R29); reset -. -/
  queues : FMap (List QItem) := []
deriving DecidableEq, Repr

/-- A row access that waits for its pool bank (R259): the operations that ask for it, in the order of R259. -/
structure PoolReq where
  /-- R259: S-cycle of its arrival; reset -. -/
  atS : Nat := 0
  /-- R252: row; reset -. -/
  row : Nat := 0
  /-- R259: a write; reset -. -/
  wr : Bool := false
  /-- R259: the operations that ask for it, as 16 × core + engine and start S-cycle; reset -. -/
  srcs : List (Nat × Nat) := []
deriving DecidableEq, Repr

/-- One cluster pool. -/
structure Pool where
  /-- R251: 16 MiB, byte addressed; reset zero (R417). -/
  mem : Mem := []
  /-- R270: uncorrectable granules; reset none. -/
  bad : FMap Bool := []
  /-- R275: step-write bits; reset 0. -/
  wrote : FMap Bool := []
  /-- R280: 0x20A0:c; reset 0xFF (R280). -/
  segMask : BitVec 8 := 255
  /-- R282: segments whose power-down has begun; reset 0. -/
  segDown : BitVec 8 := 0
  /-- R287: 0x20A1:c U32; reset 0. -/
  corr : Nat := 0
  /-- R287: 0x20A2:c U32; reset 0. -/
  uncorr : Nat := 0
  /-- R259, R287: 0x20A3:c U32; reset 0. -/
  overruns : Nat := 0
  /-- R278, R279: the scrub pass of the pool; reset line 0. -/
  scrub : Scrub := {}
  /-- R259: row accesses not served yet, oldest first; reset none. -/
  waiting : List PoolReq := []
deriving DecidableEq, Repr

/-- Weight beds, bed controllers, partitions, KV geometry, Flush. -/
structure Beds where
  /-- R251, R254: 16 GiB, byte addressed; reset zero (R417). -/
  mem : Mem := []
  /-- R270: lines (1 KiB) holding an uncorrectable granule, key = bed address / 1024; reset none. -/
  bad : FMap Bool := []
  /-- R263: 0x3000:01-08 partition entries, key 0-7; reset 0 (Table 8-2). -/
  parts : FMap (BitVec 64) := []
  /-- R267: 0x3010:01 U32 slot stride; reset 0 (R267). -/
  kvS : Nat := 0
  /-- R267: 0x3010:02 U32 plane size; reset 0 (R267). -/
  kvQ : Nat := 0
  /-- R267: 0x3010:03 U32 position size; reset 0 (R267). -/
  kvU : Nat := 0
  /-- R275: slots whose bound on this chip is 0 after a lost line; reset none. -/
  kvLost : FMap Bool := []
  /-- R275: slots lost in the replayed step, bound 0 from its Weir; reset none. -/
  kvLossNext : List Nat := []
  /-- R287: 0x3020:k U32 per stack; reset 0. -/
  corr : FMap Nat := []
  /-- R287: 0x3021:k U32 per stack; reset 0. -/
  uncorr : FMap Nat := []
  /-- R261, R287: 0x3022:k U32 bed port collisions per stack; reset 0. -/
  coll : FMap Nat := []
  /-- R491: corrected errors of each row since it last received a spare; reset 0. -/
  lineCorr : FMap Nat := []
  /-- R279: 0x3040:01 U16; reset 24 (R279). -/
  scrubHours : Nat := 24
  /-- R279: 0x3040:02 U32 last bed pass in minutes; reset DESIGN CHOICE 0 (log 7). -/
  scrubMin : Nat := 0
  /-- R277: next line to scrub, per stack; reset 0. -/
  scrubNext : FMap Nat := []
  /-- R279: tick at which the present pass began; reset 0. -/
  scrubSince : Nat := 0
  /-- R279: the overrun of this pass was reported; reset 0. -/
  scrubLate : Bool := false
  /-- R279: stacks whose lines have all been scrubbed in the present pass; reset none. -/
  scrubWrap : List Nat := []
  /-- R285: 0x3050:01 U8 Flush progress; reset 0 idle. -/
  flush : Nat := 0
  /-- R286: 0x3050:02 U32; reset DESIGN CHOICE 0 (log 7). -/
  flushOn : Nat := 0
  /-- R286: 0x3050:03 U32; reset DESIGN CHOICE 0 (log 7). -/
  flushBed : Nat := 0
  /-- R286: tick at which the Flush began; reset 0. -/
  flushSince : Nat := 0
  /-- R284: the Flush zeroes the weights too; reset 0. -/
  flushW : Bool := false
  /-- R262: bed activities outside the schedule that wait for a free cycle of their stack, in the order of their commands; reset none. -/
  waiting : List Instr := []
deriving DecidableEq, Repr

/-- A machine check being handled (R271, R275). -/
structure Replay where
  /-- R275: failing granule; reset -. -/
  loc : MemLoc := .beds 0
  /-- R275: both re-reads failed; reset -. -/
  persistent : Bool := false
  /-- R275: W-cycle of the detection; reset -. -/
  atW : Nat := 0
  /-- R365: the line's refetch has been asked for; reset -. -/
  fetch : Bool := false
deriving DecidableEq, Repr

/-- One Eddy cause that is present (Table 2-11). -/
structure Cause where
  /-- R46: cause number 1-12; reset -. -/
  no : Nat := 1
  /-- R46: which receive, buffer, queue or monitor; reset -. -/
  src : Nat := 0
  /-- R47: W-cycle of entry; reset -. -/
  sinceW : Nat := 0
  /-- R45: W-cycle at which it clears, once known; reset -. -/
  untilW : Option Nat := none
deriving DecidableEq, Repr

/-- Schedule counters, Weir, Eddy, sync network, step-start copies. -/
structure Sched where
  /-- R27: 0x2001:00 U64; reset 0 (R27). -/
  sCycle : Nat := 0
  /-- R27: 0x2002:00 U64; reset 0 (R27). -/
  wCycle : Nat := 0
  /-- R27: 0x2003:00 U64; reset 0 (R27). -/
  eddyW : Nat := 0
  /-- R27: 0x2004:00 U64; reset 0 (R27). -/
  stepNo : Nat := 0
  /-- R28: S-cycle b at which the present step begins; reset 0. -/
  base : Nat := 0
  /-- R49: W-cycle at which the present step began; reset 0. -/
  stepW : Nat := 0
  /-- R11, 14 R473: a job exists (S-cycle 0 has begun); reset 0. -/
  job : Bool := false
  /-- R473: RUN was taken and S-cycle 0 has not begun; reset 0. -/
  jobWait : Bool := false
  /-- R304: S-cycle w of the Weir in progress; reset none. -/
  weirAt : Option Nat := none
  /-- R305, 02 R50: between a Weir's last S-cycle and the next step: Eddy cause evaluated next, 7, 8 or 9, or 10 = the step begins; 0 otherwise; reset 0. -/
  weirPhase : Nat := 0
  /-- R46: Eddy causes present; reset none. -/
  causes : List Cause := []
  /-- R47: 0x2010:01-0C U64, key = cause; reset 0. -/
  perCause : FMap Nat := []
  /-- R48: length of the present Eddy in ns, without causes 6, 7, 8, 12; reset 0. -/
  eddyNs : Nat := 0
  /-- R48: 0x2011:00 U32 ms; reset 100 (R48). -/
  eddyLimit : Nat := 100
  /-- R101: 0x2020:00 U32 S-cycles; reset 4,096 (R101). -/
  oxLimit : Nat := 4096
  /-- R78, R93, R94: event that halts the job at the end of the next Weir; reset none. -/
  haltReq : Option Nat := none
  /-- R271: machine check being handled; reset none. -/
  replay : Option Replay := none
  /-- R49: the present step has been replayed once; reset 0. -/
  replayed : Bool := false
  /-- R287: 0x3051:00 U32; reset 0 at the start of a job. -/
  replayCount : Nat := 0
  /-- R273: step-start copies of the cores; reset empty. -/
  copies : FMap CoreCopy := []
  /-- R13: the counter of the free values at the step's first S-cycle (the model's own field, log 2); reset 0. -/
  freeAt : Nat := 0
  /-- R274: packets handed to the router in this step; reset 0. -/
  handed : Nat := 0
  /-- R274: handoffs still to be discarded in the replay; reset 0. -/
  discard : Nat := 0
  /-- R86, 09 R303: signals issued and not yet in effect; reset none. -/
  signals : List Signal := []
  /-- R302: signals issued to other cores, for core c in S-cycle t at 192 t + c; S-cycles before the present one are dropped; reset 0. -/
  sigSent : FMap Nat := []
  /-- R302, R306: 0x20B1:00 U32; reset 0. -/
  sigDrops : Nat := 0
  /-- R300, R306: 0x20B2:00 U32; reset 0. -/
  ctlLate : Nat := 0
  /-- R306: 0x20B3:00 U16; reset 0. -/
  ctlMax : Nat := 0
  /-- R300: W-cycle + 1 in which a node last injected a VC 0 message, key = node; reset none. -/
  ctlAt : FMap Nat := []
  /-- R296, R306: 0x20B0:01-60 U32, key = directed port; reset 0. -/
  bulkOver : FMap Nat := []
  /-- R395: wall durations of the last 64 steps; reset none. -/
  stepTicks : List Nat := []
  /-- R395: tick of the end of the last Weir; reset 0. -/
  lastWeirTick : Nat := 0
  /-- R539: Tributary output and packets of the step, for the output digest; reset empty. -/
  outDig : List Byte := []
  /-- R181: 0x2070:01 Sounding enabled; reset 1 (R181). -/
  sndOn : Bool := true
  /-- R181: 0x2070:02 U16; reset 16 (R181). -/
  sndThin : Nat := 16
  /-- R181: 0x2070:03 U8; reset 8 (R181). -/
  sndRows : Nat := 8
  /-- R181: 0x2070:04 F32; reset 0.02 (R181). -/
  sndWarn : BitVec 32 := 0x3CA3D70A
  /-- R181: 0x2070:05 F32; reset 0.10 (R181). -/
  sndAlarm : BitVec 32 := 0x3DCCCCCD
  /-- R181: 0x2070:06 F32; reset 0.002 (R181). -/
  sndBias : BitVec 32 := 0x3B03126F
  /-- R181: 0x2070:07 U16; reset 256 (R181). -/
  sndWin : Nat := 256
  /-- R181: 0x2070:08 U8; reset 0 (R181). -/
  sndHalt : Bool := false
  /-- R257: S-cycle + 1 whose bank conflicts have been held for (cause 5); reset 0. -/
  arbS : Nat := 0
  /-- R257: W-cycle from which a scratchpad bank is free of wide accesses, key 64 × core + bank; reset none. -/
  arbBusy : FMap Nat := []
deriving DecidableEq, Repr

/-- One step-table entry (Table 2-19). -/
structure StepEntry where
  /-- R58: LEN U32; reset -. -/
  len : Nat := 64
  /-- R58: ENERGY U32; reset -. -/
  energy : Nat := 0
  /-- R58: 16 U64; reset -. -/
  bedRead : List Nat := []
  /-- R58: 16 U64; reset -. -/
  bedWrite : List Nat := []
  /-- R58: 96 U32; reset -. -/
  bulk : List Nat := []
deriving DecidableEq, Repr

/-- One manifest segment record (Table 11-3). -/
structure Segment where
  /-- R350: U8; reset -. -/
  ptype : Nat := 1
  /-- R350: U32; reset -. -/
  off : Nat := 0
  /-- R350: U32; reset -. -/
  pieces : Nat := 1
  /-- R350: U32; reset -. -/
  didx : Nat := 0
deriving DecidableEq, Repr

/-- A manifest (Table 11-2). -/
structure Manifest where
  /-- R350: U64; reset -. -/
  shardId : Nat := 0
  /-- R350: U64; reset -. -/
  modelId : Nat := 0
  /-- R350: segment records; reset -. -/
  segs : List Segment := []
  /-- R350: SHA3-256 digests, 256 bits each; reset -. -/
  digests : List Nat := []
  /-- R509: bytes 0 to SIG_OFF - 1; reset -. -/
  body : List Byte := []
  /-- R350: 29,792 signature bytes; reset -. -/
  sig : List Byte := []
deriving DecidableEq, Repr

/-- What acceptance keeps of an image (R57, R58, R62). -/
structure Image where
  /-- R56: LAT_MODEL U16; reset -. -/
  lat : Nat := 0x101
  /-- R56: ROLE U16; reset -. -/
  role : Nat := 0
  /-- R56: entry role; reset -. -/
  entry : Bool := false
  /-- R56: commit role; reset -. -/
  commit : Bool := false
  /-- R56: STACKS U8; reset -. -/
  nStacks : Nat := 16
  /-- R58: step table; reset -. -/
  steps : List StepEntry := []
  /-- R56: cores of the core map, 12c+s; reset -. -/
  cores : List Nat := []
  /-- R350: manifest; reset -. -/
  man : Manifest := {}
  /-- R509: image digest as measured; reset -. -/
  dig : BitVec 512 := 0
  /-- R509: placement digest as measured; reset -. -/
  plDig : BitVec 512 := 0
deriving DecidableEq, Repr

/-- Device state, boot, loading. -/
structure Dev where
  /-- R10, 13 R433: device state, Table 0-2; reset OFF (R560: both pins low). -/
  state : DevState := .off
  /-- R2: stepping: 1 = B0, 0 = A0; fixed for a device; reset DESIGN CHOICE B0 (log 13). -/
  b0 : Bool := true
  /-- R433: 0x1800:03 U8; reset 0 (R433). -/
  saved : Nat := 0
  /-- R435: 0x1800:04; reset 0. -/
  busy : Bool := false
  /-- R433: 0x1800:05 U16; reset DESIGN CHOICE 0 (log 7). -/
  haltId : Nat := 0
  /-- R544: HALTED was entered by a debug halt; reset 0. -/
  dbgHalt : Bool := false
  /-- R417: boot phase completed, 0-5; reset 0. -/
  phase : Nat := 0
  /-- R418: tick at which phase 2 completed; reset 0. -/
  phase2At : Nat := 0
  /-- R418: event 0x0D05 was raised; reset 0. -/
  bootLate : Bool := false
  /-- R416, R417: two firmware banks of 2 MiB, key 0 = A, 1 = B; reset zero (13 R417 phase 1). -/
  fw : FMap Mem := []
  /-- R417: bytes written into each bank; reset 0. -/
  fwLen : FMap Nat := []
  /-- R416: 0x1822:00 U8 bank that runs; reset 0 = A (R417 phase 3). -/
  fwRun : Nat := 0
  /-- R501: shared-state version of each bank's firmware; reset 0. -/
  fwVer : FMap Nat := []
  /-- R419: 0x1830:00 configuration bytes; reset empty. -/
  cfg : Mem := []
  /-- R419: byte spans written through 0x1830:00; reset none. -/
  cfgW : List Span := []
  /-- R578: 0x1811:00 image buffer; reset zero (13 R434 LOAD). -/
  image : Mem := []
  /-- R578: one past the highest image byte written; reset 0. -/
  imgLen : Nat := 0
  /-- R60: 0x1812:00 placement buffer; reset zero (13 R434 LOAD). -/
  place : Mem := []
  /-- R60: byte spans written through 0x1812:00; reset none. -/
  placeW : List Span := []
  /-- R62: 0x1810:00 U16; reset DESIGN CHOICE 0 (log 7). -/
  loadRes : Nat := 0
  /-- R39: 0x1009:00 U16; reset 0x0000 (R39). -/
  lat : Nat := 0
  /-- R40: 0x2040:01-0E, key 1-14; reset 0 (Table 2-8). -/
  pads : FMap (BitVec 32) := []
  /-- R62: the accepted image; reset none. -/
  img : Option Image := none
  /-- R434: state code left on SLEEP; reset 0. -/
  sleepFrom : Nat := 0
deriving DecidableEq, Repr

/-- One fabric link. -/
structure Link where
  /-- R345 Table 10-15: 0x4010 ENABLE; reset 0. -/
  enable : Bool := false
  /-- Table 10-15: 0x4010 LANES, 2 bits; reset 00. -/
  lanes : Nat := 0
  /-- R318: 0x4010 DATELINE; reset 0. -/
  dateline : Bool := false
  /-- R312, Table 10-16: 0x4011 STATE; reset OFF. -/
  state : LinkState := .off
  /-- Table 10-16: 0x4011 DELAY U16; reset 0. -/
  delay : Nat := 0
  /-- Table 10-16: 0x4011 BADLANES; reset 0. -/
  bad : BitVec 8 := 0
  /-- Table 10-16: 0x4011 HALFIN; reset 0. -/
  halfin : Bool := false
  /-- R313: the retrain in progress began in UP4 without a request and returns there; reset 0. -/
  keep4 : Bool := false
  /-- R312: tick at which TRAINING was entered; reset 0. -/
  trainAt : Nat := 0
  /-- R310: SEQ expected next, 12 bits; reset DESIGN CHOICE 0 (log 7). -/
  expSeq : Nat := 0
  /-- R310: NAK set in outgoing frames; reset 0. -/
  nak : Bool := false
  /-- R311: XOFF bits sent; reset 0. -/
  xoff : BitVec 8 := 0
  /-- R310: XOFF bits last received; reset 0. -/
  peerXoff : BitVec 8 := 0
  /-- R310: ACK last received, 12 bits; reset DESIGN CHOICE 4095 (log 7). -/
  peerAck : Nat := 4095
  /-- R309: SEQ of the next frame sent, 12 bits; reset DESIGN CHOICE 0 (log 7). -/
  txSeq : Nat := 0
  /-- R308, R310: replay buffer, up to 1,024 frames; reset empty. -/
  replayBuf : List Frame := []
  /-- R310: times the oldest frame was resent; reset 0. -/
  resendN : Nat := 0
  /-- R345: 0x4012 U32; reset 0. -/
  resent : Nat := 0
  /-- R345: 0x4013 U64; reset 0. -/
  fec : Nat := 0
  /-- R345: 0x4014 U32; reset 0. -/
  dropped : Nat := 0
  /-- R308, R311: flits held at the input port per VC; reset empty. -/
  rx : FMap (List (BitVec 128)) := []
  /-- R362, R363: packets of the load service that wait for this link; reset empty. -/
  outQ : List Packet := []
  /-- R335: output VC ↦ the buffer whose packet holds it (0, 1 injection sets, 2 load service, 3 + 8·link + VC an input VC) and the flits sent;
  reset none. -/
  tx : FMap (Nat × Nat) := []
  /-- R337: packets that TC1 to TC3 have sent in the present round; reset 0. -/
  wrr : FMap Nat := []
  /-- R337: buffer served last on each output VC; reset DESIGN CHOICE 0 (log 7). -/
  rr : FMap Nat := []
  /-- R341: 0x4040; reset DESIGN CHOICE 0 open (log 7). -/
  gate : BitVec 8 := 0
  /-- R341: tick at which each class was closed; reset 0. -/
  gateAt : FMap Nat := []
  /-- R341: classes whose 0x0A0B was raised; reset 0. -/
  gateLate : BitVec 8 := 0
  /-- R341: 0x4041; reset 0. -/
  drained : BitVec 8 := 0
deriving DecidableEq, Repr

/-- A packet that stands in an input VC or at the head of a local-route buffer (R323, R330, R333, R335). -/
structure HeldPkt where
  /-- R333: 8·link + VC of an input VC, or 128 + VC of the local route (+ 8 in the second set); reset -. -/
  origin : Nat := 0
  /-- R315: the packet as it came; reset -. -/
  pkt : Packet := {}
  /-- R317, R330, R333: it has been handled at the head: routed to its link, its copies made, or counted as waiting; reset 0. -/
  told : Bool := false
deriving DecidableEq, Repr

/-- An open reduce group (R331, R333). -/
structure Group where
  /-- R331: reduce entry; reset -. -/
  entry : Nat := 0
  /-- R331: HALF; reset -. -/
  half : Bool := false
  /-- R331: TAG; reset -. -/
  tag : Nat := 0
  /-- R332: TC; reset -. -/
  tc : Nat := 0
  /-- R331: rank and payload of each contribution; reset -. -/
  parts : List (Nat × List Byte) := []
deriving DecidableEq, Repr

/-- A packet that the router writes into a receive window in a job: its two rows wait for their scratchpad banks (R255, R257, R325). -/
structure NarrowWr where
  /-- R325: key of its half; reset -. -/
  key : Nat := 0
  /-- R325: tag; reset -. -/
  tag : Nat := 0
  /-- R324: receiving core; reset -. -/
  core : Nat := 0
  /-- R325: first byte in its scratchpad; reset -. -/
  addr : Nat := 0
  /-- R325: payload; reset -. -/
  data : List Byte := []
  /-- R257: W-cycle of its arrival; reset -. -/
  atW : Nat := 0
  /-- R325: rows written so far, first and second; reset -. -/
  lo : Bool := false
  /-- R325; reset -. -/
  hi : Bool := false
deriving DecidableEq, Repr

/-- Fabric router, path tables, receive queues, beacon. -/
structure Fabric where
  /-- R21: 0x4000:00; reset DESIGN CHOICE 0 before the configuration gives it (log 7). -/
  coord : BitVec 32 := 0
  /-- R308: 16 links; reset OFF. -/
  links : FMap Link := []
  /-- R339: path-table bank 0, 65,536 bytes; reset 0 (Table 10-13). -/
  pathA : Mem := []
  /-- R339: path-table bank 1; reset 0 (Table 10-13). -/
  pathB : Mem := []
  /-- R339: 0x4022:00; reset DESIGN CHOICE 0 (log 7). -/
  pathAct : Bool := false
  /-- R339: 0x4023:00; reset DESIGN CHOICE EMPTY (log 7). -/
  pathIn : BankState := .empty
  /-- R324: 0x4060:00, 8,192 bytes; reset 0 (Table 10-8). -/
  queues : Mem := []
  /-- R330: 0x4061:00, 4,096 bytes; reset 0 (Table 10-9). -/
  fan : Mem := []
  /-- R331: 0x4062:00, 2,048 bytes; reset 0 (Table 10-10). -/
  red : Mem := []
  /-- R325: 0x4063:00 half counters U16, key 2q+h; reset 0 (R325 at acceptance). -/
  halves : FMap Nat := []
  /-- 08 R255, R257, 10 R325: router writes that wait for their scratchpad banks, oldest first; reset none. -/
  narrow : List NarrowWr := []
  /-- R537: tag and payload of the packets counted since the half's last receive; reset none. -/
  taken : FMap (List (Nat × List Byte)) := []
  /-- R326: half, COUNT and recorded packets of the receives completed in this step, subtracted at the Weir; reset none. -/
  takes : List (Nat × Nat × Nat) := []
  /-- R333: open reduce groups, 1,024 places; reset none. -/
  groups : List Group := []
  /-- R323, R330, R333, R335: packets that stand in input VCs until they leave, and heads of local-route buffers that wait, oldest first; reset none. -/
  waiting : List HeldPkt := []
  /-- R345: 0x4064:00 U16; reset 0. -/
  groupMax : Nat := 0
  /-- R333: 0x4065:00 U32; reset 0. -/
  groupWait : Nat := 0
  /-- R323: first set of injection buffers, 64 flits each, key 8*link+vc, local route 128+vc; reset empty. -/
  inj : FMap (List Packet) := []
  /-- R323: second set of injection buffers; reset empty. -/
  inj2 : FMap (List Packet) := []
  /-- R45: W-cycle from which the room that a full injection buffer last gained can be used; reset 0. -/
  injAt : FMap Nat := []
  /-- R45: W-cycle from which a receive can complete by the last packet counted in a half; reset 0. -/
  halfAt : FMap Nat := []
  /-- R323, R330: fan-out copies that no buffer of the second set has taken, with the origin of their packet (256 the chip itself); reset none. -/
  injIn : List (Nat × Packet) := []
  /-- R345: 0x4015:00 U32; reset 0. -/
  arrDrops : Nat := 0
  /-- R343: 0x4030:00 U64 fabric time in ticks; reset DESIGN CHOICE 0 (log 7). -/
  ftime : Nat := 0
  /-- R9: fraction of a tick (in units of 1/f ns) of the model's clock; reset 0 (log 3). -/
  frac : Nat := 0
  /-- R343: 0x4031:00; reset 0 (Table 10-14). -/
  role : Nat := 0
  /-- R343: 0x4032:00; reset DESIGN CHOICE 0 (log 7). -/
  parent : Nat := 0
  /-- R343: 0x4033:00; reset DESIGN CHOICE 0 (log 7). -/
  childs : BitVec 16 := 0
  /-- R343: 0x4034:00 I32; reset DESIGN CHOICE 0 (log 7). -/
  corrNs : Int := 0
  /-- R343: correction still to be slewed in ns; reset 0. -/
  slewNs : Int := 0
  /-- R344: tick of the last beacon taken; reset 0. -/
  lastBeacon : Nat := 0
  /-- R344: 0x0A0C raised since the last beacon; reset 0. -/
  beaconLate : Bool := false
  /-- R337: 0x4070:01-03 arbitration weights, key 1-3; reset 8, 4, 1 (R337; read through arbW). -/
  arb : FMap Nat := []
deriving DecidableEq, Repr

/-- A piece being taken in on an intake stream (R357). -/
structure OpenPiece where
  /-- R357: bed piece; reset -. -/
  piece : Nat := 0
  /-- R357: next expected TAG; reset -. -/
  next : Nat := 0
deriving DecidableEq, Repr

/-- A piece request held or being served (R362, R363). -/
structure Request1 where
  /-- R362: SHARD_ID; reset -. -/
  shard : Nat := 0
  /-- R362: PTYPE; reset -. -/
  ptype : Nat := 1
  /-- R362: BPATH; reset -. -/
  bpath : Nat := 0
  /-- R362: intake queue; reset -. -/
  queue : Nat := 0x3F0
  /-- R362: pieces; reset -. -/
  count : Nat := 1
  /-- R362: PIECE_OFF; reset -. -/
  first : Nat := 0
deriving DecidableEq, Repr

/-- A weight line that waits for its piece from a source (R365); the first in line has the refetch buffer. -/
structure Refetch where
  /-- R365: lost bed line; reset -. -/
  line : Nat := 0
  /-- R365: source asked, 1-4; reset -. -/
  src : Nat := 1
  /-- R363: tick of the request; reset -. -/
  at_ : Nat := 0
  /-- R357: next expected TAG of the reply that has begun; reset -. -/
  next : Option Nat := none
  /-- R365: refetch buffer; reset -. -/
  buf : List Byte := []
deriving DecidableEq, Repr

/-- Digest store, intake, sourcing, rescan, swap. -/
structure Weights where
  /-- R348: digest store, SHA3-256 per bed piece; reset none. -/
  digests : FMap Nat := []
  /-- R348: piece states; reset NONE (R348). -/
  pstate : FMap PieceState := []
  /-- R352: installed manifest; reset none. -/
  man : Option Manifest := none
  /-- R357: open piece per intake stream; reset none. -/
  streams : FMap OpenPiece := []
  /-- R358: pieces fully written whose hash has not finished; reset none. -/
  hashing : List Nat := []
  /-- R358: 0x3063:00 U32; reset 0. -/
  arrFail : Nat := 0
  /-- R354: 0x3064:00 U32; reset 0. -/
  dropped : Nat := 0
  /-- R361: tick of the last piece arrival; reset 0. -/
  lastArrive : Nat := 0
  /-- R361: pieces asked of each source and not answered; reset none. -/
  asked : FMap (List Nat) := []
  /-- R364: pieces each source answered with STATUS 1; reset none. -/
  nak : FMap (List Nat) := []
  /-- R363: requests held for serving, up to 16; reset none. -/
  reqs : List Request1 := []
  /-- R365: lines that wait for their refetch, the one under way first; reset none. -/
  refetch : List Refetch := []
  /-- R366: 0x3060:01 U32; reset 600 (Table 11-10). -/
  rescanSec : Nat := 600
  /-- R367: 0x3060:02 U8; reset 0 (Table 11-10). -/
  rescanHalt : Bool := false
  /-- R378: 0x3060:03 U32; reset DESIGN CHOICE 0 (log 7). -/
  rescanMs : Nat := 0
  /-- R378: 0x3060:04 U32; reset 0. -/
  rescanFail : Nat := 0
  /-- R366: next piece of the rescan pass; reset 0. -/
  rescanAt : Nat := 0
  /-- R366: tick at which the pass began; reset 0. -/
  rescanSince : Nat := 0
  /-- R366: the pass has overrun; reset 0. -/
  rescanLate : Bool := false
  /-- R361: 0x3080:01-04, key 1-4; reset 0 (Table 11-6). -/
  sources : FMap (BitVec 64) := []
  /-- R361: 0x3080:05 U16; reset 1 (Table 11-10). -/
  quietMs : Nat := 1
  /-- R360: 0x3082:00; reset DESIGN CHOICE 0 (log 7). -/
  relay : BitVec 16 := 0
  /-- R369: 0x3070:01 swap image buffer; reset empty. -/
  swImg : Mem := []
  /-- R369: one past the highest swap-image byte written; reset 0. -/
  swLen : Nat := 0
  /-- R369: 0x3070:02 U16; reset DESIGN CHOICE 0 (log 7). -/
  swRes : Nat := 0
  /-- R372: 0x3070:03 U64 release step; reset DESIGN CHOICE 0 (log 7). -/
  swRel : Nat := 0
  /-- R371: 0x3070:05; reset IDLE. -/
  swState : SwapState := .idle
  /-- R373: 0x3070:06 U16; reset DESIGN CHOICE 0 (log 7). -/
  swPath : Nat := 0
  /-- R373: 0x3070:07 U16; reset DESIGN CHOICE 1, the lowest of the range (log 7). -/
  swExp : Nat := 1
  /-- R374: 0x3070:08 U32; reset 2,000 (Table 11-10). -/
  swLimMs : Nat := 2000
  /-- R374: tick at which FILLING was entered; reset 0. -/
  swFillAt : Nat := 0
  /-- R374: 0x0B07 raised; reset 0. -/
  swLate : Bool := false
  /-- R371: the staged swap image; reset none. -/
  swMan : Option Image := none
  /-- R370: bed pieces marked KEEP; reset none. -/
  swKeep : List Nat := []
  /-- R373: swap-ready notices counted; reset 0 (R373 at staging). -/
  swNotes : Nat := 0
  /-- R373: OPEN goes with the next slot update; reset 0. -/
  swOpen : Bool := false
deriving DecidableEq, Repr

/-- One slot record (Table 12-2). -/
structure Slot where
  /-- R382: U8; reset FREE (R382). -/
  state : SlotState := .free
  /-- R382: U8; reset 0. -/
  k : Nat := 0
  /-- R382: U16; reset 0. -/
  acc : Nat := 0
  /-- R382: U16; reset 0. -/
  tenant : Nat := 0
  /-- R382: U16; reset 0. -/
  aslot : Nat := 0
  /-- R382: U8; reset 0. -/
  agen : Nat := 0
  /-- R382: U8; reset 0. -/
  aflags : BitVec 8 := 0
  /-- R382: U8; reset 0. -/
  pfg : Nat := 0
  /-- R382: U8; reset 0. -/
  status : Nat := 0
  /-- R382: U32; reset 0. -/
  start : Nat := 0
  /-- R382: U32; reset 0. -/
  plen : Nat := 0
  /-- R382: U32; reset 0. -/
  maxnew : Nat := 0
  /-- R382: U32; reset 0. -/
  ntok : Nat := 0
  /-- R382: U32; reset 0. -/
  l : Nat := 0
  /-- R382: U16; reset 0. -/
  probe : Nat := 0
  /-- R382: pending passes, oldest first, up to 4 (NPEND and PEND); reset none. -/
  pend : List PendPass := []
  /-- R382: U32; reset 0. -/
  freeat : Nat := 0
  /-- R382: U64; reset 0. -/
  seed : BitVec 64 := 0
  /-- R382: U64; reset 0. -/
  arrival : Nat := 0
  /-- R382: U32; reset 0. -/
  ttft : Nat := 0
  /-- R382: U32; reset 0. -/
  tbt : Nat := 0
  /-- R382: FP32; reset 0. -/
  tempf : BitVec 32 := 0
  /-- R382: U16; reset 0. -/
  topk : Nat := 0
  /-- R382: U16; reset 0. -/
  topp : Nat := 0
  /-- R382: U64; reset 0. -/
  lasttick : Nat := 0
deriving DecidableEq, Repr

/-- What the commit chip keeps of a slot beside the table (R401, R404, R412). -/
structure CommitSt where
  /-- R401: tokens committed in the turn; reset 0. -/
  count : Nat := 0
  /-- R401: the turn has ended; reset 0. -/
  stopped : Bool := false
  /-- R401: nibble 0xF is due in the next report; reset 0. -/
  tell : Bool := false
  /-- R412: time to first token in ticks; reset 0. -/
  ttft : Nat := 0
  /-- R391: longest counted interval; reset 0. -/
  longest : Nat := 0
  /-- R391: intervals over TBT_DL; reset 0. -/
  overN : Nat := 0
  /-- R412: parked or park requested in the present interval; reset 0. -/
  skipIv : Bool := false
deriving DecidableEq, Repr

/-- One adapter slot (R407). -/
structure Adapter where
  /-- R407: state; reset FREE (08 R286). -/
  state : AdapterState := .free
  /-- R407: U32; reset 0. -/
  id : Nat := 0
  /-- R407: U8; reset 0. -/
  gen : Nat := 0
  /-- R407: pin count U16; reset 0. -/
  pins : Nat := 0
  /-- R408: digest whose check runs; reset none. -/
  dig : Option (List Byte) := none
deriving DecidableEq, Repr

/-- A request in the request store (Table 12-8). -/
structure Req where
  /-- R390: U32; reset -. -/
  reqid : Nat := 0
  /-- R390: U16; reset -. -/
  flags : BitVec 16 := 0
  /-- R390: U16; reset -. -/
  tenant : Nat := 0
  /-- R390: U32; reset -. -/
  adapter : Nat := 0
  /-- R390: U32; reset -. -/
  plen : Nat := 0
  /-- R390: U32; reset -. -/
  maxnew : Nat := 0
  /-- R390: U64; reset -. -/
  seed : BitVec 64 := 0
  /-- R390: U32; reset -. -/
  ttft : Nat := 0
  /-- R390: U32; reset -. -/
  tbt : Nat := 0
  /-- R390: FP32; reset -. -/
  tempf : BitVec 32 := 0
  /-- R390: U16; reset -. -/
  topk : Nat := 0
  /-- R390: U16; reset -. -/
  topp : Nat := 0
  /-- R390: U8; reset -. -/
  kinit : Nat := 0
  /-- R390: prompt; reset -. -/
  tokens : List (BitVec 32) := []
  /-- R382: tick of its last byte; reset -. -/
  arrival : Nat := 0
deriving DecidableEq, Repr

/-- A commit handed over by VF (R248). -/
structure Commit1 where
  /-- R248: slot; reset -. -/
  slot : Nat := 0
  /-- R248: tokens; reset -. -/
  n : Nat := 0
  /-- R248: k; reset -. -/
  k : Nat := 0
  /-- R248: committed tokens; reset -. -/
  toks : List (BitVec 32) := []
deriving DecidableEq, Repr

/-- Serving controller. -/
structure Serving where
  /-- R381: 0x5000:01-0D, key 1-13 (defaults by confD); reset 0A 2,000, 0B 1,024, 0C 3,277, 0D 64 (Table 12-1); 01-09 DESIGN CHOICE the lowest value of the range (log 8). -/
  conf : FMap Nat := []
  /-- R380: 128 slot records; reset FREE (R382). -/
  slots : FMap Slot := []
  /-- R401: commit chip's record per slot; reset 0. -/
  cm : FMap CommitSt := []
  /-- R393: request store, 1,024 requests; reset empty. -/
  store : List Req := []
  /-- R394, R405: admission open; reset 1. -/
  open_ : Bool := true
  /-- R410: tenant budgets, signed; reset 0 (R410). -/
  budgets : FMap Int := []
  /-- R410: tokens committed per tenant U64; reset 0. -/
  committed : FMap Nat := []
  /-- R410: overdraw per tenant U32; reset 0. -/
  overdraw : FMap Nat := []
  /-- R413: 0x5210:01; reset DESIGN CHOICE 0 (log 7). -/
  tenSel : Nat := 0
  /-- R387: change records waiting for an update; reset none. -/
  changes : List (List Byte) := []
  /-- R386: slot-update payload fixed at the decision point of this step; reset none. -/
  update : Option (List Byte) := none
  /-- R385: prompt entries of this step's admission; reset none. -/
  prompt : List (List Byte) := []
  /-- R388: commit reports received, key = step of effect; reset none. -/
  repIn : FMap (List Byte) := []
  /-- R387: slot updates received, key = step of effect; reset none. -/
  updIn : FMap (List Byte) := []
  /-- R389: the RECV of 0x5000:08 completed in this step; reset 0. -/
  gotUpd : Bool := false
  /-- R389: the RECV of 0x5000:09 completed in this step; reset 0. -/
  gotRep : Bool := false
  /-- R385: queue 0x7E: report of the commits applied at the Weir that began the step; reset zero. -/
  report : List Byte := []
  /-- R248: commits handed over in this step; reset none. -/
  commits : List Commit1 := []
  /-- R385: queue 0x7C: step view; reset zero. -/
  view : List Byte := []
  /-- R401: 0x5030:01-08 stop tokens, key 1-8; reset DESIGN CHOICE 0xFFFF_FFFF unused (log 8). -/
  stops : FMap Nat := []
  /-- R405: 0x5020:01 U64; reset 0 none. -/
  cut : Nat := 0
  /-- R411: tick of the Weir at which a slot became PARKED; reset 0. -/
  parkAt : FMap Nat := []
  /-- R407: 1,024 adapter slots; reset FREE. -/
  adapters : FMap Adapter := []
  /-- R413: 0x5310:01; reset DESIGN CHOICE 0 (log 7). -/
  adSel : Nat := 0
  /-- R413: 0x5300:01 U32; reset DESIGN CHOICE 0 (log 7). -/
  adStride : Nat := 0
  /-- R408: last generation of each adapter ID; reset 0. -/
  adGen : FMap Nat := []
  /-- R408: allocations waiting for a free slot; reset none. -/
  adWait : List Nat := []
  /-- R396: adapter slot published per ID; reset none. -/
  adPub : FMap Nat := []
  /-- R413: 0x5010:01 U32; reset 0. -/
  reqN : Nat := 0
  /-- R413: 0x5010:02 U32; reset 0. -/
  admN : Nat := 0
  /-- R413: 0x5010:03 U32; reset 0. -/
  refN : Nat := 0
  /-- R413: 0x5010:05 U32; reset 0. -/
  ttftN : Nat := 0
  /-- R413: 0x5010:06 U32; reset 0. -/
  tbtN : Nat := 0
  /-- R413: 0x5010:07 U32; reset 0. -/
  parkN : Nat := 0
  /-- R391: 64-byte responses sent on the Tributary port; reset none. -/
  out : List (List Byte) := []
deriving DecidableEq, Repr

/-- Tributary queues of the schedule. -/
structure Tributary where
  /-- R239: input queues 0x00-0x7B, 64-byte entries; reset empty. -/
  inQ : FMap (List (List Byte)) := []
  /-- R274: entries read in the present step, removed at its Weir; reset 0. -/
  used : FMap Nat := []
  /-- R239: output buffer: queue and entry; reset empty. -/
  outQ : List (Nat × List Byte) := []
  /-- R274: entries written in this step, withheld until the Weir; reset empty. -/
  outStep : List (Nat × List Byte) := []
  /-- R46: free places of the output buffer; reset DESIGN CHOICE 4,096 (log 9). -/
  outRoom : Nat := 4096
  /-- R45: W-cycle from which the space that a full output buffer last gained can be used; reset 0. -/
  roomAt : Nat := 0
  /-- R45: W-cycle from which each entry of an input queue can be read, beside inQ; reset empty. -/
  inAt : FMap (List Nat) := []
deriving DecidableEq, Repr

/-- A staged change (R436, R437). -/
structure Staged where
  /-- R436: what changes; reset -. -/
  kind : StageKind := .numctl 0 0
  /-- R439: tick of the staging request; reset -. -/
  atW : Nat := 0
  /-- R438: step whose Weir it belongs to; reset -. -/
  weir : Nat := 0
  /-- R437: every unit has acknowledged; reset -. -/
  acked : Bool := false
  /-- R439: the staging request has been sent; reset -. -/
  sent : Bool := true
  /-- R282, R283, R437: of a segment change, the segments that have acknowledged; reset none. -/
  acks : BitVec 8 := 0
  /-- R304: S-cycle in which its last acknowledgement came; reset 0. -/
  ackS : Nat := 0
deriving DecidableEq, Repr

/-- A dictionary response (Table 13-7). -/
structure Resp where
  /-- R425: path; reset -. -/
  path : Path := .tributary
  /-- R425: TYPE; reset -. -/
  typ : Nat := 0x381
  /-- R425: TXN; reset -. -/
  txn : Nat := 0
  /-- R425: INDEX; reset -. -/
  index : Nat := 0
  /-- R425: SUB; reset -. -/
  sub : Nat := 0
  /-- R432: abort code, 0 = success; reset -. -/
  abort : Nat := 0
  /-- R425: data; reset -. -/
  data : List Byte := []
deriving DecidableEq, Repr

/-- One management hart. -/
structure Hart where
  /-- R415, 15 R502: 0x1826: 0 dictionary, 1 service, 2 both, 3 standby, 4 fenced; reset harts 0, 1 active, 2, 3 standby (Table 13-1; hartRole0). -/
  role : Nat := 3
  /-- Table 13-16: THRESH; reset 0. -/
  thresh : Nat := 0
  /-- R446: sources claimed and not completed; reset none. -/
  claimed : List Nat := []
  /-- R551: in debug mode; reset 0. -/
  halted : Bool := false
  /-- R501: firmware bank it runs; reset 0. -/
  bankRun : Nat := 0
  /-- R551: integer registers x1-x31; reset DESIGN CHOICE 0 (log 7). -/
  x : FMap (BitVec 64) := []
  /-- R551: control and status registers, key = CSR number; reset PRESUMED 0 (log 11). -/
  csr : FMap (BitVec 64) := []
  /-- Table 13-16: value of the last read of CLAIM; reset 0 (R444). -/
  claimRd : BitVec 9 := 0
  /-- R449: waiting in WFI; reset DESIGN CHOICE 0 (log 75). -/
  wfi : Bool := false
deriving DecidableEq, Repr

/-- One interrupt source (Table 13-14). -/
structure ISrc where
  /-- R444: STATE[0]; reset 0. -/
  pending : Bool := false
  /-- R444: STATE[1]; reset 0. -/
  active : Bool := false
  /-- Table 13-14: TARGET; reset 0. -/
  target : BitVec 4 := 0
  /-- Table 13-14: PRIO; reset 0. -/
  prio : Nat := 0
  /-- R447: held off; reset 0. -/
  heldOff : Bool := false
deriving DecidableEq, Repr

/-- Dictionary server, staging, interrupt controller, harts. -/
structure Mgmt where
  /-- R428: 0x1102:00 write owner; reset 0 (R428). -/
  owner : Nat := 0
  /-- Table 13-11: 0x1110:02; reset 1. -/
  segOn : Bool := true
  /-- R426: 0x1110:01 PLCA node ID; reset DESIGN CHOICE 0 until sampled (log 7). -/
  node : Nat := 0
  /-- R426: PLCA node ID of the Gauge; reset DESIGN CHOICE 0 until sampled (log 7). -/
  gaugeNode : Nat := 0
  /-- R426: MAC address of the main die; reset DESIGN CHOICE none until the seed stands (log 7). -/
  mac : List Byte := []
  /-- R431: 0x1120:01 U32; reset 0. -/
  clamps : Nat := 0
  /-- R431: 0x1120:02 U32; reset DESIGN CHOICE 0 (log 7). -/
  lastClamp : Nat := 0
  /-- R430: 0x1120:03 U32; reset 0. -/
  refusals : Nat := 0
  /-- R430: 0x1120:04 U32; reset DESIGN CHOICE 0 (log 7). -/
  lastAbort : Nat := 0
  /-- R430: 0x1120:05 U32; reset DESIGN CHOICE 0 (log 7). -/
  lastRef : Nat := 0
  /-- R425: responses sent; reset none. -/
  resp : List Resp := []
  /-- R436, R440: staged changes pending, at most 32; reset none. -/
  staged : List Staged := []
  /-- R439: 0x1850:02 U32; reset DESIGN CHOICE 0 (log 7). -/
  lastDisc : Nat := 0
  /-- R439: 0x1850:03 U32; reset 0. -/
  discards : Nat := 0
  /-- R443, R444: 256 interrupt sources; reset 0 (R444). -/
  src : FMap ISrc := []
  /-- Table 13-15: IHOLD per group, us; reset 0. -/
  hold : FMap Nat := []
  /-- R447: tick after the last completion of a group (0 none); reset none. -/
  lastComp : FMap Nat := []
  /-- R415: 4 harts; reset Table 13-1. -/
  harts : FMap Hart := []
  /-- R502: 0x1827:00; reset 10. -/
  wdogMs : Nat := 10
  /-- R501: 0x1825:00; reset IDLE. -/
  upd : UpdState := .idle
  /-- R501: tick at which TRIAL was entered; reset 0. -/
  updAt : Nat := 0
  /-- R499: a hart serves the dictionary; reset 1. -/
  dictOn : Bool := true
  /-- R427: requests that wait on a path (0 Tributary port, 1 management segment), oldest first, at most 16; reset none. -/
  waitReq : FMap (List Instr) := []
  /-- R427: path whose waiting request was served last; reset DESIGN CHOICE 1, so that the Tributary port is first (log 7). -/
  lastPath : Nat := 1
deriving DecidableEq, Repr

/-- One local monitor (Table 14-3). -/
structure Monitor where
  /-- R461: VLOC mV; reset 0. -/
  vloc : Nat := 0
  /-- R461: TEMP + 40; reset 0. -/
  temp : Nat := 0
  /-- R461: ALLOW in 25 MHz units; reset 0. -/
  allow : Nat := 0
  /-- R461: TRIP; reset 0. -/
  trip : Bool := false
  /-- R461: HOT; reset 0. -/
  hot : Bool := false
  /-- R464: tick after the last trip (0 none); reset none. -/
  tripAt : Nat := 0
  /-- R460: it has measured once; reset 0. -/
  valid : Bool := false
deriving DecidableEq, Repr

/-- Clocks, monitors, ledger, Slackwater. -/
structure Power where
  /-- R459: 0x6000:01; reset 2 not yet locked (R459). -/
  refState : Nat := 2
  /-- R480: 0x6000:02 U32; reset 0. -/
  holdN : Nat := 0
  /-- R480: tick at which holdover began; reset 0. -/
  holdAt : Nat := 0
  /-- R480: 0x6000:03 U32 of the last holdover; reset DESIGN CHOICE 0 (log 7). -/
  holdMs : Nat := 0
  /-- R458: 0x0E03 raised; reset 0. -/
  holdLong : Bool := false
  /-- Table 14-8: 0x6010:01; reset 1,500. -/
  target : Nat := 1500
  /-- R462: 0x6010:02 channel frequency MHz; reset PRESUMED 1,500, the default target (log 10). -/
  freq : Nat := 1500
  /-- Table 14-8: 0x6010:04; reset 1,000. -/
  raiseUs : Nat := 1000
  /-- R480: 0x6010:05 U32; reset 0. -/
  changes : Nat := 0
  /-- R462: tick and smallest allowance of the past raise delay; reset none. -/
  minHist : List (Nat × Nat) := []
  /-- R463: frequency of the change in progress; reset none. -/
  newFreq : Option Nat := none
  /-- R456: tick at which the change in progress began; reset 0. -/
  changeAt : Nat := 0
  /-- R460: 64 monitors; reset 0 (Table 14-3). -/
  mons : FMap Monitor := []
  /-- Table 14-8: 0x6021:01; reset 640. -/
  tripMv : Nat := 640
  /-- Table 14-8: 0x6021:02; reset 15. -/
  hystMv : Nat := 15
  /-- Table 14-8: 0x6021:03; reset 95. -/
  throttle : Nat := 95
  /-- Table 14-8: 0x6021:04; reset 110. -/
  crit : Nat := 110
  /-- R466: the thermal trip holds 900 MHz; reset 0. -/
  tripped : Bool := false
  /-- R467: the smallest allowance is below 900 MHz; reset 0. -/
  lowHeld : Bool := false
  /-- Table 14-8: 0x6030:01 W; reset 1,300. -/
  sust : Nat := 1300
  /-- Table 14-8: 0x6030:02 W; reset 900. -/
  warnW : Nat := 900
  /-- Table 14-8: 0x6030:03 uJ; reset 500,000. -/
  cap : Nat := 500000
  /-- Table 14-8: 0x6030:04 W; reset 300. -/
  stat : Nat := 300
  /-- R468: the warning limit is in effect; reset 0. -/
  warnOn : Bool := false
  /-- R470: 0x6040:01 I64; reset the capacity at STANDBY (R470); before it DESIGN CHOICE 0 (log 7). -/
  credit : Int := 0
  /-- R480: 0x6040:02 U32; reset DESIGN CHOICE 0 (log 7). -/
  charge : Nat := 0
  /-- R475: energy metered since the last Weir; reset 0. -/
  stepE : Nat := 0
  /-- R480: 0x6040:03 U32; reset DESIGN CHOICE 0 (log 7). -/
  lastE : Nat := 0
  /-- R480: 0x6040:04 U64; reset 0. -/
  totE : Nat := 0
  /-- R480: metered energy of the last 1,000 us; reset none. -/
  lastMs : List Nat := []
  /-- R480: 0x6040:06; reset DESIGN CHOICE 750 (log 7). -/
  railMv : Nat := 750
  /-- R480: 0x6040:07 U32; reset 0. -/
  waits : Nat := 0
  /-- R472: charge awaited by cause 9; reset 0. -/
  need : Nat := 0
  /-- R469: the last calibration succeeded; reset 0. -/
  calOk : Bool := false
  /-- R475: energy metered since the last IDLE record; reset 0. -/
  idleE : Nat := 0
  /-- R475: tick of the last IDLE record; reset 0. -/
  idleAt : Nat := 0
  /-- R480: 0x6050:01 U32; reset DESIGN CHOICE 0 (log 7). -/
  wakeUs : Nat := 0
  /-- R480: 0x6050:02 U16; reset DESIGN CHOICE 0 (log 7). -/
  sleepW : Nat := 0
  /-- R480: 0x6050:03 U32; reset 0. -/
  sleepN : Nat := 0
  /-- R480: energy metered in the present Slackwater; reset 0. -/
  sleepE : Nat := 0
  /-- R480: tick at which Slackwater was entered; reset 0. -/
  sleepAt : Nat := 0
  /-- R478: tick at which the wake began; reset 0. -/
  wakeAt : Nat := 0
  /-- R454: crossings out of bound and not realigned; reset 0. -/
  crossBad : BitVec 4 := 0
  /-- R459: the PLLs slew back to the reference; reset 0. -/
  slewPpm : Bool := false
deriving DecidableEq, Repr

/-- A fence being carried out (Table 15-2). -/
structure Remap where
  /-- R485: cluster; reset -. -/
  cl : Nat := 0
  /-- R485: kind; reset -. -/
  de : Bool := false
  /-- R485: physical position; reset -. -/
  pos : Nat := 0
  /-- R485: armed; reset -. -/
  armed : Bool := false
  /-- R485: step whose Weir applies it; reset -. -/
  weir : Nat := 0
  /-- R485: no spare: slot absent at the next Weir; reset -. -/
  noSpare : Bool := false
deriving DecidableEq, Repr

/-- A bed row repair (R492, Table 15-5). -/
structure RowFix where
  /-- R491: stack; reset -. -/
  stack : Nat := 0
  /-- R491: tier; reset -. -/
  tier : Nat := 0
  /-- R491: row within the tier; reset -. -/
  row : Nat := 0
  /-- R491: spare row; reset -. -/
  spare : Nat := 0
  /-- R492: reads are redirected; reset -. -/
  copied : Bool := true
deriving DecidableEq, Repr

/-- Core map, fences, row repairs, stack fence. -/
structure Repair where
  /-- R481, R502: physical position of each logical slot, key 12c+s (identity by posOf0); 255 = absent; reset identity. -/
  map : FMap Nat := []
  /-- R502: fenced positions, key 14c + (PF p or 5 + DE p); reset none. -/
  fenced : FMap Bool := []
  /-- R485: fences pending; reset none. -/
  pend : List Remap := []
  /-- R502: 0x2104:01; reset 0. -/
  auto : Bool := false
  /-- R502: 0x2104:02; reset 4,096. -/
  autoN : Nat := 4096
  /-- R484: tick at which the present hour began; reset 0. -/
  autoAt : Nat := 0
  /-- R502: 0x2105:00 U32; reset 0. -/
  remaps : Nat := 0
  /-- R502: 0x2106:00 U32; reset DESIGN CHOICE 0 (log 7). -/
  remapW : Nat := 0
  /-- R495: 0x3090:00 fenced stack in the bed map; reset none. -/
  stackMap : Option Nat := none
  /-- R495: stack fence requested; 16 + stack where it was requested in RUNNING or DRAINING and halts at the next Weir; reset none. -/
  stackReq : Option Nat := none
  /-- R495: stack whose reads give zeros after a fence in service; reset none. -/
  stackOff : Option Nat := none
  /-- R491: row repairs and repair map in force; reset none. -/
  rows : List RowFix := []
  /-- R494: 0x3093:00 repair log, up to 8,192 entries; reset empty. -/
  log : List (BitVec 64) := []
  /-- R494: 0x3093:01 U32; reset 0. -/
  unlogged : Nat := 0
  /-- R498: 0x3093:02 U32; reset 0. -/
  noEff : Nat := 0
  /-- R502: 0x3095:01 U32; reset 8. -/
  rowN : Nat := 8
  /-- R493: tiers whose 0x0F05 was raised, 8*stack+tier; reset none. -/
  fullTiers : List Nat := []
  /-- R497: harts fenced by the repair map; reset 0. -/
  hartFence : BitVec 4 := 0
deriving DecidableEq, Repr

/-- One measurement-log entry (Table 16-2). -/
structure LogEntry where
  /-- R510: TYPE; reset -. -/
  typ : Nat := 0
  /-- R510: MR; reset -. -/
  mr : Nat := 0
  /-- R510: VERDICT; reset -. -/
  verdict : Nat := 0
  /-- R510: SEQ; reset -. -/
  seq : Nat := 0
  /-- R510: TIME; reset -. -/
  time : Nat := 0
  /-- R510: SIGNER, 32 bytes; reset -. -/
  signer : List Byte := []
  /-- R510: DIGEST, 64 bytes; reset -. -/
  digest : List Byte := []
deriving DecidableEq, Repr

/-- A feed record in the send buffer (R519, Table 16-4). -/
structure FeedRec where
  /-- R519: SEQ; reset -. -/
  seq : Nat := 0
  /-- R519: TYPE and payload; reset -. -/
  body : FeedBody := .idle 0
deriving DecidableEq, Repr

/-- Trust block and feed. -/
structure Trust where
  /-- R508: MR0-MR7, 64 bytes each; reset zero (R508). -/
  mr : FMap (List Byte) := []
  /-- R510: measurement log ring, 16,384 entries; reset empty. -/
  log : List LogEntry := []
  /-- R510: 0x8011:00 U32; reset 0. -/
  logSeq : Nat := 0
  /-- R509, 17 R547: a 0x0070 entry of kind 3 was made since the last other MR7 entry; reset 0. -/
  dbgSince : Bool := false
  /-- R513: 0x8021:00; reset 0 none. -/
  quoteSt : Nat := 0
  /-- R514: quote body, bytes 0-703; reset empty. -/
  quoteSnap : List Byte := []
  /-- R514: 0x8022:00 quote; reset zero. -/
  quote : List Byte := []
  /-- R528: 0x8023:00 U32; reset 0. -/
  quotes : Nat := 0
  /-- R511: 0x8013:00 signer table of the running firmware; reset empty. -/
  signers : List (List Byte) := []
  /-- R519: SEQ of the next feed record; reset 0 (R519). -/
  feedSeq : Nat := 0
  /-- R520: feed send buffer; reset empty. -/
  feed : List FeedRec := []
  /-- R519: tick of the last IDENT; reset 0. -/
  identAt : Nat := 0
  /-- R504: the 256-bit seed of the main die's PUF, 32 bytes; reset empty until boot phase 1 derives it. -/
  seed : List Byte := []
deriving DecidableEq, Repr

/-- A closed interval (R524). -/
structure Statement where
  /-- R524: SEQ; reset -. -/
  seq : Nat := 0
  /-- R524: every byte before SIG; reset -. -/
  body : List Byte := []
deriving DecidableEq, Repr

/-- The Gauge die. -/
structure Gauge where
  /-- R518: supply up; reset down (18 Table 18-4 begins with every rail down). -/
  on : Bool := false
  /-- R504, R516: the 256-bit seed of the Gauge's PUF, 32 bytes; reset empty until its supply comes up. -/
  seed : List Byte := []
  /-- R518: EPOCH, 16 bytes; reset empty. -/
  epoch : List Byte := []
  /-- R518: epochs begun, to name the random draws; reset 0. -/
  epochs : Nat := 0
  /-- R517: 0x9003:00 Gauge time in ms (U64); reset DESIGN CHOICE 0 at the start of an epoch (log 7). -/
  time : Nat := 0
  /-- R517: ns within the present ms; reset 0. -/
  frac : Nat := 0
  /-- R517: reference absent now; reset 0. -/
  refAbs : Bool := false
  /-- R524: FLAGS of the current interval; reset 0. -/
  flags : BitVec 16 := 0
  /-- R521: next expected feed SEQ; reset 0. -/
  seqExp : Nat := 0
  /-- R522: interval tokens per tenant; reset 0. -/
  tok : FMap Nat := []
  /-- R522: tokens per tenant since the epoch began; reset 0. -/
  tokSum : FMap Nat := []
  /-- R523: energy per tenant since the epoch began; reset 0. -/
  nrgSum : FMap Nat := []
  /-- R523: energy and slot tenants of the interval's STEP records; reset none. -/
  steps : List (Nat × List Nat) := []
  /-- R523: L, sum of the energies of the interval's records; reset 0. -/
  ledger : Nat := 0
  /-- R521: GAPS of the interval; reset 0. -/
  gaps : Nat := 0
  /-- R521: BADCRC of the interval; reset 0. -/
  badcrc : Nat := 0
  /-- R528: 0x9012:01 U32; reset 0. -/
  gapsE : Nat := 0
  /-- R528: 0x9012:02 U32; reset 0. -/
  badE : Nat := 0
  /-- R524: MAINID, 32 bytes; reset zero. -/
  mainId : List Byte := []
  /-- R524: interval start in ms; reset 0. -/
  tstart : Nat := 0
  /-- R518: SEQ of the next statement; reset 0 (R518). -/
  seq : Nat := 0
  /-- R524: last signed statement; reset empty. -/
  prev : List Byte := []
  /-- R524: statements closed and not yet signed; reset none. -/
  toSign : List Statement := []
  /-- R524: 0x9010:01-20 statement places; reset zero. -/
  places : FMap (List Byte) := []
  /-- R524: 0x9011:00 U64; reset DESIGN CHOICE 0 (log 7). -/
  last : Nat := 0
  /-- R526: responses sent at the Gauge node; reset none. -/
  resp : List Resp := []
  /-- R527: copies in the main die's dictionary, key = index*256+sub; reset empty. -/
  mirror : FMap (List Byte) := []
  /-- R527: tick of the last answer; reset 0. -/
  mirrorAt : Nat := 0
  /-- R527: 0x1004 raised; reset 0. -/
  mirrorLate : Bool := false
deriving DecidableEq, Repr

/-- An event record (Table 17-1). -/
structure EvRec where
  /-- R530: SEV[1:0]; reset -. -/
  sev : Nat := 0
  /-- R530: SCYC and SEV[2]; reset -. -/
  scyc : Option Nat := none
  /-- R530: SEV[3]; reset -. -/
  replay : Bool := false
  /-- R530: ID; reset -. -/
  id : Nat := 0
  /-- R582: NODE; reset -. -/
  node : Nat := 0
  /-- R531: SEQ; reset -. -/
  seq : Nat := 0
  /-- R530: TICK; reset -. -/
  tick : Nat := 0
  /-- R530: payload items, 8 bytes each (a 24-byte core set as three); reset -. -/
  items : List Nat := []
  /-- R531: place in the order of records raised in one W-cycle: source core (192 another unit) × 32 + engine (0 the sequencer); reset -. -/
  src : Nat := 0
  /-- R531: W-cycle in which it was raised; reset -. -/
  atW : Nat := 0
deriving DecidableEq, Repr

/-- Event recorder. -/
structure Recorder where
  /-- R533: records held per unit node, up to 16 each; reset none. -/
  held : FMap (List EvRec) := []
  /-- R532: stored records, ascending SEQ, 2 cells each of 32,768; reset empty. -/
  store : List EvRec := []
  /-- R531: 0x7003:00 U64; reset 0 (R531). -/
  next : Nat := 0
  /-- R532: 0x7001:01-04 U32, key = severity; reset 0. -/
  drops : FMap Nat := []
  /-- R532: 0x7002:01-04 U32, key = severity; reset 0. -/
  overs : FMap Nat := []
  /-- R534: 0x7010:01-02 U64, key = path; reset DESIGN CHOICE 0 (log 7). -/
  cursor : FMap Nat := []
  /-- R534: 0x7011:01-02, 8,192 bytes, key = path; reset DESIGN CHOICE zero (log 7). -/
  window : FMap (List Byte) := []
  /-- R534: latch count, key = path; reset 0. -/
  wseq : FMap Nat := []
deriving DecidableEq, Repr

/-- An input-record entry (Table 17-4). -/
structure InEntry where
  /-- R537: KIND; reset -. -/
  kind : Nat := 1
  /-- R537: SCYC; reset -. -/
  scyc : Nat := 0
  /-- R537: payload; reset -. -/
  data : List Byte := []
deriving DecidableEq, Repr

/-- Input recorder and replay. -/
structure InputRec where
  /-- R536: 0x7030:01; reset DESIGN CHOICE 0 off (log 7). -/
  mode : Nat := 0
  /-- R552: 0x7030:02; reset 4 off. -/
  status : Nat := 4
  /-- R552: 0x7030:03 U64; reset 0. -/
  bytes : Nat := 0
  /-- R538: entries since the last STEP entry written (staging buffer); reset none. -/
  entries : List InEntry := []
  /-- R536: END; reset 128, after the header. -/
  end_ : Nat := 128
  /-- R552: 0x7031:00; reset DESIGN CHOICE 0 (log 7). -/
  replayOn : Nat := 0
  /-- R540: the running job replays a log; reset 0. -/
  replaying : Bool := false
  /-- R541: the log replayed is a chip-mode log; reset 0. -/
  chip : Bool := false
  /-- R541: entries of the log not yet consumed; reset none. -/
  left : List InEntry := []
  /-- R542: LASTSTEP of the log replayed; reset 0. -/
  lastStep : Nat := 0
  /-- R542: 0x7033:00 U32; reset 0. -/
  mism : Nat := 0
deriving DecidableEq, Repr

/-- Debug access and JTAG. -/
structure Debug where
  /-- R552: 0xA000:02; reset 1. -/
  steps : Nat := 1
  /-- R545: 0xA001:01; reset 0 off. -/
  brkStep : Nat := 0
  /-- R545: 0xA001:02; reset 0 off. -/
  brkS : Nat := 0
  /-- R545: 0xA001:03; reset 0 off. -/
  brkId : Nat := 0
  /-- R545: a record with the break ID was stored; reset 0. -/
  brkIdHit : Bool := false
  /-- R552: 0xA002:00; reset 0 none. -/
  cause : Nat := 0
  /-- R546: 0xA010:01; reset DESIGN CHOICE 0 (log 7). -/
  target : BitVec 64 := 0
  /-- R544: halt at the end of the next Weir, with its cause; reset none. -/
  haltWeir : Option Nat := none
  /-- R544: halt before this S-cycle, with step done; reset none. -/
  haltS : Option Nat := none
  /-- R550: a JTAG debug session is open; reset 0. -/
  session : Bool := false
  /-- R548: JTAG instruction register, 5 bits; reset PRESUMED IDCODE, IEEE 1149.1 (log 11). -/
  ir : Nat := 1
  /-- R548: value captured by the last data-register scan; reset DESIGN CHOICE 0 (log 7). -/
  dr : BitVec 64 := 0
  /-- R573: boundary-scan register; reset DESIGN CHOICE 0 (log 7). -/
  bscan : BitVec 13 := 0
  /-- R549: EXTEST drives the boundary cells; reset 0. -/
  drive : Bool := false
  /-- R548: BYPASS register; reset 0. -/
  bypass : Bool := false
  /-- R551: DTMCS register; reset PRESUMED version 1, abits 7 (log 11). -/
  dtmcs : BitVec 32 := 0x71
  /-- R551: debug module registers, key = address; reset PRESUMED 0 (log 11). -/
  dmi : FMap (BitVec 32) := []
  /-- R548: CMEM data register; reset DESIGN CHOICE 0 (log 7). -/
  cmem : BitVec 64 := 0
deriving DecidableEq, Repr

/-- Board pins and straps. -/
structure Pins where
  /-- R560: RESET_N level; reset low (pull-down, Table 18-6). -/
  resetN : Bool := false
  /-- R560: PWRGOOD level; reset low (pull-down). -/
  pwrgood : Bool := false
  /-- Table 18-6: PG_WARN_N asserted; reset not asserted (pull-up). -/
  pgWarn : Bool := false
  /-- Table 18-6: SLEEP_REQ_N asserted; reset not asserted (pull-up). -/
  sleepReq : Bool := false
  /-- Table 18-6: THERMTRIP_N asserted; reset not asserted (pull-up). -/
  thermIn : Bool := false
  /-- R569: TEMP_CRIT_N driven low; reset not driven. -/
  tempCrit : Bool := false
  /-- Table 18-6: SEGADDR[2:0]; reset 0 (pull-down). -/
  segaddr : Nat := 0
deriving DecidableEq, Repr

/-- The whole block. -/
structure State where
  /-- Model: queue of waiting commands, FIFO (the model's, log 3); reset empty. -/
  pending : List Instr := []
  /-- Model: counter that names free values (THE MODEL'S OWN, log 2); reset DESIGN CHOICE 0 (log 2). -/
  free : Nat := 0
  /-- R568: board pins; reset see Pins. -/
  pins : Pins := {}
  /-- R10: device state; reset see Dev. -/
  dev : Dev := {}
  /-- R27: schedule; reset see Sched. -/
  sch : Sched := {}
  /-- R5: 192 logical cores, key 12c+s; reset see Core. -/
  cores : FMap Core := []
  /-- R251: 16 cluster pools; reset see Pool. -/
  pools : FMap Pool := []
  /-- R251: weight beds; reset see Beds. -/
  beds : Beds := {}
  /-- R308: fabric; reset see Fabric. -/
  fab : Fabric := {}
  /-- R347: weight shards; reset see Weights. -/
  wts : Weights := {}
  /-- R380: serving controller; reset see Serving. -/
  srv : Serving := {}
  /-- R239: Tributary queues; reset see Tributary. -/
  trib : Tributary := {}
  /-- R415: management; reset see Mgmt. -/
  mgm : Mgmt := {}
  /-- R452: clocks and power; reset see Power. -/
  pwr : Power := {}
  /-- R481: repair; reset see Repair. -/
  rep : Repair := {}
  /-- R504: trust block; reset see Trust. -/
  tru : Trust := {}
  /-- R515: Gauge; reset see Gauge. -/
  gau : Gauge := {}
  /-- R530: event recorder; reset see Recorder. -/
  evr : Recorder := {}
  /-- R536: input recorder; reset see InputRec. -/
  inp : InputRec := {}
  /-- R544: debug; reset see Debug. -/
  dbg : Debug := {}
deriving DecidableEq, Repr

/-- The block right after reset: RESET_N and PWRGOOD low, the device in OFF (R560), every field at the value its docstring and INVENTORY.md
name. The queue of commands is empty. -/
def State.reset : State := {}

end Sys2Proof.Machine
end

