-- ==== Sys2Proof/Machine/Bits.lean ====
section
/-! DEFINITION. Sparse maps, bytes, bit fields, saturating counters and CRC-32, used by every other file. -/

namespace Sys2Proof.Machine

/-- The value of key `i` of a sparse map whose default is `d`. -/
def fget {α : Type} (m : FMap α) (d : α) (i : Nat) : α :=
  match m with
  | [] => d
  | (k, v) :: r => if i = k then v else fget r d i

/-- Writes key `i` of a sparse map, keeping the keys rising and no entry equal to the default `d` (log 1). -/
def fset {α : Type} [DecidableEq α] (m : FMap α) (d : α) (i : Nat) (v : α) : FMap α :=
  match m with
  | [] => if v = d then [] else [(i, v)]
  | (k, w) :: r =>
    if i = k then (if v = d then fset r d i d else (i, v) :: r)
    else if i < k then (if v = d then (k, w) :: fset r d i d else (i, v) :: (k, w) :: r)
    else (k, w) :: fset r d i v

/-- Canonical form of a sparse map above a lower bound: keys rise, no value is the default. -/
def fwfFrom {α : Type} [DecidableEq α] (d : α) (lo : Nat) : FMap α → Bool
  | [] => true
  | (k, v) :: r => decide (lo ≤ k) && decide (v ≠ d) && fwfFrom d (k + 1) r

/-- Canonical form of a sparse map. -/
def fwf {α : Type} [DecidableEq α] (d : α) (m : FMap α) : Bool := fwfFrom d 0 m

/-- Canonical form of a memory (log 1): addresses rise, no listed byte is 0. -/
def Memory.wf (m : Mem) : Bool := fwf 0#8 m

/-- Updates key `i` of a sparse map by a function. -/
def fmod {α : Type} [DecidableEq α] (m : FMap α) (d : α) (i : Nat) (f : α → α) : FMap α :=
  fset m d i (f (fget m d i))

/-- Removes key `i` of a sparse map. -/
def fdel {α : Type} (m : FMap α) (i : Nat) : FMap α := m.filter (fun p => p.1 != i)

/-- Whether key `i` is listed. -/
def fhas {α : Type} (m : FMap α) (i : Nat) : Bool := m.any (fun p => p.1 == i)

/-- One byte of a memory. -/
def mget (m : Mem) (a : Nat) : Byte := fget m 0#8 a

/-- Writes one byte of a memory. -/
def mset (m : Mem) (a : Nat) (b : Byte) : Mem := fset m 0#8 a b

/-- `n` bytes of a memory from address `a` on. -/
def mread (m : Mem) (a : Nat) : Nat → List Byte
  | 0 => []
  | n + 1 => mget m a :: mread m (a + 1) n

/-- Writes bytes of a memory from address `a` on. -/
def mwrite (m : Mem) (a : Nat) : List Byte → Mem
  | [] => m
  | b :: r => mwrite (mset m a b) (a + 1) r

/-- A memory with every listed byte of addresses `lo` to `hi - 1` removed, so that they read 0. -/
def mzero (m : Mem) (lo hi : Nat) : Mem := m.filter (fun p => decide (p.1 < lo) || decide (hi ≤ p.1))

/-- The little-endian value of a byte string (R112). -/
def leNat : List Byte → Nat
  | [] => 0
  | b :: r => b.toNat + 256 * leNat r

/-- The `n` little-endian bytes of a value (R112). -/
def leBytes (n : Nat) (v : Nat) : List Byte :=
  match n with
  | 0 => []
  | n + 1 => BitVec.ofNat 8 v :: leBytes n (v / 256)

/-- A little-endian value of `n` bytes of a memory. -/
def mnat (m : Mem) (a n : Nat) : Nat := leNat (mread m a n)

/-- The 32-bit word at word address `w` (R112, R252). -/
def mword (m : Mem) (w : Nat) : BitVec 32 := BitVec.ofNat 32 (mnat m (4 * w) 4)

/-- Writes the 32-bit word at word address `w`. -/
def mwordSet (m : Mem) (w : Nat) (v : BitVec 32) : Mem := mwrite m (4 * w) (leBytes 4 v.toNat)

/-- Bits [hi:lo] of a number. -/
def bits (n hi lo : Nat) : Nat := (n >>> lo) % 2 ^ (hi + 1 - lo)

/-- Bit `i` of a number. -/
def bit (n i : Nat) : Bool := bits n i i == 1

/-- Byte `i` of a byte string, 0 past its end. -/
def byteAt (bs : List Byte) (i : Nat) : Byte := bs.getD i 0#8

/-- The little-endian value of bytes `o` to `o + n - 1` of a byte string, 0 past its end. -/
def fieldAt (bs : List Byte) (o n : Nat) : Nat :=
  match n with
  | 0 => 0
  | n + 1 => (byteAt bs o).toNat + 256 * fieldAt bs (o + 1) n

/-- A byte string cut or padded with zeros to `n` bytes. -/
def padTo (n : Nat) (bs : List Byte) : List Byte := bs.take n ++ List.replicate (n - bs.length) 0#8

/-- Whether bytes `o` to `o + n - 1` of a byte string are all zero. -/
def zeroAt (bs : List Byte) (o n : Nat) : Bool := (List.range n).all (fun i => byteAt bs (o + i) == 0#8)

/-- A U32 counter one higher, saturating at 0xFFFF_FFFF (R108, R287, R306, R345, R378, R413, R450, R480, R502). -/
def sat32 (n : Nat) : Nat := min (n + 1) 0xFFFFFFFF

/-- A U32 counter `k` higher, saturating. -/
def sat32n (n k : Nat) : Nat := min (n + k) 0xFFFFFFFF

/-- A U16 counter one higher, saturating. -/
def sat16 (n : Nat) : Nat := min (n + 1) 0xFFFF

/-- Clamps to a range. -/
def clampN (lo hi v : Nat) : Nat := max lo (min hi v)

/-- Ceiling division. -/
def cdiv (a b : Nat) : Nat := (a + b - 1) / b

/-- Whether offsets `lo` to `hi - 1` are covered by written spans; `fuel` bounds the number of spans used. -/
def coveredF (ws : List Span) (lo hi : Nat) : Nat → Bool
  | 0 => decide (hi ≤ lo)
  | f + 1 =>
    decide (hi ≤ lo) ||
    match ws.find? (fun w => decide (w.lo ≤ lo) && decide (lo < w.hi)) with
    | some w => coveredF ws w.hi hi f
    | none => false

/-- Whether offsets `lo` to `hi - 1` have all been written. -/
def covered (ws : List Span) (lo hi : Nat) : Bool := coveredF ws lo hi (ws.length + 1)

/-- One bit of a CRC-32 with generator 0x04C1_1DB7, most significant bit first (R309, R519). -/
def crcBit (c : BitVec 32) (b : Bool) : BitVec 32 :=
  if c.msb != b then (c <<< 1) ^^^ 0x04C11DB7#32 else c <<< 1

/-- CRC-32 over bytes with generator 0x04C1_1DB7 (R309, R519): initial value 0xFFFF_FFFF, most significant bit of each byte first, result
complemented (PRESUMED: the spec names the generator alone; log 14). -/
def crc32 (bs : List Byte) : BitVec 32 :=
  ~~~ (bs.foldl (fun c b => [7, 6, 5, 4, 3, 2, 1, 0].foldl (fun c i => crcBit c (b.getLsbD i)) c) 0xFFFFFFFF#32)

/-- The 16 bytes of a flit, least significant first. -/
def flitBytes (f : BitVec 128) : List Byte := leBytes 16 f.toNat

/-- Ascending list of the numbers below `n` that satisfy `p`. -/
def indices (n : Nat) (p : Nat → Bool) : List Nat := (List.range n).filter p

/-- The numbers of a list, each once. -/
def uniq : List Nat → List Nat
  | [] => []
  | x :: r => if r.contains x then uniq r else x :: uniq r

/-- Sum of a list. -/
def sumN (l : List Nat) : Nat := l.foldl (· + ·) 0

end Sys2Proof.Machine
end

