-- ==== Sys2Proof/Machine/NumFmt.lean ====
section
/-! DEFINITION. Number formats, exact values, rounding, conversions and block scales (spec/04_number_formats.md), and the correctly rounded
functions of R202 and R229. -/

namespace Sys2Proof.Machine

/-- Bits of the sticky register (Table 4-10). -/
abbrev Fl := BitVec 32

def flNone : Fl := 0#32
def flSUB : Fl := 1#32
def flSAT : Fl := 2#32
def flNANZ : Fl := 4#32
def flISAT : Fl := 8#32
def flIWRAP : Fl := 16#32
def flINV : Fl := 32#32
def flOVF : Fl := 64#32
def flSNAN : Fl := 128#32
def flOUTL : Fl := 256#32
def flTERN : Fl := 512#32

/-- A code and the sticky flags its making set. -/
structure NR where
  v : Nat
  fl : Fl
deriving DecidableEq, Repr

/-- The value of one element: finite `(-1)^neg * m * 2^e`, an infinity, or a NaN whose payload is aligned to 23 bits. -/
inductive FVal where
  | fin (neg : Bool) (m : Nat) (e : Int)
  | inf (neg : Bool)
  | nan (neg : Bool) (pay : Nat)
deriving DecidableEq, Repr

/-- A result before rounding: exact up to `sticky` (the magnitude lies strictly between m and m + 1 units), an infinity, or an invalid
operation. -/
inductive ERes where
  | ex (neg : Bool) (m : Nat) (e : Int) (sticky : Bool)
  | inf (neg : Bool)
  | invalid
deriving DecidableEq, Repr

/-- A floating-point element format (Table 4-2): exponent and mantissa bits, bias, sign, and special codes: 0 none, 1 as IEEE 754, 2 as E4M3. -/
structure FFmt where
  eb : Nat
  mb : Nat
  bias : Int
  signed : Bool
  special : Nat
deriving DecidableEq, Repr

def fFP32 : FFmt := ⟨8, 23, 127, true, 1⟩
def fBF16 : FFmt := ⟨8, 7, 127, true, 1⟩
def fE4M3 : FFmt := ⟨4, 3, 7, true, 2⟩
def fE5M2 : FFmt := ⟨5, 2, 15, true, 1⟩
def fE3M2 : FFmt := ⟨3, 2, 3, true, 0⟩
def fE2M3 : FFmt := ⟨2, 3, 1, true, 0⟩
def fE2M1 : FFmt := ⟨2, 1, 1, true, 0⟩
def fUE4M4 : FFmt := ⟨4, 4, 7, false, 0⟩

/-- Whether a format code is reserved (Table 4-1). -/
def fmtReserved (f : Nat) : Bool := decide (0x13 ≤ f)

/-- Element width in bits of a format code (Table 4-1); TERN elements are packed 5 per byte and have none. -/
def fmtBits (f : Nat) : Nat :=
  if f = 0 ∨ f = 4 then 32 else if f = 1 then 16
  else if f = 7 ∨ f = 0xE ∨ f = 0x10 then 4 else if f = 8 then 2
  else if f = 0xC ∨ f = 0xD then 6 else if f = 9 then 0 else 8

/-- Width class of a format as the stationary operand, 0 where it has none (Table 4-1). -/
def widthClass (f : Nat) : Nat :=
  if f = 2 ∨ f = 3 ∨ f = 5 ∨ f = 6 ∨ (0xA ≤ f ∧ f ≤ 0xD) ∨ f = 0xF ∨ f = 0x11 ∨ f = 0x12 then 8
  else if f = 7 ∨ f = 0xE ∨ f = 0x10 then 4 else if f = 8 then 2 else 0

/-- Block formats: MX, ZB4 and split pieces (Table 4-1). -/
def fmtBlock (f : Nat) : Bool := decide (0xA ≤ f ∧ f ≤ 0x12)

/-- Plain integer formats INT32, INT8, UINT8, INT4, INT2 (R115). -/
def fmtInt (f : Nat) : Bool := decide (4 ≤ f ∧ f ≤ 8)

/-- The float element format of a code, where its elements are floats. -/
def fmtFloat (f : Nat) : Option FFmt :=
  match f with
  | 0 => some fFP32
  | 1 => some fBF16
  | 2 => some fE4M3
  | 3 => some fE5M2
  | 0xA => some fE4M3
  | 0xB => some fE5M2
  | 0xC => some fE3M2
  | 0xD => some fE2M3
  | 0xE => some fE2M1
  | 0x10 => some fE2M1
  | _ => none

/-- The value of a float code (R114). -/
def decF (f : FFmt) (c : Nat) : FVal :=
  let neg := f.signed && bit c (f.eb + f.mb)
  let e := bits c (f.eb + f.mb - 1) f.mb
  let m := c % 2 ^ f.mb
  if e = 2 ^ f.eb - 1 ∧ f.special = 1 then
    if m = 0 then .inf neg else .nan neg (m * 2 ^ (23 - f.mb))
  else if e = 2 ^ f.eb - 1 ∧ f.special = 2 ∧ m = 2 ^ f.mb - 1 then .nan neg (m * 2 ^ (23 - f.mb))
  else if e = 0 then .fin neg m (1 - f.bias - f.mb)
  else .fin neg (2 ^ f.mb + m) (Int.ofNat e - f.bias - f.mb)

/-- Two's complement value of the low `w` bits. -/
def sext (w c : Nat) : Int := if bit c (w - 1) then Int.ofNat (c % 2 ^ w) - 2 ^ w else Int.ofNat (c % 2 ^ w)

/-- The low `w` bits of an integer. -/
def toBits (w : Nat) (x : Int) : Nat := (x % 2 ^ w).toNat

/-- An integer as a value. -/
def intVal (x : Int) (e : Int) : FVal := .fin (decide (x < 0)) x.natAbs e

/-- The integer of an integer-format code (R115): UINT8 unsigned, the others two's complement. -/
def decI (f c : Nat) : Int := if f = 6 then Int.ofNat (c % 256) else sext (fmtBits f) c

/-- The value of an element code before its block scale (R114, R115, R142); a TERN element is given by its digit (R116). -/
def decElem (f c : Nat) : FVal :=
  match fmtFloat f with
  | some ff => decF ff c
  | none =>
    if f = 9 then (if c = 0 then .fin false 0 0 else .fin (decide (c = 2)) 1 0)
    else if f = 0xF then intVal (sext 8 c) (-6)
    else if f = 0x11 then intVal (sext 8 c) 0
    else if f = 0x12 then intVal (Int.ofNat (c % 256)) 0
    else intVal (decI f c) 0

/-- The value of a block scale code: UE4M4 for ZB4, E8M0 otherwise (R114, R118, R120). Which NaN the elements under scale 0xFF are, the spec does
not say; the model takes the positive canonical one, also over an element's own NaN (DESIGN CHOICE; log 74). -/
def decScale (f c : Nat) : FVal :=
  if f = 0x10 then decF fUE4M4 c else if c = 255 then .nan false 0x400000 else .fin false 1 (Int.ofNat c - 127)

/-- Largest finite magnitude code of a float format (Table 4-2). -/
def maxCode (f : FFmt) : Nat :=
  if f.special = 1 then (2 ^ f.eb - 1) * 2 ^ f.mb - 1
  else if f.special = 2 then 2 ^ (f.eb + f.mb) - 2
  else 2 ^ (f.eb + f.mb) - 1

/-- Rounds the magnitude `m * 2^e` (a little more if `sticky`) to a format's precision: the integer significand and its exponent, the exponent
range unbounded above. `near` is RNE, otherwise towards zero (R137). -/
def roundMag (f : FFmt) (near : Bool) (m : Nat) (e : Int) (sticky : Bool) : Nat × Int :=
  let emin : Int := 1 - f.bias - f.mb
  let q : Int := max emin (e + Int.ofNat m.log2 - f.mb)
  if q ≤ e then (m * 2 ^ (e - q).toNat, q)
  else
    let sh := (q - e).toNat
    let r := m / 2 ^ sh
    let rem := m % 2 ^ sh
    let half := 2 ^ (sh - 1)
    if near && (decide (half < rem) || (rem == half && (sticky || r % 2 == 1))) then (r + 1, q) else (r, q)

/-- The code without sign of a rounded magnitude, or `none` where it exceeds the largest finite magnitude. -/
def packMag (f : FFmt) (r : Nat) (q : Int) : Option Nat :=
  if r = 0 then some 0
  else if r < 2 ^ f.mb then some r
  else
    let l := r.log2
    let ex := (q + Int.ofNat l + f.bias).toNat
    let c := ex * 2 ^ f.mb + (r / 2 ^ (l - f.mb) - 2 ^ f.mb)
    if c ≤ maxCode f then some c else none

/-- Adds the sign bit to a code. -/
def withSign (f : FFmt) (neg : Bool) (c : Nat) : Nat := if neg && f.signed then c + 2 ^ (f.eb + f.mb) else c

/-- Whether a magnitude code is a non-zero subnormal. -/
def subnormal (f : FFmt) (c : Nat) : Bool := decide (0 < c % 2 ^ (f.eb + f.mb)) && decide (c % 2 ^ (f.eb + f.mb) < 2 ^ f.mb)

/-- The infinity code without sign. -/
def infCode (f : FFmt) : Nat := (2 ^ f.eb - 1) * 2 ^ f.mb

/-- The canonical NaN (R126; S.1111.111 for E4M3). -/
def canonNaN (f : FFmt) : Nat := if f.special = 2 then 2 ^ (f.eb + f.mb) - 1 else infCode f + 2 ^ (f.mb - 1)

/-- A NaN of a format from a sign and a payload aligned to 23 bits, with the quiet bit set (rule X of Table 4-7, R127). Rule F says only that a NaN
becomes a quiet one: the model forms it in the same way, sign kept and payload cut (DESIGN CHOICE; log 74). -/
def nanCode (f : FFmt) (neg : Bool) (pay : Nat) : Nat :=
  if f.special = 2 then withSign f neg (2 ^ (f.eb + f.mb) - 1)
  else
    let p := pay / 2 ^ (23 - f.mb) % 2 ^ f.mb
    withSign f neg (infCode f + (if p < 2 ^ (f.mb - 1) then p + 2 ^ (f.mb - 1) else p))

/-- The NaN that a conversion into a format gives: rule N for the 8-bit formats, rules X and F for FP32 and BF16 (Table 4-7). -/
def nanTo (f : FFmt) (neg : Bool) (pay : Nat) : Nat := if f.eb = 8 then nanCode f neg pay else withSign f neg (canonNaN f)

/-- FTZ on an FP32 or BF16 operand (R130): the code read, and SUB where a non-zero subnormal was replaced. -/
def flushIn (ftz : Bool) (f : FFmt) (c : Nat) : NR :=
  if ftz && f.special == 1 && f.eb == 8 && subnormal f c then ⟨withSign f (bit c (f.eb + f.mb)) 0, flSUB⟩ else ⟨c, flNone⟩

/-- FTZ on an FP32 or BF16 result, judged after rounding (R130). -/
def flushOut (ftz : Bool) (f : FFmt) (r : NR) : NR :=
  if ftz && f.eb == 8 && subnormal f r.v then ⟨withSign f (bit r.v (f.eb + f.mb)) 0, r.fl ||| flSUB⟩ else r

/-- Rule F and R126: rounding to FP32 or BF16, `near` or towards zero; overflow gives an infinity and OVF in RNE, the largest finite magnitude
when rounding towards zero (R138). -/
def roundIEEE (f : FFmt) (near ftz : Bool) : ERes → NR
  | .inf neg => ⟨withSign f neg (infCode f), flNone⟩
  | .invalid => ⟨canonNaN f, flINV⟩
  | .ex neg m e st =>
    let (r, q) := roundMag f near m e st
    match packMag f r q with
    | some c => flushOut ftz f ⟨withSign f neg c, flNone⟩
    | none => if near then ⟨withSign f neg (infCode f), flOVF⟩ else ⟨withSign f neg (maxCode f), flNone⟩

/-- Rule N: rounding to a narrow float with saturation (Table 4-7, R119, R128). -/
def roundNarrow (f : FFmt) : ERes → NR
  | .inf neg => ⟨withSign f neg (maxCode f), flSAT⟩
  | .invalid => ⟨canonNaN f, flNone⟩
  | .ex neg m e st =>
    let (r, q) := roundMag f true m e st
    match packMag f r q with
    | some c => ⟨withSign f neg c, flNone⟩
    | none => ⟨withSign f neg (maxCode f), flSAT⟩

/-- Rounding of an arithmetic result to a float format: R126 and R130 for FP32 and BF16, R128 for the 8-bit formats. -/
def roundTo (f : FFmt) (ftz : Bool) (r : ERes) : NR := if f.eb = 8 then roundIEEE f true ftz r else roundNarrow f r

/-- A value taken as a result. -/
def exOf : FVal → ERes
  | .fin n m e => .ex n m e false
  | .inf n => .inf n
  | .nan _ _ => .invalid

def fNeg : FVal → FVal
  | .fin n m e => .fin (!n) m e
  | .inf n => .inf (!n)
  | .nan n p => .nan (!n) p

def fIsNan : FVal → Bool
  | .nan _ _ => true
  | _ => false

/-- Exact sum of two values that are not NaN (IEEE 754; an exact zero sum of unlike signs is +0). -/
def addX (a b : FVal) : ERes :=
  match a, b with
  | .fin na ma ea, .fin nb mb eb =>
    let e := min ea eb
    let xa : Int := Int.ofNat (ma * 2 ^ (ea - e).toNat) * (if na then -1 else 1)
    let xb : Int := Int.ofNat (mb * 2 ^ (eb - e).toNat) * (if nb then -1 else 1)
    let x := xa + xb
    if x = 0 then .ex (na && nb) 0 e false else .ex (decide (x < 0)) x.natAbs e false
  | .inf na, .inf nb => if na = nb then .inf na else .invalid
  | .inf na, _ => .inf na
  | _, .inf nb => .inf nb
  | _, _ => .invalid

/-- Exact product of two values that are not NaN. -/
def mulX (a b : FVal) : ERes :=
  match a, b with
  | .fin na ma ea, .fin nb mb eb => .ex (na != nb) (ma * mb) (ea + eb) false
  | .inf na, .fin nb m _ => if m = 0 then .invalid else .inf (na != nb)
  | .fin na m _, .inf nb => if m = 0 then .invalid else .inf (na != nb)
  | .inf na, .inf nb => .inf (na != nb)
  | _, _ => .invalid

/-- An exact result taken as a value again (an invalid one as a NaN). -/
def valOf : ERes → FVal
  | .ex n m e _ => .fin n m e
  | .inf n => .inf n
  | .invalid => .nan false 0x400000

/-- Exact A × B + C of values that are not NaN. -/
def fmaX (a b c : FVal) : ERes :=
  match mulX a b with
  | .invalid => .invalid
  | r => addX (valOf r) c

/-- Quotient of two values that are not NaN, to 80 bits and sticky (R202, Table 6-4). -/
def divX (a b : FVal) : ERes :=
  match a, b with
  | .inf _, .inf _ => .invalid
  | .inf na, .fin nb _ _ => .inf (na != nb)
  | .fin na _ _, .inf nb => .ex (na != nb) 0 0 false
  | .fin na ma ea, .fin nb mb eb =>
    if mb = 0 then (if ma = 0 then .invalid else .inf (na != nb))
    else if ma = 0 then .ex (na != nb) 0 0 false
    else
      let k := 80 + mb.log2
      let n := ma * 2 ^ k
      .ex (na != nb) (n / mb) (ea - eb - k) (n % mb != 0)
  | _, _ => .invalid

/-- Integer square root by bits: the largest r with r * r ≤ n, for n below 4 ^ b. -/
def isqrtB (n : Nat) : Nat → Nat → Nat
  | 0, r => r
  | b + 1, r => if (r + 2 ^ b) * (r + 2 ^ b) ≤ n then isqrtB n b (r + 2 ^ b) else isqrtB n b r

/-- Integer square root. -/
def isqrt (n : Nat) : Nat := isqrtB n (n.log2 / 2 + 1) 0

/-- Makes the exponent of a magnitude even. -/
def evenExp (m : Nat) (e : Int) : Nat × Int := if e % 2 = 0 then (m, e) else (2 * m, e - 1)

/-- Square root of a value that is not NaN (Table 6-4). -/
def sqrtX : FVal → ERes
  | .inf n => if n then .invalid else .inf false
  | .fin n m e =>
    if m = 0 then .ex n 0 0 false
    else if n then .invalid
    else
      let (m, e) := evenExp m e
      let x := m * 2 ^ 160
      let r := isqrt x
      .ex false r (e / 2 - 80) (r * r != x)
  | .nan _ _ => .invalid

/-- Reciprocal square root of a value that is not NaN (Table 6-4). -/
def rsqrtX : FVal → ERes
  | .inf n => if n then .invalid else .ex false 0 0 false
  | .fin n m e =>
    if m = 0 then .inf n
    else if n then .invalid
    else
      let (m, e) := evenExp m e
      let k := 80 + m.log2
      let x := 2 ^ (2 * k)
      let r := isqrt (x / m)
      .ex false r (-(e / 2) - k) (r * r * m != x)
  | .nan _ _ => .invalid

/-- Fraction bits of the fixed-point series of R202 and R229 (log 15). -/
def fixB : Nat := 320

/-- ln 2 in fixed point, by its series sum of 1 / (k 2^k). -/
def ln2Fix : Nat := sumN ((List.range 340).map fun k => 2 ^ (fixB + 8) / ((k + 1) * 2 ^ (k + 1))) / 2 ^ 8

/-- Terms t^k / k! of the exponential series in fixed point, summed from term k on. -/
def expSer (t : Nat) : Nat → Nat → Nat → Nat
  | 0, _, _ => 0
  | n + 1, k, term => term + expSer t n (k + 1) (term * t / 2 ^ fixB / (k + 1))

/-- 2 ^ x, correctly rounded once the result is rounded (R202; log 15). -/
def exp2X : FVal → ERes
  | .inf n => if n then .ex false 0 0 false else .inf false
  | .nan _ _ => .invalid
  | .fin neg m e =>
    if m = 0 then .ex false 1 0 false
    else if 14 ≤ e + Int.ofNat m.log2 then (if neg then .ex false 1 (-20000) true else .ex false 1 20000 false)
    else
      let a : Int := if 0 ≤ e then Int.ofNat (m * 2 ^ e.toNat * 2 ^ fixB) else Int.ofNat (m * 2 ^ fixB / 2 ^ (-e).toNat)
      let x := if neg then -a else a
      let n := x / 2 ^ fixB
      let f := (x % 2 ^ fixB).toNat
      if f = 0 then .ex false 1 n false
      else .ex false (expSer (f * ln2Fix / 2 ^ fixB) 90 0 (2 ^ fixB)) (n - fixB) true

/-- Terms z^(2k+1) / (2k+1) of the inverse hyperbolic tangent in fixed point. -/
def atanhSer (z2 : Nat) : Nat → Nat → Nat → Nat
  | 0, _, _ => 0
  | n + 1, k, p => p / (2 * k + 1) + atanhSer z2 n (k + 1) (p * z2 / 2 ^ fixB)

/-- Base-2 logarithm, correctly rounded once the result is rounded (R202; log 15). -/
def log2X : FVal → ERes
  | .inf n => if n then .invalid else .inf false
  | .nan _ _ => .invalid
  | .fin neg m e =>
    if m = 0 then .inf true
    else if neg then .invalid
    else
      let l := m.log2
      let n : Int := e + l
      if m = 2 ^ l then (if n = 0 then .ex false 0 0 false else .ex (decide (n < 0)) n.natAbs 0 false)
      else
        let z := (m - 2 ^ l) * 2 ^ fixB / (m + 2 ^ l)
        let ln := 2 * atanhSer (z * z / 2 ^ fixB) 110 0 z
        let v : Int := n * 2 ^ fixB + Int.ofNat (ln * 2 ^ fixB / ln2Fix)
        .ex (decide (v < 0)) v.natAbs (-fixB) true

/-- Arc tangent of 1 / d in fixed point with `fixB + 16` bits. -/
def atanInv (d : Nat) : Nat → Nat → Nat → Int
  | 0, _, _ => 0
  | n + 1, k, p =>
    (if k % 2 = 0 then Int.ofNat (p / (2 * k + 1)) else -Int.ofNat (p / (2 * k + 1))) + atanInv d n (k + 1) (p / (d * d))

/-- pi in fixed point (Machin's formula). -/
def piFix : Nat :=
  ((16 * atanInv 5 80 0 (2 ^ (fixB + 16) / 5) - 4 * atanInv 239 30 0 (2 ^ (fixB + 16) / 239)) / 2 ^ 16).toNat

/-- Alternating series of sine (k = 1) or cosine (k = 0) in fixed point. -/
def trigSer (t2 : Nat) : Nat → Nat → Int → Int
  | 0, _, _ => 0
  | n + 1, k, term => term + trigSer t2 n (k + 2) (-(term * t2 / 2 ^ fixB / ((k + 1) * (k + 2))))

/-- Sine and cosine of 2 pi f for f = num / 2^fixB in [0, 1) (R229; log 15). -/
def sinCosTurn (num : Nat) : ERes × ERes :=
  let q := num * 4 / 2 ^ fixB
  let r := num * 4 % 2 ^ fixB
  let half := decide (2 ^ fixB < 2 * r)
  let r' := if half then 2 ^ fixB - r else r
  let t := r' * piFix / 2 ^ (fixB + 1)
  let t2 := t * t / 2 ^ fixB
  let sn : ERes := if r' = 0 then .ex false 0 0 false else .ex false (trigSer t2 60 1 (Int.ofNat t)).toNat (-fixB) true
  let cs : ERes := if r' = 0 then .ex false 1 0 false else .ex false (trigSer t2 60 0 (2 ^ fixB)).toNat (-fixB) true
  let (s0, c0) := if half then (cs, sn) else (sn, cs)
  let ng : ERes → ERes := fun x => match x with
    | .ex n m e st => .ex (if m = 0 then n else !n) m e st
    | y => y
  if q = 0 then (s0, c0) else if q = 1 then (c0, ng s0) else if q = 2 then (ng s0, ng c0) else (ng c0, s0)

/-- RNE of a magnitude to an integer. -/
def rneInt (m : Nat) (e : Int) : Nat :=
  if 0 ≤ e then m * 2 ^ e.toNat
  else
    let sh := (-e).toNat
    let r := m / 2 ^ sh
    let rem := m % 2 ^ sh
    let half := 2 ^ (sh - 1)
    if half < rem ∨ (rem = half ∧ r % 2 = 1) then r + 1 else r

/-- Range of an integer format (R115). -/
def intRange (f : Nat) : Int × Int :=
  if f = 6 then (0, 255)
  else if f = 9 then (-1, 1)
  else (-(2 ^ (fmtBits f - 1)), 2 ^ (fmtBits f - 1) - 1)

/-- Code of an integer in an integer format; a TERN element as its digit (R116). -/
def encI (f : Nat) (x : Int) : Nat := if f = 9 then (if x = 0 then 0 else if 0 < x then 1 else 2) else toBits (fmtBits f) x

/-- Saturates or wraps an integer result (R131, rule W). -/
def intWrap (f : Nat) (wrap : Bool) (x : Int) : NR :=
  let (lo, hi) := intRange f
  if lo ≤ x ∧ x ≤ hi then ⟨encI f x, flNone⟩
  else if wrap then ⟨encI f x, flIWRAP⟩
  else ⟨encI f (if x < lo then lo else hi), flISAT⟩

/-- Rule I (Table 4-7): a float value to an integer format. -/
def toInt (f : Nat) : FVal → NR
  | .nan _ _ => ⟨0, flNANZ⟩
  | .inf n => ⟨encI f (if n then (intRange f).1 else (intRange f).2), flISAT⟩
  | .fin n m e =>
    let x : Int := if n then -Int.ofNat (rneInt m e) else Int.ofNat (rneInt m e)
    intWrap f false x

/-- Onward conversion of a value (Tables 4-6, 4-7) to a destination that is no block format: `isInt` says that the source is an integer. -/
def cvtVal (dst : Nat) (wrap ftz isInt : Bool) (v : FVal) : NR :=
  match fmtFloat dst with
  | some f =>
    match v with
    | .nan n p => ⟨nanTo f n p, flNone⟩
    | v => roundTo f ftz (exOf v)
  | none =>
    match v with
    | .fin n m e =>
      if isInt then
        let x : Int := if n then -Int.ofNat (rneInt m e) else Int.ofNat (rneInt m e)
        intWrap dst (wrap && dst != 9) x
      else toInt dst v
    | v => toInt dst v

/-- Conversion of one element between formats that are no block formats (R124). Converting to the own format keeps the code, a NaN quietened and
an FP32 or BF16 subnormal flushed under FTZ (R130). -/
def cvtElem (src dst : Nat) (wrap ftz : Bool) (c : Nat) : NR :=
  if src = dst then
    match fmtFloat src with
    | some f => match decF f c with
      | .nan n p => ⟨nanCode f n p, flNone⟩
      | _ => flushIn ftz f c
    | none => ⟨c, flNone⟩
  else
    match fmtFloat src with
    | some f =>
      let i := flushIn ftz f c
      let r := cvtVal dst wrap ftz false (decF f i.v)
      ⟨r.v, i.fl ||| r.fl⟩
    | none => cvtVal dst wrap ftz true (decElem src c)

/-- An exact value with a power-of-two or UE4M4 scale (R118, R120). -/
def scaled (v s : FVal) : FVal :=
  match s with
  | .nan n p => .nan n p
  | _ => match v with
    | .fin n m e => match s with
      | .fin _ ms es => .fin n (m * ms) (e + es)
      | _ => .fin n m e
    | .inf n => .inf n
    | .nan n p => .nan n p

/-- Rule D: an element of a block format with its scale code, times an exact factor T, plus an outlier value, rounded once to FP32 (R118, R120,
R142; R231 for the factor and the outlier). Sets SNAN for scale code 0xFF. -/
def decBlock (f c sc : Nat) (t o : FVal) (ftz : Bool) : NR :=
  let fl := if f ≠ 0x10 ∧ sc = 255 then flSNAN else flNone
  let sv := scaled (decElem f c) (decScale f sc)
  match sv, o, t with
  | .nan n p, _, _ => ⟨nanCode fFP32 n p, fl⟩
  | _, .nan n p, _ => ⟨nanCode fFP32 n p, fl⟩
  | _, _, .nan n p => ⟨nanCode fFP32 n p, fl⟩
  | _, _, _ =>
    let s1 := match o with
      | .fin _ 0 _ => sv
      | _ => valOf (addX sv o)
    let r := roundIEEE fFP32 true ftz (if fIsNan s1 then .invalid else mulX s1 t)
    ⟨r.v, fl ||| r.fl⟩

/-- ⌊log₂ |x|⌋ of a finite non-zero value. -/
def flog2 (m : Nat) (e : Int) : Int := e + Int.ofNat m.log2

/-- Largest ⌊log₂ |x|⌋ of a block, none where every element is zero. -/
def blockExp (xs : List FVal) : Option Int :=
  xs.foldl (fun a x => match x with
    | .fin _ m e => if m = 0 then a else match a with
      | none => some (flog2 m e)
      | some b => some (max b (flog2 m e))
    | _ => a) none

/-- Whether any value is a NaN or an infinity. -/
def anySpecial (xs : List FVal) : Bool := xs.any fun x => match x with
  | .fin _ _ _ => false
  | _ => true

/-- E_max of an MX element format (R119). -/
def mxEmax (f : Nat) : Int :=
  match f with
  | 0xA => 8
  | 0xB => 15
  | 0xC => 4
  | 0xD => 2
  | 0xE => 2
  | _ => 0

/-- One MX element: x / 2^X rounded and saturated (R119). -/
def mxElem (f : Nat) (x : FVal) (xe : Int) : NR :=
  match x with
  | .fin n m e =>
    if f = 0xF then
      let k : Int := if n then -Int.ofNat (rneInt m (e - xe + 6)) else Int.ofNat (rneInt m (e - xe + 6))
      if k < -128 then ⟨0x80, flSAT⟩ else if 127 < k then ⟨0x7F, flSAT⟩ else ⟨toBits 8 k, flNone⟩
    else match fmtFloat f with
      | some ff => roundNarrow ff (.ex n m (e - xe) false)
      | none => ⟨0, flNone⟩
  | _ => ⟨0, flNone⟩

/-- A scale code, the element codes of a block and the flags. -/
structure Block where
  scale : Nat
  codes : List Nat
  fl : Fl
deriving DecidableEq, Repr

/-- Union of the flags of results. -/
def flOr (rs : List NR) : Fl := rs.foldl (fun a r => a ||| r.fl) flNone

/-- MX block encode (R119). -/
def mxEncode (f : Nat) (xs : List FVal) : Block :=
  if anySpecial xs then ⟨255, xs.map fun _ => 0, flNone⟩
  else
    let xe : Int := match blockExp xs with
      | none => -127
      | some l => max (-127) (min 127 (l - mxEmax f))
    let rs := xs.map fun x => mxElem f x xe
    ⟨(xe + 127).toNat, rs.map (·.v), flOr rs⟩

/-- Whether 6 * s ≥ a for a UE4M4 code s and an exact magnitude a (R123). -/
def zbCovers (s : Nat) (m : Nat) (e : Int) : Bool :=
  match decF fUE4M4 s with
  | .fin _ ms es =>
    let k := min e es
    decide (m * 2 ^ (e - k).toNat ≤ 6 * ms * 2 ^ (es - k).toNat)
  | _ => false

/-- Largest magnitude of a block of finite values. -/
def blockMax (xs : List FVal) : Nat × Int :=
  xs.foldl (fun a x => match x with
    | .fin _ m e =>
      let k := min e a.2
      if a.1 * 2 ^ (a.2 - k).toNat < m * 2 ^ (e - k).toNat then (m, e) else a
    | _ => a) (0, 0)

/-- ZB4 block encode with tensor scale T (R123); a scale held to 496 sets SAT (Table 4-10). -/
def zbEncode (ftz : Bool) (t : FVal) (xs : List FVal) : Block :=
  let ys := xs.map fun x =>
    if fIsNan x || fIsNan t then (⟨canonNaN fFP32, flNone⟩ : NR) else roundIEEE fFP32 true ftz (divX x t)
  let vs := ys.map fun y => match decF fFP32 y.v with
    | .nan _ _ => ((.fin false 0 0, flNANZ) : FVal × Fl)
    | .inf n => (.fin n (2 ^ 24 - 1) 104, flNone)
    | v => (v, flNone)
  let (am, ae) := blockMax (vs.map (·.1))
  let (s, sat) := if am = 0 then (0, flNone) else match (List.range 256).find? (fun s => zbCovers s am ae) with
    | some s => (s, flNone)
    | none => (255, flSAT)
  let sv := decF fUE4M4 s
  let rs := vs.map fun v => if s = 0 then (⟨0, flNone⟩ : NR) else roundNarrow fE2M1 (divX v.1 sv)
  ⟨s, rs.map (·.v), sat ||| flOr ys ||| vs.foldl (fun a v => a ||| v.2) flNone ||| flOr rs⟩

/-- Split of a block into the piece `p` of kind BF16 (`s32` false) or FP32S (R140). -/
def splitBlock (s32 : Bool) (p : Nat) (xs : List FVal) : Block :=
  if anySpecial xs then ⟨255, xs.map fun _ => 0, flNone⟩
  else
    let lo : Int := if s32 then -104 else -112
    let eb : Int := match blockExp (xs.map fun x => match x with
        | .fin n m e => if m ≠ 0 ∧ flog2 m e < -126 then .fin n 1 (-126) else x
        | x => x) with
      | none => lo
      | some l => l
    let e := max eb lo
    let w : Int := if s32 then 22 else 14
    let lim : Int := if s32 then 8388607 else 32767
    let rs := xs.map fun x => match x with
      | .fin n m ex =>
        let v : Int := if n then -Int.ofNat (rneInt m (ex + w - e)) else Int.ofNat (rneInt m (ex + w - e))
        let c := max (-lim) (min lim v)
        (⟨toBits 8 (c / 2 ^ (8 * p)), if c = v then flNone else flSAT⟩ : NR)
      | _ => ⟨0, flNone⟩
    let top := if s32 then 2 else 1
    ⟨(e + 121 - 8 * (Int.ofNat top - Int.ofNat p)).toNat, rs.map (·.v), flOr rs⟩

/-- Exact number of a value; a NaN or an infinity keeps its kind. A NaN that comes in is no invalid operation (R127). -/
def xnumOf : FVal → XNum
  | .fin n m e => .fin (if n then -Int.ofNat m else Int.ofNat m) e
  | .inf n => .inf n
  | .nan _ _ => .nan false

/-- Exact sum, IEEE 754 for infinities and NaNs (R136); beside a NaN that came in, no invalid operation counts (R127). -/
def xadd : XNum → XNum → XNum
  | .nan a, .nan b => .nan (a && b)
  | .nan a, _ => .nan a
  | _, .nan b => .nan b
  | .inf a, .inf b => if a = b then .inf a else .nan true
  | .inf a, _ => .inf a
  | _, .inf b => .inf b
  | .fin a ea, .fin b eb =>
    if a = 0 then .fin b eb else if b = 0 then .fin a ea
    else
      let e := min ea eb
      .fin (a * 2 ^ (ea - e).toNat + b * 2 ^ (eb - e).toNat) e

/-- Exact product, IEEE 754 for infinities and NaNs. -/
def xmul : XNum → XNum → XNum
  | .nan a, .nan b => .nan (a && b)
  | .nan a, _ => .nan a
  | _, .nan b => .nan b
  | .fin a ea, .fin b eb => .fin (a * b) (ea + eb)
  | .inf n, .fin a _ => if a = 0 then .nan true else .inf (n != decide (a < 0))
  | .fin a _, .inf n => if a = 0 then .nan true else .inf (n != decide (a < 0))
  | .inf a, .inf b => .inf (a != b)

/-- Zero as an exact number: the default of the outlier sums. -/
def xzero : XNum := .fin 0 0

/-- An exact number as a value; its zero is +0. -/
def fvalOf : XNum → FVal
  | .fin m e => .fin (decide (m < 0)) m.natAbs e
  | .inf n => .inf n
  | .nan _ => .nan false 0x400000

/-- Whether an exact number is a NaN. -/
def xIsNan : XNum → Bool
  | .nan _ => true
  | _ => false

/-- Whether an exact number is the NaN of an invalid operation (R126). -/
def xInvalid : XNum → Bool
  | .nan i => i
  | _ => false


/-- FP32 accumulation acc + p rounded once, truncating or RNE (R137, R138); a NaN makes the canonical NaN (R127), an invalid sum sets INV. -/
def accumF (near ftz : Bool) (acc : Nat) (p : XNum) : NR :=
  let a := flushIn ftz fFP32 acc
  match decF fFP32 a.v with
  | .nan _ _ => ⟨0x7FC00000, a.fl⟩
  | v =>
    if xIsNan p then ⟨0x7FC00000, a.fl⟩
    else
      let r := roundIEEE fFP32 near ftz (addX v (fvalOf p))
      ⟨r.v, a.fl ||| r.fl⟩

/-- First NaN operand of a list of FP codes, quietened (R127). -/
def firstNaN (f : FFmt) : List Nat → Option Nat
  | [] => none
  | c :: r => match decF f c with
    | .nan n p => some (nanCode f n p)
    | _ => firstNaN f r

/-- An arithmetic operation on codes of one float format with NaN operands (R127), FTZ (R130) and rounding (R126, R128). -/
def fpOp (f : FFmt) (ftz : Bool) (cs : List Nat) (op : List FVal → ERes) : NR :=
  let is := cs.map (flushIn ftz f)
  match firstNaN f cs with
  | some n => ⟨n, flOr is⟩
  | none =>
    let r := roundTo f ftz (op (is.map fun i => decF f i.v))
    ⟨r.v, flOr is ||| r.fl⟩

def get0 (l : List FVal) : FVal := l.getD 0 (.fin false 0 0)
def get1 (l : List FVal) : FVal := l.getD 1 (.fin false 0 0)
def get2 (l : List FVal) : FVal := l.getD 2 (.fin false 0 0)

def fpAdd (f : FFmt) (ftz : Bool) (a b : Nat) : NR := fpOp f ftz [a, b] fun l => addX (get0 l) (get1 l)
def fpSub (f : FFmt) (ftz : Bool) (a b : Nat) : NR := fpOp f ftz [a, b] fun l => addX (get0 l) (fNeg (get1 l))
def fpMul (f : FFmt) (ftz : Bool) (a b : Nat) : NR := fpOp f ftz [a, b] fun l => mulX (get0 l) (get1 l)
def fpDiv (f : FFmt) (ftz : Bool) (a b : Nat) : NR := fpOp f ftz [a, b] fun l => divX (get0 l) (get1 l)
def fpSqrt (f : FFmt) (ftz : Bool) (a : Nat) : NR := fpOp f ftz [a] fun l => sqrtX (get0 l)
def fpRsqrt (f : FFmt) (ftz : Bool) (a : Nat) : NR := fpOp f ftz [a] fun l => rsqrtX (get0 l)
def fpExp2 (f : FFmt) (ftz : Bool) (a : Nat) : NR := fpOp f ftz [a] fun l => exp2X (get0 l)
def fpLog2 (f : FFmt) (ftz : Bool) (a : Nat) : NR := fpOp f ftz [a] fun l => log2X (get0 l)
def fpFma (f : FFmt) (ftz : Bool) (a b c : Nat) : NR := fpOp f ftz [a, b, c] fun l => fmaX (get0 l) (get1 l) (get2 l)

/-- Order of two values that are not NaN, −0 below +0 (R200): whether a < b. -/
def fvalLt (a b : FVal) : Bool :=
  match a, b with
  | .inf na, .inf nb => na && !nb
  | .inf na, _ => na
  | _, .inf nb => !nb
  | .fin na ma ea, .fin nb mb eb =>
    let e := min ea eb
    let xa : Int := Int.ofNat (ma * 2 ^ (ea - e).toNat) * (if na then -1 else 1)
    let xb : Int := Int.ofNat (mb * 2 ^ (eb - e).toNat) * (if nb then -1 else 1)
    if xa = xb then na && !nb else decide (xa < xb)
  | _, _ => false

/-- Larger or smaller of two codes (R200): −0 below +0, the first NaN quietened. -/
def fpMinMax (f : FFmt) (ftz mx : Bool) (a b : Nat) : NR :=
  let ia := flushIn ftz f a
  let ib := flushIn ftz f b
  match firstNaN f [a, b] with
  | some n => ⟨n, ia.fl ||| ib.fl⟩
  | none =>
    let lt := fvalLt (decF f ia.v) (decF f ib.v)
    ⟨if lt == mx then ib.v else ia.v, ia.fl ||| ib.fl⟩

/-- Numerical comparison of two codes: −0 equals +0, a NaN is unordered (R201). -/
def fpEq (f : FFmt) (a b : Nat) : Bool :=
  match decF f a, decF f b with
  | .fin na ma ea, .fin nb mb eb => (ma == 0 && mb == 0) || (!fvalLt (.fin na ma ea) (.fin nb mb eb) && !fvalLt (.fin nb mb eb) (.fin na ma ea))
  | .inf a, .inf b => a == b
  | _, _ => false

def fpLt (f : FFmt) (a b : Nat) : Bool :=
  let va := decF f a
  let vb := decF f b
  if fIsNan va || fIsNan vb then false else !fpEq f a b && fvalLt va vb

/-- An exact outlier sum rounded once to FP32 with RNE (R139): the canonical NaN, with INV only where an invalid operation made it (R126, R127). -/
def roundOsum (ftz : Bool) (x : XNum) : NR :=
  if xIsNan x then ⟨0x7FC00000, if xInvalid x then flINV else flNone⟩ else roundIEEE fFP32 true ftz (exOf (fvalOf x))

/-- FP32 code of an exact number, RNE, no FTZ. -/
def fp32Of (x : XNum) : NR := if xIsNan x then ⟨0x7FC00000, flNone⟩ else roundIEEE fFP32 true false (exOf (fvalOf x))

/-- Rule F of an integer: FP32 by RNE. -/
def fp32OfInt (x : Int) : Nat := (roundIEEE fFP32 true false (.ex (decide (x < 0)) x.natAbs 0 false)).v

/-- Value of an FP32 code. -/
def fp (c : Nat) : FVal := decF fFP32 c

/-- Whether an FP32 code is an infinity or a NaN. -/
def fpNonfinite (c : Nat) : Bool := bits c 30 23 == 255

/-- The exact element `i` of a packed byte string in format `f` (R112); a TERN element as its digit (R116, R117). -/
def elemCode (rd : Nat → Byte) (f i : Nat) : Nat :=
  if f = 9 then
    let b := (rd (i / 5)).toNat
    if 243 ≤ b then 0 else b / 3 ^ (i % 5) % 3
  else
    let w := fmtBits f
    let lo := w * i
    let v := (rd (lo / 8)).toNat + 256 * (rd (lo / 8 + 1)).toNat + 65536 * (rd (lo / 8 + 2)).toNat + 16777216 * (rd (lo / 8 + 3)).toNat
    v / 2 ^ (lo % 8) % 2 ^ w

/-- Bytes that `n` elements of a format take (R112, R116). -/
def fmtBytes (f n : Nat) : Nat := if f = 9 then cdiv n 5 else cdiv (fmtBits f * n) 8

/-- Packs element codes as R112 and R116 state. -/
def packElems (f : Nat) (cs : List Nat) : List Byte :=
  if f = 9 then
    (List.range (cdiv cs.length 5)).map fun j =>
      BitVec.ofNat 8 (sumN ((List.range 5).map fun i => cs.getD (5 * j + i) 0 * 3 ^ i))
  else
    let w := fmtBits f
    leBytes (cdiv (w * cs.length) 8) (cs.foldr (fun c a => c % 2 ^ w + 2 ^ w * a) 0)

end Sys2Proof.Machine
end

