-- ==== Sys2Proof/Config.lean ====
section
/-! DEFINITION. What an implementation fixes and the spec does not state: free values and the opaque constants of the device (log 2, log 12). -/

namespace Sys2Proof.Config

/-- The free byte named by a counter value: every undefined result is written with these (R12, R13; log 2). -/
opaque freeByte : Nat → Byte

/-- A free natural number named by a counter value (log 2). -/
opaque freeNat : Nat → Nat

/-- Read `r` of PUF cell `c` of a die (0 the main die, 1 the Gauge), equal at every power-up (R504, R505, R516; log 78). -/
opaque pufRead : Nat → Nat → Nat → Bool

/-- SHAKE256 of the main die's mask ROM, 64 bytes by position (R509; log 12). -/
opaque romDigest : Nat → Byte

/-- First 32 bytes of SHAKE256 of the Gauge's mask ROM by position (R524; log 12). -/
opaque gaugeRom : Nat → Byte

/-- The mask-ROM firmware keys: key 0-3, 64 bytes by position (R511; log 12). -/
opaque romKeys : Nat → Nat → Byte

/-- The Gauge's random source: draw number and byte position (R518; log 12). -/
opaque gaugeRandom : Nat → Nat → Byte

/-- Whether a firmware passes the format check of phase 3, whose layout the spec does not give (R417, R418; log 12). -/
opaque firmwareOk : List Byte → Bool

/-- The shared-state version of a firmware, whose layout the spec does not give (R501; log 12). -/
opaque firmwareVersion : List Byte → Nat

/-- The signer table that a firmware carries: key 0-15, 64 bytes by position (R511; log 12). -/
opaque firmwareSigners : List Byte → Nat → Nat → Byte

/-- Seryan's JEDEC manufacturer code, 11 bits (Table 17-7; log 12). -/
opaque jedec : BitVec 11

/-- Type and access codes of a describe response, by the row of Tables 13-5 and 13-6, which give no numbers (R425; log 2). -/
opaque typeCode : Nat → Byte
opaque accessCode : Nat → Byte

end Sys2Proof.Config
end

