-- ==== Sys2Proof/Machine/Keccak.lean ====
section
/-! DEFINITION. SHA3-256 and SHAKE256 of FIPS 202, which the figures of R3 name for digests and measurements. -/

namespace Sys2Proof.Machine

/-- A Keccak state: 25 lanes of 64 bits, lane x + 5y. -/
abbrev Lanes := List (BitVec 64)

/-- Lane `i` of a Keccak state. -/
def lane (a : Lanes) (i : Nat) : BitVec 64 := a.getD i 0#64

/-- Rotation of a lane by each position's offset (FIPS 202, step rho), lane x + 5y. -/
def rhoOff : List Nat :=
  [0, 1, 62, 28, 27, 36, 44, 6, 55, 20, 3, 10, 43, 25, 39, 41, 45, 15, 21, 8, 18, 2, 61, 56, 14]

/-- Round constants (FIPS 202, step iota). -/
def keccakRC : List (BitVec 64) :=
  [0x0000000000000001#64, 0x0000000000008082#64, 0x800000000000808A#64, 0x8000000080008000#64, 0x000000000000808B#64,
   0x0000000080000001#64, 0x8000000080008081#64, 0x8000000000008009#64, 0x000000000000008A#64, 0x0000000000000088#64,
   0x0000000080008009#64, 0x000000008000000A#64, 0x000000008000808B#64, 0x800000000000008B#64, 0x8000000000008089#64,
   0x8000000000008003#64, 0x8000000000008002#64, 0x8000000000000080#64, 0x000000000000800A#64, 0x800000008000000A#64,
   0x8000000080008081#64, 0x8000000000008080#64, 0x0000000080000001#64, 0x8000000080008008#64]

/-- One Keccak round. -/
def keccakRound (a : Lanes) (rc : BitVec 64) : Lanes :=
  let c := (List.range 5).map fun x => lane a x ^^^ lane a (x + 5) ^^^ lane a (x + 10) ^^^ lane a (x + 15) ^^^ lane a (x + 20)
  let d := (List.range 5).map fun x => lane c ((x + 4) % 5) ^^^ (lane c ((x + 1) % 5)).rotateLeft 1
  let b := (List.range 25).map fun i => (lane a i ^^^ lane d (i % 5)).rotateLeft (rhoOff.getD i 0)
  let p := (List.range 25).map fun i => lane b ((i % 5 + 3 * (i / 5)) % 5 + 5 * (i % 5))
  (List.range 25).map fun i =>
    let y := 5 * (i / 5)
    let v := lane p i ^^^ (~~~ lane p ((i + 1) % 5 + y) &&& lane p ((i + 2) % 5 + y))
    if i = 0 then v ^^^ rc else v

/-- The permutation Keccak-f[1600]. -/
def keccakF (a : Lanes) : Lanes := keccakRC.foldl keccakRound a

/-- Adds one block of rate 136 bytes into the state. -/
def keccakXor (a : Lanes) (blk : List Byte) : Lanes :=
  (List.range 25).map fun i => if i < 17 then lane a i ^^^ BitVec.ofNat 64 (leNat ((blk.drop (8 * i)).take 8)) else lane a i

/-- Message padding for rate 136 with a domain byte: SHA3 0x06, SHAKE 0x1F. -/
def keccakPad (dom : Byte) (m : List Byte) : List Byte :=
  let q := 136 - m.length % 136
  if q = 1 then m ++ [dom ||| 0x80#8] else m ++ [dom] ++ List.replicate (q - 2) 0#8 ++ [0x80#8]

/-- Absorbs `n` blocks. -/
def keccakAbsorb (a : Lanes) (m : List Byte) : Nat → Lanes
  | 0 => a
  | n + 1 => keccakAbsorb (keccakF (keccakXor a (m.take 136))) (m.drop 136) n

/-- The first 136 bytes of output of the sponge with rate 136. -/
def keccakHash (dom : Byte) (m : List Byte) : List Byte :=
  let p := keccakPad dom m
  ((keccakAbsorb (List.replicate 25 0#64) p (p.length / 136)).map fun l => leBytes 8 l.toNat).flatten

/-- SHA3-256: 32 bytes. -/
def sha3 (m : List Byte) : List Byte := (keccakHash 0x06#8 m).take 32

/-- SHAKE256 with 64 bytes of output. -/
def shake64 (m : List Byte) : List Byte := (keccakHash 0x1F#8 m).take 64

/-- The first 32 bytes of SHAKE256. -/
def shake32 (m : List Byte) : List Byte := (keccakHash 0x1F#8 m).take 32

end Sys2Proof.Machine
end

