-- ==== Sys2Proof/Machine/SlhDsa.lean ====
section
/-! DEFINITION. SLH-DSA-SHAKE-256s and -256f of FIPS 205 (R3, R512, R514, R516), pure, with an empty context and deterministic, over the SHAKE256 of
Keccak.lean; and the seed that a die's PUF gives with the keys derived from it (R504, R506). PRESUMED (log 78): the scheme's tables and steps are FIPS
205's, to which the spec refers. -/

namespace Sys2Proof.Machine

/-! ### The scheme (FIPS 205) -/

/-- A parameter set with n = 32 and w = 16: height of a tree, layers, height and number of the FORS trees. -/
structure SlhPar where
  hp : Nat
  d : Nat
  a : Nat
  k : Nat
deriving DecidableEq, Repr

/-- SLH-DSA-SHAKE-256s. -/
def slhS : SlhPar := ⟨8, 8, 14, 22⟩

/-- SLH-DSA-SHAKE-256f. -/
def slhF : SlhPar := ⟨4, 17, 9, 35⟩

/-- Hash values of a signature, 32 bytes each: the randomizer, FORS and the hypertree. -/
def slhLen (p : SlhPar) : Nat := 1 + p.k * (1 + p.a) + p.d * (67 + p.hp)

/-- An address: layer, tree, type, key pair, chain or height, hash or index. -/
structure Adrs where
  layer : Nat := 0
  tree : Nat := 0
  typ : Nat := 0
  kp : Nat := 0
  ch : Nat := 0
  hs : Nat := 0
deriving DecidableEq, Repr

/-- A number in `n` bytes, most significant first. -/
def beBytes (n v : Nat) : List Byte := (leBytes n v).reverse

/-- The number that bytes spell, most significant first. -/
def beNat (l : List Byte) : Nat := leNat l.reverse

/-- The 32 bytes of an address. -/
def adrsBytes (a : Adrs) : List Byte := beBytes 4 a.layer ++ beBytes 12 a.tree ++ beBytes 4 a.typ ++ beBytes 4 a.kp ++ beBytes 4 a.ch ++ beBytes 4 a.hs

/-- A private key and the public seed. -/
structure SlhKey where
  skSeed : List Byte
  skPrf : List Byte
  pkSeed : List Byte
deriving DecidableEq, Repr

/-- The functions F, H, T and PRF with the public seed `ps`. -/
def slhT (ps : List Byte) (a : Adrs) (m : List Byte) : List Byte := shake32 (ps ++ adrsBytes a ++ m)

/-- `n` digits of `b` bits, most significant first. -/
def digitsOf (b n : Nat) (l : List Byte) : List Nat :=
  let v := beNat l
  (List.range n).map fun i => v / 2 ^ (8 * l.length - b * (i + 1)) % 2 ^ b

/-- Hash value `i` of a string. -/
def hashAt (l : List Byte) (i : Nat) : List Byte := (l.drop (32 * i)).take 32

/-- `n` steps of a chain from step `i`. -/
def slhChain (ps : List Byte) (a : Adrs) (x : List Byte) (i n : Nat) : List Byte :=
  (List.range n).foldl (fun x j => slhT ps { a with hs := i + j } x) x

/-- The 67 digits that WOTS+ signs: those of the message and of its checksum. -/
def wotsDigits (m : List Byte) : List Nat :=
  let ds := digitsOf 4 64 m
  ds ++ digitsOf 4 3 (beBytes 2 (16 * (ds.foldl (fun t d => t + (15 - d)) 0)))

/-- Secret `c` of a WOTS+ key pair. -/
def wotsSecret (k : SlhKey) (a : Adrs) (c : Nat) : List Byte := slhT k.pkSeed { a with typ := 5, ch := c, hs := 0 } k.skSeed

/-- The WOTS+ public key from the ends of its chains. -/
def wotsPk (ps : List Byte) (a : Adrs) (tops : List (List Byte)) : List Byte := slhT ps { a with typ := 1, ch := 0, hs := 0 } tops.flatten

/-- The WOTS+ public key of key pair `a.kp`. -/
def wotsPub (k : SlhKey) (a : Adrs) : List Byte :=
  wotsPk k.pkSeed a ((List.range 67).map fun c => slhChain k.pkSeed { a with typ := 0, ch := c } (wotsSecret k a c) 0 15)

/-- A WOTS+ signature. -/
def wotsSign (k : SlhKey) (a : Adrs) (m : List Byte) : List Byte :=
  let ds := wotsDigits m
  ((List.range 67).map fun c => slhChain k.pkSeed { a with typ := 0, ch := c } (wotsSecret k a c) 0 (ds.getD c 0)).flatten

/-- The WOTS+ public key that a signature answers. -/
def wotsFrom (ps : List Byte) (a : Adrs) (m sig : List Byte) : List Byte :=
  let ds := wotsDigits m
  wotsPk ps a ((List.range 67).map fun c => slhChain ps { a with typ := 0, ch := c } (hashAt sig c) (ds.getD c 0) (15 - ds.getD c 0))

/-- Node `i` at height `z` of a tree of WOTS+ keys. -/
def xmssNode (k : SlhKey) (a : Adrs) : Nat → Nat → List Byte
  | 0, i => wotsPub k { a with kp := i }
  | z + 1, i => slhT k.pkSeed { a with typ := 2, kp := 0, ch := z + 1, hs := i } (xmssNode k a z (2 * i) ++ xmssNode k a z (2 * i + 1))

/-- The root that a node at height 0 with index `i` reaches over `n` neighbours. -/
def slhClimb (ps : List Byte) (a : Adrs) (auth : List Byte) (i n : Nat) (x : List Byte) : List Byte :=
  (List.range n).foldl (fun x j =>
    let y := hashAt auth j
    slhT ps { a with ch := j + 1, hs := i / 2 ^ (j + 1) } (if i / 2 ^ j % 2 = 0 then x ++ y else y ++ x)) x

/-- The neighbour of node `i` at its height. -/
def neighbour (i : Nat) : Nat := if i % 2 = 0 then i + 1 else i - 1

/-- A signature of one tree by leaf `i`. -/
def xmssSign (p : SlhPar) (k : SlhKey) (a : Adrs) (m : List Byte) (i : Nat) : List Byte :=
  wotsSign k { a with kp := i } m ++ ((List.range p.hp).map fun j => xmssNode k a j (neighbour (i / 2 ^ j))).flatten

/-- The root that a signature of one tree answers. -/
def xmssFrom (p : SlhPar) (ps : List Byte) (a : Adrs) (m sig : List Byte) (i : Nat) : List Byte :=
  slhClimb ps { a with typ := 2 } (sig.drop 2144) i p.hp (wotsFrom ps { a with kp := i } m sig)

/-- The tree and leaf of layer `j` above leaf `l` of tree `t` of layer 0. -/
def layerAt (p : SlhPar) (t l : Nat) : Nat → Nat × Nat
  | 0 => (t, l)
  | j + 1 => let (t, _) := layerAt p t l j; (t / 2 ^ p.hp, t % 2 ^ p.hp)

/-- A hypertree signature. -/
def htSign (p : SlhPar) (k : SlhKey) (m : List Byte) (t l : Nat) : List Byte :=
  ((List.range p.d).foldl (fun (acc : List Byte × List Byte) j =>
    let (t, l) := layerAt p t l j
    let a : Adrs := { layer := j, tree := t }
    let sig := xmssSign p k a acc.2 l
    (acc.1 ++ sig, xmssFrom p k.pkSeed a acc.2 sig l)) ([], m)).1

/-- The root that a hypertree signature answers. -/
def htFrom (p : SlhPar) (ps m sig : List Byte) (t l : Nat) : List Byte :=
  (List.range p.d).foldl (fun m j =>
    let (t, l) := layerAt p t l j
    xmssFrom p ps { layer := j, tree := t } m (sig.drop (32 * (67 + p.hp) * j)) l) m

/-- FORS secret `i`. -/
def forsSecret (k : SlhKey) (a : Adrs) (i : Nat) : List Byte := slhT k.pkSeed { a with typ := 6, ch := 0, hs := i } k.skSeed

/-- FORS node `i` at height `z`. -/
def forsNode (k : SlhKey) (a : Adrs) : Nat → Nat → List Byte
  | 0, i => slhT k.pkSeed { a with typ := 3, ch := 0, hs := i } (forsSecret k a i)
  | z + 1, i => slhT k.pkSeed { a with typ := 3, ch := z + 1, hs := i } (forsNode k a z (2 * i) ++ forsNode k a z (2 * i + 1))

/-- A FORS signature of the digest part `md`. -/
def forsSign (p : SlhPar) (k : SlhKey) (a : Adrs) (md : List Byte) : List Byte :=
  let ds := digitsOf p.a p.k md
  ((List.range p.k).map fun i =>
    let x := i * 2 ^ p.a + ds.getD i 0
    forsSecret k a x ++ ((List.range p.a).map fun j => forsNode k a j (neighbour (x / 2 ^ j))).flatten).flatten

/-- The FORS public key that a signature answers. -/
def forsFrom (p : SlhPar) (ps : List Byte) (a : Adrs) (md sig : List Byte) : List Byte :=
  let ds := digitsOf p.a p.k md
  slhT ps { a with typ := 4, ch := 0, hs := 0 } ((List.range p.k).map fun i =>
    let x := i * 2 ^ p.a + ds.getD i 0
    let b := sig.drop (32 * (1 + p.a) * i)
    slhClimb ps { a with typ := 3 } (b.drop 32) x p.a (slhT ps { a with typ := 3, ch := 0, hs := x } (hashAt b 0))).flatten

/-- The root of a key: the second half of the public key. -/
def slhRoot (p : SlhPar) (k : SlhKey) : List Byte := xmssNode k { layer := p.d - 1 } p.hp 0

/-- The public key, 64 bytes. -/
def slhPub (p : SlhPar) (k : SlhKey) : List Byte := k.pkSeed ++ slhRoot p k

/-- The message of pure SLH-DSA with an empty context. -/
def slhPure (m : List Byte) : List Byte := [0#8, 0#8] ++ m

/-- What a message's hash selects: the FORS digest, the tree and the leaf. -/
def slhSelect (p : SlhPar) (r ps root m : List Byte) : List Byte × Nat × Nat :=
  let nk := (p.k * p.a + 7) / 8
  let nt := (p.hp * (p.d - 1) + 7) / 8
  let nl := (p.hp + 7) / 8
  let g := keccakHash 0x1F#8 (r ++ ps ++ root ++ m)
  (g.take nk, beNat ((g.drop nk).take nt) % 2 ^ (p.hp * (p.d - 1)), beNat ((g.drop (nk + nt)).take nl) % 2 ^ p.hp)

/-- The deterministic signature of a message. -/
def slhSign (p : SlhPar) (k : SlhKey) (msg : List Byte) : List Byte :=
  let m := slhPure msg
  let r := shake32 (k.skPrf ++ k.pkSeed ++ m)
  let (md, t, l) := slhSelect p r k.pkSeed (slhRoot p k) m
  let a : Adrs := { tree := t, kp := l, typ := 3 }
  let sf := forsSign p k a md
  r ++ sf ++ htSign p k (forsFrom p k.pkSeed a md sf) t l

/-- Verification of a signature of a message against a public key. -/
def slhVerify (p : SlhPar) (pk msg sig : List Byte) : Bool :=
  let ps := pk.take 32
  let (md, t, l) := slhSelect p (sig.take 32) ps (pk.drop 32) (slhPure msg)
  let a : Adrs := { tree := t, kp := l, typ := 3 }
  let sf := sig.drop 32
  pk.length == 64 && sig.length == 32 * slhLen p &&
  htFrom p ps (forsFrom p ps a md sf) (sf.drop (32 * p.k * (1 + p.a))) t l == pk.drop 32

/-! ### The PUF and the keys of a die (R504, R506, R516) -/

/-- The majority of an odd number of readings. -/
def majority (l : List Bool) : Bool := decide (l.length < 2 * (l.filter id).length)

/-- PUF cell `c` of a die: the majority of its 15 reads (R504). -/
def pufCell (die c : Nat) : Bool := majority ((List.range 15).map (Config.pufRead die c))

/-- Seed bit `i`: the majority of the 63 cells of its group (R504). -/
def pufBit (die i : Nat) : Bool := majority ((List.range 63).map fun j => pufCell die (63 * i + j))

/-- The 256-bit seed of a die, bit i in bit i mod 8 of byte i / 8 (R504; log 78): 0 names the main die, 1 the Gauge. -/
def pufSeed (die : Nat) : List Byte :=
  (List.range 32).map fun b => BitVec.ofNat 8 ((List.range 8).foldl (fun v j => v + if pufBit die (8 * b + j) then 2 ^ j else 0) 0)

/-- The key with an ASCII label that a seed gives (R506). -/
def keyOf (seed : List Byte) (label : String) : SlhKey :=
  let g := keccakHash 0x1F#8 (seed ++ label.toList.map fun c => BitVec.ofNat 8 c.toNat)
  ⟨hashAt g 0, hashAt g 1, hashAt g 2⟩

/-- The attestation key of a main die's seed (R506). -/
def attestKey (seed : List Byte) : SlhKey := keyOf seed "DUNOT-ATTEST-1"

/-- The identity public key (R506). -/
def idPub (seed : List Byte) : List Byte := slhPub slhF (attestKey seed)

/-- The key of a Gauge's seed (R516). -/
def gaugeKeyOf (seed : List Byte) : SlhKey := keyOf seed "GAUGE-STATE-1"

/-- The Gauge's public key (R516). -/
def gaugePub (seed : List Byte) : List Byte := slhPub slhS (gaugeKeyOf seed)

end Sys2Proof.Machine
end

