-- ==== Sys2Proof/Machine/Ops.lean ====
section
/-! DEFINITION. The named operations every meaning is built from: access to the parts of State, events, device states, Eddy causes, memories,
measurement, interrupts, dictionary answers. -/

namespace Sys2Proof.Machine

/-! ### Parts of State -/

/-- Fabric time in ticks (R9, R343). -/
def State.now (s : State) : Nat := s.fab.ftime

/-- One core (R5). -/
def State.core (s : State) (c : Nat) : Core := fget s.cores {} c

/-- Changes one core. -/
def State.mapCore (s : State) (c : Nat) (f : Core → Core) : State := { s with cores := fset s.cores {} c (f (s.core c)) }

/-- One matrix array of a core (R145). -/
def Core.arr (k : Core) (a : Nat) : MxArray := fget k.arrays {} a

/-- Changes one matrix array. -/
def State.mapArr (s : State) (c a : Nat) (f : MxArray → MxArray) : State :=
  s.mapCore c fun k => { k with arrays := fset k.arrays {} a (f (k.arr a)) }

/-- One cluster pool (R251). -/
def State.pool (s : State) (cl : Nat) : Pool := fget s.pools {} cl

/-- Changes one pool. -/
def State.mapPool (s : State) (cl : Nat) (f : Pool → Pool) : State := { s with pools := fset s.pools {} cl (f (s.pool cl)) }

/-- One fabric link (R308). -/
def State.link (s : State) (l : Nat) : Link := fget s.fab.links {} l

/-- Changes one link. -/
def State.mapLink (s : State) (l : Nat) (f : Link → Link) : State :=
  { s with fab := { s.fab with links := fset s.fab.links {} l (f (s.link l)) } }

/-- One slot record (R380). -/
def State.slot (s : State) (i : Nat) : Slot := fget s.srv.slots {} i

/-- Changes one slot record. -/
def State.mapSlot (s : State) (i : Nat) (f : Slot → Slot) : State :=
  { s with srv := { s.srv with slots := fset s.srv.slots {} i (f (s.slot i)) } }

/-- The commit chip's record of a slot (R401). -/
def State.cmt (s : State) (i : Nat) : CommitSt := fget s.srv.cm {} i

/-- Changes the commit chip's record of a slot. -/
def State.mapCmt (s : State) (i : Nat) (f : CommitSt → CommitSt) : State :=
  { s with srv := { s.srv with cm := fset s.srv.cm {} i (f (s.cmt i)) } }

/-- One adapter slot (R407). -/
def State.adap (s : State) (i : Nat) : Adapter := fget s.srv.adapters {} i

/-- Changes one adapter slot. -/
def State.mapAdap (s : State) (i : Nat) (f : Adapter → Adapter) : State :=
  { s with srv := { s.srv with adapters := fset s.srv.adapters {} i (f (s.adap i)) } }

/-- A hart as Table 13-1 leaves it: hart 0 serves the dictionary, hart 1 the services, harts 2 and 3 stand by. -/
def hart0 (h : Nat) : Hart := { role := if h = 0 then 0 else if h = 1 then 1 else 3 }

/-- One management hart (R415). -/
def State.hart (s : State) (h : Nat) : Hart := fget s.mgm.harts (hart0 h) h

/-- Changes one hart. -/
def State.mapHart (s : State) (h : Nat) (f : Hart → Hart) : State :=
  { s with mgm := { s.mgm with harts := fset s.mgm.harts (hart0 h) h (f (s.hart h)) } }

/-- One interrupt source (R443). -/
def State.isrc (s : State) (i : Nat) : ISrc := fget s.mgm.src {} i

/-- Changes one interrupt source. -/
def State.mapSrc (s : State) (i : Nat) (f : ISrc → ISrc) : State :=
  { s with mgm := { s.mgm with src := fset s.mgm.src {} i (f (s.isrc i)) } }

/-- One monitor (R460). -/
def State.mon (s : State) (m : Nat) : Monitor := fget s.pwr.mons {} m

/-- Changes one monitor. -/
def State.mapMon (s : State) (m : Nat) (f : Monitor → Monitor) : State :=
  { s with pwr := { s.pwr with mons := fset s.pwr.mons {} m (f (s.mon m)) } }

/-- Changes the schedule state. -/
def State.mapSch (s : State) (f : Sched → Sched) : State := { s with sch := f s.sch }
/-- Changes the fabric. -/
def State.mapFab (s : State) (f : Fabric → Fabric) : State := { s with fab := f s.fab }
/-- Changes the weights state. -/
def State.mapWts (s : State) (f : Weights → Weights) : State := { s with wts := f s.wts }
/-- Changes the serving state. -/
def State.mapSrv (s : State) (f : Serving → Serving) : State := { s with srv := f s.srv }
/-- Changes the management state. -/
def State.mapMgm (s : State) (f : Mgmt → Mgmt) : State := { s with mgm := f s.mgm }
/-- Changes the power state. -/
def State.mapPwr (s : State) (f : Power → Power) : State := { s with pwr := f s.pwr }
/-- Changes the device state record. -/
def State.mapDev (s : State) (f : Dev → Dev) : State := { s with dev := f s.dev }
/-- Changes the bed state. -/
def State.mapBeds (s : State) (f : Beds → Beds) : State := { s with beds := f s.beds }

/-- Folds a state change over a list. -/
def State.each {α : Type} (s : State) (l : List α) (f : State → α → State) : State := l.foldl f s

/-- A change made only when a condition holds. -/
def State.cond (s : State) (b : Bool) (f : State → State) : State := if b then f s else s

/-! ### Cores -/

/-- Whether logical core 12c+s is a decode core: slots 4-11 (R5). -/
def isDE (c : Nat) : Bool := decide (4 ≤ c % 12)

/-- Vector lanes E, and words of one accumulator row by half: 128 in a PF core and 64 in a DE core (R3, R33). -/
def lanes (c : Nat) : Nat := if isDE c then 64 else 128

/-- Matrix arrays of a core: 4 in a PF core, 2 in a DE core (R3). -/
def arraysOf (c : Nat) : Nat := if isDE c then 2 else 4

/-- Scratchpad size in bytes (Table 8-1). -/
def spadBytes (c : Nat) : Nat := if isDE c then 1048576 else 4194304

/-- Bytes of a cluster pool (Table 8-1). -/
def poolBytes : Nat := 16777216

/-- Bytes of the weight beds (Table 8-1). -/
def bedBytes : Nat := 17179869184

/-- Bytes of a descriptor bank (R66). -/
def bankBytes : Nat := 135168

/-- Every logical core number. -/
def allCores : List Nat := List.range 192

/-- The scheduled cores: those with a ring (R92). -/
def ringCores (s : State) : List Nat := allCores.filter fun c => (s.core c).ring

/-- A set of cores as the three 8-byte items of its 24-byte field (R530). -/
def coreSet (cs : List Nat) : List Nat :=
  [0, 1, 2].map fun w => sumN ((cs.filter fun c => decide (c / 64 = w)).map fun c => 2 ^ (c % 64))

/-! ### Free values (log 2) -/

/-- The next `n` free bytes, and the state after taking them. -/
def takeFree (s : State) (n : Nat) : List Byte × State :=
  ((List.range n).map fun i => Config.freeByte (s.free + i), { s with free := s.free + n })

/-- A free natural number below `2^w`, and the state after taking it. -/
def takeFreeNat (s : State) (w : Nat) : Nat × State := (Config.freeNat s.free % 2 ^ w, { s with free := s.free + 1 })

/-! ### Events (R530-R533, R582) -/

/-- Event IDs of severity 3. -/
def sev3Ids : List Nat := [0x0202, 0x0301, 0x0307, 0x0308, 0x0803, 0x0E07, 0x0E08, 0x0F06, 0x0F08, 0x0F0B]

/-- Event IDs of severity 1. -/
def sev1Ids : List Nat :=
  [0x0201, 0x0305, 0x0309, 0x0501, 0x0505, 0x0704, 0x0801, 0x0807, 0x0809, 0x080A, 0x080C, 0x0904, 0x0A06, 0x0A0B, 0x0A0C, 0x0B04, 0x0C02,
   0x0C04, 0x0C07, 0x0D07, 0x0E01, 0x0E05, 0x0E06, 0x0E0A, 0x0E0D, 0x0F03, 0x0F04, 0x1001, 0x1102, 0x1107, 0x1108]

/-- Event IDs of severity 0. -/
def sev0Ids : List Nat :=
  [0x0204, 0x030C, 0x0504, 0x080B, 0x0A09, 0x0B06, 0x0B09, 0x0C01, 0x0D02, 0x0D03, 0x0D04, 0x0E02, 0x0E04, 0x0E09, 0x0E0B, 0x0F01, 0x0F09,
   0x1002, 0x1101, 0x1105, 0x1106]

/-- Severity of an event (the event tables of the chapters). -/
def evSev (id : Nat) : Nat := if sev3Ids.contains id then 3 else if sev1Ids.contains id then 1 else if sev0Ids.contains id then 0 else 2

/-- Node of an event (Table 17-10); `hint` is the node where the table leaves it to the unit concerned. -/
def evNode (id hint : Nat) : Nat :=
  let u := id / 256
  if id = 0x0201 ∨ id = 0x0202 ∨ id = 0x0902 then 0x14
  else if u = 0x02 ∨ id = 0x080B ∨ u = 0x0B ∨ u = 0x0D ∨ u = 0x0F ∨ id = 0x1003 ∨ id = 0x1004 then 0x10
  else if u = 0x0A then 0x15
  else if u = 0x0C then 0x11
  else if u = 0x0E then 0x12
  else if u = 0x10 ∨ u = 0x11 then 0x13
  else hint % 64

/-- Place of a record among those that its node raised in one W-cycle (R531): the source core, units other than cores after every core, then the engine
in the order of R87 with the sequencer first. The core is the first item of the events of sequencers and engines and of 0x0902; bits [11:6] of `hint`
are 0 for the sequencer, 1 + e for engine e. -/
def evSrc (id hint : Nat) (items : List Nat) : Nat :=
  32 * (if (3 ≤ id / 256 ∧ id / 256 ≤ 7) ∨ id = 0x0902 then items.headD 192 else 192) + hint / 64

/-- Whether an event record carries the S-cycle (R530, log 41): those of sequencers and engines always (R110, R133, R183, R214, R250), those of the
schedule, the memories, the networks and the fabric where a job gives one (R65, R288, R307, R346), no other. -/
def evScyc (s : State) (id : Nat) : Option Nat :=
  let u := id / 256
  if (3 ≤ u ∧ u ≤ 7) ∨ (s.sch.job ∧ u ≤ 0x0A) then some s.sch.sCycle else none

/-- Counts a dropped record of severity `v` (R532, R533). -/
def countDrop (s : State) (v : Nat) : State := { s with evr := { s.evr with drops := fmod s.evr.drops 0 v sat32 } }

/-- The lowest severity among held records. -/
def minSev (q : List EvRec) : Nat := q.foldl (fun a r => min a r.sev) 3

/-- Removes the first record of severity `v`. -/
def dropFirstSev (v : Nat) : List EvRec → List EvRec
  | [] => []
  | r :: q => if r.sev = v then q else r :: dropFirstSev v q

/-- Puts a record behind the held ones, but among those of its W-cycle in the order of R531: source, then event ID. -/
def recInsert (r : EvRec) : List EvRec → List EvRec
  | [] => [r]
  | x :: q =>
    if x.atW = r.atW ∧ x.tick = r.tick ∧ (r.src < x.src ∨ (r.src = x.src ∧ r.id < x.id)) then r :: x :: q else x :: recInsert r q

/-- Puts a record into its node's 16 places (R533). -/
def holdRec (s : State) (r : EvRec) : State :=
  let q := fget s.evr.held [] r.node
  let put := fun (s : State) (q : List EvRec) => { s with evr := { s.evr with held := fset s.evr.held [] r.node q } }
  if q.length < 16 then put s (recInsert r q)
  else if minSev q < r.sev then put (countDrop s (minSev q)) (recInsert r (dropFirstSev (minSev q) q))
  else countDrop s r.sev

/-- Raises an event: the unit forms its record and holds it for the recorder (R530, R533). -/
def raise (s : State) (id hint : Nat) (items : List Nat) : State :=
  holdRec s { sev := evSev id, scyc := evScyc s id, replay := s.sch.replayed, id := id, node := evNode id hint, tick := s.now, items := items
              src := evSrc id hint items, atW := s.sch.wCycle }

/-- Raises an event whose rule names S-cycle `t` (R530). -/
def raiseAt (s : State) (t id hint : Nat) (items : List Nat) : State :=
  holdRec s { sev := evSev id, scyc := (evScyc s id).map fun _ => t, replay := s.sch.replayed, id := id, node := evNode id hint, tick := s.now, items := items
              src := evSrc id hint items, atW := s.sch.wCycle }

/-- Raises an event of core `c`: its record names the core first and comes from its cluster's node (R110, R582). -/
def raiseC (s : State) (id c : Nat) (items : List Nat) : State := raise s id (c / 12) (c :: items)

/-- Raises an event of engine `e` of core `c` (R531). -/
abbrev raiseE (s : State) (id c e : Nat) (items : List Nat) : State := raise s id (c / 12 + 64 * (1 + e)) (c :: items)

/-! ### Interrupts (R443-R448) -/

/-- Group of an event's upper byte (Table 13-13). -/
def evGroup (u : Nat) : Nat :=
  if u = 0x0D then 0 else if u ∈ [0x02, 0x03, 0x04, 0x06, 0x07] then 2 else if u = 0x05 then 3 else if u = 0x08 then 4 else if u = 0x0B then 5
  else if u = 0x09 then 6 else if u = 0x0A then 7 else if u = 0x0C then 8 else if u = 0x0E then 9 else if u = 0x0F then 10
  else if u = 0x10 then 11 else if u = 0x11 then 12 else 15

/-- Sources with a priority above a hart's threshold and level that may be delivered to it (R445). -/
def hartLevel (s : State) (h : Nat) : Nat := ((s.hart h).claimed.map fun i => (s.isrc i).prio).foldl max 0

/-- Whether source `i` is deliverable to hart `h` (R445). -/
def deliverable (s : State) (h i : Nat) : Bool :=
  let x := s.isrc i
  x.pending && x.target.getLsbD h && decide ((s.hart h).thresh < x.prio) && decide (hartLevel s h < x.prio) && !x.heldOff

/-- Whether a hart's machine external interrupt is asserted (R445). -/
def extIrq (s : State) (h : Nat) : Bool := (List.range 256).any fun i => deliverable s h i

/-- A hart that waits in WFI resumes when a source is deliverable to it, whatever its enables (R449). -/
def wfiWake (s : State) (h : Nat) : State := if (s.hart h).wfi ∧ extIrq s h then s.mapHart h fun x => { x with wfi := false } else s

/-- The harts to which a source has become deliverable resume (R449). -/
def wfiWakes (s : State) : State := [0, 1, 2, 3].foldl wfiWake s

/-- Whether the hold-off of a group runs: its last completion is less than `HOLDOFF` µs ago (R447). -/
def holdOn (s : State) (g : Nat) : Bool :=
  let hold := fget s.mgm.hold 0 g
  let lc := fget s.mgm.lastComp 0 g
  decide (0 < hold ∧ 0 < lc ∧ s.now + 1 < lc + 1000 * hold)

/-- Pends a source: an inactive source within the hold-off of its group is held off (R447); a repeated pending merges; a source that fires
while active becomes active and pending and is exempt (R448). -/
def pend (s : State) (i : Nat) : State :=
  let x := s.isrc i
  let held := holdOn s (i / 16)
  if i < 240 then
    wfiWakes (s.mapSrc i fun x0 =>
      if x.pending then x0 else if x.active then { x0 with pending := true } else { x0 with pending := true, heldOff := held })
  else s

/-- Pends direct line `n` of group `g` (Table 13-13). -/
def pendLine (s : State) (g n : Nat) : State := pend s (16 * g + n)

/-- The deliverable source of highest priority, lowest number first (R446). -/
def bestSrc (s : State) (h : Nat) : Option Nat :=
  (List.range 256).foldl (fun b i =>
    if deliverable s h i then (match b with
      | none => some i
      | some j => if (s.isrc j).prio < (s.isrc i).prio then some i else b) else b) none

/-! ### Measurement (R508-R510) -/

/-- The list of SHAKE256-verifying keys checked in order: index of the first that verifies (R512). -/
def firstKey (keys : List (List Byte)) (msg sig : List Byte) : Option Nat :=
  (List.range keys.length).find? fun i => slhVerify slhS (keys.getD i []) msg sig

/-- Verdict and signer of a signed object: 0x10 + i and the first 32 bytes of SHAKE256 of key i, or 0x20 and zeros (R510, R512). -/
def verdictOf (keys : List (List Byte)) (msg sig : List Byte) : Nat × List Byte :=
  match firstKey keys msg sig with
  | some i => (0x10 + i, shake32 (keys.getD i []))
  | none => (0x20, List.replicate 32 0#8)

/-- Extends register `mr` and appends the log entry (R508, R510); the ring keeps 16,384 entries. -/
def extendMR (s : State) (typ mr verdict : Nat) (signer digest : List Byte) : State :=
  let old := fget s.tru.mr (List.replicate 64 0#8) mr
  let sg := padTo 32 signer
  let dg := padTo 64 digest
  let e : LogEntry := { typ := typ, mr := mr, verdict := verdict, seq := s.tru.logSeq, time := s.now, signer := sg, digest := dg }
  { s with tru := { s.tru with
      mr := fset s.tru.mr (List.replicate 64 0#8) mr (shake64 (old ++ leBytes 2 typ ++ leBytes 1 verdict ++ sg ++ dg))
      log := (s.tru.log ++ [e]).drop ((s.tru.log.length + 1) - 16384)
      logSeq := s.tru.logSeq + 1
      dbgSince := if mr = 7 then decide (digest.take 1 = [3#8]) else s.tru.dbgSince } }

/-- An unsigned extension (Table 16-1). -/
def measure (s : State) (typ mr : Nat) (digest : List Byte) : State := extendMR s typ mr 0 [] digest

/-- A signed extension: an unknown signer raises event 0x1001 with `TYPE` and `SEQ`, and refuses nothing (R512, Table 16-9). -/
def measureSigned (s : State) (typ mr : Nat) (keys : List (List Byte)) (body sig : List Byte) : State :=
  let v := verdictOf keys body sig
  let q := s.tru.logSeq
  let s := extendMR s typ mr v.1 v.2 (shake64 body)
  if v.1 = 0x20 then raise s 0x1001 0x13 [typ, q] else s

/-- Extends MR7 with a debug kind: 1 session opened, 2 debug halt, 3 first debug write since the last MR7 entry (Table 16-1, R545, R547, R550). -/
def measureDebug (s : State) (kind : Nat) : State := measure s 0x70 7 (leBytes 2 kind)

/-- The digest of the last log entry of a type. -/
def lastDigest (s : State) (typ : Nat) : List Byte :=
  match (s.tru.log.filter fun e => e.typ == typ).getLast? with
  | some e => e.digest
  | none => List.replicate 64 0#8

/-! ### The energy ledger's feed (R519, R520) -/

/-- Size in bytes of a feed record with header and CRC. -/
def feedSize : FeedBody → Nat
  | .ident _ _ => 48
  | .step _ _ _ _ => 288
  | .idle _ => 20
  | .commit _ ps => 24 + 8 * ps.length

/-- The payload of a feed record (Table 16-4). -/
def feedPayload : FeedBody → List Byte
  | .ident d st => padTo 32 d ++ leBytes 1 st ++ [0#8, 0#8, 0#8]
  | .step n e m ts => leBytes 8 n ++ leBytes 8 e ++ leBytes 2 m ++ [0#8, 0#8] ++ ((List.range 128).map fun i => leBytes 2 (ts.getD i 0xFFFF)).flatten
  | .idle e => leBytes 8 e
  | .commit n ps => leBytes 8 n ++ leBytes 2 ps.length ++ [0#8, 0#8] ++ (ps.map fun p => leBytes 2 p.1 ++ [0#8, 0#8] ++ leBytes 4 p.2).flatten

/-- Type byte of a feed record (Table 16-4). -/
def feedType : FeedBody → Nat
  | .ident _ _ => 1
  | .step _ _ _ _ => 2
  | .idle _ => 3
  | .commit _ _ => 4

/-- A feed record as sent (R519). -/
def feedBytes (r : FeedRec) : List Byte :=
  let p := feedPayload r.body
  let m := leBytes 4 r.seq ++ leBytes 1 (feedType r.body) ++ [0#8] ++ leBytes 2 p.length ++ p
  m ++ leBytes 4 (crc32 m).toNat

/-- Adds tokens per tenant of one record to another (R520). -/
def addPairs (a b : List (Nat × Nat)) : List (Nat × Nat) :=
  b.foldl (fun acc p =>
    if acc.any (fun q => q.1 == p.1) then acc.map (fun q => if q.1 = p.1 then (q.1, q.2 + p.2) else q) else acc ++ [p]) a

/-- Merges a record into the last unsent record of its kind, if the rule merges it (R520). -/
def feedMerge (half : Bool) (b : FeedBody) : List FeedRec → Option (List FeedRec)
  | [] => none
  | r :: q =>
    match feedMerge half b q with
    | some q' => some (r :: q')
    | none =>
      match r.body, b with
      | .step _ e m _, .step n2 e2 m2 t2 => if half then some ({ r with body := .step n2 (e + e2) (m + m2) t2 } :: q) else none
      | .commit n ps, .commit _ p2 => some ({ r with body := .commit n (addPairs ps p2) } :: q)
      | _, _ => none

/-- Enters a record into the feed's send buffer of 1 MiB (R519, R520). -/
def feedPut (s : State) (b : FeedBody) : State :=
  let used := sumN (s.tru.feed.map fun r => feedSize r.body)
  match feedMerge (decide (524288 < used)) b s.tru.feed with
  | some q => { s with tru := { s.tru with feed := q } }
  | none => { s with tru := { s.tru with feed := s.tru.feed ++ [{ seq := s.tru.feedSeq, body := b }], feedSeq := s.tru.feedSeq + 1 } }

/-! ### Eddy (R44-R50) -/

/-- Whether an Eddy cause is present. -/
def hasCause (s : State) (n : Nat) : Bool := s.sch.causes.any fun c => c.no == n

/-- Whether any cause holds the compute domain. -/
def inEddy (s : State) : Bool := !s.sch.causes.isEmpty

/-- Enters an Eddy cause, once for each source (R45). -/
def addCause (s : State) (n src : Nat) : State :=
  if s.sch.causes.any (fun c => c.no == n && c.src == src) then s
  else s.mapSch fun k => { k with causes := k.causes ++ [{ no := n, src := src, sinceW := k.wCycle }] }

/-- An Eddy that is known to last until W-cycle `w` (R45). -/
def addCauseUntil (s : State) (n src w : Nat) : State :=
  if s.sch.causes.any fun c => c.no == n && c.src == src then s
  else s.mapSch fun k => { k with causes := k.causes ++ [{ no := n, src := src, sinceW := k.wCycle, untilW := some w }] }

/-- The W-cycle from which a resource that becomes present now can be used: the horizon of R45. -/
def horizon (s : State) : Nat := s.sch.wCycle + 4

/-- The W-cycle until which an S-cycle is held that needs a resource usable from W-cycle `u` (R45). -/
def lateBy (s : State) (u : Nat) : Option Nat := if s.sch.wCycle < u then some u else none

/-- Holds the S-cycle: for a resource that is absent, or until a W-cycle for one that came within the horizon (R45). -/
def holdFor (s : State) (n src : Nat) (h : Option (Option Nat)) : State :=
  match h with
  | none => s
  | some none => addCause s n src
  | some (some w) => addCauseUntil s n src w

/-- Fixes the W-cycle at which a cause clears: `d` W-cycles from now (R45). -/
def endCause (s : State) (n src d : Nat) : State :=
  s.mapSch fun k => { k with causes := k.causes.map fun c =>
    if c.no = n ∧ c.src = src ∧ c.untilW = none then { c with untilW := some (k.wCycle + d) } else c }

/-- Removes a cause at once. -/
def dropCause (s : State) (n : Nat) : State := s.mapSch fun k => { k with causes := k.causes.filter fun c => c.no != n }

/-- Whether the compute domain completes S-cycles: a job runs and no Eddy holds it (R6, R44). -/
def sRun (s : State) : Bool := s.sch.job && (s.dev.state == .running || s.dev.state == .draining) && !inEddy s

/-! ### Bed partitions and the log header -/

/-- One partition entry (Table 8-2): type, base and size in bytes. -/
def partOf (s : State) (i : Nat) : Nat × Nat × Nat :=
  let v := (fget s.beds.parts 0#64 i).toNat
  (bits v 63 60, bits v 12 0 * 2097152, bits v 45 32 * 2097152)

/-- Whether a partition entry is in use (R263). -/
def partUsed (p : Nat × Nat × Nat) : Bool := p.1 != 0 && p.2.2 != 0

/-- The partition of a type: base and size in bytes. -/
def partFind (s : State) (t : Nat) : Option (Nat × Nat) :=
  ((List.range 8).map (partOf s)).find? (fun p => partUsed p && p.1 == t) |>.map fun p => p.2

/-- The type of the partition that holds a bed byte; 0 outside every partition. -/
def partTypeAt (s : State) (a : Nat) : Nat :=
  match ((List.range 8).map (partOf s)).find? (fun p => partUsed p && decide (p.2.1 ≤ a ∧ a < p.2.1 + p.2.2)) with
  | some p => p.1
  | none => 0

/-- Clears the error marks of the units of `w` bytes that bytes `a` to `a + n - 1` cover wholly (R270). -/
def clearBad (m : FMap Bool) (w a n : Nat) : FMap Bool := m.filter fun p => !(decide (a ≤ w * p.1) && decide (w * p.1 + w ≤ a + n))

/-- Clears the error marks of those of these units that satisfy `p`. -/
def clearBadIf (m : FMap Bool) (w a n : Nat) (p : Nat → Bool) : FMap Bool :=
  m.filter fun x => !(decide (a ≤ w * x.1) && decide (w * x.1 + w ≤ a + n) && p x.1)

/-- Granule `g` of kind `k` among the error marks of a core's other stores (R270). -/
def badKey (k g : Nat) : Nat := 16777216 * k + g

/-- Clears the error marks of the granules of kind `k` that bytes `a` to `a + n - 1` of their store cover wholly (R270). -/
def clearBadX (m : FMap Bool) (k a n : Nat) : FMap Bool := clearBad m 8 (8 * badKey k 0 + a) n

/-- Writes bed bytes. -/
def bedWrite (s : State) (a : Nat) (bs : List Byte) : State :=
  s.mapBeds fun b => { b with mem := mwrite b.mem a bs, bad := clearBad b.bad 1024 a bs.length }

/-- The replay-log partition: base and usable bytes, at most 4 GiB (R265, R536). -/
def logPart (s : State) : Option (Nat × Nat) := (partFind s 5).map fun p => (p.1, min p.2 4294967296)

/-- Writes bytes of the replay log. -/
def logWrite (s : State) (off : Nat) (bs : List Byte) : State :=
  match logPart s with
  | some p => bedWrite s (p.1 + off) (bs.take (p.2 - off))
  | none => s

/-! ### Device state (R10, R433-R435) -/

/-- Code of a device state in 0x1800:01 (Table 13-9); 0 names no state. -/
def stateCode : DevState → Nat
  | .off => 0 | .boot => 1 | .standby => 2 | .loading => 3 | .ready => 4 | .running => 5 | .draining => 6 | .slackwater => 7 | .halted => 8

/-- Stops the input recorder with a status at exit from RUNNING and DRAINING, at a swap switch or when full: entries after the last STEP entry
are discarded (R538). -/
def inpStop (s : State) (st : Nat) : State :=
  if s.inp.status = 0 then logWrite { s with inp := { s.inp with status := st, entries := [] } } 10 (leBytes 1 st) else s

/-- A change of the device state: event 0x0D04 except into OFF, and the state left is kept on entry into HALTED or SLACKWATER (R433, R451). -/
def setState0 (s : State) (n : DevState) : State :=
  let old := s.dev.state
  if n = old then s else
  let s := s.mapDev fun d => { d with state := n, saved := if n = .halted ∨ n = .slackwater then stateCode old else d.saved }
  if n = .off then s else raise s 0x0D04 0x10 [stateCode old, stateCode n]

/-- Entry into SLACKWATER: the compute-domain logic is unpowered, the metering of the sleep starts (R477, R480). -/
def enterSleep (s : State) : State :=
  let from_ := s.dev.state
  let s := setState0 s .slackwater
  let s := s.mapDev fun d => { d with sleepFrom := stateCode from_ }
  let s := s.mapPwr fun p => { p with sleepE := 0, sleepAt := s.now, sleepN := sat32 p.sleepN }
  raise s 0x0E0B 0x12 [0]

/-- A change of the device state; a board sleep request asserted before takes effect on entry into STANDBY or READY (R435, R566). -/
def setState (s : State) (n : DevState) : State :=
  let s := setState0 s n
  if (n = .standby ∨ n = .ready) ∧ s.pins.sleepReq ∧ !s.dev.busy then enterSleep s else s

/-- Freezes the job: the compute domain stands in HALTED with its state held (R10, Table 13-10). -/
def freeze (s : State) (id : Nat) : State :=
  if s.dev.state = .running ∨ s.dev.state = .draining then
    let s := inpStop s 2
    let s := s.mapDev fun d => { d with haltId := id, dbgHalt := false }
    setState0 s .halted
  else s

/-- A fatal event: its record and the freeze. -/
def fatal (s : State) (id hint : Nat) (items : List Nat) : State := freeze (raise s id hint items) id

/-- A halt to be taken at the end of the next Weir (R78, R93, R94, R179); the first stands. DESIGN CHOICE (log 74): a request made in a Weir's own
S-cycles is taken at the end of that Weir, which R94 and R179 leave open. -/
def haltNext (s : State) (id : Nat) : State := s.mapSch fun k => { k with haltReq := k.haltReq <|> some id }

/-- A debug halt: cause 12, HALTED, event 0x1106, the halt cause and MR7 with kind 2 (R544, R545). -/
def debugHalt (s : State) (cause : Nat) : State :=
  let id := 0x1106
  let s := s.mapDev fun d => { d with haltId := id, dbgHalt := true }
  let s := setState0 s .halted
  let s := { s with dbg := { s.dbg with cause := cause, haltS := none, haltWeir := none } }
  let s := addCause s 12 0
  let s := raise s 0x1106 0x13 [cause]
  measureDebug s 2

/-! ### Sequence slots and KV bounds (R268, R269) -/

/-- Default of a serving configuration object (Table 12-1; 01-09 the lowest value of the range, log 8). -/
def confD (i : Nat) : Nat :=
  if i = 2 ∨ i = 3 ∨ i = 5 ∨ i = 6 then 1 else if i = 10 then 2000 else if i = 11 then 1024 else if i = 12 then 3277 else if i = 13 then 64 else 0

/-- Serving configuration object 0x5000:i (R381). -/
def conf (s : State) (i : Nat) : Nat := fget s.srv.conf (confD i) i

/-- Step window of a slot (R269, R398): in PREFILL the positions of the chunks that have reached this stage, in DECODE the rows of every
pending pass that has reached it; pending passes still count with park requested. -/
def kvWindow (s : State) (x : Slot) : Nat :=
  match x.state with
  | .prefill => if x.start + conf s 1 ≤ s.sch.stepNo then min x.plen (conf s 5 * (s.sch.stepNo - x.start - conf s 1 + 1)) - x.l else 0
  | .decode => sumN ((x.pend.filter fun q => decide (q.step + conf s 1 ≤ s.sch.stepNo)).map fun q => q.rows)
  | _ => 0

/-- B(s): committed length plus the step window (R269); 0 in FREE, and 0 for a slot whose line was lost (R275). -/
def kvBound (s : State) (i : Nat) : Nat :=
  let x := s.slot i
  if fget s.beds.kvLost false i then 0 else
  match x.state with
  | .free => 0
  | .prefill | .decode => x.l + kvWindow s x
  | _ => x.l

/-- The KV slot of a bed offset under the geometry, when the 64-byte unit may be read (R267, R268). -/
def kvVisible (s : State) (o : Nat) : Bool :=
  let u := 64 * s.beds.kvU
  let q := max (64 * s.beds.kvQ) u
  let st := max (64 * s.beds.kvS) q
  if s.beds.kvS = 0 ∨ s.beds.kvQ = 0 ∨ s.beds.kvU = 0 then false else
  let sl := o / st
  let x := o % st
  let p := x / q
  let j := x % q / u
  decide (sl < 128) && decide (p < st / q) && decide (x % q < u * (q / u)) && decide (j < kvBound s sl)

/-- The slot that owns a KV line under the geometry (R268, R275). -/
def kvOwner (s : State) (o : Nat) : Option Nat :=
  let st := max (64 * s.beds.kvS) (max (64 * s.beds.kvQ) (64 * s.beds.kvU))
  if s.beds.kvS = 0 ∨ s.beds.kvQ = 0 ∨ s.beds.kvU = 0 ∨ 128 ≤ o / st then none else some (o / st)

/-- Reads bed bytes: the bytes of a stack fenced in service read zero (R495), and 64-byte units of the KV partition are masked (R268). -/
def bedRead (s : State) (a n : Nat) : List Byte :=
  let kv := partFind s 3
  (List.range n).map fun i =>
    let x := a + i
    if s.rep.stackOff = some (bits x 13 10) then 0#8 else
    match kv with
    | some (b, z) => if b ≤ x ∧ x < b + z ∧ !kvVisible s ((x - b) / 64 * 64) then 0#8 else mget s.beds.mem x
    | none => mget s.beds.mem x

/-- Sets the step-write bit of every 8-byte granule touched (R275). -/
def markWrote (m : FMap Bool) (a n : Nat) : FMap Bool :=
  if n = 0 then m else (List.range ((a + n - 1) / 8 - a / 8 + 1)).foldl (fun m i => fset m false (a / 8 + i) true) m

/-- Segment of a byte address in a memory of `size` bytes: a contiguous eighth (R280). -/
def segOf (size a : Nat) : Nat := a * 8 / size

/-- Whether a segment is on. -/
def segOn (mask : BitVec 8) (i : Nat) : Bool := mask.getLsbD i

/-- Whether every byte of a range lies in a segment that is on. -/
def segRangeOn (mask : BitVec 8) (size a n : Nat) : Bool :=
  (List.range 8).all fun i => segOn mask i || decide (a + n ≤ i * (size / 8)) || decide ((i + 1) * (size / 8) ≤ a) || n == 0

/-- Bank of row `ra` in a memory of 2^b banks (R253). -/
def rowBank (b ra : Nat) : Nat := (List.range 4).foldl (fun a i => a ^^^ (ra / 2 ^ (b * i) % 2 ^ b)) 0

/-- log₂ of the banks of a memory: 6 for a PF scratchpad and a pool, 5 for a DE scratchpad (R253). -/
def bankBits (m : Nat) : Nat := if m < 192 ∧ isDE m then 5 else 6

/-- Stack, tier and row of a bed line under the map in force (R254, R491, R496). -/
def rowOf (s : State) (line : Nat) : Nat × Nat × Nat :=
  match s.rep.stackMap with
  | none => (line % 16, line / 16 / 131072, line / 16 % 131072)
  | some k =>
    let j := line % 15
    (if j < k then j else j + 1, line / 15 / 131072, line / 15 % 131072)

/-- Reads scratchpad bytes; a segment that is off reads as absent memory, zero (log 16). -/
def spadRead (s : State) (c a n : Nat) : List Byte :=
  let k := s.core c
  (List.range n).map fun i => if segOn k.segMask (segOf (spadBytes c) (a + i)) then mget k.spad (a + i) else 0#8

/-- Segments of a scratchpad that take writes: those that are on or whose power-down is not complete (R282); a staged power-down is complete for the
segments that have acknowledged it. -/
def segTakes (s : State) (c : Nat) : BitVec 8 :=
  let gone := s.mgm.staged.foldl (fun (a : BitVec 8) g => match g.kind with
    | .segment (.core x) v => if x.val = c then a ||| (g.acks &&& ~~~v) else a
    | _ => a) 0#8
  ((s.core c).segMask ||| (s.core c).segDown) &&& ~~~gone

/-- Writes scratchpad bytes; the bytes of a segment that is off, its power-down complete, are dropped (R282). The Bool says that something was
dropped. -/
def spadWrite (s : State) (c a : Nat) (bs : List Byte) : State × Bool :=
  let on := segTakes s c
  if segRangeOn on (spadBytes c) a bs.length then
    (s.mapCore c fun k => { k with spad := mwrite k.spad a bs, bad := clearBad k.bad 8 a bs.length, wrote := markWrote k.wrote a bs.length }, false)
  else
    let ok := (List.range bs.length).filter fun i => segOn on (segOf (spadBytes c) (a + i))
    let x := a + ((List.range bs.length).find? fun i => !segOn on (segOf (spadBytes c) (a + i))).getD 0
    let s := s.mapCore c fun k => { k with
      spad := ok.foldl (fun m i => mset m (a + i) (byteAt bs i)) k.spad, bad := clearBadIf k.bad 8 a bs.length fun g => segOn on (segOf (spadBytes c) (8 * g))
      wrote := ok.foldl (fun m i => fset m false ((a + i) / 8) true) k.wrote }
    (raise s 0x0809 (c / 12) [0, c, rowBank (bankBits c) (x / 32), x], true)

/-- Reads pool bytes. -/
def poolRead (s : State) (cl a n : Nat) : List Byte :=
  let k := s.pool cl
  (List.range n).map fun i => if segOn k.segMask (segOf poolBytes (a + i)) then mget k.mem (a + i) else 0#8

/-- Segments of a pool that take writes (R282). -/
def segTakesPool (s : State) (cl : Nat) : BitVec 8 :=
  let gone := s.mgm.staged.foldl (fun (a : BitVec 8) g => match g.kind with
    | .segment (.pool x) v => if x.val = cl then a ||| (g.acks &&& ~~~v) else a
    | _ => a) 0#8
  ((s.pool cl).segMask ||| (s.pool cl).segDown) &&& ~~~gone

/-- Writes pool bytes; the bytes of a segment that is off, its power-down complete, are dropped (R282). -/
def poolWrite (s : State) (cl a : Nat) (bs : List Byte) : State × Bool :=
  let on := segTakesPool s cl
  if segRangeOn on poolBytes a bs.length then
    (s.mapPool cl fun k => { k with mem := mwrite k.mem a bs, bad := clearBad k.bad 8 a bs.length, wrote := markWrote k.wrote a bs.length }, false)
  else
    let ok := (List.range bs.length).filter fun i => segOn on (segOf poolBytes (a + i))
    let x := a + ((List.range bs.length).find? fun i => !segOn on (segOf poolBytes (a + i))).getD 0
    let s := s.mapPool cl fun k => { k with
      mem := ok.foldl (fun m i => mset m (a + i) (byteAt bs i)) k.mem, bad := clearBadIf k.bad 8 a bs.length fun g => segOn on (segOf poolBytes (8 * g))
      wrote := ok.foldl (fun m i => fset m false ((a + i) / 8) true) k.wrote }
    (raise s 0x0809 cl [1, cl, rowBank 6 (x / 32), x], true)

/-! ### Descriptor banks (R66, R103) -/

/-- The active bank of a core. -/
def Core.actBank (k : Core) : Mem := if k.activeB then k.bankB else k.bankA

/-- The inactive bank of a core. -/
def Core.inBank (k : Core) : Mem := if k.activeB then k.bankA else k.bankB

/-- Changes the inactive bank. -/
def Core.mapIn (k : Core) (f : Mem → Mem) : Core := if k.activeB then { k with bankA := f k.bankA } else { k with bankB := f k.bankB }

/-- Writes bytes into the inactive bank (Table 3-9): the state becomes FILLING. Bytes that came through 0x2032 count until the bank is filled anew after
it was spent (R107). -/
def bankWriteTo (s : State) (c off : Nat) (bs : List Byte) (byOd : Bool) : State :=
  s.mapCore c fun k => { (k.mapIn fun m => mwrite m off bs) with
    inact := .filling, byOd := byOd || (k.byOd && k.inact != .spent), badX := clearBadX k.badX 0 (off + if k.activeB then 0 else bankBytes) bs.length }

/-- An armed switch at the end of a Weir (Table 3-9, R106): a VALID bank becomes active and the old one SPENT with event 0x030C; else the
switch is refused with event 0x030B. A switched core starts at place 0 (R92). -/
def bankSwitch (s : State) (c : Nat) : State :=
  let k := s.core c
  if k.inact = .valid then
    let s := s.mapCore c fun k => { k with activeB := !k.activeB, inact := .spent, armed := false, idx := 0, byOd := k.byOdAct, byOdAct := k.byOd }
    raiseAt s (s.sch.sCycle - 1) 0x030C (c / 12) [c, if k.activeB then 0 else 1]
  else raiseAt (s.mapCore c fun k => { k with armed := false }) (s.sch.sCycle - 1) 0x030B (c / 12) [c, if k.activeB then 0 else 1]

/-! ### Sticky numerical flags (R132) -/

/-- Sets sticky numerical flags of a core: they appear in 0x2061 (R132). -/
def setSticky (s : State) (c : Nat) (f : BitVec 32) : State :=
  if f = 0#32 then s else s.mapCore c fun k => { k with sticky := k.sticky ||| f, stickySet := k.stickySet ||| f }

/-! ### Dictionary answers (R425, R430) -/

/-- Appends a response (R425). -/
def respond (s : State) (r : Resp) : State := s.mapMgm fun m => { m with resp := m.resp ++ [r] }

/-- Abort codes (Table 13-8). -/
def abBADPDU : Nat := 0x05030001
def abBUSY : Nat := 0x05040001
def abWRITEONLY : Nat := 0x06010001
def abREADONLY : Nat := 0x06010002
def abNOTOWNER : Nat := 0x06010003
def abNOOBJECT : Nat := 0x06020000
def abNOSUB : Nat := 0x06090011
def abBADLEN : Nat := 0x06070010
def abPASTEND : Nat := 0x06070012
def abBADVALUE : Nat := 0x06090030
def abSTATE : Nat := 0x08000020
def abINCONS : Nat := 0x08000021
def abINUSE : Nat := 0x08000022
def abNOTAVAIL : Nat := 0x08000023
def abSTAGEFULL : Nat := 0x08000024
def abCHECK : Nat := 0x08000025
def abTOOLATE : Nat := 0x08000026
def abBADCMD : Nat := 0x08000027
def abNOTREADY : Nat := 0x08000028

/-- A refused request: the counters of Table 13-11 and event 0x0D02, and nothing else (R430). -/
def refuse (s : State) (p : Path) (obj ab : Nat) : State :=
  let s := s.mapMgm fun m => { m with refusals := sat32 m.refusals, lastAbort := ab, lastRef := obj }
  let s := raise s 0x0D02 0x10 [obj, ab]
  respond s { path := p, typ := 0x382, index := obj / 256, sub := obj % 256, abort := ab }

/-- A successful write's response. -/
def okResp (s : State) (p : Path) (obj : Nat) : State :=
  respond s { path := p, typ := 0x382, index := obj / 256, sub := obj % 256 }

/-- Reports a clamp (R431). -/
def clamped (s : State) (obj : Nat) : State :=
  raise (s.mapMgm fun m => { m with clamps := sat32 m.clamps, lastClamp := obj }) 0x0D03 0x10 [obj]

/-- Whether a hart serves the dictionary: one has the role and is not in debug mode, where requests for its role wait (R499, R551). -/
def dictHart (s : State) : Bool :=
  s.mgm.dictOn && !(List.range 4).any fun h => ((s.hart h).role == 0 || (s.hart h).role == 2) && (s.hart h).halted

/-- The number of a path in `Mgmt.waitReq`. -/
def pathNo : Path → Nat
  | .tributary => 0
  | .segment => 1

/-- The requests that wait on a path, oldest first (R427). -/
def waitsOn (s : State) (p : Path) : List Instr := fget s.mgm.waitReq [] (pathNo p)

/-- The state with other waiting requests on a path. -/
def setWaits (s : State) (p : Path) (l : List Instr) : State := s.mapMgm fun m => { m with waitReq := fset m.waitReq [] (pathNo p) l }

/-- Whether requests of a path are received at all: the device state, the path's enable and a hart with the role (R423, R499, Table 13-11). -/
def pathUp (s : State) (p : Path) : Bool :=
  s.dev.state != .off && (p == .tributary || s.mgm.segOn) && s.mgm.dictOn && (s.dev.state != .boot || decide (2 ≤ s.dev.phase))

/-- Whether a request that arrives on a path is served at once: none waits there before it (R427). -/
def served (s : State) (p : Path) : Bool := pathUp s p && dictHart s && (waitsOn s p).isEmpty

/-- A request arrives on a path (R427, R551): it is served at once, with the state `now`, or waits behind those that wait there, which pends the path's
direct line (Table 13-13); beyond 16 it is answered with `BUSY`, the state `full`. -/
def odTake (s : State) (p : Path) (i : Instr) (full now : State) : State :=
  if !pathUp s p ∨ served s p then now
  else if (waitsOn s p).length < 16 then pendLine (setWaits s p (waitsOn s p ++ [i])) 1 (4 + pathNo p)
  else full

/-- The path whose oldest waiting request is served next: the two paths in turn (R427). -/
def nextPath (s : State) : Option Path :=
  (if s.mgm.lastPath = 0 then [Path.segment, .tributary] else [.tributary, .segment]).find? fun p =>
    pathUp s p && dictHart s && !(waitsOn s p).isEmpty

/-- Whether a path may write (R428). -/
def ownerOk (s : State) (p : Path) : Bool :=
  match p with
  | .tributary => s.mgm.owner != 2
  | .segment => s.mgm.owner != 1

/-- Whether an index belongs to the boot subset for writes (R423). -/
def bootIdx (i : Nat) : Bool := decide (0x1000 ≤ i ∧ i ≤ 0x11FF) || [0x1800, 0x1820, 0x1821, 0x1830, 0x1831].contains i

/-- Whether the device state serves a write of an object under R423, before the object's own rule. -/
def stateServes (s : State) (obj : Nat) : Bool :=
  match s.dev.state with
  | .off => false
  | .boot => bootIdx (obj / 256)
  | .slackwater => obj == 0x180002
  | .halted => obj == 0x180002 || obj == 0x701001 || obj == 0x701002 || decide (0xA00000 ≤ obj ∧ obj ≤ 0xAFFFFF)
  | _ => true

/-- A dictionary write of an object with a row of its own, checked in the order of R430: owner, device state (`stOk`, the object's own rule),
then the object's remaining checks (`chk`, the abort code of the first that fails), then its effect and the response. -/
def odCmd (s : State) (p : Path) (obj : Nat) (stOk : Bool) (chk : Nat) (act : State → State) : State :=
  if !served s p then s
  else if !ownerOk s p then refuse s p obj abNOTOWNER
  else if !(stateServes s obj && stOk) then refuse s p obj abSTATE
  else if chk ≠ 0 then refuse s p obj chk
  else okResp (act s) p obj

/-- A request with a row of its own arrives (R427). -/
def odReq (s : State) (p : Path) (obj : Nat) (i : Instr) (now : State) : State := odTake s p i (refuse s p obj abBUSY) now

/-- The first abort code of a list of checks that fails, 0 if all pass. -/
def firstAbort : List (Bool × Nat) → Nat
  | [] => 0
  | (ok, ab) :: r => if ok then firstAbort r else ab

/-! ### Staged changes (R436-R440) -/

/-- Index × 256 + subindex of a staged change. -/
def stageObj : StageKind → Nat
  | .numctl c _ => 0x206000 + c + 1
  | .segment (.core c) _ => 0x209000 + c.val + 1
  | .segment (.pool cl) _ => 0x20A000 + cl.val + 1
  | .bankSwitch c => 0x203300 + c + 1
  | .pathSwitch => 0x402100
  | .swapSwitch => 0x307103

/-- Step whose Weir a change staged now belongs to: the first whose S-cycle w + 10 falls after the request (R438). -/
def stageWeir (s : State) : Nat :=
  match s.sch.weirAt with
  | some w => if s.sch.sCycle < w + 10 then s.sch.stepNo else s.sch.stepNo + 1
  | none => s.sch.stepNo

/-- Whether a change waits for the end of its Weir before its staging request is sent (R439: segments). -/
def stageHeld : StageKind → Bool
  | .segment _ _ => true
  | _ => false

/-- Whether one more change fits (R440). -/
def stageRoom (s : State) (k : StageKind) : Bool :=
  decide (s.mgm.staged.length < 32) || s.mgm.staged.any fun g => stageObj g.kind == stageObj k

/-- Stages a change: a second write to an object replaces the pending value and its limit restarts (R437, R440). -/
def stage (s : State) (k : StageKind) : State :=
  let g : Staged := { kind := k, atW := s.now, weir := stageWeir s, acked := false, sent := !stageHeld k }
  s.mapMgm fun m =>
    if m.staged.any (fun x => stageObj x.kind == stageObj k) then
      { m with staged := m.staged.map fun x => if stageObj x.kind = stageObj k then g else x }
    else if m.staged.length < 32 then { m with staged := m.staged ++ [g] } else m

/-- Whether a write of a staged object is staged now (R436, R441). -/
def stagesNow (s : State) : Bool := s.dev.state == .running || s.dev.state == .draining

/-! ### Credit and limits -/

/-- The ledger capacity in µJ (Table 14-8). -/
def ledgerCap (s : State) : Nat := s.pwr.cap

end Sys2Proof.Machine
end

