-- ==== Sys2Proof/Machine/Operands.lean ====
section
/-! DEFINITION. Descriptors, region tables and operands (chapter 3), the timing tables of R34-R36, and access to operands. -/

namespace Sys2Proof.Machine

/-! ### Descriptor fields (Table 3-1) -/

/-- A descriptor as a number (R69). -/
abbrev Desc := BitVec 512

/-- Bits [hi:lo] of a descriptor. -/
def dF (d : Desc) (hi lo : Nat) : Nat := bits d.toNat hi lo

/-- Bits [hi:lo] of `PARAM`. -/
def dP (d : Desc) (hi lo : Nat) : Nat := dF d (448 + hi) (448 + lo)

/-- One bit of `PARAM`. -/
def dPb (d : Desc) (i : Nat) : Bool := dP d i i == 1

def dOpcode (d : Desc) : Nat := dF d 63 56
def dClass (d : Desc) : Nat := dF d 63 60
def dEngine (d : Desc) : Nat := dF d 55 52
def dPredMode (d : Desc) : Nat := dF d 51 49
def dSkipSig (d : Desc) : Bool := dF d 48 48 == 1
def dPredReg (d : Desc) : Nat := dF d 47 43
def dPredBit (d : Desc) : Nat := dF d 42 37
def dSlot (d : Desc) : Nat := dF d 36 29
def dWrap (d : Desc) : Bool := dF d 28 28 == 1
def dNext (d : Desc) : Nat := dF d 10 0

/-- Region, offset and extent of operand `i`: 0-2 the sources, 3 the destination. -/
def dOperand (d : Desc) (i : Nat) : Nat × Nat × Nat :=
  let b := if i = 3 then 192 else 256 + 64 * i
  (dF d (b + 63) (b + 56), dF d (b + 55) (b + 22), dF d (b + 21) b)

/-- Flag and threshold of wait `i`. -/
def dWait (d : Desc) (i : Nat) : Nat × Nat := if i = 0 then (dF d 89 84, dF d 105 90) else (dF d 111 106, dF d 127 112)

/-- Operation, cluster, slot, flag and value of signal `i`. -/
def dSig (d : Desc) (i : Nat) : Nat × Nat × Nat × Nat × Nat :=
  let b := 128 + 32 * i
  (dF d (b + 31) (b + 30), dF d (b + 29) (b + 26), dF d (b + 25) (b + 22), dF d (b + 21) (b + 16), dF d (b + 15) b)

/-- Whether a reserved bit outside `PARAM` is 1 (R14, Table 3-1). -/
def dReserved (d : Desc) : Bool := dF d 83 64 != 0 || dF d 27 11 != 0

/-- A descriptor's 64 bytes at its place of a bank, little-endian (R67). -/
def descAt (m : Mem) (place : Nat) : Desc := BitVec.ofNat 512 (mnat m (64 * place) 64)

/-! ### Regions (Table 3-4) -/

/-- A region-table entry. -/
structure Region where
  typ : Nat
  rd : Bool
  wr : Bool
  slotted : Bool
  size : Nat
  base : Nat
  stride : Nat
deriving DecidableEq, Repr

/-- Decodes a 128-bit region-table entry (R73). -/
def regionOf (v : Nat) : Region :=
  { typ := bits v 127 124, rd := bit v 123, wr := bit v 122, slotted := bit v 121, size := bits v 97 64, base := bits v 63 30, stride := bits v 29 0 }

/-- Region entry `i` of a bank (R66). -/
def regionAt (m : Mem) (i : Nat) : Region := regionOf (mnat m (131072 + 16 * i) 16)

/-- The memory an operand lies in (Table 3-5). -/
inductive Loc where
  | spad (c : Nat)
  | pool (cl : Nat)
  | beds
  | bank (c : Nat)
  | inQ (q : Nat)
  | outQ (q : Nat)
  | absent
deriving DecidableEq, Repr

/-- A resolved operand: its memory, the byte address of its first unit (the entry for a queue), its length in bytes and its extent in units. -/
structure Opnd where
  typ : Nat
  loc : Loc
  a : Nat
  bytes : Nat
  ext : Nat
deriving DecidableEq, Repr

/-- Bytes of a region unit (Table 3-5). -/
def unitBytes (t : Nat) : Nat := if t = 4 ∨ t = 5 then 1 else if t = 7 ∨ t = 8 then 64 else 4

/-- Width of the address part of a region's `BASE` (Table 3-5). -/
def baseBits (t : Nat) : Nat := if t = 3 then 22 else if t = 4 then 34 else if t = 5 then 18 else if t = 7 ∨ t = 8 then 7 else 20

/-- The memory a region of core `c` names (Table 3-5). -/
def regionLoc (c : Nat) (g : Region) : Loc :=
  let t := g.typ
  if t = 1 ∨ t = 6 then .spad c
  else if t = 2 ∨ t = 5 then
    let k := 12 * bits g.base 27 24 + bits g.base 23 20
    if 12 ≤ bits g.base 23 20 then .absent else if t = 2 then .spad k else .bank k
  else if t = 3 then .pool (bits g.base 25 22)
  else if t = 4 then .beds
  else if t = 7 then .inQ (bits g.base 6 0)
  else if t = 8 then .outQ (bits g.base 6 0)
  else .absent

/-- First unit of a region part plus an offset, on the address part of `BASE` (R75; log 17). -/
def unitAddr (g : Region) (slot off : Nat) : Nat :=
  bits g.base (baseBits g.typ - 1) 0 + (if g.slotted then slot * g.stride else 0) + off

/-- Operand `i` of descriptor `d` of core `c`, against the active bank, whatever its extent (R75). -/
def operandAny (s : State) (c : Nat) (d : Desc) (i : Nat) : Opnd :=
  let (r, off, ext) := dOperand d i
  let g := regionAt (s.core c).actBank r
  { typ := g.typ, loc := regionLoc c g, a := unitBytes g.typ * unitAddr g (dSlot d) off, bytes := unitBytes g.typ * ext, ext := ext }

/-- Operand `i` of descriptor `d` of core `c`; none when the extent is 0 (R75, R77). -/
def operand (s : State) (c : Nat) (d : Desc) (i : Nat) : Option Opnd := if (dOperand d i).2.2 = 0 then none else some (operandAny s c d i)

/-- Whether Table 3-5 allows region type `t` for operand `i` of a descriptor. -/
def roleAllowed (d : Desc) (t i : Nat) : Bool :=
  let k := dClass d
  match t with
  | 1 => true
  | 2 => k == 0xA || k == 0xB
  | 3 => k == 0xA || k == 0xB
  | 4 => k == 0xA || (k == 7 && i != 3)
  | 5 => k == 0xA && i == 3
  | 6 => dOpcode d == 0xB1 && i == 3
  | 7 => k == 0xC && i != 3
  | 8 => k == 0xC && i == 3
  | _ => false

/-- The failed check of an operand, numbered in the order of R77: 1 type, 2 role, 3 RD or WR, 4 extent, 5 slot; 0 when it passes. -/
def operandCheck (s : State) (c : Nat) (d : Desc) (i : Nat) : Nat :=
  let (r, off, ext) := dOperand d i
  if ext = 0 then 0 else
  let g := regionAt (s.core c).actBank r
  if g.typ = 0 then 1
  else if !roleAllowed d g.typ i then 2
  else if !(if i = 3 then g.wr else g.rd) then 3
  else if g.size < off + ext then 4
  else if g.slotted ∧ 127 < dSlot d then 5
  else 0

/-- The first operand that fails R77 with its check. -/
def operandsBad (s : State) (c : Nat) (d : Desc) : Option (Nat × Nat) :=
  ([0, 1, 2, 3].map fun i => (i, operandCheck s c d i)).find? fun p => p.2 != 0

/-! ### Regions inside their memory (R80, R266, R328) -/

/-- Present bed stacks: 15 with one fenced in the bed map (R496). -/
def presentStacks (s : State) : Nat := if s.rep.stackMap = none then 16 else 15

/-- Physical position of a logical slot with no remap: PF slot s at position s, DE slot 4+p at position 5+p (R481). -/
def posOf0 (c : Nat) : Nat := if c % 12 < 4 then c % 12 else c % 12 + 1

/-- Physical position of a logical core; 255 absent (R481, R487). -/
def corePos (s : State) (c : Nat) : Nat := fget s.rep.map (posOf0 c) c

/-- Whether a logical core is present (R483). -/
def corePresent (s : State) (c : Nat) : Bool := decide (c < 192) && corePos s c != 255

/-- Units a region covers: from its base to its last unit, all slots' parts included (R80). -/
def regionSpan (g : Region) : Nat := (if g.slotted then 127 * g.stride else 0) + g.size

/-- Whether one region entry of core `c` lies inside its memory (R80, R266); a reserved type names no memory and passes. DESIGN CHOICE (log 74):
`BASE` bits above the address format of types 0x1-0x3, 0x5 and 0x6 must be 0, as R80 states for types 0x7 and 0x8 only. -/
def regionInside (s : State) (c : Nat) (g : Region) : Bool :=
  let lo := bits g.base (baseBits g.typ - 1) 0
  let n := regionSpan g
  let spadIn := fun (k : Nat) => corePresent s k && decide (4 * (lo + n) ≤ spadBytes k) && segRangeOn (s.core k).segMask (spadBytes k) (4 * lo) (4 * n)
  match g.typ with
  | 0 => true
  | 1 => spadIn c && decide (g.base < 2 ^ (if isDE c then 18 else 20))
  | 6 => spadIn c && decide (g.base < 2 ^ (if isDE c then 18 else 20))
  | 2 => decide (bits g.base 23 20 < 12) && spadIn (12 * bits g.base 27 24 + bits g.base 23 20) && decide (g.base < 2 ^ 28)
  | 3 => decide (4 * (lo + n) ≤ poolBytes) && decide (g.base < 2 ^ 26) &&
      segRangeOn (s.pool (bits g.base 25 22)).segMask poolBytes (4 * lo) (4 * n)
  | 4 => ((List.range 8).map (partOf s)).any fun p =>
      partUsed p && decide (p.2.1 ≤ lo ∧ lo + n ≤ p.2.1 + p.2.2) && p.1 != 5 && p.1 != 6 && !(p.1 == 4 && g.wr)
  | 5 => decide (bits g.base 23 20 < 12) && decide (lo + n ≤ bankBytes) && decide (g.base < 2 ^ 28)
  | 7 => decide (g.base < 128) && !g.slotted && decide (g.size ≤ 1024)
  | 8 => decide (g.base < 128) && !g.slotted && decide (g.size ≤ 1024)
  | _ => true

/-- Whether an enabled receive queue of core `c` has both halves inside one type 0x6 region of a bank (R328). -/
def queueCovered (m : Mem) (base hsize : Nat) : Bool :=
  (List.range 256).any fun i =>
    let g := regionAt m i
    g.typ == 6 && decide (bits g.base 19 0 ≤ base ∧ base + 32 * hsize ≤ bits g.base 19 0 + g.size)

/-- One receive-queue entry: core (none for slots 12-15), base word, packets per half (Table 10-8). -/
def queueEntry (s : State) (q : Nat) : Option Nat × Nat × Nat :=
  let v := mnat s.fab.queues (8 * q) 8
  if 0x3F0 ≤ q then (none, 0, 0) else
  (if bits v 59 56 < 12 then some (12 * bits v 63 60 + bits v 59 56) else none, bits v 55 36, bits v 35 24)

/-- Numbers of the region entries a bank lists. -/
def listedRegions (m : Mem) : List Nat := indices 256 fun i => mnat m (131072 + 16 * i) 16 != 0

/-- The seal check of a bank of core `c`: every entry passes R80 and R266, and the table covers the core's receive windows (R105, R328). -/
def bankSealOk (s : State) (c : Nat) (m : Mem) : Bool :=
  ((listedRegions m).all fun i => regionInside s c (regionAt m i)) &&
  (List.range 1008).all fun q =>
    let (k, b, h) := queueEntry s q
    if k = some c ∧ 0 < h then queueCovered m b h else true

/-! ### Engines and classes (R71, R72) -/

/-- Whether a core has an engine (Table 3-2). -/
def hasEngine (c e : Nat) : Bool :=
  if e < 4 then decide (e < arraysOf c) else if e = 10 ∨ e = 11 then isDE c else true

/-- Whether a class belongs to an engine (Table 3-3). -/
def classEngine (k e : Nat) : Bool :=
  match k with
  | 1 => decide (e < 4)
  | 2 => e == 4
  | 3 => e == 5
  | 4 => e == 6
  | 5 => e == 7
  | 6 => e == 8
  | 7 => e == 9
  | 8 => e == 10
  | 9 => e == 11
  | 0xA => decide (12 ≤ e)
  | 0xB => decide (12 ≤ e)
  | 0xC => decide (12 ≤ e)
  | _ => false

/-- Opcodes that exist (Tables 3-7, 5-2, 6-2, 7-1, 10-5). -/
def opExists (o : Nat) : Bool :=
  decide (o ≤ 0x06) || decide (0x10 ≤ o ∧ o ≤ 0x14) || decide (0x20 ≤ o ∧ o ≤ 0x2D) ||
  [0x30, 0x40, 0x41, 0x50, 0x60, 0x61, 0x70, 0x80, 0x90, 0xA0, 0xA1, 0xB0, 0xB1, 0xC0, 0xC1].contains o

/-- Whether engine, class and operation are valid (R72, R327: a `RECV` for a service queue is skipped). -/
def engineValid (c : Nat) (d : Desc) : Bool :=
  opExists (dOpcode d) &&
  (dClass d == 0 || (hasEngine c (dEngine d) && classEngine (dClass d) (dEngine d) && !(dOpcode d == 0xB1 && decide (0x3F0 ≤ dP d 63 54))))

/-! ### Element operands -/

/-- Elements of SM, NM, RP per chunk: c = ⌈L / E⌉ (R36). -/
def chunks (c l : Nat) : Nat := cdiv l (lanes c)

/-- Hops between two clusters of the bulk mesh (R289, R291). -/
def hops (a b : Nat) : Nat :=
  let dx := if a % 4 < b % 4 then b % 4 - a % 4 else a % 4 - b % 4
  let dy := if a / 4 < b / 4 then b / 4 - a / 4 else a / 4 - b / 4
  dx + dy

/-- Path maximum and extra latency of a copy between the own scratchpad and another endpoint (Tables 2-5, 7-6, R292). -/
def dmaPath (c : Nat) (o : Option Opnd) (isDst : Bool) : Nat × Nat :=
  match o with
  | some ⟨t, .spad k, _, _, _⟩ => if t = 2 then (128, 2 * hops (c / 12) (k / 12) + 6) else (if isDE c then 256 else 512, 4)
  | some ⟨_, .pool cl, _, _, _⟩ => if cl = c / 12 then (512, 8) else (128, 2 * hops (c / 12) cl + 8)
  | some ⟨_, .bank k, _, _, _⟩ => (128, 2 * hops (c / 12) (k / 12) + 6)
  | some ⟨_, .beds, _, _, _⟩ => if isDst then (512, 16) else (1024, 24)
  | _ => (if isDE c then 256 else 512, 4)

/-- The path of a DMA class 0xA descriptor: the endpoint that is not the own scratchpad names it (R235), of a `FILL` its destination (R236). -/
def copyPath (s : State) (c : Nat) (d : Desc) : Nat × Nat :=
  let src := if dOpcode d = 0xA1 then none else operand s c d 0
  let dst := operand s c d 3
  match src with
  | some o => if o.typ = 1 then dmaPath c dst true else dmaPath c src false
  | none => dmaPath c dst true

/-- Registers of a vector operand that `n` elements of width `w` (in tenths of a bit) touch: ⌈n w / 32E⌉. -/
def regsTouched (c n w10 : Nat) : Nat := cdiv (n * w10) (320 * lanes c)

/-- Width of a format in tenths of a bit, TERN as 1.6 (R187). -/
def width10 (f : Nat) : Nat := if f = 9 then 16 else 10 * fmtBits f

/-- A power of two at least `n`, up to 16. -/
def pow2Up (n : Nat) : Nat := if n ≤ 1 then 1 else if n ≤ 2 then 2 else if n ≤ 4 then 4 else if n ≤ 8 then 8 else if n ≤ 16 then 16 else if n ≤ 32 then 32
  else if n ≤ 64 then 64 else 128

/-- Group size L of the `EFMT` operands (Table 6-1). -/
def vGrp (d : Desc) : Nat := 2 ^ dP d 43 42

/-- Group size of an operand of width `w10` beside the `EFMT` group (R187). -/
def vGrpOf (d : Desc) (w10 : Nat) : Nat :=
  let e := width10 (dP d 41 37)
  if e = 0 then 1 else pow2Up (cdiv (vGrp d * w10) e)

/-- Elements n of a vector operation: min(vl, C) (R189). -/
def vElems (c : Nat) (d : Desc) (vl : Nat) : Nat :=
  let e := width10 (dP d 41 37)
  if e = 0 then 0 else min vl (vGrp d * 320 * lanes c / e)

/-- Operand formats of a vector operation as widths in tenths of a bit: `EFMT`, the destination format of a conversion and a scale plane. A
reduction's destination touches one register, which the least G of 1 counts. -/
def vWidths (d : Desc) : List Nat :=
  let e := dP d 41 37
  let x := dP d 36 32
  match dOpcode d with
  | 0x24 => [width10 e, width10 x] ++ (if fmtBlock e ∨ fmtBlock x then [3] else [])
  | _ => [width10 e]

/-- G of a vector operation (R189, R190, R580): VSETVL and VMASK have 1. A scale plane counts 0.25 bits an element. -/
def vG (c : Nat) (d : Desc) (vl : Nat) : Nat :=
  if dOpcode d = 0x20 ∨ dOpcode d = 0x23 then 1 else
  let n := vElems c d vl
  max 1 ((vWidths d).foldl (fun a w => max a (if w = 3 then cdiv n (128 * lanes c) else regsTouched c n w)) 1)

/-! ### Timing (R34-R36, Tables 2-3 to 2-5, 7-7, 10-5) -/

/-- Latency group of a vector opcode: occupancy factor, extra latency under 0x0102, extra pad under 0x0101, pad class. -/
def vxTiming (c o : Nat) : Nat × Nat × Nat × Nat :=
  match o with
  | 0x24 => (1, 2, 0, 0)
  | 0x25 => (1, 5, 0, 0)
  | 0x26 => (1, 3, 0, 0)
  | 0x27 => (1, 2, 1, 1)
  | 0x28 => (1, 2, 1, 1)
  | 0x29 => (1, 3, 1, 1)
  | 0x2A => (1, 5, 2, 2)
  | 0x2B => (2, 6, 2, 2)
  | 0x2C => (4, 7, 2, 2)
  | 0x2D => (1, if isDE c then 5 else 6, 2, 2)
  | _ => (1, 1, 0, 0)

/-- Occupancy, latency of stepping B0 without pads, difference of A0, pad index (1-14) and pad class of an engine operation (Tables 2-3 to 2-5); a
vector operation with n = 0 occupies 1 S-cycle (R190). -/
def opTable (s : State) (c : Nat) (d : Desc) (vl : Nat) : Nat × Nat × Nat × Nat × Nat :=
  let pf := !isDE c
  let rows := dP d 31 22
  let rc := rows * chunks c (dP d 63 48)
  let m := dP d 53 44
  let extB := fun i => match operand s c d i with
    | some o => o.bytes
    | none => 0
  match dOpcode d with
  | 0x10 => (m, m + (if pf then 12 else 10) + (if dPb d 37 then 1 else 0), 2, 1, 0)
  | 0x11 => if pf then (32, 34, 2, 1, 1) else (16, 18, 2, 1, 1)
  | 0x14 => if pf then (32, 34, 2, 1, 1) else (16, 18, 2, 1, 1)
  | 0x12 => (1, 1, 0, 1, 3)
  | 0x13 => (m, m + (if dPb d 38 then 5 else 3), 1, 1, 2)
  | 0x30 => (2 * rc, 2 * rc + 10, 2, 3, 0)
  | 0x40 => (2 * rc, 2 * rc + 11, 3, 4, 0)
  | 0x41 => (3 * rc, 3 * rc + 11, 3, 4, 0)
  | 0x50 => (rc, rc + 5, 1, 5, 0)
  | 0x60 => (cdiv (extB 0) 256, cdiv (extB 0) 256 + 4, 1, 6, 0)
  | 0x61 => (cdiv (extB 0) 256, cdiv (extB 0) 256 + 4, 1, 6, 0)
  | 0x70 => (cdiv (extB 3) 512, cdiv (extB 3) 512 + 30, 0, 7, 0)
  | 0x80 => (3 * cdiv (dP d 63 46) 64 + 40, 3 * cdiv (dP d 63 46) 64 + 56, 4, 8, 0)
  | 0x90 => (dP d 63 61 + 9, dP d 63 61 + 13, 0, 9, 0)
  | 0xA0 =>
    let (pm, lx) := copyPath s c d
    let r := min (16 * max 1 (dP d 63 56)) pm
    let n := cdiv (dP d 48 40 * dP d 39 20) r
    (n, n + lx, 0, 10, 1)
  | 0xA1 =>
    let (pm, lx) := copyPath s c d
    let r := min (16 * max 1 (dP d 63 56)) pm
    let n := cdiv (extB 3) r
    (n, n + lx, 0, 10, 1)
  | 0xB0 => (cdiv (extB 0) 64, cdiv (extB 0) 64 + 8, 2, 10, 0)
  | 0xB1 => (1, 1, 0, 10, 1)
  | 0xC0 => (dF d 277 256, dF d 277 256 + 6, 0, 10, 1)
  | 0xC1 => (dF d 213 192, dF d 213 192 + 4, 0, 10, 1)
  | o =>
    let (k, x, pd, cl) := vxTiming c o
    let g := vG c d vl
    (if (if o = 0x23 then vl else vElems c d vl) = 0 ∧ o ≠ 0x20 then 1 else k * g, k * g + x, pd, 2, cl)

/-- Pad of an engine kind and class (Table 2-8). -/
def padOf (s : State) (i cl : Nat) : Nat := bits (fget s.dev.pads 0#32 i).toNat (8 * cl + 7) (8 * cl)

/-- Occupancy and latency of an operation under the active model: an A0 device has the latencies of 0x0101 of its own, a B0 device adds its
pads (R41, R42). -/
def opTiming (s : State) (c : Nat) (d : Desc) (vl : Nat) : Nat × Nat :=
  let (occ, lat, dif, pi, cl) := opTable s c d vl
  (occ, lat + (if s.dev.b0 then padOf s pi cl else dif))

/-- The resource an operation holds: feed 3a, load port 3a+1, drain port 3a+2 of array a, otherwise 12 + engine (R33, R150). -/
def resourceOf (d : Desc) : Nat :=
  let e := dEngine d
  match dOpcode d with
  | 0x10 => 3 * e
  | 0x12 => 3 * e
  | 0x11 => 3 * e + 1
  | 0x14 => 3 * e + 1
  | 0x13 => 3 * e + 2
  | _ => 12 + e

/-! ### Access to operands -/

/-- Reads `n` bytes of an operand from byte `o` on, through its memory. -/
def opRead (s : State) (x : Opnd) (o n : Nat) : List Byte :=
  match x.loc with
  | .spad c => spadRead s c (x.a + o) n
  | .pool cl => poolRead s cl (x.a + o) n
  | .beds => bedRead s (x.a + o) n
  | _ => List.replicate n 0#8

/-- Writes bytes of an operand from byte `o` on; answers the DMA status of R238. `bk` is the bank of a type 0x5 target that was inactive at
the start (R76), `pl` bank and place of the descriptor, which event 0x0309 names (R110). -/
def opWrite (s : State) (x : Opnd) (o : Nat) (bs : List Byte) (bk : Bool) (pl : List Nat := []) : State × Nat :=
  match x.loc with
  | .spad c =>
    if corePresent s c then
      let (s, off) := spadWrite s c (x.a + o) bs
      (s, if off then 1 else 0)
    else (s, 3)
  | .pool cl =>
    let (s, off) := poolWrite s cl (x.a + o) bs
    (s, if off then 1 else 0)
  | .beds => (bedWrite s (x.a + o) bs, 0)
  | .bank c =>
    let k := s.core c
    if !(corePresent s c) ∨ !k.ring then (s, 3)
    else if k.activeB = bk then
      (raiseC (s.mapCore c fun k => { k with refused := sat32 k.refused }) 0x0309 c pl, 2)
    else (bankWriteTo s c (x.a + o) bs false, 0)
  | _ => (s, 0)

/-- The bank of a type 0x5 target that is inactive now (R76). -/
def bankNow (s : State) (x : Opnd) : Bool :=
  match x.loc with
  | .bank c => !(s.core c).activeB
  | _ => false

/-- Writes free bytes over a whole operand: the result of an operation that is undefined (R12; log 2). -/
def opUndef (s : State) (x : Option Opnd) : State :=
  match x with
  | some x =>
    let (bs, s) := takeFree s x.bytes
    (opWrite s x 0 bs (bankNow s x)).1
  | none => s

end Sys2Proof.Machine
end

