-- ==== Sys2Proof/Machine/Flags.lean ====
section
/-! DEFINITION. Counting flags and signals (R84-R89, R301, R302) and the sticky numerical flags at an S-cycle boundary (R132). -/

namespace Sys2Proof.Machine

/-- The value of counting flag `f` of core `c` (R84). -/
def flagVal (s : State) (c f : Nat) : Nat := fget (s.core c).flags 0 f

/-- Whether wait `i` of a descriptor holds: threshold 0, or the flag holds at least the threshold (R70, R85). -/
def waitMet (s : State) (c : Nat) (d : Desc) (i : Nat) : Bool :=
  let w := dWait d i
  w.2 == 0 || decide (w.2 ≤ flagVal s c w.1)

/-- Whether both waits of a descriptor hold (R32, R91). -/
def waitsMet (s : State) (c : Nat) (d : Desc) : Bool := waitMet s c d 0 && waitMet s c d 1

/-- Latency of the flag path from core `a` to core `b` (Table 2-6). -/
def flagPath (a b : Nat) : Nat := if a = b then 0 else if a / 12 = b / 12 then 4 else 9

/-- Issues one signal in S-cycle `at_`, from the sequencer (`eng` 0) or engine `eng - 1` (R86): a target slot 12-15 or a core without a ring
drops it with event 0x0306, which names the bank and place `pl` of its descriptor (R89, R110); a fifth signal to other cores in one S-cycle is dropped with event 0x0902 (R302). -/
def issueOne (s : State) (c eng at_ : Nat) (pl : List Nat) (g : Nat × Nat × Nat × Nat × Nat) : State :=
  let (op, cl, sl, f, v) := g
  let t := 12 * cl + sl
  if op = 0 then s
  else if 12 ≤ sl ∨ !(s.core t).ring then raiseAt s at_ 0x0306 (c / 12 + 64 * eng) ([c, cl, sl, f] ++ pl)
  else if t ≠ c ∧ 4 ≤ fget s.sch.sigSent 0 (192 * at_ + c) then
    raiseAt (s.mapSch fun k => { k with sigDrops := sat32 k.sigDrops }) at_ 0x0902 (0x14 + 64 * eng) [c, t]
  else
    s.mapSch fun k => { k with
      signals := k.signals ++ [{ due := at_ + flagPath c t, core := t, flag := f, op := op, value := v, srcCore := c, srcEng := eng }]
      sigSent := if t ≠ c then fset k.sigSent 0 (192 * at_ + c) (fget k.sigSent 0 (192 * at_ + c) + 1) else k.sigSent }

/-- Issues both signals of the descriptor at bank and place `pl` (R33, R83, R91). -/
def issueSignals (s : State) (c eng at_ : Nat) (pl : List Nat) (d : Desc) : State :=
  issueOne (issueOne s c eng at_ pl (dSig d 0)) c eng at_ pl (dSig d 1)

/-- Source order of a signal: core (cluster, then slot), then sequencer, then engine (R87). -/
def sigKey (g : Signal) : Nat := 32 * g.srcCore + g.srcEng

/-- Inserts a signal in source order. -/
def sigInsert (g : Signal) : List Signal → List Signal
  | [] => [g]
  | h :: r => if sigKey g < sigKey h then g :: h :: r else h :: sigInsert g r

/-- Signals in source order, equal sources in issue order (R87). -/
def sigSort (l : List Signal) : List Signal := l.foldl (fun a g => sigInsert g a) []

/-- Combines the signals that take effect on one flag in one S-cycle: the first SET in source order, then every SUB and ADD (R87). The result
is exact, before the clamp. -/
def flagCombine (v : Nat) (gs : List Signal) : Int :=
  let srt := sigSort gs
  let base : Int := match srt.find? fun g => g.op == 3 with
    | some g => g.value
    | none => v
  srt.foldl (fun a g => if g.op = 1 then a + g.value else if g.op = 2 then a - g.value else a) base

/-- Earliest S-cycle at which a waiting signal of core `c` takes effect. -/
def firstDue (gs : List Signal) : Option Nat := gs.foldl (fun b g => match b with
  | none => some g.due
  | some d => some (min d g.due)) none

/-- Drops the signals from other cores beyond 16 that reach core `c` in one S-cycle, the last in source order first (R302). -/
def dropInbound (s : State) (c due : Nat) : State :=
  let inb := sigSort (s.sch.signals.filter fun g => g.core == c && g.due == due && g.srcCore != c)
  let bad := inb.drop 16
  if bad.isEmpty then s else
  let s := s.mapSch fun k => { k with
    signals := (k.signals.filter fun g => !(g.core == c && g.due == due && g.srcCore != c)) ++ inb.take 16, sigDrops := sat32n k.sigDrops bad.length }
  s.each bad fun s g => raise s 0x0902 (0x14 + 64 * g.srcEng) [g.srcCore, c]

/-- All signals due on flag `f` of core `c` in one S-cycle take effect, with the clamps and events of R88. -/
def flagApply (s : State) (c f due : Nat) : State :=
  let gs := s.sch.signals.filter fun g => g.core == c && g.flag == f && g.due == due
  let x := flagCombine (flagVal s c f) gs
  let v : Nat := if x < 0 then 0 else min x.toNat 65535
  let s := s.mapSch fun k => { k with signals := k.signals.filter fun g => !(g.core == c && g.flag == f && g.due == due) }
  let s := s.mapCore c fun k => { k with flags := fset k.flags 0 f v }
  let s := s.cond (decide (65535 < x)) fun s => raiseC s 0x0303 c [f]
  let s := s.cond (decide (x < 0)) fun s => raiseC s 0x0304 c [f]
  s.cond (decide (2 ≤ (gs.filter fun g => g.op == 3).length)) fun s => raiseC s 0x0305 c [f]

/-- The signals of flag `f` of core `c` whose S-cycle has come take effect, S-cycle by S-cycle (R86, R87). -/
def flagEffect (s : State) (c f : Nat) : Nat → State
  | 0 => s
  | n + 1 =>
    match firstDue (s.sch.signals.filter fun g => g.core == c && g.flag == f && decide (g.due ≤ s.sch.sCycle)) with
    | some d => flagEffect (flagApply (dropInbound s c d) c f d) c f n
    | none => s

/-- Every due signal of the chip takes effect. -/
def flagsDue (s : State) : State :=
  (s.sch.signals.filter fun g => decide (g.due ≤ s.sch.sCycle)).foldl (fun s g => flagEffect s g.core g.flag (s.sch.signals.length)) s

/-- A sequencer or engine write of a scalar register; s0 discards it (R90). -/
def setSreg (s : State) (c r : Nat) (v : BitVec 32) : State :=
  if r = 0 then s else s.mapCore c fun k => { k with sregs := fset k.sregs 0#32 r v }

/-- A read of a scalar register; s0 reads 0 (R90). -/
def Core.sreg (k : Core) (r : Nat) : BitVec 32 := if r = 0 then 0#32 else fget k.sregs 0#32 r

/-- Scalar writes of one S-cycle in the order in which the later one wins: the sequencer's, then the engines' in their order (R90). -/
def sldOrder (l : List SldPend) : List SldPend := (List.range 17).flatMap fun e => l.filter fun p => p.eng == e

/-- The S-cycle boundary of one core: words read by `SLD` and scalar results of engines are written when due (R91, R198), and the sticky bits to
clear are cleared unless set in the S-cycle that ended (R132). DESIGN CHOICE (log 74): the word of an `SLD` stands over a `SLI`, `SALU` or `SLOTMASK`
that executes in its S-cycle d + 5 on the same register, which R90 does not order. -/
def coreBoundary (t : Nat) (k : Core) : Core :=
  let due := sldOrder (k.sldPend.filter fun p => decide (p.atS ≤ t))
  { k with
    sregs := due.foldl (fun m p => if p.rd = 0 then m else fset m 0#32 p.rd p.value) k.sregs
    sldPend := k.sldPend.filter fun p => !decide (p.atS ≤ t)
    sticky := (k.sticky &&& ~~~k.stickyClr) ||| k.stickySet
    stickySet := 0#32
    stickyClr := 0#32 }

end Sys2Proof.Machine
end

