-- ==== Sys2Proof/Machine/Sequencer.lean ====
section
/-! DEFINITION. The descriptor sequencer (R81-R98): presentation, predicates, checks, skipping, sequencer operations and dispatch, and the
meanings of SYNC, SLI, SALU, SLD, SLOTMASK, WEIR, BANKARM and QUEUE_FREE_DISPATCH. -/

namespace Sys2Proof.Machine

/-- Number of a slot state in the sets of Table 3-6. -/
def slotIdx : SlotState → Nat
  | .free => 0
  | .prefill => 1
  | .decode => 2
  | .parked => 3
  | .ending => 4

/-- Whether a slot's state for the current step is in a state set (Table 3-6). -/
def slotIn (s : State) (i set : Nat) : Bool := bit set (slotIdx (s.slot i).state)

/-- Whether a descriptor's predicate is valid (R81). -/
def predValid (d : Desc) : Bool :=
  let m := dPredMode d
  !(decide (6 ≤ m) || ((m == 1 || m == 2 || m == 5) && bit (dPredBit d) 5))

/-- Whether a valid predicate is true (Table 3-6). -/
def predTrue (s : State) (c : Nat) (d : Desc) : Bool :=
  let r := (s.core c).sreg (dPredReg d)
  match dPredMode d with
  | 0 => true
  | 1 => r.getLsbD (dPredBit d)
  | 2 => !r.getLsbD (dPredBit d)
  | 3 => r != 0#32
  | 4 => r == 0#32
  | _ => decide (dSlot d < 128) && slotIn s (dSlot d) (dPredBit d)

/-- What presenting a descriptor leads to (R82). -/
inductive SeqAct where
  | skip
  | skipInvalid
  | skipBound (operand check : Nat)
  | run
deriving DecidableEq, Repr

/-- The checks of a presented descriptor in the order of R82; a held one is not checked again (R97). -/
def seqDecide (s : State) (c : Nat) (d : Desc) : SeqAct :=
  if (s.core c).held then .run
  else if !predValid d then .skipInvalid
  else if !predTrue s c d then .skip
  else if !engineValid c d then .skipInvalid
  else match operandsBad s c d with
    | some (o, k) => .skipBound o k
    | none => .run

/-- Whether the sequencer of core `c` may present in this S-cycle: the compute domain runs, the core has a ring, it has not executed its
`WEIR`, no Weir is in progress, and it has not presented in this S-cycle (R92, R95). -/
def seqReady (s : State) (c : Nat) : Bool :=
  let k := s.core c
  sRun s && k.ring && !k.weirDone && s.sch.weirAt.isNone && decide (k.nextS ≤ s.sch.sCycle)

/-- The descriptor the sequencer of core `c` presents (R66, R95). -/
def seqDesc (s : State) (c : Nat) : Desc := descAt (s.core c).actBank (s.core c).idx

/-- Bank and place of the presented descriptor, as event records name them (R110). -/
def seqPlace (s : State) (c : Nat) : List Nat := [if (s.core c).activeB then 1 else 0, (s.core c).idx]

/-- Moves on to the descriptor at `NEXT`, to be presented from the next S-cycle (R95). -/
def seqNext (s : State) (c : Nat) (d : Desc) : State :=
  s.mapCore c fun k => { k with idx := dNext d, held := false, nextS := s.sch.sCycle + 1 }

/-- Skips a presented descriptor (R83): the skip is counted and its signals are issued in the next S-cycle if `SKIP_SIGNAL` is 1. -/
def seqSkip (s : State) (c : Nat) (d : Desc) : State :=
  let s := s.mapCore c fun k => { k with skips := sat32 k.skips }
  let s := s.cond (dSkipSig d) fun s => issueSignals s c 0 (s.sch.sCycle + 1) (seqPlace s c) d
  seqNext s c d

/-- Holds or stalls: the same descriptor is presented again in the next S-cycle (R91, R97). -/
def seqHold (s : State) (c : Nat) : State := s.mapCore c fun k => { k with held := true, nextS := s.sch.sCycle + 1 }

/-- The step-table index of the present step (R28). -/
def stepIndex (s : State) : Nat :=
  match s.dev.img with
  | some im => if im.steps.length = 0 then 0 else s.sch.stepNo % im.steps.length
  | none => 0

/-- The scalar ALU (R91); none for the reserved functions. -/
def salu (f : Nat) (a b : BitVec 32) : Option (BitVec 32) :=
  let sh := b.toNat % 32
  match f with
  | 0 => some (a + b)
  | 1 => some (a - b)
  | 2 => some (a &&& b)
  | 3 => some (a ||| b)
  | 4 => some (a ^^^ b)
  | 5 => some (a <<< sh)
  | 6 => some (a >>> sh)
  | 7 => some (a.sshiftRight sh)
  | 8 => some (if a.toNat ≤ b.toNat then a else b)
  | 9 => some (if a.toNat ≤ b.toNat then b else a)
  | _ => none

/-- Writes a free value to a scalar register (R12; log 2). -/
def undefSreg (s : State) (c r : Nat) : State :=
  let (v, s) := takeFreeNat s 32
  setSreg s c r (BitVec.ofNat 32 v)

/-- Effect of `SLI` (Table 3-7). -/
def seqSli (s : State) (c : Nat) (d : Desc) : State :=
  if dReserved d || dP d 63 37 != 0 then undefSreg s c (dP d 36 32) else setSreg s c (dP d 36 32) (BitVec.ofNat 32 (dP d 31 0))

/-- Effect of `SALU` (Table 3-7). -/
def seqSalu (s : State) (c : Nat) (d : Desc) : State :=
  let k := s.core c
  let b := if dPb d 47 then BitVec.ofNat 32 (dP d 31 0) else k.sreg (dP d 36 32)
  match salu (dP d 63 60) (k.sreg (dP d 41 37)) b with
  | some v => if dReserved d || dP d 59 48 != 0 then undefSreg s c (dP d 46 42) else setSreg s c (dP d 46 42) v
  | none => undefSreg s c (dP d 46 42)

/-- Effect of `SLD` in S-cycle d: the word is read now and written in S-cycle d + 5, to be read from d + 6 (R91). -/
def seqSld (s : State) (c : Nat) (d : Desc) : State :=
  let pendW := fun (s : State) (v : BitVec 32) =>
    s.mapCore c fun k => { k with sldPend := k.sldPend ++ [{ rd := dP d 36 32, value := v, atS := s.sch.sCycle + 6 }] }
  match operand s c d 0 with
  | none => s
  | some x =>
    if x.ext = 1 ∧ !(dReserved d || dP d 63 37 != 0 || dP d 31 0 != 0) then
      pendW (s.mapCore c fun k => { k with sldRead := (s.sch.sCycle + 1, x.a) }) (BitVec.ofNat 32 (leNat (opRead s x 0 4)))
    else
      let (v, s) := takeFreeNat s 32
      pendW s (BitVec.ofNat 32 v)

/-- Effect of `SLOTMASK` (Table 3-7). -/
def seqSlotmask (s : State) (c : Nat) (d : Desc) : State :=
  let q := dP d 1 0
  if dReserved d || dP d 63 37 != 0 || dP d 31 13 != 0 || dP d 7 2 != 0 then undefSreg s c (dP d 36 32)
  else setSreg s c (dP d 36 32) (BitVec.ofNat 32 (sumN ((List.range 32).map fun j => if slotIn s (32 * q + j) (dP d 12 8) then 2 ^ j else 0)))

/-- Effect of `WEIR` (R92, R93). -/
def seqWeir (s : State) (c : Nat) (d : Desc) : State :=
  let pl := seqPlace s c
  let s := s.mapCore c fun k => { k with weirDone := true, weirNext := dNext d }
  if dP d 15 0 = stepIndex s then s else haltNext (raiseC s 0x0307 c (pl ++ [dP d 15 0])) 0x0307

/-- Effect of `BANKARM` (R106). -/
def seqBankarm (s : State) (c : Nat) : State := s.mapCore c fun k => { k with armed := true }

/-- Effect of an executed sequencer operation. -/
def seqEffect (s : State) (c : Nat) (d : Desc) : State :=
  match dOpcode d with
  | 0x01 => seqSli s c d
  | 0x02 => seqSalu s c d
  | 0x03 => seqSld s c d
  | 0x04 => seqSlotmask s c d
  | 0x05 => seqWeir s c d
  | 0x06 => seqBankarm s c
  | _ => s

/-- Executes a sequencer operation once its waits are met, with its signals issued in S-cycle d + 1; holds the sequencer until then (R91). -/
def seqExec (s : State) (c : Nat) (d : Desc) : State :=
  if waitsMet s c d then seqNext (issueSignals (seqEffect s c d) c 0 (s.sch.sCycle + 1) (seqPlace s c) d) c d else seqHold s c

/-- Descriptors an engine queue held at the start of the present S-cycle: those in it and one that has started in this S-cycle (R96, R97). -/
def queueHeld (s : State) (c e : Nat) : Nat :=
  (fget (s.core c).queues [] e).length + if fget (s.core c).lastS 0 e = s.sch.sCycle + 1 then 1 else 0

/-- Dispatches an engine descriptor to its queue, or stalls on a full one (R96, R97). -/
def seqDispatch (s : State) (c : Nat) (d : Desc) : State :=
  let k := s.core c
  let q := fget k.queues [] (dEngine d)
  if 16 ≤ queueHeld s c (dEngine d) then seqHold (s.mapCore c fun k => { k with stalls := sat32 k.stalls }) c
  else
    let it : QItem := { desc := d, place := k.idx, bankB := k.activeB, dispS := s.sch.sCycle }
    seqNext (s.mapCore c fun k => { k with queues := fset k.queues [] (dEngine d) (q ++ [it]) }) c d

/-- One S-cycle of the sequencer of core `c` on the descriptor it presents (the pseudo-code of chapter 3). -/
def seqTurn (s : State) (c : Nat) : State :=
  let d := seqDesc s c
  match seqDecide s c d with
  | .skip => seqSkip s c d
  | .skipInvalid => seqSkip (raiseC s 0x0302 c (seqPlace s c)) c d
  | .skipBound o k =>
    let s := s.mapCore c fun x => { x with bounds := sat32 x.bounds }
    seqSkip (haltNext (raiseC s 0x0301 c (seqPlace s c ++ [o, k])) 0x0301) c d
  | .run => if dClass d = 0 then seqExec s c d else seqDispatch s c d

/-- A turn of the sequencer when the presented descriptor is a sequencer operation of opcode `o`; otherwise nothing (log 4). -/
def seqOp (s : State) (c o : Nat) : State := if seqReady s c && dOpcode (seqDesc s c) == o then seqTurn s c else s

/-- SYNC (R91): a turn of the sequencer on a presented `SYNC`, or on a descriptor that is skipped (R83). -/
def execSync (c : CoreId) (s : State) : Host.Outcome State Fault Refusal :=
  .next (if seqReady s c.val && (dOpcode (seqDesc s c.val) == 0 || seqDecide s c.val (seqDesc s c.val) != .run) then seqTurn s c.val else s)

/-- SLI (R91). -/
def execSli (c : CoreId) (s : State) : Host.Outcome State Fault Refusal := .next (seqOp s c.val 0x01)

/-- SALU (R91). -/
def execSalu (c : CoreId) (s : State) : Host.Outcome State Fault Refusal := .next (seqOp s c.val 0x02)

/-- SLD (R91). -/
def execSld (c : CoreId) (s : State) : Host.Outcome State Fault Refusal := .next (seqOp s c.val 0x03)

/-- SLOTMASK (R91). -/
def execSlotmask (c : CoreId) (s : State) : Host.Outcome State Fault Refusal := .next (seqOp s c.val 0x04)

/-- WEIR (R92). -/
def execWeir (c : CoreId) (s : State) : Host.Outcome State Fault Refusal := .next (seqOp s c.val 0x05)

/-- BANKARM (R106). -/
def execBankarm (c : CoreId) (s : State) : Host.Outcome State Fault Refusal := .next (seqOp s c.val 0x06)

/-- QUEUE_FREE_DISPATCH (R97): the sequencer dispatches the engine descriptor it presents or holds, or stalls while the queue is full
(log 18). -/
def execQueueFreeDispatch (c : CoreId) (s : State) : Host.Outcome State Fault Refusal :=
  .next (if seqReady s c.val && dClass (seqDesc s c.val) != 0 then seqTurn s c.val else s)

end Sys2Proof.Machine
end

