-- ==== Sys2Proof/Machine/Engine.lean ====
section
/-! DEFINITION. Start and completion of engine operations (R32, R33, R96, R98, R150), the operations in progress, and the meanings of
ENGINE_START, OPERATION_COMPLETE and FLAG_SIGNAL_EFFECT. -/

namespace Sys2Proof.Machine

/-- The head of an engine queue. -/
def qHead (s : State) (c e : Nat) : Option QItem := (fget (s.core c).queues [] e).head?

/-- Whether the head of a queue starts in this S-cycle: two S-cycles after its dispatch, resource free, one start per S-cycle and queue,
waits met (R32, R96, R150). -/
def startOk (s : State) (c e : Nat) (it : QItem) : Bool :=
  let k := s.core c
  decide (it.dispS + 2 ≤ s.sch.sCycle) && decide (fget k.lastS 0 e ≤ s.sch.sCycle) &&
  decide (fget k.busy 0 (resourceOf it.desc) ≤ s.sch.sCycle) && waitsMet s c it.desc

/-- Starts the head of a queue: it leaves the queue, holds its resource for its occupancy, and reads its scalars and `vl` (R33, R90, R96). -/
def engStart (s : State) (c e : Nat) : State :=
  match qHead s c e with
  | none => s
  | some it =>
    if sRun s && startOk s c e it then
      let k := s.core c
      let (occ, lat) := opTiming s c it.desc k.vl
      let t := s.sch.sCycle
      let r : RunOp := { eng := e, item := it, startS := t, occ := occ, lat := lat, sregs := (List.range 32).map k.sreg, vl := k.vl }
      s.mapCore c fun k => { k with
        queues := fset k.queues [] e ((fget k.queues [] e).drop 1)
        busy := fset k.busy 0 (resourceOf it.desc) (t + occ)
        lastS := fset k.lastS 0 e (t + 1)
        run := k.run ++ [r] }
    else s

/-- Changes the first operation in progress that satisfies `p`. -/
def mapFirst {α : Type} (p : α → Bool) (f : α → α) : List α → List α
  | [] => []
  | x :: r => if p x then f x :: r else x :: mapFirst p f r

/-- Removes the first element that satisfies `p`. -/
def dropFirst {α : Type} (p : α → Bool) : List α → List α
  | [] => []
  | x :: r => if p x then r else x :: dropFirst p r

/-- The oldest operation of opcode `o` of engine `e` in progress no part of whose effect has been performed (log 5). -/
def opOf (s : State) (c e o : Nat) : Option RunOp :=
  (s.core c).run.find? fun r => r.eng == e && dOpcode r.item.desc == o && !r.done && r.ticks == 0

/-- Marks that operation's effect as performed, with its DMA status (R238). -/
def opDoneSt (s : State) (c e o st : Nat) : State :=
  let p := fun (r : RunOp) => r.eng == e && dOpcode r.item.desc == o && !r.done && r.ticks == 0
  let g := fun (r : RunOp) => { r with done := true, status := max r.status st }
  s.mapCore c fun k => { k with run := mapFirst p g k.run }

/-- Marks that operation's effect as performed. -/
def opDone (s : State) (c e o : Nat) : State := opDoneSt s c e o 0

/-- Performs the effect of the oldest operation of opcode `o` of engine `e`, if the compute domain runs and one has started (log 5). -/
def withOp (s : State) (c e o : Nat) (f : RunOp → State → State) : State :=
  match opOf s c e o with
  | none => s
  | some r => if sRun s then opDone (f r s) c e o else s

/-- Bank and place of an operation's descriptor, as event records name them (R110, R183, R214, R250). -/
def opPlace (r : RunOp) : List Nat := [if r.item.bankB then 1 else 0, r.item.place]

/-- Whether two entries of the operations in progress are the same operation: an engine starts at most one in an S-cycle (R96). -/
def sameOp (r x : RunOp) : Bool := x.eng == r.eng && x.startS == r.startS

/-- Whether an operation's event has been raised (R117). -/
def opTold (s : State) (c : Nat) (r : RunOp) : Bool := (s.core c).run.any fun x => sameOp r x && x.told

/-- Changes the entry of an operation in progress. -/
def setOp (s : State) (c : Nat) (r : RunOp) (f : RunOp → RunOp) : State := s.mapCore c fun k => { k with run := mapFirst (sameOp r) f k.run }

/-- An operation's scalar `i` as read in its start S-cycle (R90). -/
def RunOp.sreg (r : RunOp) (i : Nat) : BitVec 32 := if i = 0 then 0#32 else r.sregs.getD i 0#32

/-- A scalar result of an engine, written in S-cycle t + λ − 1 (R198, R238). -/
def engSreg (s : State) (c : Nat) (r : RunOp) (rd : Nat) (v : BitVec 32) : State :=
  s.mapCore c fun k => { k with sldPend := k.sldPend ++ [{ rd := rd, value := v, atS := r.startS + r.lat, eng := 1 + r.eng }] }

/-- A seal of the inactive bank of core `c` (R105), or event 0x030A, which names the bank and place `pl` of the descriptor that asked for it (R110). -/
def sealBank (s : State) (c : Nat) (pl : List Nat) : State × Bool :=
  let k := s.core c
  if k.inact ≠ .empty ∧ bankSealOk s c k.inBank then (s.mapCore c fun k => { k with inact := .valid }, true)
  else (raiseC s 0x030A c pl, false)

/-- What completing an operation does beyond its signals: the status register, the status event and the seal of a copy (R105, R238). -/
def opFinish (s : State) (c : Nat) (r : RunOp) : State :=
  let d := r.item.desc
  if dClass d = 0xA then
    let s := s.cond (dPb d 54) fun s => setSreg s c (dP d 53 49) (BitVec.ofNat 32 r.status)
    let s := s.cond (r.status != 0) fun s => raiseAt s (r.startS + r.lat - 1) 0x0704 (c / 12 + 64 * (1 + r.eng)) (c :: (opPlace r ++ [r.status]))
    if dOpcode d = 0xA0 ∧ dPb d 55 then
      match operand s c d 3 with
      | some ⟨_, .bank k, _, _, _⟩ => (sealBank s k (opPlace r)).1
      | _ => s
    else s
  else s

/-- Whether an operation's latency has ended with its results written (R33); a receive also needs its packets (R37). -/
def opEnded (s : State) (e : Nat) (r : RunOp) : Bool :=
  r.eng == e && r.done && decide (r.startS + r.lat ≤ s.sch.sCycle) && (dOpcode r.item.desc != 0xB1 || r.recvOk)

/-- Completes the oldest ended operation of an engine: its signals take their path from S-cycle t + λ (R33, R86). -/
def engComplete (s : State) (c e : Nat) : State :=
  match (s.core c).run.find? (opEnded s e) with
  | none => s
  | some r =>
    if sRun s then
      let s := s.mapCore c fun k => { k with run := dropFirst (opEnded s e) k.run }
      issueSignals (opFinish s c r) c (1 + e) (max (r.startS + r.lat) (if dOpcode r.item.desc = 0xB1 then s.sch.sCycle else 0)) (opPlace r) r.item.desc
    else s

/-- ENGINE_START (R32). -/
def execEngineStart (c : CoreId) (e : Fin 16) (s : State) : Host.Outcome State Fault Refusal := .next (engStart s c.val e.val)

/-- OPERATION_COMPLETE (R33). -/
def execOperationComplete (c : CoreId) (e : Fin 16) (s : State) : Host.Outcome State Fault Refusal := .next (engComplete s c.val e.val)

/-- FLAG_SIGNAL_EFFECT (R87): every signal on the flag whose S-cycle has come takes effect. -/
def execFlagSignalEffect (c : CoreId) (f : Fin 64) (s : State) : Host.Outcome State Fault Refusal :=
  .next (flagEffect s c.val f.val s.sch.signals.length)

end Sys2Proof.Machine
end

