-- ==== Sys2Proof/Machine/Matrix.lean ====
section
/-! DEFINITION. Matrix arrays and the Sounding sentinel (chapter 5, R134-R139): the meanings of STREAM, STLOAD, SWAP, DRAIN, SNDLOAD and
SOUNDING_EVALUATE. -/

namespace Sys2Proof.Machine

/-- K of a tile of a format in core `c` (Table 5-1). -/
def tileK (c f : Nat) : Nat :=
  let k8 := if isDE c then 64 else 128
  if widthClass f = 4 then 2 * k8 else if widthClass f = 2 then 4 * k8 else k8

/-- K₈ of a core (R168). -/
def k8 (c : Nat) : Nat := if isDE c then 64 else 128

/-- Bytes of the element plane of a stationary tile (R145). -/
def planeBytes (c f : Nat) : Nat := tileK c f * 64 * fmtBits f / 8

/-- Blocks of a stationary tile: 64 columns of K / 32 (R146). -/
def tileBlocks (c f : Nat) : Nat := 64 * (tileK c f / 32)

/-- Whether FTZ is on in a core (Table 4-9). -/
def ftzOf (s : State) (c : Nat) : Bool := (s.core c).numctl.getLsbD 0

/-- Reads the first `n` bytes of an operand; none when it is absent or shorter (R79). -/
def opBytes (s : State) (x : Option Opnd) (n : Nat) : Option (List Byte) :=
  if n = 0 then some [] else
  match x with
  | some x => if n ≤ x.bytes then some (opRead s x 0 n) else none
  | none => none

/-! ### Outlier lists (R121, R122) -/

/-- State of the screening: entries kept (newest first), last key taken, entries taken of the last block, whether one was ignored. -/
structure Screen where
  kept : List (BitVec 32)
  last : Option Nat
  inBlock : Nat
  bad : Bool
deriving DecidableEq, Repr

/-- Screens one entry (R122). -/
def screenOne (blocks : Nat) (a : Screen) (w : BitVec 32) : Screen :=
  let e := w.toNat
  let b := bits e 18 0
  let key := 32 * b + bits e 23 19
  let n := match a.last with
    | some l => if l / 32 = b then a.inBlock else 0
    | none => 0
  let after := match a.last with
    | some l => decide (l < key)
    | none => true
  if after && decide (n < 2) && decide (b < blocks) && !fIsNan (decF fE4M3 (bits e 31 24)) then ⟨w :: a.kept, some key, n + 1, a.bad⟩
  else { a with bad := true }

/-- The entries of a list that take effect, and whether one was ignored (R122). -/
def screenOutliers (blocks : Nat) (ws : List (BitVec 32)) : List (BitVec 32) × Bool :=
  let a := ws.foldl (screenOne blocks) ⟨[], none, 0, false⟩
  (a.kept.reverse, a.bad)

/-- Words of an operand. -/
def opWords (s : State) (x : Option Opnd) : List (BitVec 32) :=
  match x with
  | some x => (List.range (x.bytes / 4)).map fun i => BitVec.ofNat 32 (leNat (opRead s x (4 * i) 4))
  | none => []

/-- Reports ignored outlier entries: sticky OUTL, and event 0x0401 once for the descriptor (R122, R133). -/
def outlierReport (s : State) (c : Nat) (r : RunOp) (bad : Bool) : State :=
  if bad then raiseE (setSticky s c flOUTL) 0x0401 c r.eng (opPlace r) else s

/-! ### STLOAD, SNDLOAD, SWAP -/

/-- A byte string as a memory from address 0. -/
def memOf (bs : List Byte) : Mem := mwrite [] 0 bs

/-- A tile of free elements: an undefined tile (R12, R155, R579; log 2). DESIGN CHOICE (log 74): the spec does not say which format code such a tile
keeps, which fixes its K and its accumulator type; the model gives it INT8, without scales and outliers. -/
def undefTile (s : State) (c ready : Nat) : Tile × State :=
  let n := planeBytes c 5
  let (bs, s) := takeFree s n
  ({ fmt := 5, elems := memOf bs, scales := [], outl := [], loaded := true, readyAt := ready }, s)

/-- The tile that a load brings: element plane, scale plane of a block format, screened outlier list of a ZB4 tile; none when an operand is
too short (R79) or the format has no width class. -/
def loadTile (s : State) (c : Nat) (f : Nat) (d : Desc) (ready : Nat) : Option (Tile × Bool) :=
  if widthClass f = 0 then none else
  match opBytes s (operand s c d 0) (planeBytes c f), opBytes s (operand s c d 1) (if fmtBlock f then tileBlocks c f else 0) with
  | some e, some sc =>
    let (ol, bad) := if f = 0x10 then screenOutliers (tileBlocks c f) (opWords s (operand s c d 2)) else ([], false)
    some ({ fmt := f, elems := memOf e, scales := memOf sc, outl := ol, loaded := true, readyAt := ready }, bad)
  | _, _ => none

/-- Whether a `STLOAD` has an undefined result (R12, R79, R579). -/
def stloadBad (s : State) (c : Nat) (r : RunOp) : Bool :=
  let d := r.item.desc
  dReserved d || dP d 58 0 != 0 || (loadTile s c (dP d 63 59) d 0).isNone

/-- The start of a `STLOAD`: event 0x0507 for a format without a width class (R579). -/
def stloadBegin (c a : Nat) (r : RunOp) (s : State) : State :=
  s.cond (widthClass (dP r.item.desc 63 59) == 0) fun s => raiseE s 0x0507 c a ([a] ++ opPlace r)

/-- The shadow buffer takes what a `STLOAD` has read in `src` (R148, R579); `bad`: an undefined tile. -/
def stloadPut (src : State) (bad : Bool) (c a : Nat) (r : RunOp) (s : State) : State :=
  let ready := r.startS + r.lat
  match (if bad then none else loadTile src c (dP r.item.desc 63 59) r.item.desc ready) with
  | some (t, bad) => outlierReport (s.mapArr c a fun x => { x with shadow := t }) c r bad
  | none =>
    let (t, s) := undefTile s c ready
    s.mapArr c a fun x => { x with shadow := t }

/-- STLOAD into the shadow buffer (R148, R579). -/
def stloadOp (c a : Nat) (r : RunOp) (s : State) : State := stloadPut s (stloadBad s c r) c a r (stloadBegin c a r s)

/-- Counts a missed sample with event 0x0504 (R171, R175). -/
def sndMissed (s : State) (c a : Nat) : State :=
  raiseE (s.mapArr c a fun x => { x with snd := { x.snd with missed := sat32 x.snd.missed } }) 0x0504 c a [a]

/-- A width-class-8 tile of K₈ × 64 elements (R172). -/
def loadPlane (s : State) (c f : Nat) (d : Desc) (ready : Nat) : Option Tile :=
  if widthClass f ≠ 8 then none else
  match opBytes s (operand s c d 0) (planeBytes c f), opBytes s (operand s c d 1) (if fmtBlock f then tileBlocks c f else 0) with
  | some e, some sc => some { fmt := f, elems := memOf e, scales := memOf sc, outl := [], loaded := true, readyAt := ready }
  | _, _ => none

/-- Whether a `SNDLOAD` has an undefined result (R12, R79, R172). -/
def sndloadBad (s : State) (c : Nat) (r : RunOp) : Bool :=
  let d := r.item.desc
  dReserved d || dP d 57 0 != 0 || (loadPlane s c (dP d 63 59) d 0).isNone

/-- The start of a `SNDLOAD`: a pending sample is discarded (R175). -/
def sndloadBegin (c a : Nat) (s : State) : State :=
  s.cond ((s.core c).arr a).capture.isSome fun s => sndMissed (s.mapArr c a fun x => { x with capture := none }) c a

/-- A sentinel plane takes what a `SNDLOAD` has read in `src` (R172); `bad`: an undefined plane. -/
def sndloadPut (src : State) (bad : Bool) (c a : Nat) (r : RunOp) (s : State) : State :=
  let d := r.item.desc
  let ready := r.startS + r.lat
  let (t, s) := match (if bad then none else loadPlane src c (dP d 63 59) d ready) with
    | some t => (t, s)
    | none => undefTile s c ready
  s.mapArr c a fun x => if dPb d 58 then { x with plane1 := t } else { x with plane0 := t, plane1 := { x.plane1 with loaded := false } }

/-- SNDLOAD into a sentinel plane (R172, R175). -/
def sndloadOp (c a : Nat) (r : RunOp) (s : State) : State := sndloadPut s (sndloadBad s c r) c a r (sndloadBegin c a s)

/-- Whether a stationary load of array `a` has not signalled yet in S-cycle `t` (R155). -/
def loadComing (s : State) (c a t : Nat) : Bool :=
  decide (t < ((s.core c).arr a).shadow.readyAt) ||
  (s.core c).run.any fun r => r.eng == a && dOpcode r.item.desc == 0x11 && decide (t < r.startS + r.lat)

/-- SWAP (R154); one that starts before the last load signals leaves the tile undefined (R155), and so does one with a reserved field of 1 (R14). -/
def swapOp (c a : Nat) (r : RunOp) (s : State) : State :=
  let d := r.item.desc
  if loadComing s c a r.startS ∨ dReserved d ∨ dP d 63 0 ≠ 0 then
    let (t, s) := undefTile s c 0
    s.mapArr c a fun x => { x with active := t, shadow := x.active }
  else s.mapArr c a fun x => { x with active := x.shadow, shadow := x.active }

/-! ### Streams (R134-R137, R152-R166) -/

/-- Integer formats whose streams accumulate in INT32 (R135). -/
def accIntFmt (f : Nat) : Bool := decide (5 ≤ f ∧ f ≤ 8)

/-- Whether a stream accumulates in INT32 (R135). -/
def streamInt (sf tf : Nat) : Bool := accIntFmt sf && accIntFmt tf

/-- Scale value of block `g` of a plane; 1 for a format without block scales (R136). -/
def scaleVal (f : Nat) (scales : Mem) (g : Nat) : XNum := if fmtBlock f then xnumOf (decScale f (mget scales g).toNat) else .fin 1 0

/-- A streamed row: its element codes and its block scale codes. -/
structure SRow where
  codes : List Nat
  scales : List Nat
deriving DecidableEq, Repr

/-- Row `r` of a streamed operand for tile depth `k` (R147). -/
def streamRow (s : State) (d : Desc) (c f k r : Nat) : SRow :=
  let w := k * fmtBits f / 8
  let el := match operand s c d 0 with
    | some x => opRead s x (r * w) w
    | none => []
  let sc := if fmtBlock f then (match operand s c d 1 with
    | some x => opRead s x (r * (k / 32)) (k / 32)
    | none => []) else []
  ⟨(List.range k).map fun i => elemCode (byteAt el) f i, sc.map (·.toNat)⟩

/-- Value of the streamed scale of group `g`. -/
def rowScale (f : Nat) (x : SRow) (g : Nat) : XNum := if fmtBlock f then xnumOf (decScale f (x.scales.getD g 0)) else .fin 1 0

/-- Element values of a tile column's group `g`, before scales (R146). -/
def tileElem (t : Tile) (k n i : Nat) : FVal := decElem t.fmt (elemCode (fun a => mget t.elems a) t.fmt (n * k + i))

/-- The exact sum of one group, scales applied (R136), and whether an invalid product arose without a NaN input. -/
def groupSum (f : Nat) (x : SRow) (t : Tile) (k n g : Nat) : XNum × Bool :=
  let sr := rowScale f x g
  let sw := scaleVal t.fmt t.scales (n * (k / 32) + g)
  let ps := (List.range 32).map fun i => (decElem f (x.codes.getD (32 * g + i) 0), tileElem t k n (32 * g + i))
  let p := ps.foldl (fun a q => xadd a (xmul (xnumOf q.1) (xnumOf q.2))) xzero
  let v := xmul (xmul p sr) sw
  let nanIn := xIsNan sr || xIsNan sw || ps.any fun q => fIsNan q.1 || fIsNan q.2
  (v, xIsNan v && !nanIn)

/-- Integer value of an exact number. -/
def xint : XNum → Int
  | .fin m e => if 0 ≤ e then m * 2 ^ e.toNat else m / 2 ^ (-e).toNat
  | _ => 0

/-- One output element of a stream: the groups `0` to `n - 1` accumulated in order onto `acc` (R136, R137; INT32 under R131). -/
def accumElem (isInt near wrap ftz : Bool) (f : Nat) (x : SRow) (t : Tile) (k col groups acc : Nat) : NR :=
  (List.range groups).foldl (fun a g =>
    let (p, inv) := groupSum f x t k col g
    let r := if isInt then intWrap 4 wrap (sext 32 a.v + xint p) else accumF near ftz a.v p
    ⟨r.v, a.fl ||| r.fl ||| (if inv then flINV else flNone)⟩) ⟨acc, flNone⟩

/-- Whether a group of a valid row uses a scale of 0xFF (R161). -/
def rowSnan (f : Nat) (x : SRow) (t : Tile) (k : Nat) : Bool :=
  (fmtBlock f && f != 0x10 && x.scales.any fun v => v == 255) ||
  (fmtBlock t.fmt && t.fmt != 0x10 && (List.range (64 * (k / 32))).any fun b => mget t.scales b == 255#8)

/-- The outlier product of one entry for a streamed row: column and exact product (R139, R165). -/
def outlierTerm (f : Nat) (x : SRow) (k : Nat) (w : BitVec 32) : Nat × Nat × XNum :=
  let e := w.toNat
  let b := bits e 18 0
  let g := b % (k / 32)
  (b / (k / 32), g, xmul (xmul (xnumOf (decElem f (x.codes.getD (32 * g + bits e 23 19) 0))) (rowScale f x g)) (xnumOf (decF fE4M3 (bits e 31 24))))

/-- Row `r` valid under the descriptor's mode (Table 5-3, R158). -/
def rowValid (s : State) (c : Nat) (r : RunOp) (i : Nat) : Bool :=
  let d := r.item.desc
  match dP d 36 35 with
  | 0 => true
  | 1 => decide (i < (r.sreg (dP d 34 30)).toNat)
  | _ => match operand s c d 2 with
    | some x => bit (leNat (opRead s x (i / 8) 1)) (i % 8)
    | none => false

/-- Accumulator row values. -/
def accRow (x : MxArray) (row : Nat) : List Nat := (List.range 64).map fun n => (fget x.acc 0#32 (64 * row + n)).toNat

/-- Writes an accumulator row and its tag. -/
def setAccRow (x : MxArray) (row : Nat) (vs : List Nat) (tag : AccTag) : MxArray :=
  { x with
    acc := (List.range 64).foldl (fun m n => fset m 0#32 (64 * row + n) (BitVec.ofNat 32 (vs.getD n 0))) x.acc
    tags := fset x.tags .zero row tag, bad := x.bad.filter fun p => p.1 / 32 != row }

/-- Sets a row's outlier sums to zero. -/
def clearOsum (x : MxArray) (row : Nat) : MxArray := { x with osum := x.osum.filter fun p => p.1 / 64 != row }

/-- Adds a streamed row's outlier products with tile `t` to a row's outlier sums (R165). -/
def addOsum (t : Tile) (x : MxArray) (row f k : Nat) (sr : SRow) : MxArray :=
  { x with osum := t.outl.foldl (fun m w =>
      let (n, _, p) := outlierTerm f sr k w
      fset m xzero (64 * row + n) (xadd (fget m xzero (64 * row + n)) p)) x.osum }

/-- The accumulate tag of a stream (R135, R159). -/
def streamTag (isInt : Bool) : AccTag := if isInt then .int32 else .fp32

/-- 64 free accumulator values. -/
def freeRow (s : State) : List Nat × State :=
  let (bs, s) := takeFree s 256
  ((List.range 64).map fun n => leNat ((bs.drop (4 * n)).take 4), s)

/-- Row `i` of a stream whose result is undefined (R12; log 2). -/
def streamFree (c a : Nat) (r : RunOp) (isInt : Bool) (s : State) (i : Nat) : State :=
  let (vs, s) := freeRow s
  s.mapArr c a fun x => setAccRow x (dP r.item.desc 63 54 + i) vs (streamTag isInt)

/-- Row `i` of a stream, its operands read in `src` and multiplied with tile `t`: accumulation, bubble (R158), or an undefined row whose tag
differs (R159). -/
def streamOne (src : State) (t : Tile) (c a : Nat) (r : RunOp) (s : State) (i : Nat) : State :=
  let d := r.item.desc
  let row := dP d 63 54 + i
  let x := (s.core c).arr a
  let f := dP d 43 39
  let isInt := streamInt f t.fmt
  let k := tileK c t.fmt
  let clear := dPb d 38
  if rowValid src c r i then
    let tag := fget x.tags .zero row
    if !clear ∧ tag ≠ .zero ∧ tag ≠ streamTag isInt then streamFree c a r isInt s i
    else
      let sr := streamRow src d c f k i
      let old := if clear then List.replicate 64 0 else accRow x row
      let rs := (List.range 64).map fun n =>
        accumElem isInt (dPb d 37) (dWrap d) (ftzOf s c) f sr t k n (k / 32) (old.getD n 0)
      let fl := flOr rs ||| (if rowSnan f sr t k then flSNAN else flNone)
      let s := s.mapArr c a fun x => addOsum t (setAccRow (if clear then clearOsum x row else x) row (rs.map (·.v)) (streamTag isInt)) row f k sr
      setSticky s c fl
  else if clear then s.mapArr c a fun x => setAccRow (clearOsum x row) row [] (streamTag isInt)
  else s

/-- Whether a stream reads inside its operands for every valid row (R79). -/
def streamInside (s : State) (c : Nat) (r : RunOp) (k f : Nat) (valid : List Nat) : Bool :=
  let d := r.item.desc
  let fits := fun (i n : Nat) => match operand s c d i with
    | some x => decide (n ≤ x.bytes)
    | none => n == 0
  let top := (valid.getLast?.map (· + 1)).getD 0
  fits 0 (top * (k * fmtBits f / 8)) && fits 1 (if fmtBlock f then top * (k / 32) else 0) &&
  (dP d 36 35 != 2 || fits 2 (cdiv (dP d 53 44) 8))

/-- A sample before its rows are captured (R168, R170); `n` of its stream's valid rows are captured. -/
def captureOf (r : RunOp) (x : MxArray) (n : Nat) : Capture :=
  { sfmt := dP r.item.desc 43 39, startS := r.startS + r.occ, want := n, left := n * (if x.plane1.loaded then 2 else 1) }

/-- The production values of a captured row (R170). DESIGN CHOICE (log 74): `rounded once with RNE` covers the outlier products, whose exact sum is
rounded to FP32 and then added in FP32, as R139 adds them at a drain. -/
def prodRow (t : Tile) (c : Nat) (d : Desc) (ftz : Bool) (sr : SRow) : List (BitVec 32) :=
  let f := dP d 43 39
  let k := tileK c t.fmt
  let isInt := streamInt f t.fmt
  let gs := k8 c / 32
  (List.range 64).map fun n =>
    let p := (accumElem isInt (dPb d 37) (dWrap d) ftz f sr t k n gs 0).v
    let p32 := if isInt then fp32OfInt (sext 32 p) else p
    let q := t.outl.foldl (fun q w =>
      let (col, g, z) := outlierTerm f sr k w
      if col = n ∧ g < gs then xadd q z else q) xzero
    BitVec.ofNat 32 (if t.outl.isEmpty then p32 else (fpAdd fFP32 false p32 (fp32Of q).v).v)

/-- The sample of a stream takes row `i` as it is presented, if the sample is still pending and the row is one of its first c valid rows (R170,
R175). -/
def captureRow (src : State) (t : Tile) (c a : Nat) (r : RunOp) (s : State) (i : Nat) : State :=
  let d := r.item.desc
  match ((s.core c).arr a).capture with
  | none => s
  | some cap =>
    if dPb d 29 ∧ cap.startS = r.startS + r.occ ∧ cap.rows.length < cap.want ∧ rowValid src c r i then
      let sr := streamRow src d c (dP d 43 39) (tileK c t.fmt) i
      let cap := { cap with
        prod := cap.prod ++ prodRow t c d (ftzOf s c) sr
        rows := cap.rows ++ [(sr.codes.take (k8 c)).map fun v => BitVec.ofNat 8 v]
        scales := cap.scales ++ [(sr.scales.take (k8 c / 32)).map fun v => BitVec.ofNat 8 v] }
      s.mapArr c a fun x => { x with capture := some cap }
    else s

/-- A sample of a stream whose result is undefined: free production values and free rows (R12; log 2, log 74). -/
def captureFree (c a : Nat) (r : RunOp) (s : State) (n : Nat) : State :=
  let f := dP r.item.desc 43 39
  let (ps, s) := takeFree s (256 * n)
  let (rs, s) := takeFree s (k8 c * n)
  s.mapArr c a fun x => { x with capture := some { captureOf r x n with
    prod := (List.range (64 * n)).map fun i => BitVec.ofNat 32 (leNat ((ps.drop (4 * i)).take 4))
    rows := (List.range n).map fun i => (rs.drop (k8 c * i)).take (k8 c)
    sfmt := if widthClass f = 8 ∧ !fmtBlock f then f else 5 } }

/-- Sounding's part of a marked stream in its start S-cycle: the count of R169, the sample of R170, a miss of R171 or R175. DESIGN CHOICE (log 74): a
sample without a loaded plane 0 counts as missed here, and nothing of it is captured. -/
def sampleStream (s : State) (c a : Nat) (r : RunOp) (bad : Bool) (valid : List Nat) : State :=
  let x := (s.core c).arr a
  if !dPb r.item.desc 29 ∨ valid.isEmpty then s else
  let n := x.snd.streams
  let s := s.mapArr c a fun x => { x with snd := { x.snd with streams := n + 1 } }
  if s.sch.sndOn ∧ n % s.sch.sndThin = 0 then
    let m := min valid.length s.sch.sndRows
    if x.capture.isSome ∨ !x.plane0.loaded then sndMissed s c a
    else if bad then captureFree c a r s m
    else s.mapArr c a fun x => { x with capture := some (captureOf r x m) }
  else s

/-- Whether a `STREAM` names rows beyond the store, or no format of width class 8 (R160). -/
def streamRowsBad (d : Desc) : Bool := decide (1024 < dP d 63 54 + dP d 53 44)
def streamFmtBad (d : Desc) : Bool := widthClass (dP d 43 39) != 8

/-- The rows of a stream that are valid (R158). -/
def streamValid (s : State) (c : Nat) (r : RunOp) : List Nat := indices (dP r.item.desc 53 44) (rowValid s c r)

/-- Whether a `STREAM` has an undefined result (R12, R79, R156, R160). -/
def streamBad (s : State) (c a : Nat) (r : RunOp) : Bool :=
  let d := r.item.desc
  streamRowsBad d || streamFmtBad d || decide (512 < dP d 53 44) || dP d 36 35 == 3 || dP d 28 0 != 0 || dReserved d ||
  !streamInside s c r (tileK c ((s.core c).arr a).active.fmt) (dP d 43 39) (streamValid s c r)

/-- The start of a `STREAM`: its events and its sample. DESIGN CHOICE (log 74): a descriptor with both faults of R160 raises both events once. -/
def streamBegin (c a : Nat) (r : RunOp) (s : State) : State :=
  let d := r.item.desc
  if dP d 53 44 = 0 then s else
  let bad := streamBad s c a r
  let valid := streamValid s c r
  let s := s.cond (streamRowsBad d) fun s => raiseE s 0x0506 c a ([a] ++ opPlace r)
  let s := s.cond (streamFmtBad d) fun s => raiseE s 0x0507 c a ([a] ++ opPlace r)
  sampleStream s c a r bad valid

/-- STREAM (R156-R161): every row is presented and written. -/
def streamOp (c a : Nat) (r : RunOp) (s : State) : State :=
  let d := r.item.desc
  let t := ((s.core c).arr a).active
  let m := dP d 53 44
  if streamBad s c a r then
    (streamBegin c a r s).each (List.range (min m (1024 - dP d 63 54))) (streamFree c a r (streamInt (dP d 43 39) t.fmt))
  else (streamBegin c a r s).each (List.range m) fun z i => streamOne s t c a r (captureRow s t c a r z i) i

/-! ### Drains (R139, R162-R166) -/

/-- One drained element (R139). -/
def drainElem (ftz wrap outl : Bool) (df factor v : Nat) (tag : AccTag) (q : XNum) : NR :=
  let one := 0x3F800000
  match tag with
  | .int32 =>
    if !outl ∧ factor = one then cvtElem 4 df wrap ftz v
    else
      let m := fpMul fFP32 ftz (fp32OfInt (sext 32 v)) factor
      let r := cvtElem 0 df wrap ftz m.v
      ⟨r.v, m.fl ||| r.fl⟩
  | _ =>
    let q32 := roundOsum ftz q
    let a := if outl then fpAdd fFP32 ftz v q32.v else ⟨v, flNone⟩
    let m := fpMul fFP32 ftz a.v factor
    let r := cvtElem 0 df wrap ftz m.v
    ⟨r.v, (if outl then q32.fl ||| a.fl else flNone) ||| m.fl ||| r.fl⟩

/-- Destination formats of a drain (Table 5-4). -/
def drainFmt (f : Nat) : Bool := decide (f ≤ 5)

/-- Bytes of one output row of a drain (R163). -/
def drainBytes (d : Desc) : Nat := 64 * fmtBits (dP d 43 39) / 8

/-- Whether a `DRAIN` has an undefined result (R12, R79, R160, R162). -/
def drainBad (s : State) (c : Nat) (r : RunOp) : Bool :=
  let d := r.item.desc
  let fits := match operand s c d 3 with
    | some x => decide (dP d 53 44 * drainBytes d ≤ x.bytes)
    | none => false
  streamRowsBad d || !drainFmt (dP d 43 39) || decide (512 < dP d 53 44) || dP d 36 32 != 0 || dReserved d || !fits

/-- The start of a `DRAIN`: its events (R160). -/
def drainBegin (c a : Nat) (r : RunOp) (s : State) : State :=
  let d := r.item.desc
  if dP d 53 44 = 0 then s else
  let s := s.cond (streamRowsBad d) fun s => raiseE s 0x0506 c a ([a] ++ opPlace r)
  s.cond (!drainFmt (dP d 43 39)) fun s => raiseE s 0x0507 c a ([a] ++ opPlace r)

/-- Output row `i` of a drain from the accumulators of `x`, with its sticky flags (R139, R161, R163). -/
def drainOne (x : MxArray) (c : Nat) (r : RunOp) (s : State) (i : Nat) : State :=
  let d := r.item.desc
  let row := dP d 63 54 + i
  let rs := (List.range 64).map fun n =>
    drainElem (ftzOf s c) (dWrap d) (dPb d 38) (dP d 43 39) (dP d 31 0) (fget x.acc 0#32 (64 * row + n)).toNat (fget x.tags .zero row)
      (fget x.osum xzero (64 * row + n))
  match operand s c d 3 with
  | some o => (opWrite (setSticky s c (flOr rs)) o (i * drainBytes d) (packElems (dP d 43 39) (rs.map (·.v))) false).1
  | none => s

/-- A row that is set to 0 after it has been read (R162, R211). -/
def zeroRow (c a : Nat) (s : State) (row : Nat) : State := s.mapArr c a fun x => setAccRow (clearOsum x row) row [] .zero

/-- Rows that a `DRAIN` sets to 0 (R162). -/
def drainZero (c a : Nat) (d : Desc) (s : State) (i : Nat) : State :=
  s.cond (dPb d 37 && decide (i < dP d 53 44 ∧ dP d 63 54 + i < 1024)) fun s => zeroRow c a s (dP d 63 54 + i)

/-- DRAIN (R162, R163): every row is read, written, and set to 0 where it asks for it. -/
def drainOp (c a : Nat) (r : RunOp) (s : State) : State :=
  let d := r.item.desc
  let m := dP d 53 44
  let x := (s.core c).arr a
  if m = 0 then s else
  let s := if drainBad s c r then opUndef (drainBegin c a r s) (operand s c d 3)
    else (drainBegin c a r s).each (List.range m) (drainOne x c r)
  s.each (List.range m) (drainZero c a d)

/-! ### Evaluation of a sample (R173, R178) -/

/-- FP32 absolute value. -/
def fabs32 (v : Nat) : Nat := v % 2 ^ 31

/-- The reference of one captured row and column (R173): each pass from zero, in INT32 for integer formats (R135) and then converted by rule F, and
the sum of the two rounded to FP32 with RNE. DESIGN CHOICE (log 74): the core's `NUMCTL` as it stands at the evaluation decides on FTZ in the passes,
which R173 does not say. -/
def refValue (s : State) (c : Nat) (x : MxArray) (cap : Capture) (i n : Nat) : Nat :=
  let sr : SRow := ⟨(cap.rows.getD i []).map (·.toNat), (cap.scales.getD i []).map (·.toNat)⟩
  let pass := fun (p : Tile) =>
    let isInt := streamInt cap.sfmt p.fmt
    let v := (accumElem isInt true false (ftzOf s c) cap.sfmt sr p (k8 c) n (k8 c / 32) 0).v
    if isInt then fp32OfInt (sext 32 v) else v
  if x.plane1.loaded then (fpAdd fFP32 false (pass x.plane0) (pass x.plane1)).v else pass x.plane0

/-- Running sums of the evaluation (R178). -/
structure SndAcc where
  d2 : Nat
  r2 : Nat
  d1 : Nat
  a1 : Nat
  bad : Bool
deriving DecidableEq, Repr

/-- One element of the evaluation procedure, each operation FP32 rounded with RNE (R178). -/
def sndStep (z : SndAcc) (p rf : Nat) : SndAcc :=
  let add := fun a b => (fpAdd fFP32 false a b).v
  let mul := fun a b => (fpMul fFP32 false a b).v
  let d := (fpSub fFP32 false p rf).v
  ⟨add z.d2 (mul d d), add z.r2 (mul rf rf), add z.d1 d, add z.a1 (fabs32 rf), z.bad || fpNonfinite p || fpNonfinite rf⟩

/-- The alarms of one evaluated e: events 0x0501 and 0x0502, a halt if the action asks for it (R178, R179). -/
def sndAlarm (s : State) (c a e : Nat) : State :=
  let s := if fpLt fFP32 s.sch.sndAlarm.toNat e then
      let s := s.mapArr c a fun x => { x with snd := { x.snd with alarm := sat32 x.snd.alarm } }
      let s := raiseE s 0x0502 c a [a, e]
      s.cond s.sch.sndHalt fun s => haltNext s 0x0502
    else if fpLt fFP32 s.sch.sndWarn.toNat e then
      raiseE (s.mapArr c a fun x => { x with snd := { x.snd with warn := sat32 x.snd.warn } }) 0x0501 c a [a, e]
    else s
  s

/-- The bias window (R178). -/
def sndWindow (s : State) (c a b : Nat) : State :=
  let s := s.mapArr c a fun x => { x with snd := { x.snd with
    winSum := BitVec.ofNat 32 (fpAdd fFP32 false x.snd.winSum.toNat b).v, winN := x.snd.winN + 1 } }
  let n := ((s.core c).arr a).snd
  if n.winN = s.sch.sndWin then
    let m := (fpDiv fFP32 false n.winSum.toNat (fp32OfInt s.sch.sndWin)).v
    let s := s.mapArr c a fun x => { x with snd := { x.snd with biasWin := BitVec.ofNat 32 m, winSum := 0#32, winN := 0 } }
    if fpLt fFP32 s.sch.sndBias.toNat (fabs32 m) then
      let s := s.mapArr c a fun x => { x with snd := { x.snd with biasAlarm := sat32 x.snd.biasAlarm } }
      let s := raiseE s 0x0503 c a [a, m]
      s.cond s.sch.sndHalt fun s => haltNext s 0x0503
    else s
  else s

/-- Evaluates a sample by the procedure of R178. -/
def sndEvaluate (s : State) (c a : Nat) (cap : Capture) : State :=
  let x := (s.core c).arr a
  let z := (List.range cap.rows.length).foldl (fun z i => (List.range 64).foldl (fun z n =>
    sndStep z (cap.prod.getD (64 * i + n) 0#32).toNat (refValue s c x cap i n)) z) (⟨0, 0, 0, 0, false⟩ : SndAcc)
  let s := s.mapArr c a fun x => { x with capture := none }
  if z.bad ∨ fpNonfinite z.d2 ∨ fpNonfinite z.r2 ∨ fpNonfinite z.d1 ∨ fpNonfinite z.a1 then
    raiseE (s.mapArr c a fun x => { x with snd := { x.snd with nonfinite := sat32 x.snd.nonfinite } }) 0x0505 c a [a]
  else if fabs32 z.r2 = 0 ∧ fabs32 z.d2 ≠ 0 then s.mapArr c a fun x => { x with snd := { x.snd with zeroref := sat32 x.snd.zeroref } }
  else
    let e := if fabs32 z.r2 = 0 then 0 else (fpSqrt fFP32 false (fpDiv fFP32 false z.d2 z.r2).v).v
    let b := if fabs32 z.r2 = 0 then 0 else (fpDiv fFP32 false z.d1 z.a1).v
    let s := s.mapArr c a fun x => { x with snd := { x.snd with
      samples := sat32 x.snd.samples
      ermsSum := BitVec.ofNat 32 (fpAdd fFP32 false x.snd.ermsSum.toNat e).v
      ermsMax := BitVec.ofNat 32 (fpMinMax fFP32 false true x.snd.ermsMax.toNat e).v
      ermsLast := BitVec.ofNat 32 e } }
    sndWindow (sndAlarm s c a e) c a b

/-- A spare slot of one array in S-cycle `t`: one captured row and pass is recomputed when no stream or swap holds the feed (R176, R177). -/
def sndSpare (t feedBusy : Nat) (x : MxArray) : MxArray :=
  match x.capture with
  | some cap =>
    if feedBusy ≤ t ∧ cap.startS ≤ t ∧ 0 < cap.left then
      { x with capture := some { cap with left := cap.left - 1, evalAt := if cap.left = 1 then t + 24 else 0 } }
    else x
  | none => x

/-- The evaluation of a sample whose recomputation has ended 24 S-cycles ago (R177). -/
def sndDue (s : State) (c a : Nat) : State :=
  match ((s.core c).arr a).capture with
  | some cap => if sRun s && cap.left == 0 && decide (cap.evalAt ≤ s.sch.sCycle) then sndEvaluate s c a cap else s
  | none => s

/-! ### Meanings -/

/-- STREAM (R156). -/
def execStream (c : CoreId) (a : Fin 4) (s : State) : Host.Outcome State Fault Refusal := .next (withOp s c.val a.val 0x10 (streamOp c.val a.val))

/-- STLOAD (R579). -/
def execStload (c : CoreId) (a : Fin 4) (s : State) : Host.Outcome State Fault Refusal := .next (withOp s c.val a.val 0x11 (stloadOp c.val a.val))

/-- SWAP (R154). -/
def execSwap (c : CoreId) (a : Fin 4) (s : State) : Host.Outcome State Fault Refusal := .next (withOp s c.val a.val 0x12 (swapOp c.val a.val))

/-- DRAIN (R163). -/
def execDrain (c : CoreId) (a : Fin 4) (s : State) : Host.Outcome State Fault Refusal := .next (withOp s c.val a.val 0x13 (drainOp c.val a.val))

/-- SNDLOAD (R172). -/
def execSndload (c : CoreId) (a : Fin 4) (s : State) : Host.Outcome State Fault Refusal := .next (withOp s c.val a.val 0x14 (sndloadOp c.val a.val))

/-- SOUNDING_EVALUATE (R178). -/
def execSoundingEvaluate (c : CoreId) (a : Fin 4) (s : State) : Host.Outcome State Fault Refusal := .next (sndDue s c.val a.val)

end Sys2Proof.Machine
end

