-- ==== Sys2Proof/Machine/Vector.lean ====
section
/-! DEFINITION. The vector engine (chapter 6): the meanings of VSETVL, VINT, VCMP, VMASK, VCVT, VLD, VST, VFLT, VPERM, VACC, VRCP, VEXP, VDIV
and VRED. -/

namespace Sys2Proof.Machine

/-- Bytes of one vector register (R184). -/
def vBytes (c : Nat) : Nat := 4 * lanes c

/-- Byte `i` of the group that starts at register `v` (R186). -/
def vByte (k : Core) (c v i : Nat) : Byte := if vBytes c * v + i < 32 * vBytes c then mget k.vreg (vBytes c * v + i) else 0#8

/-- Element `i` of a group in format `f` (R186). -/
def vElem (k : Core) (c v f i : Nat) : Nat := elemCode (vByte k c v) f i

/-- Bit `i` of mask register `m` (R184). -/
def mBit (k : Core) (m i : Nat) : Bool := fget k.mreg false (4096 * m + i)

/-- Whether element `i` is active (R191). -/
def vActive (k : Core) (d : Desc) (i : Nat) : Bool := !dPb d 28 || mBit k (dP d 31 29) i

/-- Writes bytes from byte `o` of a register group on. -/
def vSetBytes (k : Core) (c v o : Nat) (bs : List Byte) : Core :=
  let l := bs.take (32 * vBytes c - (vBytes c * v + o))
  { k with vreg := mwrite k.vreg (vBytes c * v + o) l, badX := clearBadX k.badX 1 (vBytes c * v + o) l.length }

/-- What becomes of an element of a destination: its result, its old value, or zero (R190, R191). -/
inductive Sel where
  | new | keep | zero
deriving DecidableEq, Repr

/-- What becomes of element `i` of a destination with the masks of `k`: elements from `n` on are the tail, of which those below `m` come with the last
byte of the result (R116, R190, R191, R208). -/
def vSel (k : Core) (d : Desc) (n m i : Nat) : Sel :=
  if n ≤ i then (if i < m then .new else .keep) else if vActive k d i then .new else if dPb d 27 then .zero else .keep

/-- Byte `j` of a group merged from its old value and the result's, bit by bit, in a format of `w` bits. -/
def mergeBits (w : Nat) (sel : Nat → Sel) (j : Nat) (old new : Byte) : Byte :=
  if 8 ≤ w then (match sel (8 * j / w) with
    | .new => new
    | .keep => old
    | .zero => 0#8)
  else BitVec.ofNat 8 (sumN ((List.range 8).map fun b => match sel ((8 * j + b) / w) with
    | .new => if new.getLsbD b then 2 ^ b else 0
    | .keep => if old.getLsbD b then 2 ^ b else 0
    | .zero => 0))

/-- Digit `i` of a TERN byte (R116, R117). -/
def ternDigit (b : Byte) (i : Nat) : Nat := if 243 ≤ b.toNat then 0 else b.toNat / 3 ^ i % 3

/-- Byte `j` of a TERN group merged trit by trit, and whether a byte of 243-255 was decoded for it (R117). A byte of one kind only is not decoded.
DEDUCED (log 74). -/
def mergeTern (sel : Nat → Sel) (j : Nat) (old new : Byte) : Byte × Bool :=
  let l := (List.range 5).map fun i => sel (5 * j + i)
  if l.all (· == .new) then (new, false)
  else if l.all (· == .keep) then (old, false)
  else (BitVec.ofNat 8 (sumN ((List.range 5).map fun i => 3 ^ i * match l.getD i .zero with
      | .new => ternDigit new i
      | .keep => ternDigit old i
      | .zero => 0)),
    (l.contains .new && decide (243 ≤ new.toNat)) || (l.contains .new && l.contains .keep && decide (243 ≤ old.toNat)))

/-- Byte `j` of a group in format `f` merged from its old value and the result's. -/
def mergeByte (f : Nat) (sel : Nat → Sel) (j : Nat) (old new : Byte) : Byte × Bool :=
  if f = 9 then mergeTern sel j old new else (mergeBits (fmtBits f) sel j old new, false)

/-- Reports an invalid TERN byte: sticky TERN, and event 0x0402 once for the descriptor (R117). -/
def ternReport (s : State) (c : Nat) (r : RunOp) (bad : Bool) : State :=
  if !bad then s
  else
    let s := setSticky s c flTERN
    if opTold s c r then s else setOp (raiseE s 0x0402 c r.eng (opPlace r)) c r fun r => { r with told := true }

/-- Writes results to elements from `lo` on of a destination group: `new` holds them packed, `n` and `m` are the ends of R190 (see `vSel`), and the
masks are those of `src`, where the operation has read them (R196). -/
def vWrite (src : State) (c : Nat) (r : RunOp) (v f lo n m : Nat) (new : List Byte) (s : State) : State :=
  let k := s.core c
  let o := lo * width10 f / 80
  let bs := (List.range new.length).map fun j =>
    mergeByte f (vSel (src.core c) r.item.desc n m) (o + j) (vByte k c v (o + j)) (byteAt new j)
  ternReport (s.mapCore c fun k => vSetBytes k c v o (bs.map (·.1))) c r (bs.any (·.2))

/-- Writes mask bits from element `lo` on, masked as R191 states. -/
def mWrite (src : State) (c : Nat) (d : Desc) (m lo : Nat) (bs : List Bool) (s : State) : State :=
  s.mapCore c fun k => { k with mreg := (List.range bs.length).foldl (fun r i =>
    if vActive (src.core c) d (lo + i) then fset r false (4096 * m + lo + i) (bs.getD i false)
    else if dPb d 27 then fset r false (4096 * m + lo + i) false else r) k.mreg }

/-- An undefined register result: free bytes over the destination elements below n (R12; log 2). -/
def vUndef (s : State) (c v f n : Nat) : State :=
  let (bs, s) := takeFree s (fmtBytes f n)
  s.mapCore c fun k => vSetBytes k c v 0 bs

/-- An undefined mask result. -/
def mUndef (s : State) (c m n : Nat) : State :=
  let (bs, s) := takeFree s n
  s.mapCore c fun k => { k with mreg := (List.range n).foldl (fun r i => fset r false (4096 * m + i) ((byteAt bs i).getLsbD 0)) k.mreg }

/-- Whether a group of size `l` at register `v` is aligned, at most 8 long and inside the file (R187). -/
def grpOk (v l : Nat) : Bool := v % l == 0 && decide (l ≤ 8) && decide (v + l ≤ 32)

/-- Register fields of a vector descriptor (Table 6-1). -/
def vD (d : Desc) : Nat := dP d 63 59
def vA (d : Desc) : Nat := dP d 58 54
def vB (d : Desc) : Nat := dP d 53 49
def vC (d : Desc) : Nat := dP d 48 44
def vEfmt (d : Desc) : Nat := dP d 41 37
def vXfmt (d : Desc) : Nat := dP d 36 32
def vFunc (d : Desc) : Nat := dP d 19 16
def vImm (d : Desc) : Nat := dP d 15 0
def vBsc (d : Desc) : Bool := dPb d 26

/-- The bad operand groups among registers that are all groups of `EFMT` (R187). -/
def grpsOk (d : Desc) (vs : List Nat) : Bool := vs.all fun v => grpOk v (vGrp d)

/-- Raises the event of a fault of the descriptor: 0x0601 for a format or function, 0x0602 for a group (R187, R194, R195). -/
def vFault (s : State) (c : Nat) (r : RunOp) (badF badG : Bool) : State :=
  let s := s.cond badF fun s => raiseE s 0x0601 c r.eng (opPlace r)
  s.cond badG fun s => raiseE s 0x0602 c r.eng (opPlace r)

/-- Operand B of element `i`: the broadcast scalar's low bits or the register element (R193). -/
def vOpB (k : Core) (c : Nat) (r : RunOp) (f i : Nat) : Nat :=
  let d := r.item.desc
  if vBsc d then (r.sreg (dP d 25 21)).toNat % 2 ^ fmtBits f else vElem k c (vB d) f i

/-- Whether a TERN byte that holds an active element of `lo` to `hi - 1` of a group is 243-255 (R117, R192). -/
def ternBad (k : Core) (c : Nat) (d : Desc) (v lo hi : Nat) : Bool :=
  (List.range (cdiv (hi - lo) 5)).any fun j => decide (243 ≤ (vByte k c v (lo / 5 + j)).toNat) &&
    (List.range 5).any fun i => decide (lo + 5 * j + i < hi) && vActive k d (lo + 5 * j + i)

/-! ### Parts of a vector operation (R196, R197) -/

/-- The results that a vector operation writes in one S-cycle: elements `lo` to `hi - 1` of its destination, scale codes `clo` to `chi - 1`, and
whether this is its last S-cycle, in which its scalar result is written. -/
structure VPart where
  lo : Nat
  hi : Nat
  clo : Nat
  chi : Nat
  last : Bool
deriving DecidableEq, Repr

/-- Elements that a vector operation processes: n of R189, `vl` for `VMASK` (R580). -/
def vCount (c : Nat) (r : RunOp) : Nat := if dOpcode r.item.desc = 0x23 then r.vl else vElems c r.item.desc r.vl

/-- All results of an operation. -/
def vWhole (c : Nat) (r : RunOp) : VPart := ⟨0, vCount c r, 0, cdiv (vCount c r) 32, true⟩

/-- A vector operation: its faults (a format or function, a group, another that leaves its result undefined), what it leaves when its result is
undefined, and one part of its results, computed from what it has read in `src`. -/
structure VxDef where
  chk : State → Nat → RunOp → Bool × Bool × Bool
  undef : Nat → RunOp → State → State
  part : State → VPart → Nat → RunOp → State → State

/-- Whether an operation's result is undefined. -/
def VxDef.bad (x : VxDef) (s : State) (c : Nat) (r : RunOp) : Bool :=
  let k := x.chk s c r
  k.1 || k.2.1 || k.2.2 || dReserved r.item.desc

/-- The events of an operation's faults. -/
def VxDef.start (x : VxDef) (c : Nat) (r : RunOp) (s : State) : State :=
  let k := x.chk s c r
  vFault s c r k.1 k.2.1

/-- The whole of an operation. -/
def VxDef.op (x : VxDef) (c : Nat) (r : RunOp) (s : State) : State :=
  if x.bad s c r then x.undef c r (x.start c r s) else x.part s (vWhole c r) c r (x.start c r s)

/-- An element-wise operation into `VD`: results and flags of the active elements of a part. -/
def vMap (src : State) (p : VPart) (c : Nat) (r : RunOp) (f : Nat) (g : Core → Nat → NR) (s : State) : State :=
  let d := r.item.desc
  let k := src.core c
  let rs := (List.range (p.hi - p.lo)).map fun i => if vActive k d (p.lo + i) then g k (p.lo + i) else ⟨0, flNone⟩
  vWrite src c r (vD d) f p.lo (vCount c r) 0 (packElems f (rs.map (·.v))) (setSticky s c (flOr rs))

/-- The undefined result of an operation into `VD`. -/
def vUndefD (c : Nat) (r : RunOp) (s : State) : State := vUndef s c (vD r.item.desc) (vEfmt r.item.desc) (vCount c r)

/-! ### VSETVL, VINT -/

/-- VSETVL (R188): writes `vl` in S-cycle t + λ − 1. -/
def vsetvlOp (c : Nat) (r : RunOp) (s : State) : State :=
  let d := r.item.desc
  let src := if vBsc d then (r.sreg (dP d 25 21)).toNat else vImm d
  s.mapCore c fun k => { k with vl := min src (32 * lanes c), vlClamps := if 32 * lanes c < src then sat32 k.vlClamps else k.vlClamps }

/-- VSETVL as a vector operation: it has no fault. -/
def vsetvlDef : VxDef where
  chk _ _ _ := (false, false, false)
  undef := vsetvlOp
  part _ p c r s := s.cond p.last (vsetvlOp c r)

/-- One element of `VINT` (R199). -/
def vintElem (fn f : Nat) (wrap : Bool) (a b : Nat) : NR :=
  let w := fmtBits f
  let x := decI f a
  let y := decI f b
  let sh := b % w
  match fn with
  | 0 => intWrap f wrap (x + y)
  | 1 => intWrap f wrap (x - y)
  | 2 => intWrap f wrap (x * y)
  | 3 => ⟨if x ≤ y then a else b, flNone⟩
  | 4 => ⟨if x ≤ y then b else a, flNone⟩
  | 5 => ⟨a &&& b, flNone⟩
  | 6 => ⟨a ||| b, flNone⟩
  | 7 => ⟨a ^^^ b, flNone⟩
  | 8 => ⟨a * 2 ^ sh % 2 ^ w, flNone⟩
  | 9 => ⟨a / 2 ^ sh, flNone⟩
  | _ => ⟨toBits w (x / 2 ^ sh), flNone⟩

/-- Packed bytes of elements `lo` to `hi - 1` of a group, moved bit by bit (R213). -/
def vMoved (k : Core) (c v f lo hi : Nat) : List Byte := (List.range (fmtBytes f (hi - lo))).map fun j => vByte k c v (lo * width10 f / 80 + j)

/-- VINT (R199). -/
def vintDef : VxDef where
  chk _ _ r :=
    let d := r.item.desc
    let f := vEfmt d
    let fn := vFunc d
    (decide (0xC < fn) || (if fn ≤ 0xA then !(f == 4 || f == 5 || f == 6) else fmtReserved f),
      !grpsOk d ((if fn = 0xB ∧ vBsc d then [] else [vA d]) ++ (if fn ≤ 0xA ∧ !vBsc d then [vB d] else []) ++ (if fn = 0xC then [] else [vD d])), false)
  undef c r s :=
    if vFunc r.item.desc = 0xC then
      let (v, s) := takeFreeNat s 32
      engSreg s c r (dP r.item.desc 25 21) (BitVec.ofNat 32 v)
    else vUndefD c r s
  part src p c r s :=
    let d := r.item.desc
    let f := vEfmt d
    let fn := vFunc d
    let k := src.core c
    if fn = 0xC then
      if !p.last ∨ vCount c r = 0 then s
      else if vActive k d 0 then engSreg s c r (dP d 25 21) (BitVec.ofNat 32 (vElem k c (vA d) f 0))
      else if dPb d 27 then engSreg s c r (dP d 25 21) 0#32 else s
    else if fn = 0xB ∧ !vBsc d then vWrite src c r (vD d) f p.lo (vCount c r) 0 (vMoved k c (vA d) f p.lo p.hi) s
    else if fn = 0xB then vMap src p c r f (fun k i => ⟨vOpB k c r f i, flNone⟩) s
    else vMap src p c r f (fun k i => vintElem fn f (dWrap d) (vElem k c (vA d) f i) (vOpB k c r f i)) s

/-! ### VCMP, VMASK -/

/-- Formats of `VCMP`, `VRED` and `VPERM` (Table 6-3). -/
def cmpFmt (f : Nat) : Bool := decide (f ≤ 6)

/-- One comparison and the `SUB` flag of flushed operands (R201). -/
def vcmpElem (fn f : Nat) (ftz : Bool) (a b : Nat) : Bool × Fl :=
  match fmtFloat f with
  | some ff =>
    let ia := flushIn ftz ff a
    let ib := flushIn ftz ff b
    let nan := fIsNan (decF ff ia.v) || fIsNan (decF ff ib.v)
    let eq := !nan && fpEq ff ia.v ib.v
    let lt := !nan && fpLt ff ia.v ib.v
    let gt := !nan && fpLt ff ib.v ia.v
    ((match fn with
      | 0 => eq
      | 1 => !eq
      | 2 => lt
      | 3 => lt || eq
      | 4 => gt
      | _ => gt || eq), ia.fl ||| ib.fl)
  | none =>
    let x := decI f a
    let y := decI f b
    ((match fn with
      | 0 => decide (x = y)
      | 1 => decide (x ≠ y)
      | 2 => decide (x < y)
      | 3 => decide (x ≤ y)
      | 4 => decide (y < x)
      | _ => decide (y ≤ x)), flNone)

/-- VCMP into mask `VD` (R201). -/
def vcmpDef : VxDef where
  chk _ _ r :=
    let d := r.item.desc
    (decide (5 < vFunc d) || !cmpFmt (vEfmt d), !grpsOk d ([vA d] ++ (if vBsc d then [] else [vB d])), dP d 63 62 != 0)
  undef c r s := mUndef s c (dP r.item.desc 61 59) (vCount c r)
  part src p c r s :=
    let d := r.item.desc
    let f := vEfmt d
    let k := src.core c
    let rs := (List.range (p.hi - p.lo)).map fun i =>
      if vActive k d (p.lo + i) then vcmpElem (vFunc d) f (ftzOf s c) (vElem k c (vA d) f (p.lo + i)) (vOpB k c r f (p.lo + i)) else (false, flNone)
    setSticky (mWrite src c d (dP d 61 59) p.lo (rs.map (·.1)) s) c (rs.foldl (fun a x => a ||| x.2) flNone)

/-- One bit of mask logic (Table 6-2). -/
def vmaskBit (fn : Nat) (a b : Bool) : Bool :=
  match fn with
  | 0 => a && b
  | 1 => a || b
  | 2 => a != b
  | 3 => a && !b
  | 4 => !a
  | 5 => true
  | 6 => false
  | _ => a

/-- VMASK (R580). -/
def vmaskDef : VxDef where
  chk _ _ r := (decide (7 < vFunc r.item.desc), false, dP r.item.desc 63 62 != 0 || dP r.item.desc 58 57 != 0 || dP r.item.desc 53 52 != 0)
  undef c r s := mUndef s c (dP r.item.desc 61 59) r.vl
  part src p c r s :=
    let d := r.item.desc
    let k := src.core c
    mWrite src c d (dP d 61 59) p.lo ((List.range (p.hi - p.lo)).map fun i =>
      vmaskBit (vFunc d) (mBit k (dP d 56 54) (p.lo + i)) (mBit k (dP d 51 49) (p.lo + i))) s

/-! ### VFLT, VRCP, VEXP, VDIV -/

/-- One element of `VFLT` (R200). -/
def vfltElem (fn : Nat) (ff : FFmt) (ftz : Bool) (a b x : Nat) : NR :=
  let sgn := 2 ^ (ff.eb + ff.mb)
  let neg := fun v => if sgn ≤ v then v - sgn else v + sgn
  match fn with
  | 0 => fpAdd ff ftz a b
  | 1 => fpSub ff ftz a b
  | 2 => fpMul ff ftz a b
  | 3 => fpFma ff ftz a b x
  | 4 => fpOp ff ftz [a, b, x] fun l => fmaX (get0 l) (get1 l) (fNeg (get2 l))
  | 5 => fpOp ff ftz [a, b, x] fun l => fmaX (fNeg (get0 l)) (get1 l) (get2 l)
  | 6 => fpMinMax ff ftz false a b
  | 7 => fpMinMax ff ftz true a b
  | 8 => ⟨(flushIn ftz ff a).v % sgn, (flushIn ftz ff a).fl⟩
  | _ => ⟨neg (flushIn ftz ff a).v, (flushIn ftz ff a).fl⟩

/-- VFLT (R200). -/
def vfltDef : VxDef where
  chk _ _ r :=
    let d := r.item.desc
    let fn := vFunc d
    (decide (9 < fn) || decide (3 < vEfmt d),
      !grpsOk d ([vA d, vD d] ++ (if fn ≤ 7 ∧ !vBsc d then [vB d] else []) ++ (if 3 ≤ fn ∧ fn ≤ 5 then [vC d] else [])), false)
  undef := vUndefD
  part src p c r s :=
    let d := r.item.desc
    let f := vEfmt d
    match fmtFloat f with
    | some ff => vMap src p c r f (fun k i => vfltElem (vFunc d) ff (ftzOf s c) (vElem k c (vA d) f i) (vOpB k c r f i) (vElem k c (vC d) f i)) s
    | none => s

/-- The code of 1.0 in FP32 or BF16. -/
def oneCode (f : Nat) : Nat := if f = 0 then 0x3F800000 else 0x3F80

/-- A function group of FP32 and BF16: reciprocals, exponential and logarithm, divide and square root (R202); `useB`: it has an operand B. -/
def vfunDef (useB : Desc → Bool) (g : Bool → Desc → FFmt → Nat → Nat → NR) : VxDef where
  chk _ _ r :=
    let d := r.item.desc
    (decide (1 < vFunc d) || decide (1 < vEfmt d), !grpsOk d ([vA d, vD d] ++ (if useB d ∧ !vBsc d then [vB d] else [])), false)
  undef := vUndefD
  part src p c r s :=
    let d := r.item.desc
    let f := vEfmt d
    match fmtFloat f with
    | some ff => vMap src p c r f (fun k i => g (ftzOf s c) d ff (vElem k c (vA d) f i) (vOpB k c r f i)) s
    | none => s

/-- VRCP (R202). -/
def vrcpDef : VxDef := vfunDef (fun _ => false) fun ftz d ff a _ => if vFunc d = 0 then fpDiv ff ftz (oneCode (vEfmt d)) a else fpRsqrt ff ftz a

/-- VEXP (R202). -/
def vexpDef : VxDef := vfunDef (fun _ => false) fun ftz d ff a _ => if vFunc d = 0 then fpExp2 ff ftz a else fpLog2 ff ftz a

/-- VDIV (R202). -/
def vdivDef : VxDef := vfunDef (fun d => vFunc d == 0) fun ftz d ff a b => if vFunc d = 0 then fpDiv ff ftz a b else fpSqrt ff ftz a

/-! ### VPERM, VACC, VRED -/

/-- The source index of element `i` of a register of `p` elements; none gives 0 (R204). -/
def permIdx (fn sc p i b : Nat) : Option Nat :=
  match fn with
  | 0 => some (sc % p)
  | 1 => if b < p then some b else none
  | 2 => if i + sc < p then some (i + sc) else none
  | 3 => if sc ≤ i then some (i - sc) else none
  | _ => some (p - 1 - i)

/-- VPERM within each register (R204). -/
def vpermDef : VxDef where
  chk _ _ r :=
    let d := r.item.desc
    (decide (4 < vFunc d) || !cmpFmt (vEfmt d), !grpsOk d ([vA d, vD d] ++ (if vFunc d = 1 ∧ !vBsc d then [vB d] else [])), false)
  undef := vUndefD
  part src p c r s :=
    let d := r.item.desc
    let f := vEfmt d
    let q := 32 * lanes c / fmtBits f
    vMap src p c r f (fun k i =>
      match permIdx (vFunc d) (r.sreg (dP d 25 21)).toNat q (i % q) (vOpB k c r f i) with
      | some j => ⟨vElem k c (vA d) f (i / q * q + j), flNone⟩
      | none => ⟨0, flNone⟩) s

/-- One element of an accumulator view; none when it is undefined (R210-R212). -/
def vaccElem (x : MxArray) (f : Nat) (outl ftz : Bool) (row col : Nat) : Option NR :=
  let tag := fget x.tags .zero row
  let v := (fget x.acc 0#32 (64 * row + col)).toNat
  if 1023 < row ∨ (tag = .int32 ∧ f = 0) ∨ (tag = .fp32 ∧ f = 4) then none
  else if outl then
    let q := fget x.osum xzero (64 * row + col)
    let q32 := roundOsum ftz q
    let a := fpAdd fFP32 ftz v q32.v
    some ⟨a.v, q32.fl ||| a.fl⟩
  else some ⟨v, flNone⟩

/-- Replaces the missing elements by free values. -/
def fillFree (s : State) (l : List (Option NR)) : List NR × State :=
  l.foldl (fun a x => match x with
    | some v => (a.1 ++ [v], a.2)
    | none =>
      let (v, s) := takeFreeNat a.2 32
      (a.1 ++ [⟨v, flNone⟩], s)) ([], s)

/-- Array, first row, `OUTL` and `ZERO` of a view (R210, R211). -/
def vaccArr (d : Desc) : Nat := bits (vImm d) 15 14
def vaccRow (d : Desc) : Nat := bits (vImm d) 13 4
def vaccOutl (d : Desc) : Bool := bit (vImm d) 3
def vaccZeros (d : Desc) : Bool := bit (vImm d) 2

/-- VACC (R210-R212). -/
def vaccDef : VxDef where
  chk _ c r :=
    let d := r.item.desc
    (!(vEfmt d == 0 || (vEfmt d == 4 && !vaccOutl d)), !grpsOk d [vD d], bits (vImm d) 1 0 != 0 || decide (arraysOf c ≤ vaccArr d))
  undef := vUndefD
  part src p c r s :=
    let d := r.item.desc
    let f := vEfmt d
    let x := (src.core c).arr (vaccArr d)
    let (rs, s) := fillFree s ((List.range (p.hi - p.lo)).map fun i =>
      if vActive (src.core c) d (p.lo + i) then vaccElem x f (vaccOutl d) (ftzOf s c) (vaccRow d + (p.lo + i) / 64) ((p.lo + i) % 64)
      else some ⟨0, flNone⟩)
    vWrite src c r (vD d) f p.lo (vCount c r) 0 (packElems f (rs.map (·.v))) (setSticky s c (flOr rs))

/-- Event 0x0603 of a view of an absent array or of rows beyond the store (R212). -/
def vaccStart (c : Nat) (r : RunOp) (s : State) : State :=
  let d := r.item.desc
  let n := vCount c r
  s.cond (decide (arraysOf c ≤ vaccArr d) || decide (0 < n ∧ 1024 < vaccRow d + cdiv n 64)) fun s => raiseE s 0x0603 c r.eng (opPlace r)

/-- Row `j` of a view is set to 0 where the view asks for it (R211). -/
def vaccZero (c : Nat) (r : RunOp) (s : State) (j : Nat) : State :=
  let d := r.item.desc
  s.cond (vaccZeros d && decide (vaccArr d < arraysOf c ∧ j < cdiv (vCount c r) 64 ∧ vaccRow d + j < 1024)) fun s =>
    zeroRow c (vaccArr d) s (vaccRow d + j)

/-- VACC: its view, then the rows that it sets to 0 (R210-R212). -/
def vaccOp (c : Nat) (r : RunOp) (s : State) : State :=
  (vaccDef.op c r (vaccStart c r s)).each (List.range (cdiv (vCount c r) 64)) (vaccZero c r)

/-- One level of the pairwise fold: positions below `h` combined with those `h` above (R203). -/
def foldLevel (op : NR → NR → NR) (h : Nat) (xs : List NR) : List NR :=
  (List.range h).map fun i => op (xs.getD i ⟨0, flNone⟩) (xs.getD (i + h) ⟨0, flNone⟩)

/-- The pairwise fold of 2^`l` positions (R203). -/
def foldTree (op : NR → NR → NR) : Nat → List NR → NR
  | 0, xs => xs.getD 0 ⟨0, flNone⟩
  | l + 1, xs => foldTree op l (foldLevel op (2 ^ l) xs)

/-- An operation on results that keeps the union of the flags. -/
def withFl (f : Nat → Nat → NR) (a b : NR) : NR :=
  let r := f a.v b.v
  ⟨r.v, a.fl ||| b.fl ||| r.fl⟩

/-- Smallest exponent `l` with n ≤ 2^l. -/
def log2Up (n : Nat) : Nat := if n ≤ 1 then 0 else (n - 1).log2 + 1

/-- Identity of a reduction: function 0 sum, 1 max, 2 min (R203). -/
def redIdent (fn f : Nat) : Nat :=
  let ff := fmtFloat f
  match fn, ff with
  | 0, some _ => 0x80000000
  | 0, none => 0
  | 1, some g => if f = 2 then 0xFE else infCode g + 2 ^ (g.eb + g.mb)
  | 1, none => encI f (intRange f).1
  | _, some g => if f = 2 then 0x7E else infCode g
  | _, none => encI f (intRange f).2

/-- A float element widened exactly to FP32. -/
def widen (f c : Nat) : Nat := if f = 0 then c else (cvtElem f 0 false false c).v

/-- The result of a reduction over its active elements (R203). -/
def vredVal (fn f : Nat) (wrap ftz : Bool) (cap : Nat) (xs : List (Option Nat)) : NR :=
  let l := log2Up cap
  let pad := fun (g : Nat → Nat) => (List.range (2 ^ l)).map fun i =>
    (⟨match xs.getD i none with
      | some v => g v
      | none => redIdent fn f, flNone⟩ : NR)
  match fmtFloat f with
  | some ff =>
    if fn = 0 then foldTree (withFl (fpAdd fFP32 ftz)) l (pad (widen f))
    else match firstNaN ff (xs.filterMap id) with
      | some v => ⟨v, flNone⟩
      | none => foldTree (withFl (fpMinMax ff ftz (fn == 1))) l (pad id)
  | none =>
    if fn = 0 then intWrap 4 wrap (xs.foldl (fun a x => match x with
      | some v => a + decI f v
      | none => a) 0)
    else foldTree (withFl fun a b => ⟨if (decI f a ≤ decI f b) == (fn == 1) then b else a, flNone⟩) l (pad id)

/-- Format of a reduction's result (R203): a sum has 32 bits. -/
def vredFmt (d : Desc) : Nat := if vFunc d = 0 then 4 else vEfmt d

/-- VRED (R203). Both operands are groups under R187, the destination of a sum as a 32-bit operand beside `EFMT`. -/
def vredDef : VxDef where
  chk _ _ r :=
    let d := r.item.desc
    (decide (2 < vFunc d) || !cmpFmt (vEfmt d), !(grpsOk d [vA d] && grpOk (vD d) (if vFunc d = 0 then vGrpOf d 320 else vGrp d)), false)
  undef c r s :=
    if vCount c r = 0 then s
    else
      let s := vUndef s c (vD r.item.desc) (vredFmt r.item.desc) 1
      if dPb r.item.desc 20 then
        let (v, s) := takeFreeNat s 32
        engSreg s c r (dP r.item.desc 25 21) (BitVec.ofNat 32 v)
      else s
  part src p c r s :=
    let d := r.item.desc
    let f := vEfmt d
    let n := vCount c r
    let k := src.core c
    if !p.last ∨ n = 0 then s
    else
      let xs := (List.range n).map fun i => if vActive k d i then some (vElem k c (vA d) f i) else none
      let v := vredVal (vFunc d) f (dWrap d) (ftzOf s c) (regsTouched c n (width10 f) * lanes c * 32 / fmtBits f) xs
      let s := setSticky (s.mapCore c fun k => vSetBytes k c (vD d) 0 (packElems (vredFmt d) [v.v])) c v.fl
      s.cond (dPb d 20) fun s => engSreg s c r (dP d 25 21) (BitVec.ofNat 32 v.v)

/-! ### VCVT (R205-R207) -/

/-- Whether the piece selection of a split fits its destination format (R205). -/
def pieceOk (kind32 : Bool) (p x : Nat) : Bool :=
  if p = 3 ∨ (!kind32 ∧ p = 2) then false else if (!kind32 && p == 1) || p == 2 then x == 0x11 else x == 0x12

/-- Values of source elements for an encode, with the flags of flushed subnormals (R124, R130). -/
def encSource (f : Nat) (ftz : Bool) (cs : List Nat) : List (FVal × Fl) :=
  cs.map fun v => match fmtFloat f with
    | some ff => (decF ff (flushIn ftz ff v).v, (flushIn ftz ff v).fl)
    | none => (decElem f v, flNone)

/-- A block encode to a format: MX, ZB4 or a piece (R119, R123, R140). -/
def encodeTo (x : Nat) (ftz kind32 : Bool) (p : Nat) (t : FVal) (xs : List FVal) : Block :=
  if x = 0x10 then zbEncode ftz t xs else if x = 0x11 ∨ x = 0x12 then splitBlock kind32 p xs else mxEncode x xs

/-- Cuts a list into blocks of 32; `n` bounds the number of blocks. -/
def blocks32 {α : Type} : Nat → List α → List (List α)
  | 0, _ => []
  | n + 1, l => if l.isEmpty then [] else l.take 32 :: blocks32 n (l.drop 32)

/-- Writes scale codes from code `lo` on to group `VC`. -/
def vScales (s : State) (c v lo : Nat) (sc : List Nat) : State := s.mapCore c fun k => vSetBytes k c v lo (packElems 6 sc)

/-- The tensor scale of a ZB4 conversion as it is read, flushed under FTZ, with its flag (R130, R205). -/
def zbScale (ftz : Bool) (f x t : Nat) : NR := if f = 0x10 ∨ x = 0x10 then flushIn ftz fFP32 t else ⟨t, flNone⟩

/-- Element `i` of a conversion's source, decoded to FP32 where the source is a block format (rule D). -/
def vcvtSrc (k : Core) (c : Nat) (d : Desc) (ftz : Bool) (t : FVal) (i : Nat) : NR :=
  let f := vEfmt d
  if !fmtBlock f then ⟨vElem k c (vA d) f i, flNone⟩
  else if vActive k d i then decBlock f (vElem k c (vA d) f i) (vElem k c (vB d) 6 (i / 32)) (if f = 0x10 then t else .fin false 1 0) (.fin false 0 0) ftz
  else ⟨0, flNone⟩

/-- Block `j` of an encode, from its elements below n (R206), with the flags of its sources. -/
def vcvtBlock (k : Core) (c : Nat) (r : RunOp) (ftz : Bool) (t : FVal) (j : Nat) : Block :=
  let d := r.item.desc
  let xs := (List.range (min 32 (vCount c r - 32 * j))).map fun i => vcvtSrc k c d ftz t (32 * j + i)
  let vs := encSource (if fmtBlock (vEfmt d) then 0 else vEfmt d) ftz (xs.map (·.v))
  let b := encodeTo (vXfmt d) ftz (bit (vFunc d) 2) (bits (vFunc d) 1 0) t (vs.map (·.1))
  { b with fl := b.fl ||| flOr xs ||| vs.foldl (fun a v => a ||| v.2) flNone }

/-- VCVT (R205-R207). A conversion to TERN fills its last byte with zero trits (R116; log 74). -/
def vcvtDef : VxDef where
  chk _ _ r :=
    let d := r.item.desc
    let f := vEfmt d
    let x := vXfmt d
    let fn := vFunc d
    let split := x == 0x11 || x == 0x12
    let ls := max 1 (pow2Up (cdiv (vGrp d * 10) (4 * width10 f)))
    (fmtReserved f || fmtReserved x || (if split && f != x then bit fn 3 || !pieceOk (bit fn 2) (bits fn 1 0) x else fn != 0) || (fmtBlock x && dPb d 28),
      !(grpOk (vA d) (vGrp d) && grpOk (vD d) (vGrpOf d (width10 x)) && (!fmtBlock f || grpOk (vB d) ls) && (!fmtBlock x || grpOk (vC d) ls)), false)
  undef c r s :=
    let d := r.item.desc
    let s := vUndef s c (vD d) (vXfmt d) (vCount c r)
    if fmtBlock (vXfmt d) then vUndef s c (vC d) 6 (cdiv (vCount c r) 32) else s
  part src p c r s :=
    let d := r.item.desc
    let f := vEfmt d
    let x := vXfmt d
    let n := vCount c r
    let k := src.core c
    let ftz := ftzOf s c
    let t := zbScale ftz f x (r.sreg (dP d 25 21)).toNat
    let s := ternReport s c r (f == 9 && ternBad k c d (vA d) p.lo p.hi)
    let put := fun (new : List Byte) (s : State) => vWrite src c r (vD d) x p.lo n (if x = 9 then 5 * cdiv n 5 else 0) new s
    if fmtBlock f ∧ f = x then
      vScales (put (vMoved k c (vA d) f p.lo p.hi) s) c (vC d) p.clo ((List.range (p.chi - p.clo)).map fun j => vElem k c (vB d) 6 (p.clo + j))
    else if fmtBlock x then
      let bl := (List.range (cdiv (p.hi - p.lo) 32)).map fun j => vcvtBlock k c r ftz (fp t.v) (p.lo / 32 + j)
      let s := put (packElems x (bl.map (·.codes)).flatten) s
      let s := vScales s c (vC d) p.clo ((List.range (p.chi - p.clo)).map fun j => (vcvtBlock k c r ftz (fp t.v) (p.clo + j)).scale)
      setSticky s c ((if bl.isEmpty then flNone else t.fl) ||| bl.foldl (fun a b => a ||| b.fl) flNone)
    else
      let rs := (List.range (p.hi - p.lo)).map fun i =>
        if vActive k d (p.lo + i) then
          let y := vcvtSrc k c d ftz (fp t.v) (p.lo + i)
          let z := cvtElem (if fmtBlock f then 0 else f) x (dWrap d) ftz y.v
          (⟨z.v, y.fl ||| z.fl ||| t.fl⟩ : NR)
        else ⟨0, flNone⟩
      put (packElems x (rs.map (·.v))) (setSticky s c (flOr rs))

/-! ### VLD, VST (R208, R209) -/

/-- Byte of the operand that holds byte `i` of a register group, at stride `st` words (R208). -/
def vAddr (c st i : Nat) : Nat := 4 * st * (i / vBytes c) + i % vBytes c

/-- Stride of a load or store in words (R208). -/
def vStride (c : Nat) (d : Desc) : Nat := if vImm d = 0 then lanes c else vImm d

/-- Whether `nb` bytes at the stride lie inside an operand (R79). -/
def vInside (c : Nat) (d : Desc) (x : Option Opnd) (nb : Nat) : Bool :=
  nb == 0 || match x with
    | some x => decide (vAddr c (vStride c d) (nb - 1) < x.bytes) &&
      (decide (nb < vBytes c) || decide (vAddr c (vStride c d) (nb / vBytes c * vBytes c - 1) < x.bytes))
    | none => false

/-- Bytes of the operand that belong to the first `nb` bytes of a group. -/
def vMemBytes (s : State) (c : Nat) (d : Desc) (x : Option Opnd) (nb : Nat) : List Byte :=
  match x with
  | some x => (List.range (cdiv nb (vBytes c))).flatMap fun g => opRead s x (4 * vStride c d * g) (min (vBytes c) (nb - g * vBytes c))
  | none => []

/-- Runs of true entries of a list, as first position and length. -/
def runsFrom : Nat → List Bool → List (Nat × Nat)
  | _, [] => []
  | i, false :: r => runsFrom (i + 1) r
  | i, true :: r => match runsFrom (i + 1) r with
    | (o, n) :: q => if o = i + 1 then (i, n + 1) :: q else (i, 1) :: (o, n) :: q
    | [] => [(i, 1)]

/-- Bytes of register `g` of a load's or store's group that hold elements below n. -/
def vRegBytes (c : Nat) (d : Desc) (n g : Nat) : Nat := min (vBytes c) (fmtBytes (vEfmt d) n - g * vBytes c)

/-- The runs of bytes of register `g` that a load reads or a store writes: a masked load reads the words of active elements only (R192), a masked
store that does not zero leaves the bytes of inactive elements (R209). -/
def vRuns (k : Core) (c : Nat) (d : Desc) (n g : Nat) (st : Bool) : List (Nat × Nat) :=
  let nb := vRegBytes c d n g
  let w := width10 (vEfmt d)
  let act := fun (b e : Nat) => (List.range (cdiv (80 * e) w - 80 * b / w)).any fun i =>
    decide (80 * b / w + i < n) && vActive k d (80 * b / w + i)
  if !dPb d 28 ∨ (st ∧ dPb d 27) then (if nb = 0 then [] else [(0, nb)])
  else if st then runsFrom 0 ((List.range nb).map fun b => act (g * vBytes c + b) (g * vBytes c + b + 1))
  else (runsFrom 0 ((List.range (cdiv nb 4)).map fun q => act (g * vBytes c + 4 * q) (g * vBytes c + 4 * q + 4))).map fun q =>
    (4 * q.1, min (4 * q.2) (nb - 4 * q.1))

/-- VLD (R208, R209): the last byte of a narrow format is taken whole. -/
def vldDef : VxDef where
  chk s c r :=
    let d := r.item.desc
    (fmtReserved (vEfmt d), !grpsOk d [vD d], !vInside c d (operand s c d 0) (fmtBytes (vEfmt d) (vCount c r)))
  undef := vUndefD
  part src p c r s :=
    let d := r.item.desc
    let f := vEfmt d
    let n := vCount c r
    let o := p.lo * width10 f / 80
    let bs := (vMemBytes src c d (operand src c d 0) (fmtBytes f p.hi)).drop o
    vWrite src c r (vD d) f p.lo n (if f = 9 then 5 * cdiv n 5 else cdiv (8 * fmtBytes f n) (max 1 (fmtBits f))) bs s

/-- Register `g` of a store: the runs of its bytes that are written (R208, R209). -/
def vStoreReg (src : State) (c : Nat) (r : RunOp) (x : Opnd) (s : State) (g : Nat) : State :=
  let d := r.item.desc
  let k := src.core c
  let n := vCount c r
  s.each (vRuns k c d n g true) fun s q =>
    let bs := (List.range q.2).map fun i =>
      let b := g * vBytes c + q.1 + i
      if vActive k d (8 * b / max 1 (fmtBits (vEfmt d))) then vByte k c (vA d) b else 0#8
    (opWrite s x (4 * vStride c d * g + q.1) bs false).1

/-- VST (R208, R209). -/
def vstDef : VxDef where
  chk s c r :=
    let d := r.item.desc
    (fmtReserved (vEfmt d) || (dPb d 28 && decide (fmtBits (vEfmt d) < 8)), !grpsOk d [vA d],
      !vInside c d (operand s c d 3) (fmtBytes (vEfmt d) (vCount c r)))
  undef c r s := opUndef s (operand s c r.item.desc 3)
  part src p c r s :=
    let f := vEfmt r.item.desc
    let g0 := p.lo * width10 f / (80 * vBytes c)
    match operand s c r.item.desc 3 with
    | some x => s.each ((List.range (cdiv (fmtBytes f p.hi) (vBytes c) - g0)).map (· + g0)) (vStoreReg src c r x)
    | none => s

/-! ### Meanings -/

/-- VSETVL (R188): `vl` is written in S-cycle t + λ − 1. -/
def execVsetvl (c : CoreId) (s : State) : Host.Outcome State Fault Refusal :=
  .next (match opOf s c.val 4 0x20 with
    | some r => if r.startS + r.lat ≤ s.sch.sCycle + 1 then withOp s c.val 4 0x20 (vsetvlOp c.val) else s
    | none => s)

/-- VINT (R199). -/
def execVint (c : CoreId) (s : State) : Host.Outcome State Fault Refusal := .next (withOp s c.val 4 0x21 (vintDef.op c.val))
/-- VCMP (R201). -/
def execVcmp (c : CoreId) (s : State) : Host.Outcome State Fault Refusal := .next (withOp s c.val 4 0x22 (vcmpDef.op c.val))
/-- VMASK (R580). -/
def execVmask (c : CoreId) (s : State) : Host.Outcome State Fault Refusal := .next (withOp s c.val 4 0x23 (vmaskDef.op c.val))
/-- VCVT (R205). -/
def execVcvt (c : CoreId) (s : State) : Host.Outcome State Fault Refusal := .next (withOp s c.val 4 0x24 (vcvtDef.op c.val))
/-- VLD (R208). -/
def execVld (c : CoreId) (s : State) : Host.Outcome State Fault Refusal := .next (withOp s c.val 4 0x25 (vldDef.op c.val))
/-- VST (R208). -/
def execVst (c : CoreId) (s : State) : Host.Outcome State Fault Refusal := .next (withOp s c.val 4 0x26 (vstDef.op c.val))
/-- VFLT (R200). -/
def execVflt (c : CoreId) (s : State) : Host.Outcome State Fault Refusal := .next (withOp s c.val 4 0x27 (vfltDef.op c.val))
/-- VPERM (R204). -/
def execVperm (c : CoreId) (s : State) : Host.Outcome State Fault Refusal := .next (withOp s c.val 4 0x28 (vpermDef.op c.val))
/-- VACC (R210). -/
def execVacc (c : CoreId) (s : State) : Host.Outcome State Fault Refusal := .next (withOp s c.val 4 0x29 (vaccOp c.val))
/-- VRCP (R202). -/
def execVrcp (c : CoreId) (s : State) : Host.Outcome State Fault Refusal := .next (withOp s c.val 4 0x2A (vrcpDef.op c.val))
/-- VEXP (R202). -/
def execVexp (c : CoreId) (s : State) : Host.Outcome State Fault Refusal := .next (withOp s c.val 4 0x2B (vexpDef.op c.val))
/-- VDIV (R202). -/
def execVdiv (c : CoreId) (s : State) : Host.Outcome State Fault Refusal := .next (withOp s c.val 4 0x2C (vdivDef.op c.val))
/-- VRED (R203). -/
def execVred (c : CoreId) (s : State) : Host.Outcome State Fault Refusal := .next (withOp s c.val 4 0x2D (vredDef.op c.val))

end Sys2Proof.Machine
end

