-- ==== Sys2Proof/Machine/FixedFn.lean ====
section
/-! DEFINITION. The fixed-function engines (chapter 7, R216-R234, R240-R248): the meanings of SOFTMAX, RMSNORM, LAYERNORM, ROTARY, UNPACK, SPLIT,
GATHER, SAMPLE and VERIFY. -/

namespace Sys2Proof.Machine

/-! ### Rows (R219-R221) -/

/-- The FP32 parameter in scalar register `i`; s0 gives `d` (R218). -/
def fxParam (r : RunOp) (i d : Nat) : Nat := if i = 0 then d else (r.sreg i).toNat

/-- FP32 code of 1.0. -/
def fOne : Nat := 0x3F800000
/-- FP32 codes of −∞ and −0, the identities of the maximum and of the sum (R203, R220). -/
def fNegInf : Nat := 0xFF800000
def fNegZero : Nat := 0x80000000

/-- An operation on FP32 operands rounded once to format `f` (R221); a NaN operand gives the first NaN (R127). -/
def fpTo (f : Nat) (ftz : Bool) (cs : List Nat) (op : List FVal → ERes) : NR :=
  let is := cs.map (flushIn ftz fFP32)
  match fmtFloat f with
  | none => ⟨0, flNone⟩
  | some ff =>
    match cs.find? fun c => fIsNan (fp c) with
    | some c => match fp c with
      | .nan n p => ⟨nanTo ff n p, flOr is⟩
      | _ => ⟨0, flNone⟩
    | none =>
      let r := roundTo ff ftz (op (is.map fun i => fp i.v))
      ⟨r.v, flOr is ||| r.fl⟩

/-- Codes of the first `n` elements of row `r` of an operand at a stride in words (R219). -/
def rowCodes (s : State) (x : Option Opnd) (f stride r n : Nat) : List Nat :=
  match x with
  | some x =>
    let bs := opRead s x (4 * (r * stride)) (fmtBytes f n)
    (List.range n).map (elemCode (byteAt bs) f)
  | none => []

/-- Whether the first `n` elements of row `r` lie inside an operand (R79). -/
def rowInside (x : Option Opnd) (f stride r n : Nat) : Bool :=
  n == 0 || match x with
    | some x => decide (4 * (r * stride) + fmtBytes f n ≤ x.bytes)
    | none => false

/-- Words of one output row (R219). -/
def rowWords (f n : Nat) : Nat := cdiv (n * fmtBits f) 32

/-- Packs one output row: bits beyond the last element are 0 (R219). -/
def packRow (f : Nat) (cs : List Nat) : List Byte := padTo (4 * rowWords f cs.length) (packElems f cs)

/-- Cuts a row into chunks of `e` elements; `n` bounds their number (R220). -/
def chunkList {α : Type} (e : Nat) : Nat → List α → List (List α)
  | 0, _ => []
  | n + 1, l => if l.isEmpty then [] else l.take e :: chunkList e n (l.drop e)

/-- Maximum of two results (R203). -/
def maxNR (ftz : Bool) : NR → NR → NR := withFl (fpMinMax fFP32 ftz true)
/-- Sum of two results. -/
def addNR (ftz : Bool) : NR → NR → NR := withFl (fpAdd fFP32 ftz)

/-- The row fold of one chunk by the pairwise tree with N₂ = E (R220); the first NaN of a maximum wins (R203). -/
def chunkMax (e : Nat) (ftz : Bool) (xs : List NR) : NR :=
  match firstNaN fFP32 (xs.map (·.v)) with
  | some v => ⟨v, flNone⟩
  | none => foldTree (maxNR ftz) (log2Up e) ((List.range e).map fun i => xs.getD i ⟨fNegInf, flNone⟩)

/-- The row fold of one chunk under addition (R220). -/
def chunkSum (e : Nat) (ftz : Bool) (xs : List NR) : NR :=
  foldTree (addNR ftz) (log2Up e) ((List.range e).map fun i => xs.getD i ⟨fNegZero, flNone⟩)

/-- The row fold of a whole row under addition: chunk values combined in ascending order from the identity (R220). -/
def rowSum (e : Nat) (ftz : Bool) (xs : List NR) : NR :=
  (chunkList e (cdiv xs.length e) xs).foldl (fun a c => addNR ftz a (chunkSum e ftz c)) ⟨fNegZero, flNone⟩

/-- Writes bytes of a destination from byte `o` on. -/
def fxPut (s : State) (x : Option Opnd) (o : Nat) (bs : List Byte) : State :=
  match x with
  | some x => (opWrite s x o bs false).1
  | none => s

/-- Whether `n` bytes fit an operand (R79). -/
def fits (x : Option Opnd) (n : Nat) : Bool :=
  n == 0 || match x with
    | some x => decide (n ≤ x.bytes)
    | none => false

/-- An operation of a fixed-function engine: the event of a field that is not allowed, whether its result is undefined for another reason, the
number of units (rows) of its result, and one unit, computed from what its passes have read. -/
structure FxDef where
  fault : Nat → RunOp → Option Nat
  bad : State → Nat → RunOp → Bool
  units : RunOp → Nat
  unit : (Nat → State) → Nat → RunOp → State → Nat → State

/-- Whether its result is undefined (R12, R79, R250). -/
def FxDef.undef (x : FxDef) (s : State) (c : Nat) (r : RunOp) : Bool := (x.fault c r).isSome || dReserved r.item.desc || x.bad s c r

/-- The start of an operation: its event (R250). -/
def FxDef.start (x : FxDef) (c : Nat) (r : RunOp) (s : State) : State :=
  match x.fault c r with
  | some ev => raiseE s ev c r.eng (opPlace r)
  | none => s

/-- The whole of an operation. -/
def FxDef.op (x : FxDef) (c : Nat) (r : RunOp) (s : State) : State :=
  if x.undef s c r then opUndef (x.start c r s) (operand s c r.item.desc 3)
  else (x.start c r s).each (List.range (x.units r)) (x.unit (fun _ => s) c r)

/-- Elements and rows of a row engine (R219). -/
def fxLen (d : Desc) : Nat := dP d 63 48
def fxRows (d : Desc) : Nat := dP d 31 22

/-! ### SOFTMAX (R222-R224) -/

/-- The running maximum and sum of a softmax row (R223). -/
structure SmAcc where
  m : NR
  z : NR

/-- One chunk of pass 1 (R223). -/
def smChunk (e : Nat) (ftz : Bool) (a : SmAcc) (zs : List NR) : SmAcc :=
  let mn := maxNR ftz a.m (chunkMax e ftz zs)
  if mn.v = fNegInf then { a with m := mn }
  else
    let ex := fun (x : NR) => let d := withFl (fpSub fFP32 ftz) x mn; withFl (fun y _ => fpExp2 fFP32 ftz y) d d
    let sc := withFl (fpMul fFP32 ftz) a.z (ex a.m)
    { m := mn, z := addNR ftz sc (chunkSum e ftz (zs.map ex)) }

/-- One softmax row: output codes, the final m and s, and the flags (R223, R224); `zs` is the row as the first pass reads it, `zo` as the second
does. -/
def smRow2 (e : Nat) (ftz : Bool) (of_ : Nat) (zs zo : List NR) : List Nat × Nat × Nat × Fl :=
  let a := (chunkList e (cdiv zs.length e) zs).foldl (smChunk e ftz) ⟨⟨fNegInf, flNone⟩, ⟨0, flNone⟩⟩
  let fl := flOr zs ||| a.m.fl ||| a.z.fl
  match fmtFloat of_ with
  | none => ([], a.m.v, a.z.v, fl)
  | some ff =>
    match (zs.map (·.v)).find? fun v => fIsNan (fp v) with
    | some v => match fp v with
      | .nan n p => (zs.map fun _ => nanTo ff n p, a.m.v, a.z.v, fl)
      | _ => ([], a.m.v, a.z.v, fl)
    | none =>
      if a.m.v = infCode fFP32 then (zs.map fun _ => canonNaN ff, a.m.v, a.z.v, fl ||| flINV)
      else if a.m.v = fNegInf then (zs.map fun _ => 0, a.m.v, a.z.v, fl)
      else
        let ys := zo.map fun z =>
          let d := fpSub fFP32 ftz z.v a.m.v
          let p := fpExp2 fFP32 ftz d.v
          let q := fpTo of_ ftz [p.v, a.z.v] fun l => divX (get0 l) (get1 l)
          (⟨q.v, d.fl ||| p.fl ||| q.fl⟩ : NR)
        (ys.map (·.v), a.m.v, a.z.v, fl ||| flOr ys)

/-- One softmax row whose passes read the same (R223, R224). -/
def smRow (e : Nat) (ftz : Bool) (of_ : Nat) (zs : List NR) : List Nat × Nat × Nat × Fl := smRow2 e ftz of_ zs zs

/-- Sticky flags that SM may set (Table 7-12). -/
def smFlags : Fl := flSUB ||| flINV ||| flOVF ||| flSAT

/-- n_r of a softmax row (R222). -/
def smLen (r : RunOp) (i : Nat) : Nat :=
  let d := r.item.desc
  if dP d 11 10 = 0 then fxLen d else min (fxLen d) ((r.sreg (dP d 9 5)).toNat + (if dP d 11 10 = 2 then i else 0))

/-- The z of a softmax row; elements from n_r on count as −∞ (R223). -/
def smZ (s : State) (c : Nat) (r : RunOp) (i : Nat) : List NR :=
  let d := r.item.desc
  let xs := rowCodes s (operand s c d 0) (dP d 21 17) (dP d 47 32) i (smLen r i)
  (List.range (fxLen d)).map fun j =>
    if j < smLen r i then fpMul fFP32 (ftzOf s c) (widen (dP d 21 17) (xs.getD j 0)) (fxParam r (dP d 4 0) fOne) else ⟨fNegInf, flNone⟩

/-- SOFTMAX (R222-R224). -/
def softmaxDef : FxDef where
  fault _ r :=
    let d := r.item.desc
    if 1 < dP d 21 17 ∨ 2 < dP d 16 12 ∨ dP d 11 10 = 3 ∨ 512 < fxRows d then some 0x0701 else none
  bad s c r :=
    let d := r.item.desc
    !((List.range (fxRows d)).all fun i => rowInside (operand s c d 0) (dP d 21 17) (dP d 47 32) i (smLen r i)) ||
    !fits (operand s c d 3) (fxRows d * (4 * rowWords (dP d 16 12) (fxLen d) + 8))
  units r := fxRows r.item.desc
  unit src c r s i :=
    let d := r.item.desc
    let of_ := dP d 16 12
    let o := smRow2 (lanes c) (ftzOf s c) of_ (smZ (src 0) c r i) (smZ (src 1) c r i)
    let dst := operand s c d 3
    let w := 4 * rowWords of_ (fxLen d)
    let s := fxPut (setSticky s c (smFlags &&& o.2.2.2)) dst (i * w) (packRow of_ o.1)
    fxPut s dst (fxRows d * w + 8 * i) (leBytes 4 o.2.1 ++ leBytes 4 o.2.2.1)

/-! ### RMSNORM, LAYERNORM (R225-R227) -/

/-- ε as R226 takes it, with its flag. -/
def nmEps (r : RunOp) (i : Nat) : NR :=
  let e := fxParam r i 0 % 2 ^ 31
  if fIsNan (fp e) then ⟨0, flNANZ⟩ else ⟨e, flNone⟩

/-- ρ from the sum of squares, the length and ε (R226). -/
def nmRho (ftz : Bool) (sq : NR) (l : Nat) (eps : NR) : NR :=
  let q := withFl (fpDiv fFP32 ftz) sq ⟨fp32OfInt l, flNone⟩
  let v := addNR ftz q eps
  if v.v = 0 then v else withFl (fun x _ => fpRsqrt fFP32 ftz x) v v

/-- One normalised row (R226, R227), `ln` for LAYERNORM: `xs` as the pass of the mean reads it, `xq` as that of the squares, `xo` as the last. -/
def nmRow3 (e : Nat) (ftz ln : Bool) (of_ : Nat) (eps : NR) (xs xq xo gs bs : List Nat) : List NR :=
  let l := xo.length
  let up := fun (z : List Nat) => z.map fun v => (⟨v, flNone⟩ : NR)
  let mu := withFl (fpDiv fFP32 ftz) (rowSum e ftz (up xs)) ⟨fp32OfInt l, flNone⟩
  let dif := fun (z : List Nat) => if ln then (up z).map fun x => withFl (fpSub fFP32 ftz) x mu else up z
  let ds := dif xo
  let rho := nmRho ftz (rowSum e ftz ((dif xq).map fun x => withFl (fpMul fFP32 ftz) x x)) l eps
  (List.range l).map fun i =>
    let t := withFl (fpMul fFP32 ftz) (ds.getD i ⟨0, flNone⟩) rho
    let y := if ln then fpTo of_ ftz [t.v, gs.getD i fOne, bs.getD i 0] fun z => fmaX (get0 z) (get1 z) (get2 z)
      else fpTo of_ ftz [t.v, gs.getD i fOne] fun z => mulX (get0 z) (get1 z)
    ⟨y.v, t.fl ||| y.fl⟩

/-- One normalised row whose passes read the same (R226, R227). -/
def nmRow (e : Nat) (ftz ln : Bool) (of_ : Nat) (eps : NR) (xs gs bs : List Nat) : List NR := nmRow3 e ftz ln of_ eps xs xs xs gs bs

/-- Sticky flags that NM may set (Table 7-12). -/
def nmFlags : Fl := flSUB ||| flINV ||| flOVF ||| flSAT ||| flNANZ

/-- A parameter vector of a normalisation, widened; none when its operand is absent (R227). -/
def nmParam (s : State) (c : Nat) (d : Desc) (i : Nat) : List Nat :=
  let x := operand s c d i
  if x.isNone then [] else (rowCodes s x (dP d 4 0) 0 0 (fxLen d)).map (widen (dP d 4 0))

/-- RMSNORM and LAYERNORM (R225-R227). -/
def normDef (ln : Bool) : FxDef where
  fault _ r :=
    let d := r.item.desc
    if 1 < dP d 21 17 ∨ 3 < dP d 16 12 ∨ 1 < dP d 4 0 ∨ 512 < fxRows d then some 0x0701 else none
  bad s c r :=
    let d := r.item.desc
    let okP := fun (x : Option Opnd) => x.isNone || rowInside x (dP d 4 0) 0 0 (fxLen d)
    dP d 6 5 != 0 || !((List.range (fxRows d)).all fun i => rowInside (operand s c d 0) (dP d 21 17) (dP d 47 32) i (fxLen d)) ||
    !fits (operand s c d 3) (fxRows d * (4 * rowWords (dP d 16 12) (fxLen d))) ||
    (decide (0 < fxRows d) && !(okP (operand s c d 1) && (!ln || okP (operand s c d 2))))
  units r := fxRows r.item.desc
  unit src c r s i :=
    let d := r.item.desc
    let of_ := dP d 16 12
    let eps := nmEps r (dP d 11 7)
    let x := fun (p : Nat) => (rowCodes (src p) (operand (src p) c d 0) (dP d 21 17) (dP d 47 32) i (fxLen d)).map (widen (dP d 21 17))
    let z := src (if ln then 2 else 1)
    let o := nmRow3 (lanes c) (ftzOf s c) ln of_ eps (x 0) (x (if ln then 1 else 0)) (x (if ln then 2 else 1)) (nmParam z c d 1) (if ln then nmParam z c d 2 else [])
    fxPut (setSticky s c (nmFlags &&& (eps.fl ||| flOr o))) (operand s c d 3) (i * (4 * rowWords of_ (fxLen d))) (packRow of_ (o.map (·.v)))

/-! ### ROTARY (R228, R229) -/

/-- cos and sin of 2π times the fractional part of the exact product P × ω, with the flags of ω (R229). A NaN ω makes both that NaN, quietened (R127);
an infinite one has no fractional part, an invalid operation: the canonical NaN with INV (R126). DEDUCED (log 74). -/
def rpAngle (ftz : Bool) (p : Int) (w : Nat) : NR × NR × Fl :=
  let i := flushIn ftz fFP32 w
  match fp i.v with
  | .fin n m e =>
    let x : Int := p * (if n then -Int.ofNat m else Int.ofNat m) * 2 ^ (Int.ofNat fixB + e).toNat
    let sc := sinCosTurn (x % 2 ^ fixB).toNat
    (roundIEEE fFP32 true ftz sc.2, roundIEEE fFP32 true ftz sc.1, i.fl)
  | .nan n q => (⟨nanCode fFP32 n q, flNone⟩, ⟨nanCode fFP32 n q, flNone⟩, i.fl)
  | .inf _ => (⟨canonNaN fFP32, flNone⟩, ⟨canonNaN fFP32, flNone⟩, i.fl ||| flINV)

/-- The exact sum of two products as a result. -/
def dot2 (a b c d : FVal) : ERes :=
  match mulX a b, mulX c d with
  | .invalid, _ => .invalid
  | _, .invalid => .invalid
  | p, q => addX (valOf p) (valOf q)

/-- The rotated pair in format `f` (R229). -/
def rpPair (f : Nat) (ftz : Bool) (x0 x1 cv sv : Nat) : NR × NR :=
  (fpTo f ftz [x0, x1, cv, sv] fun l => dot2 (get0 l) (get2 l) (fNeg (get1 l)) (l.getD 3 (.fin false 0 0)),
   fpTo f ftz [x0, x1, cv, sv] fun l => dot2 (get0 l) (l.getD 3 (.fin false 0 0)) (get1 l) (get2 l))

/-- Elements of pair `i` (R228). -/
def rpIdx (layout : Bool) (pr i : Nat) : Nat × Nat := if layout then (i, i + pr) else (2 * i, 2 * i + 1)

/-- One rotated row: codes and flags; elements from 2·p_r on pass unchanged (R229). -/
def rpRow (f : Nat) (ftz layout : Bool) (pr : Nat) (p : Int) (ws xs : List Nat) : List NR :=
  let none_ : NR × NR := (⟨0, flNone⟩, ⟨0, flNone⟩)
  let pairs := (List.range pr).map fun i =>
    let (a, b) := rpIdx layout pr i
    let (cv, sv, fl) := rpAngle ftz p (ws.getD i 0)
    let (y0, y1) := rpPair f ftz (widen f (xs.getD a 0)) (widen f (xs.getD b 0)) cv.v sv.v
    ((⟨y0.v, fl ||| cv.fl ||| sv.fl ||| y0.fl⟩ : NR), (⟨y1.v, y1.fl⟩ : NR))
  (List.range xs.length).map fun j =>
    if layout then
      if j < pr then (pairs.getD j none_).1 else if j < 2 * pr then (pairs.getD (j - pr) none_).2 else ⟨xs.getD j 0, flNone⟩
    else if j < 2 * pr then (if j % 2 = 0 then (pairs.getD (j / 2) none_).1 else (pairs.getD (j / 2) none_).2)
    else ⟨xs.getD j 0, flNone⟩

/-- Sticky flags that RP may set (Table 7-12). -/
def rpFlags : Fl := flSUB ||| flINV ||| flOVF

/-- Position of row `i` (R229). -/
def rpPos (s : State) (c : Nat) (r : RunOp) (i : Nat) : Int :=
  let d := r.item.desc
  if dPb d 5 then sext 32 ((rowCodes s (operand s c d 2) 4 0 0 (fxRows d)).getD i 0) else sext 32 (((r.sreg (dP d 4 0)).toNat + i) % 2 ^ 32)

/-- ROTARY (R228, R229). -/
def rotaryDef : FxDef where
  fault _ r :=
    let d := r.item.desc
    if 1 < dP d 21 17 ∨ 512 < fxRows d ∨ fxLen d < 2 * dP d 16 7 then some 0x0701 else none
  bad s c r :=
    let d := r.item.desc
    let f := dP d 21 17
    !((List.range (fxRows d)).all fun i => rowInside (operand s c d 0) f (dP d 47 32) i (fxLen d)) ||
    !fits (operand s c d 3) (fxRows d * (4 * rowWords f (fxLen d))) ||
    (decide (0 < fxRows d) && !fits (operand s c d 1) (4 * dP d 16 7)) || (dPb d 5 && !fits (operand s c d 2) (4 * fxRows d))
  units r := fxRows r.item.desc
  unit src c r s i :=
    let d := r.item.desc
    let f := dP d 21 17
    let z := src 0
    let o := rpRow f (ftzOf s c) (dPb d 6) (dP d 16 7) (rpPos z c r i) (rowCodes z (operand z c d 1) 0 0 0 (dP d 16 7))
      (rowCodes z (operand z c d 0) f (dP d 47 32) i (fxLen d))
    fxPut (setSticky s c (rpFlags &&& flOr o)) (operand s c d 3) (i * (4 * rowWords f (fxLen d))) (packRow f (o.map (·.v)))

/-! ### UNPACK, SPLIT (R230-R232) -/

/-- Whole elements of a format in a number of bytes (R230). -/
def elemsIn (f n : Nat) : Nat := if f = 9 then 5 * n else if fmtBits f = 0 then 0 else 8 * n / fmtBits f

/-- The pairs of Table 7-4. -/
def unpackPair (f x : Nat) : Bool :=
  if f = 9 then x == 8 || x == 5 || x == 1 || x == 0
  else if f = 8 ∨ f = 7 then x == 5 || x == 1 || x == 0
  else if 0xA ≤ f ∧ f ≤ 0x10 then x == 2 || x == 3 || x == 5 || x == 1 || x == 0
  else false

/-- The value of the outlier of a key, zero where the list holds none (R120, R121). -/
def outlierVal (ls : List (BitVec 32)) (key : Nat) : FVal :=
  match ls.find? fun w => 32 * bits w.toNat 18 0 + bits w.toNat 23 19 == key with
  | some w => decF fE4M3 (bits w.toNat 31 24)
  | none => .fin false 0 0

/-- Bytes and whole elements of a source (R230). -/
def srcBytes (s : State) (c : Nat) (r : RunOp) : Nat := match operand s c r.item.desc 0 with
  | some o => o.bytes
  | none => 0
def srcElems (s : State) (c : Nat) (r : RunOp) : Nat := elemsIn (dP r.item.desc 63 59) (srcBytes s c r)

/-- UNPACK (R231). -/
def unpackDef : FxDef where
  fault _ r := if unpackPair (dP r.item.desc 63 59) (dP r.item.desc 58 54) then none else some 0x0702
  bad s c r :=
    let d := r.item.desc
    let n := srcElems s c r
    dP d 44 0 != 0 || !fits (operand s c d 3) (fmtBytes (dP d 58 54) n) || (fmtBlock (dP d 63 59) && !fits (operand s c d 1) (cdiv n 32))
  units _ := 1
  unit src c r s _ :=
    let d := r.item.desc
    let f := dP d 63 59
    let x := dP d 58 54
    let z := src 0
    let n := srcElems s c r
    let ftz := ftzOf s c
    let bs := match operand z c d 0 with
      | some o => opRead z o 0 (srcBytes s c r)
      | none => []
    let t := zbScale ftz f x (fxParam r (dP d 49 45) fOne)
    let scs := rowCodes z (operand z c d 1) 6 0 0 (if fmtBlock f then cdiv n 32 else 0)
    let (ls, bad) := if f = 0x10 ∧ dPb d 53 then screenOutliers (cdiv n 32) (opWords z (operand z c d 2)) else ([], false)
    let s := ternReport s c r (f == 9 && bs.any fun b => decide (243 ≤ b.toNat))
    let s := outlierReport s c r bad
    let out := (List.range n).map fun i =>
      let e := elemCode (byteAt bs) f i
      if fmtBlock f then
        let v := decBlock f e (scs.getD (i / 32) 0) (fp t.v) (outlierVal ls i) ftz
        let y := cvtElem 0 x (dWrap d) ftz v.v
        (⟨y.v, v.fl ||| y.fl ||| t.fl⟩ : NR)
      else cvtElem f x (dWrap d) ftz e
    fxPut (setSticky s c (flOr out)) (operand s c d 3) 0 (packElems x (out.map (·.v)))

/-- SPLIT (R232). -/
def splitDef : FxDef where
  fault _ r :=
    let d := r.item.desc
    if 1 < dP d 63 59 ∨ !pieceOk (dPb d 50) (dP d 52 51) (dP d 58 54) then some 0x0702 else none
  bad s c r :=
    let d := r.item.desc
    let n := srcElems s c r
    dP d 44 0 != 0 || !fits (operand s c d 3) (4 * cdiv n 4 + cdiv n 32)
  units _ := 1
  unit src c r s _ :=
    let d := r.item.desc
    let f := dP d 63 59
    let n := srcElems s c r
    let vs := encSource f (ftzOf s c) (rowCodes (src 0) (operand (src 0) c d 0) f 0 0 n)
    let bl := (blocks32 (cdiv n 32) (vs.map (·.1))).map (splitBlock (dPb d 50) (dP d 52 51))
    let el := packElems 6 (bl.map (·.codes)).flatten
    let fl := vs.foldl (fun a v => a ||| v.2) flNone ||| bl.foldl (fun a b => a ||| b.fl) flNone
    fxPut (setSticky s c fl) (operand s c d 3) 0 (padTo (4 * cdiv n 4) el ++ packElems 6 (bl.map (·.scale)))

/-! ### GATHER (R233, R234) -/

/-- The adapter slot pinned by a sequence slot, if any (R217, R234). -/
def gatherSlot (s : State) (sl : Nat) : Option Nat :=
  let x := s.slot sl
  if 128 ≤ sl ∨ x.state = .free ∨ 1024 ≤ x.aslot then none else some x.aslot

/-- What a `GATHER` writes: an undefined result, zeros with an event perhaps, or the bytes of adapter slot `a` (R233, R234, R409). -/
inductive GPlan where
  | undef
  | zeros
  | broken (a : Nat)
  | past
  | data (a : Nat)
deriving DecidableEq, Repr

/-- The plan of a `GATHER` in its start S-cycle. A slot without a pinned adapter needs no source (R234). -/
def gatherPlan (s : State) (c : Nat) (r : RunOp) : GPlan :=
  let d := r.item.desc
  match operand s c d 3 with
  | none => .undef
  | some y =>
    if dReserved d ∨ dP d 43 0 ≠ 0 then .undef
    else match gatherSlot s (dSlot d) with
      | none => .zeros
      | some a =>
        if (s.adap a).state = .broken ∨ (s.adap a).gen ≠ (s.slot (dSlot d)).agen then .broken a
        else if (operand s c d 0).isNone then .undef
        else if (regionAt (s.core c).actBank (dOperand d 0).1).size < (dOperand d 0).2.1 + a * dP d 63 44 * 1024 + y.bytes then .past
        else .data a

/-- The event of a plan: 0x0C05 for a broken slot or another generation (R409), 0x0703 for a read past the region (R234). -/
def gatherStart (c : Nat) (r : RunOp) (s : State) : State :=
  match gatherPlan s c r with
  | .broken a => raise s 0x0C05 0x11 [dSlot r.item.desc, a, s.sch.stepNo]
  | .past => raiseE s 0x0703 c r.eng (opPlace r)
  | _ => s

/-- Byte address in the beds of a `GATHER`'s adapter slot `a`. -/
def gatherAddr (s : State) (c : Nat) (d : Desc) (a : Nat) : Nat := (operandAny s c d 0).a + a * dP d 63 44 * 1024

/-- GATHER (R233, R234). -/
def gatherOp (c : Nat) (r : RunOp) (s : State) : State :=
  let d := r.item.desc
  let dst := operand s c d 3
  let n := (operandAny s c d 3).bytes
  match gatherPlan s c r with
  | .undef => opUndef s dst
  | .data a => fxPut s dst 0 (bedRead s (gatherAddr s c d a) n)
  | _ => fxPut (gatherStart c r s) dst 0 (List.replicate n 0#8)

/-! ### SAMPLE (R240-R245) -/

/-- The generator's constants (Table 7-10). -/
def mixAdd (i : Nat) : BitVec 64 :=
  match i with
  | 0 => 0x2D8F61A4C35B0E97#64
  | 1 => 0x5B13E4C287A9D03F#64
  | 2 => 0x8E073BD61F95A624#64
  | _ => 0x1C64F9A8B2307DE5#64
def mixMul (i : Nat) : BitVec 64 :=
  match i with
  | 0 => 0x9E6C63D0676A9A99#64
  | 1 => 0xA3D95E710C48F2B5#64
  | 2 => 0xD4B207C93E8165AB#64
  | _ => 0x6F5AC1E39B470D2F#64

/-- One round of the generator (R244). -/
def mixRound (x : BitVec 64) (i : Nat) : BitVec 64 :=
  let x := x + mixAdd i
  let x := x ^^^ (x >>> 29)
  let x := x * mixMul i
  x ^^^ (x >>> 32)

/-- The generator (R244). -/
def mix (key ctr : BitVec 64) : BitVec 64 := [0, 1, 2, 3].foldl mixRound (ctr ^^^ key)

/-- A candidate: token index and its z (FP32 code). -/
structure Cand where
  tok : Nat
  z : Nat
deriving DecidableEq, Repr

/-- Whether candidate `a` comes before `b`: descending z, ascending index (R241). -/
def candBefore (a b : Cand) : Bool := fpLt fFP32 b.z a.z || (!fpLt fFP32 a.z b.z && decide (a.tok < b.tok))

/-- Inserts a candidate in order. -/
def candInsert (a : Cand) : List Cand → List Cand
  | [] => [a]
  | b :: r => if candBefore a b then a :: b :: r else b :: candInsert a r

/-- The first `k` candidates in order (R241). -/
def candTop (k : Nat) (l : List Cand) : List Cand := l.foldl (fun acc a => (candInsert a acc).take k) []

/-- The weight of a candidate: 2^(z − m), correctly rounded (R242). -/
def candW (ftz : Bool) (m z : Nat) : NR :=
  if m = infCode fFP32 then ⟨if z = infCode fFP32 then fOne else 0, flNone⟩
  else roundIEEE fFP32 true ftz (exp2X (valOf (addX (fp z) (fNeg (fp m)))))

/-- Running sums S_j (R242). -/
def runSums (ftz : Bool) : Option NR → List NR → List NR
  | _, [] => []
  | none, w :: r => w :: runSums ftz (some w) r
  | some a, w :: r =>
    let b := addNR ftz a w
    b :: runSums ftz (some b) r

/-- Largest z of the candidates. -/
def candMax (l : List Cand) : Nat := l.foldl (fun m a => if fpLt fFP32 m a.z then a.z else m) fNegInf

/-- The seed of a slot: 0 for a FREE slot or no slot (Table 7-9). -/
def slotSeed (s : State) (sl : Nat) : BitVec 64 := if 128 ≤ sl ∨ (s.slot sl).state = .free then 0#64 else (s.slot sl).seed

/-- The sample record: token, z, w, W′ (R245). -/
def sampleRec (tok z w wp : Nat) : List Byte := leBytes 4 tok ++ leBytes 4 z ++ leBytes 4 w ++ leBytes 4 wp

/-- Result and flags of a sample over the z values (R241-R245); the Bool says that no candidate is finite (event 0x0705). -/
def sampleDraw (ftz greedy : Bool) (topk pBound : Nat) (h : Nat) (zs : List Nat) : List Byte × Fl × Bool :=
  let all := (List.range zs.length).map fun i => (⟨i, zs.getD i 0⟩ : Cand)
  if greedy then
    match candTop 1 all with
    | a :: _ => (sampleRec a.tok a.z fOne fOne, flNone, false)
    | [] => (sampleRec 0 fNegInf 0 0, flNone, true)
  else
    let cs := if topk = 0 then all else candTop topk all
    let m := candMax cs
    if m = fNegInf then (sampleRec 0 fNegInf 0 0, flNone, true)
    else
      let ws := cs.map fun a => candW ftz m a.z
      let ss := runSums ftz none ws
      let w := ss.getLast?.getD ⟨0, flNone⟩
      let pn := fIsNan (fp pBound)
      let bnd := fpMul fFP32 ftz (if pn then fOne else pBound) w.v
      let cut := if topk = 0 then cs.length else match ss.findIdx? fun x => !fpLt fFP32 x.v bnd.v with
        | some j => j + 1
        | none => cs.length
      let wp := ss.getD (cut - 1) ⟨0, flNone⟩
      let u := (roundIEEE fFP32 true false (.ex false h (-24) false)).v
      let t := fpMul fFP32 ftz wp.v u
      let j := match (ss.take cut).findIdx? fun x => fpLt fFP32 t.v x.v with
        | some j => j
        | none => cut - 1
      let a := cs.getD j ⟨0, 0⟩
      (sampleRec a.tok a.z (ws.getD j ⟨0, flNone⟩).v wp.v,
        flOr ws ||| w.fl ||| t.fl ||| (if topk = 0 then flNone else bnd.fl ||| (if pn then flNANZ else flNone)), false)

/-- SAMPLE (R240-R245). It draws in its last S-cycle with the slot table of its start, which no Weir can change in between (R29). -/
def sampleDef : FxDef where
  fault _ r := if 1 < dP r.item.desc 45 41 ∨ 1024 < dP r.item.desc 40 30 then some 0x0706 else none
  bad s c r :=
    let d := r.item.desc
    dP d 2 0 != 0 || (dP d 63 46 != 0 && (!rowInside (operand s c d 0) (dP d 45 41) 0 0 (dP d 63 46) || !fits (operand s c d 3) 16))
  units r := if dP r.item.desc 63 46 = 0 then 0 else 1
  unit src c r s _ :=
    let d := r.item.desc
    let f := dP d 45 41
    let ftz := ftzOf s c
    let a := fxParam r (dP d 28 24) fOne
    let zs := (rowCodes (src 0) (operand (src 0) c d 0) f 0 0 (dP d 63 46)).map fun x =>
      let z := fpMul fFP32 ftz (widen f x) a
      if fIsNan (fp z.v) then (⟨fNegInf, z.fl ||| flNANZ⟩ : NR) else z
    let pos := ((r.sreg (dP d 18 14)).toNat + dP d 13 11) % 2 ^ 32
    let ctr := BitVec.ofNat 64 (2 ^ 32 * pos + 2 ^ 24 * dP d 10 3)
    let h := (mix (slotSeed s (dSlot d)) ctr).toNat / 2 ^ 40
    let (bs, fl, none_) := sampleDraw ftz (dPb d 29) (dP d 40 30) (fxParam r (dP d 23 19) fOne) h (zs.map (·.v))
    let s := setSticky s c ((flNANZ ||| flSUB) &&& (flOr zs ||| fl))
    fxPut (s.cond none_ fun s => raiseE s 0x0705 c r.eng (opPlace r)) (operand s c d 3) 0 bs

/-! ### VERIFY (R246-R248) -/

/-- Accepted drafts: the longest common prefix (R247). -/
def acceptLen : List (BitVec 32) → List (BitVec 32) → Nat
  | d :: ds, t :: ts => if d = t then acceptLen ds ts + 1 else 0
  | _, _ => 0

/-- Whether this chip has the commit role (R56). -/
def commitRole (s : State) : Bool :=
  match s.dev.img with
  | some im => im.commit
  | none => false

/-- The commit of a verify (R248): handed over, or ignored with event 0x0707. An undefined `VERIFY` keeps back its own commit only. -/
def verifyCommit (s : State) (c : Nat) (r : RunOp) (k : Nat) (toks : List (BitVec 32)) : State :=
  let sl := dSlot r.item.desc
  if !commitRole s ∨ 128 ≤ sl ∨ s.srv.commits.any (fun x => x.slot == sl) then raiseE s 0x0707 c r.eng (opPlace r)
  else s.mapSrv fun v => { v with commits := v.commits ++ [{ slot := sl, n := toks.length, k := k, toks := toks }] }

/-- Whether a `VERIFY` has an undefined result (R79, R248). -/
def verifyBad (s : State) (c : Nat) (r : RunOp) : Bool :=
  let d := r.item.desc
  let k := dP d 63 61
  dReserved d || dP d 59 0 != 0 || !fits (operand s c d 0) (4 * k) || !fits (operand s c d 1) (4 * k + 4) || !fits (operand s c d 3) (4 * k + 8)

/-- An undefined `VERIFY`: event 0x0707, and no commit of its own (R248). -/
def verifyUndef (c : Nat) (r : RunOp) (s : State) : State :=
  raiseE (opUndef s (operand s c r.item.desc 3)) 0x0707 c r.eng (opPlace r)

/-- The result and the commit of a `VERIFY` from the tokens read in `src` (R247, R248). -/
def verifyPut (src : State) (c : Nat) (r : RunOp) (s : State) : State :=
  let d := r.item.desc
  let k := dP d 63 61
  let w := fun (l : List Nat) => l.map (BitVec.ofNat 32)
  let ds := w (rowCodes src (operand src c d 0) 4 0 0 k)
  let ts := w (rowCodes src (operand src c d 1) 4 0 0 (k + 1))
  let n := acceptLen ds ts + 1
  let words := BitVec.ofNat 32 n :: (ts.take n ++ List.replicate (k + 1 - n) 0xFFFFFFFF#32)
  let s := fxPut s (operand s c d 3) 0 (words.flatMap fun x => leBytes 4 x.toNat)
  s.cond (dPb d 60) fun s => verifyCommit s c r k (ts.take n)

/-- VERIFY (R246-R248). -/
def verifyOp (c : Nat) (r : RunOp) (s : State) : State := if verifyBad s c r then verifyUndef c r s else verifyPut s c r s

/-! ### Meanings -/

/-- SOFTMAX (R223). -/
def execSoftmax (c : CoreId) (s : State) : Host.Outcome State Fault Refusal := .next (withOp s c.val 5 0x30 (softmaxDef.op c.val))
/-- RMSNORM (R227). -/
def execRmsnorm (c : CoreId) (s : State) : Host.Outcome State Fault Refusal := .next (withOp s c.val 6 0x40 ((normDef false).op c.val))
/-- LAYERNORM (R227). -/
def execLayernorm (c : CoreId) (s : State) : Host.Outcome State Fault Refusal := .next (withOp s c.val 6 0x41 ((normDef true).op c.val))
/-- ROTARY (R229). -/
def execRotary (c : CoreId) (s : State) : Host.Outcome State Fault Refusal := .next (withOp s c.val 7 0x50 (rotaryDef.op c.val))
/-- UNPACK (R231). -/
def execUnpack (c : CoreId) (s : State) : Host.Outcome State Fault Refusal := .next (withOp s c.val 8 0x60 (unpackDef.op c.val))
/-- SPLIT (R232). -/
def execSplit (c : CoreId) (s : State) : Host.Outcome State Fault Refusal := .next (withOp s c.val 8 0x61 (splitDef.op c.val))
/-- GATHER (R233). -/
def execGather (c : CoreId) (s : State) : Host.Outcome State Fault Refusal := .next (withOp s c.val 9 0x70 (gatherOp c.val))
/-- SAMPLE (R241). -/
def execSample (c : CoreId) (s : State) : Host.Outcome State Fault Refusal := .next (withOp s c.val 10 0x80 (sampleDef.op c.val))
/-- VERIFY (R247). -/
def execVerify (c : CoreId) (s : State) : Host.Outcome State Fault Refusal := .next (withOp s c.val 11 0x90 (verifyOp c.val))

end Sys2Proof.Machine
end

