-- ==== Sys2Proof/Machine/Record.lean ====
section
/-! DEFINITION. The input recorder and the replay of its log (R536-R543): log entries, the log in the replay-log partition, and the matching of
entries in a replay. -/

namespace Sys2Proof.Machine

/-- Whether the input recorder records. -/
def recording (s : State) : Bool := s.inp.status == 0

/-- An entry as the log holds it: 16-byte header, payload padded to a multiple of 16 (R537). -/
def entryBytes (e : InEntry) : List Byte :=
  leBytes 1 e.kind ++ [0#8, 0#8, 0#8] ++ leBytes 4 e.data.length ++ leBytes 8 e.scyc ++ padTo (16 * cdiv e.data.length 16) e.data

/-- Bytes of the entries in the staging buffer (R538). -/
def stagedBytes (s : State) : Nat := sumN (s.inp.entries.map fun e => (entryBytes e).length)

/-- Enters an input-record entry; an entry that does not fit stops the recorder with STATUS 1 and event 0x1102 (R538). -/
def inpAdd (s : State) (kind scyc : Nat) (data : List Byte) : State :=
  if recording s then
    let e : InEntry := { kind := kind, scyc := scyc, data := data }
    let n := stagedBytes s + (entryBytes e).length
    let room := match logPart s with
      | some p => p.2
      | none => 0
    if 4194304 < n ∨ room < s.inp.end_ + n then raise (inpStop s 1) 0x1102 0x13 []
    else { s with inp := { s.inp with entries := s.inp.entries ++ [e] } }
  else s

/-- Inserts an entry in ascending SCYC, then ascending KIND (R537). -/
def entryInsert (e : InEntry) : List InEntry → List InEntry
  | [] => [e]
  | x :: r => if e.scyc < x.scyc ∨ (e.scyc = x.scyc ∧ e.kind < x.kind) then e :: x :: r else x :: entryInsert e r

/-- Entries in log order (R537). -/
def entrySort (l : List InEntry) : List InEntry := l.foldl (fun a e => entryInsert e a) []

/-- Writes the staged entries to the log once their STEP entry is in, and updates END and LASTSTEP (R538). -/
def inpFlush (s : State) (step : Nat) : State :=
  if recording s then
    let bs := ((entrySort s.inp.entries).map entryBytes).flatten
    let e := s.inp.end_ + bs.length
    let s := logWrite (logWrite s s.inp.end_ bs) 80 (leBytes 8 e ++ leBytes 8 step)
    { s with inp := { s.inp with entries := [], end_ := e, bytes := e } }
  else s

/-- The output digest of a step: its Tributary output, then its packets (R539). -/
def outDigest (s : State) : List Byte := shake32 ((s.trib.outStep.map (·.2)).flatten ++ s.sch.outDig)

/-- The log header (Table 17-3). -/
def logHeader (s : State) : List Byte :=
  leBytes 4 0x4C505252 ++ leBytes 2 1 ++ leBytes 2 s.dev.lat ++ leBytes 1 (if s.dev.b0 then 0xB0 else 0xA0) ++ leBytes 1 s.inp.mode ++
    List.replicate 6 0#8 ++ (lastDigest s 0x30).take 32 ++ (lastDigest s 0x40).take 32 ++ leBytes 8 128 ++ List.replicate 40 0#8

/-- Entry into RUNNING with the recorder's mode set (R536). -/
def inpStart (s : State) : State :=
  if s.inp.mode = 0 then { s with inp := { s.inp with status := 4 } }
  else match logPart s with
    | none => raise { s with inp := { s.inp with status := 4 } } 0x1103 0x13 []
    | some _ =>
      let s := logWrite s 0 (logHeader s)
      raise { s with inp := { s.inp with status := 0, entries := [], end_ := 128, bytes := 128 } } 0x1101 0x13 [s.inp.mode]

/-! ### Replay (R540-R543) -/

/-- A replay mismatch: event 0x1104 with step and kind, and the count (R542). -/
def mismatch (s : State) (kind : Nat) : State :=
  raise { s with inp := { s.inp with mism := sat32 s.inp.mism } } 0x1104 0x13 [s.sch.stepNo, kind]

/-- Takes the first unconsumed entry of the log that satisfies `p`. -/
def replayTake (s : State) (p : InEntry → Bool) : Option InEntry × State :=
  (s.inp.left.find? p, { s with inp := { s.inp with left := dropFirst p s.inp.left } })

/-- Reads log entries from byte offset `o` up to the end of the log. -/
def logParse (rd : Nat → Nat → List Byte) (end_ : Nat) : Nat → Nat → List InEntry
  | 0, _ => []
  | n + 1, o =>
    if o + 16 ≤ end_ then
      let h := rd o 16
      let len := fieldAt h 4 4
      { kind := fieldAt h 0 1, scyc := fieldAt h 8 8, data := rd (o + 16) len } :: logParse rd end_ n (o + 16 + 16 * cdiv len 16)
    else []

/-- A field of the log header in the replay-log partition. -/
def logField (s : State) (o n : Nat) : Nat :=
  match partFind s 5 with
  | some p => leNat (bedRead s (p.1 + o) n)
  | none => 0

/-- Whether RUN accepts the log to replay (R540). -/
def replayOk (s : State) : Bool :=
  match partFind s 5 with
  | none => false
  | some p =>
    logField s 0 4 == 0x4C505252 && logField s 4 2 == 1 && logField s 6 2 == s.dev.lat && bedRead s (p.1 + 16) 32 == (lastDigest s 0x30).take 32 &&
    bedRead s (p.1 + 48) 32 == (lastDigest s 0x40).take 32 && decide (logField s 80 8 ≤ p.2) && s.inp.mode == 0

/-- Loads the log for a replay (R540, R541). -/
def replayStart (s : State) : State :=
  match partFind s 5 with
  | some p =>
    let e := logField s 80 8
    { s with inp := { s.inp with
        replaying := true, chip := logField s 9 1 == 2, lastStep := logField s 88 8
        left := logParse (fun o n => bedRead s (p.1 + o) n) e (e / 16) 128 } }
  | none => s

/-- Whether the job replays a chip-mode log (R541). -/
def chipReplay (s : State) : Bool := s.inp.replaying && s.inp.chip

end Sys2Proof.Machine
end

