-- ==== Sys2Proof/Machine/Serving.lean ====
section
/-! DEFINITION. The serving controller (chapter 12): the replicated slot table, slot updates and commit reports, requests and admission, commits,
speculation, adapters, budgets, and the meanings of the serving commands. -/

namespace Sys2Proof.Machine

/-! ### Roles and configuration -/

/-- Whether the chip has the entry role (R56, R380). -/
def entryRole (s : State) : Bool :=
  match s.dev.img with
  | some im => im.entry
  | none => false

/-- Stages S_g, pass period P, largest draft length, chunk C (Table 12-1). -/
def cSg (s : State) : Nat := conf s 2
def cP (s : State) : Nat := conf s 3
def cKmax (s : State) : Nat := conf s 4
def cChunk (s : State) : Nat := conf s 5

/-- Number of chunks n_c (R383). -/
def nChunks (s : State) (plen : Nat) : Nat := cdiv plen (max 1 (cChunk s))

/-- A serving event: it names what is concerned, and the step (R414). -/
def raiseV (s : State) (id : Nat) (items : List Nat) : State := raise s id 0x11 (items ++ [s.sch.stepNo])

/-- Code of a slot state (Table 12-2). -/
def slotCode : SlotState → Nat
  | .free => 0 | .prefill => 1 | .decode => 2 | .parked => 3 | .ending => 4

/-- Whether park is requested (`AFLAGS[3]`). -/
def Slot.parkReq (x : Slot) : Bool := x.aflags.getLsbD 3

/-- Sets or clears the park request. -/
def Slot.setPark (x : Slot) (b : Bool) : Slot := { x with aflags := if b then x.aflags ||| 8#8 else x.aflags &&& 0xF7#8 }

/-- The slot's limit on k (R403). -/
def kLimit (s : State) (x : Slot) : Nat := if x.aflags.getLsbD 2 then 0 else cKmax s

/-- The 96-byte slot record (Table 12-2). -/
def slotBytes (s : State) (x : Slot) : List Byte :=
  leBytes 1 (slotCode x.state) ++ leBytes 1 x.k ++ leBytes 2 x.acc ++ leBytes 2 x.tenant ++ leBytes 2 x.aslot ++ leBytes 1 x.agen ++
  leBytes 1 x.aflags.toNat ++ leBytes 1 x.pfg ++ leBytes 1 x.status ++ leBytes 4 x.start ++ leBytes 4 x.plen ++ leBytes 4 x.maxnew ++
  leBytes 4 x.ntok ++ leBytes 4 x.l ++ leBytes 2 x.probe ++ leBytes 2 x.pend.length ++
  padTo 16 (x.pend.map fun q => leBytes 4 (q.step % 16777216 * 256 + q.rows)).flatten ++ leBytes 4 x.freeat ++ leBytes 8 x.seed.toNat ++
  leBytes 8 x.arrival ++ leBytes 4 x.ttft ++ leBytes 4 x.tbt ++ leBytes 4 x.tempf.toNat ++ leBytes 2 x.topk ++ leBytes 2 x.topp ++
  leBytes 8 (if commitRole s then x.lasttick else 0)

/-! ### Step view (R385, Table 12-5) -/

/-- Rows and position of a slot at this chip's stage in this step. Of a turn that ended in PREFILL, the chunks that had entered stage 0 before run to
their end (R404). -/
def viewRows (s : State) (x : Slot) : Nat × Nat :=
  let t := s.sch.stepNo
  let st := x.start + conf s 1
  let p := (t - st) * cChunk s
  let chunk := if st ≤ t ∧ t - st < nChunks s x.plen then some (min (p + cChunk s) x.plen - p) else none
  if x.state = .prefill then (match chunk with
    | some r => (r, p)
    | none => (0, x.l))
  else if x.state = .ending ∧ x.start + (t - st) + cSg s < x.freeat ∧ chunk.isSome then (chunk.getD 0, x.l)
  else (sumN ((x.pend.filter fun q => q.step + conf s 1 == t).map fun q => q.rows), x.l)

/-- Draft length of the pass that enters stage 0 in this step; the record's K where none enters. -/
def viewK (s : State) (x : Slot) : Nat :=
  match x.pend.find? fun q => q.step == s.sch.stepNo with
  | some q => q.rows - 1
  | none => x.k

/-- Top-p bound as FP32: v / 65,536, 0 for 1.0 (Table 12-2). -/
def toppF (v : Nat) : Nat := (roundIEEE fFP32 true false (.ex false (if v = 0 then 65536 else v) (-16) false)).v

/-- One step-view record (Table 12-5). -/
def viewRec (s : State) (i : Nat) : List Byte :=
  let x := s.slot i
  let (rows, pos) := viewRows s x
  leBytes 1 (slotCode x.state) ++ leBytes 1 (viewK s x) ++ leBytes 2 rows ++ leBytes 4 pos ++ leBytes 4 (kvBound s i) ++ leBytes 4 x.ntok ++
  leBytes 4 x.tempf.toNat ++ leBytes 4 (toppF x.topp) ++ leBytes 2 x.topk ++ leBytes 1 x.aflags.toNat ++ leBytes 1 x.pfg ++ leBytes 4 x.plen

/-- The step view of all slots (R385). -/
def viewAll (s : State) : List Byte := (List.range 128).flatMap (viewRec s)

/-! ### Responses (R391, Table 12-9) -/

/-- Sends a response of 64 bytes on the Tributary port. -/
def sendResp (s : State) (bs : List Byte) : State := s.mapSrv fun v => { v with out := v.out ++ [padTo 64 bs] }

/-- `ADMITTED`. -/
def respAdmitted (s : State) (reqid slot start : Nat) : State :=
  sendResp s (leBytes 2 0x201 ++ leBytes 2 0 ++ leBytes 4 reqid ++ leBytes 4 slot ++ leBytes 4 start)

/-- `REFUSED`, counted, with event 0x0C01 (R393). -/
def respRefused (s : State) (reqid status : Nat) : State :=
  let s := sendResp s (leBytes 2 0x202 ++ leBytes 2 0 ++ leBytes 4 reqid ++ leBytes 1 status)
  raiseV (s.mapSrv fun v => { v with refN := sat32 v.refN }) 0x0C01 [reqid, status]

/-- `TOKENS` of a commit whose first token has index `idx` in the turn. -/
def respTokens (s : State) (i idx : Nat) (toks : List (BitVec 32)) : State :=
  sendResp s (leBytes 2 0x203 ++ leBytes 1 i ++ leBytes 1 toks.length ++ leBytes 4 (s.slot i).start ++ leBytes 8 idx ++ leBytes 8 s.now ++
    ((List.range 8).map fun j => leBytes 4 (toks.getD j 0xFFFFFFFF#32).toNat).flatten)

/-- `ENDED` (R404), sent by the commit chip. -/
def respEnded (s : State) (i status : Nat) : State :=
  let m := s.cmt i
  if commitRole s then
    sendResp s (leBytes 2 0x204 ++ leBytes 1 i ++ leBytes 1 status ++ leBytes 4 (s.slot i).start ++ leBytes 8 m.count ++
      leBytes 8 (if m.count = 0 then 0 else m.ttft) ++ leBytes 8 m.longest ++ leBytes 4 m.overN)
  else s

/-! ### The slot table at a Weir (R383, R384, R402, R403) -/

/-- A slot enters ENDING (Table 12-3, R404); `t` is the step that begins. -/
def slotEnd (s : State) (i status : Nat) : State :=
  let s := s.mapSlot i fun x => { x with state := .ending, status := status, freeat := s.sch.stepNo + cSg s }
  respEnded s i status

/-- Whether a slot is PREFILL, DECODE or PARKED. -/
def slotLive (x : Slot) : Bool := x.state == .prefill || x.state == .decode || x.state == .parked

/-- Speculation after a resolved pass of `rows` rows with n tokens (R403). -/
def specUpdate (s : State) (x : Slot) (n rows : Nat) (probe : Bool) : Slot :=
  if rows < 2 then x else
  let v := 4096 * (n - 1) / (rows - 1)
  let acc := (Int.ofNat x.acc + (Int.ofNat v - Int.ofNat x.acc) / 8).toNat
  if probe then (if n = 2 then { x with k := 1, acc := 2048 } else { x with acc := acc })
  else if acc < conf s 11 ∧ 0 < x.k then { x with k := x.k - 1, acc := 2048, probe := if x.k = 1 then 0 else x.probe }
  else if conf s 12 ≤ acc ∧ x.k < kLimit s x then { x with k := x.k + 1, acc := 2048 }
  else { x with acc := acc }

/-- A nibble of 1 to 8 for a slot in DECODE or PARKED (R402, R403). -/
def slotNibble (s : State) (x : Slot) (n : Nat) : Slot :=
  let x1 := { x with ntok := x.ntok + n, probe := if x.k = 0 then min (x.probe + n) 65535 else x.probe }
  if x.ntok = 0 then x1
  else match x.pend with
    | [] => x1
    | q :: r => specUpdate s { x1 with pend := r, l := x.l + n } n q.rows q.probe

/-- The nibble of one slot takes effect (R388, R402); one for an ENDING slot is ignored, one for a FREE slot raises event 0x0C06 (R383). -/
def applyNibble (s : State) (i n : Nat) : State :=
  let x := s.slot i
  if n = 0 ∨ (9 ≤ n ∧ n ≤ 14) then s
  else match x.state with
    | .ending => s
    | .free => raiseV s 0x0C06 [i]
    | .prefill => if n = 15 then slotEnd s i (if x.maxnew ≤ x.ntok then 1 else 0) else s.mapSlot i fun x => { x with ntok := x.ntok + n }
    | _ => if n = 15 then slotEnd s i (if x.maxnew ≤ x.ntok then 1 else 0) else s.mapSlot i fun x => slotNibble s x n

/-- Nibble `i` of a report (R388). -/
def nibble (bs : List Byte) (i : Nat) : Nat := (byteAt bs (i / 2)).toNat / 16 ^ (i % 2) % 16

/-- A commit report takes effect (R384 step 1). -/
def applyReport (s : State) (bs : List Byte) : State := s.each (List.range 128) fun s i => applyNibble s i (nibble bs i)

/-- Releases the pin of a slot (R409). -/
def unpin (s : State) (a : Nat) : State := if a < 1024 then s.mapAdap a fun x => { x with pins := x.pins - 1 } else s

/-- The timed transitions of one slot (R384 step 2, Table 12-3). -/
def slotTimed (s : State) (i : Nat) : State :=
  let x := s.slot i
  let t := s.sch.stepNo
  match x.state with
  | .ending =>
    if x.freeat ≤ t then
      let s := unpin s x.aslot
      let s := s.mapSlot i fun _ => {}
      let s := s.mapCmt i fun _ => {}
      s.mapBeds fun b => { b with kvLost := fset b.kvLost false i false }
    else s
  | .prefill => if x.start + nChunks s x.plen + cSg s ≤ t + 1 then s.mapSlot i fun x => { x with state := .decode, l := x.plen } else s
  | .decode =>
    if x.parkReq ∧ x.pend.isEmpty then
      let s := s.mapSlot i fun x => { x with state := .parked }
      let s := s.mapSrv fun v => { v with parkN := sat32 v.parkN, parkAt := fset v.parkAt 0 i s.now }
      raiseV s 0x0C02 [i, x.tenant]
    else s
  | _ => s

/-- Bytes of an adapter slot and its place in the adapter partition (R407). -/
def adBytes (s : State) : Nat := s.srv.adStride * 1024
def adBase (s : State) (a : Nat) : Option Nat := (partFind s 4).map fun p => p.1 + a * adBytes s

/-- The data of an adapter slot. -/
def adData (s : State) (a : Nat) : List Byte :=
  match adBase s a with
  | some b => bedRead s b (adBytes s)
  | none => []

/-- `PUBLISH` takes effect (R408): READY where VERIFIED, recorded as input; BROKEN with event 0x0C05 elsewhere. -/
def adPublish (s : State) (a : Nat) : State :=
  let x := s.adap a
  let s := s.each (List.range 1024) fun s j =>
    if j ≠ a ∧ (s.adap j).state = .ready ∧ (s.adap j).id = x.id then s.mapAdap j fun y => { y with state := .retiring } else s
  if x.state = .verified then
    let s := s.mapAdap a fun y => { y with state := .ready }
    let s := measure s 0x60 6 (sha3 (adData s a) ++ leBytes 2 a ++ leBytes 4 x.id ++ leBytes 1 x.gen)
    inpAdd s 7 (s.sch.sCycle - 1) (leBytes 2 a ++ leBytes 2 x.gen ++ leBytes 4 x.id ++ adData s a)
  else raiseV (s.mapAdap a fun y => { y with state := .broken }) 0x0C05 [a]

/-- A change record takes effect (R384 step 3, Table 12-7). -/
def applyChange (s : State) (r : List Byte) : State :=
  let k := (byteAt r 0).toNat
  let i := (byteAt r 1).toNat
  let a := fieldAt r 2 2
  let x := s.slot i
  if k = 1 ∧ i < 128 then (if x.state = .decode then s.mapSlot i fun x => x.setPark true else s)
  else if k = 2 ∧ i < 128 then
    if x.state = .parked ∨ (x.state = .decode ∧ x.parkReq) then s.mapSlot i fun x => { x.setPark false with state := .decode } else s
  else if k = 3 ∧ i < 128 then
    if slotLive x then slotEnd s i (byteAt r 2).toNat
    else if x.state = .free then raiseV s 0x0C06 [i] else s
  else if k = 4 ∧ a < 1024 then
    s.mapAdap a fun y => { y with state := .filling, id := fieldAt r 4 4, gen := i, dig := none }
  else if k = 5 ∧ a < 1024 then adPublish s a
  else if k = 6 ∧ a < 1024 then (if (s.adap a).state = .ready then s.mapAdap a fun y => { y with state := .retiring } else s)
  else raiseV s 0x0C06 [i]

/-- Prefill groups that a slot in PREFILL still uses at step t (R394, R397). -/
def groupsBusy (s : State) (t : Nat) : List Nat :=
  (List.range 128).filterMap fun i =>
    let x := s.slot i
    if x.state = .prefill ∧ t < x.start + nChunks s x.plen then some x.pfg else none

/-- The lowest-numbered prefill group free from step t on, besides those of `more` (R394). -/
def groupFree (s : State) (t : Nat) (more : List Nat) : Option Nat :=
  (List.range (conf s 6)).find? fun g => !(groupsBusy s t).contains g && !more.contains g

/-- An `ADMIT` record takes effect (R384 step 5, Table 12-6). Every chip takes the lowest free prefill group (R394). -/
def applyAdmit (s : State) (r : List Byte) : State :=
  let i := (byteAt r 0).toNat
  if 128 ≤ i ∨ (s.slot i).state ≠ .free then raiseV s 0x0C06 [i]
  else
    let t := s.sch.stepNo
    let x : Slot := {
      state := .prefill, k := (byteAt r 7).toNat % 8, acc := 2048, tenant := fieldAt r 2 2, aslot := fieldAt r 4 2, agen := (byteAt r 6).toNat
      aflags := byteAt r 1 &&& 7#8, pfg := (groupFree s t []).getD 0, start := t, plen := fieldAt r 8 4, maxnew := fieldAt r 12 4
      seed := BitVec.ofNat 64 (fieldAt r 16 8), arrival := fieldAt r 24 8, ttft := fieldAt r 32 4, tbt := fieldAt r 36 4
      tempf := BitVec.ofNat 32 (fieldAt r 40 4), topk := fieldAt r 44 2, topp := fieldAt r 46 2 }
    let s := (s.mapSlot i fun _ => x).mapCmt i fun _ => {}
    if x.aslot < 1024 then s.mapAdap x.aslot fun y => { y with pins := y.pins + 1 } else s

/-- A slot update takes effect (R384 steps 3-5, R405). -/
def applyUpdate (s : State) (u : List Byte) : State :=
  let f := byteAt u 4
  let s := s.cond (f.getLsbD 3) fun s => applyChange s ((u.drop 56).take 8)
  let s := s.cond (f.getLsbD 1) fun s => s.each (List.range 128) fun s i => if slotLive (s.slot i) then slotEnd s i 4 else s
  let s := s.cond (f.getLsbD 1) fun s => s.mapSrv fun v => { v with open_ := false }
  let s := s.cond (f.getLsbD 2) fun s => s.mapSrv fun v => { v with open_ := true }
  s.cond (f.getLsbD 0) fun s => applyAdmit s ((u.drop 8).take 48)

/-- Retired adapter slots without pins become FREE (R384 step 6, R409). -/
def adSettle (s : State) : State :=
  s.each (List.range 1024) fun s a => if (s.adap a).state = .retiring ∧ (s.adap a).pins = 0 then s.mapAdap a fun _ => {} else s

/-- Pass entry at stage 0 (R400, R403). -/
def passEnter (s : State) (i : Nat) : State :=
  let x := s.slot i
  let t := s.sch.stepNo
  if x.state = .decode ∧ !x.parkReq ∧ t % max 1 (cP s) = i % max 1 (cP s) ∧ x.pend.length < 4 then
    let pr := decide (x.k = 0 ∧ 0 < kLimit s x ∧ conf s 13 ≤ x.probe)
    let q : PendPass := { step := t, rows := if pr then 2 else x.k + 1, probe := pr }
    s.mapSlot i fun x => { x with pend := x.pend ++ [q], probe := if pr then 0 else x.probe }
  else s

/-- A slot seen PARKED or with park requested at a Weir does not count its interval (R412). -/
def markPark (s : State) (i : Nat) : State :=
  if (s.slot i).state = .parked ∨ (s.slot i).parkReq then s.mapCmt i fun m => { m with skipIv := true } else s

/-- The slot table at the Weir that begins step `stepNo` (R384, R398, R400): then the KV losses of the replayed step (R275) and the view. -/
def slotTableApply (s : State) : State :=
  let t := s.sch.stepNo
  let s := match s.srv.repIn.find? fun p => p.1 == t with
    | some p => applyReport s p.2
    | none => s
  let s := s.each (List.range 128) slotTimed
  let s := match s.srv.updIn.find? fun p => p.1 == t with
    | some p => applyUpdate s p.2
    | none => s
  let s := adSettle s
  let s := s.each (List.range 128) passEnter
  let s := s.each (List.range 128) markPark
  let same := fun (i : Nat) => (s.slot i).state != .free && !((s.slot i).state == .prefill && (s.slot i).start == t)
  let s := s.mapBeds fun b => { b with kvLost := (b.kvLossNext.filter same).foldl (fun m i => fset m false i true) b.kvLost, kvLossNext := [] }
  let s := s.mapSrv fun v => { v with
    repIn := v.repIn.filter fun p => decide (t < p.1), updIn := v.updIn.filter fun p => decide (t < p.1), update := none, prompt := [] }
  s.mapSrv fun v => { v with view := viewAll s }

/-! ### Commits (R401, R412) -/

/-- The stop set (R401). -/
def stopSet (s : State) : List (BitVec 32) :=
  ((List.range 8).map fun i => BitVec.ofNat 32 (fget s.srv.stops 0xFFFFFFFF (i + 1))).filter fun w => w != 0xFFFFFFFF#32

/-- Committed tokens after both truncations, and whether a stop token ends the turn (R401). -/
def cutTokens (s : State) (x : Slot) (count : Nat) (toks : List (BitVec 32)) : List (BitVec 32) × Bool :=
  let ts := toks.take (x.maxnew - count)
  if x.aflags.getLsbD 1 then (ts, false)
  else match ts.findIdx? fun w => (stopSet s).contains w with
    | some j => (ts.take (j + 1), true)
    | none => (ts, false)

/-- Times of a `TOKENS` response (R412). -/
def commitTimes (s : State) (i : Nat) : State :=
  let x := s.slot i
  let m := s.cmt i
  let s :=
    if m.count = 0 then
      let d := s.now - x.arrival
      let s := s.mapCmt i fun m => { m with ttft := d }
      if x.ttft ≠ 0 ∧ 1000 * x.ttft < d then raiseV (s.mapSrv fun v => { v with ttftN := sat32 v.ttftN }) 0x0C07 [i, x.tenant] else s
    else if m.skipIv then s
    else
      let d := s.now - x.lasttick
      let late := decide (x.tbt ≠ 0 ∧ 1000 * x.tbt < d)
      let s := s.mapCmt i fun m => { m with longest := max m.longest d, overN := if late then m.overN + 1 else m.overN }
      if late then s.mapSrv fun v => { v with tbtN := sat32 v.tbtN } else s
  let s := s.mapCmt i fun m => { m with skipIv := false }
  s.mapSlot i fun x => { x with lasttick := s.now }

/-- One commit (R401): the state, the tenant's tokens for the Gauge, and the slot's nibble. -/
def commitOne (a : State × List (Nat × Nat) × List (Nat × Nat)) (c : Commit1) : State × List (Nat × Nat) × List (Nat × Nat) :=
  let s := a.1
  let x := s.slot c.slot
  let m := s.cmt c.slot
  if x.state = .free ∨ x.state = .ending ∨ m.stopped then a
  else
    let (ts, hit) := cutTokens s x m.count c.toks
    if ts.isEmpty then a
    else
      let s := commitTimes (respTokens s c.slot m.count ts) c.slot
      let n := m.count + ts.length
      let stop := hit || decide (x.maxnew ≤ n)
      let s := s.mapCmt c.slot fun m => { m with count := n, stopped := stop, tell := stop }
      (s, addPairs a.2.1 [(x.tenant, ts.length)], a.2.2 ++ [(c.slot, ts.length)])

/-- A report from nibbles by slot (R388). -/
def reportBytes (f : Nat → Nat) : List Byte := (List.range 64).map fun j => BitVec.ofNat 8 (f (2 * j) + 16 * f (2 * j + 1))

/-- Commits applied at the Weir that ends step `stepNo`, and the report (R388, R401); a replay sends no COMMIT feed record (R543). -/
def commitApply (s : State) : State :=
  if commitRole s then
    let told := indices 128 fun i => (s.cmt i).tell
    let s := s.each told fun s i => s.mapCmt i fun m => { m with tell := false }
    let (s, ps, ns) := s.srv.commits.foldl commitOne (s, [], [])
    let f := fun i => match ns.find? fun p => p.1 == i with
      | some p => p.2
      | none => if told.contains i then 15 else 0
    let s := s.mapSrv fun v => { v with report := reportBytes f, commits := [] }
    if ps.isEmpty ∨ s.inp.replaying then s else feedPut s (.commit s.sch.stepNo ps)
  else s.mapSrv fun v => { v with commits := [] }

/-! ### Updates and reports received (R387-R389, R410) -/

/-- Inserts a slot number in the order of START, then number (R411). -/
def byStart (s : State) (i : Nat) : List Nat → List Nat
  | [] => [i]
  | j :: r => if (s.slot i).start < (s.slot j).start then i :: j :: r else j :: byStart s i r

/-- Updates composed whose effect step has not begun (R387). -/
def updAhead (s : State) : List (List Byte) :=
  (s.srv.updIn.filter fun p => decide (s.sch.stepNo < p.1)).map (·.2) ++ s.srv.update.toList

/-- Change records queued or sent and not yet in effect. -/
def changesAhead (s : State) : List (List Byte) :=
  s.srv.changes ++ ((updAhead s).filter fun u => (byteAt u 4).getLsbD 3).map fun u => (u.drop 56).take 8

/-- Whether a change of one of the kinds is on its way for a slot. -/
def changeAhead (s : State) (i : Nat) (ks : List Nat) : Bool :=
  (changesAhead s).any fun r => ks.contains (byteAt r 0).toNat && byteAt r 1 == BitVec.ofNat 8 i

/-- A change record for a slot (Table 12-7). -/
def slotChange (k i v : Nat) : List Byte := leBytes 1 k ++ leBytes 1 i ++ leBytes 2 v ++ leBytes 4 0

/-- Queues a change (R387). -/
def queueChange (s : State) (r : List Byte) : State := s.mapSrv fun v => { v with changes := v.changes ++ [r] }

/-- Signed budget of a tenant (R410). -/
def budget (s : State) (t : Nat) : Int := fget s.srv.budgets 0 t

/-- Queues the `PARK` or `RESUME` that a slot's budget calls for (R411). -/
def parkOne (s : State) (i : Nat) : State :=
  let x := s.slot i
  if changeAhead s i [1, 2, 3] then s
  else if x.state = .decode ∧ !x.parkReq ∧ budget s x.tenant ≤ 0 then queueChange s (slotChange 1 i 0)
  else if (x.state = .parked ∨ (x.state = .decode ∧ x.parkReq)) ∧ 0 < budget s x.tenant then queueChange s (slotChange 2 i 0)
  else s

/-- Queues every due `PARK` and `RESUME`, oldest `START` first (R411). -/
def parkScan (s : State) : State :=
  if entryRole s then s.each ((List.range 128).foldl (fun l i => byStart s i l) []) parkOne else s

/-- Adapter slots that no change on its way has taken. -/
def adFree (s : State) : Option Nat :=
  (List.range 1024).find? fun a =>
    (s.adap a).state == .free && !(changesAhead s).any fun r => byteAt r 0 == 4#8 && fieldAt r 2 2 == a

/-- Queues an `ALLOC` for an ID if a slot is FREE (R408). -/
def adAlloc (s : State) (id : Nat) : Option State :=
  (adFree s).map fun a =>
    let g := (fget s.srv.adGen 0 id + 1) % 256
    queueChange (s.mapSrv fun v => { v with adGen := fset v.adGen 0 id g }) (leBytes 1 4 ++ leBytes 1 g ++ leBytes 2 a ++ leBytes 4 id)

/-- Waiting allocations proceed while slots are FREE (R408); `n` bounds their number. -/
def adAllocScan : Nat → State → State
  | 0, s => s
  | n + 1, s =>
    match s.srv.adWait with
    | [] => s
    | id :: r => match adAlloc s id with
      | some s => adAllocScan n (s.mapSrv fun v => { v with adWait := r })
      | none => s

/-- Takes in a slot update when its receive completes (R387). -/
def takeUpdate (s : State) (bs : List Byte) : State :=
  let u := padTo 64 bs
  let s := s.mapSrv fun v => { v with gotUpd := true }
  if fieldAt u 0 4 = (s.sch.stepNo + 2) % 4294967296 then s.mapSrv fun v => { v with updIn := fset v.updIn [] (s.sch.stepNo + 2) u }
  else raiseV s 0x0C06 [fieldAt u 0 4]

/-- A tenant's budget pays for `n` committed tokens (R410). -/
def budgetPay (s : State) (t n : Nat) : State :=
  let b := budget s t
  s.mapSrv fun v => { v with
    budgets := fset v.budgets 0 t (b - n), committed := fset v.committed 0 t (fget v.committed 0 t + n)
    overdraw := if b ≤ 0 then fset v.overdraw 0 t (sat32n (fget v.overdraw 0 t) n) else v.overdraw }

/-- Takes in a commit report when its receive completes (R388); the entry chip charges the budgets (R410). -/
def takeReport (s : State) (bs : List Byte) : State :=
  let r := padTo 64 bs
  let s := s.mapSrv fun v => { v with gotRep := true, repIn := fset v.repIn [] (s.sch.stepNo + 2) r }
  if entryRole s then
    parkScan (s.each (List.range 128) fun s i =>
      let n := nibble r i
      if 1 ≤ n ∧ n ≤ 8 ∧ (s.slot i).state ≠ .free then budgetPay s (s.slot i).tenant n else s)
  else s

/-- A step that lacked a slot update or a commit report raises event 0x0C06 (R389). -/
def missingInputs (s : State) : State :=
  let u := s.srv.gotUpd
  let r := s.srv.gotRep
  let s := s.cond (!u) fun s => raiseV s 0x0C06 [conf s 8]
  let s := s.cond (!r) fun s => raiseV s 0x0C06 [conf s 9]
  s.mapSrv fun v => { v with gotUpd := false, gotRep := false }

/-! ### The decision point (R386, R394-R396) -/

/-- Mean wall duration of the last 64 steps (R395). -/
def meanStep (s : State) : Nat := if s.sch.stepTicks.isEmpty then 0 else sumN s.sch.stepTicks / s.sch.stepTicks.length

/-- Slack of a request (R395); none without a deadline. -/
def slack (s : State) (r : Req) : Option Int :=
  if r.ttft = 0 then none
  else some (Int.ofNat (r.arrival + 1000 * r.ttft) - s.now - (nChunks s r.plen + cSg s + 1) * meanStep s)

/-- Whether request `a` goes before `b`: least slack first, ties and requests without deadline by arrival (R394). -/
def reqBefore (s : State) (a b : Req) : Bool :=
  match slack s a, slack s b with
  | some x, some y => decide (x < y)
  | some _, none => true
  | none, some _ => false
  | none, none => false

/-- Inserts a request in the order of R394, equal ones in order of arrival. -/
def reqInsert (s : State) (a : Req) : List Req → List Req
  | [] => [a]
  | b :: r => if reqBefore s a b then a :: b :: r else b :: reqInsert s a r

/-- `ADMIT` records on their way. -/
def admitsAhead (s : State) : List (List Byte) :=
  ((updAhead s).filter fun u => (byteAt u 4).getLsbD 0).map fun u => (u.drop 8).take 48

/-- The lowest-numbered slot FREE or freed no later than step t (R394). -/
def slotFor (s : State) (t : Nat) : Option Nat :=
  (List.range 128).find? fun i =>
    let x := s.slot i
    (x.state == .free || (x.state == .ending && decide (x.freeat ≤ t))) && !(admitsAhead s).any fun r => byteAt r 0 == BitVec.ofNat 8 i

/-- Prefill groups that admissions on their way will take, in their order of effect (R394). -/
def groupsAhead (s : State) (t : Nat) : List Nat :=
  (admitsAhead s).foldl (fun l r =>
    match groupFree s (t - 1) l with
    | some g => if t ≤ t - 1 + nChunks s (fieldAt r 8 4) - 1 then l ++ [g] else l
    | none => l) []

/-- The 48 bytes of an `ADMIT` (Table 12-6). -/
def admitBytes (s : State) (sl : Nat) (ad : Option (Nat × Nat)) (r : Req) : List Byte :=
  let k := if r.flags.getLsbD 3 ∨ cKmax s = 0 then 0 else min r.kinit (cKmax s)
  let (a, g) := ad.getD (0xFFFF, 0)
  leBytes 1 sl ++ leBytes 1 (r.flags.toNat / 2 % 8) ++ leBytes 2 r.tenant ++ leBytes 2 a ++ leBytes 1 g ++ leBytes 1 k ++ leBytes 4 r.plen ++
  leBytes 4 r.maxnew ++ leBytes 8 r.seed.toNat ++ leBytes 8 r.arrival ++ leBytes 4 r.ttft ++ leBytes 4 r.tbt ++ leBytes 4 r.tempf.toNat ++
  leBytes 2 r.topk ++ leBytes 2 r.topp

/-- The prompt entries of an admission: 16 tokens an entry, zero-filled (Table 12-4). -/
def promptEntries (n : Nat) (toks : List (BitVec 32)) : List (List Byte) :=
  (List.range n).map fun j => padTo 64 (((toks.drop (16 * j)).take 16).flatMap fun w => leBytes 4 w.toNat)

/-- Considers the waiting requests in order (R394, R396): refuses those whose budget has fallen to 0 or below or whose adapter is no longer
published, admits the first other one. -/
def admitScan (t sl : Nat) : List Req → State → Option (List Byte) × State
  | [], s => (none, s)
  | r :: rs, s =>
    let s := s.mapSrv fun v => { v with store := dropFirst (fun x => x == r) v.store }
    let pub := fget s.srv.adPub 0xFFFF r.adapter
    if budget s r.tenant ≤ 0 then admitScan t sl rs (respRefused s r.reqid 0x40)
    else if r.flags.getLsbD 0 ∧ pub = 0xFFFF then admitScan t sl rs (respRefused s r.reqid 0x42)
    else
      let ad := if r.flags.getLsbD 0 then some (pub, (s.adap pub).gen) else none
      let s := respAdmitted s r.reqid sl t
      let s := s.mapSrv fun v => { v with admN := sat32 v.admN, prompt := promptEntries (conf s 7) r.tokens }
      (some (admitBytes s sl ad r), s)

/-- The admission of a decision point with effect step t, if one is made (R394). -/
def admitNext (s : State) (t : Nat) : Option (List Byte) × State :=
  if s.dev.state = .running ∧ s.srv.open_ then
    match slotFor s t, groupFree s t (groupsAhead s t) with
    | some sl, some _ => admitScan t sl (s.srv.store.foldl (fun l r => reqInsert s r l) []) s
    | _, _ => (none, s)
  else (none, s)

/-- The adapter slot that later admissions name, once a `PUBLISH` or `WITHDRAW` is sent (R396, R408). -/
def pubSent (s : State) (ch : Option (List Byte)) : State :=
  match ch with
  | none => s
  | some r =>
    let a := fieldAt r 2 2
    let id := (s.adap a).id
    if byteAt r 0 = 5#8 then s.mapSrv fun v => { v with adPub := fset v.adPub 0xFFFF id a }
    else if byteAt r 0 = 6#8 ∧ fget s.srv.adPub 0xFFFF id = a then s.mapSrv fun v => { v with adPub := fset v.adPub 0xFFFF id 0xFFFF }
    else s

/-- The decision point of a step (R386): fixes the slot update and the prompt entries. `CUT` goes with the update of the cut step, `OPEN` once
enough swap-ready notices are counted (R373, R405). -/
def servingDecision (s : State) : State :=
  if !entryRole s ∨ s.srv.update.isSome ∨ s.inp.replaying then s
  else
    let t := s.sch.stepNo + 2
    let s := adAllocScan s.srv.adWait.length (parkScan s)
    let ct := decide (s.srv.cut ≠ 0 ∧ s.srv.cut = t)
    let op := s.wts.swOpen
    let s := s.mapSrv fun v => { v with open_ := if ct then false else if op then true else v.open_ }
    let s := s.cond op fun s => s.mapWts fun w => { w with swOpen := false }
    let ch := s.srv.changes.head?
    let s := s.mapSrv fun v => { v with changes := v.changes.drop 1, prompt := promptEntries (conf s 7) [] }
    let (ad, s) := admitNext s t
    let s := pubSent s ch
    let f := (if ad.isSome then 1 else 0) + (if ct then 2 else 0) + (if op then 4 else 0) + (if ch.isSome then 8 else 0)
    let u := leBytes 4 t ++ leBytes 4 f ++ padTo 48 (ad.getD []) ++ padTo 8 (ch.getD [])
    s.mapSrv fun v => { v with update := some u }

/-- Entries that serving queue `q` offers in this step (R385, Table 12-4). -/
def servingEntries (s : State) (q : Nat) : List (List Byte) :=
  if q = 0x7C then (List.range 64).map fun i => padTo 64 (s.srv.view.drop (64 * i))
  else if q = 0x7D then (if entryRole s then s.srv.update.toList else [])
  else if q = 0x7E then (if commitRole s then [padTo 64 s.srv.report] else [])
  else if entryRole s then s.srv.prompt else []

/-- The serving state at entry into RUNNING (R382, R413): every record FREE, nothing of a slot on its way, the counters zero; adapter changes that wait
go out in the new job (log 8). -/
def servingStart (s : State) : State :=
  let s := s.mapSrv fun v => { v with
    slots := [], cm := [], changes := v.changes.filter fun r => decide (4 ≤ (byteAt r 0).toNat), update := none, prompt := [], repIn := [], updIn := [], gotUpd := false, gotRep := false
    report := [], commits := [], parkAt := [], committed := [], overdraw := [], reqN := 0, admN := 0, refN := 0, ttftN := 0, tbtN := 0, parkN := 0 }
  let s := s.mapSch fun k => { k with stepTicks := [], lastWeirTick := s.now }
  s.mapBeds fun b => { b with kvLost := [], kvLossNext := [] }

/-! ### Requests (R390, R393) -/

/-- Parses a request (Table 12-8). -/
def reqOf (s : State) (m : List Byte) : Req :=
  let plen := fieldAt m 16 4
  { flags := BitVec.ofNat 16 (fieldAt m 2 2), reqid := fieldAt m 4 4, tenant := fieldAt m 8 2, adapter := fieldAt m 12 4, plen := plen
    maxnew := fieldAt m 20 4, seed := BitVec.ofNat 64 (fieldAt m 24 8), ttft := fieldAt m 32 4, tbt := fieldAt m 36 4
    tempf := BitVec.ofNat 32 (fieldAt m 40 4), topk := fieldAt m 44 2, topp := fieldAt m 46 2, kinit := (byteAt m 48).toNat
    tokens := (List.range ((m.length - 64) / 4)).map fun i => BitVec.ofNat 32 (fieldAt m (64 + 4 * i) 4), arrival := s.now }

/-- Positions per plane (R267). -/
def planePositions (s : State) : Nat :=
  if s.beds.kvS = 0 ∨ s.beds.kvQ = 0 ∨ s.beds.kvU = 0 then 0 else max s.beds.kvQ s.beds.kvU / s.beds.kvU

/-- The refusal status of an arriving request, in the order of the model (log 8); none when it is stored (R393, Table 12-10). -/
def reqRefusal (s : State) (m : List Byte) (r : Req) : Option Nat :=
  if !entryRole s then some 0x46
  else if r.flags.toNat / 16 ≠ 0 ∨ fieldAt m 10 2 ≠ 0 ∨ !zeroAt m 49 15 ∨ 4095 < r.tenant ∨ r.plen = 0 ∨ r.maxnew = 0 ∨ 1024 < r.topk ∨ 7 < r.kinit ∨
      (r.plen ≤ 16 * conf s 7 ∧ m.length ≠ 64 + 4 * r.plen) then some 0x45
  else if 16 * conf s 7 < r.plen ∨ planePositions s < r.plen + r.maxnew then some 0x41
  else if r.flags.getLsbD 0 ∧ fget s.srv.adPub 0xFFFF r.adapter = 0xFFFF then some 0x42
  else if s.dev.state = .draining then some 0x44
  else if budget s r.tenant ≤ 0 then some 0x40
  else if 1024 ≤ s.srv.store.length ∨ 2097152 < sumN (s.srv.store.map (·.plen)) + r.plen then some 0x43
  else none

/-- Whether serving messages are taken: the device is not in OFF or BOOT. -/
def msgServed (s : State) : Bool := s.dev.state != .off && s.dev.state != .boot

/-- SERVING_REQUEST (R393); its arrival pends direct line 1:6 (Table 13-13). -/
def execServingRequest (msg : List Byte) (s : State) : Host.Outcome State Fault Refusal :=
  .next (if !msgServed s then s
    else if fieldAt msg 0 2 = 0x101 then
      let s := pendLine (s.mapSrv fun v => { v with reqN := sat32 v.reqN }) 1 6
      let r := reqOf s msg
      match reqRefusal s msg r with
      | some st => respRefused s r.reqid st
      | none => s.mapSrv fun v => { v with store := v.store ++ [r] }
    else raiseV s 0x0C06 [fieldAt msg 0 2])

/-- END_REQUEST (R390, R406): withdraws a waiting request of that REQID, or queues an `END` for the sequence named by slot and START. -/
def execEndRequest (msg : List Byte) (s : State) : Host.Outcome State Fault Refusal :=
  let id := fieldAt msg 4 4
  let i := (byteAt msg 8).toNat
  let st := (byteAt msg 16).toNat
  let status := if [2, 4, 5, 6, 7].contains st then st else 2
  let live := decide (i < 128) && slotLive (s.slot i) && decide ((s.slot i).start % 4294967296 = fieldAt msg 12 4)
  .next (if !msgServed s ∨ !entryRole s then s
    else if fieldAt msg 0 2 ≠ 0x102 then raiseV s 0x0C06 [fieldAt msg 0 2]
    else if s.srv.store.any fun r => r.reqid == id then s.mapSrv fun v => { v with store := dropFirst (fun r => r.reqid == id) v.store }
    else if !live then raiseV s 0x0C06 [i]
    else if changeAhead s i [3] then s
    else queueChange s (slotChange 3 i status))

/-- PARK_LIMIT (R411): a slot PARKED for the park limit is ended with `BUDGET` and raises event 0x0C03. -/
def execParkLimit (sl : SlotId) (s : State) : Host.Outcome State Fault Refusal :=
  let i := sl.val
  .next (if entryRole s ∧ (s.slot i).state = .parked ∧ fget s.srv.parkAt 0 i + 1000000 * conf s 10 ≤ s.now ∧ !changeAhead s i [3] then
      raiseV (queueChange s (slotChange 3 i 3)) 0x0C03 [i, (s.slot i).tenant]
    else s)

/-- BUDGET_ADD (R410): adds a signed amount to the selected tenant's budget; a budget that rises above 0 resumes parked slots (R411). -/
def execBudgetAdd (p : Path) (v : BitVec 64) (s : State) : Host.Outcome State Fault Refusal :=
  .next (odReq s p 0x521003 (.budgetAdd p v)
    (odCmd s p 0x521003 true 0 fun s =>
    parkScan (s.mapSrv fun x => { x with budgets := fset x.budgets 0 x.tenSel (fget x.budgets 0 x.tenSel + v.toInt) })))

/-- CUT_STEP_WRITE (R405): at least 3 steps ahead, or 0; on the entry chip. -/
def execCutStepWrite (p : Path) (v : BitVec 64) (s : State) : Host.Outcome State Fault Refusal :=
  .next (odReq s p 0x502001 (.cutStepWrite p v)
    (odCmd s p 0x502001 true
    (firstAbort [(entryRole s, abNOTAVAIL), (decide (v.toNat = 0 ∨ s.sch.stepNo + 3 ≤ v.toNat), abTOOLATE)])
    fun s => s.mapSrv fun x => { x with cut := v.toNat }))

/-- ADAPTER_ALLOC (R408). -/
def execAdapterAlloc (p : Path) (id : BitVec 32) (s : State) : Host.Outcome State Fault Refusal :=
  .next (odReq s p 0x532001 (.adapterAlloc p id)
    (odCmd s p 0x532001 true (firstAbort [(entryRole s, abNOTAVAIL)]) fun s =>
    match (if s.srv.adWait.isEmpty then adAlloc s id.toNat else none) with
    | some s => s
    | none => raiseV (s.mapSrv fun v => { v with adWait := v.adWait ++ [id.toNat] }) 0x0C04 [id.toNat]))

/-- ADAPTER_DATA_WRITE (R408): bytes into the selected slot while it is FILLING. -/
def execAdapterDataWrite (p : Path) (off : BitVec 32) (data : List Byte) (s : State) : Host.Outcome State Fault Refusal :=
  let a := s.srv.adSel
  .next (odReq s p 0x531006 (.adapterDataWrite p off data)
    (odCmd s p 0x531006 true
    (firstAbort [(decide ((s.adap a).state = .filling), abSTATE), ((adBase s a).isSome, abNOTAVAIL),
      (decide (off.toNat + data.length ≤ adBytes s), abPASTEND)])
    fun s => match adBase s a with
      | some b => bedWrite s (b + off.toNat) data
      | none => s))

/-- ADAPTER_DIGEST_WRITE (R408): starts the check of the selected slot's data. -/
def execAdapterDigestWrite (p : Path) (digest : List Byte) (s : State) : Host.Outcome State Fault Refusal :=
  let a := s.srv.adSel
  .next (odReq s p 0x531007 (.adapterDigestWrite p digest)
    (odCmd s p 0x531007 true
    (firstAbort [(decide (digest.length = 32), abBADLEN), (decide ((s.adap a).state = .filling), abSTATE)])
    fun s => s.mapAdap a fun x => { x with dig := some digest }))

/-- ADAPTER_VERIFIED (R408): the check completes; a slot whose data matches its digest becomes VERIFIED. During a Flush the load service reads no bed
partition (R285). -/
def execAdapterVerified (a : Fin 1024) (s : State) : Host.Outcome State Fault Refusal :=
  let x := s.adap a.val
  .next (match x.dig with
    | none => s
    | some d =>
      if x.state = .filling ∧ !(s.dev.busy && (s.beds.flush == 1 || s.beds.flush == 2)) then
        s.mapAdap a.val fun y => { y with dig := none, state := if sha3 (adData s a.val) = d then .verified else .filling }
      else s)

/-- ADAPTER_PUBLISH (R408): refused unless the entry chip's own slot is VERIFIED. -/
def execAdapterPublish (p : Path) (v : BitVec 16) (s : State) : Host.Outcome State Fault Refusal :=
  let a := v.toNat
  .next (odReq s p 0x532004 (.adapterPublish p v)
    (odCmd s p 0x532004 true
    (firstAbort [(entryRole s, abNOTAVAIL), (decide (a < 1024), abBADVALUE), (decide ((s.adap a).state = .verified), abCHECK)])
    fun s => queueChange s (leBytes 2 5 ++ leBytes 2 a ++ leBytes 4 0)))

/-- ADAPTER_WITHDRAW (R408): a READY slot retires without a successor. -/
def execAdapterWithdraw (p : Path) (v : BitVec 16) (s : State) : Host.Outcome State Fault Refusal :=
  let a := v.toNat
  .next (odReq s p 0x532005 (.adapterWithdraw p v)
    (odCmd s p 0x532005 true
    (firstAbort [(entryRole s, abNOTAVAIL), (decide (a < 1024), abBADVALUE), (decide ((s.adap a).state = .ready), abCHECK)])
    fun s => queueChange s (leBytes 2 6 ++ leBytes 2 a ++ leBytes 4 0)))

end Sys2Proof.Machine
end

