-- ==== Sys2Proof/Machine/Dma.lean ====
section
/-! DEFINITION. DMA transfers and the Tributary queues (R235-R239, R274, R385): the meanings of COPY, FILL, TRD, TWR, TRIB_INPUT_ARRIVE and
TRIB_OUTPUT_SPACE. -/

namespace Sys2Proof.Machine

/-! ### COPY, FILL -/

/-- Whether `COPY`'s endpoints are a pair that R235 allows: one of them is of type 0x1, the other of type 0x1-0x5. -/
def copyPair (x y : Opnd) : Bool := (x.typ == 1 || y.typ == 1) && decide (1 ≤ x.typ ∧ x.typ ≤ 5) && decide (1 ≤ y.typ ∧ y.typ ≤ 5)

/-- Whether any row written overlaps any row read in the same memory (R237). -/
def copyOverlap (x y : Opnd) (rows len ss ds : Nat) : Bool :=
  decide (x.loc = y.loc) && decide (0 < len) &&
  (List.range rows).any fun i => (List.range rows).any fun j =>
    let a := x.a + 64 * ss * i
    let b := y.a + 64 * ds * j
    decide (a < b + len ∧ b < a + len)

/-- Whether every row lies inside an operand (R79). -/
def copyInside (x : Opnd) (rows len st : Nat) : Bool := rows == 0 || len == 0 || decide (64 * st * (rows - 1) + len ≤ x.bytes)

/-- Whether a `COPY` has an undefined result for another reason than its endpoints (R12, R79, R237). -/
def copyBad (s : State) (c : Nat) (d : Desc) : Bool :=
  let x := operandAny s c d 0
  let y := operandAny s c d 3
  let rows := dP d 48 40
  let len := dP d 39 20
  dReserved d || len % 4 != 0 || !copyInside x rows len (dP d 19 10) || !copyInside y rows len (dP d 9 0) ||
  copyOverlap x y rows len (dP d 19 10) (dP d 9 0)

/-- Writes the rows of a copy; answers the largest status (R238). -/
def copyRows (x y : Opnd) (len ss ds : Nat) (bk : Bool) (pl : List Nat) (s : State) (rows : Nat) : State × Nat :=
  (List.range rows).foldl (fun a i =>
    let (s, st) := opWrite a.1 y (64 * ds * i) (opRead a.1 x (64 * ss * i) len) bk pl
    (s, max a.2 st)) (s, 0)

/-- COPY (R235, R237): the state and the completion status. -/
def copyOp (c : Nat) (r : RunOp) (s : State) : State × Nat :=
  let d := r.item.desc
  let x := operandAny s c d 0
  let y := operandAny s c d 3
  if !copyPair x y then (opUndef (raiseE s 0x0704 c r.eng (opPlace r)) (some y), 0)
  else if copyBad s c d then (opUndef s (some y), 0)
  else copyRows x y (dP d 39 20) (dP d 19 10) (dP d 9 0) (bankNow s y) (opPlace r) s (dP d 48 40)

/-- Whether a `FILL` has an undefined result: a field that it reserves is not 0 (R237). -/
def fillBad (d : Desc) : Bool := dReserved d || dPb d 55 || dP d 48 0 != 0

/-- `n` bytes of a fill from byte `o` of its destination on: every word takes s[`SREG`] (R237). -/
def fillBytes (r : RunOp) (o n : Nat) : List Byte :=
  let w := leBytes 4 (r.sreg (dP r.item.desc 53 49)).toNat
  (List.range n).map fun i => byteAt w ((o + i) % 4)

/-- FILL (R237). -/
def fillOp (c : Nat) (r : RunOp) (s : State) : State × Nat :=
  match operand s c r.item.desc 3 with
  | none => (s, 0)
  | some y => if fillBad r.item.desc then (opUndef s (some y), 0) else opWrite s y 0 (fillBytes r 0 y.bytes) (bankNow s y) (opPlace r)

/-- Performs the effect of the oldest DMA operation of opcode `o`, with its status. -/
def withDma (s : State) (c e o : Nat) (f : RunOp → State → State × Nat) : State :=
  match opOf s c e o with
  | none => s
  | some r => if sRun s then (let p := f r s; opDoneSt p.1 c e o p.2) else s

/-! ### Tributary queues (R239) -/

/-- Changes the oldest operation of opcode `o` of engine `e` whose effect is still to be performed. -/
def opMap (s : State) (c e o : Nat) (g : RunOp → RunOp) : State :=
  s.mapCore c fun k => { k with run := mapFirst (fun r => r.eng == e && dOpcode r.item.desc == o && !r.done && r.ticks == 0) g k.run }

/-- The scratchpad operand of a queue operation as R239 allows it. -/
def qSpadOk (x : Option Opnd) : Bool :=
  match x with
  | some x => x.typ == 1
  | none => false

/-- Number of a queue of a type. -/
def qNum (x : Option Opnd) (out : Bool) : Option Nat :=
  match x with
  | some ⟨_, .inQ q, _, _, _⟩ => if out then none else some q
  | some ⟨_, .outQ q, _, _, _⟩ => if out then some q else none
  | _ => none

/-- Whether `n` entries pass the scratchpad operand, or a reserved field is set (R79, R239). -/
def qBad (d : Desc) (x : Option Opnd) (qi n : Nat) : Bool :=
  dReserved d || dP d 63 0 != 0 || decide ((dOperand d qi).2.1 ≠ 0) || !fits x (64 * n)

/-- The entries that a `TRD` of a serving queue, or of any queue in a replay, reads, and the state after them (R239, R385, R541). -/
def trdTake (s : State) (q n : Nat) (t : Nat) : List (List Byte) × State :=
  let pad := fun (l : List (List Byte)) => (List.range n).map fun i => padTo 64 (l.getD i [])
  let off := fget s.trib.used 0 q
  let derived := decide (q = 0x7C ∨ q = 0x7E)
  if s.inp.replaying ∧ !derived then
    let (e, s) := replayTake s fun e => e.kind == 2 && e.scyc == t && byteAt e.data 0 == BitVec.ofNat 8 q && fieldAt e.data 2 2 == n
    match e with
    | some e => ((List.range n).map fun i => padTo 64 (e.data.drop (8 + 64 * i)), s)
    | none => (pad [], mismatch s 2)
  else
    let s := if q = 0x7D ∨ q = 0x7F then servingDecision s else s
    let es := (servingEntries s q).drop off
    let s := { s with trib := { s.trib with used := fset s.trib.used 0 q (off + n) } }
    (pad es, if es.length < n then raiseV s 0x0C09 [q] else s)

/-- Takes entries `i` on of a `TRD` that are due, one each S-cycle from its start: the state, the number taken, the bytes taken, and what holds the
S-cycle for one that is due and absent or came within the horizon (R45, R239). -/
def trdGo (q : Nat) (r : RunOp) (s : State) (i : Nat) (got : List Byte) : Nat → State × Nat × List Byte × Option (Option Nat)
  | 0 => (s, i, got, none)
  | n + 1 =>
    if s.sch.sCycle < r.startS + i then (s, i, got, none)
    else match (fget s.trib.inQ [] q).drop (fget s.trib.used 0 q), lateBy s ((fget s.trib.inAt [] q).getD (fget s.trib.used 0 q) 0) with
      | [], _ => (s, i, got, some none)
      | _ :: _, some w => (s, i, got, some (some w))
      | e :: _, none =>
        let s := { s with trib := { s.trib with used := fset s.trib.used 0 q (fget s.trib.used 0 q + 1) } }
        trdGo q r s (i + 1) (got ++ e) n

/-- The input-record entry of a `TRD` (Table 17-4); the derived serving queues are not recorded (R537). -/
def trdRecord (s : State) (q n t : Nat) (bs : List Byte) : State :=
  if q = 0x7C ∨ q = 0x7E then s else inpAdd s 2 t (leBytes 1 q ++ [0#8] ++ leBytes 2 n ++ leBytes 4 0 ++ bs)

/-- The queue and the destination of a `TRD` whose operands are allowed (R239). -/
def trdEnds (s : State) (c : Nat) (d : Desc) : Option (Nat × Opnd) :=
  let y := operandAny s c d 3
  match qNum (some (operandAny s c d 0)) false with
  | some q => if qSpadOk (some y) then some (q, y) else none
  | none => none

/-- Takes the entries of a `TRD` that are due in this S-cycle (R239): an absent one is Eddy cause 3 for it. Serving queues, and every queue in a
replay, have their entries at once. The entries taken wait in the operation until they are written. -/
def trdNeed (s : State) (c : Nat) (r : RunOp) (q : Nat) : State :=
  let n := (operandAny s c r.item.desc 0).ext
  if n ≤ r.prog then s
  else if 0x7C ≤ q ∨ s.inp.replaying then
    let (es, s) := trdTake s q n r.startS
    setOp (trdRecord s q n r.startS es.flatten) c r fun r => { r with prog := n, got := es.flatten }
  else
    let (s, k, got, h) := trdGo q r s r.prog r.got (n - r.prog)
    let s := setOp s c r fun r => { r with prog := k, got := got }
    if h.isSome then holdFor s 3 q h
    else if k = n then trdRecord s q n r.startS got else s

/-- The operation as its entry in the core holds it now. -/
def opNow (s : State) (c : Nat) (r : RunOp) : RunOp := ((s.core c).run.find? (sameOp r)).getD r

/-- A `TRD` in its S-cycle (R239): its start raises what is wrong with it, then the entries that are due are taken; with the last one nothing is left to
take. -/
def trdMove (s : State) (c e : Nat) (r : RunOp) : State :=
  let dst := some (operandAny s c r.item.desc 3)
  let n := (operandAny s c r.item.desc 0).ext
  match trdEnds s c r.item.desc with
  | none => opDone (opUndef (raiseE s 0x0704 c r.eng (opPlace r)) dst) c e 0xC0
  | some (q, _) =>
    if qBad r.item.desc dst 0 n then opDone (opUndef s dst) c e 0xC0
    else
      let s := trdNeed s c r q
      if n ≤ (opNow s c r).prog ∧ !inEddy s then opDone s c e 0xC0 else s

/-- Entry i of a `TRD` is written in S-cycle t + i + 6 (R239). -/
def trdLand (s : State) (c : Nat) (r : RunOp) : State :=
  let i := s.sch.sCycle - r.startS
  let dst := some (operandAny s c r.item.desc 3)
  let n := (operandAny s c r.item.desc 0).ext
  if (trdEnds s c r.item.desc).isSome ∧ !qBad r.item.desc dst 0 n ∧ 6 ≤ i ∧ i - 6 < n then fxPut s dst (64 * (i - 6)) ((r.got.drop (64 * (i - 6))).take 64) else s

/-- TRD (R239): the entries that are due are taken and written; the last one ends it. -/
def trdOp (s : State) (c e : Nat) (r : RunOp) : State :=
  let d := r.item.desc
  let dst := some (operandAny s c d 3)
  let n := (operandAny s c d 0).ext
  let fin := fun (s : State) => opDone s c e 0xC0
  match trdEnds s c d with
  | none => fin (opUndef (raiseE s 0x0704 c r.eng (opPlace r)) dst)
  | some (q, _) =>
    if qBad d dst 0 n then fin (opUndef s dst)
    else
      let s := trdNeed s c r q
      let x := opNow s c r
      let s := fxPut s dst (64 * r.prog) (x.got.drop r.got.length)
      if n ≤ x.prog ∧ !inEddy s then fin s else s

/-- Places one entry in a Tributary output queue: withheld until the Weir (R274); a write to a serving queue is discarded (R385). -/
def twrPut (s : State) (q : Nat) (bs : List Byte) : State :=
  if 0x7C ≤ q then raiseV s 0x0C09 [q]
  else { s with trib := { s.trib with outStep := s.trib.outStep ++ [(q, padTo 64 bs)], outRoom := s.trib.outRoom - 1 } }

/-- Places entries `i` on of a `TWR` that are due, one each S-cycle from its start: the state, the number placed, and what holds the
S-cycle for one that is due and has no space, or space that came within the horizon (R45, R239). -/
def twrGo (q : Nat) (en : State → Nat → List Byte) (r : RunOp) (s : State) (i : Nat) : Nat → State × Nat × Option (Option Nat)
  | 0 => (s, i, none)
  | n + 1 =>
    if s.sch.sCycle < r.startS + i then (s, i, none)
    else if q < 0x7C ∧ s.trib.outRoom = 0 then (s, i, some none)
    else if q < 0x7C ∧ (lateBy s s.trib.roomAt).isSome then (s, i, some (lateBy s s.trib.roomAt))
    else twrGo q en r (twrPut s q (en s i)) (i + 1) n

/-- TWR (R239): entry i is placed in S-cycle t + i; lack of space is Eddy cause 4 for that S-cycle. A queue operation whose operands are not allowed, or that leaves its operand, places undefined
entries or none (R79, R239). -/
def twrOp (s : State) (c e : Nat) (r : RunOp) : State :=
  let d := r.item.desc
  let src := some (operandAny s c d 0)
  let dst := some (operandAny s c d 3)
  let n := (operandAny s c d 3).ext
  let fin := fun (s : State) => opDone s c e 0xC1
  match qNum dst true, src with
  | some q, some x =>
    if !qSpadOk src then fin (raiseE s 0x0704 c r.eng (opPlace r))
    else
      let bad := qBad d src 3 n
      let (fb, s) := if bad ∧ r.prog = 0 then takeFree s (64 * n) else (r.got, s)
      let en := fun (s : State) (i : Nat) => if bad then (fb.drop (64 * i)).take 64 else opRead s x (64 * i) 64
      let (s, k, h) := twrGo q en r s r.prog (n - r.prog)
      let s := opMap s c e 0xC1 fun r => { r with prog := k, got := if bad then fb else [] }
      if h.isSome then holdFor s 4 0 h else if k = n then fin s else s
  | _, _ => fin (raiseE s 0x0704 c r.eng (opPlace r))

/-- Runs a queue operation when the compute domain runs and one has started. -/
def withQueue (s : State) (c e o : Nat) (f : State → Nat → Nat → RunOp → State) : State :=
  match opOf s c e o with
  | none => s
  | some r => if sRun s then f s c e r else s

/-! ### Meanings -/

/-- COPY (R237) on DMA engine d. -/
def execCopy (c : CoreId) (d : Fin 4) (s : State) : Host.Outcome State Fault Refusal :=
  .next (withDma s c.val (12 + d.val) 0xA0 (copyOp c.val))

/-- FILL (R237) on DMA engine d. -/
def execFill (c : CoreId) (d : Fin 4) (s : State) : Host.Outcome State Fault Refusal :=
  .next (withDma s c.val (12 + d.val) 0xA1 (fillOp c.val))

/-- TRD (R239). -/
def execTrd (c : CoreId) (d : Fin 4) (s : State) : Host.Outcome State Fault Refusal := .next (withQueue s c.val (12 + d.val) 0xC0 trdOp)

/-- TWR (R239). -/
def execTwr (c : CoreId) (d : Fin 4) (s : State) : Host.Outcome State Fault Refusal := .next (withQueue s c.val (12 + d.val) 0xC1 twrOp)

/-- TRIB_INPUT_ARRIVE (R46): an entry joins an input queue of the schedule; a read that waits for it goes on 4 W-cycles later (R45). Serving
queues take no input (R385). -/
def execTribInputArrive (q : Fin 128) (entry : List Byte) (s : State) : Host.Outcome State Fault Refusal :=
  .next (if 0x7C ≤ q.val ∨ !msgServed s then s
    else endCause { s with trib := { s.trib with
      inQ := fset s.trib.inQ [] q.val (fget s.trib.inQ [] q.val ++ [padTo 64 entry])
      inAt := fset s.trib.inAt [] q.val (fget s.trib.inAt [] q.val ++ [horizon s]) } } 3 q.val 4)

/-- TRIB_OUTPUT_SPACE (R46): `n` places of the Tributary output buffer free as their entries leave; a blocked write goes on 4 W-cycles later. -/
def execTribOutputSpace (n : Nat) (s : State) : Host.Outcome State Fault Refusal :=
  let k := min n s.trib.outQ.length
  .next (if k = 0 then s
    else endCause { s with trib := { s.trib with
      outQ := s.trib.outQ.drop k, outRoom := s.trib.outRoom + k, roomAt := if s.trib.outRoom = 0 then horizon s else s.trib.roomAt } } 4 0 4)

end Sys2Proof.Machine
end

