-- ==== Sys2Proof/Machine/Fabric.lean ====
section
/-! DEFINITION. The fabric router (chapter 10): head flits, source routes, path tables, links and frames, sends, receives, gates, fabric time.
The meanings of SEND, RECV, RECEIVE_COMPLETE, CLASS_DRAINED, DRAIN_TIMEOUT, PATH_BANK_* and BEACON_*. -/

namespace Sys2Proof.Machine

/-! ### Head flits (Table 10-4) -/

/-- Bits [hi:lo] of a packet's head flit. -/
def hF (p : Packet) (hi lo : Nat) : Nat := bits p.head.toNat hi lo

/-- Writes bits [hi:lo] of a number. -/
def setBits (n hi lo v : Nat) : Nat := n - bits n hi lo * 2 ^ lo + v % 2 ^ (hi + 1 - lo) * 2 ^ lo

/-- Writes bits [hi:lo] of a packet's head flit. -/
def hSet (p : Packet) (hi lo v : Nat) : Packet := { p with head := BitVec.ofNat 128 (setBits p.head.toNat hi lo v) }

def hSegidx (p : Packet) : Nat := hF p 31 29
def hTc (p : Packet) : Nat := hF p 28 27
def hVc (p : Packet) : Nat := hF p 26 26
def hKind (p : Packet) : Nat := hF p 25 24
def hRank (p : Packet) : Nat := hF p 23 22
def hHalf (p : Packet) : Bool := hF p 21 21 == 1
def hQueue (p : Packet) : Nat := hF p 20 11
def hTag (p : Packet) : Nat := hF p 10 0

/-- VC number of a packet: 2 × TC + `VC` (R315). -/
def hVcNo (p : Packet) : Nat := 2 * hTc p + hVc p

/-- Port of segment `i` of a route (R316). -/
def hPort (p : Packet) (i : Nat) : Nat := hF p (50 + 11 * i) (47 + 11 * i)

/-- Run of segment `i` of a route (R316). -/
def hRun (p : Packet) (i : Nat) : Nat := hF p (46 + 11 * i) (40 + 11 * i)

/-- A hop on segment `i`: the run falls by one, and a dateline link sets `VC` (R317, R318). -/
def hopOut (dl : Nat → Bool) (p : Packet) (i : Nat) : Packet × Option Nat :=
  let l := hPort p i
  let p := hSet p (46 + 11 * i) (40 + 11 * i) (hRun p i - 1)
  (if dl l then hSet p 26 26 1 else p, some l)

/-- The routing procedure of R317: the link to leave by, or none where the packet arrives. -/
def routeStep (dl : Nat → Bool) (p : Packet) : Packet × Option Nat :=
  let i := hSegidx p
  if hRun p i = 0 then
    if i = 7 ∨ hRun p (i + 1) = 0 then (p, none)
    else hopOut dl (hSet (hSet p 31 29 (i + 1)) 26 26 (hF p (32 + i + 1) (32 + i + 1))) (i + 1)
  else hopOut dl p i

/-- The route of a packet at this chip. -/
def route (s : State) (p : Packet) : Packet × Option Nat := routeStep (fun l => (s.link l).dateline) p

/-! ### Path tables (Table 10-13) -/

/-- The active path-table bank (R339). -/
def pathBank (s : State) : Mem := if s.fab.pathAct then s.fab.pathB else s.fab.pathA

/-- The inactive path-table bank. -/
def pathInBank (s : State) : Mem := if s.fab.pathAct then s.fab.pathA else s.fab.pathB

/-- Path entry `i` of a bank as a number. -/
def pathAt (m : Mem) (i : Nat) : Nat := mnat m (16 * i) 16

/-- Whether a path entry is VALID (Table 10-13). -/
def pathValid (e : Nat) : Bool := bit e 29

/-- Class of a path entry. -/
def pathTc (e : Nat) : Nat := bits e 31 30

/-- The head flit of a packet sent on a path entry: `SEGIDX` 0 and `VC` = `VCMAP[0]` (R317, R321). -/
def headOf (e tc kind rank : Nat) (half : Bool) (queue tag : Nat) : BitVec 128 :=
  BitVec.ofNat 128 (bits e 127 32 * 2 ^ 32 + tc % 4 * 2 ^ 27 + bits e 32 32 * 2 ^ 26 + kind % 4 * 2 ^ 24 + rank % 4 * 2 ^ 22 +
    (if half then 2 ^ 21 else 0) + queue % 1024 * 2 ^ 11 + tag % 2048)

/-- Number of route segments up to the first of run 0, of a path entry (R340). -/
def pathSegs (e : Nat) : Nat :=
  match (List.range 8).find? (fun i => bits e (46 + 11 * i) (40 + 11 * i) == 0) with
  | some i => i
  | none => 8

/-- Whether a VALID path entry passes the seal check (R340). -/
def pathEntryOk (e : Nat) : Bool :=
  !pathValid e || (bits e 28 0 == 0 && (List.range 8).all fun i =>
    decide (i ≤ pathSegs e) || (bits e (50 + 11 * i) (40 + 11 * i) == 0 && !bit e (32 + i)))

/-- Whether a path-table bank passes its seal (R340). -/
def pathSealOk (m : Mem) : Bool := (List.range 4096).all fun i => pathEntryOk (pathAt m i)

/-! ### Link frames (R309-R314) -/

/-- Whether a link is up. -/
def linkUp (k : Link) : Bool := k.state == .up8 || k.state == .up4

/-- Whether a class's gate is closed on a link (R341). -/
def gateShut (k : Link) (tc : Nat) : Bool := k.gate.getLsbD tc

/-- CRC of a frame: over the 16 data flits and bits [127:32] of the control flit (R309). -/
def frameCrc (flits : List (BitVec 128)) (ctl : Nat) : Nat :=
  (crc32 (((List.range 16).map fun i => flitBytes (flits.getD i 0#128)).flatten ++ leBytes 12 (ctl / 2 ^ 32))).toNat

/-- The five flits of a packet (R315). -/
def packetFlits (p : Packet) : List (BitVec 128) :=
  p.head :: (List.range 4).map fun i => BitVec.ofNat 128 (leNat ((p.data.drop (16 * i)).take 16))

/-- The frame that carries up to 16 flits, each with its VC (R309; frames without a flit are left out, log 19). -/
def frameWith (k : Link) (fl : List (Nat × BitVec 128)) : Frame :=
  let vcs := fl.foldr (fun p n => p.1 % 8 + 8 * n) 0
  let c := k.txSeq * 2 ^ 116 + (k.expSeq + 4095) % 4096 * 2 ^ 104 + (if k.nak then 2 ^ 103 else 0) + k.xoff.toNat * 2 ^ 95 + fl.length * 2 ^ 90 +
    vcs * 2 ^ 42
  let fs := fl.map (·.2) ++ List.replicate (16 - fl.length) 0#128
  { flits := fs, ctl := BitVec.ofNat 128 (c + frameCrc fs c) }

/-- The frame that carries one packet alone. -/
def frameOf (k : Link) (p : Packet) : Frame := frameWith k ((packetFlits p).map fun x => (hVcNo p, x))

/-- Sends a frame on a link: it enters the replay buffer (R308, R310). -/
def sendFrame (k : Link) (f : Frame) : Link := { k with replayBuf := k.replayBuf ++ [f], txSeq := (k.txSeq + 1) % 4096 }

/-- Whether a link sends frames now: it is up and the replay buffer has room (R308, R309). -/
def frameRoom (k : Link) : Bool := linkUp k && decide (k.replayBuf.length < 1024)

/-- Whether a link can take a packet now: it sends frames, and the peer's `XOFF` of the VC is clear (R308, R335). -/
def canSend (k : Link) (p : Packet) : Bool := frameRoom k && !k.peerXoff.getLsbD (hVcNo p)

/-- Arbitration weight of TC1-TC3 (R337: default 8, 4, 1). -/
def arbW (s : State) (tc : Nat) : Nat := fget s.fab.arb (if tc = 1 then 8 else if tc = 2 then 4 else 1) tc

/-- Event of a packet dropped at a link, counted in 0x4014 (R319). -/
def dropAtLink (s : State) (l : Nat) : State :=
  raise (s.mapLink l fun k => { k with dropped := sat32 k.dropped }) 0x0A01 0x15 [l]

/-- A drop on arrival, counted in 0x4015 (R319). -/
def dropArr (s : State) (items : List Nat) : State :=
  raise (s.mapFab fun f => { f with arrDrops := sat32 f.arrDrops }) 0x0A02 0x15 items

/-- Whether the chip takes packets that end at it (R319); none while a Flush runs (R284). -/
def fabricTakes (s : State) : Bool := !s.dev.busy && (s.dev.state == .ready || s.dev.state == .running || s.dev.state == .draining)

/-- Whether a packet of a class whose next hop is `l` is dropped (R319). -/
def hopBad (s : State) (l tc : Nat) : Bool := !linkUp (s.link l) || gateShut (s.link l) tc

/-- XOFF bits of an input port after its flits changed: set at 48, cleared at 16 (R311). -/
def xoffOf (k : Link) : BitVec 8 :=
  (List.range 8).foldl (fun x v =>
    let n := (fget k.rx [] v).length
    if 48 ≤ n then x ||| (1#8 <<< v) else if n ≤ 16 then x &&& ~~~(1#8 <<< v) else x) k.xoff

/-- Flits beyond a VC's 64 places, all VCs together: what the landing store holds (R308, R311). -/
def landing (rx : FMap (List (BitVec 128))) : Nat := sumN (rx.map fun p => p.2.length - 64)

/-- The landing store's places (R308). -/
def landingStore : Nat := 16384

/-- The input buffers after a frame's data flits have entered their VCs (R310). -/
def rxAfter (k : Link) (f : Frame) : FMap (List (BitVec 128)) :=
  (List.range (min 16 (bits f.ctl.toNat 94 90))).foldl (fun m i =>
    let v := bits f.ctl.toNat (44 + 3 * i) (42 + 3 * i)
    fset m [] v (fget m [] v ++ [f.flits.getD i 0#128])) k.rx

/-- Sequence number of a frame. -/
def frameSeq (f : Frame) : Nat := bits f.ctl.toNat 127 116

/-- Whether a frame is taken: its CRC is good, its `SEQ` is the one expected and its flits fit (R310, R311). -/
def frameOk (k : Link) (f : Frame) : Bool :=
  bits f.ctl.toNat 31 0 == frameCrc f.flits f.ctl.toNat && frameSeq f == k.expSeq && decide (landing (rxAfter k f) ≤ landingStore)

/-- The frames after `ACK`: an acknowledged frame leaves the replay buffer with every earlier one (R310). -/
def afterAck (ack : Nat) (q : List Frame) : List Frame :=
  match q.findIdx? (fun f => frameSeq f == ack) with
  | some i => q.drop (i + 1)
  | none => q

/-- Puts a link into TRAINING (R312). -/
def toTraining (s : State) (l : Nat) (keep4 : Bool) : State :=
  s.mapLink l fun k => { k with state := .training, trainAt := s.now, keep4 := keep4, resendN := 0 }

/-- A taken frame acts (R310): its flits enter their VCs, and its `ACK`, `NAK` and `XOFF` take effect; the 16th resend of a frame makes the link
retrain. -/
def frameTake (s : State) (l : Nat) (f : Frame) : State :=
  let n := f.ctl.toNat
  let s := s.mapLink l fun k =>
    let q := afterAck (bits n 115 104) k.replayBuf
    let again := bit n 103 && !q.isEmpty
    let k := { k with
      rx := rxAfter k f, expSeq := (k.expSeq + 1) % 4096, nak := false, peerAck := bits n 115 104, peerXoff := BitVec.ofNat 8 (bits n 102 95)
      replayBuf := q, resent := if again then sat32n k.resent q.length else k.resent
      resendN := (if q.length = k.replayBuf.length then k.resendN else 0) + (if again then 1 else 0) }
    { k with xoff := xoffOf k }
  if 16 ≤ (s.link l).resendN then toTraining s l ((s.link l).state == .up4) else s

/-- The link that a standing packet has been routed to. -/
def heldFor (s : State) (w : HeldPkt) : Option Nat := if w.told ∧ w.origin < 128 then (route s w.pkt).2 else none

/-- Packets queued for a link: those routed to it in input VCs, those of the load service, and those in its injection buffers. -/
def queuedFor (s : State) (l : Nat) : List Packet :=
  (s.link l).outQ ++ ((s.fab.waiting.filter fun w => heldFor s w == some l).map fun w => w.pkt) ++
  (List.range 8).flatMap fun v => fget s.fab.inj [] (8 * l + v) ++ fget s.fab.inj2 [] (8 * l + v)

/-- Removes a flit of a standing packet from its input VC, where it is the next one held there (R311, R335). -/
def rxDrop (s : State) (o : Nat) (fl : BitVec 128) : State :=
  if o < 128 ∧ (fget (s.link (o / 8)).rx [] (o % 8)).head? = some fl then
    s.mapLink (o / 8) fun k =>
      let k := { k with rx := fset k.rx [] (o % 8) ((fget k.rx [] (o % 8)).drop 1) }
      { k with xoff := xoffOf k }
  else s

/-- Takes a standing packet away, with the flits of it that its input VC still holds. -/
def heldDrop (s : State) (w : HeldPkt) : State :=
  (packetFlits w.pkt).foldl (fun s fl => rxDrop s w.origin fl) (s.mapFab fun f => { f with waiting := dropFirst (fun x => x == w) f.waiting })

/-- Output VCs of a link that a packet of buffer `src` holds. -/
def begun (k : Link) (src : Nat) : List Nat := (k.tx.filter fun p => p.2.1 == src).map (·.1)

/-- A queue without the packets of the classes named, but for the first of every VC in `keep`. -/
def cutQueue (cls : Nat → Bool) : List Nat → List Packet → List Packet
  | _, [] => []
  | keep, p :: r =>
    if keep.contains (hVcNo p) then p :: cutQueue cls (keep.erase (hVcNo p)) r
    else if cls (hTc p) then cutQueue cls keep r
    else p :: cutQueue cls keep r

/-- Drops every packet queued for a link whose class is named, each counted there (R312, R314, R319, R341); one that holds its output VC goes on to
its last flit, unless the link itself is given up. -/
def dropQueued (s : State) (l : Nat) (cls : Nat → Bool) (all : Bool) : State :=
  let k := if all then { s.link l with tx := [] } else s.link l
  let cut := fun (src : Nat) (m : FMap (List Packet)) =>
    (List.range 8).foldl (fun m v => fset m [] (8 * l + v) (cutQueue cls (begun k src) (fget m [] (8 * l + v)))) m
  let ws := s.fab.waiting.filter fun w =>
    heldFor s w == some l && cls (hTc w.pkt) && !(begun k (3 + w.origin)).contains (hVcNo (route s w.pkt).1)
  let t := ws.foldl heldDrop s
  let t := t.mapFab fun f => { f with inj := cut 0 f.inj, inj2 := cut 1 f.inj2 }
  let t := t.mapLink l fun x => { x with outQ := cutQueue cls (begun k 2) x.outQ, tx := k.tx }
  (List.range ((queuedFor s l).length - (queuedFor t l).length)).foldl (fun s _ => dropAtLink s l) t

/-- ENABLE written 0: every packet queued for the link is dropped and the link is OFF (R312). -/
def linkOff (s : State) (l : Nat) : State :=
  (dropQueued s l (fun _ => true) true).mapLink l fun k => { k with state := .off, replayBuf := [], rx := [], xoff := 0#8, resendN := 0, keep4 := false }

/-- A training fails: the link takes no packet, and those queued for it are dropped (R312, R314, R319). -/
def linkFail (s : State) (l : Nat) : State :=
  dropQueued (raise (s.mapLink l fun k => { k with state := .failed }) 0x0A07 0x15 [l]) l (fun _ => true) true

/-- A write of link control (Table 10-15, R312, R313); the reserved code 11 of `LANES` never gets here. -/
def linkWrite (s : State) (l : Nat) (v : BitVec 32) : State :=
  let old := s.link l
  let en := v.getLsbD 3
  let s := s.mapLink l fun k => { k with enable := en, dateline := v.getLsbD 7, lanes := bits v.toNat 6 5 }
  if !en then linkOff s l
  else if old.state = .off then toTraining s l false
  else if v.getLsbD 4 ∧ old.state ≠ .training then toTraining s l false
  else s

/-- Whether a half of the lanes holds no bad lane: half 0 lanes 0-3, half 1 lanes 4-7 (R313). -/
def halfGood (bad : BitVec 8) (h : Bool) : Bool := if h then bad.toNat / 16 == 0 else bad.toNat % 16 == 0

/-- The state a training ends in: all lanes good and allowed, one good half, or FAILED (R312, R313). -/
def trainedState (k : Link) (bad : BitVec 8) : LinkState × Bool :=
  if k.lanes = 0 ∧ bad = 0#8 ∧ !k.keep4 then (.up8, false)
  else
    let want : List Bool := if k.lanes = 1 then [false] else if k.lanes = 2 then [true] else if k.keep4 then [k.halfin, !k.halfin] else [false, true]
    match want.find? (halfGood bad) with
    | some h => (.up4, h)
    | none => (.failed, false)

/-- End of a training (R312-R314): the link resumes from `ACK` and sends again what its peer has not acknowledged. -/
def linkTrain (s : State) (l : Nat) (bad : BitVec 8) (delay : Nat) : State :=
  let k := s.link l
  if k.state ≠ .training then s
  else
    let (st, h) := trainedState k bad
    if st = .failed then linkFail (s.mapLink l fun k => { k with bad := bad }) l
    else
      let s := s.mapLink l fun k => { k with
        state := st, bad := bad, halfin := h, delay := delay % 65536, keep4 := false, resent := sat32n k.resent k.replayBuf.length }
      s.cond (st == .up4) fun s => raise s 0x0A06 0x15 [l]

/-! ### Gates and draining (R341) -/

/-- A write of a link's gate: packets of a class that it closes which are queued for the link are dropped (R319, R341). -/
def gateWrite (s : State) (l : Nat) (v : BitVec 8) : State :=
  let g := v &&& 0x0F#8
  let s := s.mapLink l fun k => { k with
    gate := g
    gateAt := [0, 1, 2, 3].foldl (fun m t => if g.getLsbD t && !k.gate.getLsbD t then fset m 0 t s.now else m) k.gateAt
    gateLate := k.gateLate &&& (g &&& k.gate)
    drained := k.drained &&& (g &&& k.gate) }
  dropQueued s l (fun tc => g.getLsbD tc) false

/-- Whether a frame holds a flit of a class. -/
def frameHas (f : Frame) (tc : Nat) : Bool :=
  (List.range (min 16 (bits f.ctl.toNat 94 90))).any fun i => bits f.ctl.toNat (44 + 3 * i) (42 + 3 * i) / 2 == tc

/-- Whether a packet held in an input VC, as flits or as a packet, has link `l` as its next hop. -/
def rxWaits (s : State) (l tc : Nat) : Bool :=
  (s.fab.waiting.any fun w => decide (w.origin < 128) && hTc w.pkt == tc && (route s w.pkt).2 == some l) ||
  (List.range 16).any fun i => [0, 1].any fun v =>
    let q := fget (s.link i).rx [] (2 * tc + v)
    (List.range (q.length / 5 + 1)).any fun j => match q[5 * j]? with
      | none => false
      | some h => (route s { head := h, data := [] }).2 == some l

/-- Whether a class is drained on a link (R341). -/
def classDrained (s : State) (l tc : Nat) : Bool :=
  (queuedFor s l).all (fun p => hTc p != tc) && (s.link l).replayBuf.all (fun f => !frameHas f tc) && !rxWaits s l tc &&
  s.fab.injIn.all fun p => hTc p.2 != tc || (route s p.2).2 != some l

/-! ### Injection (R323) -/

/-- Flits that the packets of an injection buffer still hold: those of a packet in progress that have left count no more. -/
def injFlits (s : State) (set2 : Bool) (b : Nat) : Nat :=
  let q := fget (if set2 then s.fab.inj2 else s.fab.inj) [] b
  let (src, n) := fget (s.link (b / 8)).tx (9, 0) (b % 8)
  5 * q.length - if b < 128 ∧ src = (if set2 then 1 else 0) then n else 0

/-- Whether an injection buffer takes a packet: 64 flits, at least 5 free (R323). -/
def injRoom (s : State) (set2 : Bool) (b : Nat) : Bool := decide (injFlits s set2 b + 5 ≤ 64)

/-- Injection buffer of a routed packet: 8 × link + VC, or 128 + VC for the local route. -/
def injKey (p : Packet) (l : Option Nat) : Nat :=
  match l with
  | some l => 8 * l + hVcNo p
  | none => 128 + hVcNo p

/-- Injects a packet into a set of buffers: none where its buffer has no room, else the state after the packet was taken or dropped (R319,
R323). -/
def inject (s : State) (set2 : Bool) (p : Packet) : Option State × Nat :=
  let (q, l) := route s p
  let b := injKey q l
  let bad := match l with
    | some l => hopBad s l (hTc q)
    | none => false
  if bad then (some (dropAtLink s (b / 8)), b)
  else
    let m := if set2 then s.fab.inj2 else s.fab.inj
    if injRoom s set2 b then
      let m := fset m [] b (fget m [] b ++ [q])
      (some (s.mapFab fun f => if set2 then { f with inj2 := m } else { f with inj := m }), b)
    else (none, b)

/-- Moves fan-out copies that wait into the second set, in order; copies for other buffers pass one that has no room. -/
def injRefill (s : State) : State :=
  s.fab.injIn.foldl (fun s p => match (inject s true p.2).1 with
    | some t => t
    | none => s.mapFab fun f => { f with injIn := f.injIn ++ [p] }) (s.mapFab fun f => { f with injIn := [] })

/-- Injects a packet of the router into the second set, behind those that wait; `o` is the origin that it holds back. -/
def injOwn (s : State) (o : Nat) (p : Packet) : State := injRefill (s.mapFab fun f => { f with injIn := f.injIn ++ [(o, p)] })

/-! ### Switching (R335, R337) -/

/-- The packet that a buffer offers to output VC `v` of link `l`: 0 and 1 the injection sets, 2 the load service, 3 + o the input VC `o`. -/
def srcPacket (s : State) (l v : Nat) : Nat → Option Packet
  | 0 => (fget s.fab.inj [] (8 * l + v)).head?
  | 1 => (fget s.fab.inj2 [] (8 * l + v)).head?
  | 2 => (s.link l).outQ.find? fun p => hVcNo p == v
  | o + 3 => match s.fab.waiting.find? fun w => w.origin == o with
    | some w =>
      let (q, h) := route s w.pkt
      if w.told ∧ h = some l ∧ hVcNo q = v then some q else none
    | none => none

/-- The buffers that compete for an output VC. -/
def srcList (s : State) : List Nat := [0, 1, 2] ++ (uniq ((s.fab.waiting.filter fun w => decide (w.origin < 128)).map fun w => w.origin + 3)).mergeSort

/-- The buffer that holds output VC `v` of a link, or takes it by round robin among the buffers (R335, R337), with the flits it has sent. -/
def claimOf (s : State) (l v : Nat) : Option (Nat × Nat) :=
  match (s.link l).tx.find? fun p => p.1 == v with
  | some p => some p.2
  | none =>
    let q := (srcList s).filter fun x => (srcPacket s l v x).isSome
    ((q.find? fun x => decide (fget (s.link l).rr 0 v < x)).or q.head?).map fun x => (x, 0)

/-- Whether output VC `v` of a link has a flit that is allowed to move. -/
def vcReady (s : State) (l v : Nat) : Bool := !(s.link l).peerXoff.getLsbD v && (claimOf s l v).isSome

/-- The output VC of a class whose flit goes next, VC 1 before VC 0 (R337). -/
def classVc (s : State) (l tc : Nat) : Option Nat := [2 * tc + 1, 2 * tc].find? (vcReady s l)

/-- The output VC whose flit goes next, and whether a new round of TC1 to TC3 begins (R337). -/
def pickVc (s : State) (l : Nat) : Option (Nat × Bool) :=
  let left := [1, 2, 3].filter fun t => decide (fget (s.link l).wrr 0 t < arbW s t)
  match classVc s l 0 with
  | some v => some (v, false)
  | none => match left.findSome? (classVc s l) with
    | some v => some (v, false)
    | none => ([1, 2, 3].findSome? (classVc s l)).map fun v => (v, true)

/-- A packet whose head flit leaves: a beacon takes its sender's fabric time (R343). -/
def stampHead (s : State) (src : Nat) (p : Packet) : Packet :=
  if src = 1 ∧ hKind p = 0 ∧ hTc p = 0 ∧ hQueue p = 0x3FF then { p with data := padTo 64 (leBytes 8 s.fab.ftime) } else p

/-- A handoff that waits for room in an injection buffer of the first set goes on 4 W-cycles after the room comes (R45). -/
def injFreed (had : Bool) (s : State) (b : Nat) : State :=
  if injRoom s false b then endCause (if had then s else s.mapFab fun f => { f with injAt := fset f.injAt 0 b (horizon s) }) 2 b 4 else s

/-- The flits of a buffer's packet up to number `n` have left (R335); with the fifth the packet is gone and the output VC is free. -/
def srcGone (s : State) (l v src n : Nat) : State :=
  let b := 8 * l + v
  let s := s.mapLink l fun k => { k with tx := if n = 5 then k.tx.filter fun p => p.1 != v else (v, (src, n)) :: k.tx.filter fun p => p.1 != v }
  if n < 5 then s
  else match src with
    | 0 => s.mapFab fun f => { f with inj := fset f.inj [] b ((fget f.inj [] b).drop 1) }
    | 1 => s.mapFab fun f => { f with inj2 := fset f.inj2 [] b ((fget f.inj2 [] b).drop 1) }
    | 2 => s.mapLink l fun k => { k with outQ := dropFirst (fun p => hVcNo p == v) k.outQ }
    | o + 3 => s.mapFab fun f => { f with waiting := dropFirst (fun w => w.origin == o) f.waiting }

/-- Puts a stamped packet back at the head of its buffer. -/
def srcStamp (s : State) (l v src : Nat) (p : Packet) : State :=
  if src = 1 then s.mapFab fun f => { f with inj2 := fset f.inj2 [] (8 * l + v) (p :: (fget f.inj2 [] (8 * l + v)).drop 1) } else s

/-- The next flit of output VC `v` of a link leaves. -/
def sendFlit (s : State) (l v : Nat) (fresh : Bool) : State × BitVec 128 :=
  match claimOf s l v with
  | none => (s, 0#128)
  | some (src, n) => match srcPacket s l v src with
    | none => (s, 0#128)
    | some p =>
      let had := injRoom s false (8 * l + v)
      let p := if n = 0 then stampHead s src p else p
      let orig := match src with
        | o + 3 => ((s.fab.waiting.find? fun w => w.origin == o).map fun w => (packetFlits w.pkt).getD n 0#128).getD 0#128
        | _ => 0#128
      let s := if n = 0 then srcStamp s l v src p else s
      let s := s.mapLink l fun k => { k with
        rr := if n = 0 then fset k.rr 0 v src else k.rr
        wrr := if v / 2 = 0 then k.wrr else
          let m := if fresh then [] else k.wrr
          if n = 4 then fset m 0 (v / 2) (fget m 0 (v / 2) + 1) else m }
      let s := srcGone (s.cond (decide (3 ≤ src)) fun s => rxDrop s (src - 3) orig) l v src (n + 1)
      (s.cond (src == 0) fun s => injFreed had s (8 * l + v), (packetFlits p).getD n 0#128)

/-- Up to `n` more flits for the frame that a link is to send. -/
def fillFrame (s : State) (l : Nat) (acc : List (Nat × BitVec 128)) : Nat → State × List (Nat × BitVec 128)
  | 0 => (s, acc)
  | n + 1 => match pickVc s l with
    | none => (s, acc)
    | some (v, fresh) => let (t, x) := sendFlit s l v fresh; fillFrame t l (acc ++ [(v, x)]) n

/-- Sends frames while flits may move, up to `n` of them. -/
def pumpGo (s : State) (l : Nat) : Nat → State
  | 0 => s
  | n + 1 =>
    let (t, fl) := fillFrame s l [] 16
    if fl.isEmpty then s else pumpGo (t.mapLink l fun k => sendFrame k (frameWith k fl)) l n

/-- Sends what a link can take of the flits that wait for it. -/
def pump (s : State) (l : Nat) : State := if frameRoom (s.link l) then pumpGo s l (1024 - (s.link l).replayBuf.length) else s

/-- Sends a packet of the load service on a link, or drops it there (R319). -/
def forward (s : State) (l : Nat) (p : Packet) : State :=
  if hopBad s l (hTc p) then dropAtLink s l else pump (s.mapLink l fun k => { k with outQ := k.outQ ++ [p] }) l

/-! ### SEND (R320-R322) -/

/-- The half that `HSEL` selects (R322). -/
def hselHalf (s : State) (h : Nat) : Bool :=
  if h = 0 then false else if h = 1 then true else if h = 2 then s.sch.stepNo % 2 == 1 else s.sch.stepNo % 2 == 0

/-- A packet as the output digest takes it: its head flit and its payload (R539). -/
def packetBytes (p : Packet) : List Byte := flitBytes p.head ++ padTo 64 p.data

/-- Hands packet `i` of a send to the router: none when its buffer has no room, or room that came within the horizon, with the buffer and the
W-cycle until which it waits (R45, R323). Handoffs of a replayed step that were
made before are discarded (R274), and so is every handoff of a chip-mode replay (R541). -/
def handOff (s : State) (p : Packet) : Option State × Nat × Option Nat :=
  let dig := fun (s : State) => s.mapSch fun k => { k with outDig := k.outDig ++ packetBytes p }
  if 0 < s.sch.discard then (some (s.mapSch fun k => { k with discard := k.discard - 1 }), 0, none)
  else if chipReplay s then (some (dig (s.mapSch fun k => { k with handed := k.handed + 1 })), 0, none)
  else
    match inject s false p with
    | (none, b) => (none, b, none)
    | (some t, b) =>
      match lateBy s (fget s.fab.injAt 0 b) with
      | some w => (none, b, some w)
      | none => (some (dig (t.mapSch fun k => { k with handed := k.handed + 1 })), b, none)

/-- Packet `i` of a send (R321). -/
def sendPacket (d : Desc) (e : Nat) (half : Bool) (bs : List Byte) (i : Nat) : Packet :=
  { head := headOf e (pathTc e) (dP d 28 27) (dP d 26 25) half (dP d 51 42) (dP d 39 29 + i)
    data := padTo 64 ((bs.drop (64 * i)).take 64) }

/-- Hands over the packets of a send from number `i` on that are due, one each S-cycle from its start: the state, the packets handed over, and
the buffer that holds the S-cycle, with the W-cycle until which it does where that is known (R45, R321, R323). -/
def sendGo (r : RunOp) (pk : Nat → Packet) (s : State) (i : Nat) : Nat → State × Nat × Option (Nat × Option Nat)
  | 0 => (s, i, none)
  | n + 1 =>
    if s.sch.sCycle < r.startS + i then (s, i, none)
    else match handOff s (pk i) with
      | (some t, _) => sendGo r pk t (i + 1) n
      | (none, b) => (s, i, some b)

/-- SEND (R320, R321): a source type that is not allowed sends nothing; an extent of 0 sends 0 packets. -/
def sendOp (s : State) (c e : Nat) (r : RunOp) : State :=
  let d := r.item.desc
  let fin := fun (s : State) => opDone s c e 0xB0
  let en := pathAt (pathBank s) (dP d 63 52)
  match operand s c d 0 with
  | none => fin (s.cond (!pathValid en) fun s => raise s 0x0A04 0x15 [c, dP d 63 52])
  | some x =>
    let n := cdiv x.bytes 64
    let own := match x.loc with
      | .pool cl => decide (x.typ = 3 ∧ cl = c / 12)
      | _ => x.typ == 1
    if !own then fin (raiseE s 0x0704 c r.eng (opPlace r))
    else if !pathValid en ∨ 2048 < dP d 39 29 + n then fin (raise s 0x0A04 0x15 [c, dP d 63 52])
    else
      let bad := r.bad || dReserved d || dP d 24 0 != 0
      let (fb, s) := if bad then takeFree s (64 * n) else ([], s)
      let bs := if bad then fb else opRead s x 0 x.bytes
      let (s, k, blk) := sendGo r (sendPacket d en (hselHalf s (dP d 41 40)) bs) s r.prog (n - r.prog)
      let s := opMap s c e 0xB0 fun r => { r with prog := k }
      match blk with
      | some (b, h) => holdFor s 2 b (some h)
      | none => if k = n then fin s else s

/-! ### RECV (R326, R327) -/

/-- Key of a half: 2 × queue + half. -/
def halfKey (q : Nat) (h : Bool) : Nat := 2 * q + if h then 1 else 0

/-- The counter of a half (R325). -/
def halfCount (s : State) (k : Nat) : Nat := fget s.fab.halves 0 k

/-- First word of a half of a queue (R325). -/
def halfBase (s : State) (k : Nat) : Nat :=
  let (_, b, h) := queueEntry s (k / 2)
  b + 16 * h * (k % 2)

/-- The half that a `RECV` receives. -/
def recvHalf (s : State) (r : RunOp) : Nat := halfKey (dP r.item.desc 63 54) (hselHalf s (dP r.item.desc 53 52))

/-- Whether a `RECV` fails R327. -/
def recvBad (s : State) (c : Nat) (r : RunOp) : Bool :=
  let d := r.item.desc
  let k := recvHalf s r
  let (co, _, hs) := queueEntry s (k / 2)
  (match operand s c d 3 with
    | some x => x.typ != 6 || x.a != 4 * halfBase s k || x.ext != 16 * hs
    | none => true) || co != some c || decide (hs < dP d 51 40)

/-- Writes a received packet to its place in the window, by narrow requests of the receiving core (R325). A packet for a segment that is off is
dropped and counted in 0x4015 (R282); the Bool says that the packet was written. -/
def windowPut (s : State) (k tag : Nat) (bs : List Byte) : State × Bool :=
  match queueEntry s (k / 2) with
  | (some c, _, _) =>
    let (s, off) := spadWrite s c (4 * (halfBase s k + 16 * tag)) (padTo 64 bs)
    if off then (s.mapFab fun f => { f with arrDrops := sat32 f.arrDrops }, false) else (s, true)
  | _ => (s, false)

/-- The payload of an input-record entry of a receive (Table 17-4). -/
def recvEntry (k : Nat) (ps : List (Nat × List Byte)) : List Byte :=
  leBytes 2 (k / 2) ++ leBytes 1 (k % 2) ++ [0#8] ++ leBytes 2 ps.length ++ leBytes 2 0 ++
    (ps.map fun p => leBytes 2 p.1 ++ List.replicate 6 0#8 ++ padTo 64 p.2).flatten

/-- In a chip-mode replay the packets of the matching `RECV` entry are written into the half before its due S-cycle (R541). -/
def recvReplay (s : State) (r : RunOp) : State :=
  if chipReplay s then
    let k := recvHalf s r
    let (e, s) := replayTake s fun e => e.kind == 3 && e.scyc == r.startS + 1 && fieldAt e.data 0 2 == k / 2 && fieldAt e.data 2 1 == k % 2
    match e with
    | some e =>
      let n := fieldAt e.data 4 2
      let s := (List.range n).foldl (fun s i => (windowPut s k (fieldAt e.data (8 + 72 * i) 2) ((e.data.drop (16 + 72 * i)).take 64)).1) s
      s.mapFab fun f => { f with halves := fset f.halves 0 k (fget f.halves 0 k + n) }
    | none => mismatch s 3
  else s

/-- What the serving controller takes from a completed receive of its queues (R387, R388). -/
def recvServe (s : State) (k : Nat) (c : Nat) : State :=
  let bs := spadRead s c (4 * halfBase s k) 64
  if k / 2 = conf s 8 ∧ !s.srv.gotUpd then takeUpdate s bs
  else if k / 2 = conf s 9 ∧ !s.srv.gotRep then takeReport s bs
  else s

/-- A receive completes (R326): its count is noted for the Weir, and a counter above `COUNT` leaves its result undefined. -/
def recvComplete (s : State) (c e : Nat) (r : RunOp) : State :=
  let k := recvHalf s r
  let n := dP r.item.desc 51 40
  let more := decide (n < halfCount s k)
  let ps := fget s.fab.taken [] k
  let s := inpAddChip s (r.startS + 1) (recvEntry k ps)
  let s := s.mapFab fun f => { f with takes := f.takes ++ [(k, n, ps.length)] }
  let s := recvServe s k c
  let s := if more then opUndef (raise s 0x0A03 0x15 [k / 2]) (operand s c r.item.desc 3) else s
  opDone (opMap s c e 0xB1 fun r => { r with recvOk := true }) c e 0xB1
where
  /-- A `RECV` entry of a chip-mode record (R537). -/
  inpAddChip (s : State) (t : Nat) (bs : List Byte) : State := if s.inp.mode = 2 then inpAdd s 3 t bs else s

/-- RECV (R326, R327): due in S-cycle t + 1, for which Eddy cause 1 is tested. -/
def recvOp (s : State) (c e : Nat) (r : RunOp) : State :=
  let d := r.item.desc
  if recvBad s c r then
    opDone (opMap (opUndef (raise s 0x0A0D 0x15 [c, dP d 63 54]) (operand s c d 3)) c e 0xB1 fun r => { r with recvOk := true }) c e 0xB1
  else if s.sch.sCycle ≤ r.startS then s
  else
    let s := if r.prog = 0 then opMap (recvReplay s r) c e 0xB1 fun r => { r with prog := 1 } else s
    if chipReplay s ∨ dP d 51 40 = 0 then recvComplete s c e r
    else if halfCount s (recvHalf s r) < dP d 51 40 then addCause s 1 (4 * c + e % 4)
    else match lateBy s (fget s.fab.halfAt 0 (recvHalf s r)) with
      | some w => addCauseUntil s 1 (4 * c + e % 4) w
      | none => recvComplete s c e r

/-! ### Path-bank switches (R339) -/

/-- Applies a path-table switch: the inactive bank becomes active and is measured (R339, Table 16-1); refused unless VALID. -/
def pathSwitch (s : State) : State :=
  if s.fab.pathIn = .valid then
    let s := s.mapFab fun f => { f with pathAct := !f.pathAct, pathIn := .spent }
    let s := raise s 0x0A09 0x15 []
    measure s 0x41 4 (shake64 (mread (pathBank s) 0 65536))
  else raise s 0x0A0A 0x15 []

/-- Seals the inactive path bank; the Bool says whether it holds (R339, R340). -/
def pathSeal (s : State) : State × Bool :=
  if s.fab.pathIn ≠ .empty ∧ pathSealOk (pathInBank s) then (s.mapFab fun f => { f with pathIn := .valid }, true)
  else (raise s 0x0A0A 0x15 [], false)

/-- Device states in which path tables are written (Table 10-14). -/
def pathState (s : State) : Bool := s.dev.state == .standby || s.dev.state == .ready || s.dev.state == .running || s.dev.state == .draining

/-- A seal of the path table through 0x4021, with what follows a good seal and whether there is room for it: a failed check raises its event
and refuses the write (R105, R339, R430). -/
def pathSealCmd (s : State) (p : Path) (stOk room : Bool) (more : State → State) : State :=
  let obj := 0x402100
  if !served s p then s
  else if !ownerOk s p then refuse s p obj abNOTOWNER
  else if !(stateServes s obj && stOk) then refuse s p obj abSTATE
  else
    match pathSeal s with
    | (t, true) => if room then okResp (more t) p obj else refuse s p obj abSTAGEFULL
    | (t, false) => refuse t p obj abCHECK

/-! ### Fabric time (R343, R344) -/

/-- A beacon for one child link: a TC0 packet to service queue 0x3FF, one hop, with the sender's fabric time, which the head flit takes anew as it
leaves (R343). -/
def beaconPacket (s : State) (l : Nat) : Packet :=
  { head := headOf (l * 2 ^ 47 + 2 ^ 40) 0 0 0 false 0x3FF 0, data := padTo 64 (leBytes 8 s.fab.ftime) }

/-- Beacons on every child link. -/
def beaconOut (s : State) : State :=
  (List.range 16).foldl (fun s l => if s.fab.childs.getLsbD l then pump (injOwn s 256 (beaconPacket s l)) l else s) s

/-- A follower takes a beacon from its parent link (R343): a correction of 1 µs or more is a step, a smaller one is slewed. -/
def beaconTake (s : State) (l : Nat) (t : Nat) : State :=
  if s.fab.role = 1 ∨ s.fab.parent ≠ l ∨ s.dev.state = .off then s
  else
    let new := t + (s.link l).delay
    let c : Int := (new : Int) - s.fab.ftime
    let step := decide (1000 ≤ c.natAbs)
    let s := s.mapFab fun f => { f with
      ftime := if step then new else f.ftime, slewNs := if step then 0 else c, corrNs := max (-2147483648) (min 2147483647 c)
      lastBeacon := if step then new else f.ftime, beaconLate := false }
    beaconOut s

/-! ### Meanings -/

/-- SEND (R321). -/
def execSend (c : CoreId) (d : Fin 4) (s : State) : Host.Outcome State Fault Refusal := .next (withQueue s c.val (12 + d.val) 0xB0 sendOp)

/-- RECV (R326). -/
def execRecv (c : CoreId) (d : Fin 4) (s : State) : Host.Outcome State Fault Refusal := .next (withQueue s c.val (12 + d.val) 0xB1 recvOp)

/-- RECEIVE_COMPLETE (R37, R45): the counter of a due receive reaches `COUNT`; the receive completes and cause 1 ends 4 W-cycles later. -/
def execReceiveComplete (c : CoreId) (d : Fin 4) (s : State) : Host.Outcome State Fault Refusal :=
  .next (match opOf s c.val (12 + d.val) 0xB1 with
    | none => s
    | some r =>
      let due := decide (r.prog = 1) || s.sch.causes.any fun x => x.no == 1 && x.src == 4 * c.val + d.val
      if s.sch.job ∧ due ∧ dP r.item.desc 51 40 ≤ halfCount s (recvHalf s r) then
        endCause (recvComplete s c.val (12 + d.val) r) 1 (4 * c.val + d.val) 4
      else s)

/-- CLASS_DRAINED (R341). -/
def execClassDrained (l : LinkId) (tc : Fin 4) (s : State) : Host.Outcome State Fault Refusal :=
  .next (if gateShut (s.link l.val) tc.val ∧ classDrained s l.val tc.val then
    s.mapLink l.val fun k => { k with drained := k.drained ||| (1#8 <<< tc.val) } else s)

/-- DRAIN_TIMEOUT (R341): 10 ms after the class was closed. -/
def execDrainTimeout (l : LinkId) (tc : Fin 4) (s : State) : Host.Outcome State Fault Refusal :=
  let k := s.link l.val
  .next (if gateShut k tc.val ∧ !k.drained.getLsbD tc.val ∧ !k.gateLate.getLsbD tc.val ∧ fget k.gateAt 0 tc.val + 10000000 ≤ s.now then
    raise (s.mapLink l.val fun k => { k with gateLate := k.gateLate ||| (1#8 <<< tc.val) }) 0x0A0B 0x15 [l.val, tc.val] else s)

/-- PATH_BANK_WRITE (R339). -/
def execPathBankWrite (p : Path) (off : BitVec 32) (data : List Byte) (s : State) : Host.Outcome State Fault Refusal :=
  .next (odReq s p 0x402000 (.pathBankWrite p off data)
    (odCmd s p 0x402000 (pathState s) (firstAbort [(decide (off.toNat + data.length ≤ 65536), abPASTEND)]) fun s =>
    s.mapFab fun f => if f.pathAct then { f with pathA := mwrite f.pathA off.toNat data, pathIn := .filling }
      else { f with pathB := mwrite f.pathB off.toNat data, pathIn := .filling }))

/-- PATH_BANK_SEAL (R340). -/
def execPathBankSeal (p : Path) (s : State) : Host.Outcome State Fault Refusal :=
  .next (odReq s p 0x402100 (.pathBankSeal p) (pathSealCmd s p true true fun s => s))

/-- PATH_BANK_SEAL_SWITCH (R339): at once in STANDBY and READY, else a staged change (refused when no place is left, R440, or in a replay, R541). -/
def execPathBankSealSwitch (p : Path) (s : State) : Host.Outcome State Fault Refusal :=
  .next (odReq s p 0x402100 (.pathBankSealSwitch p)
    (pathSealCmd s p (!(stagesNow s && s.inp.replaying)) (!stagesNow s || stageRoom s .pathSwitch) fun s =>
    if stagesNow s then stage s .pathSwitch else pathSwitch s))

/-- BEACON_SEND (R343). -/
def execBeaconSend (s : State) : Host.Outcome State Fault Refusal :=
  .next (if s.fab.role = 1 ∧ s.dev.state ≠ .off then beaconOut s else s)

/-- BEACON_RECEIVE (R343): a beacon that comes while the chip takes no packets is dropped (R319). -/
def execBeaconReceive (l : LinkId) (t : BitVec 64) (s : State) : Host.Outcome State Fault Refusal :=
  .next (if fabricTakes s then beaconTake s l.val t.toNat else if s.dev.state = .off then s else dropArr s [0x3FF])

/-- BEACON_TIMEOUT (R344). -/
def execBeaconTimeout (s : State) : Host.Outcome State Fault Refusal :=
  .next (if s.fab.role = 0 ∧ s.dev.state ≠ .off ∧ !s.fab.beaconLate ∧ s.fab.lastBeacon + 10000000 ≤ s.now then
    raise (s.mapFab fun f => { f with beaconLate := true }) 0x0A0C 0x15 [] else s)

end Sys2Proof.Machine
end

