-- ==== Sys2Proof/Machine/Timed.lean ====
section
/-! DEFINITION. How the effect of an engine operation spreads over the S-cycles of its latency (R152, R163, R196, R219, R237, R239, R258, R581; log 5): the wide
accesses that it makes in each S-cycle (R255; log 73), what it reads at the start of an S-cycle, and which part of its result it writes in one. -/

namespace Sys2Proof.Machine

/-! ### The wide accesses of an S-cycle (R255) -/

/-- A wide access of one S-cycle: bytes `lo` to `hi - 1` of memory `mem` (0-191 the scratchpad of that core, 192-207 the pool of cluster
`mem - 192`, 208 the beds), by the operation that started in S-cycle `t0` on engine `eng` of `core`; 16 is the sequencer. `key` tells which row, chunk
or pass of the operation reads it. -/
structure WAcc where
  mem : Nat
  wr : Bool
  lo : Nat
  hi : Nat
  core : Nat
  eng : Nat
  t0 : Nat
  key : Nat
deriving DecidableEq, Repr

/-- Number of the memory of an operand among those that arbitrate. -/
def memNo (l : Loc) : Option Nat :=
  match l with
  | .spad c => some c
  | .pool cl => some (192 + cl)
  | .beds => some 208
  | _ => none

/-- The access to bytes `o` to `o + n - 1` of an operand, held to its extent (R79). -/
def accOp (c : Nat) (r : RunOp) (wr : Bool) (x : Option Opnd) (o n : Nat) (key : Nat := 0) : List WAcc :=
  match x with
  | none => []
  | some x =>
    match memNo x.loc with
    | none => []
    | some m => if min n (x.bytes - o) = 0 then [] else [⟨m, wr, x.a + o, x.a + o + min n (x.bytes - o), c, r.eng, r.startS, key⟩]

/-- The access of S-cycle `j` of `m` to the first `b` bytes of an operand, which the operation spreads evenly over them. -/
def accEven (c : Nat) (r : RunOp) (wr : Bool) (x : Option Opnd) (b j m : Nat) (key : Nat := 0) : List WAcc :=
  accOp c r wr x (j * b / m) ((j + 1) * b / m - j * b / m) key

/-- Length in bytes of an operand; 0 when it is absent. -/
def opLen (s : State) (c : Nat) (d : Desc) (i : Nat) : Nat := ((operand s c d i).map (·.bytes)).getD 0

/-- Pieces of bytes `lo` to `hi - 1` of a byte stream laid out in rows of `len` bytes at a stride: offset and length of each (R237). -/
def rowPieces (len stride lo hi : Nat) : List (Nat × Nat) :=
  if len = 0 ∨ hi ≤ lo then []
  else (List.range ((hi - 1) / len - lo / len + 1)).map fun q =>
    let k := lo / len + q
    (stride * k + (max lo (k * len) - k * len), min hi ((k + 1) * len) - max lo (k * len))

/-- Rate of a transfer in bytes per S-cycle (R236). -/
def xferRate (s : State) (c : Nat) (d : Desc) : Nat := min (16 * max 1 (dP d 63 56)) (copyPath s c d).1

/-- The pieces of chunk `j` of a transfer in operand `i`: offset and length of each (R237). -/
def chunkPieces (s : State) (c : Nat) (r : RunOp) (i j : Nat) : List (Nat × Nat) :=
  let d := r.item.desc
  let q := xferRate s c d
  if dOpcode d = 0xA1 then (if j * q < opLen s c d i then [(j * q, min q (opLen s c d i - j * q))] else [])
  else
    let len := dP d 39 20
    rowPieces len (64 * if i = 0 then dP d 19 10 else dP d 9 0) (j * q) (min ((j + 1) * q) (dP d 48 40 * len))

/-- Accesses of chunk `j` of a transfer to one of its operands (R237). -/
def chunkAcc (s : State) (c : Nat) (r : RunOp) (wr : Bool) (i j : Nat) : List WAcc :=
  (chunkPieces s c r i j).flatMap fun p => accOp c r wr (operand s c r.item.desc i) p.1 p.2 j

/-- S-cycles before its write in which a chunk reaches the memory of its destination: a pool's latency leaves 6 for its wait (R259). -/
def writeLead (x : Option Opnd) : Nat :=
  match x with
  | some ⟨_, .pool _, _, _, _⟩ => 6
  | _ => 0

/-- Accesses of a `COPY` or `FILL`, `i` S-cycles after its start (R237, R259). -/
def xferAcc (s : State) (c : Nat) (r : RunOp) (i : Nat) : List WAcc :=
  let d := r.item.desc
  let ok := dOpcode d == 0xA1 || copyPair (operandAny s c d 0) (operandAny s c d 3)
  let w := r.lat - r.occ - writeLead (operand s c d 3)
  (if ok && dOpcode d == 0xA0 && decide (i < r.occ) then chunkAcc s c r false 0 i else []) ++
  (if ok && decide (w ≤ i ∧ i - w < r.occ) then chunkAcc s c r true 3 (i - w) else [])

/-- Reads of a stationary or sentinel load: each operand spread evenly over the occupancy (R151). -/
def loadAcc (s : State) (c : Nat) (r : RunOp) (ops : List Nat) (i : Nat) : List WAcc :=
  if r.occ ≤ i then [] else ops.flatMap fun o => accEven c r false (operand s c r.item.desc o) (opLen s c r.item.desc o) i r.occ

/-- Key of the bitmap of a `STREAM` among its reads. -/
def bitmapKey : Nat := 4096

/-- The state as an operation sees it through what it has read: its own scratchpad holds the pieces of the keys `ks`, the vector registers, masks and
accumulator rows are those that it has read. -/
def viewOf (s : State) (c : Nat) (r : RunOp) (ks : List Nat) : State :=
  s.mapCore c fun k => { k with
    spad := (r.pieces.filter fun p => ks.contains p.key).foldl (fun m p => mwrite m p.addr p.bytes) []
    segMask := 255, vreg := r.vreg, mreg := r.mreg, arrays := fset k.arrays {} (vaccArr r.item.desc) r.arr }

/-- Validity of row `q` of a `STREAM`, from the bitmap as it was read in the start S-cycle (R158). -/
def rowOk (s : State) (c : Nat) (r : RunOp) (q : Nat) : Bool :=
  if r.pieces.any fun p => p.key == bitmapKey then rowValid (viewOf s c r [bitmapKey]) c r q else rowValid s c r q

/-- Reads of a `STREAM`: the bitmap in the start S-cycle, then the elements and scales of a valid row (R152, R158). -/
def streamAcc (s : State) (c : Nat) (r : RunOp) (i : Nat) : List WAcc :=
  let d := r.item.desc
  let f := dP d 43 39
  let k := tileK c r.arr.active.fmt
  let w := k * fmtBits f / 8
  (if i = 0 ∧ dP d 36 35 = 2 then accOp c r false (operand s c d 2) 0 (cdiv (dP d 53 44) 8) bitmapKey else []) ++
  (if decide (i < dP d 53 44) && rowOk s c r i then
    accOp c r false (operand s c d 0) (i * w) w i ++ (if fmtBlock f then accOp c r false (operand s c d 1) (i * (k / 32)) (k / 32) i else [])
  else [])

/-- Writes of a `DRAIN`: output row q in S-cycle t + q + (λ − M) (R163). -/
def drainAcc (s : State) (c : Nat) (r : RunOp) (i : Nat) : List WAcc :=
  let d := r.item.desc
  let q := i + r.occ - r.lat
  if r.lat ≤ i + r.occ ∧ q < r.occ then accOp c r true (operand s c d 3) (q * drainBytes d) (drainBytes d) else []

/-- The accesses of a `VLD` or `VST` to the words of register `g` (R192, R196, R208, R209). -/
def vRegAcc (s : State) (c : Nat) (r : RunOp) (wr : Bool) (g : Nat) : List WAcc :=
  let d := r.item.desc
  (vRuns { s.core c with mreg := r.mreg } c d (vCount c r) g wr).flatMap fun q =>
    accOp c r wr (operand s c d (if wr then 3 else 0)) (4 * vStride c d * g + q.1) q.2

/-- Passes of a row engine over each row (R219). -/
def rowPasses (d : Desc) : Nat := if dOpcode d = 0x41 then 3 else if dOpcode d = 0x50 then 1 else 2

/-- Elements of row `u` that a row engine reads (R222, R223). -/
def rowElems (r : RunOp) (u : Nat) : Nat := if dOpcode r.item.desc = 0x30 then smLen r u else fxLen r.item.desc

/-- Reads of a row engine: P passes over each row in chunks of E elements (R219). The parameter vectors of a normalisation are read with the chunks of
the last pass, the ω of a `ROTARY` spread over the chunks and its position with the first (log 73). -/
def rowReads (s : State) (c : Nat) (r : RunOp) (i : Nat) : List WAcc :=
  let d := r.item.desc
  let o := dOpcode d
  let p := rowPasses d
  let ch := chunks c (fxLen d)
  let u := i / (p * ch)
  let ps := i % (p * ch) / ch
  let j := i % ch
  let f := dP d 21 17
  let e := lanes c
  let key := 8 * u + ps
  let part := fun (x : Option Opnd) (g base n : Nat) =>
    accOp c r false x (base + fmtBytes g (min n (j * e))) (fmtBytes g (min n ((j + 1) * e)) - fmtBytes g (min n (j * e))) key
  if r.occ ≤ i ∨ ch = 0 then []
  else part (operand s c d 0) f (4 * (u * dP d 47 32)) (rowElems r u) ++
    (if o = 0x50 then accEven c r false (operand s c d 1) (4 * dP d 16 7) j ch key ++ (if j = 0 ∧ dPb d 5 then accOp c r false (operand s c d 2) (4 * u) 4 key else [])
     else if o ≠ 0x30 ∧ ps + 1 = p then part (operand s c d 1) (dP d 4 0) 0 (fxLen d) ++ (if o = 0x41 then part (operand s c d 2) (dP d 4 0) 0 (fxLen d) else [])
     else [])

/-- Bytes of one output row of a row engine (R219). -/
def rowBytes (d : Desc) : Nat := 4 * rowWords (if dOpcode d = 0x50 then dP d 21 17 else dP d 16 12) (fxLen d)

/-- Writes of a row engine: a row's bytes spread over the c S-cycles that end with the one in which R219 has it written, the statistics of a
`SOFTMAX` row in the last (log 73). -/
def rowWrites (s : State) (c : Nat) (r : RunOp) (i : Nat) : List WAcc :=
  let d := r.item.desc
  let p := rowPasses d
  let ch := chunks c (fxLen d)
  let q := i + r.occ - r.lat
  let u := q / (p * ch)
  let z := q % (p * ch)
  let j := z - (p - 1) * ch
  let w := rowBytes d
  if ch = 0 ∨ i + r.occ < r.lat ∨ r.occ ≤ q ∨ z < (p - 1) * ch then []
  else accOp c r true (operand s c d 3) (u * w + j * w / ch) ((j + 1) * w / ch - j * w / ch) ++
    (if dOpcode d = 0x30 ∧ j + 1 = ch then accOp c r true (operand s c d 3) (fxRows d * w + 8 * u) 8 else [])

/-- Accesses of an `UNPACK` or `SPLIT`: its operands and its result spread evenly over the occupancy (log 73). -/
def unpackAcc (s : State) (c : Nat) (r : RunOp) (i : Nat) : List WAcc :=
  let d := r.item.desc
  let n := srcElems s c r
  let out := if dOpcode d = 0x60 then fmtBytes (dP d 58 54) n else 4 * cdiv n 4 + cdiv n 32
  let q := i + r.occ - r.lat
  (if i < r.occ then
    accEven c r false (operand s c d 0) (srcBytes s c r) i r.occ ++
    (if dOpcode d = 0x60 ∧ fmtBlock (dP d 63 59) then accEven c r false (operand s c d 1) (cdiv n 32) i r.occ else []) ++
    (if dOpcode d = 0x60 ∧ dP d 63 59 = 0x10 ∧ dPb d 53 then accEven c r false (operand s c d 2) (opLen s c d 2 / 4 * 4) i r.occ else [])
  else []) ++
  (if r.lat ≤ i + r.occ ∧ q < r.occ then accEven c r true (operand s c d 3) out q r.occ else [])

/-- Accesses of a `GATHER`: 512 bytes an S-cycle, of the adapter slot that its start found; it reads nothing where it writes zeros (R233, R234). -/
def gatherAcc (s : State) (c : Nat) (r : RunOp) (i : Nat) : List WAcc :=
  let d := r.item.desc
  let q := i + r.occ - r.lat
  (if r.prog = 0 ∨ r.occ ≤ i then [] else
    match operand s c d 0 with
    | some x =>
      let o := (r.prog - 1) * dP d 63 44 * 1024
      accOp c r false (some { x with bytes := o + opLen s c d 3 }) (o + 512 * i) 512 i
    | none => []) ++
  (if r.lat ≤ i + r.occ ∧ q < r.occ then accOp c r true (operand s c d 3) (512 * q) 512 else [])

/-- Accesses of a `SAMPLE`: three passes of 64 logits an S-cycle, the result in the last S-cycle (R581). -/
def sampleAcc (s : State) (c : Nat) (r : RunOp) (i : Nat) : List WAcc :=
  let d := r.item.desc
  let v := dP d 63 46
  let n := cdiv v 64
  let lo := fmtBytes (dP d 45 41) (64 * (i % n))
  (if n ≠ 0 ∧ i < 3 * n then accOp c r false (operand s c d 0) lo (fmtBytes (dP d 45 41) (min v (64 * (i % n) + 64)) - lo) (i / n) else []) ++
  (if v ≠ 0 ∧ i + 1 = r.lat then accOp c r true (operand s c d 3) 0 16 else [])

/-- Accesses of a `VERIFY` (R581). -/
def verifyAcc (s : State) (c : Nat) (r : RunOp) (i : Nat) : List WAcc :=
  let d := r.item.desc
  let k := dP d 63 61
  (if i = 0 then accOp c r false (operand s c d 0) 0 (4 * k) ++ accOp c r false (operand s c d 1) 0 (4 * k + 4) else []) ++
  (if i + 1 = r.lat then accOp c r true (operand s c d 3) 0 (4 * k + 8) else [])

/-- Accesses of a queue operation: `TRD` writes entry q in S-cycle t + q + 6, `TWR` reads entry q in S-cycle t + q (R239). -/
def queueAcc (s : State) (c : Nat) (r : RunOp) (i : Nat) : List WAcc :=
  let d := r.item.desc
  if dOpcode d = 0xC0 then
    (if 6 ≤ i ∧ i - 6 < (operandAny s c d 0).ext then accOp c r true (operand s c d 3) (64 * (i - 6)) 64 else [])
  else if i < (operandAny s c d 3).ext then accOp c r false (operand s c d 0) (64 * i) 64 else []

/-- The wide accesses of an operation in progress, `i` S-cycles after its start (R255; log 73). -/
def opAccess (s : State) (c : Nat) (r : RunOp) (i : Nat) : List WAcc :=
  match dOpcode r.item.desc with
  | 0x10 => streamAcc s c r i
  | 0x11 => loadAcc s c r [0, 1, 2] i
  | 0x14 => loadAcc s c r [0, 1] i
  | 0x13 => drainAcc s c r i
  | 0x25 => if i < r.occ then vRegAcc s c r false i else []
  | 0x26 => if r.lat ≤ i + r.occ then vRegAcc s c r true (i + r.occ - r.lat) else []
  | 0x30 => rowReads s c r i ++ rowWrites s c r i
  | 0x40 => rowReads s c r i ++ rowWrites s c r i
  | 0x41 => rowReads s c r i ++ rowWrites s c r i
  | 0x50 => rowReads s c r i ++ rowWrites s c r i
  | 0x60 => unpackAcc s c r i
  | 0x61 => unpackAcc s c r i
  | 0x70 => gatherAcc s c r i
  | 0x80 => sampleAcc s c r i
  | 0x90 => verifyAcc s c r i
  | 0xA0 => xferAcc s c r i
  | 0xA1 => xferAcc s c r i
  | 0xB0 => if i < r.occ then accOp c r false (operand s c r.item.desc 0) (64 * i) 64 else []
  | 0xC0 => queueAcc s c r i
  | 0xC1 => queueAcc s c r i
  | _ => []

/-- The wide accesses of one core in S-cycle `t`, in the order of its engines, the sequencer's `SLD` first (R87, R91). -/
def coreAccess (s : State) (t c : Nat) : List WAcc :=
  let k := s.core c
  (if k.sldRead.1 = t + 1 then [⟨c, false, k.sldRead.2, k.sldRead.2 + 4, c, 16, t, 0⟩] else []) ++
  ((List.range 16).flatMap fun e => k.run.filter fun r => r.eng == e && decide (r.startS ≤ t)).flatMap fun r => opAccess s c r (t - r.startS)

/-- The wide accesses of S-cycle `t`, by source core and engine (R87). -/
def wideAccess (s : State) (t : Nat) : List WAcc := (ringCores s).flatMap (coreAccess s t)

/-- Rows of an access (R252). -/
def accRows (x : WAcc) : List Nat := (List.range ((x.hi - 1) / 32 - x.lo / 32 + 1)).map (· + x.lo / 32)

/-- Rows of a waiting router write that are still to be written. -/
def narrowRows (n : NarrowWr) : List Nat := (if n.lo then [] else [n.addr / 32]) ++ (if n.hi then [] else [n.addr / 32 + 1])

/-! ### The start of an operation -/

/-- Whether an operation's effect spreads over its latency; sends, receives and queue operations go packet by packet and entry by entry. -/
def opTimed (o : Nat) : Bool := decide (o / 16 ≠ 0xB ∧ o / 16 ≠ 0xC)

/-- The vector operation of an opcode. -/
def vxDef (o : Nat) : VxDef :=
  match o with
  | 0x21 => vintDef
  | 0x22 => vcmpDef
  | 0x23 => vmaskDef
  | 0x24 => vcvtDef
  | 0x25 => vldDef
  | 0x26 => vstDef
  | 0x27 => vfltDef
  | 0x28 => vpermDef
  | 0x29 => vaccDef
  | 0x2A => vrcpDef
  | 0x2B => vexpDef
  | 0x2C => vdivDef
  | 0x2D => vredDef
  | _ => vsetvlDef

/-- The fixed-function operation of an opcode. -/
def fxDef (o : Nat) : FxDef :=
  match o with
  | 0x30 => softmaxDef
  | 0x40 => normDef false
  | 0x41 => normDef true
  | 0x50 => rotaryDef
  | 0x60 => unpackDef
  | 0x61 => splitDef
  | _ => sampleDef

/-- Whether an opcode is one of `fxDef`. -/
def isFx (o : Nat) : Bool := [0x30, 0x40, 0x41, 0x50, 0x60, 0x61, 0x80].contains o

/-- Whether an operation's result is undefined, as its start S-cycle shows. -/
def opBadAt (s : State) (c : Nat) (r : RunOp) : Bool :=
  let d := r.item.desc
  let o := dOpcode d
  if o / 16 = 2 then (vxDef o).bad s c r
  else if isFx o then (fxDef o).undef s c r
  else match o with
    | 0x10 => decide (dP d 53 44 ≠ 0) && streamBad s c r.eng r
    | 0x11 => stloadBad s c r
    | 0x13 => decide (dP d 53 44 ≠ 0) && drainBad s c r
    | 0x14 => sndloadBad s c r
    | 0x70 => gatherPlan s c r == .undef
    | 0x90 => verifyBad s c r
    | 0xA0 => !copyPair (operandAny s c d 0) (operandAny s c d 3) || copyBad s c d
    | 0xA1 => fillBad d
    | _ => false

/-- The events and counts of an operation's start. -/
def opEvents (s : State) (c : Nat) (r : RunOp) : State :=
  let d := r.item.desc
  let o := dOpcode d
  if o / 16 = 2 then (vxDef o).start c r (if o = 0x29 then vaccStart c r s else s)
  else if isFx o then (fxDef o).start c r s
  else match o with
    | 0x10 => streamBegin c r.eng r s
    | 0x11 => stloadBegin c r.eng r s
    | 0x13 => drainBegin c r.eng r s
    | 0x14 => sndloadBegin c r.eng s
    | 0x70 => gatherStart c r s
    | 0xA0 => s.cond (!copyPair (operandAny s c d 0) (operandAny s c d 3)) fun s => raiseE s 0x0704 c r.eng (opPlace r)
    | _ => s

/-- An operation begins in its start S-cycle: its events, and what it holds from then on, the masks (R196), the active tile (R152), the bank of a
type 0x5 target (R76) and the adapter slot of a `GATHER` (R233). -/
def opBegin (s : State) (c : Nat) (r : RunOp) : State :=
  let k := s.core c
  let bad := opBadAt s c r
  let bk := bankNow s (operandAny s c r.item.desc 3)
  let ad := match dOpcode r.item.desc, gatherPlan s c r with
    | 0x70, .data a => a + 1
    | _, _ => 0
  setOp (opEvents s c r) c r fun r => { r with
    bad := bad, bk := bk, prog := ad, mreg := if dClass r.item.desc = 2 then k.mreg else []
    arr := if dOpcode r.item.desc = 0x10 then { active := (k.arr r.eng).active } else {} }

/-! ### Reads -/

/-- Bytes of a memory by its number. -/
def memRead (s : State) (m a n : Nat) : List Byte := if m < 192 then spadRead s m a n else if m < 208 then poolRead s (m - 192) a n else bedRead s a n

/-- Source groups of a vector operation: first register and registers touched (R189, R196). -/
def vSources (c : Nat) (r : RunOp) : List (Nat × Nat) :=
  let d := r.item.desc
  let n := vCount c r
  let g := regsTouched c n (width10 (vEfmt d))
  let fn := vFunc d
  let ab := fun (useB : Bool) => (vA d, g) :: if useB && !vBsc d then [(vB d, g)] else []
  match dOpcode d with
  | 0x21 => if fn = 0xB then (if vBsc d then [] else [(vA d, g)]) else ab (decide (fn ≤ 0xA))
  | 0x22 => ab true
  | 0x24 => (vA d, g) :: if fmtBlock (vEfmt d) then [(vB d, cdiv n (128 * lanes c))] else []
  | 0x26 => [(vA d, g)]
  | 0x27 => ab (decide (fn ≤ 7)) ++ if 3 ≤ fn ∧ fn ≤ 5 then [(vC d, g)] else []
  | 0x28 => ab (fn == 1)
  | 0x2A => [(vA d, g)]
  | 0x2B => [(vA d, g)]
  | 0x2C => ab (fn == 0)
  | 0x2D => [(vA d, g)]
  | _ => []

/-- The vector registers that an operation reads `i` S-cycles after its start: register g of a group of G_x in S-cycle t + k·⌊g·G / G_x⌋ (R196). -/
def vReads (c : Nat) (r : RunOp) (i : Nat) : List Nat :=
  let d := r.item.desc
  let k := (vxTiming c (dOpcode d)).1
  let g := vG c d r.vl
  (vSources c r).flatMap fun x => ((List.range x.2).filter fun q => k * (q * g / x.2) == i).map (x.1 + ·)

/-- Copies an accumulator row with its tag and outlier sums. -/
def copyAccRow (x y : MxArray) (row : Nat) : MxArray :=
  { y with
    acc := (List.range 64).foldl (fun m n => fset m 0#32 (64 * row + n) (fget x.acc 0#32 (64 * row + n))) y.acc
    tags := fset y.tags .zero row (fget x.tags .zero row)
    osum := (List.range 64).foldl (fun m n => fset m xzero (64 * row + n) (fget x.osum xzero (64 * row + n))) y.osum }

/-- The accumulator rows that an operation reads `i` S-cycles after its start: their array, and the rows by number in its operation (R163, R210). -/
def rowsRead (c : Nat) (r : RunOp) (i : Nat) : Nat × List Nat :=
  let d := r.item.desc
  match dOpcode d with
  | 0x13 => (r.eng, if i < dP d 53 44 then [i] else [])
  | 0x29 => (vaccArr d, if i < vG c d r.vl then (List.range (lanes c / 64)).map (i * (lanes c / 64) + ·) else [])
  | _ => (0, [])

/-- First accumulator row of a `DRAIN` or view. -/
def rowBase (d : Desc) : Nat := if dOpcode d = 0x29 then vaccRow d else dP d 63 54

/-- What operation `r` reads at the start of an S-cycle, `i` S-cycles after its own start (R258): the bytes of its wide reads, vector registers and
accumulator rows; and Sounding's part of a row that a stream presents (R170). -/
def opCapture (s : State) (c : Nat) (r : RunOp) : State :=
  let i := s.sch.sCycle - r.startS
  let k := s.core c
  let ps := ((opAccess s c r i).filter fun x => !x.wr).map fun x => ({ key := x.key, addr := x.lo, bytes := memRead s x.mem x.lo (x.hi - x.lo) } : Piece)
  let vs := if dClass r.item.desc = 2 then vReads c r i else []
  let rows := rowsRead c r i
  let n := vBytes c
  let s := if ps.isEmpty ∧ vs.isEmpty ∧ rows.2.isEmpty then s else setOp s c r fun r => { r with
    pieces := r.pieces ++ ps
    vreg := vs.foldl (fun m v => mwrite m (n * v) (mread k.vreg (n * v) n)) r.vreg
    arr := rows.2.foldl (fun y q => copyAccRow (k.arr rows.1) y (rowBase r.item.desc + q)) r.arr }
  if dOpcode r.item.desc = 0x10 ∧ dPb r.item.desc 29 ∧ !r.bad ∧ i < dP r.item.desc 53 44 then
    let r := opNow s c r
    captureRow (viewOf s c r [i, bitmapKey]) r.arr.active c r.eng r s i
  else s

/-- Rows that `r` sets to 0 after every read of the S-cycle (R162, R164, R211). -/
def opZero (s : State) (c : Nat) (r : RunOp) : State :=
  let i := s.sch.sCycle - r.startS
  match dOpcode r.item.desc with
  | 0x13 => s.each (rowsRead c r i).2 (drainZero c r.eng r.item.desc)
  | 0x29 => s.each (rowsRead c r i).2 (vaccZero c r)
  | _ => s

/-! ### Writes -/

/-- Format of a vector operation's destination by the elements that share a register: that of `EFMT` for a store and for a mask (R196). -/
def vDstFmt (d : Desc) : Nat := if dOpcode d = 0x24 then vXfmt d else vEfmt d

/-- Registers g of a destination group of `gx` that an operation writes `i` S-cycles after its start: t + λ − G + ⌈(g + 1)·G / G_x⌉ − 1 (R196). -/
def vLands (r : RunOp) (g gx i : Nat) : List Nat := (List.range gx).filter fun q => r.lat + cdiv ((q + 1) * g) gx == i + g + 1

/-- Units of `p` that the registers `l` of a group hold, up to `n`: first and end. -/
def vSpan (l : List Nat) (p n : Nat) : Nat × Nat :=
  match l.head?, l.getLast? with
  | some a, some b => (min n (a * p), min n ((b + 1) * p))
  | _, _ => (0, 0)

/-- The part of a vector operation's results that it writes `i` S-cycles after its start (R196, R580). -/
def vPartAt (c : Nat) (r : RunOp) (i : Nat) : VPart :=
  let d := r.item.desc
  let n := vCount c r
  let g := vG c d r.vl
  let w := max 1 (width10 (vDstFmt d))
  let x := if dOpcode d = 0x23 then vSpan (vLands r g 1 i) n n else vSpan (vLands r g (regsTouched c n w) i) (320 * lanes c / w) n
  let y := if dOpcode d = 0x24 then vSpan (vLands r g (cdiv n (128 * lanes c)) i) (4 * lanes c) (cdiv n 32) else (0, 0)
  ⟨x.1, x.2, y.1, y.2, i + 1 == r.lat⟩

/-- Lands part of a vector operation. -/
def vLand (s : State) (c : Nat) (r : RunOp) (i : Nat) : State :=
  let x := vxDef (dOpcode r.item.desc)
  if r.bad then (if i + 1 = r.lat then x.undef c r s else s)
  else
    let p := vPartAt c r i
    if p.lo < p.hi ∨ p.clo < p.chi ∨ p.last then x.part (viewOf s c r [0]) p c r s else s

/-- The units of a fixed-function operation that are written `i` S-cycles after its start: a row of SM, NM or RP in the last S-cycle that R219 gives it,
the result of another engine with its latency (R581). -/
def fxLands (c : Nat) (r : RunOp) (i : Nat) : List Nat :=
  let d := r.item.desc
  let w := rowPasses d * chunks c (fxLen d)
  let z := i + r.occ + 1 - r.lat
  if [0x30, 0x40, 0x41, 0x50].contains (dOpcode d) ∧ w ≠ 0 then (if z ≠ 0 ∧ z % w = 0 ∧ z ≤ r.occ then [z / w - 1] else [])
  else if i + 1 = r.lat then List.range ((fxDef (dOpcode d)).units r) else []

/-- Lands part of a fixed-function operation. -/
def fxLand (s : State) (c : Nat) (r : RunOp) (i : Nat) : State :=
  if r.bad then (if i + 1 = r.lat then opUndef s (operand s c r.item.desc 3) else s)
  else s.each (fxLands c r i) fun s u => (fxDef (dOpcode r.item.desc)).unit (fun p => viewOf s c r [8 * u + p]) c r s u

/-- Writes the bytes of a chunk at its pieces of a destination; answers the largest status (R238). -/
def putPieces (y : Opnd) (r : RunOp) : List (Nat × Nat) → List Byte → State → State × Nat
  | [], _, s => (s, 0)
  | p :: l, bs, s =>
    let (s, a) := opWrite s y p.1 (bs.take p.2) r.bk (opPlace r)
    let (s, b) := putPieces y r l (bs.drop p.2) s
    (s, max a b)

/-- Lands chunk `j` of a `COPY` or `FILL` (R237, R238). -/
def xferChunk (s : State) (c : Nat) (r : RunOp) (j : Nat) : State :=
  let y := operandAny s c r.item.desc 3
  let ps := chunkPieces s c r 3 j
  let bs := if dOpcode r.item.desc = 0xA1 then fillBytes r (ps.headD (0, 0)).1 (ps.headD (0, 0)).2
    else (r.pieces.filter fun p => p.key == j).flatMap (·.bytes)
  let (s, st) := putPieces y r ps bs s
  setOp s c r fun r => { r with status := max r.status st }

/-- Lands chunk `j` of a `GATHER` (R233, R234). -/
def gatherChunk (s : State) (c : Nat) (r : RunOp) (j : Nat) : State :=
  let n := min 512 (opLen s c r.item.desc 3 - 512 * j)
  fxPut s (operand s c r.item.desc 3) (512 * j) (if r.prog = 0 then List.replicate n 0#8 else (r.pieces.filter fun p => p.key == j).flatMap (·.bytes))

/-- Lands chunk by chunk what an operation writes in S-cycle t + j + (λ − occupancy). -/
def chunkLand (s : State) (c : Nat) (r : RunOp) (i : Nat) (f : State → Nat → RunOp → Nat → State) : State :=
  if r.bad then (if i + 1 = r.lat then opUndef s (operand s c r.item.desc 3) else s)
  else if r.lat ≤ i + r.occ ∧ i + r.occ - r.lat < r.occ then f s c r (i + r.occ - r.lat) else s

/-- Lands part of a matrix operation. -/
def mxLand (s : State) (c : Nat) (r : RunOp) (i : Nat) : State :=
  let d := r.item.desc
  let a := r.eng
  let q := i + r.occ - r.lat
  let row := decide (r.lat ≤ i + r.occ ∧ q < dP d 53 44)
  match dOpcode d with
  | 0x10 =>
    if !row then s
    else if r.bad then s.cond (decide (dP d 63 54 + q < 1024)) fun s => streamFree c a r (streamInt (dP d 43 39) r.arr.active.fmt) s q
    else streamOne (viewOf s c r [q, bitmapKey]) r.arr.active c a r s q
  | 0x11 => s.cond (i + 1 == r.lat) (stloadPut (viewOf s c r [0]) r.bad c a r)
  | 0x12 => s.cond (i == 0) (swapOp c a r)
  | 0x13 =>
    if r.bad then (if i + 1 = r.lat then opUndef s (operand s c d 3) else s)
    else if row then drainOne r.arr c r s q else s
  | 0x14 => s.cond (i + 1 == r.lat) (sndloadPut (viewOf s c r [0]) r.bad c a r)
  | _ => s

/-- Whether a piece of key `q` is still to be used after the S-cycle `i` of its operation: rows and chunks go as they are written. -/
def pieceLeft (c : Nat) (r : RunOp) (i q : Nat) : Bool :=
  let o := dOpcode r.item.desc
  if o = 0x10 ∨ o = 0x70 ∨ o = 0xA0 then decide (i < q + (r.lat - r.occ))
  else if [0x30, 0x40, 0x41, 0x50].contains o then decide (i + 1 + r.occ < r.lat + (q / 8 + 1) * (rowPasses r.item.desc * chunks c (fxLen r.item.desc)))
  else true

/-- What operation `r` writes in the present S-cycle (R258: every later S-cycle sees it). -/
def opLand (s : State) (c : Nat) (r : RunOp) : State :=
  let i := s.sch.sCycle - r.startS
  let o := dOpcode r.item.desc
  let s := if o / 16 = 1 then mxLand s c r i
    else if o / 16 = 2 then vLand s c r i
    else if isFx o then fxLand s c r i
    else match o with
      | 0x70 => chunkLand s c r i gatherChunk
      | 0x90 => s.cond (i + 1 == r.lat) fun s => if r.bad then verifyUndef c r s else verifyPut (viewOf s c r [0]) c r s
      | 0xA0 => chunkLand s c r i xferChunk
      | 0xA1 => chunkLand s c r i xferChunk
      | _ => s
  setOp s c r fun r => { r with
    ticks := i + 1, done := decide (r.lat ≤ i + 1)
    pieces := r.pieces.filter fun p => pieceLeft c r i p.key }

end Sys2Proof.Machine
end

