-- ==== Sys2Proof/Machine/Weights.lean ====
section
/-! DEFINITION. Memory activities outside the schedule (R262, R278) and weight shards (chapter 11): the digest store, intake, hashing, sourcing, rescan and the swap; the meanings of INTAKE_*,
PIECE_HASH_COMPLETE, SOURCE_REQUEST, PIECE_REQUEST, RESCAN_*, SWAP_IMAGE_WRITE, SWAP_CANCEL, RELEASE_STEP_WRITE, SWAP_FILL_LIMIT and
SWAP_READY_NOTICE. -/

namespace Sys2Proof.Machine

/-! ### Pieces (R347-R352) -/

/-- Bytes of a piece (R347). -/
def pieceBytes : Nat := 65536

/-- Pieces of the beds (R347). -/
def bedPieces : Nat := 262144

/-- State of a bed piece (Table 11-1). -/
def pieceState (s : State) (i : Nat) : PieceState := fget s.wts.pstate .none i

/-- Sets the state of a bed piece. -/
def setPiece (s : State) (i : Nat) (v : PieceState) : State := s.mapWts fun w => { w with pstate := fset w.pstate .none i v }

/-- Bed piece of a piece offset of a partition type (R347, R350). -/
def bedPiece (s : State) (ptype off : Nat) : Option Nat :=
  match partFind s ptype with
  | some (b, z) => if pieceBytes * (off + 1) ≤ z then some (b / pieceBytes + off) else none
  | none => none

/-- Bed pieces of a manifest with their digests. -/
def manPieces (s : State) (m : Manifest) : List (Nat × Nat) :=
  m.segs.flatMap fun g => (List.range g.pieces).filterMap fun k =>
    (bedPiece s g.ptype (g.off + k)).map fun i => (i, m.digests.getD (g.didx + k) 0)

/-- Bed pieces that the installed manifest lists, in its order. -/
def listedPieces (s : State) : List Nat :=
  match s.wts.man with
  | some m => (manPieces s m).map fun p => p.1
  | none => []

/-- Partition type and offset of a listed bed piece. -/
def pieceName (s : State) (i : Nat) : Nat × Nat :=
  match partFind s 1 with
  | some (b, z) => if b / pieceBytes ≤ i ∧ pieceBytes * i < b + z then (1, i - b / pieceBytes) else (2, i - ((partFind s 2).getD (0, 0)).1 / pieceBytes)
  | none => (2, i - ((partFind s 2).getD (0, 0)).1 / pieceBytes)

/-- SHA3-256 of a bed piece as it stands (R349). -/
def pieceHash (s : State) (i : Nat) : Nat := leNat (sha3 (bedRead s (pieceBytes * i) pieceBytes))

/-- Whether a piece matches its digest. -/
def pieceMatches (s : State) (i : Nat) : Bool := fhas s.wts.digests i && pieceHash s i == fget s.wts.digests 0 i

/-- Installs a manifest: listed pieces are VALID where kept and ABSENT elsewhere, every other piece NONE (R352, R371). -/
def manInstall (s : State) (m : Manifest) (keep : List Nat) : State :=
  let ps := manPieces s m
  s.mapWts fun w => { w with
    man := some m, hashing := [], streams := [], asked := [], nak := [], refetch := [], rescanAt := 0
    digests := ps.foldl (fun d p => fset d (2 ^ 256) p.1 p.2) []
    pstate := ps.foldl (fun d p => fset d .none p.1 (if keep.contains p.1 then .valid else .absent)) [] }

/-- Hashes every listed piece in place: each that matches becomes VALID (R352). -/
def hashInPlace (s : State) : State := s.each (listedPieces s) fun s i => if pieceMatches s i then setPiece s i .valid else s

/-- Whether every listed piece is VALID (R359). -/
def allValid (s : State) : Bool := (listedPieces s).all fun i => pieceState s i == .valid

/-- Whether piece data is taken for a bed piece (R354); in RUNNING and DRAINING a BAD piece is fetched again (R367, log 20). -/
def pieceOpen (s : State) (i : Nat) : Bool :=
  let st := pieceState s i
  if s.dev.state = .ready ∨ s.wts.swState = .filling then st == .absent || st == .bad || st == .filling
  else (s.dev.state == .running || s.dev.state == .draining) && (st == .bad || st == .filling)

/-! ### Intake (R354-R358) -/

/-- A dropped intake packet or piece write (R354). -/
def intakeDrop (s : State) : State := s.mapWts fun w => { w with dropped := sat32 w.dropped }

/-- Abandons the open piece of a stream: it becomes BAD (R357). -/
def abandon (s : State) (st : Nat) : State :=
  match (s.wts.streams.find? fun p => p.1 == st) with
  | some (_, o) => (setPiece s o.piece .bad).mapWts fun w => { w with streams := fdel w.streams st }
  | none => s

/-- Whether an intake header is well formed (R356). -/
def intakeOk (h : List Byte) : Bool :=
  (byteAt h 8 == 1#8 || byteAt h 8 == 2#8) && (byteAt h 9 == 0#8 || byteAt h 9 == 1#8) && zeroAt h 10 2 && zeroAt h 16 48

/-- The bed piece that an intake header names, when its shard is installed and the piece is open to intake. -/
def intakePiece (s : State) (h : List Byte) : Option Nat :=
  match s.wts.man, bedPiece s (byteAt h 8).toNat (fieldAt h 12 4) with
  | some m, some i => if m.shardId = fieldAt h 0 8 ∧ pieceOpen s i then some i else none
  | _, _ => none

/-- Source `k` (1-4) of the source table (Table 11-6): RPATH, BPATH, BSTREAM, VALID. -/
def sourceOf (s : State) (k : Nat) : Nat × Nat × Nat × Bool :=
  let v := (fget s.wts.sources 0#64 k).toNat
  (bits v 63 52, bits v 51 40, bits v 39 37, bit v 36)

/-- The VALID sources in entry order. -/
def validSources (s : State) : List Nat := [1, 2, 3, 4].filter fun k => (sourceOf s k).2.2.2

/-- A piece that a source does not hold or does not answer; event 0x0B02 once that holds of every VALID source (R364). -/
def sourceNak (s : State) (k i : Nat) : State :=
  let s := s.mapWts fun w => { w with
    asked := fset w.asked [] k ((fget w.asked [] k).filter fun j => j != i)
    nak := fset w.nak [] k (if (fget w.nak [] k).contains i then fget w.nak [] k else fget w.nak [] k ++ [i]) }
  if (validSources s).all fun k => (fget s.wts.nak [] k).contains i then raise s 0x0B02 0x10 [i] else s

/-- A piece has arrived: no source is awaited for it. -/
def pieceCame (s : State) (i : Nat) : State :=
  s.mapWts fun w => { w with
    lastArrive := s.now
    asked := [1, 2, 3, 4].foldl (fun m k => fset m [] k ((fget m [] k).filter fun j => j != i)) w.asked
    nak := [1, 2, 3, 4].foldl (fun m k => fset m [] k ((fget m [] k).filter fun j => j != i)) w.nak }

/-- Sends a packet of the load service on a path entry (R362, R363, R373): on a link at once, by the local route through the second set; an entry
that is not VALID drops it (R319). -/
def serviceSend (s : State) (path tc queue tag : Nat) (bs : List Byte) : State :=
  let e := pathAt (pathBank s) path
  if !pathValid e then dropArr s [queue]
  else
    let p : Packet := { head := headOf e tc 0 0 false queue tag, data := padTo 64 bs }
    match route s p with
    | (q, some l) => forward s l q
    | (_, none) => injOwn s 256 p

/-- A request to source `k` for `n` pieces from bed piece `i` on (R362). -/
def askSource (s : State) (m : Manifest) (k i n : Nat) : State :=
  let (rp, bp, bs, _) := sourceOf s k
  let (t, off) := pieceName s i
  serviceSend s rp 3 0x3F8 0
    (leBytes 8 m.shardId ++ leBytes 1 t ++ [0#8] ++ leBytes 2 bp ++ leBytes 2 (0x3F0 + bs) ++ leBytes 2 n ++ leBytes 4 off)

/-! ### Refetch of a lost line (R365) -/

/-- Bed piece of a bed line. -/
def linePiece (l : Nat) : Nat := 1024 * l / pieceBytes

/-- Asks source `k` for the piece of the first line, with an empty buffer. -/
def refetchAsk (s : State) (k : Nat) : State :=
  match s.wts.refetch, s.wts.man with
  | r :: q, some m => askSource (s.mapWts fun w => { w with refetch := { line := r.line, src := k, at_ := s.now } :: q }) m k (linePiece r.line) 1
  | _, _ => s

/-- The first line is done with; the next one's refetch begins. -/
def refetchDrop (s : State) : State :=
  let s := s.mapWts fun w => { w with refetch := w.refetch.drop 1 }
  match validSources s with
  | k :: _ => refetchAsk s k
  | [] => s

/-- The source asked does not answer with the piece: the next one is tried, and with none left the piece is reported (R364; log 52). -/
def refetchTurn (s : State) : State :=
  match s.wts.refetch with
  | [] => s
  | r :: _ =>
    match (validSources s).find? fun k => decide (r.src < k) with
    | some k => refetchAsk s k
    | none => raise (refetchDrop s) 0x0B02 0x10 [linePiece r.line]

/-- A lost line joins those that wait, unless it waits already; with no VALID source its piece is reported at once. -/
def refetchAdd (s : State) (l : Nat) : State :=
  if s.wts.refetch.any fun r => r.line == l then s
  else
    match validSources s with
    | [] => raise s 0x0B02 0x10 [linePiece l]
    | k :: _ =>
      let t := s.mapWts fun w => { w with refetch := w.refetch ++ [{ line := l }] }
      if s.wts.refetch.isEmpty then refetchAsk t k else t

/-- Writes the lost line from the piece (R365). -/
def refetchWrite (s : State) (l : Nat) (bs : List Byte) : State :=
  let k := (rowOf s l).1
  raise (bedWrite s (1024 * l) ((bs.drop (1024 * l % pieceBytes)).take 1024)) 0x0808 (0x20 + k) [2, k, 1024 * l]

/-- Whether bytes are the piece of a line. -/
def refetchOk (s : State) (l : Nat) (bs : List Byte) : Bool :=
  bs.length == pieceBytes && leNat (sha3 bs) == fget s.wts.digests (2 ^ 256) (linePiece l)

/-- A line that has been rewritten otherwise waits no longer. -/
def refetchForget (s : State) (l : Nat) : State :=
  if s.wts.refetch.head?.any fun r => r.line == l then refetchDrop s
  else s.mapWts fun w => { w with refetch := w.refetch.filter fun r => r.line != l }

/-- Whether a packet of stream `st` belongs to the refetch under way: its header, or data after one. -/
def refetchTakes (s : State) (st : Nat) (head : Bool) (bs : List Byte) : Bool :=
  match s.wts.refetch, s.wts.man with
  | r :: _, some m => (sourceOf s r.src).2.2.1 == st && if head then
      intakeOk bs && fieldAt bs 0 8 == m.shardId && bedPiece s (byteAt bs 8).toNat (fieldAt bs 12 4) == some (linePiece r.line)
    else r.next.isSome
  | _, _ => false

/-- The header of a reply: the buffer opens, or the source does not hold the piece. -/
def refetchHead (s : State) (st : Nat) (h : List Byte) : State :=
  let s := abandon s st
  if byteAt h 9 = 1#8 then refetchTurn s
  else s.mapWts fun w => { w with refetch := match w.refetch with
    | r :: q => { r with next := some 0, buf := [] } :: q
    | [] => [] }

/-- Data of a reply: collected in order; a whole piece that matches its digest gives the lost line, anything else the next source. -/
def refetchBody (s : State) (tag : Nat) (bs : List Byte) : State :=
  match s.wts.refetch with
  | [] => s
  | r :: q =>
    let buf := r.buf ++ padTo 64 bs
    if r.next ≠ some tag then refetchTurn s
    else if tag + 1 < 1024 then s.mapWts fun w => { w with refetch := { r with next := some (tag + 1), buf := buf } :: q }
    else if pieceState s (linePiece r.line) ≠ .valid then refetchDrop s
    else if refetchOk s r.line buf then (refetchDrop (refetchWrite s r.line buf)).mapWts fun w => { w with lastArrive := s.now }
    else refetchTurn s

/-- Another header on the stream of a reply that has begun breaks it off. -/
def refetchCut (s : State) (st : Nat) : State := s.cond (refetchTakes s st false []) refetchTurn

/-- The source asked has not answered for the quiet time (R363). -/
def refetchLate (s : State) : State :=
  s.cond (s.wts.refetch.head?.any fun r => decide (r.at_ + 1000000 * s.wts.quietMs ≤ s.now)) refetchTurn

/-- An intake header on stream `st` (R357): it opens a piece, or reports one that its sender does not hold (R363). -/
def intakeHead (s : State) (st : Nat) (h : List Byte) : State :=
  let s := refetchCut (abandon s st) st
  if !intakeOk h then intakeDrop s
  else if byteAt h 9 = 1#8 then
    match bedPiece s (byteAt h 8).toNat (fieldAt h 12 4) with
    | some i => s.each ((validSources s).filter fun k => (sourceOf s k).2.2.1 == st && (fget s.wts.asked [] k).contains i) fun s k => sourceNak s k i
    | none => s
  else
    match intakePiece s h with
    | some i => (setPiece s i .filling).mapWts fun w => { w with streams := fset w.streams { piece := bedPieces, next := 0 } st { piece := i, next := 0 } }
    | none => intakeDrop s

/-- An intake data packet (R357). -/
def intakeBody (s : State) (st tag : Nat) (bs : List Byte) : State :=
  match (s.wts.streams.find? fun p => p.1 == st) with
  | none => intakeDrop s
  | some (_, o) =>
    if tag ≠ o.next then intakeDrop (abandon s st)
    else if !pieceOpen s o.piece then intakeDrop s
    else
      let s := bedWrite s (pieceBytes * o.piece + 64 * tag) (padTo 64 bs)
      if tag + 1 = 1024 then
        s.mapWts fun w => { w with streams := fdel w.streams st, hashing := w.hashing.filter (fun j => j != o.piece) ++ [o.piece] }
      else s.mapWts fun w => { w with streams := fset w.streams { piece := bedPieces, next := 0 } st { o with next := tag + 1 } }

/-! ### Activities outside the schedule (R262, R278; log 76) -/

/-- Memory and cycle in it that an activity wants: for the beds a read or write cycle of a stack (R260), else a bank (R253). -/
def cycleKey (s : State) (m : MemLoc) (wr : Bool) : Nat :=
  match m with
  | .beds l => 2 * (rowOf s l).1 + if wr then 1 else 0
  | .spad c g => 64 * (c.val + 1) + rowBank (bankBits c.val) (g / 4)
  | .pool cl g => 64 * (cl.val + 193) + rowBank 6 (g / 4)
  | _ => 0

/-- Whether the wide requests `l` of an S-cycle, or a narrow request of higher priority that waits, hold that cycle (R257, R259, R262). -/
def cycleHeld (l : List WAcc) (s : State) (m : MemLoc) (wr : Bool) : Bool :=
  match m with
  | .beds n => l.any fun x => x.mem == 208 && x.wr == wr &&
      (List.range ((x.hi - 1) / 1024 - x.lo / 1024 + 1)).any fun i => (rowOf s (x.lo / 1024 + i)).1 == (rowOf s n).1
  | .spad c g =>
    let b := rowBank (bankBits c.val) (g / 4)
    (l.any fun x => x.mem == c.val && (accRows x).any fun ra => rowBank (bankBits c.val) ra == b) ||
      s.fab.narrow.any fun n => n.core == c.val && (narrowRows n).any fun ra => rowBank (bankBits c.val) ra == b
  | .pool cl g =>
    let b := rowBank 6 (g / 4)
    (l.any fun x => x.mem == 192 + cl.val && (accRows x).any fun ra => rowBank 6 ra == b) || (s.pool cl.val).waiting.any fun q => rowBank 6 q.row == b
  | _ => false

/-- The wide requests of the present S-cycle; an Eddy has none (R262). -/
def wideNow (s : State) : List WAcc := if sRun s then wideAccess s s.sch.sCycle else []

/-- Place of an intake header's piece, or of the next data of a stream. -/
def intakeLine (s : State) (st tag : Nat) : Nat :=
  match s.wts.streams.find? fun p => p.1 == st with
  | some (_, o) => 64 * o.piece + tag / 16
  | none => 0

/-- Rank, place and kind of a command that is an activity outside the schedule (R262): recovery of a line, load and sourcing writes, rescans, scrub. -/
def outsideJob (s : State) (i : Instr) : Option (Nat × MemLoc × Bool) :=
  match i with
  | .uncorrectableOutside (.beds l) _ => some (0, .beds l, true)
  | .intakeHeader st _ => some (1, .beds (intakeLine s st.val 0), true)
  | .intakeData st tag _ => some (1, .beds (intakeLine s st.val tag), true)
  | .tribPieceWrite d => some (1, .beds (match intakePiece s (d.take 16) with
      | some n => 64 * n
      | none => 0), true)
  | .rescanPiece n => some (2, .beds (64 * n), false)
  | .scrubLine (.beds l) _ _ => some (3, .beds l, false)
  | .scrubLine (.spad c g) _ _ => some (3, .spad c g, false)
  | .scrubLine (.pool cl g) _ _ => some (3, .pool cl g, false)
  | _ => none

/-- Whether an activity of rank `r` that wants a cycle waits behind one of those in `q`: of its own rank, in their order, or of a higher rank for the
same cycle (R262). -/
def outsideBehind (s : State) (q : List Instr) (r key : Nat) : Bool :=
  q.any fun j => match outsideJob s j with
    | some (r2, m2, w2) => r2 == r && (decide (cycleKey s m2 w2 < 64) == decide (key < 64)) || decide (r2 < r) && cycleKey s m2 w2 == key
    | none => false

/-- Performs an activity outside the schedule in a free cycle: now, or when the cycle comes free (R262). -/
def outsideDo (s : State) (i : Instr) (f : State → State) : State :=
  match outsideJob s i with
  | none => f s
  | some (r, m, wr) =>
    if cycleHeld (wideNow s) s m wr || outsideBehind s s.beds.waiting r (cycleKey s m wr) then s.mapBeds fun b => { b with waiting := b.waiting ++ [i] }
    else f s

/-- What a W-cycle has given to waiting activities so far: the state, the cycles taken, the activities that go on waiting. -/
structure OutsideAcc where
  st : State
  used : List Nat
  left : List Instr

/-- One waiting activity: performed if its cycle is free and none before it wants it. -/
def outsideOne (l : List WAcc) (act : Instr → State → State) (a : OutsideAcc) (i : Instr) : OutsideAcc :=
  match outsideJob a.st i with
  | none => { a with st := act i a.st }
  | some (r, m, wr) =>
    let k := cycleKey a.st m wr
    if cycleHeld l a.st m wr || a.used.contains k || outsideBehind a.st a.left r k then { a with left := a.left ++ [i] }
    else { a with st := act i a.st, used := k :: a.used }

/-- The waiting activities in one W-cycle, by rank, one a cycle (R262). -/
def outsideTurn (act : Instr → State → State) (l : List WAcc) (s : State) : State :=
  if s.beds.waiting.isEmpty then s
  else
    let rank := fun (i : Instr) => match outsideJob s i with
      | some x => x.1
      | none => 0
    let a := ((List.range 4).flatMap fun r => s.beds.waiting.filter fun i => rank i == r).foldl (outsideOne l act) ⟨s.mapBeds fun b => { b with waiting := [] }, [], []⟩
    a.st.mapBeds fun b => { b with waiting := a.left }

/-- A header arrives on an intake stream: for the refetch buffer, or in a free bed cycle (R357, R365). -/
def intakeHeader (s : State) (st : Fin 8) (bs : List Byte) : State :=
  if refetchTakes s st.val true bs then refetchHead s st.val bs else outsideDo s (.intakeHeader st bs) fun s => intakeHead s st.val bs

/-- Data arrives on an intake stream. -/
def intakeData (s : State) (st : Fin 8) (tag : Nat) (bs : List Byte) : State :=
  if refetchTakes s st.val false bs then refetchBody s tag bs else outsideDo s (.intakeData st tag bs) fun s => intakeBody s st.val tag bs

/-- A packet of an intake stream: the header has `TAG` 2,047 (R356). -/
def intakePacket (s : State) (st : Fin 8) (tag : Nat) (bs : List Byte) : State :=
  if tag = 2047 then intakeHeader s st bs else intakeData s st tag bs

/-- A whole piece written through the Tributary port (R356): dropped whole and counted once, or written and hashed. -/
def tribPiece (s : State) (d : List Byte) : State :=
  let h := d.take 16
  if !intakeOk h ∨ byteAt h 9 ≠ 0#8 ∨ d.length ≠ 16 + pieceBytes then intakeDrop s
  else
    match intakePiece s h with
    | none => intakeDrop s
    | some i =>
      let s := bedWrite (setPiece s i .filling) (pieceBytes * i) (d.drop 16)
      s.mapWts fun w => { w with hashing := w.hashing.filter (fun j => j != i) ++ [i] }

/-- The hash of a piece finishes: the arrival check (R358), or the check in place of an ABSENT piece (R352). -/
def hashDone (s : State) (i : Nat) : State :=
  if s.wts.hashing.contains i then
    let s := s.mapWts fun w => { w with hashing := w.hashing.filter fun j => j != i }
    if pieceMatches s i then pieceCame (setPiece s i .valid) i
    else raise ((setPiece s i .bad).mapWts fun w => { w with arrFail := sat32 w.arrFail }) 0x0B01 0x10 [i]
  else if pieceState s i = .absent ∧ pieceMatches s i then setPiece s i .valid
  else s

/-! ### Sourcing (R361-R364) -/

/-- Listed pieces that are missing: ABSENT or BAD, and asked of no source. -/
def missingPieces (s : State) : List Nat :=
  (listedPieces s).filter fun i => pieceOpen s i && pieceState s i != .filling && [1, 2, 3, 4].all fun k => !(fget s.wts.asked [] k).contains i

/-- The longest run of missing pieces that starts at `i`, up to `n`. -/
def pieceRun (ms : List Nat) (i : Nat) : Nat → List Nat
  | 0 => []
  | n + 1 => if ms.contains i then i :: pieceRun ms (i + 1) n else []

/-- One request to source `k`, if a piece is missing that it has not turned down (R361, R362). -/
def sourceAsk (s : State) (k : Nat) : State :=
  match s.wts.man, (missingPieces s).filter fun i => !(fget s.wts.nak [] k).contains i with
  | some m, i :: r =>
    if !(fget s.wts.asked [] k).isEmpty then s
    else
      let run := (pieceRun (i :: r) i 1024).filter fun j => (pieceName s j).1 == (pieceName s i).1
      askSource (s.mapWts fun w => { w with asked := fset w.asked [] k run }) m k i run.length
  | _, _ => s

/-- Whether no piece has arrived for the quiet time (R361). -/
def sourceQuiet (s : State) : Bool := decide (s.wts.lastArrive + 1000000 * s.wts.quietMs ≤ s.now)

/-- The quiet time has passed (R361): pieces asked and not answered count as not answered by their source (R364), then every VALID source without
a request is asked. -/
def sourceRound (s : State) : State :=
  let ok := s.dev.state == .ready || s.wts.swState == .filling || s.dev.state == .running || s.dev.state == .draining
  if !ok || !sourceQuiet s then s
  else
    let s := refetchLate s
    let s := s.each (validSources s) fun s k =>
      s.each (fget s.wts.asked [] k) fun s i => if pieceState s i = .filling ∨ pieceState s i = .valid then s else sourceNak s k i
    let s := s.each (validSources s) fun s k => s.mapWts fun w => { w with
      asked := fset w.asked [] k ((fget w.asked [] k).filter fun i => pieceState s i == .filling) }
    s.each (validSources s) sourceAsk

/-- Sends one piece, or the header with `STATUS` 1 (R363). -/
def servePiece (r : Request1) (s : State) (off : Nat) : State :=
  let hd := fun (st : Nat) => leBytes 8 r.shard ++ leBytes 1 r.ptype ++ leBytes 1 st ++ [0#8, 0#8] ++ leBytes 4 off
  let held := match s.wts.man, bedPiece s r.ptype off with
    | some m, some i => if m.shardId = r.shard ∧ pieceState s i = .valid then some i else none
    | _, _ => none
  match held with
  | some i =>
    let bs := bedRead s (pieceBytes * i) pieceBytes
    (List.range 1024).foldl (fun s t => serviceSend s r.bpath 2 r.queue t ((bs.drop (64 * t)).take 64)) (serviceSend s r.bpath 2 r.queue 2047 (hd 0))
  | none => serviceSend s r.bpath 2 r.queue 2047 (hd 1)

/-- Serves the oldest request once its path's link has nothing waiting (R363: one at a time, in arrival order). -/
def serveRequests (s : State) : State :=
  match s.wts.reqs with
  | [] => s
  | r :: q =>
    let busy := match routeStep (fun _ => false) { head := headOf (pathAt (pathBank s) r.bpath) 2 0 0 false r.queue 0, data := [] } with
      | (_, some l) => !(s.link l).outQ.isEmpty
      | (_, none) => s.fab.injIn.any fun p => p.1 == 256
    if busy then s
    else (List.range r.count).foldl (fun s i => servePiece r s (r.first + i)) (s.mapWts fun w => { w with reqs := q })

/-- A piece request arrives (R363): dropped in HALTED or with 16 requests held. -/
def requestTake (s : State) (d : List Byte) : State :=
  let r : Request1 := { shard := fieldAt d 0 8, ptype := (byteAt d 8).toNat, bpath := fieldAt d 10 2 % 4096, queue := fieldAt d 12 2 % 1024
                        count := fieldAt d 14 2, first := fieldAt d 16 4 }
  if s.dev.state = .halted ∨ 16 ≤ s.wts.reqs.length ∨ r.count = 0 ∨ 1024 < r.count then s
  else serveRequests (s.mapWts fun w => { w with reqs := w.reqs ++ [r] })

/-! ### Rescan (R366, R367) -/

/-- The end of a rescan pass. -/
def rescanEnd (s : State) : State :=
  s.mapWts fun w => { w with rescanAt := 0, rescanMs := (s.now - w.rescanSince) / 1000000, rescanSince := s.now, rescanLate := false }

/-- The lowest of a list of pieces. -/
def lowest : List Nat → Option Nat
  | [] => none
  | i :: r => match lowest r with
    | none => some i
    | some j => some (min i j)

/-- The VALID piece that is due (R366: ascending piece order): the next one of the pass, or the first one of a new pass. -/
def rescanNext (s : State) : Option Nat :=
  let v := (listedPieces s).filter fun j => pieceState s j == .valid
  match lowest (v.filter fun j => decide (s.wts.rescanAt ≤ j)) with
  | some j => some j
  | none => lowest v

/-- A rescan hashes piece `i` again, where it is the one that is due (R366, R367). -/
def rescanOne (s : State) (i : Nat) : State :=
  if s.wts.rescanSec = 0 ∨ rescanNext s ≠ some i then s
  else
    let s := s.cond (decide (i < s.wts.rescanAt)) rescanEnd
    let bad := !pieceMatches s i
    let s := s.cond bad fun s =>
      let s := raise ((setPiece s i .bad).mapWts fun w => { w with rescanFail := sat32 w.rescanFail }) 0x0B03 0x10 [i]
      s.cond (s.wts.rescanHalt && s.sch.job) fun s => haltNext s 0x0B03
    let s := s.mapWts fun w => { w with rescanAt := i + 1 }
    if (listedPieces s).any fun j => decide (i < j) && pieceState s j == .valid then s else rescanEnd s

/-! ### Swap (R368-R375) -/

/-- The staged swap image is dropped and the swap is IDLE (Table 11-8, R375). -/
def swapDrop (s : State) : State := s.mapWts fun w => { w with swState := .idle, swMan := none, swKeep := [] }

/-- The keys of the running firmware's signer table (R511, R512). -/
def signerKeys (s : State) : List (List Byte) := s.tru.signers

/-- Measures the installation of a manifest (Table 16-1). -/
def measureManifest (s : State) (m : Manifest) : State := measureSigned s 0x50 5 (signerKeys s) m.body m.sig

/-- A staged swap switch is applied: every core of the image changes to its sealed bank, and the swap image is the chip's image (R371). -/
def swapApply (s : State) : State :=
  match s.wts.swMan with
  | none => s
  | some im =>
    let s := s.each im.cores bankSwitch
    let s := s.mapDev fun d => { d with img := some im }
    measure s 0x32 3 (lastDigest s 0x31)

/-- Whether the swap switch has been applied: no switch is staged and every core's old bank is SPENT. -/
def swapApplied (s : State) : Bool :=
  !(s.mgm.staged.any fun g => g.kind == .swapSwitch) && match s.wts.swMan with
    | some im => im.cores.all fun c => (s.core c).inact == .spent
    | none => false

/-- The load service at the end of the Weir of step `t`, after the staged changes (R371). -/
def swapTick (s : State) (t : Nat) : State :=
  match s.wts.swState with
  | .armed =>
    if t = s.wts.swRel then
      match s.wts.swMan with
      | some im =>
        let s := measureManifest (manInstall s im.man s.wts.swKeep) im.man
        s.mapWts fun w => { w with swState := .filling, swFillAt := s.now, swLate := false }
      | none => s
    else s
  | .filling => if allValid s then (stage s .swapSwitch).mapWts fun w => { w with swState := .switching } else s
  | .switching =>
    if swapApplied s then
      let s := serviceSend s s.wts.swPath 0 0x3F9 0 []
      raise (s.mapWts fun w => { w with swState := .done }) 0x0B06 0x10 [t]
    else if s.mgm.staged.any fun g => g.kind == .swapSwitch then s else stage s .swapSwitch
  | _ => s

/-- The entry chip counts a swap-ready notice and opens admission at the expected count (R373). -/
def swapNotice (s : State) : State :=
  if !entryRole s then s
  else
    let s := s.mapWts fun w => { w with swNotes := w.swNotes + 1 }
    if s.wts.swNotes = s.wts.swExp then raise (s.mapWts fun w => { w with swOpen := true }) 0x0B09 0x10 [s.sch.stepNo] else s

/-! ### Meanings -/

/-- INTAKE_HEADER (R357). -/
def execIntakeHeader (st : Fin 8) (payload : List Byte) (s : State) : Host.Outcome State Fault Refusal :=
  .next (if fabricTakes s then intakeHeader s st payload else s)
/-- INTAKE_DATA (R357). -/
def execIntakeData (st : Fin 8) (tag : Nat) (payload : List Byte) (s : State) : Host.Outcome State Fault Refusal :=
  .next (if fabricTakes s then intakeData s st tag payload else s)

/-- PIECE_HASH_COMPLETE (R358, R352). -/
def execPieceHashComplete (i : Nat) (s : State) : Host.Outcome State Fault Refusal := .next (hashDone s i)

/-- SOURCE_REQUEST (R361). -/
def execSourceRequest (s : State) : Host.Outcome State Fault Refusal := .next (sourceRound s)

/-- PIECE_REQUEST (R363). -/
def execPieceRequest (payload : List Byte) (s : State) : Host.Outcome State Fault Refusal :=
  .next (if fabricTakes s then requestTake s payload else s)

/-- RESCAN_PIECE (R366). -/
def execRescanPiece (i : Nat) (s : State) : Host.Outcome State Fault Refusal :=
  .next (outsideDo s (.rescanPiece i) fun s => rescanOne s i)

/-- RESCAN_OVERRUN (R366). -/
def execRescanOverrun (s : State) : Host.Outcome State Fault Refusal :=
  .next (if s.wts.rescanSec ≠ 0 ∧ !s.wts.rescanLate ∧ 1000000000 * s.wts.rescanSec < s.now - s.wts.rescanSince ∧ (listedPieces s).any fun i => pieceState s i == .valid then
    raise (s.mapWts fun w => { w with rescanLate := true }) 0x0B04 0x10 [s.wts.rescanAt] else s)

/-- SWAP_IMAGE_WRITE (R369). -/
def execSwapImageWrite (p : Path) (off : BitVec 32) (data : List Byte) (s : State) : Host.Outcome State Fault Refusal :=
  .next (odReq s p 0x307001 (.swapImageWrite p off data)
    (odCmd s p 0x307001 (s.dev.state == .running) 0 fun s => s.mapWts fun w => { w with
    swImg := mwrite w.swImg off.toNat data, swLen := max w.swLen (if data.isEmpty then 0 else off.toNat + data.length) }))

/-- SWAP_CANCEL (R371): only in STAGED and ARMED. -/
def execSwapCancel (p : Path) (s : State) : Host.Outcome State Fault Refusal :=
  .next (odReq s p 0x307100 (.swapCancel p)
    (odCmd s p 0x307100 (s.wts.swState == .staged || s.wts.swState == .armed) 0 fun s =>
    swapDrop (match s.wts.swMan with
      | some im => s.each im.cores fun s c => s.mapCore c fun k => { k with inact := .empty }
      | none => s)))

/-- RELEASE_STEP_WRITE (R372): refused when the step is no later than 2 steps after the current one; in STAGED it arms the swap. -/
def execReleaseStepWrite (p : Path) (v : BitVec 64) (s : State) : Host.Outcome State Fault Refusal :=
  .next (odReq s p 0x307003 (.releaseStepWrite p v)
    (odCmd s p 0x307003 true (firstAbort [(decide (s.sch.stepNo + 2 < v.toNat), abTOOLATE)]) fun s =>
    s.mapWts fun w => { w with swRel := v.toNat, swState := if w.swState = .staged then .armed else w.swState }))

/-- SWAP_FILL_LIMIT (R374). -/
def execSwapFillLimit (s : State) : Host.Outcome State Fault Refusal :=
  .next (if s.wts.swState = .filling ∧ !s.wts.swLate ∧ s.wts.swFillAt + 1000000 * s.wts.swLimMs ≤ s.now then
    raise (s.mapWts fun w => { w with swLate := true }) 0x0B07 0x10 [s.sch.stepNo] else s)

/-- SWAP_READY_NOTICE (R373). -/
def execSwapReadyNotice (s : State) : Host.Outcome State Fault Refusal := .next (swapNotice s)

end Sys2Proof.Machine
end

