-- ==== Sys2Proof/Machine/Packets.lean ====
section
/-! DEFINITION. What a packet does at the end of its route (R325, R330-R333, R355): windows, service queues, fan-out and reduction; how the packets that
stand in input VCs go on (R333, R335); the meanings of LINK_*, GATE_WRITE, PACKET_ARRIVE, LOCAL_ROUTE_DELIVER, REDUCE_PLACE_FREE, INJECTION_SPACE_FREE and TRIB_PIECE_WRITE. -/

namespace Sys2Proof.Machine

/-! ### Delivery to a queue (R325, R355) -/

/-- A packet for a service queue (Table 11-4); `origin` names the link it came by. -/
def serviceTake (s : State) (origin tc q tag : Nat) (bs : List Byte) : State :=
  if q ≤ 0x3F7 ∧ tc = 2 then intakePacket s (Fin.ofNat 8 (q - 0x3F0)) tag bs
  else if q = 0x3F8 ∧ tc = 3 then requestTake s bs
  else if q = 0x3F9 ∧ tc = 0 then swapNotice s
  else if q = 0x3FF ∧ tc = 0 then (if origin < 128 then beaconTake s (origin / 8) (fieldAt bs 0 8) else s)
  else dropArr s [q]

/-- Counts a packet whose two rows are written in its half (R325), with what a chip-mode recorder takes of it (R537). -/
def halfCountUp (s : State) (k tag : Nat) (bs : List Byte) : State :=
  s.mapFab fun f => { f with
    halves := fset f.halves 0 k (min 65535 (fget f.halves 0 k + 1))
    halfAt := fset f.halfAt 0 k (horizon s)
    taken := if s.inp.mode = 2 then fset f.taken [] k (fget f.taken [] k ++ [(tag, bs)]) else f.taken }

/-- A unicast packet for a receive window (R325), or dropped (R319, R541). In a job its two rows wait for free slots of their banks (R255, R257);
outside a job no wide access holds a bank. -/
def queueTake (s : State) (origin tc q : Nat) (half : Bool) (tag : Nat) (bs : List Byte) : State :=
  if 0x3F0 ≤ q then serviceTake s origin tc q tag bs
  else
    let (c, _, hs) := queueEntry s q
    if c = none ∨ hs ≤ tag ∨ chipReplay s then dropArr s [q, tag]
    else
      let k := halfKey q half
      let a := 4 * (halfBase s k + 16 * tag)
      let x := c.getD 0
      if s.sch.job ∧ segRangeOn (segTakes s x) (spadBytes x) a 64 then
        s.mapFab fun f => { f with narrow := f.narrow ++ [{ key := k, tag := tag, core := x, addr := a, data := padTo 64 bs, atW := s.sch.wCycle }] }
      else
        let (s, ok) := windowPut s k tag bs
        if ok then halfCountUp s k tag bs else s

/-! ### Fan-out (R330) -/

/-- Branch `b` of a fan-out entry: VALID, PATH, KIND, RANK, QUEUE (Table 10-9). -/
def fanBranch (e b : Nat) : Bool × Nat × Nat × Nat × Nat :=
  let x := bits e (116 - 28 * b) (89 - 28 * b)
  (bit x 27, bits x 26 15, bits x 14 13, bits x 12 11, bits x 10 1)

/-- Whether a fan-out entry is enabled (R330). -/
def fanEnabled (e : Nat) : Bool := bit e 127 || [0, 1, 2, 3].any fun b => (fanBranch e b).1

/-- Handles a packet by a fan-out entry: the local copy first, then a copy for each VALID branch, branch 0 first (R330). -/
def fanOut (s : State) (origin tc q : Nat) (half : Bool) (tag : Nat) (bs : List Byte) : State :=
  let e := mnat s.fab.fan (16 * (q % 256)) 16
  if 256 ≤ q ∨ !fanEnabled e then dropArr s [q]
  else
    let s := s.cond (bit e 127) fun s => queueTake s origin tc (bits e 126 117) half tag bs
    [0, 1, 2, 3].foldl (fun s b =>
      let (v, path, kind, rank, queue) := fanBranch e b
      if !v then s
      else
        let pe := pathAt (pathBank s) path
        if pathValid pe then injOwn s origin { head := headOf pe tc kind rank half queue tag, data := padTo 64 bs } else dropArr s [path]) s

/-! ### Reduction (R331-R333) -/

/-- A reduce entry (Table 10-10). -/
def redAt (s : State) (e : Nat) : Nat := mnat s.fab.red (8 * e) 8

/-- Contributions per group of a reduce entry. -/
def redFanin (v : Nat) : Nat := bits v 63 61

/-- Whether a reduce entry is enabled. -/
def redEnabled (v : Nat) : Bool := decide (2 ≤ redFanin v ∧ redFanin v ≤ 4) && decide (bits v 60 58 ≤ 3)

/-- Combines the codes of one element in rank order (R332): `FP32` sum, `BF16` sum, FP32 maximum, wrapping INT32 sum. -/
def redElem (op : Nat) (cs : List Nat) : Nat :=
  let fold := fun (f : Nat → Nat → Nat) (l : List Nat) => match l with
    | [] => 0
    | c :: r => r.foldl f c
  match op with
  | 0 => (match firstNaN fFP32 cs with
    | some n => n
    | none => fold (fun a b => (fpAdd fFP32 false a b).v) cs)
  | 1 => (match firstNaN fBF16 cs with
    | some n => n
    | none => (roundIEEE fBF16 true false (exOf (fp (fold (fun a b => (fpAdd fFP32 false a b).v) (cs.map fun c => c * 65536))))).v)
  | 2 => (match firstNaN fFP32 cs with
    | some n => n
    | none => fold (fun a b => (fpMinMax fFP32 false true a b).v) cs)
  | _ => fold (fun a b => (a + b) % 2 ^ 32) cs

/-- The combined payload of a group (R332). -/
def redCombine (op fanin : Nat) (ps : List (Nat × List Byte)) : List Byte :=
  let w := if op = 1 then 2 else 4
  let part := fun (r : Nat) => match ps.find? (fun p => p.1 == r) with
    | some p => p.2
    | none => []
  ((List.range (64 / w)).map fun i => leBytes w (redElem op ((List.range fanin).map fun r => fieldAt (part r) (w * i) w))).flatten

/-- Whether a group holds ranks 0 to `FANIN` − 1 (R331). -/
def groupFull (s : State) (g : Group) : Bool := decide (redFanin (redAt s g.entry) ≤ g.parts.length)

/-- Delivers or injects the result of a complete group; none while its injection buffer has no room (R332, R333). -/
def groupEmit (s : State) (g : Group) : Option State :=
  let v := redAt s g.entry
  let bs := redCombine (bits v 60 58) (redFanin v) g.parts
  if bit v 57 then some (queueTake s 256 g.tc (bits v 56 47) g.half g.tag bs)
  else
    let pe := pathAt (pathBank s) (bits v 42 31)
    if !pathValid pe then some (dropArr s [bits v 42 31])
    else (inject s true { head := headOf pe g.tc (bits v 46 45) (bits v 44 43) g.half (bits v 56 47) g.tag, data := bs }).1

/-- Emits the complete groups whose result can leave; each frees its place (R333). -/
def groupsEmit (s : State) : State :=
  s.fab.groups.foldl (fun s g =>
    if groupFull s g then (match groupEmit s g with
      | some t => t.mapFab fun f => { f with groups := dropFirst (fun h => h == g) f.groups }
      | none => s) else s) s

/-- A contribution (R331, R333). The Bool says that it waits for a group place. -/
def contribute (s : State) (p : Packet) : State × Bool :=
  let q := hQueue p
  let e := q % 256
  let v := redAt s e
  let same := fun (g : Group) => g.entry == e && g.half == hHalf p && g.tag == hTag p
  if 256 ≤ q ∨ !redEnabled v then (dropArr s [q], false)
  else if redFanin v ≤ hRank p then (raise s 0x0A05 0x15 [e], false)
  else match s.fab.groups.find? same with
    | some g =>
      if g.parts.any fun r => r.1 == hRank p then (raise s 0x0A05 0x15 [e], false)
      else
        let s := s.mapFab fun f => { f with groups := mapFirst same (fun g => { g with parts := g.parts ++ [(hRank p, p.data)] }) f.groups }
        (groupsEmit s, false)
    | none =>
      if 1024 ≤ s.fab.groups.length then (s, true)
      else
        let g : Group := { entry := e, half := hHalf p, tag := hTag p, tc := hTc p, parts := [(hRank p, p.data)] }
        (s.mapFab fun f => { f with groups := f.groups ++ [g], groupMax := max f.groupMax (f.groups.length + 1) }, false)

/-! ### Arrival -/

/-- Whether copies of a packet from `o` wait for a place in the second set (R330). -/
def copiesWait (s : State) (o : Nat) : Bool := s.fab.injIn.any fun p => p.1 == o

/-- A packet at its route's end, by its kind (R317, R319). The Bool says that it stays at its head: a contribution that waits for a group place, or a
fan-out whose copies wait. -/
def arrive (s : State) (origin : Nat) (p : Packet) : State × Bool :=
  if !fabricTakes s then (dropArr s [hQueue p], false)
  else match hKind p with
    | 0 => (queueTake s origin (hTc p) (hQueue p) (hHalf p) (hTag p) p.data, false)
    | 1 =>
      let t := fanOut s origin (hTc p) (hQueue p) (hHalf p) (hTag p) p.data
      (t, copiesWait t origin)
    | 2 => contribute s p
    | _ => (dropArr s [hQueue p], false)

/-- The head packet of a local-route buffer; buffers 128 + VC of the two sets. -/
def localHead (s : State) (set2 : Bool) (v : Nat) : Option Packet := (fget (if set2 then s.fab.inj2 else s.fab.inj) [] (128 + v)).head?

/-- Removes the head packet of a local-route buffer; a handoff that waits for its room goes on (R45). -/
def localPop (s : State) (set2 : Bool) (v : Nat) : State :=
  let b := 128 + v
  if set2 then s.mapFab fun f => { f with inj2 := fset f.inj2 [] b ((fget f.inj2 [] b).drop 1) }
  else injFreed (injRoom s false b) (s.mapFab fun f => { f with inj := fset f.inj [] b ((fget f.inj [] b).drop 1) }) b

/-- Origin of a local-route buffer. -/
def localOrigin (set2 : Bool) (v : Nat) : Nat := 128 + v + if set2 then 8 else 0

/-- A packet leaves the head at which it stands: its input VC or its local-route buffer. -/
def headGone (s : State) (w : HeldPkt) : State :=
  (heldDrop s w).cond (decide (128 ≤ w.origin)) fun s => localPop s (decide (136 ≤ w.origin)) ((w.origin - 128) % 8)

/-- The packet that stands at the head of `o` is handled (R317, R330, R333): one that goes on waits there until its link takes it (R335). -/
def headStep (s : State) (o : Nat) : State :=
  match s.fab.waiting.find? fun w => w.origin == o with
  | none => s
  | some w =>
    let keep := fun (s : State) => s.mapFab fun f => { f with waiting := mapFirst (fun x => x == w) (fun x => { x with told := true }) f.waiting }
    let (q, hop) := if o < 128 then route s w.pkt else (w.pkt, none)
    match hop with
    | some l => if w.told then s else if hopBad s l (hTc q) then headGone (dropAtLink s l) w else keep s
    | none =>
      if w.told ∧ hKind q = 1 then (if copiesWait s o then s else headGone s w)
      else match arrive s o q with
        | (t, true) => if w.told then t else (keep t).cond (hKind q == 2) fun s => s.mapFab fun f => { f with groupWait := sat32 f.groupWait }
        | (t, false) => headGone t w

/-- The links that standing packets have been routed to. -/
def heldLinks (s : State) : List Nat := uniq (s.fab.waiting.filterMap (heldFor s))

/-- Places that freed are taken by waiting copies and results. -/
def injSettle (s : State) : State := groupsEmit (injRefill s)

/-- Every head is handled once, freed places are taken, and links take what they can, while packets stand; `n` rounds at most. -/
def settleGo (s : State) : Nat → State
  | 0 => s
  | n + 1 =>
    if s.fab.waiting.isEmpty then s
    else
      let s := (uniq (s.fab.waiting.map fun w => w.origin)).foldl headStep s
      if s.fab.waiting.isEmpty then s else settleGo ((heldLinks s).foldl pump (injSettle s)) n

/-- The standing packets go on as far as they can (R333, R335). -/
def settle (s : State) : State := settleGo s (2 * s.fab.waiting.length + 1)

/-- A link sends what it can, and what that frees is taken. -/
def switched (s : State) (l : Nat) : State := settle (injSettle (pump s l))

/-- A packet comes to `o`, behind those that stand there (R333). -/
def enterQueue (s : State) (o : Nat) (p : Packet) : State := settle (s.mapFab fun f => { f with waiting := f.waiting ++ [{ origin := o, pkt := p }] })

/-- The head packet of a local-route buffer is handled as an arrival; one that waits stays at the head (R323, R333). -/
def localDeliver (s : State) (set2 : Bool) (v : Nat) : State :=
  match localHead s set2 v with
  | none => s
  | some p => if s.fab.waiting.any fun w => w.origin == localOrigin set2 v then settle s else injSettle (enterQueue s (localOrigin set2 v) p)

/-! ### Meanings -/

/-- LINK_FRAME_RECEIVE (R310): a frame that is not taken is discarded whole and sets `NAK`; the symbols that the FEC corrected in it are counted in
0x4013. -/
def execLinkFrameReceive (l : LinkId) (f : Frame) (s : State) : Host.Outcome State Fault Refusal :=
  .next (if !linkUp (s.link l.val) then s
    else
      let s := s.mapLink l.val fun k => { k with fec := min (k.fec + f.fec) (2 ^ 64 - 1) }
      if frameOk (s.link l.val) f then switched (frameTake s l.val f) l.val
      else s.mapLink l.val fun k => { k with nak := true })

/-- Checks of a write of link control: the reserved code of `LANES` (R431). -/
def linkChk (v : BitVec 32) : Nat := firstAbort [(bits v.toNat 6 5 != 3, abBADVALUE)]

/-- LINK_ENABLE (R312). -/
def execLinkEnable (p : Path) (l : LinkId) (v : BitVec 32) (s : State) : Host.Outcome State Fault Refusal :=
  .next (odReq s p (0x401000 + l.val + 1) (.linkEnable p l v)
    (odCmd s p (0x401000 + l.val + 1) true (linkChk v) fun s => settle (linkWrite s l.val v)))

/-- LINK_DISABLE (R312). -/
def execLinkDisable (p : Path) (l : LinkId) (v : BitVec 32) (s : State) : Host.Outcome State Fault Refusal :=
  .next (odReq s p (0x401000 + l.val + 1) (.linkDisable p l v)
    (odCmd s p (0x401000 + l.val + 1) true (linkChk v) fun s => settle (linkWrite s l.val v)))

/-- LINK_RETRAIN (R312, R313). -/
def execLinkRetrain (p : Path) (l : LinkId) (v : BitVec 32) (s : State) : Host.Outcome State Fault Refusal :=
  .next (odReq s p (0x401000 + l.val + 1) (.linkRetrain p l v)
    (odCmd s p (0x401000 + l.val + 1) true (linkChk v) fun s => settle (linkWrite s l.val v)))

/-- LINK_FAULT (R312, R313). -/
def execLinkFault (l : LinkId) (bad : BitVec 8) (s : State) : Host.Outcome State Fault Refusal :=
  .next (if linkUp (s.link l.val) then
    (toTraining s l.val ((s.link l.val).state == .up4)).mapLink l.val fun k => { k with bad := k.bad ||| bad } else s)

/-- LINK_TRAINED (R312, R313). -/
def execLinkTrained (l : LinkId) (bad : BitVec 8) (delay : Nat) (s : State) : Host.Outcome State Fault Refusal :=
  .next (switched (linkTrain s l.val bad delay) l.val)

/-- LINK_TRAIN_TIMEOUT (R312). -/
def execLinkTrainTimeout (l : LinkId) (s : State) : Host.Outcome State Fault Refusal :=
  .next (if (s.link l.val).state = .training ∧ (s.link l.val).trainAt + 20000000 ≤ s.now then settle (linkFail s l.val) else s)

/-- GATE_WRITE (R341). -/
def execGateWrite (p : Path) (l : LinkId) (v : BitVec 8) (s : State) : Host.Outcome State Fault Refusal :=
  .next (odReq s p (0x404000 + l.val + 1) (.gateWrite p l v)
    (odCmd s p (0x404000 + l.val + 1) true 0 fun s => settle (gateWrite s l.val v)))

/-- PACKET_ARRIVE (R317): a packet of an input VC of a link that is not OFF or FAILED. -/
def execPacketArrive (l : LinkId) (pk : Packet) (s : State) : Host.Outcome State Fault Refusal :=
  .next (if (s.link l.val).state = .off ∨ (s.link l.val).state = .failed then s
    else enterQueue s (8 * l.val + hVcNo pk) pk)

/-- LOCAL_ROUTE_DELIVER (R323). -/
def execLocalRouteDeliver (set2 : Bool) (v : Fin 8) (s : State) : Host.Outcome State Fault Refusal := .next (localDeliver s set2 v.val)

/-- REDUCE_PLACE_FREE (R333): complete groups leave, and waiting contributions take the places. -/
def execReducePlaceFree (s : State) : Host.Outcome State Fault Refusal := .next (settle (groupsEmit s))

/-- INJECTION_SPACE_FREE (R323): the output link takes what it can, the packets of this injection buffer among them, and a handoff that waits for its
room goes on (cause 2 ends 4 W-cycles later, R45). -/
def execInjectionSpaceFree (b : Fin 136) (s : State) : Host.Outcome State Fault Refusal :=
  .next (let t := if b.val < 128 then switched s (b.val / 8) else s
    injFreed (injRoom s false b.val) t b.val)

/-- TRIB_PIECE_WRITE (R356), relayed through the chip's own fan-out table as it arrives (R360). -/
def execTribPieceWrite (data : List Byte) (s : State) : Host.Outcome State Fault Refusal :=
  let h := data.take 16
  let well := intakeOk h && byteAt h 9 == 0#8 && data.length == 16 + pieceBytes
  let relay := fun (s : State) => (List.range 1025).foldl (fun s i =>
    if i = 0 then fanOut s 256 2 (s.wts.relay.toNat % 256) false 2047 h
    else fanOut s 256 2 (s.wts.relay.toNat % 256) false (i - 1) ((data.drop (16 + 64 * (i - 1))).take 64)) s
  .next (if !msgServed s then s else (outsideDo s (.tribPieceWrite data) fun s => tribPiece s data).cond (well && s.wts.relay.getLsbD 15) relay)

end Sys2Proof.Machine
end

