-- ==== Sys2Proof/Machine/Repair.lean ====
section
/-! DEFINITION. Fencing, sparing and bed row repair (R481-R496): the core map, fence requests and remaps, row repairs, stack fences; the meanings
of FENCE_REQUEST, SPARE_READY, ROW_REPAIR_COPY_DONE and STACK_FENCE_REQUEST. -/

namespace Sys2Proof.Machine

/-! ### Core map and fences (R481-R489) -/

/-- Key of a physical position: 14 × cluster + PF position, or + 5 + DE position. -/
def posKey (cl : Nat) (de : Bool) (pos : Nat) : Nat := 14 * cl + (if de then 5 else 0) + pos

/-- Whether a position exists (Table 15-1). -/
def posExists (de : Bool) (pos : Nat) : Bool := decide (pos < if de then 9 else 5)

/-- Whether a position is fenced. -/
def posFenced (s : State) (k : Nat) : Bool := fget s.rep.fenced false k

/-- The logical core that a position carries. -/
def posCarries (s : State) (cl : Nat) (de : Bool) (pos : Nat) : Option Nat :=
  ((List.range 12).map fun j => 12 * cl + j).find? fun c => corePos s c == (if de then 5 else 0) + pos

/-- The spare position of a kind (R481). -/
def sparePos (de : Bool) : Nat := if de then 8 else 4

/-- Whether the spare of a cluster and kind is free: neither fenced nor carrying a slot (R481). -/
def spareFree (s : State) (cl : Nat) (de : Bool) : Bool :=
  !posFenced s (posKey cl de (sparePos de)) && (posCarries s cl de (sparePos de)).isNone

/-- Marks a position fenced. -/
def fencePos (s : State) (cl : Nat) (de : Bool) (pos : Nat) : State :=
  { s with rep := { s.rep with fenced := fset s.rep.fenced false (posKey cl de pos) true } }

/-- Maps a logical core to a physical position, or to none (255). -/
def mapCoreTo (s : State) (c pos : Nat) : State := { s with rep := { s.rep with map := fset s.rep.map (posOf0 c) c pos } }

/-- Forgets a pending fence. -/
def pendDrop (s : State) (r : Remap) : State := { s with rep := { s.rep with pend := s.rep.pend.filter fun x => x != r } }

/-- A remap is applied (R486): the slot's ports switch to the spare, which holds the whole state of the core; the old position is fenced. -/
def remapApply (s : State) (r : Remap) : State :=
  let s := pendDrop s r
  let s := match posCarries s r.cl r.de r.pos with
    | some c => mapCoreTo s c ((if r.de then 5 else 0) + sparePos r.de)
    | none => s
  let s := fencePos s r.cl r.de r.pos
  raise { s with rep := { s.rep with remaps := sat32 s.rep.remaps } } 0x0F01 0x10 [r.cl, r.pos]

/-- A fence without a spare: the slot is absent (R485). -/
def slotAbsent (s : State) (r : Remap) : State :=
  let s := pendDrop s r
  let s := match posCarries s r.cl r.de r.pos with
    | some c => mapCoreTo s c 255
    | none => s
  raise (fencePos s r.cl r.de r.pos) 0x0F02 0x10 [r.cl, r.pos]

/-- Whether a fence request is refused with `INCONSISTENT` (R484). -/
def fenceRefused (s : State) (cl : Nat) (de : Bool) (pos : Nat) : Bool :=
  !posExists de pos || posFenced s (posKey cl de pos) || s.rep.pend.any fun r => r.cl == cl && r.de == de

/-- Carries out a fence request by the position and the device state (Table 15-2). -/
def fenceDo (s : State) (cl : Nat) (de : Bool) (pos : Nat) : State :=
  let r : Remap := { cl := cl, de := de, pos := pos }
  let add := fun (r : Remap) => { s with rep := { s.rep with pend := s.rep.pend ++ [r] } }
  if (posCarries s cl de pos).isNone then raise (fencePos s cl de pos) 0x0F03 0x10 [cl, pos]
  else if spareFree s cl de then add r
  else if stagesNow s then haltNext (add { r with noSpare := true, weir := stageWeir s }) 0x0F02
  else slotAbsent s r

/-- The spare of a cluster and kind is ready (R485): the remap is armed for the first Weir whose S-cycle w + 10 follows, or applied at once outside
RUNNING and DRAINING. -/
def spareReady (s : State) (cl : Nat) (de : Bool) : State :=
  match s.rep.pend.find? fun r => r.cl == cl && r.de == de && !r.armed && !r.noSpare with
  | none => s
  | some r =>
    if stagesNow s then
      { s with rep := { s.rep with pend := s.rep.pend.map fun x => if x = r then { x with armed := true, weir := stageWeir s } else x } }
    else remapApply s r

/-- The remaps armed for the Weir that ended last (R489). -/
def remapsDue (s : State) : List Remap := s.rep.pend.filter fun r => r.armed && decide (r.weir < s.sch.stepNo)

/-- An automatic fence of the position of core `c` (R484). -/
def autoFence (s : State) (c : Nat) : State :=
  let k := s.core c
  let pos := corePos s c % 256
  let de := isDE c
  let p := pos - if de then 5 else 0
  if s.rep.auto ∧ s.rep.autoN ≤ k.corrHour ∧ pos ≠ 255 ∧ !fenceRefused s (c / 12) de p then fenceDo s (c / 12) de p else s

/-- Corrected errors of a core's memories in the present hour of fabric time (R484). -/
def hourCount (s : State) (c n : Nat) : State :=
  let s := if 3600000000000 ≤ s.now - s.rep.autoAt then
      { s with rep := { s.rep with autoAt := s.now }, cores := s.cores.map fun p => (p.1, { p.2 with corrHour := 0 }) } else s
  autoFence (s.mapCore c fun k => { k with corrHour := k.corrHour + n }) c

/-! ### Bed rows (R491-R494) -/

/-- Key of a row. -/
def rowKey (x : Nat × Nat × Nat) : Nat := (8 * x.1 + x.2.1) * 131072 + x.2.2

/-- Spare rows of a tier (R491). -/
def tierSpares : Nat := 2624

/-- Spare rows in use in a tier. -/
def tierUsed (s : State) (st ti : Nat) : List Nat := (s.rep.rows.filter fun r => r.stack == st && r.tier == ti).map fun r => r.spare

/-- A row repair as a repair-map entry (Table 15-5). -/
def rowEntry (r : RowFix) : BitVec 64 := BitVec.ofNat 64 (2 ^ 60 + r.stack * 2 ^ 56 + r.tier * 2 ^ 53 + r.row * 2 ^ 36 + r.spare * 2 ^ 24)

/-- A row repair is made: the log entry, of which 8,192 are kept, and event 0x0F04 (R492, R494). -/
def rowMade (s : State) (r : RowFix) : State :=
  let s := { s with rep := { s.rep with
    log := if s.rep.log.length < 8192 then s.rep.log ++ [rowEntry r] else s.rep.log
    unlogged := if s.rep.log.length < 8192 then s.rep.unlogged else sat32 s.rep.unlogged } }
  raise s 0x0F04 (0x20 + r.stack) [r.stack, r.tier, r.row]

/-- Repairs the row of a bed line with the lowest free spare row of its tier (R491): redirected at once when the error is persistent, else after
the copy (R492). -/
def rowRepair (s : State) (line : Nat) (persistent : Bool) : State :=
  let (st, ti, ro) := rowOf s line
  let used := tierUsed s st ti
  match (List.range tierSpares).find? fun n => !used.contains n with
  | none =>
    if s.rep.fullTiers.contains (8 * st + ti) then s
    else raise { s with rep := { s.rep with fullTiers := s.rep.fullTiers ++ [8 * st + ti] } } 0x0F05 (0x20 + st) [st, ti]
  | some n =>
    let r : RowFix := { stack := st, tier := ti, row := ro, spare := n, copied := persistent }
    let s := { s with rep := { s.rep with rows := s.rep.rows ++ [r] } }
    let s := s.mapBeds fun b => { b with lineCorr := fset b.lineCorr 0 (rowKey (st, ti, ro)) 0 }
    s.cond persistent fun s => rowMade s r

/-- Corrected errors of a bed line: the row is repaired at the threshold (R491). -/
def rowCount (s : State) (line n : Nat) : State :=
  let k := rowKey (rowOf s line)
  let busy := s.rep.rows.any fun r => !r.copied && rowKey (r.stack, r.tier, r.row) == k
  let s := s.mapBeds fun b => { b with lineCorr := fset b.lineCorr 0 k (fget b.lineCorr 0 k + n) }
  if s.rep.rowN ≤ fget s.beds.lineCorr 0 k ∧ !busy then rowRepair s line false else s

/-! ### Stack fences (R495, R496) -/

/-- Entry into STANDBY: a requested stack fence takes effect on the bed map, which zeroes every partition and sets every piece to NONE (R495,
R496). -/
def toStandby (s : State) : State :=
  let s := match s.rep.stackReq with
    | some k =>
      let s := { s with rep := { s.rep with stackMap := some (k % 16), stackReq := none, stackOff := none } }
      let s := s.mapBeds fun b => { b with mem := [], bad := [] }
      s.mapWts fun w => { w with pstate := [], digests := [], man := none, hashing := [], streams := [] }
    | none => s
  setState s .standby

/-! ### Meanings -/

/-- FENCE_REQUEST (R484, R485). -/
def execFenceRequest (p : Path) (v : BitVec 16) (s : State) : Host.Outcome State Fault Refusal :=
  let n := v.toNat
  .next (odReq s p 0x210200 (.fenceRequest p v)
    (odCmd s p 0x210200 true (firstAbort [(!fenceRefused s (bits n 15 12) (bit n 11) (bits n 10 7), abINCONS)]) fun s =>
    fenceDo s (bits n 15 12) (bit n 11) (bits n 10 7)))

/-- SPARE_READY (R485). -/
def execSpareReady (cl : Fin 16) (de : Bool) (s : State) : Host.Outcome State Fault Refusal := .next (spareReady s cl.val de)

/-- ROW_REPAIR_COPY_DONE (R492): reads of the row are redirected to its spare. -/
def execRowRepairCopyDone (stack : Fin 16) (tier : Fin 8) (row : Nat) (s : State) : Host.Outcome State Fault Refusal :=
  let hit := fun (r : RowFix) => r.stack == stack.val && r.tier == tier.val && r.row == row && !r.copied
  .next (match s.rep.rows.find? hit with
    | none => s
    | some r => rowMade { s with rep := { s.rep with rows := mapFirst hit (fun r => { r with copied := true }) s.rep.rows } } r)

/-- STACK_FENCE_REQUEST (R495): a second fence is refused; bit 15 clear requests nothing. -/
def execStackFenceRequest (p : Path) (v : BitVec 16) (s : State) : Host.Outcome State Fault Refusal :=
  let k := bits v.toNat 3 0
  .next (odReq s p 0x309400 (.stackFenceRequest p v)
    (odCmd s p 0x309400 true
    (firstAbort [(!v.getLsbD 15 || (s.rep.stackMap.isNone && s.rep.stackReq.isNone), abINCONS)]) fun s =>
      if v.getLsbD 15 then
        let run := stagesNow s
        let s := { s with rep := { s.rep with stackReq := some (k + if run then 16 else 0) } }
        s.cond run fun s => haltNext s 0x0F06
      else s))

end Sys2Proof.Machine
end

