-- ==== Sys2Proof/Machine/Memory.lean ====
section
/-! DEFINITION. Errors, the machine check and its replay, scrubbing, segment power, partitions (R263-R288), bank conflicts (R257) and the control
network (R298-R300); the meanings of UNCORRECTABLE_*, REPLAY_READY, SCRUB_*, SEGMENT_*, PARTITION_WRITE, BANK_CONFLICT_SERVED and
CONTROL_MESSAGE. -/

namespace Sys2Proof.Machine

/-! ### Step-start copies (R273) -/

/-- The copy of a core at a step's first S-cycle. -/
def copyOf (k : Core) : CoreCopy :=
  { flags := k.flags, sregs := k.sregs, vreg := k.vreg, mreg := k.mreg, vl := k.vl, sticky := k.sticky, oxbow := k.oxbow
    snd := [0, 1, 2, 3].foldl (fun m a => fset m {} a (k.arr a).snd) []
    capture := [0, 1, 2, 3].filterMap fun a => (k.arr a).capture.map fun c => (a, c)
    idx := k.idx, queues := k.queues }

/-- What happens at a step's first S-cycle: the copies are kept (R273), the step-write bits cleared (R275), the step's handoff count begins (R274). -/
def stepStart (s : State) : State :=
  let s := { s with
    cores := s.cores.map fun (p : Nat × Core) => (p.1, { p.2 with wrote := [] })
    pools := s.pools.map fun (p : Nat × Pool) => (p.1, { p.2 with wrote := [] }) }
  s.mapSch fun k => { k with
    copies := (ringCores s).map fun c => (c, copyOf (s.core c)), freeAt := s.free, handed := 0, discard := 0, replayed := false, outDig := [] }

/-- Restores a core to its step-start copy; what the step had queued or started is gone (R49, R273). Its registers are rewritten, with valid check
bits (R270). -/
def restoreCore (t : Nat) (cp : CoreCopy) (k : Core) : Core :=
  { k with
    flags := cp.flags, sregs := cp.sregs, vreg := cp.vreg, mreg := cp.mreg, vl := cp.vl, sticky := cp.sticky, stickySet := 0#32, stickyClr := 0#32
    oxbow := cp.oxbow, idx := cp.idx, queues := cp.queues, run := [], busy := [], lastS := [], sldPend := [], held := false, nextS := t
    weirDone := false, armed := false, wrote := [], sldRead := (0, 0), badX := k.badX.filter fun p => decide (p.1 < badKey 1 0)
    arrays := [0, 1, 2, 3].foldl (fun m a =>
      let cap := (cp.capture.find? fun p => p.1 == a).map fun p => p.2
      fset m {} a { fget m {} a with snd := fget cp.snd {} a, capture := cap }) k.arrays }

/-- The step restarts at its first S-cycle (R49, R274): handoffs made are discarded when they come again, withheld outputs are dropped, entries
read are read again, with the input-record entries of both (R537). The W-cycles from the step's first W-cycle count as cause 11, each once in the total.
Undefined values repeat (R13). -/
def restartStep (s : State) (r : Replay) : State :=
  let t := s.sch.base
  let s := s.each s.sch.copies fun s p => s.mapCore p.1 (restoreCore t p.2)
  let s := { s with
    free := s.sch.freeAt
    pools := s.pools.map fun (p : Nat × Pool) => (p.1, { p.2 with wrote := [], waiting := [] })
    trib := { s.trib with used := [], outStep := [], outRoom := s.trib.outRoom + s.trib.outStep.length }
    inp := { s.inp with entries := s.inp.entries.filter fun e => decide (e.scyc < t) || e.kind == 6 || e.kind == 8 } }
  let s := s.mapSrv fun v => { v with commits := [] }
  let s := s.mapFab fun f => { f with takes := [] }
  dropCause (s.mapSch fun k => { k with
    perCause := fset k.perCause 0 11 (fget k.perCause 0 11 + (r.atW - k.stepW)), eddyW := k.eddyW + (k.sCycle - t), sCycle := t, signals := []
    sigSent := [], discard := k.handed, replayed := true, replay := none, replayCount := sat32 k.replayCount, weirAt := none, arbS := 0, arbBusy := []
    causes := k.causes.filter fun c => decide (5 < c.no) }) 11

/-! ### Uncorrectable errors (R270-R276) -/

/-- Marks a granule or line uncorrectable and counts it (R270, R287). -/
def markBad (s : State) (m : MemLoc) (keep : Bool) : State :=
  match m with
  | .spad c g => s.mapCore c.val fun k => { k with bad := if keep then fset k.bad false g true else k.bad, uncorr := sat32 k.uncorr }
  | .pool cl g => s.mapPool cl.val fun k => { k with bad := if keep then fset k.bad false g true else k.bad, uncorr := sat32 k.uncorr }
  | .beds l => s.mapBeds fun b => { b with
      bad := if keep then fset b.bad false l true else b.bad, uncorr := fmod b.uncorr 0 (rowOf s l).1 sat32 }
  | .desc c g => s.mapCore c.val fun k => { k with badX := if keep then fset k.badX false (badKey 0 g) true else k.badX }
  | .vreg c g => s.mapCore c.val fun k => { k with badX := if keep then fset k.badX false (badKey 1 g) true else k.badX }
  | .sreg c g => s.mapCore c.val fun k => { k with badX := if keep then fset k.badX false (badKey 2 g) true else k.badX }
  | .acc c g => s.mapArr c.val (g / 32768) fun x => { x with bad := if keep then fset x.bad false (g % 32768) true else x.bad }

/-- Items of a memory event: the memory, its unit, its bank (of the beds the stack alone, of a core's other stores the descriptor bank or the array) and
the address (R288). -/
def memItems (s : State) (m : MemLoc) : List Nat :=
  match m with
  | .spad c g => [0, c.val, rowBank (bankBits c.val) (g / 4), 8 * g]
  | .pool cl g => [1, cl.val, rowBank 6 (g / 4), 8 * g]
  | .beds l => [2, (rowOf s l).1, 1024 * l]
  | .desc c g => [3, c.val, 8 * g / bankBytes, 8 * g % bankBytes]
  | .vreg c g => [4, c.val, 0, 8 * g]
  | .sreg c g => [5, c.val, 0, 8 * g]
  | .acc c g => [6, c.val, g / 32768, 8 * (g % 32768)]

/-- Node of a memory (Table 9-3). -/
def memNode (s : State) (m : MemLoc) : Nat :=
  match m with
  | .spad c _ => c.val / 12
  | .pool cl _ => cl.val
  | .beds l => 0x20 + (rowOf s l).1
  | .desc c _ => c.val / 12
  | .vreg c _ => c.val / 12
  | .sreg c _ => c.val / 12
  | .acc c _ => c.val / 12

/-- Writes zero with valid check bits over a bed line. -/
def lineZero (s : State) (l : Nat) : State :=
  s.mapBeds fun b => { b with mem := mzero b.mem (1024 * l) (1024 * l + 1024), bad := fset b.bad false l false }

/-- Whether a bed line holds weights of a VALID piece, which a refetch brings back (R275, R365). -/
def lineFetched (s : State) (l : Nat) : Bool := (partTypeAt s (1024 * l) == 1 || partTypeAt s (1024 * l) == 2) && pieceState s (linePiece l) == .valid

/-- Recovers a bed line by its partition (R265, R275, R365): `refetch` is the piece, where a source has answered with the command. The Bool says that the
line is rewritten.
The gap in a replay log is recorded as the loss of a KV line is (DEDUCED, log 77: Table 17-4 has no other entry for a zeroed line). -/
def lineRecover (s : State) (l : Nat) (refetch : List Byte) : State × Bool :=
  let a := 1024 * l
  let at_ := if s.sch.replay.isSome then s.sch.base else s.sch.sCycle
  let it := memItems s (.beds l)
  match partTypeAt s a with
  | 1 | 2 =>
    let i := linePiece l
    if pieceState s i ≠ .valid then
      let s := lineZero s l
      if pieceState s i = .filling then
        (setPiece (s.mapWts fun w => { w with streams := w.streams.filter fun p => p.2.piece != i, hashing := w.hashing.filter fun j => j != i }) i .bad,
          true)
      else (s, true)
    else if !fget s.beds.bad false l then (s, true)
    else if refetchOk s l refetch then (refetchForget (refetchWrite s l refetch) l, true)
    else (s, false)
  | 3 =>
    let base := ((partFind s 3).getD (0, 0)).1
    let s := inpAdd (lineZero s l) 6 at_ (leBytes 8 a)
    match kvOwner s (a - base) with
    | some i => (raise (s.mapBeds fun b => { b with kvLossNext := b.kvLossNext ++ [i] }) 0x0807 (0x20 + (rowOf s l).1) (it ++ [i]), true)
    | none => (raise s 0x0807 (0x20 + (rowOf s l).1) it, true)
  | 4 =>
    let s := lineZero s l
    let i := (a - ((partFind s 4).getD (0, 0)).1) / max 1 (adBytes s)
    (raise (s.cond (decide (i < 1024)) fun s => s.mapAdap i fun x => { x with state := .broken }) 0x080D (0x20 + (rowOf s l).1) (it ++ [i]), true)
  | 5 => (inpAdd (lineZero s l) 6 at_ (leBytes 8 a), true)
  | _ => (lineZero s l, true)

/-- A wide read finds an uncorrectable error (R271): event 0x0802 and cause 11, or fatal event 0x0803 when the step was replayed before (R49). -/
def machineCheck (s : State) (m : MemLoc) (persistent : Bool) : State :=
  if !s.sch.job ∨ !stagesNow s then s
  else
    let s := markBad s m persistent
    if s.sch.replayed ∨ s.sch.replay.isSome then fatal s 0x0803 (memNode s m) (memItems s m)
    else
      let s := raise s 0x0802 (memNode s m) (memItems s m)
      addCause (s.mapSch fun k => { k with replay := some { loc := m, persistent := persistent, atW := k.wCycle } }) 11 0

/-- The replay is ready (R275): for a transient error 64 W-cycles after its detection, for a persistent one once its granule is rewritten; content that a
step started with and lost is fatal. DEDUCED (log 77): registers are rewritten from their copies, descriptors and accumulator rows are lost. -/
def replayReady (s : State) (refetch : List Byte) : State :=
  match s.sch.replay with
  | none => s
  | some r =>
    if !r.persistent then (if s.sch.wCycle < r.atW + 64 then s else restartStep s r)
    else match r.loc with
      | .spad c g =>
        if fget (s.core c.val).wrote false g then
          restartStep (s.mapCore c.val fun k => { k with spad := mzero k.spad (8 * g) (8 * g + 8), bad := fset k.bad false g false }) r
        else fatal s 0x0803 (memNode s r.loc) (memItems s r.loc)
      | .pool cl g =>
        if fget (s.pool cl.val).wrote false g then
          restartStep (s.mapPool cl.val fun k => { k with mem := mzero k.mem (8 * g) (8 * g + 8), bad := fset k.bad false g false }) r
        else fatal s 0x0803 (memNode s r.loc) (memItems s r.loc)
      | .beds l =>
        match lineRecover s l refetch with
        | (t, true) => restartStep (rowRepair t l true) r
        | (t, false) => t
      | .vreg _ _ => restartStep s r
      | .sreg _ _ => restartStep s r
      | _ => fatal s 0x0803 (memNode s r.loc) (memItems s r.loc)

/-- The replay in a W-cycle (R275, R365): after a transient error it becomes ready in its W-cycle; for a lost weight line the refetch is asked for once, and
it is ready once the line is rewritten. -/
def replayTimer (s : State) : State :=
  match s.sch.replay with
  | none => s
  | some r =>
    if !r.persistent then replayReady s []
    else match r.loc with
      | .beds l =>
        if !lineFetched s l then s
        else if !fget s.beds.bad false l then replayReady s []
        else if r.fetch then s
        else refetchAdd (s.mapSch fun k => { k with replay := some { r with fetch := true } }) l
      | _ => s

/-- An uncorrectable error outside the schedule (R276): event 0x0804, no replay; a bed line is treated at once. -/
def outsideError (s : State) (m : MemLoc) (refetch : List Byte) : State :=
  let s := raise (markBad s m true) 0x0804 (memNode s m) (memItems s m)
  match m with
  | .beds l =>
    let (t, done) := lineRecover (rowRepair s l true) l refetch
    if done then t else refetchAdd t l
  | _ => s

/-! ### Scrubbing (R277-R279) -/

/-- Adds corrected errors to a count: the new count, and whether it reached a multiple of 1,024 (event 0x0801). -/
def corrAdd (n k : Nat) : Nat × Bool := (sat32n n k, decide (n / 1024 < sat32n n k / 1024))

/-- Counts corrected errors of a unit (R270, R288, R484, R491). -/
def countCorr (s : State) (m : MemLoc) (n : Nat) : State :=
  if n = 0 then s
  else match m with
    | .spad c _ =>
      let (v, ev) := corrAdd (s.core c.val).corr n
      let s := s.mapCore c.val fun k => { k with corr := v }
      hourCount (s.cond ev fun s => raise s 0x0801 (memNode s m) (memItems s m)) c.val n
    | .pool cl _ =>
      let (v, ev) := corrAdd (s.pool cl.val).corr n
      let s := s.mapPool cl.val fun k => { k with corr := v }
      s.cond ev fun s => raise s 0x0801 (memNode s m) (memItems s m)
    | .beds l =>
      let st := (rowOf s l).1
      let (v, ev) := corrAdd (fget s.beds.corr 0 st) n
      let s := s.mapBeds fun b => { b with corr := fset b.corr 0 st v }
      rowCount (s.cond ev fun s => raise s 0x0801 (memNode s m) (memItems s m)) l n
    | .desc c _ => hourCount s c.val n
    | .vreg c _ => hourCount s c.val n
    | .sreg c _ => hourCount s c.val n
    | .acc c _ => hourCount s c.val n

/-- Whether a place holds an uncorrectable error. -/
def isBad (s : State) (m : MemLoc) : Bool :=
  match m with
  | .spad c g => fget (s.core c.val).bad false g
  | .pool cl g => fget (s.pool cl.val).bad false g
  | .beds l => fget s.beds.bad false l
  | .desc c g => fget (s.core c.val).badX false (badKey 0 g)
  | .vreg c g => fget (s.core c.val).badX false (badKey 1 g)
  | .sreg c g => fget (s.core c.val).badX false (badKey 2 g)
  | .acc c g => fget ((s.core c.val).arr (g / 32768)).bad false (g % 32768)

/-- Whether a bed line is the next one of its stack's pass (R277: ascending order). -/
def scrubDue (s : State) (l : Nat) : Bool :=
  let (st, ti, ro) := rowOf s l
  decide (l < 16777216) && fget s.beds.scrubNext 0 st == ti * 131072 + ro

/-- A stack's pass moves to its next line; the pass of the beds ends when every present stack has scrubbed its last line (R279). -/
def scrubStep (s : State) (l : Nat) : State :=
  let (st, ti, ro) := rowOf s l
  let n := ti * 131072 + ro + 1
  let wrap := decide (1048576 ≤ n)
  let ws := if wrap ∧ !s.beds.scrubWrap.contains st then s.beds.scrubWrap ++ [st] else s.beds.scrubWrap
  let last := (List.range 16).all fun k => s.rep.stackMap == some k || ws.contains k
  s.mapBeds fun b => { b with
    scrubNext := fset b.scrubNext 0 st (if wrap then 0 else n)
    scrubMin := if last then (s.now - b.scrubSince) / 60000000000 else b.scrubMin
    scrubSince := if last then s.now else b.scrubSince, scrubLate := if last then false else b.scrubLate
    scrubWrap := if last then [] else ws }

/-- The pass of a scratchpad or pool of `n` granules moves on when its next granule is scrubbed (R278, R279; in ascending order, DESIGN CHOICE, log 77). -/
def Scrub.step (x : Scrub) (g n now : Nat) : Scrub :=
  if g ≠ x.next then x else if x.next + 1 < n then { x with next := x.next + 1 } else { since := now }

/-- Whether the scrub runs: the compute domain is clocked (R279, Table 14-5). -/
def scrubRuns (s : State) : Bool := s.dev.state != .off && s.dev.state != .boot && s.dev.state != .slackwater

/-- Scrubs a line or granule (R277, R278): corrected errors are counted and written back, which changes no content; an uncorrectable one is
treated under R276, a weight line with the piece `refetch` that a source answers. -/
def scrubOne (s : State) (m : MemLoc) (corrected : Nat) (refetch : List Byte) : State :=
  let go := fun (s : State) => if isBad s m then outsideError s m refetch else countCorr s m corrected
  if !scrubRuns s then s
  else match m with
    | .beds l => if scrubDue s l then scrubStep (go s) l else s
    | .spad c g => (go s).mapCore c.val fun k => { k with scrub := k.scrub.step g (spadBytes c.val / 8) s.now }
    | .pool cl g => (go s).mapPool cl.val fun k => { k with scrub := k.scrub.step g (poolBytes / 8) s.now }
    | _ => go s

/-- Whether a pass that began at tick `since` has overrun the scrub period (R279). -/
def scrubOver (s : State) (since : Nat) : Bool := decide (3600000000000 * s.beds.scrubHours < s.now - since)

/-- The bed line that stack `k` scrubs next (R254, R277, R496). -/
def scrubLineOf (s : State) (k : Nat) : Nat :=
  let n := fget s.beds.scrubNext 0 k
  match s.rep.stackMap with
  | none => 16 * n + k
  | some j => 15 * n + if k < j then k else k - 1

/-- The pass of the beds overruns its period: reported once for the pass, with the first line still to be scrubbed (R279, R288). -/
def overBeds (s : State) : State :=
  if s.beds.scrubLate ∨ !scrubOver s s.beds.scrubSince then s
  else
    let k := ((List.range 16).find? fun k => s.rep.stackMap != some k && !s.beds.scrubWrap.contains k).getD 0
    let m := MemLoc.beds (scrubLineOf s k)
    raise (s.mapBeds fun b => { b with scrubLate := true }) 0x080A (memNode s m) (memItems s m)

/-- The pass of a scratchpad overruns its period. -/
def overCore (s : State) (c : CoreId) : State :=
  let x := (s.core c.val).scrub
  if x.late ∨ !scrubOver s x.since then s
  else
    let m := MemLoc.spad c x.next
    raise (s.mapCore c.val fun k => { k with scrub := { x with late := true } }) 0x080A (memNode s m) (memItems s m)

/-- The pass of a pool overruns its period. -/
def overPool (s : State) (cl : Fin 16) : State :=
  let x := (s.pool cl.val).scrub
  if x.late ∨ !scrubOver s x.since then s
  else
    let m := MemLoc.pool cl x.next
    raise (s.mapPool cl.val fun k => { k with scrub := { x with late := true } }) 0x080A (memNode s m) (memItems s m)

/-- Every pass that has overrun its period and has not been reported. -/
def scrubOverrun (s : State) : State := ((overBeds s).each (List.finRange 192) overCore).each (List.finRange 16) overPool

/-! ### Segments (R280-R283) -/

/-- Power mask of a unit. -/
def segMaskOf (s : State) (u : SegUnit) : BitVec 8 :=
  match u with
  | .core c => (s.core c.val).segMask
  | .pool cl => (s.pool cl.val).segMask

/-- Whether the region entries of a bank cover a byte range of a unit. -/
def bankCovers (c : Nat) (m : Mem) (u : SegUnit) (lo hi : Nat) : Bool :=
  (listedRegions m).any fun i =>
    let g := regionAt m i
    let a := 4 * bits g.base (baseBits g.typ - 1) 0
    let n := 4 * regionSpan g
    let here := match regionLoc c g, u with
      | .spad k, .core x => g.typ != 5 && k == x.val
      | .pool k, .pool x => k == x.val
      | _, _ => false
    here && decide (a < hi ∧ lo < a + n)

/-- Whether a segment of a unit is covered by a region of an active bank, or of a VALID inactive bank, of a scheduled core (R281). -/
def segUsed (s : State) (u : SegUnit) (i : Nat) : Bool :=
  let z := (match u with
    | .core c => spadBytes c.val
    | .pool _ => poolBytes) / 8
  (ringCores s).any fun c =>
    let k := s.core c
    bankCovers c k.actBank u (z * i) (z * i + z) || (k.inact == .valid && bankCovers c k.inBank u (z * i) (z * i + z))

/-- Sets the power mask of a unit: a segment powered up is cleared (R283), the power-down of one switched off begins (R282). -/
def segSet (s : State) (u : SegUnit) (v : BitVec 8) : State :=
  let clr := fun (m : Mem) (size : Nat) (old : BitVec 8) =>
    (List.range 8).foldl (fun m i => if v.getLsbD i && !old.getLsbD i then mzero m (size / 8 * i) (size / 8 * (i + 1)) else m) m
  let ok := fun (b : FMap Bool) (size : Nat) (old : BitVec 8) => b.filter fun p => !(v.getLsbD (segOf size (8 * p.1)) && !old.getLsbD (segOf size (8 * p.1)))
  match u with
  | .core c => s.mapCore c.val fun k => { k with
      spad := clr k.spad (spadBytes c.val) k.segMask, bad := ok k.bad (spadBytes c.val) k.segMask, segMask := v
      segDown := (k.segDown ||| k.segMask) &&& ~~~v }
  | .pool cl => s.mapPool cl.val fun k => { k with
      mem := clr k.mem poolBytes k.segMask, bad := ok k.bad poolBytes k.segMask, segMask := v
      segDown := (k.segDown ||| k.segMask) &&& ~~~v }

/-- The power-down of the segments in `m` is complete: writes to them are dropped from now on (R282). -/
def segDownEnd (s : State) (u : SegUnit) (m : BitVec 8) : State :=
  match u with
  | .core c => s.mapCore c.val fun k => { k with segDown := k.segDown &&& ~~~m }
  | .pool cl => s.mapPool cl.val fun k => { k with segDown := k.segDown &&& ~~~m }

/-- Segment count of R282: router writes to segment `i` of a unit that wait for their banks. Every other write lands when it is handed over. -/
def segInFlight (s : State) (u : SegUnit) (i : Nat) : Nat :=
  match u with
  | .core c => (s.fab.narrow.filter fun n => n.core == c.val && segOf (spadBytes c.val) n.addr == i).length
  | .pool _ => 0

/-- First granule of segment `i` of a unit. -/
def segPlace (u : SegUnit) (i : Nat) : MemLoc :=
  match u with
  | .core c => .spad c (i * spadBytes c.val / 64)
  | .pool cl => .pool cl (i * poolBytes / 64)

/-- Object of a unit's mask. -/
def segObj (u : SegUnit) : Nat := stageObj (.segment u 0)

/-- Mask of a pending change of a unit's segments. -/
def segKind (u : SegUnit) (k : StageKind) : Option (BitVec 8) :=
  match k with
  | .segment x v => if x = u then some v else none
  | _ => none

/-- Whether writes in flight keep a pending change of segments from being acknowledged (R282). -/
def segWaits (s : State) (k : StageKind) : Bool :=
  match k with
  | .segment u v => (List.range 8).any fun i => (segMaskOf s u).getLsbD i && !v.getLsbD i && segInFlight s u i != 0
  | _ => false

/-- Segment `i` of a unit acknowledges its pending change, as one switched on (`up`) or off; the change is acknowledged once every segment that it
switches has done so (R282, R283, R437). -/
def segAck (s : State) (u : SegUnit) (i : Nat) (up : Bool) : State :=
  let old := segMaskOf s u
  let mine := fun (g : Staged) => g.sent && !g.acked && match segKind u g.kind with
    | some v => v.getLsbD i == up && old.getLsbD i != up
    | none => false
  s.mapMgm fun m => { m with staged := mapFirst mine (fun g =>
    let a := g.acks ||| 1#8 <<< i
    let all := (segKind u g.kind).any fun v => (old ^^^ v) &&& ~~~a == 0#8
    { g with acks := a, acked := all, ackS := s.sch.sCycle }) m.staged }

/-! ### Partitions (R263, R264, R496) -/

/-- The entry that a write leaves: `PSIZE` clamped, reserved bits 0 (R264). -/
def partClamp (v : BitVec 64) : BitVec 64 :=
  let n := v.toNat
  BitVec.ofNat 64 (bits n 63 60 * 2 ^ 60 + min 8192 (bits n 45 32) * 2 ^ 32 + bits n 12 0)

/-- Whether a partition entry is refused (R264): past the end of the beds, over another, or of a type held already. -/
def partBad (s : State) (i : Nat) (v : BitVec 64) : Bool :=
  let n := v.toNat
  let t := bits n 63 60
  let b := bits n 12 0
  let z := bits n 45 32
  let top := if s.rep.stackMap = none then 8192 else 7680
  t != 0 && z != 0 && (decide (top < b + z) || (List.range 8).any fun j =>
    let p := partOf s j
    j != i && partUsed p && (p.1 == t || (decide (p.2.1 < 2097152 * (b + z)) && decide (2097152 * b < p.2.1 + p.2.2))))

/-! ### Meanings -/

/-- BANK_CONFLICT_SERVED (R257, Table 2-11): a conflict of m requests that must be served holds the S-cycle for m − 1 W-cycles as cause 5. -/
def execBankConflictServed (c : CoreId) (m : Nat) (s : State) : Host.Outcome State Fault Refusal :=
  .next (if s.sch.job ∧ stagesNow s ∧ 2 ≤ m then
    let s := addCause s 5 c.val
    s.mapSch fun k => { k with causes := k.causes.map fun x => if x.no = 5 ∧ x.src = c.val ∧ x.untilW = none then { x with untilW := some (k.wCycle + (m - 1)) } else x }
  else s)

/-- UNCORRECTABLE_READ (R271). -/
def execUncorrectableRead (m : MemLoc) (persistent : Bool) (s : State) : Host.Outcome State Fault Refusal := .next (machineCheck s m persistent)

/-- REPLAY_READY (R275). -/
def execReplayReady (refetch : List Byte) (s : State) : Host.Outcome State Fault Refusal := .next (replayReady s refetch)

/-- UNCORRECTABLE_OUTSIDE (R276). -/
def execUncorrectableOutside (m : MemLoc) (refetch : List Byte) (s : State) : Host.Outcome State Fault Refusal :=
  .next (if s.dev.state = .off then s else outsideDo s (.uncorrectableOutside m refetch) fun s => outsideError s m refetch)

/-- SCRUB_LINE (R277, R278): an abandoned write-back (`raced`) leaves the same content as one that is made. -/
def execScrubLine (m : MemLoc) (corrected : Nat) (race : ScrubRace) (s : State) : Host.Outcome State Fault Refusal :=
  .next (outsideDo s (.scrubLine m corrected race) fun s => scrubOne s m corrected race.refetch)

/-- What a waiting activity outside the schedule does in its cycle (R262, R278). -/
def outsideAct (i : Instr) (s : State) : State :=
  match i with
  | .uncorrectableOutside m d => outsideError s m d
  | .intakeHeader st d => intakeHead s st.val d
  | .intakeData st tag d => intakeBody s st.val tag d
  | .tribPieceWrite d => tribPiece s d
  | .rescanPiece n => rescanOne s n
  | .scrubLine m n x => scrubOne s m n x.refetch
  | _ => s

/-- SCRUB_OVERRUN (R279): each pass that has overrun the period is reported once. -/
def execScrubOverrun (s : State) : Host.Outcome State Fault Refusal :=
  .next (if scrubRuns s then scrubOverrun s else s)

/-- SEGMENT_MASK_WRITE (R281): at once outside RUNNING and DRAINING, else staged. -/
def execSegmentMaskWrite (p : Path) (u : SegUnit) (mask : BitVec 8) (s : State) : Host.Outcome State Fault Refusal :=
  let off := (List.range 8).filter fun i => (segMaskOf s u).getLsbD i && !mask.getLsbD i
  .next (odReq s p (segObj u) (.segmentMaskWrite p u mask)
    (odCmd s p (segObj u) (!(stagesNow s && s.inp.replaying))
    (firstAbort [(!(off.any fun i => segUsed s u i), abINUSE), (!stagesNow s || stageRoom s (.segment u mask), abSTAGEFULL)]) fun s =>
      if stagesNow s then stage s (.segment u mask) else segSet s u mask))

/-- PARTITION_WRITE (R264), in STANDBY. -/
def execPartitionWrite (p : Path) (i : Fin 8) (v : BitVec 64) (s : State) : Host.Outcome State Fault Refusal :=
  let w := partClamp v
  .next (odReq s p (0x300000 + i.val + 1) (.partitionWrite p i v)
    (odCmd s p (0x300000 + i.val + 1) (s.dev.state == .standby)
    (firstAbort [(decide (bits v.toNat 63 60 < 7), abBADVALUE), (!partBad s i.val w, abINCONS)]) fun s =>
      let s := s.mapBeds fun b => { b with parts := fset b.parts 0#64 i.val w }
      s.cond (decide (8192 < bits v.toNat 45 32)) fun s => clamped s (0x300000 + i.val + 1)))

/-- Cluster node at which a control-network node is attached (Table 9-3), and the attachment's hop. -/
def ctlHome (n : Nat) : Nat × Nat :=
  if n < 0x10 then (n, 0)
  else if 0x20 ≤ n ∧ n < 0x30 then (n - 0x20, 1)
  else (match n with
    | 0x11 => 3
    | 0x12 => 12
    | 0x13 => 15
    | 0x14 => 5
    | 0x15 => 10
    | _ => 0, 1)

/-- W-cycles that a message takes at least: 4 to enter, 3 for each hop along x, then y (R298), attachments included, and 4 to leave; to node 0x3F until
the last cluster node has it (DEDUCED, log 77). -/
def ctlLeast (src dst : Nat) : Nat :=
  let (a, x) := ctlHome src
  if dst = 0x3F then 8 + 3 * (x + (List.range 16).foldl (fun m b => max m (hops a b)) 0)
  else
    let (b, y) := ctlHome dst
    8 + 3 * (x + hops a b + y)

/-- Whether the network takes a message: at most 8 payload flits (R299); on VC 0, 1 or 2 of them, and at most one message of a node in 32 W-cycles of
a job, by the W-cycle of its injection (R300). -/
def ctlTaken (s : State) (m : CtlMsg) (t : Nat) : Bool :=
  if m.vc.val = 0 then (m.flits.length == 1 || m.flits.length == 2) && decide (s.sch.job = false ∨ fget s.sch.ctlAt 0 m.src.val = 0 ∨ fget s.sch.ctlAt 0 m.src.val + 31 ≤ s.sch.wCycle - t)
  else decide (m.flits.length ≤ 8)

/-- CONTROL_MESSAGE (R299, R300): a VC 0 message later than 200 W-cycles is still delivered, with event 0x0904. What the operation field asks for is the
receiving unit's, and each such effect has a command of its own. -/
def execControlMessage (m : CtlMsg) (s : State) : Host.Outcome State Fault Refusal :=
  let t := max m.wcycles (ctlLeast m.src.val m.dst.val)
  .next (if m.vc.val = 0 ∧ ctlTaken s m t then
    let s := s.mapSch fun k => { k with ctlMax := max k.ctlMax (min t 65535), ctlAt := fset k.ctlAt 0 m.src.val (k.wCycle - t + 1) }
    if 200 < t then raise (s.mapSch fun k => { k with ctlLate := sat32 k.ctlLate }) 0x0904 m.dst.val [m.src.val, m.dst.val] else s
  else s)

end Sys2Proof.Machine
end

