-- ==== Sys2Proof/Machine/Power.lean ====
section
/-! DEFINITION. Clocks, monitors and the energy ledger (chapter 14): the meanings of REFERENCE_*, HOLDOVER_LONG, MONITOR_SAMPLE, DROOP_CLEAR,
FREQUENCY_EVAL_IDLE, THERMAL_TRIP, PG_WARN_EDGE, METER_CALIBRATION, IDLE_FEED and CROSSING_OUT_OF_BOUND. -/

namespace Sys2Proof.Machine

/-! ### Allowances and the frequency (R460-R467) -/

/-- Whether the main die's always-running units act: every state except OFF. -/
def powered (s : State) : Bool := s.dev.state != .off

/-- The smallest allowance of the monitors in MHz; a monitor that has not measured yet bounds nothing (log 21). -/
def minAllow (s : State) : Nat :=
  (List.range 64).foldl (fun a m => if (s.mon m).valid then min a (25 * (s.mon m).allow) else a) 1800

/-- Whether the channel clock is held at 900 MHz (R466, R467). -/
def heldLow (s : State) : Bool := s.pwr.tripped || s.pwr.lowHeld

/-- The frequency F of R462, within the channel clock's points. -/
def freqF (s : State) : Nat := if heldLow s then 900 else max 900 (min s.pwr.target (minAllow s))

/-- The smallest allowance at any moment of the last raise delay (R462). -/
def histMin (s : State) : Nat := s.pwr.minHist.foldl (fun a p => min a p.2) (minAllow s)

/-- Drops the entries that another one replaced before the last raise delay. -/
def histTrim (from_ : Nat) : List (Nat × Nat) → List (Nat × Nat)
  | a :: b :: r => if b.1 ≤ from_ then histTrim from_ (b :: r) else a :: b :: r
  | l => l

/-- Notes the smallest allowance after a measurement. -/
def histNote (s : State) : State :=
  s.mapPwr fun p => { p with minHist := histTrim (s.now - 1000 * p.raiseUs) (p.minHist ++ [(s.now, minAllow s)]) }

/-- The change of frequency that R462 asks for now, if any. -/
def freqNext (s : State) : Option Nat :=
  let f := freqF s
  if f < s.pwr.freq then some f
  else
    let p := min f (histMin s / 25 * 25)
    if s.pwr.freq < p then some p else none

/-- The channel clock is `f` MHz from now on; the part of a ns that fabric time carries is kept, in its units of 1/f ns (R9). -/
def clockAt (s : State) (f : Nat) : State :=
  { s with fab := { s.fab with frac := s.fab.frac * f / max 1 s.pwr.freq }, pwr := { s.pwr with freq := f } }

/-- The channel clock runs at a new frequency (R463): event 0x0E04 names old, new and whether an allowance set it; the crossings are realigned
(R454). -/
def freqSet (s : State) (f : Nat) : State :=
  let src := if f = s.pwr.target then 0 else 1
  let s := raise s 0x0E04 0x12 [s.pwr.freq, f, src]
  (clockAt s f).mapPwr fun p => { p with newFreq := none, changes := sat32 p.changes, crossBad := 0#4 }

/-- The channel clock goes to 900 MHz at once (R466, R467). -/
def freqDrop (s : State) : State := if s.pwr.freq = 900 then s else freqSet s 900

/-- Whether every monitor is at least 10 °C below the critical temperature (R466). -/
def allCool (s : State) : Bool := (List.range 64).all fun m => !(s.mon m).valid || decide ((s.mon m).temp + 10 ≤ s.pwr.crit + 40)

/-- The thermal trip (R466): event 0x0E07, a job is frozen, the clock goes to 900 MHz. -/
def thermalTrip (s : State) (items : List Nat) : State :=
  let s := fatal s 0x0E07 0x12 items
  freqDrop (s.mapPwr fun p => { p with tripped := true })

/-- The trip ends once every monitor is cool and the input released (R466); TEMP_CRIT_N follows the monitors alone (R569). -/
def thermalRelease (s : State) : State :=
  let c := allCool s
  let s := { s with pins := { s.pins with tempCrit := s.pins.tempCrit && !c } }
  if c ∧ !s.pins.thermIn then s.mapPwr fun p => { p with tripped := false } else s

/-- The smallest allowance falls below 900 MHz or rises again (R467). -/
def lowCheck (s : State) : State :=
  if minAllow s < 900 then
    if s.pwr.lowHeld then s else freqDrop ((fatal s 0x0E08 0x12 [minAllow s]).mapPwr fun p => { p with lowHeld := true })
  else s.mapPwr fun p => { p with lowHeld := false }

/-! ### Droop (R464) -/

/-- Whether the clock cause 10 stops runs: a job exists. -/
def droopCause (s : State) (m : Nat) : State := if stagesNow s && s.sch.job then addCause s 10 m else s

/-- A trip of monitor `m`: event 0x0E05, cause 10, and a lower allowance for 10 ms (R464). -/
def droopTrip (s : State) (m : Nat) : State :=
  droopCause (raise (s.mapMon m fun x => { x with trip := true, tripAt := s.now + 1 }) 0x0E05 0x12 [m]) m

/-- Monitor `m` clears (R464): cause 10 ends 4 W-cycles later, and 64 W-cycles after its entry at the earliest (Table 2-11). -/
def droopClear (s : State) (m : Nat) : State :=
  let s := s.mapMon m fun x => { x with trip := false }
  s.mapSch fun k => { k with causes := k.causes.map fun c =>
    if c.no = 10 ∧ c.src = m ∧ c.untilW = none then { c with untilW := some (max (k.wCycle + 4) (c.sinceW + 64)) } else c }

/-- Allowance in 25 MHz units from the margin of the replica paths in MHz (R460): lowered for each °C above the throttle temperature (R465) and
for 10 ms after a trip (R464). -/
def allowOf (s : State) (m : Nat) (tempC : Int) (margin : Nat) : Nat :=
  let x := s.mon m
  let hot := (tempC - s.pwr.throttle).toNat
  let trip := if 0 < x.tripAt ∧ s.now < x.tripAt - 1 + 10000000 then 1 else 0
  min 127 (margin / 25) - hot - trip

/-- One measurement of a monitor (R460-R467). -/
def monSample (s : State) (m mv : Nat) (tempC : Int) (margin : Nat) : State :=
  let old := s.mon m
  let s := if !old.trip ∧ mv < s.pwr.tripMv then droopTrip s m
    else if old.trip ∧ s.pwr.tripMv + s.pwr.hystMv < mv then droopClear s m else s
  let hot := decide ((s.pwr.throttle : Int) ≤ tempC)
  let s := s.mapMon m fun x => { x with
    vloc := min mv 1023, temp := min 255 (tempC + 40).toNat, hot := hot, allow := allowOf s m tempC margin, valid := true }
  let s := s.cond (hot && !old.hot) fun s => raise s 0x0E06 0x12 [m]
  let crit := decide ((s.pwr.crit : Int) ≤ tempC)
  let s := s.cond crit fun s => { s with pins := { s.pins with tempCrit := true } }
  let s := s.cond (crit && !s.pwr.tripped) fun s => thermalTrip s [m]
  histNote (lowCheck (thermalRelease s))

/-! ### The ledger (R469-R475) -/

/-- The charge of a step (R471): estimate `e` at 750 mV, length `l`. -/
def charge (s : State) (e l : Nat) : Nat :=
  cdiv (e * s.pwr.railMv * s.pwr.railMv) 562500 + cdiv (s.pwr.stat * l) (max 1 s.pwr.freq)

/-- Whether the ledger admits a step of a charge (R472). -/
def admits (s : State) (ch : Nat) : Bool := decide ((min ch s.pwr.cap : Int) ≤ s.pwr.credit)

/-- The update of a µs boundary (R470): the limit in effect is added, the metered energy taken; a new limit takes effect from here (R468). -/
def ledgerAdd (s : State) (m mv : Nat) : State :=
  s.mapPwr fun p =>
    let lim := if p.warnOn then p.warnW else p.sust
    let c : Int := p.credit + lim - m
    { p with
      credit := max (-(p.cap : Int)) (min p.cap c), stepE := p.stepE + m, totE := p.totE + m, idleE := p.idleE + m, sleepE := p.sleepE + m
      lastMs := (p.lastMs ++ [m]).drop (p.lastMs.length + 1 - 1000), railMv := mv, warnOn := s.pins.pgWarn }

/-! ### Meanings -/

/-- REFERENCE_LOST (R457): holdover; no loss is reported before the first lock (R459). -/
def execReferenceLost (s : State) : Host.Outcome State Fault Refusal :=
  .next (if powered s ∧ s.pwr.refState = 0 then
    raise (s.mapPwr fun p => { p with refState := 1, holdN := sat32 p.holdN, holdAt := s.now, holdLong := false }) 0x0E01 0x12 []
  else s)

/-- HOLDOVER_LONG (R458): once, after 1 s in holdover. -/
def execHoldoverLong (s : State) : Host.Outcome State Fault Refusal :=
  .next (if powered s ∧ s.pwr.refState = 1 ∧ !s.pwr.holdLong ∧ s.pwr.holdAt + 1000000000 ≤ s.now then raise (s.mapPwr fun p => { p with holdLong := true }) 0x0E03 0x12 [] else s)

/-- REFERENCE_RESTORED (R459). -/
def execReferenceRestored (s : State) : Host.Outcome State Fault Refusal :=
  .next (if !powered s then s
    else if s.pwr.refState = 1 then
      raise (s.mapPwr fun p => { p with refState := 0, holdMs := (s.now - p.holdAt) / 1000000, slewPpm := true }) 0x0E02 0x12 []
    else s.mapPwr fun p => { p with refState := 0 })

/-- MONITOR_SAMPLE (R460); a chip has 64 monitors. -/
def execMonitorSample (m mv : Nat) (tempC : Int) (margin : Nat) (s : State) : Host.Outcome State Fault Refusal :=
  if m < 64 then .next (if powered s then monSample s m mv tempC margin else s) else .fault (.noSuchUnit m)

/-- DROOP_CLEAR (R464). -/
def execDroopClear (m : Nat) (s : State) : Host.Outcome State Fault Refusal :=
  if m < 64 then .next (if (s.mon m).trip then droopClear s m else s) else .fault (.noSuchUnit m)

/-- FREQUENCY_EVAL_IDLE (R463): in STANDBY, READY and HALTED the change is made at once. -/
def execFrequencyEvalIdle (s : State) : Host.Outcome State Fault Refusal :=
  .next (if s.dev.state = .standby ∨ s.dev.state = .ready ∨ s.dev.state = .halted then
    (match freqNext s with
      | some f => freqSet s f
      | none => s) else s)

/-- THERMAL_TRIP (R466): an edge of THERMTRIP_N; its assertion pends input 6 of group 13 (R443). -/
def execThermalTrip (asserted : Bool) (s : State) : Host.Outcome State Fault Refusal :=
  let old := s.pins.thermIn
  let s := { s with pins := { s.pins with thermIn := asserted } }
  .next (if !powered s then s
    else if asserted then
      let s := s.cond (!old) fun s => pendLine s 13 6
      if s.pwr.tripped then s else thermalTrip s [64]
    else thermalRelease s)

/-- PG_WARN_EDGE (R468): each edge raises event 0x0E0A and pends input 7 of group 13. -/
def execPgWarnEdge (asserted : Bool) (s : State) : Host.Outcome State Fault Refusal :=
  let old := s.pins.pgWarn
  let s := { s with pins := { s.pins with pgWarn := asserted } }
  .next (if powered s ∧ old ≠ asserted then pendLine (raise s 0x0E0A 0x12 [if asserted then 1 else 0]) 13 7 else s)

/-- METER_CALIBRATION (R469): a failure keeps the previous calibration. -/
def execMeterCalibration (ok : Bool) (s : State) : Host.Outcome State Fault Refusal :=
  .next (if powered s then
    let s := s.mapPwr fun p => { p with calOk := ok }
    if ok then s else raise s 0x0E0C 0x12 [] else s)

/-- IDLE_FEED (R475): outside RUNNING and DRAINING the ledger sends every 1 ms the energy metered since the last record. -/
def execIdleFeed (s : State) : Host.Outcome State Fault Refusal :=
  .next (if powered s ∧ !stagesNow s ∧ s.pwr.idleAt + 1000000 ≤ s.now then
    (feedPut s (.idle s.pwr.idleE)).mapPwr fun p => { p with idleE := 0, idleAt := s.now } else s)

/-- CROSSING_OUT_OF_BOUND (R454). -/
def execCrossingOutOfBound (x : Fin 4) (s : State) : Host.Outcome State Fault Refusal :=
  .next (if powered s then raise (s.mapPwr fun p => { p with crossBad := p.crossBad ||| (1#4 <<< x.val) }) 0x0E0D 0x12 [x.val] else s)

end Sys2Proof.Machine
end

