-- ==== Sys2Proof/Machine/Load.lean ====
section
/-! DEFINITION. Images: loading, the acceptance procedure, swap staging, the device commands of Table 13-10, the start of a job, the Flush, Slackwater
and the descriptor banks (R56-R65, R68, R103-R107, R284-R286, R369-R370, R433-R435, R473, R477-R478); the meanings of LOAD, IMAGE_WRITE,
PLACEMENT_WRITE, ACCEPT, UNLOAD, RUN, JOB_START, DRAIN_CMD, KILL*, FLUSH_*, SLEEP*, WAKE*, BANK_* and SWAP_STAGE. -/

namespace Sys2Proof.Machine

/-! ### The image (R56-R60, R578) -/

/-- The image as the load service reads it: bytes 0 to `SIZE` - 1 (R578). -/
def imgView (m : Mem) : Mem := m.filter fun p => decide (p.1 < mnat m 16 8)

/-- Offsets of the structures of an image (Table 2-14). -/
def imgSize (m : Mem) : Nat := mnat m 16 8
def imgDir (m : Mem) : Nat := mnat m 24 8
def imgStepOff (m : Mem) : Nat := mnat m 32 8
def imgStepCount (m : Mem) : Nat := mnat m 40 4
def imgRelocCount (m : Mem) : Nat := mnat m 44 4
def imgRelocOff (m : Mem) : Nat := mnat m 48 8
def imgManOff (m : Mem) : Nat := mnat m 56 8
def imgMapOff (m : Mem) : Nat := mnat m 64 8

/-- Cores that the core map at a byte offset marks (R56). -/
def mapCores (m : Mem) (o : Nat) : List Nat := let v := mnat m o 24; indices 192 fun i => bit v i

/-- The cores of an image. -/
def imgCores (m : Mem) : List Nat := mapCores m (imgMapOff m)

/-- The structures of an image with their lengths (R578); the manifest's includes its 29,792 signature bytes whatever it states. -/
def imgSpans (m : Mem) : List (Nat × Nat) :=
  [(imgMapOff m, 24), (imgDir m, 32 * (imgCores m).length), (imgStepOff m, 656 * imgStepCount m), (imgRelocOff m, 16 * imgRelocCount m),
   (imgManOff m, mnat m (imgManOff m + 32) 8 + max 29792 (mnat m (imgManOff m + 40) 4))]

/-- Whether two byte ranges share a byte. -/
def spansMeet (a b : Nat × Nat) : Bool := decide (0 < a.2 ∧ 0 < b.2 ∧ a.1 < b.1 + b.2 ∧ b.1 < a.1 + a.2)

/-- Whether any two ranges of a list share a byte. -/
def spansClash : List (Nat × Nat) → Bool
  | [] => false
  | a :: r => (r.any fun b => spansMeet a b) || spansClash r

/-- `COUNT_k` of the placement block (Table 2-21). -/
def placeCount (p : Mem) (k : Nat) : Nat := if 1 ≤ k ∧ k ≤ 7 then mnat p (8 + 4 * (k - 1)) 4 else 0

/-- Length of the placement block (R60). -/
def placeLen (p : Mem) : Nat := 64 + 8 * sumN ([1, 2, 3, 4, 5, 6, 7].map (placeCount p))

/-- The value of a symbol (R60). -/
def placeValue (p : Mem) (k sy : Nat) : Nat :=
  mnat p (64 + 8 * (sumN (((List.range (k - 1)).map fun j => placeCount p (j + 1))) + sy)) 8

/-- `layout_ok` (Table 2-22): a structure of length 0 lies anywhere. -/
def layoutOk (s : State) (m : Mem) (len : Nat) : Bool :=
  let z := imgSize m
  decide (1 ≤ imgStepCount m ∧ imgStepCount m ≤ 65536) && (mnat m 72 1 == 15 || mnat m 72 1 == 16) && decide (128 ≤ z ∧ z ≤ len) &&
  ((imgSpans m).all fun p => p.2 == 0 || decide (128 ≤ p.1 ∧ p.1 + p.2 ≤ z)) && !spansClash (imgSpans m) &&
  mnat s.dev.place 0 4 == 0x504C4342 && mnat s.dev.place 4 2 == 1 && covered s.dev.placeW 0 (placeLen s.dev.place)

/-- Latency models a stepping implements (R39). -/
def implModels (s : State) : List Nat := if s.dev.b0 then [0x102, 0x101] else [0x101]

/-- One field of the core-directory entry `i` (Table 2-18). -/
def dirField (m : Mem) (i o n : Nat) : Nat := mnat m (imgDir m + 32 * i + o) n

/-- Whether bytes `o` to `o + n - 1` of an image are zero. -/
def zeroIn (m : Mem) (o n : Nat) : Bool := mnat m o n == 0

/-- `reserved_bits_set` (Table 2-22), over everything but the manifest: true when every reserved bit is 0. -/
def reservedOk (s : State) (m : Mem) : Bool :=
  mnat m 12 4 / 4 == 0 && zeroIn m 73 55 && zeroIn s.dev.place 6 2 && zeroIn s.dev.place 36 28 &&
  ((List.range (imgCores m).length).all fun i =>
    dirField m i 2 2 == 0 && dirField m i 24 8 == 0 &&
    (List.range (min 256 (dirField m i 6 2))).all fun j => bits (mnat m (dirField m i 16 8 + 16 * j) 16) 120 98 == 0) &&
  ((List.range (imgStepCount m)).all fun i => zeroIn m (imgStepOff m + 656 * i + 8) 8) &&
  (List.range (imgRelocCount m)).all fun i => bits (mnat m (imgRelocOff m + 16 * i) 16) 75 64 == 0

/-- `core_directory_ok` (R57). -/
def dirOk (m : Mem) : Bool :=
  (List.range (imgCores m).length).all fun i =>
    dirField m i 0 1 * 12 + dirField m i 1 1 == (imgCores m).getD i 0 && decide (dirField m i 1 1 < 12) &&
    decide (1 ≤ dirField m i 4 2 ∧ dirField m i 4 2 ≤ 2048 ∧ 1 ≤ dirField m i 6 2 ∧ dirField m i 6 2 ≤ 256) &&
    decide (dirField m i 8 8 + 64 * dirField m i 4 2 ≤ imgSize m ∧ dirField m i 16 8 + 16 * dirField m i 6 2 ≤ imgSize m)

/-! ### The manifest (R350, R351) -/

/-- The manifest of an image. -/
def imgMan (m : Mem) : Manifest :=
  let o := imgManOff m
  let ns := mnat m (o + 24) 4
  { shardId := mnat m (o + 8) 8, modelId := mnat m (o + 16) 8
    segs := (List.range ns).map fun i =>
      let a := o + 64 + 16 * i
      { ptype := mnat m a 1, off := mnat m (a + 4) 4, pieces := mnat m (a + 8) 4, didx := mnat m (a + 12) 4 }
    digests := (List.range (mnat m (o + 28) 4)).map fun k => mnat m (o + 64 + 16 * ns + 32 * k) 32
    body := mread m o (mnat m (o + 32) 8), sig := mread m (o + mnat m (o + 32) 8) 29792 }

/-- The manifest checks that give `BAD_FORMAT` (R351), its reserved bytes among them. A segment of another partition type or of no piece is of
no form that Table 11-3 has. -/
def manOk (m : Mem) : Bool :=
  let o := imgManOff m
  let ns := mnat m (o + 24) 4
  let np := mnat m (o + 28) 4
  let mf := imgMan m
  let so := 64 + 16 * ns + 32 * np
  mnat m o 4 == 0x53485244 && mnat m (o + 4) 2 == 1 && zeroIn m (o + 6) 2 && zeroIn m (o + 44) 20 && decide (1 ≤ ns ∧ ns ≤ 256) &&
  decide (1 ≤ np ∧ np ≤ 262144) && mnat m (o + 32) 8 == so && mnat m (o + 40) 4 == 29792 && decide (o + so + 29792 ≤ imgSize m) &&
  mf.shardId == leNat ((sha3 (mread m (o + 64) (16 * ns + 32 * np))).take 8) &&
  ((List.range ns).all fun i => zeroIn m (o + 64 + 16 * i + 1) 3) &&
  (mf.segs.all fun g => (g.ptype == 1 || g.ptype == 2) && decide (1 ≤ g.pieces ∧ g.didx + g.pieces ≤ np)) &&
  [1, 2].all (fun t => !spansClash ((mf.segs.filter fun g => g.ptype == t).map fun g => (g.off, g.pieces))) &&
  !spansClash (mf.segs.map fun g => (g.didx, g.pieces)) && sumN (mf.segs.map (·.pieces)) == np

/-- Whether every segment lies inside its partition; an absent partition has size 0 (R351). -/
def manInside (s : State) (mf : Manifest) : Bool :=
  mf.segs.all fun g => decide (pieceBytes * (g.off + g.pieces) ≤ ((partFind s g.ptype).getD (0, 0)).2)

/-! ### Steps and relocations (R58, R59, R61, R297) -/

/-- Step-table entry `i` (Table 2-19). -/
def imgStep (m : Mem) (i : Nat) : StepEntry :=
  let o := imgStepOff m + 656 * i
  { len := mnat m o 4, energy := mnat m (o + 4) 4
    bedRead := (List.range 16).map fun k => mnat m (o + 16 + 8 * k) 8
    bedWrite := (List.range 16).map fun k => mnat m (o + 144 + 8 * k) 8
    bulk := (List.range 96).map fun l => mnat m (o + 272 + 4 * l) 4 }

/-- Units a directed port can carry in a step: port 6c + d, d = +x, -x, +y, -y, local out, local in; 0 for a port absent at the mesh's edge
(R290, R297). -/
def portCap (len l : Nat) : Nat :=
  let x := l / 6 % 4
  let y := l / 6 / 4
  match l % 6 with
  | 0 => if x < 3 then 8 * (len - 12) else 0
  | 1 => if 0 < x then 8 * (len - 12) else 0
  | 2 => if y < 3 then 8 * (len - 12) else 0
  | 3 => if 0 < y then 8 * (len - 12) else 0
  | _ => 16 * (len - 12)

/-- The checks of one step-table entry, in the order of R61: 0 if they pass. -/
def stepCheck (s : State) (ns : Nat) (e : StepEntry) : Nat :=
  firstAbort [
    (decide (64 ≤ e.len ∧ e.len ≤ 16777216), 6),
    ((List.range 16).all (fun k =>
      let r := e.bedRead.getD k 0
      let w := e.bedWrite.getD k 0
      !(decide (ns ≤ k) && (r != 0 || w != 0)) && decide (r ≤ 1024 * (e.len - 12)) && decide (w ≤ 512 * (e.len - 12))), 7),
    ((List.range 96).all (fun l => decide (e.bulk.getD l 0 ≤ portCap e.len l)), 8),
    (decide (e.energy ≤ s.pwr.cap), 9)]

/-- The first result other than 0. -/
def firstCode : List Nat → Nat
  | [] => 0
  | r :: l => if r = 0 then firstCode l else r

/-- The sum that a relocation record stores: placement value plus signed `ADDEND` (R59). -/
def relocSum (p : Mem) (r : Nat) : Int := (placeValue p (bits r 95 88) (bits r 63 32) : Int) + (BitVec.ofNat 32 (bits r 31 0)).toInt

/-- The checks of one relocation record, in the order of R61. -/
def relocCheck (s : State) (m : Mem) (r : Nat) : Nat :=
  let o := bits r 127 96
  let w := bits r 87 82
  firstAbort [
    (o % 8 == 0 && decide (o + 8 ≤ imgSize m), 10),
    (!(((0, 128) :: imgSpans m).any fun p => spansMeet (o, 8) p), 10),
    (w != 0 && decide (bits r 81 76 + w ≤ 64), 10),
    (decide (bits r 63 32 < placeCount s.dev.place (bits r 95 88)), 11),
    (decide (0 ≤ relocSum s.dev.place r ∧ relocSum s.dev.place r < 2 ^ w), 12)]

/-- Applies one relocation record (R59). -/
def relocApply (p m : Mem) (r : Nat) : Mem :=
  let o := bits r 127 96
  let w := bits r 87 82
  let sh := bits r 81 76
  let v := mnat m o 8
  mwrite m o (leBytes 8 (v - bits v (sh + w - 1) sh * 2 ^ sh + (relocSum p r).toNat * 2 ^ sh))

/-- Relocation records. -/
def imgRelocs (m : Mem) : List Nat := (List.range (imgRelocCount m)).map fun i => mnat m (imgRelocOff m + 16 * i) 16

/-- The image after relocation. -/
def imgPatched (s : State) (m : Mem) : Mem := (imgRelocs m).foldl (relocApply s.dev.place) m

/-- The bank that acceptance writes for the `i`-th core: ring, then region table, every other byte 0 (R57, R66). -/
def imgBank (m : Mem) (i : Nat) : Mem :=
  mwrite (mwrite [] 0 (mread m (dirField m i 8 8) (64 * dirField m i 4 2))) 131072 (mread m (dirField m i 16 8) (16 * dirField m i 6 2))

/-- The receive-queue checks of R328 beside the windows: an enabled entry names a core of the map, its base and size fit. -/
def queuesOk (s : State) (cores : List Nat) : Bool :=
  (List.range 1008).all fun q =>
    let (c, b, h) := queueEntry s q
    h == 0 || ((match c with
      | some c => cores.contains c
      | none => false) && b % 16 == 0 && decide (h ≤ 2048))

/-- `inside_partition_or_memory` and `next_inside_rings` (Table 2-22), after relocation. -/
def imgInside (s : State) (m : Mem) : Bool :=
  queuesOk s (imgCores m) &&
  (List.range (imgCores m).length).all fun i =>
    let b := imgBank m i
    bankSealOk s ((imgCores m).getD i 0) b && (List.range (dirField m i 4 2)).all fun j => decide (dNext (descAt b j) < dirField m i 4 2)

/-- The running image, for the duties of Table 11-7. -/
def runImg (s : State) : Image := s.dev.img.getD {}

/-- The acceptance procedure of R61 on an image written up to `len` - 1: the first result that applies. `swap` adds the checked duties of
Table 11-7 (R369). The checks of R351 that give `BAD_FORMAT` stand with the reserved bits (log 22). DESIGN CHOICE (log 74): the test of the manifest's
segments that gives `REGION_OUTSIDE` stands last, with the region entries, which R61 and R351 leave open. -/
def acceptCheck (s : State) (m : Mem) (len : Nat) (swap : Bool) : Nat :=
  if !(mnat m 0 4 == 0x4F435149 && mnat m 4 2 == 2) then 1
  else if !layoutOk s m len then 1
  else if mnat m 6 2 ≠ 0xD009 then 2
  else if !(implModels s).contains (mnat m 8 2) ∨ (swap ∧ mnat m 8 2 ≠ s.dev.lat) then 3
  else if !((imgCores m).all (corePresent s)) then 4
  else if mnat m 72 1 ≠ presentStacks s then 13
  else if !(reservedOk s m && manOk m && dirOk m) then 1
  else if swap ∧ !(imgCores m == (runImg s).cores && imgStepCount m == (runImg s).steps.length && bit (mnat m 12 4) 0 == (runImg s).entry &&
      bit (mnat m 12 4) 1 == (runImg s).commit) then 1
  else if swap ∧ imgRelocCount m ≠ 0 then 10
  else
    let r := firstCode ((List.range (imgStepCount m)).map fun i => stepCheck s (mnat m 72 1) (imgStep m i))
    if r ≠ 0 then r else
    let r := firstCode ((imgRelocs m).map (relocCheck s m))
    if r ≠ 0 then r else
    if imgInside s (imgPatched s m) && manInside s (imgMan m) then 0 else 5

/-- What acceptance keeps of an image (R57, R58, R62). -/
def imgKeep (s : State) (m : Mem) : Image :=
  { lat := mnat m 8 2, role := mnat m 10 2, entry := bit (mnat m 12 4) 0, commit := bit (mnat m 12 4) 1, nStacks := mnat m 72 1
    steps := (List.range (imgStepCount m)).map (imgStep m), cores := imgCores m, man := imgMan m
    dig := BitVec.ofNat 512 (leNat (shake64 (mread m 0 (imgSize m))))
    plDig := BitVec.ofNat 512 (leNat (shake64 (mread s.dev.place 0 (placeLen s.dev.place)))) }

/-- The bytes that the placement measurement covers, in the order of Table 16-1 (R509). -/
def placeMeasured (s : State) : List Byte :=
  mread s.dev.place 0 (placeLen s.dev.place) ++ mread s.fab.queues 0 8192 ++ mread s.fab.fan 0 4096 ++ mread s.fab.red 0 2048 ++
  ((List.range 8).map fun i => leBytes 8 (fget s.beds.parts 0#64 i).toNat).flatten ++ leBytes 4 s.beds.kvS ++ leBytes 4 s.beds.kvQ ++
  leBytes 4 s.beds.kvU ++
  ([(1, 1), (2, 1), (3, 1), (4, 1), (5, 2), (6, 1), (7, 2), (8, 2), (9, 2), (10, 4), (11, 2), (12, 2), (13, 2)].map fun p =>
    leBytes p.2 (conf s p.1)).flatten

/-- The pads of a model on a stepping: B0 pads model 0x0101 (Table 2-9, R41); keys in the order of R40. -/
def padsFor (b0 : Bool) (lat : Nat) : FMap (BitVec 32) :=
  if b0 && lat == 0x101 then
    [(1, 0x00010202#32), (2, 0x00020100#32), (3, 2#32), (4, 3#32), (5, 1#32), (6, 1#32), (8, 4#32), (10, 2#32)]
  else []

/-- Writes one core's ring and region table at acceptance: bank A active, bank B EMPTY (R57, R68). -/
def coreAccept (m : Mem) (i : Nat) (k : Core) : Core :=
  { k with
    bankA := imgBank m i, activeB := false, inact := .empty, byOd := false, byOdAct := false, armed := false, ring := true, idx := 0
    badX := k.badX.filter fun p => decide (badKey 1 0 ≤ p.1) }

/-- Zeroes the descriptor regions of a core (R62, R434). -/
def coreUnload (k : Core) : Core :=
  { k with
    bankA := [], bankB := [], activeB := false, inact := .empty, byOd := false, byOdAct := false, armed := false, ring := false, idx := 0
    badX := k.badX.filter fun p => decide (badKey 1 0 ≤ p.1) }

/-- Image, placement block and descriptor regions are zeroed (R62, R434, R286). -/
def imageDrop (s : State) : State :=
  let s := { s with cores := s.cores.map fun (p : Nat × Core) => (p.1, coreUnload p.2) }
  s.mapDev fun d => { d with image := [], imgLen := 0, place := [], placeW := [], img := none }

/-- An accepted image (R61, R62): signer and manifest recorded, image and placement measured, the model set, rings written, the manifest
installed and the listed pieces hashed in place (R352), the receive halves zeroed (R325). -/
def imageAccept (s : State) (m : Mem) : State :=
  let pm := imgPatched s m
  let im := imgKeep s m
  let s := measureManifest s im.man
  let s := measure s 0x30 3 (leBytes 64 im.dig.toNat)
  let s := measure s 0x40 4 (shake64 (placeMeasured s))
  let s := s.mapDev fun d => { d with lat := im.lat, pads := padsFor d.b0 im.lat, img := some im, loadRes := 0 }
  let s := { s with cores := s.cores.map fun (p : Nat × Core) => (p.1, { p.2 with ring := false }) }
  let s := s.each (List.range im.cores.length) fun s i => s.mapCore (im.cores.getD i 0) (coreAccept pm i)
  let s := s.mapFab fun f => { f with halves := [], taken := [], takes := [], groupMax := 0 }
  let s := hashInPlace (manInstall s im.man [])
  setState (raise s 0x0204 0x10 [im.lat, im.role]) .ready

/-- A refused image (R62). -/
def imageRefuse (s : State) (r : Nat) : State :=
  let s := (imageDrop s).mapDev fun d => { d with loadRes := r }
  toStandby (raise s 0x0203 0x10 [r])

/-! ### Swap staging (R369, R370) -/

/-- Pieces of the new manifest marked KEEP (R370). -/
def swapKeeps (s : State) (mf : Manifest) : List Nat :=
  ((manPieces s mf).filter fun p => pieceState s p.1 == .valid && fget s.wts.digests (2 ^ 256) p.1 == p.2).map fun p => p.1

/-- Writes and seals one core's ring into its inactive bank (R369, R103). -/
def coreSwap (m : Mem) (i : Nat) (k : Core) : Core :=
  { (k.mapIn fun _ => imgBank m i) with inact := .valid, byOd := false, badX := clearBadX k.badX 0 (if k.activeB then 0 else bankBytes) bankBytes }

/-- The swap image is staged, or refused with its result; the record of a refusal names the step (R65, R369-R371). -/
def swapStage (s : State) : State :=
  let m := imgView s.wts.swImg
  let r := acceptCheck s m s.wts.swLen true
  let s := s.mapWts fun w => { w with swRes := r }
  if r ≠ 0 then raise s 0x0203 0x10 [r, s.sch.stepNo]
  else
    let im := imgKeep s m
    let s := s.each (List.range im.cores.length) fun s i => s.mapCore (im.cores.getD i 0) (coreSwap m i)
    let s := measure s 0x31 3 (leBytes 64 im.dig.toNat)
    s.mapWts fun w => { w with swMan := some im, swKeep := swapKeeps s im.man, swState := .staged, swNotes := 0 }

/-! ### Staged changes take effect (R438) -/

/-- A staged change takes effect (R436-R438); a staged segment change has been acknowledged with its power-down complete (R282, R439). -/
def applyStaged (s : State) (k : StageKind) : State :=
  match k with
  | .numctl c v => s.mapCore c fun x => { x with numctl := v }
  | .segment u v => segDownEnd (segSet s u v) u 255
  | .bankSwitch c => bankSwitch s c
  | .pathSwitch => pathSwitch s
  | .swapSwitch => swapApply s

/-! ### The start of a job (R11, R27, R473) -/

/-- A core at the start of a job: flags, Sounding, sticky bits, arrays, vector state and counters are zero (R84, R108, R132, R167, R185, R215);
scalar registers and `NUMCTL` keep their values (R129, log 7). -/
def coreStart (k : Core) : Core :=
  { k with
    flags := [], sticky := 0#32, stickySet := 0#32, stickyClr := 0#32, vreg := [], mreg := [], vl := 0, vlClamps := 0, arrays := []
    skips := 0, bounds := 0, stalls := 0, refused := 0, oxbow := 0, sldPend := [], queues := [], run := [], busy := [], lastS := []
    idx := 0, held := false, nextS := 0, weirDone := false, weirNext := 0, armed := false, wrote := [], sldRead := (0, 0) }

/-- RUN from READY: what the start of a job zeroes (R11, R27, R47, R287, R306, R480), the recorder or the replay, and the staged changes. Undefined
values repeat with the image, its inputs and the stepping (R13, R52). -/
def jobBegin (s : State) : State :=
  let s := s.mapSch fun k => { k with
    sCycle := 0, wCycle := 0, eddyW := 0, stepNo := 0, base := 0, stepW := 0, job := false, jobWait := true, weirAt := none, weirPhase := 0
    causes := [], perCause := [], eddyNs := 0, haltReq := none, replay := none, replayed := false, replayCount := 0, copies := [], handed := 0
    discard := 0, signals := [], sigSent := [], sigDrops := 0, ctlLate := 0, ctlMax := 0, bulkOver := [], outDig := [], arbS := 0, arbBusy := []
    ctlAt := [] }
  let s := { s with free := 2 ^ 64 * (2 * (runImg s).dig.toNat + if s.dev.b0 then 1 else 0) }
  let s := { s with pools := s.pools.map fun (p : Nat × Pool) => (p.1, { p.2 with waiting := [] }) }
  let s := { s with cores := s.cores.map fun (p : Nat × Core) => (p.1, coreStart p.2), trib := { s.trib with
    used := [], outStep := [], roomAt := 0, inAt := s.trib.inAt.map fun (p : Nat × List Nat) => (p.1, p.2.map fun _ => 0) } }
  let s := s.mapFab fun f => { f with takes := [], halfAt := [], injAt := [], narrow := f.narrow.map fun (n : NarrowWr) => { n with atW := 0 } }
  let s := s.mapPwr fun p => { p with changes := 0, waits := 0, stepE := 0 }
  let s := servingStart s
  let s := s.each s.mgm.staged fun s g => applyStaged s g.kind
  let s := s.mapMgm fun m => { m with staged := [] }
  let s := { s with inp := { s.inp with replaying := false, chip := false, left := [] } }
  let s := if s.inp.replayOn = 1 then replayStart s else inpStart s
  setState s .running

/-- The step-table entry of the step now executing, or of a later one (R28). -/
def stepEntry (s : State) (n : Nat) : StepEntry :=
  let l := (runImg s).steps
  l.getD (n % max 1 l.length) {}

/-- S-cycle 0 of a job (R473): the ledger admits step 0. -/
def jobStart (s : State) : State :=
  let e := stepEntry s 0
  let ch := charge s e.energy e.len
  if s.dev.state = .running ∧ s.sch.jobWait ∧ admits s ch then
    let s := s.mapSch fun k => { k with job := true, jobWait := false, lastWeirTick := s.now }
    let s := s.mapPwr fun p => { p with charge := ch, stepE := 0 }
    stepStart (slotTableApply s)
  else s

/-! ### The Flush (R284-R286) -/

/-- A core after the on-die part of a Flush (Table 8-4, R167, R185): the Sounding statistics stay. -/
def coreFlush (k : Core) : Core :=
  { coreUnload k with
    spad := [], bad := [], badX := [], wrote := [], sregs := [], sldPend := [], flags := [], vreg := [], mreg := [], vl := 0, queues := [], busy := []
    lastS := [], run := [], held := false, nextS := 0, weirDone := false, weirNext := 0, oxbow := 0, sldRead := (0, 0)
    arrays := [0, 1, 2, 3].foldl (fun m a => fset m {} a { snd := (k.arr a).snd }) [] }

/-- KILL (R284, R348, R375, R382, R441): the job ends at once, both Tributary queues are emptied, staged changes and the swap are dropped,
every piece is NONE and every slot FREE. -/
def killStart (s : State) (weights : Bool) : State :=
  let s := inpStop s 2
  let s := s.mapSch fun k => { k with
    job := false, jobWait := false, weirAt := none, weirPhase := 0, causes := [], eddyNs := 0, haltReq := none, replay := none
    replayed := false, copies := [], handed := 0, discard := 0, signals := [], outDig := [], arbS := 0, arbBusy := [] }
  let s := { s with
    pools := s.pools.map fun (p : Nat × Pool) => (p.1, { p.2 with waiting := [] })
    cores := s.cores.map fun (p : Nat × Core) => (p.1, { p.2 with run := [], queues := [], held := false, armed := false, sldPend := [] })
    trib := { s.trib with inQ := [], inAt := [], used := [], outQ := [], outStep := [], outRoom := 4096 }
    inp := { s.inp with replaying := false, left := [], entries := [] } }
  let s := s.mapFab fun f => { f with groups := [], taken := [], takes := [], narrow := [] }
  let s := s.mapMgm fun m => { m with staged := [] }
  let s := swapDrop (s.mapWts fun w => { w with
    pstate := [], digests := [], man := none, hashing := [], streams := [], asked := [], nak := [], refetch := [], swImg := [], swLen := 0 })
  let s := s.mapSrv fun v => { v with slots := [], cm := [], commits := [], changes := [], update := none, prompt := [] }
  let s := s.mapBeds fun b => { b with flush := 1, flushSince := s.now, flushW := weights, kvLost := [], kvLossNext := [], waiting := [] }
  { s with dev := { s.dev with busy := true }, dbg := { s.dbg with haltWeir := none, haltS := none } }

/-- The on-die part of the Flush is complete (R284, R285). -/
def flushOndie (s : State) : State :=
  if s.beds.flush = 1 ∧ s.dev.busy then
    let s := { s with
      cores := s.cores.map fun (p : Nat × Core) => (p.1, coreFlush p.2)
      pools := s.pools.map fun (p : Nat × Pool) => (p.1, { p.2 with mem := [], bad := [], wrote := [] }) }
    s.mapBeds fun b => { b with flush := 2, flushOn := (s.now - b.flushSince) / 1000 }
  else s

/-- Zeroes the partitions that the Flush covers: KV, adapter and replay log always, the weights where the kill asks for it; never the spare
partition (Table 8-4). -/
def flushBeds (s : State) : State :=
  let ts := if s.beds.flushW then [1, 2, 3, 4, 5] else [3, 4, 5]
  s.each ((List.range 8).map (partOf s)) fun s p =>
    if partUsed p && ts.contains p.1 then s.mapBeds fun b => { b with
      mem := mzero b.mem p.2.1 (p.2.1 + p.2.2), bad := clearBad b.bad 1024 p.2.1 p.2.2 } else s

/-- Both parts are complete (R286): adapters empty, the image discarded, pending remaps applied (Table 15-2), STANDBY. -/
def flushDone (s : State) : State :=
  if s.beds.flush = 2 ∧ s.dev.busy then
    let s := flushBeds s
    let s := s.mapBeds fun b => { b with flush := 3, flushBed := (s.now - b.flushSince) / 1000 }
    let s := raise s 0x080B 0x10 [s.beds.flushOn, s.beds.flushBed]
    let s := s.mapSrv fun v => { v with slots := [], adapters := [], adPub := [] }
    let s := imageDrop s
    let s := s.each s.rep.pend remapApply
    toStandby (s.mapDev fun d => { d with busy := false })
  else s

/-! ### Slackwater (R477, R478) -/

/-- The compute-domain logic after a wake: reset, while accumulator stores and memories are kept (Table 14-5, log 23). -/
def coreWake (k : Core) : Core :=
  { k with
    sregs := [], sldPend := [], flags := [], vreg := [], mreg := [], vl := 0, queues := [], busy := [], lastS := [], run := [], held := false, sldRead := (0, 0)
    badX := k.badX.filter fun p => decide (p.1 < badKey 1 0)
    arrays := [0, 1, 2, 3].foldl (fun m a => fset m {} a { bad := (k.arr a).bad, acc := (k.arr a).acc, tags := (k.arr a).tags, osum := (k.arr a).osum, snd := (k.arr a).snd }) [] }

/-- A wake begins (R435, R478). -/
def wakeBegin (s : State) : State := { s with dev := { s.dev with busy := true }, pwr := { s.pwr with wakeAt := s.now } }

/-- Rewrites an uncorrectable on-die granule as zero (Table 14-6). -/
def granuleZero (s : State) (m : MemLoc) : State :=
  match m with
  | .spad c g => s.mapCore c.val fun k => { k with spad := mzero k.spad (8 * g) (8 * g + 8), bad := fset k.bad false g false }
  | .pool cl g => s.mapPool cl.val fun k => { k with mem := mzero k.mem (8 * g) (8 * g + 8), bad := fset k.bad false g false }
  | .desc c g =>
    let o := 8 * g % bankBytes
    s.mapCore c fun k =>
      let k := { k with badX := fset k.badX false (badKey 0 g) false }
      if 8 * g < bankBytes then { k with bankA := mzero k.bankA o (o + 8) } else { k with bankB := mzero k.bankB o (o + 8) }
  | .acc c g => s.mapArr c (g / 32768) fun x => { x with
      acc := x.acc.filter fun p => p.1 / 2 != g % 32768, bad := fset x.bad false (g % 32768) false }
  | _ => s

/-- The wake is complete (Table 14-6): frequency, crossings, the check of the on-die memories with the granules found bad, the record of the
wake, and the state left (R478, R480). -/
def wakeDone (s : State) (bad : List MemLoc) : State :=
  if s.dev.state = .slackwater ∧ s.dev.busy then
    let f := min s.pwr.freq (max 900 (minAllow s))
    let us := (s.now - s.pwr.wakeAt) / 1000
    let slept := (s.now - s.pwr.sleepAt) / 1000
    let s := (clockAt s f).mapPwr fun p => { p with crossBad := 0#4, wakeUs := us, sleepW := min 65535 (p.sleepE / max 1 slept) }
    let s := { s with cores := s.cores.map fun (p : Nat × Core) => (p.1, coreWake p.2) }
    let s := s.each bad fun s m => match m with
      | .beds _ => s
      | m => granuleZero (outsideError s m []) m
    let s := raise s 0x0E0B 0x12 [1, us]
    let s := s.mapDev fun d => { d with busy := false }
    setState s (if s.dev.saved = 4 then .ready else .standby)
  else s

/-! ### Device commands (R433-R435) -/

/-- A command code written to 0x1800:02: refused with `WRONG_STATE` where Table 13-10 has no row, and while an acceptance, a Flush or a wake
runs (R434, R435). -/
def devCmd (s : State) (p : Path) (states : List DevState) (chk : Nat) (act : State → State) : State :=
  odCmd s p 0x180002 (!s.dev.busy && states.contains s.dev.state) chk act

/-- LOAD (Table 13-10). -/
def execLoad (p : Path) (s : State) : Host.Outcome State Fault Refusal :=
  .next (odReq s p 0x180002 (.load p)
    (devCmd s p [.standby] 0 fun s =>
    setState (s.mapDev fun d => { d with image := [], imgLen := 0, place := [], placeW := [] }) .loading))

/-- Bytes of a DOMAIN buffer and one past its highest byte written. -/
def domWrite (m : Mem) (len off : Nat) (data : List Byte) : Mem × Nat :=
  (mwrite m off data, max len (if data.isEmpty then 0 else off + data.length))

/-- IMAGE_WRITE (Table 13-9, R578). -/
def execImageWrite (p : Path) (off : BitVec 32) (data : List Byte) (s : State) : Host.Outcome State Fault Refusal :=
  .next (odReq s p 0x181100 (.imageWrite p off data)
    (odCmd s p 0x181100 (s.dev.state == .loading) 0 fun s => pendLine (s.mapDev fun d =>
    let w := domWrite d.image d.imgLen off.toNat data
    { d with image := w.1, imgLen := w.2 }) 1 7))

/-- PLACEMENT_WRITE (Table 13-9, R60). -/
def execPlacementWrite (p : Path) (off : BitVec 32) (data : List Byte) (s : State) : Host.Outcome State Fault Refusal :=
  .next (odReq s p 0x181200 (.placementWrite p off data)
    (odCmd s p 0x181200 (s.dev.state == .loading) 0 fun s => pendLine (s.mapDev fun d =>
    { d with place := mwrite d.place off.toNat data, placeW := d.placeW ++ [{ lo := off.toNat, hi := off.toNat + data.length }] }) 1 7))

/-- ACCEPT (R61, R62). -/
def execAccept (p : Path) (s : State) : Host.Outcome State Fault Refusal :=
  .next (odReq s p 0x180002 (.accept p)
    (devCmd s p [.loading] 0 fun s =>
    let m := imgView s.dev.image
    let r := acceptCheck s m s.dev.imgLen false
    if r = 0 then imageAccept s m else imageRefuse s r))

/-- UNLOAD (Table 13-10). -/
def execUnload (p : Path) (s : State) : Host.Outcome State Fault Refusal :=
  .next (odReq s p 0x180002 (.unload p)
    (devCmd s p [.loading, .ready] 0 fun s => toStandby (imageDrop s)))

/-- RUN (Table 13-10): from READY a job starts, if every listed piece is VALID (R359) and a log to replay is accepted (R540); from DRAINING the
job continues. -/
def execRun (p : Path) (s : State) : Host.Outcome State Fault Refusal :=
  let chk := if s.dev.state = .ready then firstAbort [(allValid s, abNOTREADY), (s.inp.replayOn != 1 || replayOk s, abINCONS)] else 0
  .next (odReq s p 0x180002 (.run p)
    (devCmd s p [.ready, .draining] chk fun s => if s.dev.state = .ready then jobBegin s else setState s .running))

/-- JOB_START (R473). -/
def execJobStart (s : State) : Host.Outcome State Fault Refusal := .next (jobStart s)

/-- DRAIN (Table 13-10, R396): every waiting request is refused with `CLOSED`. -/
def execDrainCmd (p : Path) (s : State) : Host.Outcome State Fault Refusal :=
  .next (odReq s p 0x180002 (.drainCmd p)
    (devCmd s p [.running] 0 fun s =>
    let s := s.each s.srv.store fun s r => respRefused s r.reqid 0x44
    setState (s.mapSrv fun v => { v with store := [] }) .draining))

/-- KILL (R284). -/
def execKill (p : Path) (s : State) : Host.Outcome State Fault Refusal :=
  .next (odReq s p 0x180002 (.kill p)
    (devCmd s p [.ready, .running, .draining, .halted] 0 fun s => killStart s false))

/-- KILL_WEIGHTS (R284). -/
def execKillWeights (p : Path) (s : State) : Host.Outcome State Fault Refusal :=
  .next (odReq s p 0x180002 (.killWeights p)
    (devCmd s p [.ready, .running, .draining, .halted] 0 fun s => killStart s true))

/-- FLUSH_ONDIE_DONE (R285). -/
def execFlushOndieDone (s : State) : Host.Outcome State Fault Refusal := .next (flushOndie s)

/-- FLUSH_COMPLETE (R286). -/
def execFlushComplete (s : State) : Host.Outcome State Fault Refusal := .next (flushDone s)

/-- SLEEP (R477). -/
def execSleep (p : Path) (s : State) : Host.Outcome State Fault Refusal :=
  .next (odReq s p 0x180002 (.sleep p) (devCmd s p [.standby, .ready] 0 enterSleep))

/-- WAKE (R478). -/
def execWake (p : Path) (s : State) : Host.Outcome State Fault Refusal :=
  .next (odReq s p 0x180002 (.wake p) (devCmd s p [.slackwater] 0 wakeBegin))

/-- WAKE_COMPLETE (R478). -/
def execWakeComplete (bad : List MemLoc) (s : State) : Host.Outcome State Fault Refusal := .next (wakeDone s bad)

/-- SLEEP_REQ_ASSERT (R435, R566, Table 13-13): in STANDBY and READY the device sleeps; elsewhere the level waits for the next entry. -/
def execSleepReqAssert (s : State) : Host.Outcome State Fault Refusal :=
  let t := { s with pins := { s.pins with sleepReq := true } }
  .next (if s.dev.state = .off then t
    else
      let t := if s.pins.sleepReq then t else pendLine t 13 4
      if (s.dev.state = .standby ∨ s.dev.state = .ready) ∧ !s.dev.busy then enterSleep t else t)

/-- SLEEP_REQ_RELEASE (R434, R478). -/
def execSleepReqRelease (s : State) : Host.Outcome State Fault Refusal :=
  let t := { s with pins := { s.pins with sleepReq := false } }
  .next (if s.dev.state = .off then t
    else
      let t := if s.pins.sleepReq then pendLine t 13 5 else t
      if s.dev.state = .slackwater ∧ !s.dev.busy ∧ s.pins.sleepReq then wakeBegin t else t)

/-- Whether descriptor-bank objects take writes (Table 3-10). -/
def bankState (s : State) : Bool := s.dev.state == .ready || s.dev.state == .running || s.dev.state == .draining

/-- BANK_WRITE (Table 3-9, Table 3-10): bytes for the bank that was inactive when the write was sent. If a switch has made it active
since, the write is refused, with `WRONG_STATE` (R104; log 60). -/
def execBankWrite (p : Path) (c : CoreId) (place : BankPlace) (data : List Byte) (s : State) : Host.Outcome State Fault Refusal :=
  let obj := 0x203200 + c.val + 1
  let chk := firstAbort [(decide (place.off.toNat + data.length ≤ bankBytes), abPASTEND)]
  .next (odReq s p obj (.bankWrite p c place data) (if (s.core c.val).activeB != place.toB then odCmd s p obj (bankState s && !(stagesNow s && s.inp.replaying)) chk fun s => bankWriteTo s c.val place.off.toNat data true
  else
    let late := served s p && ownerOk s p && stateServes s obj && bankState s && !(stagesNow s && s.inp.replaying) && chk == 0
    odCmd (s.cond late fun s => raiseC (s.mapCore c.val fun k => { k with refused := sat32 k.refused }) 0x0309 c.val []) p obj false 0 fun s => s))

/-- A write to 0x2033:n: the seal, with `more` after one that holds; a failed seal raises event 0x030A and is refused (R105). -/
def bankSealCmd (s : State) (p : Path) (c : Nat) (stOk room : Bool) (more : State → State) : State :=
  let obj := 0x203300 + c + 1
  if !served s p then s
  else if !ownerOk s p then refuse s p obj abNOTOWNER
  else if !(stateServes s obj && stOk) then refuse s p obj abSTATE
  else
    match sealBank s c [] with
    | (t, true) => if room then okResp (more t) p obj else refuse s p obj abSTAGEFULL
    | (t, false) => refuse t p obj abCHECK

/-- BANK_SEAL (R105). -/
def execBankSeal (p : Path) (c : CoreId) (s : State) : Host.Outcome State Fault Refusal :=
  .next (odReq s p (0x203300 + c.val + 1) (.bankSeal p c) (bankSealCmd s p c.val true true fun s => s))

/-- BANK_SEAL_SWITCH (R106): seals and stages the switch; in READY it waits for the start of the job (R441); in a replay it is refused (R541). -/
def execBankSealSwitch (p : Path) (c : CoreId) (s : State) : Host.Outcome State Fault Refusal :=
  .next (odReq s p (0x203300 + c.val + 1) (.bankSealSwitch p c)
    (bankSealCmd s p c.val (!(stagesNow s && s.inp.replaying)) (stageRoom s (.bankSwitch c.val)) fun s => stage s (.bankSwitch c.val)))

/-- SWAP_STAGE (R369, Table 11-8): in RUNNING, with the swap IDLE or DONE. -/
def execSwapStage (p : Path) (s : State) : Host.Outcome State Fault Refusal :=
  .next (odReq s p 0x307100 (.swapStage p)
    (odCmd s p 0x307100 (s.dev.state == .running && (s.wts.swState == .idle || s.wts.swState == .done)) 0 swapStage))

end Sys2Proof.Machine
end

