-- ==== Sys2Proof/Machine/Weir.lean ====
section
/-! DEFINITION. The Weir (R29, R304, R305) with Eddy causes 6-9 at its end (R50), staged changes (R436-R442), the frequency change and the credit
of the next step (R462, R463, R471, R472), remaps (R485-R489), Oxbow (R99, R100) and the Eddy limit (R48); the meanings of WEIR_BEGIN, WEIR_END,
STAGE_ACK, STAGED_DISCARD, EDDY_LIMIT, OXBOW_LIMIT, REMAP_COMPLETE, REMAP_TIMEOUT, CLOCK_CHANGE_DONE and LEDGER_UPDATE. -/

namespace Sys2Proof.Machine

/-! ### The quiet tree (R29, R92, R304) -/

/-- The conditions of R29 and R92 for one scheduled core. -/
def coreQuiet (s : State) (c : Nat) : Bool :=
  let k := s.core c
  k.weirDone && (k.queues.all fun p => p.2.isEmpty) && k.run.isEmpty && k.busy.all fun p => decide (p.2 ≤ s.sch.sCycle)

/-- The quiet tree. -/
def quiet (s : State) : Bool := (ringCores s).all (coreQuiet s)

/-- First S-cycle at which the Weir of the present step may begin: b + L - 12 (R28, R304). -/
def weirDue (s : State) : Nat := s.sch.base + (stepEntry s s.sch.stepNo).len - 12

/-- The Weir begins; the excess of a late one is a step overrun (R29). -/
def weirBegin (s : State) : State :=
  if sRun s ∧ s.sch.weirAt = none ∧ weirDue s ≤ s.sch.sCycle ∧ quiet s then
    let late := s.sch.sCycle - weirDue s
    let s := s.cond (decide (0 < late)) fun s => raise s 0x0201 0x14 [s.sch.stepNo, late]
    s.mapSch fun k => { k with weirAt := some k.sCycle }
  else s

/-! ### The next step begins (R305, R50, R545) -/

/-- Debug halts and breaks at the end of a Weir, after cause 9 (R50, R545). -/
def weirDebug (s : State) : State :=
  match s.dbg.haltWeir with
  | some c => debugHalt s c
  | none =>
    if s.dbg.brkStep ≠ 0 ∧ s.dbg.brkStep + 1 = s.sch.stepNo then debugHalt s 3
    else if s.dbg.brkS ≠ 0 ∧ s.dbg.brkS = s.sch.sCycle then debugHalt s 4
    else s

/-- The next step begins: every sequencer presents again (R92), the step-start copies are kept (R273). -/
def stepBegin (s : State) : State :=
  let s := s.mapSch fun k => { k with base := k.sCycle, stepW := k.wCycle, weirPhase := 0 }
  let s := s.each (ringCores s) fun s c => s.mapCore c fun k => { k with weirDone := false, nextS := s.sch.sCycle }
  weirDebug (stepStart s)

/-- Cause 9 (R472): the charge of the next step against the credit. -/
def weirFrom9 (s : State) : State :=
  let e := stepEntry s s.sch.stepNo
  let ch := charge s e.energy e.len
  let s := s.mapPwr fun p => { p with need := ch }
  if admits s ch then stepBegin (s.mapPwr fun p => { p with charge := ch })
  else
    let s := raise s 0x0E09 0x12 [ch, (BitVec.ofInt 64 s.pwr.credit).toNat]
    let s := s.mapPwr fun p => { p with waits := sat32 p.waits }
    addCause (s.mapSch fun k => { k with weirPhase := 10 }) 9 0

/-- Cause 8 (R462, R463). -/
def weirFrom8 (s : State) : State :=
  match freqNext s with
  | some f =>
    let s := s.mapPwr fun p => { p with newFreq := some f, changeAt := s.now }
    addCause (s.mapSch fun k => { k with weirPhase := 9 }) 8 0
  | none => weirFrom9 s

/-- Cause 7 (R485-R489). -/
def weirFrom7 (s : State) : State :=
  if (remapsDue s).isEmpty then weirFrom8 s else addCause (s.mapSch fun k => { k with weirPhase := 8 }) 7 0

/-- Goes on at the end of a Weir once the cause evaluated last has cleared (R50). -/
def weirResume (s : State) : State :=
  if s.sch.causes.any (fun c => decide (6 ≤ c.no ∧ c.no ≤ 9)) then s
  else match s.sch.weirPhase with
    | 7 => weirFrom7 s
    | 8 => weirFrom8 s
    | 9 => weirFrom9 s
    | 10 => stepBegin (s.mapPwr fun p => { p with charge := p.need })
    | _ => s

/-! ### Staged changes at a Weir (R437-R439) -/

/-- Records an applied change in the input log (R537): `STAGED` for registers and masks, `BANK` for the path table; a swap switch stops the
recorder (R538). -/
def recordStaged (s : State) (k : StageKind) : State :=
  let t := s.sch.sCycle - 1
  let o := stageObj k
  match k with
  | .numctl _ v => inpAdd s 5 t (leBytes 2 (o / 256) ++ leBytes 1 (o % 256) ++ List.replicate 5 0#8 ++ leBytes 8 v.toNat)
  | .segment _ v => inpAdd s 5 t (leBytes 2 (o / 256) ++ leBytes 1 (o % 256) ++ List.replicate 5 0#8 ++ leBytes 8 v.toNat)
  | .pathSwitch => inpAdd s 4 t (leBytes 2 0xFFFF ++ [0#8] ++ List.replicate 5 0#8 ++ mread (pathBank s) 0 65536)
  | .swapSwitch => inpStop s 3
  | .bankSwitch _ => s

/-- Whether a pending change belongs to the Weir that ended last (R438). -/
def stagedDue (s : State) (g : Staged) : Bool := decide (g.weir < s.sch.stepNo)

/-- Whether a change of the Weir that ended last still lacks an acknowledgement. -/
def stagedWaits (s : State) : Bool := s.mgm.staged.any fun g => stagedDue s g && !g.acked

/-- A switch of one core with its `BANK` entry where the bank was filled through 0x2032 (R107, R537). -/
def bankSwitchAt (s : State) (c : Nat) : State :=
  let k := s.core c
  let t := bankSwitch s c
  let ok := k.inact == .valid
  if k.byOd then
    inpAdd t 4 (s.sch.sCycle - 1) (leBytes 2 (c + 1) ++ [if ok then 0#8 else 1#8] ++ List.replicate 5 0#8 ++
      (if ok then mread (t.core c).actBank 0 bankBytes else []))
  else t

/-- All acknowledged changes of the Weir are applied together, in the order in which they were staged (R438), and the load service runs (R371). -/
def stagedApply (s : State) : State :=
  let l := s.mgm.staged.filter fun g => stagedDue s g && g.acked
  let s := s.mapMgm fun m => { m with staged := m.staged.filter fun g => !(stagedDue s g && g.acked) }
  let s := s.each l fun s g => match g.kind with
    | .bankSwitch c => bankSwitchAt s c
    | k => recordStaged (applyStaged s k) k
  swapTick s (s.sch.stepNo - 1)

/-- Whether an acknowledgement of a change of the Weir that ended last came after the latch in S-cycle w + 10 (R304), w + 12 being the present S-cycle. -/
def stagedLate (s : State) (g : Staged) : Bool := decide (s.sch.sCycle < g.ackS + 2)

/-- The staging requests of held changes of this Weir are sent, and their limit begins (R439). -/
def stagedSend (s : State) : State :=
  s.mapMgm fun m => { m with staged := m.staged.map fun g => if stagedDue s g && !g.sent then { g with sent := true, atW := s.now } else g }

/-- Cause 6 (R438). Acknowledgements that came after the latch hold the chip until 4 W-cycles after them (R45, R304). -/
def weirFrom6 (s : State) : State :=
  let s := stagedSend s
  if stagedWaits s then addCause (s.mapSch fun k => { k with weirPhase := 7 }) 6 0
  else if s.mgm.staged.any fun g => stagedDue s g && stagedLate s g then
    endCause (stagedApply (addCause (s.mapSch fun k => { k with weirPhase := 7 }) 6 0)) 6 0 3
  else weirFrom7 (stagedApply s)

/-- Cause 6 ends, 4 W-cycles on (R45), once no change of its Weir waits. -/
def stagedCheck (s : State) : State :=
  if (stagesNow s ∨ s.dev.dbgHalt) ∧ s.sch.weirPhase = 7 ∧ (s.sch.causes.any fun c => c.no == 6 && c.untilW == none) ∧ !stagedWaits s then endCause (stagedApply s) 6 0 4 else s

/-! ### Bank switches at a Weir (R106, R107) -/

/-- Whether a staged switch of core `c` is applied at the bank-switch point of its Weir: its acknowledgement was in by S-cycle w + 10 (R438). -/
def bankInTime (s : State) (c : Nat) (g : Staged) : Bool := g.kind == .bankSwitch c && stagedDue s g && g.acked && !stagedLate s g

/-- Cores whose bank switches at the bank-switch point: armed by the schedule, or staged and acknowledged in time (R106, R438). -/
def switchCores (s : State) : List Nat :=
  allCores.filter fun c => (s.core c).armed || s.mgm.staged.any (bankInTime s c)

/-- The bank switches of a Weir. Two arms for the same Weir give one switch (R106); a staged switch that is not acknowledged in time stays at its Weir, under
cause 6 (R438). -/
def weirBanks (s : State) : State :=
  let l := switchCores s
  let s := s.mapMgm fun m => { m with staged := m.staged.filter fun g => !(stagedDue s g && l.any fun c => g.kind == .bankSwitch c) }
  s.each l bankSwitchAt

/-! ### Replay at a Weir (R541, R542) -/

/-- The staged change that a `STAGED` entry names. -/
def stagedOf (d : List Byte) : Option StageKind :=
  let i := fieldAt d 0 2
  let n := fieldAt d 2 1
  if i = 0x2060 ∧ 1 ≤ n ∧ n ≤ 192 then some (.numctl (n - 1) (BitVec.ofNat 32 (fieldAt d 8 4)))
  else if h : i = 0x2090 ∧ 1 ≤ n ∧ n ≤ 192 then some (.segment (.core ⟨n - 1, by omega⟩) (BitVec.ofNat 8 (fieldAt d 8 1)))
  else if h : i = 0x20A0 ∧ 1 ≤ n ∧ n ≤ 16 then some (.segment (.pool ⟨n - 1, by omega⟩) (BitVec.ofNat 8 (fieldAt d 8 1)))
  else none

/-- A `BANK` entry: the contents go to the inactive bank, VALID, and the switch is armed; a path-table switch is made at once. -/
def replayBank (s : State) (d : List Byte) : State :=
  let n := fieldAt d 0 2
  let ok := fieldAt d 2 1 == 0
  if n = 0xFFFF then
    if ok then
      let m := mwrite [] 0 ((d.drop 8).take 65536)
      pathSwitch (s.mapFab fun f => { (if f.pathAct then { f with pathA := m } else { f with pathB := m }) with pathIn := .valid })
    else s
  else if 1 ≤ n ∧ n ≤ 192 then
    s.mapCore (n - 1) fun k =>
      if ok then { (k.mapIn fun _ => mwrite [] 0 ((d.drop 8).take bankBytes)) with inact := .valid, armed := true } else { k with armed := true }
  else s

/-- An `ADAPTER` entry: the data are written into the slot, which is marked VERIFIED. -/
def replayAdapter (s : State) (d : List Byte) : State :=
  let a := fieldAt d 0 2
  if a < 1024 then
    let s := s.mapAdap a fun x => { x with state := .verified, id := fieldAt d 4 4, gen := fieldAt d 2 1 }
    match adBase s a with
    | some b => bedWrite s b ((d.drop 8).take (adBytes s))
    | none => s
  else s

/-- Takes and performs the log entries of kind `k` at one S-cycle (R541). -/
def replayKind (s : State) (k t : Nat) (f : State → List Byte → State) : State :=
  let hit := fun (e : InEntry) => e.kind == k && e.scyc == t
  let l := s.inp.left.filter hit
  let s := { s with inp := { s.inp with left := s.inp.left.filter fun e => !hit e } }
  s.each l fun s e => f s e.data

/-- The replay's comparison at a Weir (R542): the digest of the step's outputs, and every entry due by now consumed. -/
def replayStep (s : State) (last : Nat) : State :=
  let (e, s) := replayTake s fun e => e.kind == 1 && fieldAt e.data 0 8 == s.sch.stepNo
  let s := match e with
    | some e => if (e.data.drop 8).take 32 == outDigest s then s else mismatch s 1
    | none => mismatch s 1
  let old := fun (x : InEntry) => decide (x.scyc < last) || (x.scyc == last && decide (x.kind < 4))
  let miss := s.inp.left.filter old
  let s := s.each miss fun s e => mismatch s e.kind
  let s := { s with inp := { s.inp with left := s.inp.left.filter fun e => !old e } }
  if s.sch.stepNo = s.inp.lastStep then haltNext (raise s 0x1105 0x13 [s.sch.stepNo]) 0x1105 else s

/-! ### The end of a Weir (R305) -/

/-- Tenants of the slots in the ending step, 0xFFFF for FREE and in a replay (R519, R543). -/
def stepTenants (s : State) : List Nat :=
  (List.range 128).map fun i => if s.inp.replaying ∨ (s.slot i).state = .free then 0xFFFF else (s.slot i).tenant

/-- What a Weir does before halts and switches: the `STEP` entry or the replay's check, the outputs released, the entries read and the packets
received taken away (R274, R326), the energy of the step sent to the Gauge (R475), the wall time kept (R395). -/
def weirClose (s : State) (w : Nat) : State :=
  let s := s.mapSch fun k => { k with sCycle := w + 12, wCycle := k.wCycle + (w + 12 - k.sCycle), weirAt := none }
  let s := missingInputs s
  let s := if s.inp.replaying then replayStep s (w + 11)
    else inpFlush (inpAdd s 1 (w + 11) (leBytes 8 s.sch.stepNo ++ outDigest s)) s.sch.stepNo
  let s := feedPut s (.step s.sch.stepNo s.pwr.stepE 1 (stepTenants s))
  let s := { s with
    pwr := { s.pwr with lastE := s.pwr.stepE, stepE := 0, crossBad := 0#4 }
    trib := { s.trib with
      inQ := s.trib.used.foldl (fun m (p : Nat × Nat) => fset m [] p.1 ((fget m [] p.1).drop p.2)) s.trib.inQ
      inAt := s.trib.used.foldl (fun m (p : Nat × Nat) => fset m [] p.1 ((fget m [] p.1).drop p.2)) s.trib.inAt
      used := [], outQ := s.trib.outQ ++ s.trib.outStep, outStep := [] } }
  let s := s.mapFab fun f => f.takes.foldl (fun f (t : Nat × Nat × Nat) => { f with
    halves := fset f.halves 0 t.1 (fget f.halves 0 t.1 - t.2.1), taken := fset f.taken [] t.1 ((fget f.taken [] t.1).drop t.2.2) }) { f with takes := [] }
  let s := s.mapSch fun k => { k with
    stepTicks := (k.stepTicks ++ [s.now - k.lastWeirTick]).drop (k.stepTicks.length + 1 - 64), lastWeirTick := s.now }
  let s := s.each (ringCores s) fun s c => s.mapCore c fun k => { k with idx := k.weirNext, held := false }
  pendLine s 8 4

/-- A stack fence requested in service: the stack's reads give zeros from this Weir's end (R495). -/
def weirStack (s : State) : State :=
  match s.rep.stackReq with
  | some k => if 16 ≤ k ∧ s.rep.stackOff = none then raise { s with rep := { s.rep with stackOff := some (k % 16) } } 0x0F06 0x10 [k % 16] else s
  | none => s

/-- The job halts at the end of the Weir (R94): fences without a spare make their slots absent, and armed remaps are applied at once in HALTED
(R485, R488). -/
def weirHalt (s : State) (id : Nat) : State :=
  let s := freeze (s.mapSch fun k => { k with haltReq := none }) id
  let s := s.each (s.rep.pend.filter fun r => r.noSpare) slotAbsent
  s.each (remapsDue s) remapApply

/-- Whether the job ends at this Weir: DRAINING with every slot FREE (Table 13-10). -/
def drained (s : State) : Bool := s.dev.state == .draining && (List.range 128).all fun i => (s.slot i).state == .free

/-- A job drained at its Weir: no next step begins, so armed remaps are applied at once (R488), acknowledged changes take effect and held requests
are sent (R439, R441; log 59). -/
def drainEnd (s : State) : State :=
  let s := s.each (s.rep.pend.filter fun r => r.armed) remapApply
  let now := fun (g : Staged) => g.acked && match g.kind with
    | .bankSwitch _ => false
    | .swapSwitch => false
    | _ => true
  let l := s.mgm.staged.filter now
  let s := s.mapMgm fun m => { m with staged := (m.staged.filter fun g => !now g).map fun g => if g.sent then g else { g with sent := true, atW := s.now } }
  s.each l fun s g => applyStaged s g.kind

/-- The end of a Weir (R305). -/
def weirEnd (s : State) : State :=
  match s.sch.weirAt with
  | none => s
  | some w =>
    if sRun s ∧ w + 11 ≤ s.sch.sCycle then
      let s := weirStack (weirClose s w)
      match s.sch.haltReq with
      | some id => weirHalt (s.mapSch fun k => { k with stepNo := k.stepNo + 1 }) id
      | none =>
        let s := (commitApply s).mapSch fun k => { k with stepNo := k.stepNo + 1 }
        let s := s.cond s.inp.replaying fun s => replayKind (replayKind s 4 (w + 11) replayBank) 7 (w + 11) replayAdapter
        let s := weirBanks s
        let s := s.cond s.inp.replaying fun s => replayKind s 5 (w + 11) fun s d => match stagedOf d with
          | some k => applyStaged s k
          | none => s
        let s := slotTableApply s
        if drained s then
          let s := drainEnd (inpStop s 2)
          setState (s.mapSch fun k => { k with job := false, weirPhase := 0 }) .ready
        else weirFrom6 s
    else s

/-! ### Oxbow (R99, R100) -/

/-- Whether a signal to a flag of core `c` has been issued and is on its way, or is carried by an operation that has started and not finished. -/
def signalComing (s : State) (c : Nat) : Bool :=
  (s.sch.signals.any fun g => g.core == c && decide (g.due ≤ s.sch.sCycle + flagPath g.srcCore c)) ||
  (ringCores s).any fun x => (s.core x).run.any fun r => [0, 1].any fun i =>
    let g := dSig r.item.desc i
    g.1 != 0 && decide (g.2.2.1 < 12) && 12 * g.2.1 + g.2.2.1 == c

/-- Whether the sequencer of a core holds a class 0x0 descriptor on an unsatisfied wait. -/
def seqHolding (s : State) (c : Nat) : Bool :=
  (s.core c).held && !(s.core c).weirDone && dClass (seqDesc s c) == 0 && !waitsMet s c (seqDesc s c)

/-- Whether a core is blocked in this S-cycle (R99). -/
def blocked (s : State) (c : Nat) : Bool :=
  let k := s.core c
  let heads := (List.range 16).filterMap fun e => (fget k.queues [] e).head?
  let idle := k.run.isEmpty && k.busy.all fun p => decide (p.2 ≤ s.sch.sCycle)
  let onlyWait := heads.all fun it => decide (it.dispS + 2 ≤ s.sch.sCycle) && !waitsMet s c it.desc
  idle && (!heads.isEmpty || seqHolding s c) && onlyWait && (seqHolding s c || (k.held && dClass (seqDesc s c) != 0) || k.weirDone) &&
    !signalComing s c

/-- Counts one S-cycle of a core's Oxbow (R99, R100). -/
def oxbowCount (s : State) (c : Nat) : State :=
  let b := blocked s c
  s.mapCore c fun k => { k with oxbow := if b then k.oxbow + 1 else 0 }

/-- Cores whose counter is at the limit. -/
def oxbowAt (s : State) : List Nat := (ringCores s).filter fun c => decide (s.sch.oxLimit ≤ (s.core c).oxbow)

/-- Clusters whose scheduled cores are all blocked or wait only for the Weir (R100), as a bit set. -/
def oxbowClusters (s : State) : Nat :=
  let rc := ringCores s
  sumN ((List.range 16).filterMap fun cl =>
    let cs := rc.filter fun c => c / 12 == cl
    if !cs.isEmpty && cs.all (fun c => blocked s c || coreQuiet s c) then some (2 ^ cl) else none)

/-- Oxbow's fatal event (R100). -/
def oxbowTrip (s : State) : State :=
  if sRun s ∧ !(oxbowAt s).isEmpty then fatal s 0x0308 0x10 (coreSet (oxbowAt s) ++ [oxbowClusters s]) else s

/-! ### The Eddy limit (R48) -/

/-- Causes whose W-cycles the limit ignores. -/
def eddyIgnored : List Nat := [6, 7, 8, 12]

/-- Whether a W-cycle of an Eddy counts against the limit: it is none of causes 6, 7, 8 and 12. -/
def eddyCounts (s : State) : Bool := inEddy s && s.sch.causes.all fun c => !eddyIgnored.contains c.no

/-- Whether a cause is active to which the limit applies. -/
def eddyLimited (s : State) : Bool := s.sch.causes.any fun c => !eddyIgnored.contains c.no

/-- Whether the W-cycles of the present Eddy that count have lasted longer than the limit (R48). -/
def eddyOver (s : State) : Bool := decide (s.sch.eddyLimit * 1000000 < s.sch.eddyNs)

/-- The Eddy limit is passed: fatal event 0x0202 names the causes still active (R48). -/
def eddyTrip (s : State) : State :=
  if stagesNow s ∧ s.sch.job ∧ eddyLimited s then fatal s 0x0202 0x14 [s.sch.stepNo, sumN ((uniq (s.sch.causes.map (·.no))).map fun n => 2 ^ n)] else s

/-! ### Meanings -/

/-- WEIR_BEGIN (R304). -/
def execWeirBegin (s : State) : Host.Outcome State Fault Refusal := .next (weirBegin s)

/-- WEIR_END (R305). -/
def execWeirEnd (s : State) : Host.Outcome State Fault Refusal := .next (weirEnd s)

/-- STAGE_ACK (R437): the `i`-th pending change is acknowledged by every unit, a power-down once no write is in flight to its segments (R282); at the end of its Weir cause 6 may clear (R438). Outside RUNNING and DRAINING a
change takes effect with its acknowledgement, but a bank switch waits for the next job (R441), and in HALTED a change waits for its Weir (R94). -/
def execStageAck (i : Nat) (s : State) : Host.Outcome State Fault Refusal :=
  .next (match s.mgm.staged[i]? with
    | none => s
    | some g =>
      let waits := match g.kind with
        | .bankSwitch _ => true
        | _ => false
      if !g.sent || segWaits s g.kind then s
      else if stagesNow s || waits || s.dev.state == .halted then
        stagedCheck (s.mapMgm fun m => { m with staged := m.staged.set i { g with acked := true, ackS := s.sch.sCycle } })
      else applyStaged (s.mapMgm fun m => { m with staged := m.staged.eraseIdx i }) g.kind)

/-- STAGED_DISCARD (R283, R439): a change without its acknowledgements is dropped 100 µs after its request. -/
def execStagedDiscard (i : Nat) (s : State) : Host.Outcome State Fault Refusal :=
  .next (match s.mgm.staged[i]? with
    | none => s
    | some g =>
      if g.acked ∨ !g.sent ∨ s.now < g.atW + 100000 then s
      else
        let o := stageObj g.kind
        let s := s.mapMgm fun m => { m with staged := m.staged.eraseIdx i, lastDisc := o, discards := sat32 m.discards }
        let s := match g.kind with
          | .segment u v =>
            let m := segPlace u (((List.range 8).find? fun i => (segMaskOf s u ^^^ v).getLsbD i).getD 0)
            raise s 0x080C (memNode s m) (memItems s m)
          | _ => s
        stagedCheck (raise s 0x0D01 0x10 [o]))

/-- Once the segments of a change have acknowledged it: at the end of its Weir cause 6 may clear (R438); outside RUNNING, DRAINING and HALTED the change takes
effect (R441). -/
def segSettle (s : State) : State :=
  if stagesNow s || s.dev.state == .halted then stagedCheck s
  else
    let now := fun (g : Staged) => g.acked && match g.kind with
      | .segment _ _ => true
      | _ => false
    let l := s.mgm.staged.filter now
    (s.mapMgm fun m => { m with staged := m.staged.filter fun g => !now g }).each l fun s g => applyStaged s g.kind

/-- SEGMENT_POWER_DOWN_DONE (R282): once no write is in flight, the power-down of segment i completes and is acknowledged. -/
def execSegmentPowerDownDone (u : SegUnit) (i : Fin 8) (s : State) : Host.Outcome State Fault Refusal :=
  .next (if segInFlight s u i.val = 0 then segSettle (segAck (segDownEnd s u (1#8 <<< i.val)) u i.val false) else s)

/-- SEGMENT_POWER_UP_DONE (R283): segment i is cleared and acknowledges. -/
def execSegmentPowerUpDone (u : SegUnit) (i : Fin 8) (s : State) : Host.Outcome State Fault Refusal := .next (segSettle (segAck s u i.val true))

/-- EDDY_LIMIT (R48): the W-cycles that count have lasted longer than the limit. -/
def execEddyLimit (s : State) : Host.Outcome State Fault Refusal := .next (if eddyOver s then eddyTrip s else s)

/-- OXBOW_LIMIT (R100). -/
def execOxbowLimit (s : State) : Host.Outcome State Fault Refusal := .next (oxbowTrip s)

/-- REMAP_COMPLETE (R486, R489): the remaps of this Weir are applied and cause 7 ends (R45). -/
def execRemapComplete (s : State) : Host.Outcome State Fault Refusal :=
  .next (match s.sch.causes.find? fun c => c.no == 7 && c.untilW == none with
    | none => s
    | some c =>
      let s := { s with rep := { s.rep with remapW := (s.sch.wCycle - c.sinceW) % 2 ^ 32 } }
      endCause (s.each (remapsDue s) remapApply) 7 0 4)

/-- REMAP_TIMEOUT (R488): 40 µs of cause 7 have passed; the slot stays mapped to the old position. -/
def execRemapTimeout (s : State) : Host.Outcome State Fault Refusal :=
  .next (if s.sch.causes.any fun c => c.no == 7 && c.untilW == none && decide (c.sinceW + 40 * s.pwr.freq ≤ s.sch.wCycle) then
    let l := remapsDue s
    let s := fatal s 0x0F0B 0x10 (l.flatMap fun r => [r.cl, r.pos])
    dropCause { s with rep := { s.rep with pend := s.rep.pend.filter fun r => !l.contains r } } 7
  else s)

/-- CLOCK_CHANGE_DONE (R456, R463): the clock runs at the new frequency, the crossings are realigned (R454), every W-cycle counter advances by
the duration of the stop in cycles of the new frequency, rounded up, and cause 8 ends. -/
def execClockChangeDone (s : State) : Host.Outcome State Fault Refusal :=
  .next (match s.pwr.newFreq with
    | none => s
    | some f =>
      let n := cdiv ((s.now - s.pwr.changeAt) * f) 1000
      let cs := uniq (s.sch.causes.map (·.no))
      let s := freqSet s f
      let s := s.mapSch fun k => { k with
        wCycle := k.wCycle + n, eddyW := k.eddyW + n, perCause := cs.foldl (fun m c => fset m 0 c (fget m 0 c + n)) k.perCause }
      weirResume (dropCause s 8))

/-- LEDGER_UPDATE (R470, R472): the µs boundary; a step that waits for credit begins 4 W-cycles after the boundary that covers it. -/
def execLedgerUpdate (metered railMv : Nat) (s : State) : Host.Outcome State Fault Refusal :=
  .next (if powered s then
    let s := ledgerAdd s metered railMv
    if hasCause s 9 ∧ admits s s.pwr.need then endCause s 9 0 4 else s
  else s)

end Sys2Proof.Machine
end

