-- ==== Sys2Proof/Machine/Boot.lean ====
section
/-! DEFINITION. Reset and boot (R417-R419, R481, R497, R498, R560, R563), harts and firmware update (R415, R499-R501); the meanings of
RELEASE_OF_RESET, RESET_ASSERT, FIRMWARE_*, CONFIG_*, BOOT_*, WATCHDOG_EXPIRE and FW_*. -/

namespace Sys2Proof.Machine

/-- Reads a byte string of the Config constants by position. -/
def cfgBytes (f : Nat → Byte) (n : Nat) : List Byte := (List.range n).map f

/-- The identity public key and its digest (R506). -/
def idKeyBytes (s : State) : List Byte := idPub s.tru.seed
def idDigest (s : State) : List Byte := shake32 (idKeyBytes s)

/-- The main die's locally administered MAC address (R426). -/
def macOf (digest : List Byte) : List Byte := 2#8 :: digest.take 5

/-- SHAKE256 of the main die's mask ROM (R509). -/
def romDigestBytes : List Byte := cfgBytes Config.romDigest 64

/-- The mask-ROM firmware keys (R511). -/
def romKeyList : List (List Byte) := [0, 1, 2, 3].map fun i => cfgBytes (Config.romKeys i) 64

/-- The signer table of a firmware (R511). -/
def firmwareKeys (fw : List Byte) : List (List Byte) := (List.range 16).map fun i => cfgBytes (Config.firmwareSigners fw i) 64

/-- Code of the stepping (R2, Table 16-3). -/
def steppingByte (s : State) : Nat := if s.dev.b0 then 0xB0 else 0xA0

/-! ### Reset (R560, R563) -/

/-- The main die as boot phase 2 leaves it: the Gauge, the pins and the TAP are not part of its reset, and the queue and the counter of free
values are the model's own. -/
def resetDie (s : State) (seg : Nat) : State :=
  let d := { State.reset.dbg with
    session := s.dbg.session, ir := s.dbg.ir, dr := s.dbg.dr, bscan := s.dbg.bscan, bypass := s.dbg.bypass, drive := false }
  { State.reset with
    pending := s.pending, free := s.free, gau := { s.gau with mirror := [], mirrorAt := 0, mirrorLate := false }, dbg := d
    pins := { s.pins with resetN := true, pwrgood := true, segaddr := seg, tempCrit := false }
    dev := { State.reset.dev with b0 := s.dev.b0, phase := 2 }
    mgm := { State.reset.mgm with node := 2 * seg + 1, gaugeNode := 2 * seg + 2 } }

/-- Release of reset (R560) and boot phases 1 and 2 (R417): the PUF gives the seed (R504) and with it the MAC address (R426), the ROM and the identity are measured (Table 16-1), the
first `IDENT` is sent. -/
def bootStart (s : State) (seg : Nat) : State :=
  let s := resetDie s seg
  let s := { s with tru := { s.tru with seed := pufSeed 0 } }
  let s := s.mapMgm fun m => { m with mac := macOf (idDigest s) }
  let s := measure s 0x01 0 romDigestBytes
  let s := measure s 0x02 0 (idKeyBytes s)
  let s := feedPut s (.ident (idDigest s) (steppingByte s))
  let s := setState s .boot
  s.cond s.pins.thermIn fun s => thermalTrip s [64]

/-- OFF (R560, R563): every unit of the main die stops; EXTEST aside, nothing acts. -/
def toOff (s : State) : State :=
  { setState0 s .off with pins := { s.pins with tempCrit := false } }

/-! ### Firmware (R417, R418, R511) -/

/-- Firmware bank bytes as written. -/
def fwBytes (s : State) (b : Nat) : List Byte := mread (fget s.dev.fw [] b) 0 (fget s.dev.fwLen 0 b)

/-- Bytes of a firmware bank (R416). -/
def fwBankBytes : Nat := 2097152

/-- Writes firmware bytes into a bank. -/
def fwWrite (s : State) (b off : Nat) (data : List Byte) : State :=
  s.mapDev fun d =>
    let w := domWrite (fget d.fw [] b) (fget d.fwLen 0 b) off data
    { d with fw := fset d.fw [] b w.1, fwLen := fset d.fwLen 0 b w.2 }

/-- Measures a firmware bank and records its signer (R509, R512). -/
def fwMeasure (s : State) (typ b : Nat) : State :=
  let fw := fwBytes s b
  let v := verdictOf romKeyList fw []
  let q := s.tru.logSeq
  let s := extendMR s typ 1 v.1 v.2 (shake64 fw)
  if v.1 = 0x20 then raise s 0x1001 0x13 [typ, q] else s

/-- Phase 3 (R417): the firmware of bank A is measured and started; its signer table verifies from now on. -/
def fwStart (s : State) : State :=
  let fw := fwBytes s 0
  let s := fwMeasure s 0x10 0
  let s := s.mapDev fun d => { d with phase := 3, fwRun := 0, fwVer := fset d.fwVer 0 0 (Config.firmwareVersion fw) }
  { s with tru := { s.tru with signers := firmwareKeys fw } }

/-! ### Configuration (R419, R497) -/

/-- Records of a configuration from byte `o` on: type and data; `none` where a record passes the signature's offset. -/
def cfgRecords (m : Mem) (sig : Nat) : Nat → Nat → Option (List (Nat × List Byte))
  | 0, o => if o ≤ sig then some [] else none
  | n + 1, o =>
    let len := mnat m (o + 2) 2
    let e := o + 4 + 4 * cdiv len 4
    if sig < e then none
    else (cfgRecords m sig n e).map fun r => (mnat m o 2, mread m (o + 4) len) :: r

/-- Whether a record has the length of Table 13-3. -/
def cfgRecOk (r : Nat × List Byte) : Bool :=
  let n := r.2.length
  match r.1 with
  | 1 => n == 4
  | 2 => n == 2
  | 3 => n == 1
  | 4 => n == 4
  | 5 => n % 8 == 0 && decide (n ≤ 65528)
  | _ => false

/-- Repair-map entries of the records (Table 15-5). -/
def cfgRepairs (rs : List (Nat × List Byte)) : List Nat :=
  (rs.filter fun r => r.1 == 5).flatMap fun r => (List.range (r.2.length / 8)).map fun i => fieldAt r.2 (8 * i) 8

/-- Whether a repair entry has a listed `KIND` and no reserved bit set (R497). -/
def repairOk (e : Nat) : Bool :=
  match bits e 63 60 with
  | 1 => bits e 23 0 == 0
  | 2 => bits e 54 53 == 0 && bits e 48 0 == 0
  | 3 => bits e 55 0 == 0
  | 4 => bits e 59 58 == 0 && bits e 55 0 == 0
  | _ => false

/-- Stack, tier and row, and stack, tier and spare, of a bed-row entry. -/
def repairRow (e : Nat) : Nat × Nat × Nat := (bits e 59 56, bits e 55 53, bits e 52 36)
def repairSpare (e : Nat) : Nat × Nat × Nat := (bits e 59 56, bits e 55 53, bits e 35 24)

/-- Entries of one kind. -/
def repairKind (es : List Nat) (k : Nat) : List Nat := es.filter fun e => bits e 63 60 == k

/-- The checks of a repair map over all its entries (R497). -/
def repairsOk (es : List Nat) : Bool :=
  let rows := repairKind es 1
  es.all repairOk && decide (rows.map repairRow).Nodup && decide (rows.map repairSpare).Nodup &&
  decide ((uniq ((repairKind es 3).map fun e => bits e 59 56)).length ≤ 1) && decide ((uniq ((repairKind es 4).map fun e => bits e 57 56)).length < 4)

/-- Records of the configuration as written. -/
def cfgParsed (s : State) : Option (List (Nat × List Byte)) := cfgRecords s.dev.cfg (mnat s.dev.cfg 8 4) (mnat s.dev.cfg 12 4) 16

/-- The format check of a configuration (R419, R497). -/
def cfgOk (s : State) : Bool :=
  let m := s.dev.cfg
  let so := mnat m 8 4
  mnat m 0 4 == 0x43464731 && mnat m 4 2 == 1 && covered s.dev.cfgW so (so + 29792) && match cfgParsed s with
    | some rs => rs.all cfgRecOk && repairsOk (cfgRepairs rs)
    | none => false

/-- The spare of a cluster and kind takes the lowest slot whose position is fenced; further such slots are absent (R481). -/
def mapKind (s : State) (cl : Nat) (de : Bool) : State :=
  let slots := if de then [4, 5, 6, 7, 8, 9, 10, 11] else [0, 1, 2, 3]
  let off := if de then 5 else 0
  let bad := slots.filter fun l => posFenced s (posKey cl de (posOf0 l - off))
  let spare := !posFenced s (posKey cl de (sparePos de))
  let s := s.each bad fun s l => mapCoreTo s (12 * cl + l) 255
  match bad with
  | l :: _ => if spare then mapCoreTo s (12 * cl + l) (off + sparePos de) else s
  | [] => s

/-- Maps the logical cores at the end of phase 4 (R481). -/
def mapCores0 (s : State) : State := s.each (List.range 16) fun s cl => mapKind (mapKind s cl false) cl true

/-- A failed hart's roles pass to the lowest standby hart, or to the other active hart (R499); the Nat is the hart that takes them. -/
def hartFail (s : State) (h : Nat) : State × Option Nat :=
  let r := (s.hart h).role
  let s := s.mapHart h fun x => { x with role := 4, claimed := [] }
  if 3 ≤ r then (s, none)
  else
    match [0, 1, 2, 3].find? fun i => (s.hart i).role == 3 with
    | some i => (s.mapHart i fun x => { x with role := r }, some i)
    | none =>
      match [0, 1, 2, 3].find? fun i => decide ((s.hart i).role < 3) with
      | some i => (s.mapHart i fun x => { x with role := 2 }, some i)
      | none => (s, none)

/-- Applies the repair map (R497, R498): rows, fenced positions, the fenced stack, fenced harts. -/
def applyRepairs (s : State) (es : List Nat) : State :=
  let st := (repairKind es 3).head?.map fun e => bits e 59 56
  let rows := repairKind es 1
  let dead := rows.filter fun e => some (bits e 59 56) == st
  let live := rows.filter fun e => some (bits e 59 56) != st
  let s := { s with rep := { s.rep with
    stackMap := st, noEff := sat32n s.rep.noEff dead.length
    rows := live.map fun e => { stack := bits e 59 56, tier := bits e 55 53, row := bits e 52 36, spare := bits e 35 24, copied := true }
    fenced := (repairKind es 2).foldl (fun m e => fset m false (posKey (bits e 59 56) (bit e 55) (bits e 52 49)) true) s.rep.fenced
    hartFence := (repairKind es 4).foldl (fun b e => b ||| (1#4 <<< bits e 57 56)) s.rep.hartFence } }
  s.each (uniq ((repairKind es 4).map fun e => bits e 57 56)) fun s h => (hartFail s h).1

/-- Applies one record of types 0x0001 to 0x0004 (Table 13-3). -/
def applyRecord (s : State) (r : Nat × List Byte) : State :=
  let v := fieldAt r.2 0 4
  match r.1 with
  | 1 => s.mapFab fun f => { f with coord := BitVec.ofNat 32 v &&& 0x1FFFF#32 }
  | 2 => s.each (indices 16 fun l => bit v l) fun s l => toTraining (s.mapLink l fun k => { k with enable := true }) l false
  | 3 => s.each [0, 1, 2, 3] fun s i => s.mapLink (12 + i) fun k => { k with dateline := bit v i }
  | 4 => s.mapFab fun f => { f with role := bits v 0 0, parent := bits v 7 4, childs := BitVec.ofNat 16 (bits v 31 16) }
  | _ => s

/-- `DATELINE` of links 0-11, which firmware sets from the chip's place in its pod (R318). -/
def ringDatelines (s : State) : State :=
  let v := s.fab.coord.toNat
  s.each [(bits v 13 11, 0), (bits v 7 5, 4), (bits v 2 0, 8)] fun s (x, l) =>
    s.each [0, 1, 2, 3] fun s i => s.mapLink (l + i) fun k => { k with dateline := decide (x = if i < 2 then 7 else 0) }

/-- Phase 4 (R417): the configuration is measured and applied, every on-die memory and the beds are zeroed. -/
def cfgApply (s : State) : State :=
  let m := s.dev.cfg
  let so := mnat m 8 4
  let s := measureSigned s 0x20 2 (signerKeys s) (mread m 0 so) (mread m so 29792)
  let rs := (cfgParsed s).getD []
  let s := mapCores0 (applyRepairs s (cfgRepairs rs))
  let s := ringDatelines (s.each rs applyRecord)
  let s := { s with
    cores := s.cores.map fun (p : Nat × Core) => (p.1, coreFlush p.2)
    pools := s.pools.map fun (p : Nat × Pool) => (p.1, { p.2 with mem := [], bad := [], wrote := [] }) }
  let s := s.mapBeds fun b => { b with mem := [], bad := [] }
  s.mapDev fun d => { d with phase := 4 }

/-- Phase 5 (R417): STANDBY; the crossings are aligned (R454), the meter calibrated (R469), the credit full (R470). -/
def bootDone (s : State) : State :=
  if s.dev.state = .boot ∧ s.dev.phase = 4 then
    let s := s.mapDev fun d => { d with phase := 5 }
    let s := s.mapPwr fun p => { p with crossBad := 0#4, calOk := true, credit := p.cap }
    toStandby s
  else s

/-! ### Hart failover and firmware update (R499-R501) -/

/-- Sources active on a failed hart become pending, and `TARGET` bits move to the hart that takes over (R500). -/
def sourcesMove (s : State) (claimed : List Nat) (h : Nat) (to_ : Option Nat) : State :=
  let s := s.each claimed fun s i => s.mapSrc i fun x => { x with active := false, pending := true }
  let mv := fun (p : Nat × ISrc) =>
    if p.2.target.getLsbD h then
      let t := p.2.target &&& ~~~(1#4 <<< h)
      (p.1, { p.2 with target := match to_ with
        | some j => t ||| (1#4 <<< j)
        | none => t })
    else p
  s.mapMgm fun m => { m with src := m.src.map mv }

/-- Active harts, the one of the dictionary first (Table 13-1), and standby harts in ascending order. -/
def activeHarts (s : State) : List Nat :=
  ([0, 1, 2, 3].filter fun h => (s.hart h).role == 0 || (s.hart h).role == 2) ++ [0, 1, 2, 3].filter fun h => (s.hart h).role == 1
def standbyHarts (s : State) : List Nat := [0, 1, 2, 3].filter fun h => (s.hart h).role == 3

/-- The role of hart `p.1` passes to hart `p.2`, started on a firmware bank, with the sources of the first (R500, R501); without such a hart it is started on
the bank itself. DEDUCED (log 57): the hart that gives its role away stands by on the bank it ran. -/
def handOver (bank : Nat) (s : State) (p : Nat × Option Nat) : State :=
  match p.2 with
  | none => s.mapHart p.1 fun x => { x with bankRun := bank }
  | some j =>
    let x := s.hart p.1
    let s := s.mapHart p.1 fun x => { x with role := 3, claimed := [] }
    sourcesMove (s.mapHart j fun y => { y with role := x.role, bankRun := bank }) x.claimed p.1 (some j)

/-- Each role in turn is handed to a hart started on a bank, those of `to_` first (Table 15-6). -/
def handOvers (s : State) (bank : Nat) (from_ to_ : List Nat) : State :=
  s.each (from_.zipIdx.map fun p => (p.1, to_[p.2]?)) (handOver bank)

/-- The trial ends in failure: the roles return to the old bank, with no hart fenced (Table 15-6). -/
def trialFail (s : State) (h : Nat) : State :=
  let old := s.dev.fwRun
  let s := handOvers s old ((activeHarts s).filter fun i => (s.hart i).bankRun != old) ((standbyHarts s).filter fun i => (s.hart i).bankRun == old)
  let s := s.each [0, 1, 2, 3] fun s i => s.mapHart i fun x => { x with bankRun := old }
  let s := { s with tru := { s.tru with signers := firmwareKeys (fwBytes s s.dev.fwRun) } }
  raise (s.mapMgm fun m => { m with upd := .idle }) 0x0F0A 0x10 [h]

/-- The watchdog of an active hart expires (R499, R501). -/
def watchdog (s : State) (h : Nat) : State :=
  let x := s.hart h
  if 3 ≤ x.role ∨ x.halted then s
  else
    let s := pendLine (raise s 0x0D06 0x10 [h]) 0 8
    if s.mgm.upd = .trial ∧ x.bankRun ≠ s.dev.fwRun then trialFail s h
    else
      let (s, j) := hartFail s h
      let s := sourcesMove s x.claimed h j
      match j with
      | some j => raise s 0x0F07 0x10 [h, j]
      | none => raise (s.mapMgm fun m => { m with dictOn := false }) 0x0F08 0x10 [h]

/-- The trial succeeds: 0x1822 names the new bank (Table 15-6), and the standby harts are started on it. -/
def trialKeep (s : State) : State :=
  let b := 1 - s.dev.fwRun
  let s := s.each (standbyHarts s) fun s i => s.mapHart i fun x => { x with bankRun := b }
  (s.mapDev fun d => { d with fwRun := b }).mapMgm fun m => { m with upd := .idle }

/-- A code written to 0x1824:00, permitted in the update states of Table 15-6. -/
def updCmd (s : State) (p : Path) (states : List UpdState) (chk : Nat) (act : State → State) : State :=
  odCmd s p 0x182400 (s.dev.state != .boot && states.contains s.mgm.upd) chk act

/-- The bank that does not run. -/
def otherBank (s : State) : Nat := 1 - s.dev.fwRun

/-- Whether an update passes its check: the format, and the shared-state version of the firmware that runs (R501). -/
def updOk (s : State) : Bool :=
  let fw := fwBytes s (otherBank s)
  Config.firmwareOk fw && Config.firmwareVersion fw == fget s.dev.fwVer 0 s.dev.fwRun

/-! ### Meanings -/

/-- RELEASE_OF_RESET (R560, R417). -/
def execReleaseOfReset (segaddr : Fin 8) (s : State) : Host.Outcome State Fault Refusal :=
  .next (if s.dev.state = .off then bootStart s segaddr.val else s)

/-- RESET_ASSERT (R560, R563): the levels of `RESET_N` and `PWRGOOD`; either one low takes the device to OFF. -/
def execResetAssert (resetN : Bool) (pwrgood : Bool) (s : State) : Host.Outcome State Fault Refusal :=
  .next (if resetN ∧ pwrgood then s
    else
      let s := { s with pins := { s.pins with resetN := resetN, pwrgood := pwrgood } }
      toOff s)

/-- FIRMWARE_WRITE (R417): in BOOT, into bank A. -/
def execFirmwareWrite (p : Path) (off : BitVec 32) (data : List Byte) (s : State) : Host.Outcome State Fault Refusal :=
  .next (odReq s p 0x182000 (.firmwareWrite p off data)
    (odCmd s p 0x182000 (s.dev.state == .boot)
    (firstAbort [(decide (off.toNat + data.length ≤ fwBankBytes), abPASTEND)]) fun s => fwWrite s 0 off.toNat data))

/-- FIRMWARE_START (R417, R418). -/
def execFirmwareStart (p : Path) (s : State) : Host.Outcome State Fault Refusal :=
  .next (odReq s p 0x182100 (.firmwareStart p)
    (odCmd s p 0x182100 (s.dev.state == .boot && s.dev.phase == 2) (firstAbort [(Config.firmwareOk (fwBytes s 0), abCHECK)]) fwStart))

/-- CONFIG_WRITE (R419): in BOOT. -/
def execConfigWrite (p : Path) (off : BitVec 32) (data : List Byte) (s : State) : Host.Outcome State Fault Refusal :=
  .next (odReq s p 0x183000 (.configWrite p off data)
    (odCmd s p 0x183000 (s.dev.state == .boot) 0 fun s => s.mapDev fun d =>
    { d with cfg := mwrite d.cfg off.toNat data, cfgW := d.cfgW ++ [{ lo := off.toNat, hi := off.toNat + data.length }] }))

/-- CONFIG_APPLY (R417-R419, R497). -/
def execConfigApply (p : Path) (s : State) : Host.Outcome State Fault Refusal :=
  .next (odReq s p 0x183100 (.configApply p)
    (odCmd s p 0x183100 (s.dev.state == .boot && s.dev.phase == 3) (firstAbort [(cfgOk s, abCHECK)]) cfgApply))

/-- BOOT_COMPLETE (R417). -/
def execBootComplete (s : State) : Host.Outcome State Fault Refusal := .next (bootDone s)

/-- BOOT_WAIT_TIMEOUT (R418): raised once, 60 s of fabric time, which counts from the boot, after phase 2. -/
def execBootWaitTimeout (s : State) : Host.Outcome State Fault Refusal :=
  .next (if s.dev.state = .boot ∧ 2 ≤ s.dev.phase ∧ s.dev.phase ≤ 3 ∧ !s.dev.bootLate ∧ 60000000000 ≤ s.now then
    raise (s.mapDev fun d => { d with bootLate := true }) 0x0D05 0x10 [s.dev.phase] else s)

/-- WATCHDOG_EXPIRE (R499). -/
def execWatchdogExpire (h : Fin 4) (s : State) : Host.Outcome State Fault Refusal :=
  .next (if s.dev.state = .off ∨ s.dev.state = .boot then s else watchdog s h.val)

/-- FW_UPDATE_WRITE (R501): the first write of an update begins with an empty bank (log 25). -/
def execFwUpdateWrite (p : Path) (off : BitVec 32) (data : List Byte) (s : State) : Host.Outcome State Fault Refusal :=
  .next (odReq s p 0x182300 (.fwUpdateWrite p off data)
    (odCmd s p 0x182300 (s.dev.state != .boot && (s.mgm.upd == .idle || s.mgm.upd == .filling))
    (firstAbort [(decide (off.toNat + data.length ≤ fwBankBytes), abPASTEND)]) fun s =>
      let b := otherBank s
      let s := if s.mgm.upd = .idle then s.mapDev fun d => { d with fw := fset d.fw [] b [], fwLen := fset d.fwLen 0 b 0 } else s
      (fwWrite s b off.toNat data).mapMgm fun m => { m with upd := .filling }))

/-- FW_UPDATE_CANCEL (Table 15-6): the bank's contents are discarded. -/
def execFwUpdateCancel (p : Path) (s : State) : Host.Outcome State Fault Refusal :=
  .next (odReq s p 0x182400 (.fwUpdateCancel p)
    (updCmd s p [.filling, .checked] 0 fun s =>
    let b := otherBank s
    (s.mapDev fun d => { d with fw := fset d.fw [] b [], fwLen := fset d.fwLen 0 b 0 }).mapMgm fun m => { m with upd := .idle }))

/-- FW_UPDATE_CHECK (R501). -/
def execFwUpdateCheck (p : Path) (s : State) : Host.Outcome State Fault Refusal :=
  .next (odReq s p 0x182400 (.fwUpdateCheck p)
    (updCmd s p [.filling] (firstAbort [(updOk s, abCHECK)]) fun s =>
    let b := otherBank s
    let fw := fwBytes s b
    let s := fwMeasure s 0x11 b
    (s.mapDev fun d => { d with fwVer := fset d.fwVer 0 b (Config.firmwareVersion fw) }).mapMgm fun m => { m with upd := .checked }))

/-- FW_UPDATE_SWITCH (Table 15-6): each role in turn passes to a hart started on the new bank, standby harts first. -/
def execFwUpdateSwitch (p : Path) (s : State) : Host.Outcome State Fault Refusal :=
  .next (odReq s p 0x182400 (.fwUpdateSwitch p)
    (updCmd s p [.checked] 0 fun s =>
    let b := otherBank s
    let s := handOvers s b (activeHarts s) (standbyHarts s)
    let s := { s with tru := { s.tru with signers := firmwareKeys (fwBytes s b) } }
    raise (s.mapMgm fun m => { m with upd := .trial, updAt := s.now }) 0x0F09 0x10 [b]))

/-- FW_UPDATE_CONFIRM (Table 15-6). -/
def execFwUpdateConfirm (p : Path) (s : State) : Host.Outcome State Fault Refusal :=
  .next (odReq s p 0x182400 (.fwUpdateConfirm p) (updCmd s p [.trial] 0 trialKeep))

/-- FW_TRIAL_TIMEOUT (Table 15-6): 60 s of trial have passed. -/
def execFwTrialTimeout (s : State) : Host.Outcome State Fault Refusal := .next (if s.mgm.upd = .trial ∧ s.mgm.updAt + 60000000000 ≤ s.now then trialKeep s else s)

end Sys2Proof.Machine
end

