-- ==== Sys2Proof/Machine/Management.lean ====
section
/-! DEFINITION. The interrupt controller (R443-R449): the meanings of CLAIM, COMPLETE, ISWSET and HOLDOFF_EXPIRE, and the registers of Tables
13-14 to 13-16 as a bus master of the management address space reads and writes them. -/

namespace Sys2Proof.Machine

/-- Whether a hart executes: the device is not in OFF, and the hart is not fenced (R499, R563). -/
def hartRuns (s : State) (h : Nat) : Bool := s.dev.state != .off && decide ((s.hart h).role < 4)

/-- A read of `CLAIM` of hart `h` (R446): the deliverable source of highest priority becomes active on the hart; bit 8 is 0 if there is
none. DESIGN CHOICE (log 75): a hart whose claim answers none has no more to do and waits in WFI (R449). -/
def claimOn (s : State) (h : Nat) : State :=
  match bestSrc s h with
  | some i =>
    let s := s.mapSrc i fun x => { x with pending := false, active := true }
    s.mapHart h fun x => { x with claimed := x.claimed ++ [i], claimRd := BitVec.ofNat 9 (256 + i) }
  | none => s.mapHart h fun x => { x with claimRd := 0#9, wfi := true }

/-- A write of source `i` to `COMPLETE` of hart `h` (R446-R448): the source is no longer active, its group's hold-off runs from here; a source that
is not active on the hart is ignored with event 0x0D07. -/
def completeOn (s : State) (h i : Nat) : State :=
  if (s.hart h).claimed.contains i then
    let s := s.mapSrc i fun x => { x with active := false, heldOff := false }
    let s := s.mapHart h fun x => { x with claimed := x.claimed.erase i }
    wfiWakes (s.mapMgm fun m => { m with lastComp := fset m.lastComp 0 (i / 16) (s.now + 1) })
  else raise s 0x0D07 0x10 [h, i]

/-- A write to `ISWSET` (R444): bit i sets input i of group 14, and the group has the direct lines 4 to 15 (Table 13-13). -/
def iswset (s : State) (v : Nat) : State := s.each (indices 16 fun i => decide (4 ≤ i) && bit v i) fun s i => pendLine s 14 i

/-- The value of `ISRC` of a source (Table 13-14). -/
def isrcValue (x : ISrc) : Nat :=
  (if x.pending then 65536 else 0) + (if x.active then 131072 else 0) + 16 * x.target.toNat + x.prio % 16

/-- A read of a 32-bit register of the interrupt controller at its offset from 0x0C00_0000 (R444): the value, and the state after it. -/
def intcRead (s : State) (a : Nat) : Nat × State :=
  if a < 1024 then (isrcValue (s.isrc (a / 4)), s)
  else if a < 1088 then (fget s.mgm.hold 0 ((a - 1024) / 4), s)
  else if 2048 ≤ a ∧ a < 2304 then
    let h := (a - 2048) / 64
    match a % 64 / 4 with
    | 0 => ((s.hart h).thresh, s)
    | 1 => let t := claimOn s h
      ((t.hart h).claimRd.toNat, t)
    | 3 => (hartLevel s h, s)
    | _ => (0, s)
  else (0, s)

/-- A write of a 32-bit register of the interrupt controller (R444); reserved bits and read-only fields take nothing (R14). -/
def intcWrite (s : State) (a v : Nat) : State :=
  if a < 1024 then wfiWakes (s.mapSrc (a / 4) fun x => { x with target := BitVec.ofNat 4 (bits v 7 4), prio := bits v 3 0 })
  else if a < 1088 then s.mapMgm fun m => { m with hold := fset m.hold 0 ((a - 1024) / 4) (bits v 15 0) }
  else if a = 1280 then iswset s v
  else if 2048 ≤ a ∧ a < 2304 then
    let h := (a - 2048) / 64
    match a % 64 / 4 with
    | 0 => wfiWakes (s.mapHart h fun x => { x with thresh := bits v 3 0 })
    | 2 => completeOn s h (bits v 7 0)
    | _ => s
  else s

/-! ### Meanings -/

/-- CLAIM (R446). -/
def execClaim (h : Fin 4) (s : State) : Host.Outcome State Fault Refusal := .next (if hartRuns s h.val then claimOn s h.val else s)

/-- COMPLETE (R446, R447). -/
def execComplete (h : Fin 4) (src : Fin 256) (s : State) : Host.Outcome State Fault Refusal :=
  .next (if hartRuns s h.val then completeOn s h.val src.val else s)

/-- ISWSET (R444). -/
def execIswset (v : BitVec 32) (s : State) : Host.Outcome State Fault Refusal := .next (if s.dev.state = .off then s else iswset s v.toNat)

/-- HOLDOFF_EXPIRE (R447): once the hold-off has passed the source is deliverable again, and a hart that waits for it resumes (R449). -/
def execHoldoffExpire (src : Fin 256) (s : State) : Host.Outcome State Fault Refusal :=
  .next (if holdOn s (src.val / 16) then s else wfiWakes (s.mapSrc src.val fun x => { x with heldOff := false }))

end Sys2Proof.Machine
end

