-- ==== Sys2Proof/Machine/Trust.lean ====
section
/-! DEFINITION. Quotes, the feed and the Gauge (R513-R528) and the event recorder's store (R530-R534): the meanings of QUOTE_REQUEST, QUOTE_SIGNED,
IDENT_SEND, GAUGE_*, FEED_RECORD, STATEMENT_SIGNED, EVENT_RECORD_STORE and CURSOR_WRITE. -/

namespace Sys2Proof.Machine

/-! ### Quotes (R513, R514) -/

/-- Measurement register `i` (R508). -/
def mrBytes (s : State) (i : Nat) : List Byte := fget s.tru.mr (List.replicate 64 0#8) i

/-- Bytes 0 to 703 of a quote (Table 16-3). -/
def quoteBody (s : State) (nonce : List Byte) : List Byte :=
  leBytes 4 0x51544F51 ++ leBytes 2 1 ++ leBytes 2 0xD009 ++ leBytes 1 (steppingByte s) ++ leBytes 1 (stateCode s.dev.state) ++
  leBytes 2 s.dev.lat ++ leBytes 4 0 ++ padTo 32 nonce ++ leBytes 8 s.now ++ leBytes 4 s.tru.logSeq ++ leBytes 4 0 ++ padTo 64 (idKeyBytes s) ++
  ((List.range 8).map fun i => padTo 64 (mrBytes s i)).flatten ++ List.replicate 64 0#8

/-- A quote is requested: the snapshot is taken, the quote reads zero until it is signed (R514). -/
def quoteStart (s : State) (nonce : List Byte) : State :=
  { s with tru := { s.tru with quoteSt := 1, quoteSnap := quoteBody s nonce, quote := [] } }

/-- The quote is signed (R514). -/
def quoteSign (s : State) : State :=
  if s.tru.quoteSt = 1 then
    let b := s.tru.quoteSnap
    let q := b ++ slhSign slhF (attestKey s.tru.seed) b
    let s := { s with tru := { s.tru with quoteSt := 2, quote := q, quotes := sat32 s.tru.quotes } }
    raise s 0x1002 0x13 [s.tru.quotes]
  else s

/-! ### The Gauge: feed and counting (R518-R523) -/

/-- Changes the Gauge. -/
def State.mapGau (s : State) (f : Gauge → Gauge) : State := { s with gau := f s.gau }

/-- The Gauge's software identification (R524). -/
def gaugeRomBytes : List Byte := cfgBytes Config.gaugeRom 32

/-- The Gauge derives its key (R516) and begins a new epoch (R518). The copies in the main die and the presence of the reference are not the Gauge's. -/
def epochStart (s : State) : State :=
  s.mapGau fun g =>
    { on := true, seed := pufSeed 1, epoch := cfgBytes (Config.gaugeRandom g.epochs) 16, epochs := g.epochs + 1, refAbs := g.refAbs
      flags := if g.refAbs then 1#16 else 0#16, resp := g.resp, mirror := g.mirror, mirrorAt := g.mirrorAt, mirrorLate := g.mirrorLate }

/-- The supply falls: every count, time and statement of the epoch is lost (R518). -/
def gaugeOff (s : State) : State :=
  s.mapGau fun g =>
    { epochs := g.epochs, refAbs := g.refAbs, resp := g.resp, mirror := g.mirror, mirrorAt := g.mirrorAt, mirrorLate := g.mirrorLate }

/-- The main die's send buffer after a record has left it: the record itself, with every earlier one that the link lost; a record that arrives
damaged is the oldest one. -/
def feedSent (l : List FeedRec) (bs : List Byte) : List FeedRec :=
  if l.any (fun r => feedBytes r == bs) then (l.dropWhile fun r => feedBytes r != bs).drop 1 else l.drop 1

/-- Whether a received record is whole: its length and its CRC-32 (R519, R521). -/
def feedOk (bs : List Byte) : Bool :=
  decide (12 ≤ bs.length) && bs.length == 12 + fieldAt bs 6 2 && fieldAt bs (bs.length - 4) 4 == (crc32 (bs.take (bs.length - 4))).toNat

/-- Counts the payload of a record into the interval (R521-R523, Table 16-4). -/
def feedCount (g : Gauge) (typ : Nat) (p : List Byte) : Gauge :=
  match typ with
  | 1 => { g with mainId := p.take 32 }
  | 2 =>
    let e := fieldAt p 8 8
    { g with ledger := g.ledger + e, steps := g.steps ++ [(e, (List.range 128).map fun i => fieldAt p (20 + 2 * i) 2)] }
  | 3 => { g with ledger := g.ledger + fieldAt p 0 8 }
  | 4 =>
    (List.range (fieldAt p 8 2)).foldl (fun g i =>
      let t := fieldAt p (12 + 8 * i) 2
      let n := fieldAt p (16 + 8 * i) 4
      { g with tok := fset g.tok 0 t (fget g.tok 0 t + n), tokSum := fset g.tokSum 0 t (fget g.tokSum 0 t + n) }) g
  | _ => g

/-- The sequence check of a whole record (R521): an `IDENT` with `SEQ` 0 starts a new feed, any other record counts the numbers it skips. -/
def feedSeqCheck (g : Gauge) (q typ : Nat) : Gauge :=
  if typ = 1 ∧ q = 0 then { g with seqExp := 1, flags := g.flags ||| 4#16 }
  else
    let miss := q - g.seqExp
    { g with seqExp := (q + 1) % 2 ^ 32, gaps := g.gaps + miss, gapsE := sat32n g.gapsE miss }

/-- The Gauge receives one record (R521). -/
def feedTake (s : State) (bs : List Byte) : State :=
  let s := if s.dev.state = .off then s else { s with tru := { s.tru with feed := feedSent s.tru.feed bs } }
  if !s.gau.on then s
  else s.mapGau fun g =>
    if feedOk bs then feedCount (feedSeqCheck g (fieldAt bs 0 4) (fieldAt bs 4 1)) (fieldAt bs 4 1) ((bs.drop 8).take (fieldAt bs 6 2))
    else { g with badcrc := g.badcrc + 1, badE := sat32 g.badE }

/-! ### Statements (R523-R525) -/

/-- A common multiple of every number of occupied slots, 1 to 128. -/
def occLcm : Nat := (List.range 128).foldl (fun a i => Nat.lcm a (i + 1)) 1

/-- Number of occupied slots of a `STEP` record. -/
def occOf (ts : List Nat) : Nat := (ts.filter fun t => t != 0xFFFF).length

/-- W_t times the common multiple (R523). -/
def tenantW (g : Gauge) (t : Nat) : Nat :=
  sumN (g.steps.map fun p => if occOf p.2 = 0 then 0 else p.1 * (p.2.filter fun x => x == t).length * (occLcm / occOf p.2))

/-- Energy of a tenant in the interval (R523): the floor of G × W_t / L. -/
def tenantNrg (g : Gauge) (e t : Nat) : Nat := if g.ledger = 0 then 0 else e * tenantW g t / (g.ledger * occLcm)

/-- Tenants that hold a slot in some record of the interval. -/
def tenantsSeen (g : Gauge) : List Nat := uniq ((g.steps.flatMap fun p => p.2).filter fun t => t != 0xFFFF)

/-- The statement of an interval without its signature, `PREV` zero (Tables 16-6 and 16-7). -/
def statementBody (g : Gauge) (flags e tend : Nat) (nrgSum : FMap Nat) : List Byte :=
  let ts := (uniq (g.tokSum.map (·.1) ++ nrgSum.map (·.1))).mergeSort
  let spent := sumN ((tenantsSeen g).map (tenantNrg g e))
  leBytes 4 0x47415547 ++ leBytes 2 1 ++ leBytes 2 flags ++ padTo 16 g.epoch ++ leBytes 8 g.seq ++ leBytes 8 g.tstart ++ leBytes 8 tend ++
  padTo 32 g.mainId ++ List.replicate 32 0#8 ++ leBytes 8 e ++ leBytes 8 (e - spent) ++ leBytes 4 (min g.gaps 0xFFFFFFFF) ++
  leBytes 4 (min g.badcrc 0xFFFFFFFF) ++ leBytes 4 ts.length ++ leBytes 4 0 ++ gaugeRomBytes ++ List.replicate 16 0#8 ++
  (ts.map fun t => leBytes 2 t ++ List.replicate 6 0#8 ++ leBytes 8 (fget g.tok 0 t) ++ leBytes 8 (tenantNrg g e t) ++
    leBytes 8 (fget g.tokSum 0 t) ++ leBytes 8 (fget nrgSum 0 t)).flatten

/-- The interval closes at Gauge time `tend` with the measured energy `e` (R524); the next one begins. -/
def intervalClose (g : Gauge) (e tend : Nat) (request selfOk : Bool) : Gauge :=
  let flags := g.flags.toNat ||| (if request then 2 else 0) ||| (if selfOk then 0 else 8)
  let ns := (tenantsSeen g).foldl (fun m t => fset m 0 t (fget m 0 t + tenantNrg g e t)) g.nrgSum
  { g with
    toSign := g.toSign ++ [{ seq := g.seq, body := statementBody g flags e tend ns }], seq := g.seq + 1, nrgSum := ns, tok := [], steps := []
    ledger := 0, gaps := 0, badcrc := 0, tstart := tend, flags := if g.refAbs then 1#16 else 0#16 }

/-- A regular close: 60,000 ms of Gauge time after the previous one (R524). -/
def closeRegular (g : Gauge) (e : Nat) (selfOk : Bool) : Gauge :=
  if g.tstart + 60000 ≤ g.time then intervalClose g e (g.tstart + 60000) false selfOk else g

/-- The oldest closed statement is signed and stored (R524). -/
def statementSign (g : Gauge) : Gauge :=
  match g.toSign with
  | [] => g
  | st :: r =>
    let prev := if st.seq = 0 then List.replicate 32 0#8 else shake32 g.prev
    let b := st.body.take 80 ++ prev ++ st.body.drop 112
    let full := b ++ slhSign slhS (gaugeKeyOf g.seed) b
    { g with toSign := r, prev := full, last := st.seq, places := fset g.places [] (st.seq % 32 + 1) full }

/-! ### The mirror (R527) -/

/-- The Gauge's objects other than 0x9030:00, key = index × 256 + subindex. -/
def gaugeObjs (g : Gauge) : FMap (List Byte) :=
  [(0x900000, gaugePub g.seed), (0x900100, gaugeRomBytes), (0x900200, padTo 16 g.epoch), (0x900300, leBytes 8 g.time), (0x900400, padTo 32 g.mainId)] ++
  ((g.places.map fun p => (0x901000 + p.1, p.2)) ++
  [(0x901100, leBytes 8 g.last), (0x901201, leBytes 4 g.gapsE), (0x901202, leBytes 4 g.badE)])

/-- Number of tenant entries, signature's offset and number of a statement. -/
def stSigOff (b : List Byte) : Nat := 192 + 40 * fieldAt b 136 4
def stSeq (b : List Byte) : Nat := fieldAt b 24 8

/-- Whether a mirrored statement passes hart 1's check: its `PREV` against the statement before it, where the mirror holds that one, and its
signature (R527). -/
def statementOk (m : FMap (List Byte)) (b : List Byte) : Bool :=
  let q := stSeq b
  let old := fget m [] (0x901000 + (q - 1) % 32 + 1)
  let prev := (b.drop 80).take 32
  (if q = 0 then prev == List.replicate 32 0#8
    else stSeq old != q - 1 || (old.drop 8).take 16 != (b.drop 8).take 16 || old.isEmpty || prev == shake32 old) &&
  slhVerify slhS (fget m [] 0x900000) (b.take (stSigOff b)) (b.drop (stSigOff b))

/-- Hart 1's copy of the Gauge's objects (R527). -/
def mirrorCopy (s : State) : State :=
  let old := s.gau.mirror
  let new := gaugeObjs s.gau
  let s := s.mapGau fun g => { g with mirror := new, mirrorAt := s.now, mirrorLate := false }
  let fresh := s.gau.places.filter fun p => fget old [] (0x901000 + p.1) != p.2
  s.each fresh fun s p => if statementOk new p.2 then s else raise s 0x1003 0x10 [stSeq p.2]

/-- A copy that the Gauge does not answer (R527). -/
def mirrorMiss (s : State) : State :=
  if s.gau.mirrorAt + 10000000000 ≤ s.now ∧ !s.gau.mirrorLate then raise (s.mapGau fun g => { g with mirrorLate := true }) 0x1004 0x10 [] else s

/-! ### The event recorder's store (R530-R534) -/

/-- Records the store holds: 32,768 cells of 2 cells a record (R530, R532). -/
def storeMax : Nat := 16384

/-- The record a unit sends next: severity 3 first, then the oldest (R533); and the records that remain held. -/
def nextHeld (q : List EvRec) : Option (EvRec × List EvRec) :=
  match q.find? fun r => r.sev == 3 with
  | some r => some (r, dropFirstSev 3 q)
  | none =>
    match q with
    | [] => none
    | r :: t => some (r, t)

/-- Removes the oldest stored record of severity at most `v`. -/
def freeOldest (v : Nat) : List EvRec → Option (EvRec × List EvRec)
  | [] => none
  | r :: q => if r.sev ≤ v then some (r, q) else (freeOldest v q).map fun p => (p.1, r :: p.2)

/-- Stores a record with the next `SEQ` (R531), and pends its interrupt (R443, R533). -/
def storePut (s : State) (r : EvRec) : State :=
  let x := { r with seq := s.evr.next }
  let s := { s with evr := { s.evr with store := s.evr.store ++ [x], next := s.evr.next + 1 } }
  let s := pendLine s (evGroup (r.id / 256)) r.sev
  if s.dbg.brkId ≠ 0 ∧ s.dbg.brkId = r.id then { s with dbg := { s.dbg with brkIdHit := true } } else s

/-- A record arrives at the recorder (R532). -/
def storeRec (s : State) (r : EvRec) : State :=
  if s.evr.store.length < storeMax then storePut s r
  else match freeOldest r.sev s.evr.store with
    | some (o, q) => storePut { s with evr := { s.evr with store := q, overs := fmod s.evr.overs 0 o.sev sat32 } } r
    | none => countDrop s r.sev

/-- Node `n` delivers the record it sends next (R533). -/
def storeFrom (s : State) (n : Nat) : State :=
  match nextHeld (fget s.evr.held [] n) with
  | some (r, q) => storeRec { s with evr := { s.evr with held := fset s.evr.held [] n q } } r
  | none => s

/-- An event record's 128 bytes (Table 17-1). -/
def recBytes (r : EvRec) : List Byte :=
  leBytes 1 2 ++ leBytes 1 (r.sev % 4 + (if r.scyc.isSome then 4 else 0) + (if r.replay then 8 else 0)) ++ leBytes 2 r.id ++ leBytes 1 r.node ++
  leBytes 3 0 ++ leBytes 8 r.seq ++ leBytes 8 r.tick ++ leBytes 8 (r.scyc.getD 0) ++ padTo 96 (r.items.map (leBytes 8)).flatten

/-- Latches the window of a path's cursor (R534, Table 17-2); the lowest `SEQ` of an empty store is a free value. -/
def latch (s : State) (k : Nat) (cur : Nat) : State :=
  let (fr, s) := if s.evr.store.isEmpty then takeFreeNat s 64 else (0, s)
  let first := match s.evr.store.head? with
    | some r => r.seq
    | none => fr
  let rs := (s.evr.store.filter fun r => decide (cur ≤ r.seq)).take 63
  let n := fget s.evr.wseq 0 k + 1
  let w := leBytes 4 n ++ leBytes 2 rs.length ++ leBytes 2 0 ++ leBytes 8 first ++ leBytes 8 s.evr.next ++ leBytes 8 cur ++ (rs.map recBytes).flatten
  { s with evr := { s.evr with wseq := fset s.evr.wseq 0 k (n % 2 ^ 32), window := fset s.evr.window [] k w, cursor := fset s.evr.cursor 0 k cur } }

/-- Cursor number of a path: 0x7010:01 is the Tributary port's, 0x7010:02 the management segment's. -/
def curKey : Path → Nat
  | .tributary => 1
  | .segment => 2

/-! ### Meanings -/

/-- QUOTE_REQUEST (R513): a nonce of 32 bytes. -/
def execQuoteRequest (p : Path) (nonce : List Byte) (s : State) : Host.Outcome State Fault Refusal :=
  .next (odReq s p 0x802000 (.quoteRequest p nonce)
    (odCmd s p 0x802000 true (firstAbort [(decide (nonce.length ≤ 32), abPASTEND), (nonce.length == 32, abBADLEN), (s.tru.quoteSt != 1, abNOTAVAIL)])
    fun s => quoteStart s nonce))

/-- QUOTE_SIGNED (R514). -/
def execQuoteSigned (s : State) : Host.Outcome State Fault Refusal := .next (if powered s then quoteSign s else s)

/-- IDENT_SEND (R519): every 1 s. -/
def execIdentSend (s : State) : Host.Outcome State Fault Refusal :=
  .next (if powered s ∧ s.tru.identAt + 1000000000 ≤ s.now then
    let s := feedPut s (.ident (idDigest s) (steppingByte s))
    { s with tru := { s.tru with identAt := s.now } }
  else s)

/-- GAUGE_POWER_UP (R518). -/
def execGaugePowerUp (s : State) : Host.Outcome State Fault Refusal := .next (if s.gau.on then s else epochStart s)

/-- FEED_RECORD (R521). -/
def execFeedRecord (rec_ : List Byte) (s : State) : Host.Outcome State Fault Refusal := .next (feedTake s rec_)

/-- GAUGE_INTERVAL_CLOSE (R524): `g` is the energy G of R523, `selfOk` the result of the sense's self-check. -/
def execGaugeIntervalClose (g : Nat) (selfOk : Bool) (s : State) : Host.Outcome State Fault Refusal :=
  .next (if s.gau.on then s.mapGau fun x => closeRegular x g selfOk else s)

/-- GAUGE_CLOSE_REQUEST (R524, R526): a write of 0x9030:00 at the Gauge's node. -/
def execGaugeCloseRequest (v : BitVec 8) (g : Nat) (selfOk : Bool) (s : State) : Host.Outcome State Fault Refusal :=
  .next (if !s.gau.on then s
    else s.mapGau fun x =>
      let ab := firstAbort [(v == 1#8, abBADVALUE), (x.seq == 0 || decide (x.tstart + 1000 ≤ x.time), abNOTAVAIL)]
      let x := if ab = 0 then intervalClose x g x.time true selfOk else x
      { x with resp := x.resp ++ [{ path := .segment, typ := 0x382, index := 0x9030, abort := ab }] })

/-- STATEMENT_SIGNED (R524). -/
def execStatementSigned (s : State) : Host.Outcome State Fault Refusal := .next (if s.gau.on then s.mapGau statementSign else s)

/-- GAUGE_MIRROR (R527): firmware runs from the end of boot. -/
def execGaugeMirror (answers : Bool) (s : State) : Host.Outcome State Fault Refusal :=
  .next (if s.dev.state = .off ∨ s.dev.state = .boot then s else if answers ∧ s.gau.on then mirrorCopy s else mirrorMiss s)

/-- EVENT_RECORD_STORE (R532). -/
def execEventRecordStore (node : Fin 64) (s : State) : Host.Outcome State Fault Refusal := .next (if powered s then storeFrom s node.val else s)

/-- CURSOR_WRITE (R534). -/
def execCursorWrite (p : Path) (v : BitVec 64) (s : State) : Host.Outcome State Fault Refusal :=
  .next (odReq s p (0x701000 + curKey p) (.cursorWrite p v)
    (odCmd s p (0x701000 + curKey p) true 0 fun s => latch s (curKey p) v.toNat))

/-- GAUGE_SUPPLY_LOSS (R518). -/
def execGaugeSupplyLoss (s : State) : Host.Outcome State Fault Refusal := .next (if s.gau.on then gaugeOff s else s)

/-- GAUGE_REFERENCE_LOST (R517). -/
def execGaugeReferenceLost (s : State) : Host.Outcome State Fault Refusal :=
  .next (s.mapGau fun g => { g with refAbs := true, flags := if g.on then g.flags ||| 1#16 else g.flags })

/-- GAUGE_REFERENCE_RESTORED (R517): the flag of the interval stays. -/
def execGaugeReferenceRestored (s : State) : Host.Outcome State Fault Refusal := .next (s.mapGau fun g => { g with refAbs := false })

end Sys2Proof.Machine
end

