-- ==== Sys2Proof/Machine/Debug.lean ====
section
/-! DEFINITION. Debug access (R544-R551) and the JTAG port (R548-R550, R573): the meanings of DEBUG_*, BREAK and the JTAG instructions. -/

namespace Sys2Proof.Machine

/-- Changes the debug state. -/
def State.mapDbg (s : State) (f : Debug → Debug) : State := { s with dbg := f s.dbg }

/-! ### Halt, resume, step (R544, R545) -/

/-- States in which codes 1 and 2 are served (Table 17-6). -/
def dbgLive (s : State) : Bool := !s.dev.busy && (s.dev.state == .running || s.dev.state == .draining)

/-- Whether codes 3 to 5 are served: HALTED entered by a debug halt (Table 17-6). -/
def dbgHeld (s : State) : Bool := !s.dev.busy && s.dev.state == .halted && s.dev.dbgHalt

/-- Resume (R544): the state in 0x1800:03, cause 12 ends 4 W-cycles after the command. -/
def dbgResume (s : State) : State :=
  let s := setState0 s (if s.dev.saved = 6 then .draining else .running)
  endCause (s.mapDev fun d => { d with dbgHalt := false }) 12 0 4

/-- Runs `n` S-cycles, then halts (Table 17-6). -/
def dbgStep (s : State) (n : Nat) : State := (dbgResume s).mapDbg fun d => { d with haltS := some (s.sch.sCycle + n) }

/-- Halts at the end of the next Weir with a cause (R544, R50). -/
def dbgAtWeir (s : State) (cause : Nat) : State := s.mapDbg fun d => { d with haltWeir := some cause }

/-- One command of Table 17-6 with the halt cause of codes 1 and 2; in a state that the table does not name nothing happens. -/
def dbgCode (s : State) (code cause n : Nat) : State :=
  match code with
  | 1 => if dbgLive s then debugHalt s cause else s
  | 2 => if dbgLive s then dbgAtWeir s cause else s
  | 3 => if dbgHeld s then dbgResume s else s
  | 4 => if dbgHeld s then dbgStep s n else s
  | 5 => if dbgHeld s then dbgAtWeir (dbgResume s) 2 else s
  | _ => s

/-- A write of a code of Table 17-6 to 0xA000:01. -/
def dbgCmd (s : State) (p : Path) (code : Nat) : State :=
  odCmd s p 0xA00001 (if code ≤ 2 then dbgLive s else dbgHeld s) 0 fun s => dbgCode s code 1 s.dbg.steps

/-- An armed break that is due now (R545): 0 the step whose Weir has ended, 1 the S-cycle about to begin, 2 a stored record's event ID. -/
def breakDue (s : State) (k : Nat) : Bool :=
  match k with
  | 0 => s.dbg.brkStep != 0 && s.sch.stepNo == s.dbg.brkStep + 1 && s.sch.sCycle == s.sch.base
  | 1 => s.dbg.brkS != 0 && s.sch.sCycle == s.dbg.brkS
  | _ => s.dbg.brkId != 0 && s.dbg.brkIdHit

/-- A break fires (R545). -/
def breakFire (s : State) (k : Nat) : State :=
  if dbgLive s && sRun s && breakDue s k then debugHalt (s.mapDbg fun d => { d with brkIdHit := false }) (3 + k) else s

/-! ### Debug data (R546, R547) -/

/-- Kind, core, pool and address of a target. -/
def tgKind (t : Nat) : Nat := bits t 63 60
def tgCl (t : Nat) : Nat := bits t 59 56
def tgSlot (t : Nat) : Nat := bits t 55 52
def tgCore (t : Nat) : Nat := 12 * tgCl t + tgSlot t
def tgAddr (t : Nat) : Nat := bits t 31 0

/-- Whether a target names something: kinds 1 to 5, and a logical slot that exists. -/
def targetOk (t : Nat) : Bool := decide (1 ≤ tgKind t ∧ tgKind t ≤ 5) && (tgKind t == 2 || decide (tgSlot t < 12))

/-- First byte of a target in its memory or layout. -/
def tgBase (t : Nat) : Nat := if tgKind t ≤ 2 then 4 * tgAddr t else tgAddr t

/-- One mask byte of a core (R215): 4E bytes a mask register. -/
def maskByte (k : Core) (c i : Nat) : Byte :=
  let m := i / (4 * lanes c)
  let j := i % (4 * lanes c)
  BitVec.ofNat 8 (sumN ((List.range 8).map fun b => if fget k.mreg false (4096 * m + 8 * j + b) then 2 ^ b else 0))

/-- Writes one mask byte. -/
def maskByteSet (c i : Nat) (v : Byte) (k : Core) : Core :=
  let m := i / (4 * lanes c)
  let j := i % (4 * lanes c)
  { k with mreg := (List.range 8).foldl (fun (mm : FMap Bool) b => fset mm false (4096 * m + 8 * j + b) (v.getLsbD b)) k.mreg }

/-- Byte `i` of the flags in the layout of 0x2050:n. -/
def flagByte (k : Core) (i : Nat) : Byte := byteAt (leBytes 2 (fget k.flags 0 (i / 2))) (i % 2)

/-- Byte `i` of the scalar registers in the layout of 0x2051:n; s0 reads 0. -/
def sregByte (k : Core) (i : Nat) : Byte := if i / 4 = 0 then 0#8 else byteAt (leBytes 4 (fget k.sregs 0#32 (i / 4)).toNat) (i % 4)

/-- Byte `i` of the vector registers and masks in the layout of 0x2082:n. -/
def vecByte (k : Core) (c i : Nat) : Byte :=
  if i < 128 * lanes c then mget k.vreg i else if i < 160 * lanes c then maskByte k c (i - 128 * lanes c) else 0#8

/-- Reads `n` bytes of a debug target from byte `o` on; bytes past its end read 0. -/
def dbgRead (s : State) (t o n : Nat) : List Byte :=
  let c := tgCore t
  let b := tgBase t + o
  match tgKind t with
  | 1 => (List.range n).map fun i => if b + i < spadBytes c then byteAt (spadRead s c (b + i) 1) 0 else 0#8
  | 2 => (List.range n).map fun i => if b + i < poolBytes then byteAt (poolRead s (tgCl t) (b + i) 1) 0 else 0#8
  | 3 => (List.range n).map fun i => if b + i < 128 then flagByte (s.core c) (b + i) else 0#8
  | 4 => (List.range n).map fun i => if b + i < 128 then sregByte (s.core c) (b + i) else 0#8
  | _ => (List.range n).map fun i => vecByte (s.core c) c (b + i)

/-- Writes one byte of a register target; s0 takes nothing (R90). -/
def dbgPut (kind c i : Nat) (v : Byte) (k : Core) : Core :=
  let part := fun (old i : Nat) => old - bits old (8 * i + 7) (8 * i) * 2 ^ (8 * i) + v.toNat * 2 ^ (8 * i)
  match kind with
  | 3 => if i < 128 then { k with flags := fset k.flags 0 (i / 2) (part (fget k.flags 0 (i / 2)) (i % 2)) } else k
  | 4 =>
    if 4 ≤ i ∧ i < 128 then
      let w := part (fget k.sregs 0#32 (i / 4)).toNat (i % 4)
      { k with sregs := fset k.sregs 0#32 (i / 4) (BitVec.ofNat 32 w) }
    else k
  | _ =>
    if i < 128 * lanes c then { k with vreg := mset k.vreg i v } else if i < 160 * lanes c then maskByteSet c (i - 128 * lanes c) v k else k

/-- Writes bytes to a debug target from byte `o` on; bytes past its end are dropped. -/
def dbgStore (s : State) (t o : Nat) (bs : List Byte) : State :=
  let c := tgCore t
  let b := tgBase t + o
  match tgKind t with
  | 1 => (spadWrite s c b (bs.take (spadBytes c - b))).1
  | 2 => (poolWrite s (tgCl t) b (bs.take (poolBytes - b))).1
  | kd => s.mapCore c fun k => (List.range bs.length).foldl (fun (k : Core) i => dbgPut kd c (b + i) (byteAt bs i) k) k

/-- A debug write (R547): the bytes, event 0x1107, the `DEBUGW` entry from the word of its first byte on, and MR7 with kind 3 for the first one since the last MR7 entry. -/
def dbgWriteTo (s : State) (t o : Nat) (bs : List Byte) : State :=
  let s := raise (dbgStore s t o bs) 0x1107 0x13 [t]
  let k := if tgKind t ≤ 2 then o % 4 else 0
  let tt := t - tgAddr t + (if tgKind t ≤ 2 then tgAddr t + o / 4 else tgAddr t + o)
  let s := inpAdd s 8 s.sch.sCycle (leBytes 8 tt ++ dbgRead s t (o - k) k ++ bs)
  if s.tru.dbgSince then s else measureDebug s 3

/-- A replayed `DEBUGW` entry (Table 17-5). -/
def replayDebug (s : State) (d : List Byte) : State := dbgStore s (fieldAt d 0 8) 0 (d.drop 8)

/-! ### JTAG (R548-R551) -/

/-- Levels of the boundary cells (R573): cells 0-5 RESET_N, PWRGOOD, PG_WARN_N, SLEEP_REQ_N, THERMTRIP_N, TEMP_CRIT_N, 6-8 SEGADDR, 9-12 the
remote-sense balls, whose sampled values are free. -/
def cellLevels (s : State) (sense : Nat) : BitVec 13 :=
  let p := s.pins
  let b := fun (x : Bool) (i : Nat) => if x then 2 ^ i else 0
  BitVec.ofNat 13 (b p.resetN 0 + b p.pwrgood 1 + b (!p.pgWarn) 2 + b (!p.sleepReq) 3 + b (!p.thermIn) 4 + b (!p.tempCrit) 5 + p.segaddr % 8 * 64 +
    sense * 512)

/-- Selects a JTAG instruction: leaving EXTEST makes the boundary cells transparent again. -/
def jtagIr (s : State) (code : Nat) : State :=
  let s := if s.dbg.drive then { s with pins := { s.pins with tempCrit := false } } else s
  s.mapDbg fun d => { d with ir := code, drive := false }

/-- Captures the boundary cells. -/
def captureCells (s : State) : State :=
  let (x, s) := takeFreeNat s 4
  s.mapDbg fun d => { d with dr := BitVec.ofNat 64 (cellLevels s x).toNat }

/-- A shift of DTMCS, DMI, CDBG or CMEM: the first since Test-Logic-Reset opens a debug session (R550). -/
def jtagSession (s : State) : State :=
  if s.dbg.session ∨ s.dev.state = .off then s
  else
    let s := measureDebug (s.mapDbg fun d => { d with session := true }) 1
    raise (pendLine s 12 4) 0x1108 0x13 []

/-! ### The debug module (R551; register layout of version 0.13.2 PRESUMED, log 11) -/

/-- One debug module register. Keys 128 and 129 hold data and address of the last access, 130 the resume acknowledgements. -/
def dmGet (s : State) (a : Nat) : Nat := (fget s.dbg.dmi 0#32 a).toNat
def dmSet (s : State) (a v : Nat) : State := s.mapDbg fun d => { d with dmi := fset d.dmi 0#32 a (BitVec.ofNat 32 v) }

/-- The hart that dmcontrol selects. -/
def dmSel (s : State) : Nat := bits (dmGet s 0x10) 25 16

/-- dmstatus. -/
def dmStatus (s : State) : Nat :=
  let h := dmSel s
  let x := s.hart h
  let b := fun (c : Bool) (i : Nat) => if c then 2 ^ i + 2 ^ (i + 1) else 0
  2 + 128 + (if h < 4 then b x.halted 8 + b (!x.halted) 10 + b (bit (dmGet s 130) h) 16 else b true 14)

/-- A write of dmcontrol: halt and resume of the selected hart. -/
def dmControl (s : State) (v : Nat) : State :=
  if !bit v 0 then s.mapDbg fun d => { d with dmi := [] }
  else
    let h := bits v 25 16
    let s := dmSet s 0x10 (h * 65536 + 1)
    if 4 ≤ h then s
    else if bit v 31 then s.mapHart h fun x => { x with halted := true }
    else if bit v 30 then dmSet (s.mapHart h fun x => { x with halted := false }) 130 (dmGet s 130 ||| 2 ^ h) else s

/-- Sets cmderr of abstractcs. -/
def dmErr (s : State) (e : Nat) : State := dmSet s 0x16 e

/-- Key of a CSR: tdata1 and tdata2 have one copy for each of the 4 triggers that tselect names. -/
def csrKey (x : Hart) (r : Nat) : Nat := if r = 0x7A1 ∨ r = 0x7A2 then r + 65536 * ((fget x.csr 0#64 0x7A0).toNat % 4) else r

/-- Reads or writes an integer register or CSR of a hart by its abstract register number. -/
def regGet (x : Hart) (r : Nat) : Nat := if r < 0x1000 then (fget x.csr 0#64 (csrKey x r)).toNat else (fget x.x 0#64 (r - 0x1000)).toNat
def regSet (x : Hart) (r v : Nat) : Hart :=
  if r < 0x1000 then { x with csr := fset x.csr 0#64 (csrKey x r) (BitVec.ofNat 64 v) }
  else if r = 0x1000 then x else { x with x := fset x.x 0#64 (r - 0x1000) (BitVec.ofNat 64 v) }

/-- The transfer of an access-register command; the Bool says whether it succeeded. -/
def dmTransfer (s : State) (v : Nat) : State × Bool :=
  let z := bits v 22 20
  let r := bits v 15 0
  let h := dmSel s
  let val := dmGet s 4 + (if z = 3 then dmGet s 5 * 2 ^ 32 else 0)
  if !bit v 17 then (s, true)
  else if z ≠ 2 ∧ z ≠ 3 then (dmErr s 2, false)
  else if 0x101F < r then (dmErr s 3, false)
  else if bit v 16 then (s.mapHart h fun x => regSet x r val, true)
  else
    let o := regGet (s.hart h) r
    let s := dmSet s 4 (o % 2 ^ 32)
    (if z = 3 then dmSet s 5 (o / 2 ^ 32) else s, true)

/-- The selected hart runs the program buffer (R551): the spec does not lay out what its instructions do, so the hart's integer registers and
whether an exception ends the program are free values (log 11). -/
def dmProgram (s : State) : State :=
  let h := dmSel s
  let s := s.each (List.range 31) fun s i =>
    let (n, s) := takeFreeNat s 64
    s.mapHart h fun x => regSet x (0x1001 + i) n
  let (e, s) := takeFreeNat s 1
  if e = 1 then dmErr s 3 else s

/-- An abstract command: access to a register of the selected hart, which must be halted, and after it the program buffer where bit 18 asks. -/
def dmCommand (s : State) (v : Nat) : State :=
  if dmGet s 0x16 ≠ 0 then s
  else if v / 2 ^ 24 ≠ 0 then dmErr s 2
  else if 4 ≤ dmSel s ∨ !(s.hart (dmSel s)).halted then dmErr s 4
  else
    match dmTransfer s v with
    | (s, true) => if bit v 18 then dmProgram s else s
    | (s, false) => s

/-- Address of the system bus. -/
def sbAddr (s : State) : Nat := dmGet s 0x39 + dmGet s 0x3A * 2 ^ 32

/-- Sets sberror; the other bits of sbcs stay. -/
def sbErr (s : State) (e : Nat) : State := let v := dmGet s 0x38; dmSet s 0x38 (v - bits v 14 12 * 4096 + e * 4096)

/-- After an access with sbautoincrement the address moves on. -/
def sbNext (s : State) (n : Nat) : State :=
  if bit (dmGet s 0x38) 16 then let a := sbAddr s + n; dmSet (dmSet s 0x39 (a % 2 ^ 32)) 0x3A (a / 2 ^ 32 % 2 ^ 32) else s

/-- One system bus access; of the management address space the spec lays out the interrupt controller alone (R444), and every other address gives
the module's bus error. -/
def sbAccess (s : State) (write : Bool) : State :=
  let z := bits (dmGet s 0x38) 19 17
  let n := if z = 3 then 8 else 4
  let a := sbAddr s
  let off := a - 0x0C000000
  if bits (dmGet s 0x38) 14 12 ≠ 0 then s
  else if z ≠ 2 ∧ z ≠ 3 then sbErr s 4
  else if a % n ≠ 0 then sbErr s 3
  else if a < 0x0C000000 ∨ 2304 ≤ off then sbErr s 2
  else if write then
    let s := intcWrite s off (dmGet s 0x3C)
    sbNext (if z = 3 then intcWrite s (off + 4) (dmGet s 0x3D) else s) n
  else
    let (v, s) := intcRead s off
    let s := dmSet s 0x3C v
    let (v, s) := if z = 3 then intcRead s (off + 4) else (dmGet s 0x3D, s)
    sbNext (dmSet s 0x3D v) n

/-- A read of a debug module register: the value and the state after it. -/
def dmRead (s : State) (a : Nat) : Nat × State :=
  match a with
  | 0x11 => (dmStatus s, s)
  | 0x16 => (8 * 2 ^ 24 + dmGet s 0x16 * 256 + 2, s)
  | 0x17 => (0, s)
  | 0x38 => (dmGet s 0x38 + 2 ^ 29 + 64 * 32 + 12, s)
  | 0x3C => (dmGet s 0x3C, if bit (dmGet s 0x38) 15 then sbAccess s false else s)
  | 0x40 => (sumN ((List.range 4).map fun h => if (s.hart h).halted then 2 ^ h else 0), s)
  | _ => (dmGet s a, s)

/-- A write of a debug module register. -/
def dmWrite (s : State) (a v : Nat) : State :=
  if a = 0x10 then dmControl s v
  else if !bit (dmGet s 0x10) 0 then s
  else match a with
    | 4 | 5 => dmSet s a v
    | 0x16 => let e := dmGet s 0x16; dmErr s (e - (e &&& bits v 10 8))
    | 0x17 => dmCommand s v
    | 0x38 =>
      let e := bits (dmGet s 0x38) 14 12
      dmSet s 0x38 (bits v 20 20 * 2 ^ 20 + bits v 19 15 * 2 ^ 15 + (e - (e &&& bits v 14 12)) * 4096)
    | 0x39 => let s := dmSet s 0x39 v; if bit (dmGet s 0x38) 20 then sbAccess s false else s
    | 0x3A | 0x3D => dmSet s a v
    | 0x3C => sbAccess (dmSet s 0x3C v) true
    | _ => if 0x20 ≤ a ∧ a < 0x28 then dmSet s a v else s

/-- One scan of DMI: it returns address and data of the access before it and makes the access it carries. -/
def dmiScan (s : State) (v : Nat) : State :=
  let prev := dmGet s 129 * 2 ^ 34 + dmGet s 128 * 4
  let a := bits v 40 34
  let d := bits v 33 2
  let s := s.mapDbg fun x => { x with dr := BitVec.ofNat 64 prev }
  match bits v 1 0 with
  | 1 => let (r, s) := dmRead s a; dmSet (dmSet s 128 r) 129 a
  | 2 => dmSet (dmSet (dmWrite s a d) 128 d) 129 a
  | _ => s

/-! ### CDBG and CMEM (Table 17-7) -/

/-- One scan of CDBG: it returns the halt state and performs its command with halt cause 6. -/
def cdbgScan (s : State) (v : Nat) : State :=
  let cap := (if s.dev.dbgHalt ∧ s.dev.state = .halted then 2 ^ 31 else 0) + s.dbg.cause * 65536
  let n := bits v 19 0
  dbgCode (s.mapDbg fun d => { d with dr := BitVec.ofNat 64 cap }) (bits v 31 29) 6 (if n = 0 then s.dbg.steps else n)

/-- Target of R546 that a CMEM word names. -/
def cmemTarget (v : Nat) : Nat := (if bit v 30 then 2 else 1) * 2 ^ 60 + bits v 29 26 * 2 ^ 56 + bits v 25 22 * 2 ^ 52 + bits v 21 0

/-- Whether CMEM is served: the states of R546, outside a Flush and Slackwater (R423, R285), and a word that exists. -/
def cmemOk (s : State) (v : Nat) : Bool :=
  let t := cmemTarget v
  !s.dev.busy && s.dev.state != .off && s.dev.state != .boot && s.dev.state != .slackwater && targetOk t &&
  (!bit v 31 || s.dev.state == .halted) && decide (4 * tgAddr t < (if tgKind t = 2 then poolBytes else spadBytes (tgCore t)))

/-- One scan of CMEM. -/
def cmemScan (s : State) (v : Nat) : State :=
  let res := fun (s : State) (x : Nat) => s.mapDbg fun d => { d with cmem := BitVec.ofNat 64 x, dr := d.cmem }
  if cmemOk s v then
    let t := cmemTarget v
    if bit v 31 then res (dbgWriteTo s t 0 (leBytes 4 (bits v 63 32))) (2 ^ 31)
    else res s (leNat (dbgRead s t 0 4) * 2 ^ 32 + 2 ^ 31)
  else res s (2 ^ 30)

/-! ### Meanings -/

/-- DEBUG_HALT (R544). -/
def execDebugHalt (p : Path) (s : State) : Host.Outcome State Fault Refusal :=
  .next (odReq s p 0xA00001 (.debugHalt p) (dbgCmd s p 1))

/-- DEBUG_HALT_AT_WEIR (R544). -/
def execDebugHaltAtWeir (p : Path) (s : State) : Host.Outcome State Fault Refusal :=
  .next (odReq s p 0xA00001 (.debugHaltAtWeir p) (dbgCmd s p 2))

/-- DEBUG_RESUME (R544). -/
def execDebugResume (p : Path) (s : State) : Host.Outcome State Fault Refusal :=
  .next (odReq s p 0xA00001 (.debugResume p) (dbgCmd s p 3))

/-- DEBUG_STEP (R544). -/
def execDebugStep (p : Path) (s : State) : Host.Outcome State Fault Refusal :=
  .next (odReq s p 0xA00001 (.debugStep p) (dbgCmd s p 4))

/-- DEBUG_RUN_TO_WEIR (R544). -/
def execDebugRunToWeir (p : Path) (s : State) : Host.Outcome State Fault Refusal :=
  .next (odReq s p 0xA00001 (.debugRunToWeir p) (dbgCmd s p 5))

/-- BREAK (R545). -/
def execBrk (k : Fin 3) (s : State) : Host.Outcome State Fault Refusal := .next (breakFire s k.val)

/-- DEBUG_WRITE (R546, R547): 0xA010:02 in HALTED. -/
def execDebugWrite (p : Path) (off : BitVec 32) (data : List Byte) (s : State) : Host.Outcome State Fault Refusal :=
  .next (odReq s p 0xA01002 (.debugWrite p off data)
    (odCmd s p 0xA01002 (s.dev.state == .halted)
    (firstAbort [(decide (off.toNat + data.length ≤ 65536), abPASTEND), (targetOk s.dbg.target.toNat, abINCONS), (!s.dev.busy, abNOTAVAIL)])
    fun s => dbgWriteTo s s.dbg.target.toNat off.toNat data))

/-- EXTEST (R549, R573): it drives the cells in OFF with reset asserted; at any other time it acts as BYPASS. -/
def execExtest (cells : BitVec 13) (s : State) : Host.Outcome State Fault Refusal :=
  .next (if s.dev.state = .off ∧ !s.pins.resetN then
    let s := (captureCells (jtagIr s 0)).mapDbg fun d => { d with bscan := cells, drive := true }
    { s with pins := { s.pins with tempCrit := !cells.getLsbD 5 } }
  else (jtagIr s 0).mapDbg fun d => { d with bypass := false, dr := 0#64 })

/-- IDCODE (Table 17-7). -/
def execIdcode (s : State) : Host.Outcome State Fault Refusal :=
  let id := (if s.dev.b0 then 2 ^ 28 else 0) + 0xD009 * 2 ^ 12 + Config.jedec.toNat * 2 + 1
  .next ((jtagIr s 1).mapDbg fun d => { d with dr := BitVec.ofNat 64 id })

/-- SAMPLE/PRELOAD (Table 17-7): captures the cells and preloads the boundary-scan register. -/
def execSamplePreload (cells : BitVec 13) (s : State) : Host.Outcome State Fault Refusal :=
  .next ((captureCells (jtagIr s 2)).mapDbg fun d => { d with bscan := cells })

/-- DTMCS (R551): version 0.13, 7 address bits; dmihardreset (bit 17) forgets the last access of DMI, and no error is left to clear. -/
def execDtmcs (v : BitVec 32) (s : State) : Host.Outcome State Fault Refusal :=
  .next ((jtagSession (jtagIr s 0x10)).mapDbg fun d => { d with
    dr := d.dtmcs.setWidth 64, dmi := if v.getLsbD 17 then fdel (fdel d.dmi 128) 129 else d.dmi })

/-- DMI (R551). -/
def execDmi (v : BitVec 41) (s : State) : Host.Outcome State Fault Refusal :=
  let s := jtagSession (jtagIr s 0x11)
  .next (if s.dev.state = .off then s else dmiScan s v.toNat)

/-- CDBG (R548). -/
def execCdbg (v : BitVec 32) (s : State) : Host.Outcome State Fault Refusal :=
  let s := jtagSession (jtagIr s 0x18)
  .next (if s.dev.state = .off then s else cdbgScan s v.toNat)

/-- CMEM (R548). -/
def execCmem (v : BitVec 64) (s : State) : Host.Outcome State Fault Refusal :=
  let s := jtagSession (jtagIr s 0x19)
  .next (if s.dev.state = .off then s else cmemScan s v.toNat)

/-- BYPASS (R548): the register captures 0 and takes the bit shifted in. -/
def execBypass (tdi : Bool) (s : State) : Host.Outcome State Fault Refusal :=
  .next ((jtagIr s 0x1F).mapDbg fun d => { d with bypass := tdi, dr := 0#64 })

/-- TEST_LOGIC_RESET (R550): the session ends, and IDCODE is the instruction in effect (PRESUMED, IEEE 1149.1; log 11). -/
def execTestLogicReset (s : State) : Host.Outcome State Fault Refusal := .next ((jtagIr s 1).mapDbg fun d => { d with session := false })

end Sys2Proof.Machine
end

