-- ==== Sys2Proof/Machine/Dictionary.lean ====
section
/-! DEFINITION. The object dictionary (R420-R432): the object tables of every chapter, reads, writes and descriptions; the meanings of OD_READ,
OD_WRITE and OD_DESCRIBE. A write of an object that has a command of its own performs that command. -/

namespace Sys2Proof.Machine

/-! ### Object tables -/

/-- Object types (Table 13-5) and access codes (Table 13-6). -/
inductive OTyp where
  | bool | u8 | u16 | u32 | u64 | i32 | i64 | f32 | str | domain
deriving DecidableEq, Repr
inductive OAcc where
  | ro | rw | wo | w1c | rws | rwd
deriving DecidableEq, Repr

/-- How a value outside its range is treated (R431): no range, a range to clamp to, an enumeration below a bound, an F32 range. -/
inductive ORng where
  | free
  | num (lo hi : Nat)
  | enum (n : Nat)
  | flt (lo hi : Nat)
deriving DecidableEq, Repr

/-- One row of an object table: an index with a range of subindices. -/
structure ORow where
  idx : Nat
  lo : Nat := 0
  hi : Nat := 0
  typ : OTyp := .u32
  acc : OAcc := .ro
  size : Nat := 0
  dflt : Nat := 0
  rng : ORng := .free
deriving DecidableEq, Repr

/-- Bytes of a fixed type (Table 13-5); 0 for STR and DOMAIN. -/
def typSize : OTyp → Nat
  | .bool | .u8 => 1
  | .u16 => 2
  | .u32 | .i32 | .f32 => 4
  | .u64 | .i64 => 8
  | .str | .domain => 0

/-- Identity, communication, state control, boot, harts (Tables 2-7, 13-9, 13-11, 15-7). DESIGN CHOICE (log 32): the part number stands at 0x1000:00 and
the stepping at 0x1001:00, for which R1 gives only the range. -/
def rowsA : List ORow :=
  [{ idx := 0x1000, typ := .u16 }, { idx := 0x1001, typ := .u8 }, { idx := 0x1008 }, { idx := 0x1009, typ := .u16 }, { idx := 0x1102, typ := .u8, acc := .rw, rng := .enum 3 },
   { idx := 0x1110, lo := 1, hi := 1, typ := .u8 }, { idx := 0x1110, lo := 2, hi := 2, typ := .bool, acc := .rw, dflt := 1, rng := .num 0 1 },
   { idx := 0x1120, lo := 1, hi := 5 },
   { idx := 0x1800, lo := 1, hi := 1, typ := .u8 }, { idx := 0x1800, lo := 2, hi := 2, typ := .u8, acc := .wo },
   { idx := 0x1800, lo := 3, hi := 3, typ := .u8 }, { idx := 0x1800, lo := 4, hi := 4, typ := .bool }, { idx := 0x1800, lo := 5, hi := 5, typ := .u16 },
   { idx := 0x1810, typ := .u16 }, { idx := 0x1811, typ := .domain, acc := .wo }, { idx := 0x1812, typ := .domain, acc := .wo },
   { idx := 0x1820, typ := .domain, acc := .wo, size := 2097152 }, { idx := 0x1821, typ := .u8, acc := .wo }, { idx := 0x1822, typ := .u8 },
   { idx := 0x1823, typ := .domain, acc := .wo, size := 2097152 }, { idx := 0x1824, typ := .u8, acc := .wo }, { idx := 0x1825, typ := .u8 },
   { idx := 0x1826, lo := 1, hi := 4, typ := .u8 }, { idx := 0x1827, typ := .u16, acc := .rw, dflt := 10, rng := .num 1 1000 },
   { idx := 0x1830, typ := .domain, acc := .wo }, { idx := 0x1831, typ := .u8, acc := .wo },
   { idx := 0x1850, lo := 1, hi := 1, typ := .u8 }, { idx := 0x1850, lo := 2, hi := 3 }]

/-- Schedule, cores, Sounding, vector objects (Tables 2-1, 3-10, 4-8, 5-6, 6-8; R40, R47, R48, R101, R182). -/
def rowsB : List ORow :=
  [{ idx := 0x2001, typ := .u64 }, { idx := 0x2002, typ := .u64 }, { idx := 0x2003, typ := .u64 }, { idx := 0x2004, typ := .u64 },
   { idx := 0x2010, lo := 1, hi := 12, typ := .u64 }, { idx := 0x2011, acc := .rws, dflt := 100, rng := .num 1 10000 },
   { idx := 0x2020, acc := .rws, dflt := 4096, rng := .num 1024 65536 },
   { idx := 0x2030, lo := 1, hi := 192, typ := .u8 }, { idx := 0x2031, lo := 1, hi := 192, typ := .u8 },
   { idx := 0x2032, lo := 1, hi := 192, typ := .domain, acc := .wo, size := 135168 }, { idx := 0x2033, lo := 1, hi := 192, typ := .u8, acc := .wo },
   { idx := 0x2034, lo := 1, hi := 192 }, { idx := 0x2035, lo := 1, hi := 192 }, { idx := 0x2036, lo := 1, hi := 192 }, { idx := 0x2037, lo := 1, hi := 192 },
   { idx := 0x2040, lo := 1, hi := 14 },
   { idx := 0x2050, lo := 1, hi := 192, typ := .domain, size := 128 }, { idx := 0x2051, lo := 1, hi := 192, typ := .domain, size := 128 },
   { idx := 0x2060, lo := 1, hi := 192, acc := .rw }, { idx := 0x2061, lo := 1, hi := 192, acc := .w1c },
   { idx := 0x2070, lo := 1, hi := 1, typ := .u8, acc := .rws, dflt := 1, rng := .enum 2 },
   { idx := 0x2070, lo := 2, hi := 2, typ := .u16, acc := .rws, dflt := 16, rng := .num 1 65535 },
   { idx := 0x2070, lo := 3, hi := 3, typ := .u8, acc := .rws, dflt := 8, rng := .num 1 32 },
   { idx := 0x2070, lo := 4, hi := 4, typ := .f32, acc := .rws, dflt := 0x3CA3D70A, rng := .flt 0x38D1B717 0x3F800000 },
   { idx := 0x2070, lo := 5, hi := 5, typ := .f32, acc := .rws, dflt := 0x3DCCCCCD, rng := .flt 0x38D1B717 0x3F800000 },
   { idx := 0x2070, lo := 6, hi := 6, typ := .f32, acc := .rws, dflt := 0x3B03126F, rng := .flt 0x3727C5AC 0x3DCCCCCD },
   { idx := 0x2070, lo := 7, hi := 7, typ := .u16, acc := .rws, dflt := 256, rng := .num 16 4096 },
   { idx := 0x2070, lo := 8, hi := 8, typ := .u8, acc := .rws, rng := .enum 2 },
   { idx := 0x2071, lo := 1, hi := 192, typ := .domain, size := 192 },
   { idx := 0x2080, lo := 1, hi := 192, typ := .u16 }, { idx := 0x2081, lo := 1, hi := 192 },
   { idx := 0x2082, lo := 1, hi := 192, typ := .domain, size := 20480 }]

/-- Memories, networks, fencing and beds (Tables 8-5, 9-5, 15-7; R263, R267, R269, R279). -/
def rowsC : List ORow :=
  [{ idx := 0x2090, lo := 1, hi := 192, typ := .u8, acc := .rw, dflt := 255 }, { idx := 0x2091, lo := 1, hi := 192 }, { idx := 0x2092, lo := 1, hi := 192 },
   { idx := 0x20A0, lo := 1, hi := 16, typ := .u8, acc := .rw, dflt := 255 }, { idx := 0x20A1, lo := 1, hi := 16 }, { idx := 0x20A2, lo := 1, hi := 16 },
   { idx := 0x20A3, lo := 1, hi := 16 }, { idx := 0x20B0, lo := 1, hi := 96 }, { idx := 0x20B1 }, { idx := 0x20B2 }, { idx := 0x20B3, typ := .u16 },
   { idx := 0x2100, lo := 1, hi := 16, typ := .domain, size := 12 }, { idx := 0x2101, lo := 1, hi := 16, typ := .u16 },
   { idx := 0x2102, typ := .u16, acc := .wo }, { idx := 0x2103, typ := .domain, size := 24 },
   { idx := 0x2104, lo := 1, hi := 1, typ := .bool, acc := .rw, rng := .num 0 1 },
   { idx := 0x2104, lo := 2, hi := 2, acc := .rw, dflt := 4096, rng := .num 16 1000000 }, { idx := 0x2105 }, { idx := 0x2106 },
   { idx := 0x3000, lo := 1, hi := 8, typ := .u64, acc := .rws }, { idx := 0x3010, lo := 1, hi := 2, acc := .rws, rng := .num 1 268435456 },
   { idx := 0x3010, lo := 3, hi := 3, acc := .rws, rng := .num 1 4096 }, { idx := 0x3011, lo := 1, hi := 128 },
   { idx := 0x3020, lo := 1, hi := 16 }, { idx := 0x3021, lo := 1, hi := 16 }, { idx := 0x3022, lo := 1, hi := 16 },
   { idx := 0x3040, lo := 1, hi := 1, typ := .u16, acc := .rws, dflt := 24, rng := .num 1 168 }, { idx := 0x3040, lo := 2, hi := 2 },
   { idx := 0x3050, lo := 1, hi := 1, typ := .u8 }, { idx := 0x3050, lo := 2, hi := 3 }, { idx := 0x3051 },
   { idx := 0x3090, typ := .u16 }, { idx := 0x3091, lo := 1, hi := 16 }, { idx := 0x3092, lo := 1, hi := 16, typ := .u16 },
   { idx := 0x3093, typ := .domain, size := 65536 }, { idx := 0x3093, lo := 1, hi := 2 }, { idx := 0x3094, typ := .u16, acc := .wo },
   { idx := 0x3095, lo := 1, hi := 1, acc := .rw, dflt := 8, rng := .num 1 1024 }]

/-- Weights and fabric (Tables 10-14, 11-10). -/
def rowsD : List ORow :=
  [{ idx := 0x3060, lo := 1, hi := 1, acc := .rw, dflt := 600, rng := .num 0 86400 }, { idx := 0x3060, lo := 2, hi := 2, typ := .u8, acc := .rw, rng := .enum 2 },
   { idx := 0x3060, lo := 3, hi := 4 }, { idx := 0x3061, typ := .domain, size := 131072 }, { idx := 0x3062, lo := 1, hi := 4 }, { idx := 0x3063 },
   { idx := 0x3064 }, { idx := 0x3070, lo := 1, hi := 1, typ := .domain, acc := .wo }, { idx := 0x3070, lo := 2, hi := 2, typ := .u16 },
   { idx := 0x3070, lo := 3, hi := 3, typ := .u64, acc := .rw }, { idx := 0x3070, lo := 5, hi := 5, typ := .u8 },
   { idx := 0x3070, lo := 6, hi := 6, typ := .u16, acc := .rw }, { idx := 0x3070, lo := 7, hi := 7, typ := .u16, acc := .rw, rng := .num 1 4096 },
   { idx := 0x3070, lo := 8, hi := 8, acc := .rw, dflt := 2000, rng := .num 100 600000 }, { idx := 0x3071, typ := .u8, acc := .wo },
   { idx := 0x3080, lo := 1, hi := 4, typ := .u64, acc := .rws }, { idx := 0x3080, lo := 5, hi := 5, typ := .u16, acc := .rw, dflt := 1, rng := .num 1 1000 },
   { idx := 0x3082, typ := .u16, acc := .rws },
   { idx := 0x4000 }, { idx := 0x4010, lo := 1, hi := 16, acc := .rw }, { idx := 0x4011, lo := 1, hi := 16 }, { idx := 0x4012, lo := 1, hi := 16 },
   { idx := 0x4013, lo := 1, hi := 16, typ := .u64 }, { idx := 0x4014, lo := 1, hi := 16 }, { idx := 0x4015 },
   { idx := 0x4020, typ := .domain, acc := .wo, size := 65536 }, { idx := 0x4021, typ := .u8, acc := .wo }, { idx := 0x4022, typ := .u8 },
   { idx := 0x4023, typ := .u8 }, { idx := 0x4030, typ := .u64 }, { idx := 0x4031, typ := .u8, acc := .rws, rng := .enum 2 },
   { idx := 0x4032, typ := .u8, acc := .rws, rng := .num 0 15 }, { idx := 0x4033, typ := .u16, acc := .rws }, { idx := 0x4034, typ := .i32 },
   { idx := 0x4040, lo := 1, hi := 16, typ := .u8, acc := .rw }, { idx := 0x4041, lo := 1, hi := 16, typ := .u8 },
   { idx := 0x4060, typ := .domain, acc := .rws, size := 8192 }, { idx := 0x4061, typ := .domain, acc := .rws, size := 4096 },
   { idx := 0x4062, typ := .domain, acc := .rws, size := 2048 }, { idx := 0x4063, typ := .domain, size := 4096 }, { idx := 0x4064, typ := .u16 },
   { idx := 0x4065 }, { idx := 0x4070, lo := 1, hi := 1, typ := .u8, acc := .rws, dflt := 8, rng := .num 1 255 },
   { idx := 0x4070, lo := 2, hi := 2, typ := .u8, acc := .rws, dflt := 4, rng := .num 1 255 },
   { idx := 0x4070, lo := 3, hi := 3, typ := .u8, acc := .rws, dflt := 1, rng := .num 1 255 }]

/-- Serving (Tables 12-1, 12-12). -/
def rowsE : List ORow :=
  [{ idx := 0x5000, lo := 1, hi := 1, typ := .u8, acc := .rws, rng := .num 0 63 }, { idx := 0x5000, lo := 2, hi := 2, typ := .u8, acc := .rws, rng := .num 1 64 },
   { idx := 0x5000, lo := 3, hi := 3, typ := .u8, acc := .rws, rng := .num 1 64 }, { idx := 0x5000, lo := 4, hi := 4, typ := .u8, acc := .rws, rng := .num 0 7 },
   { idx := 0x5000, lo := 5, hi := 5, typ := .u16, acc := .rws, rng := .num 1 512 }, { idx := 0x5000, lo := 6, hi := 6, typ := .u8, acc := .rws, rng := .num 1 16 },
   { idx := 0x5000, lo := 7, hi := 7, typ := .u16, acc := .rws, rng := .num 0 1024 }, { idx := 0x5000, lo := 8, hi := 9, typ := .u16, acc := .rws },
   { idx := 0x5000, lo := 10, hi := 10, acc := .rws, dflt := 2000, rng := .num 100 600000 },
   { idx := 0x5000, lo := 11, hi := 11, typ := .u16, acc := .rws, dflt := 1024, rng := .num 0 4096 },
   { idx := 0x5000, lo := 12, hi := 12, typ := .u16, acc := .rws, dflt := 3277, rng := .num 0 4096 },
   { idx := 0x5000, lo := 13, hi := 13, typ := .u16, acc := .rws, dflt := 64, rng := .num 1 4096 },
   { idx := 0x5010, lo := 1, hi := 3 }, { idx := 0x5010, lo := 4, hi := 4, typ := .u16 }, { idx := 0x5010, lo := 5, hi := 7 },
   { idx := 0x5010, lo := 8, hi := 8, typ := .u64 }, { idx := 0x5020, lo := 1, hi := 1, typ := .u64, acc := .rw },
   { idx := 0x5030, lo := 1, hi := 8, acc := .rw }, { idx := 0x5100, lo := 1, hi := 128, typ := .domain, size := 96 },
   { idx := 0x5210, lo := 1, hi := 1, typ := .u16, acc := .rw, rng := .num 0 4095 }, { idx := 0x5210, lo := 2, hi := 2, typ := .i64 },
   { idx := 0x5210, lo := 3, hi := 3, typ := .i64, acc := .wo }, { idx := 0x5210, lo := 4, hi := 4, typ := .u64 }, { idx := 0x5210, lo := 5, hi := 5 },
   { idx := 0x5300, lo := 1, hi := 1, acc := .rws }, { idx := 0x5310, lo := 1, hi := 1, typ := .u16, acc := .rw, rng := .num 0 1023 },
   { idx := 0x5310, lo := 2, hi := 2, typ := .u8 }, { idx := 0x5310, lo := 3, hi := 3 }, { idx := 0x5310, lo := 4, hi := 4, typ := .u8 },
   { idx := 0x5310, lo := 5, hi := 5, typ := .u16 }, { idx := 0x5310, lo := 6, hi := 6, typ := .domain, acc := .wo },
   { idx := 0x5310, lo := 7, hi := 7, typ := .domain, acc := .wo, size := 32 }, { idx := 0x5320, lo := 1, hi := 1, acc := .wo },
   { idx := 0x5320, lo := 2, hi := 2, typ := .u16 }, { idx := 0x5320, lo := 3, hi := 3 }, { idx := 0x5320, lo := 4, hi := 5, typ := .u16, acc := .wo }]

/-- Clocks, power and ledger (Table 14-8). -/
def rowsF : List ORow :=
  [{ idx := 0x6000, lo := 1, hi := 1, typ := .u8 }, { idx := 0x6000, lo := 2, hi := 3 },
   { idx := 0x6010, lo := 1, hi := 1, typ := .u16, acc := .rw, dflt := 1500, rng := .num 900 1800 }, { idx := 0x6010, lo := 2, hi := 3, typ := .u16 },
   { idx := 0x6010, lo := 4, hi := 4, typ := .u16, acc := .rw, dflt := 1000, rng := .num 100 60000 }, { idx := 0x6010, lo := 5, hi := 5 },
   { idx := 0x6020, lo := 1, hi := 64 }, { idx := 0x6021, lo := 1, hi := 1, typ := .u16, acc := .rws, dflt := 640, rng := .num 600 700 },
   { idx := 0x6021, lo := 2, hi := 2, typ := .u8, acc := .rws, dflt := 15, rng := .num 5 50 },
   { idx := 0x6021, lo := 3, hi := 3, typ := .u8, acc := .rws, dflt := 95, rng := .num 70 105 },
   { idx := 0x6021, lo := 4, hi := 4, typ := .u8, acc := .rws, dflt := 110, rng := .num 100 115 },
   { idx := 0x6030, lo := 1, hi := 1, typ := .u16, acc := .rw, dflt := 1300, rng := .num 300 1300 },
   { idx := 0x6030, lo := 2, hi := 2, typ := .u16, acc := .rw, dflt := 900, rng := .num 300 1300 },
   { idx := 0x6030, lo := 3, hi := 3, acc := .rws, dflt := 500000, rng := .num 10000 10000000 },
   { idx := 0x6030, lo := 4, hi := 4, typ := .u16, acc := .rw, dflt := 300, rng := .num 0 1300 }, { idx := 0x6030, lo := 5, hi := 5, typ := .bool },
   { idx := 0x6040, lo := 1, hi := 1, typ := .i64 }, { idx := 0x6040, lo := 2, hi := 3 }, { idx := 0x6040, lo := 4, hi := 4, typ := .u64 },
   { idx := 0x6040, lo := 5, hi := 6, typ := .u16 }, { idx := 0x6040, lo := 7, hi := 7 }, { idx := 0x6050, lo := 1, hi := 1 },
   { idx := 0x6050, lo := 2, hi := 2, typ := .u16 }, { idx := 0x6050, lo := 3, hi := 3 }]

/-- Recorders, trust, Gauge mirror, debug (Tables 16-5, 17-8). -/
def rowsG : List ORow :=
  [{ idx := 0x7001, lo := 1, hi := 4 }, { idx := 0x7002, lo := 1, hi := 4 }, { idx := 0x7003, typ := .u64 }, { idx := 0x7004, typ := .u16 },
   { idx := 0x7010, lo := 1, hi := 2, typ := .u64, acc := .rw }, { idx := 0x7011, lo := 1, hi := 2, typ := .domain, size := 8192 },
   { idx := 0x7030, lo := 1, hi := 1, typ := .u8, acc := .rws, rng := .enum 3 }, { idx := 0x7030, lo := 2, hi := 2, typ := .u8 },
   { idx := 0x7030, lo := 3, hi := 3, typ := .u64 }, { idx := 0x7031, typ := .u8, acc := .rws, rng := .enum 2 },
   { idx := 0x7032, typ := .domain, acc := .rws }, { idx := 0x7033 },
   { idx := 0x8000, typ := .domain, size := 64 }, { idx := 0x8001, typ := .domain, size := 32 }, { idx := 0x8002, typ := .domain, size := 64 },
   { idx := 0x8010, lo := 1, hi := 8, typ := .domain, size := 64 }, { idx := 0x8011 }, { idx := 0x8012, typ := .domain, size := 2097152 },
   { idx := 0x8013, typ := .domain, size := 1024 }, { idx := 0x8014, typ := .domain, size := 256 }, { idx := 0x8020, typ := .domain, acc := .wo, size := 32 },
   { idx := 0x8021, typ := .u8 }, { idx := 0x8022, typ := .domain, size := 50560 }, { idx := 0x8023 },
   { idx := 0x9000, typ := .domain, size := 64 }, { idx := 0x9001, typ := .domain, size := 32 }, { idx := 0x9002, typ := .domain, size := 16 },
   { idx := 0x9003, typ := .u64 }, { idx := 0x9004, typ := .domain, size := 32 }, { idx := 0x9010, lo := 1, hi := 32, typ := .domain, size := 196608 },
   { idx := 0x9011, typ := .u64 }, { idx := 0x9012, lo := 1, hi := 2 },
   { idx := 0xA000, lo := 1, hi := 1, typ := .u8, acc := .wo }, { idx := 0xA000, lo := 2, hi := 2, acc := .rw, dflt := 1, rng := .num 1 1000000 },
   { idx := 0xA001, lo := 1, hi := 2, typ := .u64, acc := .rw }, { idx := 0xA001, lo := 3, hi := 3, typ := .u16, acc := .rw }, { idx := 0xA002, typ := .u8 },
   { idx := 0xA010, lo := 1, hi := 1, typ := .u64, acc := .rw }, { idx := 0xA010, lo := 2, hi := 2, typ := .domain, acc := .rw, size := 65536 }]

/-- Every object of the dictionary. -/
def objRows : List ORow := rowsA ++ (rowsB ++ (rowsC ++ (rowsD ++ (rowsE ++ (rowsF ++ rowsG)))))

/-- Highest subindex of an index (R420). -/
def topSub (i : Nat) : Nat := objRows.foldl (fun a r => if r.idx = i then max a r.hi else a) 0

/-- The row of an object; subindex 00 of an array or record is a U8 of access RO (R420). -/
def objRow (i sub : Nat) : Option ORow :=
  match objRows.find? fun r => r.idx == i && decide (r.lo ≤ sub ∧ sub ≤ r.hi) with
  | some r => some r
  | none => if sub = 0 ∧ 0 < topSub i then some { idx := i, typ := .u8 } else none

/-- Whether an index exists. -/
def idxExists (i : Nat) : Bool := objRows.any fun r => r.idx == i

/-! ### Values -/

/-- Whether a word is an F32 NaN. -/
def f32NaN (v : Nat) : Bool := decide (0x7F800000 < v % 2 ^ 31)

/-- Clamps a value to its row's range (R431). -/
def clampObj (r : ORow) (v : Nat) : Nat :=
  match r.rng with
  | .num lo hi => if r.idx = 0x3060 ∧ r.hi = 1 ∧ v ≠ 0 then clampN 10 hi v else clampN lo hi v
  | .flt lo hi => if fpLt fFP32 v lo then lo else if fpLt fFP32 hi v then hi else v
  | _ => v

/-- Whether a written value is neither a reserved code nor a NaN (R431); of the debug target, kind and slot are codes (R546). -/
def valueOk (r : ORow) (v : Nat) : Bool :=
  (match r.rng with
    | .enum n => decide (v < n)
    | _ => true) && !(r.typ == .f32 && f32NaN v) && !(r.idx == 0xA010 && !targetOk v)

/-- Code of a bank, piece, swap, adapter, update or link state in its object. -/
def bankCode : BankState → Nat
  | .empty => 0 | .filling => 1 | .valid => 2 | .spent => 3
def pieceCode : PieceState → Nat
  | .none => 0 | .absent => 1 | .filling => 2 | .valid => 3 | .bad => 4
def swapCode : SwapState → Nat
  | .idle => 0 | .staged => 1 | .armed => 2 | .filling => 3 | .switching => 4 | .done => 5
def adapterCode : AdapterState → Nat
  | .free => 0 | .filling => 1 | .verified => 2 | .ready => 3 | .retiring => 4 | .broken => 5
def updCode : UpdState → Nat
  | .idle => 0 | .filling => 1 | .checked => 2 | .trial => 3
def linkCode : LinkState → Nat
  | .off => 0 | .training => 1 | .up8 => 2 | .up4 => 3 | .failed => 4

/-- Values of the management objects. -/
def getA (s : State) (i sub : Nat) : Nat :=
  match i with
  | 0x1000 => 0xD009
  | 0x1001 => steppingByte s
  | 0x1008 => if s.dev.b0 then 0x01010102 else 0x00000101
  | 0x1009 => s.dev.lat
  | 0x1102 => s.mgm.owner
  | 0x1110 => if sub = 1 then s.mgm.node else if s.mgm.segOn then 1 else 0
  | 0x1120 => [s.mgm.clamps, s.mgm.lastClamp, s.mgm.refusals, s.mgm.lastAbort, s.mgm.lastRef].getD (sub - 1) 0
  | 0x1800 => match sub with
    | 1 => stateCode s.dev.state
    | 3 => s.dev.saved
    | 4 => if s.dev.busy then 1 else 0
    | _ => s.dev.haltId
  | 0x1810 => s.dev.loadRes
  | 0x1822 => s.dev.fwRun
  | 0x1825 => updCode s.mgm.upd
  | 0x1826 => (s.hart (sub - 1)).role
  | 0x1827 => s.mgm.wdogMs
  | 0x1850 => [s.mgm.staged.length, s.mgm.lastDisc, s.mgm.discards].getD (sub - 1) 0
  | _ => 0

/-- Values of the core, schedule and memory objects. -/
def getB (s : State) (i sub : Nat) : Nat :=
  let k := s.core (sub - 1)
  let q := s.pool (sub - 1)
  match i with
  | 0x2001 => s.sch.sCycle
  | 0x2002 => s.sch.wCycle
  | 0x2003 => s.sch.eddyW
  | 0x2004 => s.sch.stepNo
  | 0x2010 => fget s.sch.perCause 0 sub
  | 0x2011 => s.sch.eddyLimit
  | 0x2020 => s.sch.oxLimit
  | 0x2030 => if k.activeB then 1 else 0
  | 0x2031 => bankCode k.inact
  | 0x2034 => k.refused
  | 0x2035 => k.skips
  | 0x2036 => k.bounds
  | 0x2037 => k.stalls
  | 0x2040 => (fget s.dev.pads 0#32 sub).toNat
  | 0x2060 => k.numctl.toNat
  | 0x2061 => k.sticky.toNat
  | 0x2070 => [if s.sch.sndOn then 1 else 0, s.sch.sndThin, s.sch.sndRows, s.sch.sndWarn.toNat, s.sch.sndAlarm.toNat, s.sch.sndBias.toNat, s.sch.sndWin,
      if s.sch.sndHalt then 1 else 0].getD (sub - 1) 0
  | 0x2080 => k.vl
  | 0x2081 => k.vlClamps
  | 0x2090 => k.segMask.toNat
  | 0x2091 => k.corr
  | 0x2092 => k.uncorr
  | 0x20A0 => q.segMask.toNat
  | 0x20A1 => q.corr
  | 0x20A2 => q.uncorr
  | 0x20A3 => q.overruns
  | 0x20B0 => fget s.sch.bulkOver 0 (sub - 1)
  | 0x20B1 => s.sch.sigDrops
  | 0x20B2 => s.sch.ctlLate
  | 0x20B3 => s.sch.ctlMax
  | 0x2101 => sumN ((List.range 14).map fun j => if posFenced s (14 * (sub - 1) + j) then 2 ^ j else 0)
  | 0x2104 => if sub = 1 then (if s.rep.auto then 1 else 0) else s.rep.autoN
  | 0x2105 => s.rep.remaps
  | 0x2106 => s.rep.remapW
  | _ => 0

/-- Values of the bed, weight and repair objects. -/
def getC (s : State) (i sub : Nat) : Nat :=
  match i with
  | 0x3000 => (fget s.beds.parts 0#64 (sub - 1)).toNat
  | 0x3010 => [s.beds.kvS, s.beds.kvQ, s.beds.kvU].getD (sub - 1) 0
  | 0x3011 => kvBound s (sub - 1)
  | 0x3020 => fget s.beds.corr 0 (sub - 1)
  | 0x3021 => fget s.beds.uncorr 0 (sub - 1)
  | 0x3022 => fget s.beds.coll 0 (sub - 1)
  | 0x3040 => if sub = 1 then s.beds.scrubHours else s.beds.scrubMin
  | 0x3050 => [s.beds.flush, s.beds.flushOn, s.beds.flushBed].getD (sub - 1) 0
  | 0x3051 => s.sch.replayCount
  | 0x3060 => [s.wts.rescanSec, if s.wts.rescanHalt then 1 else 0, s.wts.rescanMs, s.wts.rescanFail].getD (sub - 1) 0
  | 0x3062 => ((listedPieces s).filter fun p => pieceCode (pieceState s p) == sub).length
  | 0x3063 => s.wts.arrFail
  | 0x3064 => s.wts.dropped
  | 0x3070 => match sub with
    | 2 => s.wts.swRes
    | 3 => s.wts.swRel
    | 5 => swapCode s.wts.swState
    | 6 => s.wts.swPath
    | 7 => s.wts.swExp
    | _ => s.wts.swLimMs
  | 0x3080 => if sub = 5 then s.wts.quietMs else (fget s.wts.sources 0#64 sub).toNat
  | 0x3082 => s.wts.relay.toNat
  | 0x3090 => match s.rep.stackMap with
    | some k => 2 ^ k
    | none => 0
  | 0x3091 => sumN ((List.range 8).map fun t => (uniq (tierUsed s (sub - 1) t)).length)
  | 0x3092 => (List.range 8).foldl (fun a t => min a (tierSpares - (uniq (tierUsed s (sub - 1) t)).length)) tierSpares
  | 0x3093 => if sub = 1 then s.rep.unlogged else s.rep.noEff
  | 0x3095 => s.rep.rowN
  | _ => 0

/-- Values of the fabric objects. -/
def getD (s : State) (i sub : Nat) : Nat :=
  let k := s.link (sub - 1)
  match i with
  | 0x4000 => s.fab.coord.toNat
  | 0x4010 => (if k.dateline then 128 else 0) + k.lanes * 32 + (if k.enable then 8 else 0)
  | 0x4011 => k.delay % 65536 * 65536 + k.bad.toNat * 256 + (if k.halfin then 8 else 0) + linkCode k.state
  | 0x4012 => k.resent
  | 0x4013 => k.fec
  | 0x4014 => k.dropped
  | 0x4015 => s.fab.arrDrops
  | 0x4022 => if s.fab.pathAct then 1 else 0
  | 0x4023 => bankCode s.fab.pathIn
  | 0x4030 => s.fab.ftime
  | 0x4031 => s.fab.role
  | 0x4032 => s.fab.parent
  | 0x4033 => s.fab.childs.toNat
  | 0x4034 => toBits 32 s.fab.corrNs
  | 0x4040 => k.gate.toNat
  | 0x4041 => k.drained.toNat
  | 0x4064 => s.fab.groupMax
  | 0x4065 => s.fab.groupWait
  | 0x4070 => arbW s sub
  | _ => 0

/-- Values of the serving objects. -/
def getE (s : State) (i sub : Nat) : Nat :=
  let v := s.srv
  let a := s.adap v.adSel
  match i with
  | 0x5000 => conf s sub
  | 0x5010 => [v.reqN, v.admN, v.refN, v.store.length, v.ttftN, v.tbtN, v.parkN, meanStep s].getD (sub - 1) 0
  | 0x5020 => v.cut
  | 0x5030 => fget v.stops 0xFFFFFFFF sub
  | 0x5210 => match sub with
    | 1 => v.tenSel
    | 2 => toBits 64 (fget v.budgets 0 v.tenSel)
    | 4 => fget v.committed 0 v.tenSel
    | _ => fget v.overdraw 0 v.tenSel
  | 0x5300 => v.adStride
  | 0x5310 => match sub with
    | 1 => v.adSel
    | 2 => adapterCode a.state
    | 3 => a.id
    | 4 => a.gen
    | _ => a.pins
  | 0x5320 => if sub = 2 then v.adWait.length else v.adWait.headD 0
  | _ => 0

/-- A monitor record (Table 14-3). -/
def monWord (m : Monitor) : Nat :=
  m.vloc % 1024 * 2 ^ 22 + m.temp % 256 * 2 ^ 14 + m.allow % 128 * 128 + (if m.trip then 64 else 0) + if m.hot then 32 else 0

/-- Values of the clock, power and ledger objects. -/
def getF (s : State) (i sub : Nat) : Nat :=
  let p := s.pwr
  match i with
  | 0x6000 => [p.refState, p.holdN, if p.refState = 1 then (s.now - p.holdAt) / 1000000 else p.holdMs].getD (sub - 1) 0
  | 0x6010 => [p.target, p.freq, minAllow s, p.raiseUs, p.changes].getD (sub - 1) 0
  | 0x6020 => monWord (s.mon (sub - 1))
  | 0x6021 => [p.tripMv, p.hystMv, p.throttle, p.crit].getD (sub - 1) 0
  | 0x6030 => [p.sust, p.warnW, p.cap, p.stat, if s.pins.pgWarn then 1 else 0].getD (sub - 1) 0
  | 0x6040 => [toBits 64 p.credit, p.charge, p.lastE, p.totE, sumN p.lastMs / 1000, p.railMv, p.waits].getD (sub - 1) 0
  | 0x6050 => [p.wakeUs, p.sleepW, p.sleepN].getD (sub - 1) 0
  | _ => 0

/-- Values of the recorder, trust and debug objects; a mirrored Gauge value is the copy's. -/
def getG (s : State) (i sub : Nat) : Nat :=
  match i with
  | 0x7001 => fget s.evr.drops 0 (sub - 1)
  | 0x7002 => fget s.evr.overs 0 (sub - 1)
  | 0x7003 => s.evr.next
  | 0x7004 => 32768 - 2 * s.evr.store.length
  | 0x7010 => fget s.evr.cursor 0 sub
  | 0x7030 => [s.inp.mode, s.inp.status, s.inp.bytes].getD (sub - 1) 0
  | 0x7031 => s.inp.replayOn
  | 0x7033 => s.inp.mism
  | 0x8011 => s.tru.logSeq
  | 0x8021 => s.tru.quoteSt
  | 0x8023 => s.tru.quotes
  | 0x9003 | 0x9011 | 0x9012 => leNat (fget s.gau.mirror [] (i * 256 + sub))
  | 0xA000 => s.dbg.steps
  | 0xA001 => [s.dbg.brkStep, s.dbg.brkS, s.dbg.brkId].getD (sub - 1) 0
  | 0xA002 => s.dbg.cause
  | 0xA010 => s.dbg.target.toNat
  | _ => 0

/-- The value of an object of a fixed type. -/
def objGet (s : State) (i sub : Nat) : Nat :=
  if sub = 0 ∧ 0 < topSub i then topSub i
  else if i < 0x2000 then getA s i sub else if i < 0x3000 then getB s i sub else if i < 0x4000 then getC s i sub else if i < 0x5000 then getD s i sub
  else if i < 0x6000 then getE s i sub else if i < 0x7000 then getF s i sub else getG s i sub

/-! ### DOMAIN objects -/

/-- A Sounding record (Table 5-7). -/
def sndBytes (x : Sounding) : List Byte :=
  ([x.samples, x.missed, x.nonfinite, x.zeroref, x.warn, x.alarm, x.ermsSum.toNat, x.ermsMax.toNat, x.ermsLast.toNat, x.biasWin.toNat, x.biasAlarm, 0].map
    (leBytes 4)).flatten

/-- A measurement-log entry (Table 16-2). -/
def logBytes (e : LogEntry) : List Byte :=
  leBytes 2 e.typ ++ leBytes 1 e.mr ++ leBytes 1 e.verdict ++ leBytes 4 e.seq ++ leBytes 8 e.time ++ padTo 32 e.signer ++ List.replicate 16 0#8 ++
  padTo 64 e.digest

/-- Bytes `o` to `o + n - 1` of the log ring (R510). -/
def logRead (s : State) (o n : Nat) : List Byte :=
  let a := o / 128
  let l := (List.range ((o + n + 127) / 128 - a)).map fun j => match s.tru.log.find? fun e => e.seq % 16384 == a + j with
    | some e => logBytes e
    | none => List.replicate 128 0#8
  (l.flatten.drop (o % 128)).take n

/-- Bytes of a byte string at an offset, 0 past its end. -/
def sliceOf (bs : List Byte) (o n : Nat) : List Byte := padTo n (bs.drop o)

/-- Bytes `o` to `o + n - 1` of a DOMAIN object. -/
def domGet (s : State) (i sub o n : Nat) : List Byte :=
  let c := sub - 1
  let k := s.core c
  let per := fun (f : Nat → Byte) => (List.range n).map fun j => f (o + j)
  match i with
  | 0x2050 => per (flagByte k)
  | 0x2051 => per (sregByte k)
  | 0x2071 => sliceOf ((List.range (arraysOf c)).map fun a => sndBytes (k.arr a).snd).flatten o n
  | 0x2082 => per (vecByte k c)
  | 0x2100 => sliceOf ((List.range 12).map fun l =>
      let p := corePos s (12 * c + l)
      BitVec.ofNat 8 (if p = 255 ∨ l < 4 then p else p - 5)) o n
  | 0x2103 => sliceOf (leBytes 24 (sumN ((List.range 192).map fun x => if corePresent s x then 2 ^ x else 0))) o n
  | 0x3061 => per fun j => BitVec.ofNat 8 (pieceCode (pieceState s (2 * j)) + 16 * pieceCode (pieceState s (2 * j + 1)))
  | 0x3093 => sliceOf (s.rep.log.map fun e => leBytes 8 e.toNat).flatten o n
  | 0x4060 => mread s.fab.queues o n
  | 0x4061 => mread s.fab.fan o n
  | 0x4062 => mread s.fab.red o n
  | 0x4063 => per fun j => byteAt (leBytes 2 (fget s.fab.halves 0 (j / 2))) (j % 2)
  | 0x5100 => sliceOf (slotBytes s (s.slot c)) o n
  | 0x7011 => sliceOf (fget s.evr.window [] sub) o n
  | 0x7032 => match logPart s with
    | some p => bedRead s (p.1 + o) n
    | none => []
  | 0x8000 => sliceOf (idKeyBytes s) o n
  | 0x8001 => sliceOf (idDigest s) o n
  | 0x8002 => sliceOf romDigestBytes o n
  | 0x8010 => sliceOf (mrBytes s c) o n
  | 0x8012 => logRead s o n
  | 0x8013 => sliceOf s.tru.signers.flatten o n
  | 0x8014 => sliceOf romKeyList.flatten o n
  | 0x8022 => sliceOf s.tru.quote o n
  | 0xA010 => dbgRead s s.dbg.target.toNat o n
  | _ => sliceOf (fget s.gau.mirror [] (i * 256 + sub)) o n

/-- Size of an object in bytes; a DE core's records are shorter, and the log's size is its partition's. -/
def objSize (s : State) (r : ORow) (sub : Nat) : Nat :=
  if r.typ ≠ .domain then typSize r.typ
  else match r.idx with
    | 0x2071 => 48 * arraysOf (sub - 1)
    | 0x2082 => 160 * lanes (sub - 1)
    | 0x5310 => if sub = 6 then adBytes s else r.size
    | 0x7032 => match logPart s with
      | some p => p.2
      | none => 0
    | _ => r.size

/-! ### Requests (R425-R430) -/

/-- Data bytes one PDU carries on a path (R426). -/
def pduMax : Path → Nat
  | .tributary => 65536
  | .segment => 1484

/-- Gives the response of a request, if one was added, the request's header fields. -/
def stamp (old : State) (h : Pdu) (s : State) : State :=
  if old.mgm.resp.length < s.mgm.resp.length then
    let f := fun (r : Resp) => { r with typ := (h.typ.toNat + 0x80) % 65536, txn := h.txn.toNat, index := h.index.toNat, sub := h.sub.toNat }
    s.mapMgm fun m => { m with resp := m.resp.dropLast ++ (m.resp.getLast?.toList.map f) }
  else s

/-- Index × 256 + subindex of a request. -/
def pduObj (h : Pdu) : Nat := h.index.toNat * 256 + h.sub.toNat

/-- Checks 1 to 3 of R430 for a request of type `typ`: the header, the object, the access code. -/
def pduCheck (p : Path) (h : Pdu) (typ : Nat) (lenOk : Bool) : Nat :=
  let i := h.index.toNat
  firstAbort [
    (h.typ.toNat == typ && h.rsvd == 0#8 && lenOk && decide (h.length.toNat ≤ pduMax p), abBADPDU),
    (idxExists i, abNOOBJECT), ((objRow i h.sub.toNat).isSome, abNOSUB)]

/-- Whether the device state serves a read (R423). -/
def readState (s : State) (i : Nat) : Bool :=
  s.dev.state != .boot || decide (0x1000 ≤ i ∧ i ≤ 0x11FF) || [0x1800, 0x1820, 0x1821, 0x1830, 0x1831].contains i || decide (0x8000 ≤ i ∧ i ≤ 0x8FFF)

/-- Whether an object's unit answers: units unclocked in Slackwater (R423, Table 14-5), memories during a Flush (R285), absent roles (R432). -/
def readAvail (s : State) (i sub : Nat) : Bool :=
  !(s.dev.state == .slackwater && (decide (0x2001 ≤ i ∧ i ≤ 0x20B3) || i == 0x7032 || (i == 0xA010 && sub == 2))) &&
  !(s.beds.flush == 1 && s.dev.busy && ([0x2050, 0x2051, 0x2082, 0x7011].contains i || (i == 0xA010 && sub == 2))) &&
  !((s.beds.flush == 1 || s.beds.flush == 2) && s.dev.busy && i == 0x7032) && (entryRole s || (i != 0x5320 && i != 0x5020))

/-- A read's data (R427, R429): the whole value of a fixed type, or the bytes wanted of a DOMAIN, up to its end for `LENGTH` 0. -/
def readData (s : State) (p : Path) (r : ORow) (i sub off len : Nat) : List Byte :=
  if r.typ = .domain then domGet s i sub off (if len = 0 then min (pduMax p) (objSize s r sub - off) else len)
  else leBytes (typSize r.typ) (objGet s i sub)

/-- A read (R425, R430). -/
def odRead (s : State) (p : Path) (h : Pdu) : State :=
  if !served s p then s
  else
    let i := h.index.toNat
    let sub := h.sub.toNat
    let off := h.offset.toNat
    let len := h.length.toNat
    let r := (objRow i sub).getD { idx := i }
    let c := pduCheck p h 0x301 true
    let ab := if c ≠ 0 then c else firstAbort [
      (r.acc != .wo, abWRITEONLY), (readState s i, abSTATE), (r.typ == .domain || off == 0, abBADLEN),
      (r.typ != .domain || decide (off + len ≤ objSize s r sub), abPASTEND), (!(i == 0xA010 && sub == 2) || targetOk s.dbg.target.toNat, abINCONS),
      (readAvail s i sub, abNOTAVAIL)]
    stamp s h (if ab ≠ 0 then refuse s p (pduObj h) ab else respond s { path := p, data := readData s p r i sub off len })

/-- The 8 bytes of a describe field. -/
def descField (v : Nat) : List Byte := leBytes 8 v

/-- The 32 bytes of a describe response (R425); the codes of types and access are free (log 2). -/
def descBytes (s : State) (r : ORow) (sub : Nat) : List Byte :=
  let (lo, hi) := match r.rng with
    | .num a b => (a, b)
    | .enum n => (0, n - 1)
    | .flt a b => (a, b)
    | .free => (0, 0)
  [Config.typeCode r.typ.ctorIdx, Config.accessCode r.acc.ctorIdx, 0#8, 0#8] ++ leBytes 4 (objSize s r sub) ++ descField r.dflt ++ descField lo ++ descField hi

/-- A description (R425). -/
def odDescribe (s : State) (p : Path) (h : Pdu) : State :=
  if !served s p then s
  else
    let i := h.index.toNat
    let c := pduCheck p h 0x303 (h.length == 0#32)
    let ab := if c ≠ 0 then c else firstAbort [(readState s i, abSTATE), (h.offset == 0#32, abBADLEN)]
    stamp s h (if ab ≠ 0 then refuse s p (pduObj h) ab
      else respond s { path := p, data := descBytes s ((objRow i h.sub.toNat).getD { idx := i }) h.sub.toNat })

/-! ### Writes -/

/-- The state an outcome gives. -/
def outState (s : State) : Host.Outcome State Fault Refusal → State
  | .next t => t
  | _ => s

/-- Whether the access code of a row permits a write in the device state (Table 13-6). -/
def accState (s : State) (r : ORow) : Bool :=
  match r.acc with
  | .rws => s.dev.state == .standby
  | .rwd => s.dev.state == .ready || s.dev.state == .draining
  | _ => true

/-- Stores a value of a core or schedule object. -/
def putB (s : State) (i sub v : Nat) : State :=
  let w := BitVec.ofNat 32 v
  match i with
  | 0x2011 => s.mapSch fun k => { k with eddyLimit := v }
  | 0x2020 => s.mapSch fun k => { k with oxLimit := v }
  | 0x2060 => if stagesNow s then stage s (.numctl (sub - 1) (w &&& 1#32)) else s.mapCore (sub - 1) fun k => { k with numctl := w &&& 1#32 }
  | 0x2061 =>
    if stagesNow s ∧ s.sch.job then s.mapCore (sub - 1) fun k => { k with stickyClr := k.stickyClr ||| w }
    else s.mapCore (sub - 1) fun k => { k with sticky := k.sticky &&& ~~~w }
  | 0x2070 => s.mapSch fun k => match sub with
    | 1 => { k with sndOn := decide (v = 1) }
    | 2 => { k with sndThin := v }
    | 3 => { k with sndRows := v }
    | 4 => { k with sndWarn := w }
    | 5 => { k with sndAlarm := w }
    | 6 => { k with sndBias := w }
    | 7 => { k with sndWin := v }
    | _ => { k with sndHalt := decide (v = 1) }
  | _ => { s with rep := if sub = 1 then { s.rep with auto := decide (v = 1) } else { s.rep with autoN := v } }

/-- Stores a value of a bed, weight or fabric object. -/
def putC (s : State) (i sub v : Nat) : State :=
  match i with
  | 0x3010 => s.mapBeds fun b => if sub = 1 then { b with kvS := v } else if sub = 2 then { b with kvQ := v } else { b with kvU := v }
  | 0x3040 => s.mapBeds fun b => { b with scrubHours := v }
  | 0x3060 => s.mapWts fun w => if sub = 1 then { w with rescanSec := v } else { w with rescanHalt := decide (v = 1) }
  | 0x3070 => s.mapWts fun w => if sub = 6 then { w with swPath := v } else if sub = 7 then { w with swExp := v } else { w with swLimMs := v }
  | 0x3080 => s.mapWts fun w =>
      if sub = 5 then { w with quietMs := v } else { w with sources := fset w.sources 0#64 sub (BitVec.ofNat 64 (v / 2 ^ 36 * 2 ^ 36)) }
  | 0x3082 => s.mapWts fun w => { w with relay := BitVec.ofNat 16 v &&& 0x80FF#16 }
  | 0x3095 => { s with rep := { s.rep with rowN := v } }
  | 0x4031 => s.mapFab fun f => { f with role := v }
  | 0x4032 => s.mapFab fun f => { f with parent := v }
  | 0x4033 => s.mapFab fun f => { f with childs := BitVec.ofNat 16 v }
  | _ => s.mapFab fun f => { f with arb := fset f.arb (if sub = 1 then 8 else if sub = 2 then 4 else 1) sub v }

/-- Stores a value of a serving, power, recorder, debug or management object. -/
def putE (s : State) (i sub v : Nat) : State :=
  match i with
  | 0x1102 => s.mapMgm fun m => { m with owner := v }
  | 0x1110 => s.mapMgm fun m => { m with segOn := decide (v = 1) }
  | 0x1827 => s.mapMgm fun m => { m with wdogMs := v }
  | 0x5000 => s.mapSrv fun x => { x with conf := fset x.conf (confD sub) sub v }
  | 0x5030 => s.mapSrv fun x => { x with stops := fset x.stops 0xFFFFFFFF sub v }
  | 0x5210 => s.mapSrv fun x => { x with tenSel := v }
  | 0x5300 => s.mapSrv fun x => { x with adStride := v }
  | 0x5310 => s.mapSrv fun x => { x with adSel := v }
  | 0x6010 => s.mapPwr fun p => if sub = 1 then { p with target := v / 25 * 25 } else { p with raiseUs := v }
  | 0x6021 => s.mapPwr fun p => match sub with
    | 1 => { p with tripMv := v }
    | 2 => { p with hystMv := v }
    | 3 => { p with throttle := v }
    | _ => { p with crit := v }
  | 0x6030 => s.mapPwr fun p => match sub with
    | 1 => { p with sust := v }
    | 2 => { p with warnW := v }
    | 3 => { p with cap := v }
    | _ => { p with stat := v }
  | 0x7030 => { s with inp := { s.inp with mode := v } }
  | 0x7031 => { s with inp := { s.inp with replayOn := v } }
  | 0xA000 => s.mapDbg fun d => { d with steps := v }
  | 0xA001 => s.mapDbg fun d => if sub = 1 then { d with brkStep := v } else if sub = 2 then { d with brkS := v } else { d with brkId := v }
  | _ => s.mapDbg fun d => { d with target := BitVec.ofNat 64 (bits v 63 52 * 2 ^ 52 + bits v 31 0) }

/-- Stores a value. -/
def objPut (s : State) (i sub v : Nat) : State :=
  if 0x2000 ≤ i ∧ i < 0x3000 then putB s i sub v else if 0x3000 ≤ i ∧ i < 0x5000 then putC s i sub v else putE s i sub v

/-- Check 8 of R430: the serving configuration (R381), and the critical temperature above the throttle temperature (R480). -/
def consistent (s : State) (i sub v : Nat) : Bool :=
  let t := putE s i sub v
  if i = 0x6021 then decide (t.pwr.throttle < t.pwr.crit)
  else if i ≠ 0x5000 then true
  else
    decide (conf t 2 ≤ conf t 3) && decide ((conf t 4 + 1) * cdiv 128 (max 1 (conf t 3)) ≤ 512)

/-- A write of an object of a fixed type without a command of its own. -/
def writeValue (s : State) (p : Path) (r : ORow) (i sub off : Nat) (data : List Byte) : State :=
  let v := leNat data
  let w := clampObj r v
  let own := i != 0x1102 || p == .tributary
  if served s p && ownerOk s p && !own then refuse s p (i * 256 + sub) abNOTOWNER
  else odCmd s p (i * 256 + sub) (accState s r && !(i == 0x2060 && stagesNow s && s.inp.replaying))
    (firstAbort [(off == 0 && data.length == typSize r.typ, abBADLEN), (valueOk r v, abBADVALUE), (consistent s i sub w, abINCONS),
      (i != 0x2060 || !stagesNow s || stageRoom s (.numctl (sub - 1) 0#32), abSTAGEFULL)])
    fun s => (objPut s i sub w).cond (w != v) fun s => clamped s (i * 256 + sub)

/-- Bytes written at `off` of a table, with the bits that its entries do not have read as 0 (R14). -/
def maskBytes (m : Nat → Byte) (off : Nat) (data : List Byte) : List Byte := (List.range data.length).map fun j => byteAt data j &&& m (off + j)

/-- Byte `j` of a number repeated every `w` bytes. -/
def maskOf (w v j : Nat) : Byte := BitVec.ofNat 8 (v >>> (8 * (j % w)))

/-- Bits of the receive-queue table that are written: [63:24] of the entries below the service queues (R324). -/
def queueMask (j : Nat) : Byte := if j < 8 * 0x3F0 then maskOf 8 0xFFFFFFFFFF000000 j else 0#8

/-- Bits of the fan-out table that are written: not [4:0] and not bit 0 of a branch (Table 10-9). -/
def fanMask (j : Nat) : Byte := maskOf 16 (2 ^ 128 - 1 - (0x3F + 2 ^ 33 + 2 ^ 61 + 2 ^ 89)) j

/-- Bits of the reduce table that are written: [63:31] (Table 10-10). -/
def redMask (j : Nat) : Byte := maskOf 8 0xFFFFFFFF80000000 j

/-- A write of bytes into a DOMAIN of access RWS: the fabric tables and the replay log. -/
def writeDomain (s : State) (p : Path) (r : ORow) (i sub off : Nat) (data : List Byte) : State :=
  odCmd s p (i * 256 + sub) (accState s r) (firstAbort [(decide (off + data.length ≤ objSize s r sub), abPASTEND)]) fun s =>
    match i with
    | 0x4060 => s.mapFab fun f => { f with queues := mwrite f.queues off (maskBytes queueMask off data) }
    | 0x4061 => s.mapFab fun f => { f with fan := mwrite f.fan off (maskBytes fanMask off data) }
    | 0x4062 => s.mapFab fun f => { f with red := mwrite f.red off (maskBytes redMask off data) }
    | _ => logWrite s off data

/-- A value that the object does not define: the owner and the state are checked first. -/
def badCode (s : State) (p : Path) (obj : Nat) : State := odCmd s p obj true abBADVALUE fun s => s

/-- A command code written to 0x1800:02 (Table 13-10); an undefined one is refused with `BAD_COMMAND` in every state. -/
def devWrite (s : State) (p : Path) (v : Nat) : State :=
  let o := outState s
  match v with
  | 1 => o (execLoad p s)
  | 2 => o (execAccept p s)
  | 3 => o (execUnload p s)
  | 4 => o (execRun p s)
  | 5 => o (execDrainCmd p s)
  | 6 => o (execKill p s)
  | 7 => o (execKillWeights p s)
  | 8 => o (execSleep p s)
  | 9 => o (execWake p s)
  | _ => if !ownerOk s p then refuse s p 0x180002 abNOTOWNER else refuse s p 0x180002 abBADCMD

/-- The write of an object that has a command: `data` as the PDU carries it, of the object's length. -/
def writeRoute (s : State) (p : Path) (i sub off : Nat) (data : List Byte) : Option State :=
  let obj := i * 256 + sub
  let v := leNat data
  let o := outState s
  let so := BitVec.ofNat 32 (fieldAt data 0 4)
  let sd := data.drop 4
  let c : CoreId := Fin.ofNat 192 (sub - 1)
  let l : LinkId := Fin.ofNat 16 (sub - 1)
  match i with
  | 0x1800 => some (devWrite s p v)
  | 0x1811 => some (o (execImageWrite p so sd s))
  | 0x1812 => some (o (execPlacementWrite p so sd s))
  | 0x1820 => some (o (execFirmwareWrite p so sd s))
  | 0x1821 => some (if v = 1 then o (execFirmwareStart p s) else badCode s p obj)
  | 0x1823 => some (o (execFwUpdateWrite p so sd s))
  | 0x1824 => some (match v with
    | 0 => o (execFwUpdateCancel p s)
    | 1 => o (execFwUpdateCheck p s)
    | 2 => o (execFwUpdateSwitch p s)
    | 3 => o (execFwUpdateConfirm p s)
    | _ => badCode s p obj)
  | 0x1830 => some (o (execConfigWrite p so sd s))
  | 0x1831 => some (if v = 1 then o (execConfigApply p s) else badCode s p obj)
  | 0x2032 => some (o (execBankWrite p c ⟨!(s.core c.val).activeB, so⟩ sd s))
  | 0x2033 => some (if v = 1 then o (execBankSeal p c s) else if v = 2 then o (execBankSealSwitch p c s) else badCode s p obj)
  | 0x2090 => some (o (execSegmentMaskWrite p (.core c) (BitVec.ofNat 8 v) s))
  | 0x20A0 => some (o (execSegmentMaskWrite p (.pool (Fin.ofNat 16 (sub - 1))) (BitVec.ofNat 8 v) s))
  | 0x2102 => some (o (execFenceRequest p (BitVec.ofNat 16 v) s))
  | 0x3000 => some (o (execPartitionWrite p (Fin.ofNat 8 (sub - 1)) (BitVec.ofNat 64 v) s))
  | 0x3070 => if sub = 1 then some (o (execSwapImageWrite p so sd s)) else if sub = 3 then some (o (execReleaseStepWrite p (BitVec.ofNat 64 v) s)) else none
  | 0x3071 => some (if v = 1 then o (execSwapStage p s) else if v = 0 then o (execSwapCancel p s) else badCode s p obj)
  | 0x3094 => some (o (execStackFenceRequest p (BitVec.ofNat 16 v) s))
  | 0x4010 => some (o (execLinkEnable p l (BitVec.ofNat 32 v) s))
  | 0x4020 => some (o (execPathBankWrite p so sd s))
  | 0x4021 => some (if v = 1 then o (execPathBankSeal p s) else if v = 2 then o (execPathBankSealSwitch p s) else badCode s p obj)
  | 0x4040 => some (o (execGateWrite p l (BitVec.ofNat 8 v) s))
  | 0x5020 => some (o (execCutStepWrite p (BitVec.ofNat 64 v) s))
  | 0x5210 => if sub = 3 then some (o (execBudgetAdd p (BitVec.ofNat 64 v) s)) else none
  | 0x5310 => match sub with
    | 6 => some (o (execAdapterDataWrite p so sd s))
    | 7 => some (o (execAdapterDigestWrite p data s))
    | _ => none
  | 0x5320 => match sub with
    | 1 => some (o (execAdapterAlloc p (BitVec.ofNat 32 v) s))
    | 4 => some (o (execAdapterPublish p (BitVec.ofNat 16 v) s))
    | _ => some (o (execAdapterWithdraw p (BitVec.ofNat 16 v) s))
  | 0x7010 => some (odCmd s p obj true 0 fun s => latch s sub v)
  | 0x8020 => some (o (execQuoteRequest p data s))
  | 0xA000 => if sub = 1 then some (if 1 ≤ v ∧ v ≤ 5 then dbgCmd s p v else badCode s p obj) else none
  | 0xA010 => if sub = 2 then some (o (execDebugWrite p (BitVec.ofNat 32 off) data s)) else none
  | _ => none

/-- Whether `OFFSET` and `LENGTH` of a write to an object with a command are allowed (R429): a stream begins with its own byte offset. -/
def routeLenOk (r : ORow) (i off : Nat) (data : List Byte) : Bool :=
  if r.typ ≠ .domain then off == 0 && data.length == typSize r.typ
  else if i = 0xA010 then true
  else if i = 0x8020 ∨ r.size = 32 then off == 0
  else off == 0 && decide (4 ≤ data.length)

/-- Data of the length that an object with a command expects. -/
def routePad (r : ORow) (data : List Byte) : List Byte :=
  if r.typ ≠ .domain then padTo (typSize r.typ) data else if r.size = 32 then data else padTo (max 4 data.length) data

/-- The write of an existing, writable object. -/
def writeObj (s : State) (p : Path) (r : ORow) (i sub off : Nat) (data : List Byte) : State :=
  match writeRoute s p i sub off (routePad r data) with
  | some t =>
    let ab := (t.mgm.resp.getLast?.map fun x => x.abort).getD 0
    if routeLenOk r i off data ∨ ab = abNOTOWNER ∨ ab = abSTATE then t else refuse s p (i * 256 + sub) abBADLEN
  | none => if r.typ = .domain then writeDomain s p r i sub off data else writeValue s p r i sub off data

/-- A write (R425, R430). -/
def odWrite (s : State) (p : Path) (h : Pdu) (data : List Byte) : State :=
  if !served s p then s
  else
    let i := h.index.toNat
    let sub := h.sub.toNat
    let r := (objRow i sub).getD { idx := i }
    let c := pduCheck p h 0x302 (decide (h.length.toNat = data.length))
    let ab := if c ≠ 0 then c else if r.acc = .ro then abREADONLY else 0
    stamp s h (if ab ≠ 0 then refuse s p (pduObj h) ab else writeObj s p r i sub h.offset.toNat data)

/-! ### Meanings -/

/-- OD_READ (R425, R427, R430). -/
def execOdRead (p : Path) (h : Pdu) (s : State) : Host.Outcome State Fault Refusal :=
  .next (odTake s p (.odRead p h) (stamp s h (refuse s p (pduObj h) abBUSY)) (odRead s p h))

/-- OD_WRITE (R425, R427, R430, R431). -/
def execOdWrite (p : Path) (h : Pdu) (data : List Byte) (s : State) : Host.Outcome State Fault Refusal :=
  .next (odTake s p (.odWrite p h data) (stamp s h (refuse s p (pduObj h) abBUSY)) (odWrite s p h data))

/-- OD_DESCRIBE (R425). -/
def execOdDescribe (p : Path) (h : Pdu) (s : State) : Host.Outcome State Fault Refusal :=
  .next (odTake s p (.odDescribe p h) (stamp s h (refuse s p (pduObj h) abBUSY)) (odDescribe s p h))

end Sys2Proof.Machine
end

