-- ==== Sys2Proof/Machine/Arbiter.lean ====
section
/-! DEFINITION. Arbitration of the memories and of the bulk network in an S-cycle (R255-R261, R289-R296): the wide accesses that the operations in
progress make, the bank conflicts of a scratchpad, router writes in free slots, pool overruns, bed collisions, overbooked bulk ports, and the
undefined results that follow. The accesses and their S-cycles are those that the rules state (log 73). -/

namespace Sys2Proof.Machine

/-! ### Banks (R252, R253) -/

/-- Row accesses to memory `m` after merging, as 2 × row, + 1 for a write (R256). -/
def wideRows (l : List WAcc) (m : Nat) : List Nat :=
  uniq ((l.filter fun x => x.mem == m).flatMap fun x => (accRows x).map fun ra => 2 * ra + if x.wr then 1 else 0)

/-- Whether a wide access writes row `ra` of memory `m`. -/
def rowWritten (l : List WAcc) (m ra : Nat) : Bool := l.any fun x => x.mem == m && x.wr && decide (x.lo / 32 ≤ ra ∧ ra ≤ (x.hi - 1) / 32)

/-! ### Bank conflicts of a scratchpad (R257) -/

/-- Rows of core `c` that router writes must have now: waiting for 16 W-cycles or more, and not merged into a wide write (R256, R257). -/
def urgentRows (s : State) (l : List WAcc) (c : Nat) : List Nat :=
  uniq ((s.fab.narrow.filter fun n => n.core == c && decide (n.atW + 16 ≤ s.sch.wCycle)).flatMap fun n =>
    (narrowRows n).filter fun ra => !rowWritten l c ra)

/-- Banks of the must-serve accesses of core `c`, one for each access. -/
def mustBanks (s : State) (l : List WAcc) (c : Nat) : List Nat :=
  (wideRows l c).map (fun q => rowBank (bankBits c) (q / 2)) ++ (urgentRows s l c).map (rowBank (bankBits c))

/-- The most must-serve accesses that meet in one bank of core `c`. -/
def conflictOf (s : State) (l : List WAcc) (c : Nat) : Nat :=
  let bs := mustBanks s l c
  bs.foldl (fun a b => max a (bs.count b)) 0

/-- Scratchpads with an access or a waiting write. -/
def spadsUsed (s : State) (l : List WAcc) : List Nat := uniq ((l.filter fun x => decide (x.mem < 192)).map (·.mem) ++ s.fab.narrow.map (·.core))

/-- Bank conflicts of the present S-cycle: core and m of the worst bank of each (R257). -/
def conflicts (s : State) (l : List WAcc) : List (Nat × Nat) :=
  ((spadsUsed s l).map fun c => (c, conflictOf s l c)).filter fun p => decide (1 < p.2)

/-- The W-cycles from which the banks of the present wide accesses are free when these are served one per W-cycle from now on (R257). -/
def busyBanks (s : State) (l : List WAcc) : FMap Nat :=
  (spadsUsed s l).foldl (fun m c => ((wideRows l c).map fun q => 64 * c + rowBank (bankBits c) (q / 2)).foldl
    (fun m k => fset m 0 k (max (fget m 0 k) s.sch.wCycle + 1)) m) []

/-- The S-cycle is held as cause 5 for m − 1 W-cycles, once (R257). -/
def conflictHold (s : State) (l : List WAcc) (cs : List (Nat × Nat)) : State :=
  let s := cs.foldl (fun s p => addCauseUntil s 5 p.1 (s.sch.wCycle + (p.2 - 1))) s
  s.mapSch fun k => { k with arbS := k.sCycle + 1, arbBusy := busyBanks s l }

/-! ### Router writes (R255-R258, R325) -/

/-- Writes one row of a router write; bytes that a wide access writes keep what that wrote (R256). The Bool says that it was dropped (R282). -/
def narrowRow (s : State) (l : List WAcc) (n : NarrowWr) (o : Nat) : State × Bool :=
  let a := n.addr + o
  let bs := (List.range 32).map fun i =>
    if l.any fun x => x.mem == n.core && x.wr && decide (x.lo ≤ a + i ∧ a + i < x.hi) then mget (s.core n.core).spad (a + i) else byteAt n.data (o + i)
  spadWrite s n.core a bs

/-- What a W-cycle has given to router writes so far: the state, the bank and row of each access, the writes that go on waiting. -/
structure NarrowAcc where
  st : State
  used : List (Nat × Nat)
  left : List NarrowWr

/-- Serves one row of a router write if its row is written by a wide access, or if its bank is free and no other row has taken it (R256-R258).
Answers the state, the accesses, and whether it was written or dropped. -/
def narrowServe (free : Nat → Bool) (l : List WAcc) (n : NarrowWr) (o : Nat) (s : State) (used : List (Nat × Nat)) :
    State × List (Nat × Nat) × Bool × Bool :=
  let ra := (n.addr + o) / 32
  let key := 64 * n.core + rowBank (bankBits n.core) ra
  let merged := rowWritten l n.core ra
  let slot : Bool := match used.find? fun p => p.1 == key with
    | some p => p.2 == ra
    | none => free key
  if merged || slot then
    let (s, off) := narrowRow s l n o
    (s, if merged then used else (key, ra) :: used, true, off)
  else (s, used, false, false)

/-- One router write: its rows in order; it is counted once both are written (R325), and dropped whole if its segment is off (R282). -/
def narrowOne (free : Nat → Bool) (l : List WAcc) (a : NarrowAcc) (n : NarrowWr) : NarrowAcc :=
  let (s, u, ok0, off0) := if n.lo then (a.st, a.used, true, false) else narrowServe free l n 0 a.st a.used
  let (s, u, ok1, off1) := if n.hi then (s, u, true, false) else narrowServe free l n 32 s u
  if off0 || off1 then { a with st := s.mapFab fun f => { f with arrDrops := sat32 f.arrDrops }, used := u }
  else if ok0 && ok1 then { a with st := halfCountUp s n.key n.tag n.data, used := u }
  else { st := s, used := u, left := a.left ++ [{ n with lo := ok0, hi := ok1 }] }

/-- Rows that router writes have been given: those of `a` that are not left in `b`, as core and row. -/
def rowsServed (a b : List NarrowWr) : List (Nat × Nat) :=
  a.flatMap fun n =>
    let still := (b.filter fun m => m.key == n.key && m.tag == n.tag && m.atW == n.atW && m.data == n.data).flatMap narrowRows
    ((narrowRows n).filter fun ra => !still.contains ra).map fun ra => (n.core, ra)

/-- Bytes of a row that two router writes have written in one S-cycle are undefined, but for those that a wide access has written (R256). -/
def narrowClash (l : List WAcc) (s : State) : List (Nat × Nat) → State
  | [] => s
  | p :: r =>
    let free := (List.range 32).filter fun i => !l.any fun x => x.mem == p.1 && x.wr && decide (x.lo ≤ 32 * p.2 + i ∧ 32 * p.2 + i < x.hi)
    let s := if r.contains p then
        let (bs, s) := takeFree s free.length
        (s.each (List.range free.length) fun s i => (spadWrite s p.1 (32 * p.2 + free.getD i 0) [byteAt bs i]).1)
      else s
    narrowClash l s r

/-- Router writes of one W-cycle, oldest first, one access a bank (R257, R258). -/
def narrowTurn (free : Nat → Bool) (l : List WAcc) (s : State) : State :=
  if s.fab.narrow.isEmpty then s
  else
    let a := s.fab.narrow.foldl (narrowOne free l) ⟨s, [], []⟩
    narrowClash l (a.st.mapFab fun f => { f with narrow := a.left }) (rowsServed s.fab.narrow a.left)

/-- Banks that no wide access holds in the W-cycle in which an S-cycle completes: those without one, and those served before in its conflict. -/
def bankFree (s : State) (l : List WAcc) : Nat → Bool :=
  let held := l.flatMap fun x => if x.mem < 192 then (accRows x).map fun ra => 64 * x.mem + rowBank (bankBits x.mem) ra else []
  fun k => if s.sch.arbS = s.sch.sCycle + 1 then decide (fget s.sch.arbBusy 0 k ≤ s.sch.wCycle) else !held.contains k

/-- Router writes in a W-cycle of an Eddy: any bank that the accesses of a conflict do not hold (R258). -/
def narrowEddy (s : State) : State := narrowTurn (fun k => decide (fget s.sch.arbBusy 0 k ≤ s.sch.wCycle)) [] s

/-! ### Undefined results -/

/-- The result of an operation becomes undefined (R259, R261, R296, R581): what it is still to write, or to send, is free; if it has written its result,
free bytes are written over its destination at once. -/
def undefXfer (s : State) (c e t0 : Nat) : State :=
  match (s.core c).run.find? fun r => r.eng == e && r.startS == t0 with
  | none => s
  | some r =>
    if r.bad then s
    else
      let s := setOp s c r fun r => { r with bad := true }
      if r.done ∧ opTimed (dOpcode r.item.desc) then opUndef s (operand s c r.item.desc 3) else s

/-- Bytes of scratchpads that two requests of different sources write in one S-cycle: memory, first byte, end (R256). -/
def writeClash : List WAcc → List (Nat × Nat × Nat)
  | [] => []
  | x :: r => ((r.filter fun y => y.mem == x.mem && (y.core != x.core || y.eng != x.eng || y.t0 != x.t0) && decide (max x.lo y.lo < min x.hi y.hi)).map
      fun y => (x.mem, max x.lo y.lo, min x.hi y.hi)) ++ writeClash r

/-- Bytes that two requests write in the present S-cycle are undefined (R256). -/
def clashUndef (l : List WAcc) (s : State) : State :=
  s.each (writeClash (l.filter fun x => x.wr && decide (x.mem < 192))) fun s p =>
    let (bs, s) := takeFree s (p.2.2 - p.2.1)
    (spadWrite s p.1 p.2.1 bs).1

/-- A `SAMPLE` one of whose logits is written, as part of bytes `lo` to `hi - 1` of a memory, before its last read has an undefined result (R581). -/
def sampleRace (ws : List (Nat × Nat × Nat)) (t : Nat) (s : State) : State :=
  s.each (ringCores s) fun s c => s.each ((s.core c).run.filter fun r => dOpcode r.item.desc == 0x80 && decide (r.startS ≤ t)) fun s r =>
    match operand s c r.item.desc 0 with
    | some x =>
      let f := dP r.item.desc 45 41
      let v := dP r.item.desc 63 46
      let n := cdiv v 64
      let hit := (indices n fun j => decide (t < r.startS + 2 * n + j)).any fun j =>
        let a := x.a + fmtBytes f (64 * j)
        let b := x.a + fmtBytes f (min v (64 * j + 64))
        ws.any fun w => memNo x.loc == some w.1 && decide (max w.2.1 a < min w.2.2 b)
      if hit then undefXfer s c r.eng r.startS else s
    | none => s

/-! ### Pools (R259) -/

/-- The row accesses that arrive at a pool in S-cycle `t`, in the order of their sources, those of one row and kind as one (R256, R259). -/
def poolNew (l : List WAcc) (t cl : Nat) : List PoolReq :=
  ((l.filter fun x => x.mem == 192 + cl).flatMap fun x => (accRows x).map fun ra => (x, ra)).foldl (fun q (p : WAcc × Nat) =>
    let src := (16 * p.1.core + p.1.eng, p.1.t0)
    let same := fun (y : PoolReq) => y.row == p.2 && y.wr == p.1.wr
    if q.any same then mapFirst same (fun y => { y with srcs := y.srcs ++ [src] }) q
    else q ++ [{ atS := t, row := p.2, wr := p.1.wr, srcs := [src] }]) []

/-- One S-cycle of a pool: each bank serves the first of its requests; the others are left. -/
def poolServe : List Nat → List PoolReq → List PoolReq
  | _, [] => []
  | used, q :: r =>
    let b := rowBank 6 q.row
    if used.contains b then q :: poolServe used r else poolServe (b :: used) r

/-- An overrun (R259): event 0x0805, 0x20A3, and undefined results. -/
def poolOverrun (cl : Nat) (s : State) (q : PoolReq) : State :=
  let s := raise (s.mapPool cl fun p => { p with overruns := sat32 p.overruns }) 0x0805 cl [1, cl, rowBank 6 q.row, 32 * q.row]
  s.each q.srcs fun s p => undefXfer s (p.1 / 16) (p.1 % 16) p.2

/-- One S-cycle of the pool of a cluster: new requests queue behind the waiting ones; one that has waited 6 S-cycles is an overrun (R259). -/
def poolTurn (l : List WAcc) (t : Nat) (s : State) (cl : Nat) : State :=
  let q := poolServe [] ((s.pool cl).waiting ++ poolNew l t cl)
  let late := q.filter fun y => decide (y.atS + 6 ≤ t)
  let s := s.mapPool cl fun p => { p with waiting := q.filter fun y => decide (t < y.atS + 6) }
  s.each late (poolOverrun cl)

/-- Pools that have requests. -/
def poolsUsed (s : State) (l : List WAcc) : List Nat :=
  indices 16 fun cl => !(s.pool cl).waiting.isEmpty || l.any fun x => x.mem == 192 + cl

/-! ### Beds (R260, R261) -/

/-- Pieces of the bed accesses of one kind by line: the line, its bytes, the source. -/
def bedReqs (l : List WAcc) (wr : Bool) : List (Nat × Nat × WAcc) :=
  (l.filter fun x => x.mem == 208 && x.wr == wr).flatMap fun x =>
    (List.range ((x.hi - 1) / 1024 - x.lo / 1024 + 1)).map fun i =>
      let n := x.lo / 1024 + i
      (n, min x.hi (1024 * (n + 1)) - max x.lo (1024 * n), x)

/-- The pieces of one stack that are not served: those of another line than the first source's, and writes that do not fit in the 512 bytes (R260,
R261). -/
def bedMissed (wr : Bool) : List (Nat × Nat × WAcc) → List (Nat × Nat × WAcc)
  | [] => []
  | p :: r => (((p :: r).foldl (fun (a : Nat × List (Nat × Nat × WAcc)) q =>
      if q.1 ≠ p.1 then (a.1, a.2 ++ [q])
      else if wr ∧ 512 < a.1 + q.2.1 then (a.1, a.2 ++ [q])
      else (a.1 + q.2.1, a.2)) (0, [])).2)

/-- A collision on stack `k` (R261): event 0x0806, 0x3022, and an undefined result. -/
def bedCollide (k : Nat) (s : State) (q : Nat × Nat × WAcc) : State :=
  let s := raise (s.mapBeds fun b => { b with coll := fmod b.coll 0 k sat32 }) 0x0806 (0x20 + k) [2, k, 1024 * q.1]
  undefXfer s q.2.2.core q.2.2.eng q.2.2.t0

/-- One S-cycle of the bed ports. -/
def bedTurn (l : List WAcc) (s : State) : State :=
  [false, true].foldl (fun s wr =>
    let ps := bedReqs l wr
    s.each (indices 16 fun k => ps.any fun p => (rowOf s p.1).1 == k) fun s k =>
      s.each (bedMissed wr (ps.filter fun p => (rowOf s p.1).1 == k)) (bedCollide k)) s

/-! ### Bulk network (R289-R296) -/

/-- The ports of the mesh on the way from cluster `a` to cluster `b`: along x, then along y (R290, R291). -/
def meshPorts (a b : Nat) : List Nat :=
  let xa := a % 4
  let xb := b % 4
  let ya := a / 4
  let yb := b / 4
  ((List.range (xb - xa)).map fun q => 6 * (4 * ya + xa + q)) ++ ((List.range (xa - xb)).map fun q => 6 * (4 * ya + xa - q) + 1) ++
  ((List.range (yb - ya)).map fun q => 6 * (4 * (ya + q) + xb) + 2) ++ ((List.range (ya - yb)).map fun q => 6 * (4 * (ya - q) + xb) + 3)

/-- Cluster of an endpoint of a transfer; none for the beds and queues. -/
def locCluster (l : Loc) : Option Nat :=
  match l with
  | .spad c => some (c / 12)
  | .pool cl => some cl
  | .bank c => some (c / 12)
  | _ => none

/-- A claim of a transfer on a port in one S-cycle. -/
structure PortClaim where
  port : Nat
  units : Nat
  core : Nat
  eng : Nat
  t0 : Nat
deriving DecidableEq, Repr

/-- The claims of a transfer, `i` S-cycles after its start (R295): its chunks cross local out, the mesh ports in turn and local in. -/
def opClaims (s : State) (c : Nat) (r : RunOp) (i : Nat) : List PortClaim :=
  let d := r.item.desc
  let x := operandAny s c d 0
  let y := operandAny s c d 3
  let ends := if dOpcode d = 0xA1 then (some (c / 12), (operand s c d 3).bind fun o => locCluster o.loc)
    else if dOpcode d = 0xA0 ∧ copyPair x y then (locCluster x.loc, locCluster y.loc) else (none, none)
  match ends with
  | (some a, some b) =>
    if a = b then []
    else
      let ms := meshPorts a b
      let at_ := (6 * a + 4, 1) :: ((List.range ms.length).map fun q => (ms.getD q 0, 2 * q + 3)) ++ [(6 * b + 5, 2 * ms.length + 3)]
      (at_.filter fun p => decide (p.2 ≤ i ∧ i - p.2 < r.occ)).map fun p => ⟨p.1, xferRate s c d / 16, c, r.eng, r.startS⟩
  | _ => []

/-- The claims of S-cycle `t`, by source cluster, slot and engine (R259, R296). -/
def bulkClaims (s : State) (t : Nat) : List PortClaim :=
  (ringCores s).flatMap fun c => ([12, 13, 14, 15].flatMap fun e => (s.core c).run.filter fun r => r.eng == e && decide (r.startS ≤ t)).flatMap fun r =>
    opClaims s c r (t - r.startS)

/-- Capacity of a port in units (R290, R297): 16 of a local port, 8 of a mesh port. -/
def portUnits (l : Nat) : Nat := if 4 ≤ l % 6 then 16 else 8

/-- The claims on one port that are not carried in full: from the first that does not fit on (R296). -/
def portLost (left : Nat) : List PortClaim → List PortClaim
  | [] => []
  | p :: r => if p.units ≤ left then portLost (left - p.units) r else p :: r

/-- An overbooked port (R296): event 0x0901, 0x20B0, and undefined results. -/
def portOver (s : State) (p : Nat × List PortClaim) : State :=
  let s := raise (s.mapSch fun k => { k with bulkOver := fmod k.bulkOver 0 p.1 sat32 }) 0x0901 (p.1 / 6) [p.1]
  s.each p.2 fun s q => undefXfer s q.core q.eng q.t0

/-- One S-cycle of the bulk network. -/
def bulkTurn (t : Nat) (s : State) : State :=
  let cs := bulkClaims s t
  s.each (((indices 96 fun l => cs.any fun p => p.port == l).map fun l => (l, portLost (portUnits l) (cs.filter fun p => p.port == l))).filter
    fun p => !p.2.isEmpty) portOver

/-! ### An S-cycle -/

/-- Arbitration of the S-cycle that completes, with the accesses `l` of its wide requests. -/
def arbTurn (l : List WAcc) (s : State) : State :=
  let t := s.sch.sCycle
  let s := clashUndef l s
  let s := s.each (poolsUsed s l) (poolTurn l t)
  let s := bulkTurn t (bedTurn l s)
  let u := narrowTurn (bankFree s l) l s
  let ws := (l.filter fun x => x.wr).map fun x => (x.mem, x.lo, x.hi)
  sampleRace (ws ++ (rowsServed s.fab.narrow u.fab.narrow).map fun p => (p.1, 32 * p.2, 32 * p.2 + 32)) t u

/-! ### Errors known to the check bits (R270, R271) -/

/-- The first unit of `w` bytes with an error mark that bytes `lo` to `hi - 1` touch. -/
def badIn (m : FMap Bool) (w lo hi : Nat) : Option Nat := (m.find? fun p => decide (lo < w * p.1 + w ∧ w * p.1 < hi)).map (·.1)

/-- The uncorrectable granule that a wide read finds. -/
def accBad (s : State) (x : WAcc) : Option MemLoc :=
  if x.wr then none
  else if h : x.mem < 192 then (badIn (s.core x.mem).bad 8 x.lo x.hi).map (MemLoc.spad ⟨x.mem, h⟩)
  else if h : x.mem - 192 < 16 then (badIn (s.pool (x.mem - 192)).bad 8 x.lo x.hi).map (MemLoc.pool ⟨x.mem - 192, h⟩)
  else (badIn s.beds.bad 1024 x.lo x.hi).map MemLoc.beds

/-- The uncorrectable granule that an operation finds in its core's registers or accumulator stores in S-cycle `t` (R33, R152, R163, R196, R210). -/
def opRegBad (s : State) (c : CoreId) (t : Nat) (r : RunOp) : Option MemLoc :=
  let k := s.core c.val
  let i := t - r.startS
  let d := r.item.desc
  let n := vBytes c.val
  let q := i + r.occ - r.lat
  let rows := if dOpcode d = 0x10 then (r.eng, if r.lat ≤ i + r.occ ∧ q < dP d 53 44 ∧ !dPb d 38 then [q] else []) else rowsRead c.val r i
  let sreg := if r.startS = t then (badIn k.badX 8 (8 * badKey 2 0) (8 * badKey 3 0)).map fun g => MemLoc.sreg c (g - badKey 2 0) else none
  let vreg := if dClass d = 2 then (vReads c.val r i).findSome? fun v =>
      (badIn k.badX 8 (8 * badKey 1 0 + n * v) (8 * badKey 1 0 + n * v + n)).map fun g => MemLoc.vreg c (g - badKey 1 0) else none
  let acc := rows.2.findSome? fun x => (badIn (k.arr rows.1).bad 1 (32 * (rowBase d + x)) (32 * (rowBase d + x) + 32)).map fun g => MemLoc.acc c (32768 * rows.1 + g)
  (sreg.or vreg).or acc

/-- The uncorrectable granule that a core finds in S-cycle `t` outside its wide requests: in the descriptor that its sequencer presents, or in registers and
accumulators. -/
def coreRegBad (s : State) (t c : Nat) : Option MemLoc :=
  if h : c < 192 then
    let k := s.core c
    if k.badX.isEmpty ∧ k.arrays.all fun p => p.2.bad.isEmpty then none
    else
      let a := (if k.activeB then bankBytes else 0) + 64 * k.idx
      let desc := if k.weirDone then none else (badIn k.badX 8 a (a + 64)).map (MemLoc.desc ⟨c, h⟩)
      desc.or (((k.run.filter fun r => !r.done && decide (r.startS ≤ t)).findSome? (opRegBad s ⟨c, h⟩ t)))
  else none

/-- The first uncorrectable granule that a read of S-cycle `t` finds (R271). -/
def badRead (s : State) (l : List WAcc) (t : Nat) : Option MemLoc := (l.findSome? (accBad s)).or ((ringCores s).findSome? (coreRegBad s t))

end Sys2Proof.Machine
end

