-- ==== Sys2Proof/Machine/Tick.lean ====
section
/-! DEFINITION. What the block does in one W-cycle when no command waits (log 3): wall time (R9, R343, R517), one S-cycle of the compute domain
(R31-R33, R92, R96, R255-R262, R296, R304, R305), or one W-cycle of an Eddy (R44-R48), and the halts of the debug unit that are due (R545). Every effect is the one
its command has. -/

namespace Sys2Proof.Machine

/-! ### Wall time -/

/-- ns of one W-cycle at the channel frequency `f` in MHz with the fraction `x` carried; the new fraction. -/
def tickNs (f x : Nat) : Nat × Nat := ((x + 1000) / max 1 f, (x + 1000) % max 1 f)

/-- Fabric time goes on by `d` ticks, slewed by 1 tick in 5,000 (200 ppm) while a correction is being worked off (R343). It stands until the first
lock of the reference (R459). -/
def fabTime (d x : Nat) (f : Fabric) : Fabric :=
  let e : Int := if f.slewNs ≠ 0 ∧ (f.ftime + d) / 5000 ≠ f.ftime / 5000 then (if f.slewNs < 0 then -1 else 1) else 0
  { f with frac := x, ftime := ((f.ftime + d : Nat) + e).toNat, slewNs := f.slewNs - e }

/-- Gauge time goes on by `d` ns, counted in ms (R517). -/
def gaugeTime (d : Nat) (g : Gauge) : Gauge :=
  if g.on then { g with time := g.time + (g.frac + d) / 1000000, frac := (g.frac + d) % 1000000 } else g

/-- Length in ns of the present W-cycle. -/
def tickLen (s : State) : Nat := (tickNs s.pwr.freq s.fab.frac).1

/-- Wall time passes. In OFF only the Gauge has a supply (R517). -/
def timeTick (s : State) : State :=
  let d := tickLen s
  let x := (tickNs s.pwr.freq s.fab.frac).2
  let s := { s with gau := gaugeTime d s.gau }
  if s.dev.state = .off then { s with fab := { s.fab with frac := x } }
  else serveRequests (if s.pwr.refState = 2 then { s with fab := { s.fab with frac := x } } else s.mapFab (fabTime d x))

/-! ### One S-cycle -/

/-- Completions of one core, in engine order: every operation whose latency has ended (R33, R87, R302). -/
def coreCompletes (s : State) (c : Nat) : State :=
  s.each ((List.range 16).flatMap fun e => ((s.core c).run.filter fun r => r.eng == e).map fun r => r.eng) fun s e => engComplete s c e

/-- Starts of one core: at most one an engine and S-cycle (R96). -/
def coreStarts (s : State) (c : Nat) : State := s.each (List.range 16) fun s e => engStart s c e

/-- The operations of one core in progress, in engine order. -/
def coreOps (s : State) (c : Nat) : List RunOp := (List.range 16).flatMap fun e => (s.core c).run.filter fun r => r.eng == e && !r.done

/-- Those whose effect spreads over their latency (log 5). -/
def timedOps (s : State) (c : Nat) : List RunOp := (coreOps s c).filter fun r => opTimed (dOpcode r.item.desc)

/-- The sends, receives and queue operations, which go packet by packet and entry by entry and which Eddy causes 1 to 4 hold (R45). -/
def moveOps (s : State) (c : Nat) : List RunOp := (coreOps s c).filter fun r => !opTimed (dOpcode r.item.desc)

/-- Runs a change of the state for every operation of a list of every scheduled core, by core and engine (R87). -/
def eachOp (s : State) (l : State → Nat → List RunOp) (f : State → Nat → RunOp → State) : State :=
  s.each (ringCores s) fun s c => s.each (l s c) fun s r => f s c (opNow s c r)

/-- The part of a send, receive or queue operation in this S-cycle. -/
def opMove (s : State) (c : Nat) (r : RunOp) : State :=
  if h : c < 192 then
    let x : CoreId := ⟨c, h⟩
    let a : Fin 4 := Fin.ofNat 4 r.eng
    if !sRun s then s
    else match dOpcode r.item.desc with
      | 0xB0 => outState s (execSend x a s)
      | 0xB1 => outState s (execRecv x a s)
      | 0xC0 => trdMove s c r.eng r
      | 0xC1 => outState s (execTwr x a s)
      | _ => s
  else s

/-- Sounding evaluations of one core. DESIGN CHOICE (log 74): a `STREAM` or `SNDLOAD` that starts in the S-cycle of the evaluation finds the sample still
pending, which R177 leaves open. -/
def coreEvaluates (s : State) (c : Nat) : State := s.each (List.range (arraysOf c)) fun s a => sndDue s c a

/-- The turn of one core's sequencer (R82, R95). -/
def coreTurn (s : State) (c : Nat) : State := if seqReady s c then seqTurn s c else s

/-- The inputs that a replay presents in this S-cycle: bed lines that read as zero, and debug writes (R541). -/
def replayInputs (s : State) : State :=
  s.cond s.inp.replaying fun s =>
    let s := replayKind s 6 s.sch.sCycle fun s d => lineZero s (fieldAt d 0 8 / 1024)
    replayKind s 8 s.sch.sCycle replayDebug

/-- The S-cycle begins: completions, signals, the Weir, starts (R31-R33, R86, R304). -/
def sStart (s : State) : State :=
  let s := replayInputs s
  let s := s.each (ringCores s) coreCompletes
  let s := weirBegin (flagsDue s)
  let s := s.each (ringCores s) coreStarts
  eachOp s (fun s c => (timedOps s c).filter fun r => r.startS == s.sch.sCycle) opBegin

/-- What the S-cycle does once nothing holds it: reads see what stood at its start, writes come after them (R258). -/
def sEffects (s : State) : State :=
  let s := eachOp s timedOps opCapture
  let s := eachOp s timedOps opZero
  let s := s.each (ringCores s) coreTurn
  let s := eachOp s timedOps opLand
  let s := s.each (ringCores s) fun s c => s.each ((s.core c).run.filter fun r => dOpcode r.item.desc == 0xC0) fun s r => trdLand s c (opNow s c r)
  s.each (ringCores s) coreEvaluates

/-- The work of the present S-cycle; a receive, send or queue operation that needs what is absent ends it with an Eddy cause, and so does a read that
finds an uncorrectable granule, which delivers nothing (R45, R271). -/
def sWork (s : State) : State :=
  let s := sStart s
  if !sRun s then s
  else
    let s := eachOp s moveOps opMove
    if !sRun s then s
    else
      let t := sEffects s
      match badRead s (wideAccess t s.sch.sCycle) s.sch.sCycle with
      | some m => machineCheck s m true
      | none => t

/-- Eddy causes 1 to 4 that the present S-cycle meets: what each operation needs by itself, and what they need together (R45, R47). -/
def sNeeds (s : State) : List Cause :=
  let b := sStart s
  let one := if sRun b then (ringCores b).flatMap fun c => (moveOps b c).flatMap fun r => (opMove b c r).sch.causes else []
  (one ++ (sWork s).sch.causes).filter fun x => decide (x.no ≤ 4)

/-- The S-cycle does not begin: its causes hold it (R44, R45). -/
def sHold (s : State) (l : List Cause) : State :=
  s.each l fun s x => if s.sch.causes.any fun y => y.no == x.no && y.src == x.src then s else s.mapSch fun k => { k with causes := k.causes ++ [x] }

/-- Spare slots of one core's arrays in the S-cycle that ends (R176). -/
def coreSpare (t : Nat) (s : State) (c : Nat) : State :=
  s.mapCore c fun k => (List.range (arraysOf c)).foldl (fun (k : Core) a =>
    { k with arrays := fset k.arrays {} a (sndSpare t (fget k.busy 0 (3 * a)) (k.arr a)) }) k

/-- The boundary at which S-cycle `t` begins (R91, R132). -/
def boundaryAt (s : State) (t : Nat) : State := s.each (ringCores s) fun s c => s.mapCore c (coreBoundary t)

/-- Halts that are due before the S-cycle about to begin: `STEP` of the debug unit, and armed breaks (R545). -/
def tickHalts (s : State) : State :=
  if sRun s ∧ s.sch.weirPhase = 0 then
    if s.dbg.haltS.any fun t => decide (t ≤ s.sch.sCycle) then debugHalt s 2
    else if s.dbg.brkS ≠ 0 ∧ s.dbg.brkS = s.sch.sCycle then debugHalt s 4
    else if s.dbg.brkIdHit then debugHalt (s.mapDbg fun d => { d with brkIdHit := false }) 5
    else s
  else s

/-- The present S-cycle completes, with its W-cycle; a Weir ends with its last S-cycle (R304, R305). -/
def sAdvance (s : State) : State :=
  let s := s.each (ringCores s) fun s c => oxbowCount (coreSpare s.sch.sCycle s c) c
  let s := oxbowTrip s
  if !sRun s then s
  else
    match s.sch.weirAt with
    | some w =>
      if w + 11 ≤ s.sch.sCycle then tickHalts (weirEnd (boundaryAt s (w + 12)))
      else sNext s
    | none => tickHalts (sNext s)
where
  /-- The next S-cycle begins; the W-cycle of a step's first S-cycle is the step's first (R49). -/
  sNext (s : State) : State :=
    let s := boundaryAt s (s.sch.sCycle + 1)
    s.mapSch fun k => { k with
      stepW := if k.sCycle = k.base then k.wCycle else k.stepW, sCycle := k.sCycle + 1, wCycle := k.wCycle + 1
      sigSent := k.sigSent.filter fun p => decide (192 * (k.sCycle + 1) ≤ p.1) }

/-! ### One W-cycle of an Eddy -/

/-- W-cycles of an Eddy count in total and for every cause present, once each (R47). -/
def eddyCount (d : Nat) (s : State) : State :=
  s.mapSch fun k => { k with
    wCycle := k.wCycle + 1, eddyW := k.eddyW + 1
    perCause := (uniq (k.causes.map (·.no))).foldl (fun m c => fset m 0 c (fget m 0 c + 1)) k.perCause
    eddyNs := if eddyCounts s then k.eddyNs + d else k.eddyNs }

/-- Causes whose W-cycle has come clear (R45); with the last one the Eddy ends. -/
def eddyClear (s : State) : State :=
  s.mapSch fun k =>
    let l := k.causes.filter fun c => match c.untilW with
      | some w => decide (k.wCycle < w)
      | none => true
    { k with causes := l, eddyNs := if l.isEmpty then 0 else k.eddyNs }

/-- Receives whose last counted packet the router has written: cause 1 ends at their horizon (R45, R326). -/
def recvReady (s : State) : State :=
  s.mapSch fun k => { k with causes := k.causes.map ready }
where
  /-- One cause. -/
  ready (x : Cause) : Cause :=
    match opOf s (x.src / 4) (12 + x.src % 4) 0xB1 with
    | some r =>
      let k := recvHalf s r
      if x.no = 1 ∧ x.untilW = none ∧ dP r.item.desc 51 40 ≤ halfCount s k then { x with untilW := some (fget s.fab.halfAt 0 k) } else x
    | none => x

/-- One W-cycle of an Eddy; while the channel clock is being changed there is none (R463). -/
def eddyTick (d : Nat) (s : State) : State :=
  if s.pwr.newFreq.isSome then s
  else
    let s := eddyCount d (recvReady (outsideTurn outsideAct [] (narrowEddy s)))
    let s := if eddyOver s then eddyTrip s else s
    let s := replayTimer (weirResume (eddyClear s))
    tickHalts s

/-- Whether the W-cycles of an Eddy pass: not while a halt holds the compute domain, but during a debug halt they do (R51, R544). -/
def eddyPasses (s : State) : Bool := s.sch.job && inEddy s && (s.dev.state != .halted || s.dev.dbgHalt)

/-- One W-cycle of a running compute domain; an Eddy that begins in it counts it (R44, R47). An S-cycle that a receive, send or queue operation cannot
have, or whose accesses conflict in a bank (R257), is held before it begins: nothing of it is done. -/
def runTick (d : Nat) (s : State) : State :=
  let s1 := sWork s
  if s1.sch.causes.any fun x => decide (x.no ≤ 4) then eddyTick d (sHold s (sNeeds s))
  else if sRun s1 then
    let l := wideAccess s1 s1.sch.sCycle
    let cs := if s.sch.arbS = s.sch.sCycle + 1 then [] else conflicts s1 l
    if cs.isEmpty then sAdvance (outsideTurn outsideAct l (arbTurn l s1)) else eddyTick d (conflictHold s l cs)
  else if eddyPasses s1 then eddyTick d s1 else s1

/-- One W-cycle with no command waiting. -/
def tick (s : State) : State :=
  let d := tickLen s
  let s := timeTick s
  if sRun s then runTick d s
  else if eddyPasses s then eddyTick d s
  else if s.dev.state = .off then s
  else outsideTurn outsideAct [] (narrowTurn (fun _ => true) [] s)

end Sys2Proof.Machine
end

