-- ==== Sys2Proof/Machine/Dispatch.lean ====
section
/-! DEFINITION. The meaning of every command of spec/opcode_table.json: one arm per constructor, in the table's order. -/

namespace Sys2Proof.Machine

/-- The command's effect on everything but the queue. -/
def exec (i : Instr) (s : State) : Host.Outcome State Fault Refusal :=
  match i with
  | .sync c => Sys2Proof.Machine.execSync c s
  | .sli c => Sys2Proof.Machine.execSli c s
  | .salu c => Sys2Proof.Machine.execSalu c s
  | .sld c => Sys2Proof.Machine.execSld c s
  | .slotmask c => Sys2Proof.Machine.execSlotmask c s
  | .weir c => Sys2Proof.Machine.execWeir c s
  | .bankarm c => Sys2Proof.Machine.execBankarm c s
  | .queueFreeDispatch c => Sys2Proof.Machine.execQueueFreeDispatch c s
  | .engineStart c e => Sys2Proof.Machine.execEngineStart c e s
  | .operationComplete c e => Sys2Proof.Machine.execOperationComplete c e s
  | .flagSignalEffect c f => Sys2Proof.Machine.execFlagSignalEffect c f s
  | .stream c a => Sys2Proof.Machine.execStream c a s
  | .stload c a => Sys2Proof.Machine.execStload c a s
  | .swap c a => Sys2Proof.Machine.execSwap c a s
  | .drain c a => Sys2Proof.Machine.execDrain c a s
  | .sndload c a => Sys2Proof.Machine.execSndload c a s
  | .soundingEvaluate c a => Sys2Proof.Machine.execSoundingEvaluate c a s
  | .vsetvl c => Sys2Proof.Machine.execVsetvl c s
  | .vint c => Sys2Proof.Machine.execVint c s
  | .vcmp c => Sys2Proof.Machine.execVcmp c s
  | .vmask c => Sys2Proof.Machine.execVmask c s
  | .vcvt c => Sys2Proof.Machine.execVcvt c s
  | .vld c => Sys2Proof.Machine.execVld c s
  | .vst c => Sys2Proof.Machine.execVst c s
  | .vflt c => Sys2Proof.Machine.execVflt c s
  | .vperm c => Sys2Proof.Machine.execVperm c s
  | .vacc c => Sys2Proof.Machine.execVacc c s
  | .vrcp c => Sys2Proof.Machine.execVrcp c s
  | .vexp c => Sys2Proof.Machine.execVexp c s
  | .vdiv c => Sys2Proof.Machine.execVdiv c s
  | .vred c => Sys2Proof.Machine.execVred c s
  | .softmax c => Sys2Proof.Machine.execSoftmax c s
  | .rmsnorm c => Sys2Proof.Machine.execRmsnorm c s
  | .layernorm c => Sys2Proof.Machine.execLayernorm c s
  | .rotary c => Sys2Proof.Machine.execRotary c s
  | .unpack c => Sys2Proof.Machine.execUnpack c s
  | .split c => Sys2Proof.Machine.execSplit c s
  | .gather c => Sys2Proof.Machine.execGather c s
  | .sample c => Sys2Proof.Machine.execSample c s
  | .verify c => Sys2Proof.Machine.execVerify c s
  | .copy c d => Sys2Proof.Machine.execCopy c d s
  | .fill c d => Sys2Proof.Machine.execFill c d s
  | .trd c d => Sys2Proof.Machine.execTrd c d s
  | .twr c d => Sys2Proof.Machine.execTwr c d s
  | .send c d => Sys2Proof.Machine.execSend c d s
  | .recv c d => Sys2Proof.Machine.execRecv c d s
  | .receiveComplete c d => Sys2Proof.Machine.execReceiveComplete c d s
  | .injectionSpaceFree b => Sys2Proof.Machine.execInjectionSpaceFree b s
  | .tribInputArrive q entry => Sys2Proof.Machine.execTribInputArrive q entry s
  | .tribOutputSpace n => Sys2Proof.Machine.execTribOutputSpace n s
  | .bankConflictServed c m => Sys2Proof.Machine.execBankConflictServed c m s
  | .eddyLimit => Sys2Proof.Machine.execEddyLimit s
  | .oxbowLimit => Sys2Proof.Machine.execOxbowLimit s
  | .weirBegin => Sys2Proof.Machine.execWeirBegin s
  | .weirEnd => Sys2Proof.Machine.execWeirEnd s
  | .stageAck n => Sys2Proof.Machine.execStageAck n s
  | .stagedDiscard n => Sys2Proof.Machine.execStagedDiscard n s
  | .uncorrectableRead m persistent => Sys2Proof.Machine.execUncorrectableRead m persistent s
  | .replayReady refetch => Sys2Proof.Machine.execReplayReady refetch s
  | .uncorrectableOutside m refetch => Sys2Proof.Machine.execUncorrectableOutside m refetch s
  | .scrubLine m corrected race => Sys2Proof.Machine.execScrubLine m corrected race s
  | .scrubOverrun => Sys2Proof.Machine.execScrubOverrun s
  | .segmentMaskWrite p u mask => Sys2Proof.Machine.execSegmentMaskWrite p u mask s
  | .segmentPowerDownDone u n => Sys2Proof.Machine.execSegmentPowerDownDone u n s
  | .segmentPowerUpDone u n => Sys2Proof.Machine.execSegmentPowerUpDone u n s
  | .partitionWrite p n v => Sys2Proof.Machine.execPartitionWrite p n v s
  | .flushOndieDone => Sys2Proof.Machine.execFlushOndieDone s
  | .flushComplete => Sys2Proof.Machine.execFlushComplete s
  | .controlMessage m => Sys2Proof.Machine.execControlMessage m s
  | .load p => Sys2Proof.Machine.execLoad p s
  | .imageWrite p off data => Sys2Proof.Machine.execImageWrite p off data s
  | .placementWrite p off data => Sys2Proof.Machine.execPlacementWrite p off data s
  | .accept p => Sys2Proof.Machine.execAccept p s
  | .unload p => Sys2Proof.Machine.execUnload p s
  | .run p => Sys2Proof.Machine.execRun p s
  | .jobStart => Sys2Proof.Machine.execJobStart s
  | .drainCmd p => Sys2Proof.Machine.execDrainCmd p s
  | .kill p => Sys2Proof.Machine.execKill p s
  | .killWeights p => Sys2Proof.Machine.execKillWeights p s
  | .sleep p => Sys2Proof.Machine.execSleep p s
  | .wake p => Sys2Proof.Machine.execWake p s
  | .wakeComplete bad => Sys2Proof.Machine.execWakeComplete bad s
  | .sleepReqAssert => Sys2Proof.Machine.execSleepReqAssert s
  | .sleepReqRelease => Sys2Proof.Machine.execSleepReqRelease s
  | .bankWrite p c place data => Sys2Proof.Machine.execBankWrite p c place data s
  | .bankSeal p c => Sys2Proof.Machine.execBankSeal p c s
  | .bankSealSwitch p c => Sys2Proof.Machine.execBankSealSwitch p c s
  | .pathBankWrite p off data => Sys2Proof.Machine.execPathBankWrite p off data s
  | .pathBankSeal p => Sys2Proof.Machine.execPathBankSeal p s
  | .pathBankSealSwitch p => Sys2Proof.Machine.execPathBankSealSwitch p s
  | .linkFrameReceive l f => Sys2Proof.Machine.execLinkFrameReceive l f s
  | .linkEnable p l v => Sys2Proof.Machine.execLinkEnable p l v s
  | .linkDisable p l v => Sys2Proof.Machine.execLinkDisable p l v s
  | .linkRetrain p l v => Sys2Proof.Machine.execLinkRetrain p l v s
  | .linkFault l bad => Sys2Proof.Machine.execLinkFault l bad s
  | .linkTrained l bad delay => Sys2Proof.Machine.execLinkTrained l bad delay s
  | .linkTrainTimeout l => Sys2Proof.Machine.execLinkTrainTimeout l s
  | .packetArrive l pk => Sys2Proof.Machine.execPacketArrive l pk s
  | .localRouteDeliver set2 v => Sys2Proof.Machine.execLocalRouteDeliver set2 v s
  | .reducePlaceFree => Sys2Proof.Machine.execReducePlaceFree s
  | .gateWrite p l v => Sys2Proof.Machine.execGateWrite p l v s
  | .classDrained l tc => Sys2Proof.Machine.execClassDrained l tc s
  | .drainTimeout l tc => Sys2Proof.Machine.execDrainTimeout l tc s
  | .beaconSend => Sys2Proof.Machine.execBeaconSend s
  | .beaconReceive l t => Sys2Proof.Machine.execBeaconReceive l t s
  | .beaconTimeout => Sys2Proof.Machine.execBeaconTimeout s
  | .intakeHeader st payload => Sys2Proof.Machine.execIntakeHeader st payload s
  | .intakeData st tag payload => Sys2Proof.Machine.execIntakeData st tag payload s
  | .tribPieceWrite data => Sys2Proof.Machine.execTribPieceWrite data s
  | .pieceHashComplete n => Sys2Proof.Machine.execPieceHashComplete n s
  | .sourceRequest => Sys2Proof.Machine.execSourceRequest s
  | .pieceRequest payload => Sys2Proof.Machine.execPieceRequest payload s
  | .rescanPiece n => Sys2Proof.Machine.execRescanPiece n s
  | .rescanOverrun => Sys2Proof.Machine.execRescanOverrun s
  | .swapImageWrite p off data => Sys2Proof.Machine.execSwapImageWrite p off data s
  | .swapStage p => Sys2Proof.Machine.execSwapStage p s
  | .swapCancel p => Sys2Proof.Machine.execSwapCancel p s
  | .releaseStepWrite p v => Sys2Proof.Machine.execReleaseStepWrite p v s
  | .swapFillLimit => Sys2Proof.Machine.execSwapFillLimit s
  | .swapReadyNotice => Sys2Proof.Machine.execSwapReadyNotice s
  | .servingRequest msg => Sys2Proof.Machine.execServingRequest msg s
  | .endRequest msg => Sys2Proof.Machine.execEndRequest msg s
  | .parkLimit sl => Sys2Proof.Machine.execParkLimit sl s
  | .budgetAdd p v => Sys2Proof.Machine.execBudgetAdd p v s
  | .cutStepWrite p v => Sys2Proof.Machine.execCutStepWrite p v s
  | .adapterAlloc p id => Sys2Proof.Machine.execAdapterAlloc p id s
  | .adapterDataWrite p off data => Sys2Proof.Machine.execAdapterDataWrite p off data s
  | .adapterDigestWrite p digest => Sys2Proof.Machine.execAdapterDigestWrite p digest s
  | .adapterVerified a => Sys2Proof.Machine.execAdapterVerified a s
  | .adapterPublish p v => Sys2Proof.Machine.execAdapterPublish p v s
  | .adapterWithdraw p v => Sys2Proof.Machine.execAdapterWithdraw p v s
  | .releaseOfReset segaddr => Sys2Proof.Machine.execReleaseOfReset segaddr s
  | .resetAssert resetN pwrgood => Sys2Proof.Machine.execResetAssert resetN pwrgood s
  | .firmwareWrite p off data => Sys2Proof.Machine.execFirmwareWrite p off data s
  | .firmwareStart p => Sys2Proof.Machine.execFirmwareStart p s
  | .configWrite p off data => Sys2Proof.Machine.execConfigWrite p off data s
  | .configApply p => Sys2Proof.Machine.execConfigApply p s
  | .bootComplete => Sys2Proof.Machine.execBootComplete s
  | .bootWaitTimeout => Sys2Proof.Machine.execBootWaitTimeout s
  | .odRead p h => Sys2Proof.Machine.execOdRead p h s
  | .odWrite p h data => Sys2Proof.Machine.execOdWrite p h data s
  | .odDescribe p h => Sys2Proof.Machine.execOdDescribe p h s
  | .claim h => Sys2Proof.Machine.execClaim h s
  | .complete h src => Sys2Proof.Machine.execComplete h src s
  | .iswset v => Sys2Proof.Machine.execIswset v s
  | .holdoffExpire src => Sys2Proof.Machine.execHoldoffExpire src s
  | .referenceLost => Sys2Proof.Machine.execReferenceLost s
  | .holdoverLong => Sys2Proof.Machine.execHoldoverLong s
  | .referenceRestored => Sys2Proof.Machine.execReferenceRestored s
  | .monitorSample m mv tempC margin => Sys2Proof.Machine.execMonitorSample m mv tempC margin s
  | .droopClear m => Sys2Proof.Machine.execDroopClear m s
  | .frequencyEvalIdle => Sys2Proof.Machine.execFrequencyEvalIdle s
  | .clockChangeDone => Sys2Proof.Machine.execClockChangeDone s
  | .thermalTrip asserted => Sys2Proof.Machine.execThermalTrip asserted s
  | .pgWarnEdge asserted => Sys2Proof.Machine.execPgWarnEdge asserted s
  | .ledgerUpdate metered railMv => Sys2Proof.Machine.execLedgerUpdate metered railMv s
  | .meterCalibration ok => Sys2Proof.Machine.execMeterCalibration ok s
  | .idleFeed => Sys2Proof.Machine.execIdleFeed s
  | .fenceRequest p v => Sys2Proof.Machine.execFenceRequest p v s
  | .spareReady cl de => Sys2Proof.Machine.execSpareReady cl de s
  | .remapComplete => Sys2Proof.Machine.execRemapComplete s
  | .remapTimeout => Sys2Proof.Machine.execRemapTimeout s
  | .rowRepairCopyDone stack tier row => Sys2Proof.Machine.execRowRepairCopyDone stack tier row s
  | .stackFenceRequest p v => Sys2Proof.Machine.execStackFenceRequest p v s
  | .watchdogExpire h => Sys2Proof.Machine.execWatchdogExpire h s
  | .fwUpdateWrite p off data => Sys2Proof.Machine.execFwUpdateWrite p off data s
  | .fwUpdateCancel p => Sys2Proof.Machine.execFwUpdateCancel p s
  | .fwUpdateCheck p => Sys2Proof.Machine.execFwUpdateCheck p s
  | .fwUpdateSwitch p => Sys2Proof.Machine.execFwUpdateSwitch p s
  | .fwUpdateConfirm p => Sys2Proof.Machine.execFwUpdateConfirm p s
  | .fwTrialTimeout => Sys2Proof.Machine.execFwTrialTimeout s
  | .quoteRequest p nonce => Sys2Proof.Machine.execQuoteRequest p nonce s
  | .quoteSigned => Sys2Proof.Machine.execQuoteSigned s
  | .identSend => Sys2Proof.Machine.execIdentSend s
  | .gaugePowerUp => Sys2Proof.Machine.execGaugePowerUp s
  | .feedRecord rec => Sys2Proof.Machine.execFeedRecord rec s
  | .gaugeIntervalClose g selfOk => Sys2Proof.Machine.execGaugeIntervalClose g selfOk s
  | .gaugeCloseRequest v g selfOk => Sys2Proof.Machine.execGaugeCloseRequest v g selfOk s
  | .statementSigned => Sys2Proof.Machine.execStatementSigned s
  | .gaugeMirror answers => Sys2Proof.Machine.execGaugeMirror answers s
  | .eventRecordStore node => Sys2Proof.Machine.execEventRecordStore node s
  | .cursorWrite p v => Sys2Proof.Machine.execCursorWrite p v s
  | .debugHalt p => Sys2Proof.Machine.execDebugHalt p s
  | .debugHaltAtWeir p => Sys2Proof.Machine.execDebugHaltAtWeir p s
  | .debugResume p => Sys2Proof.Machine.execDebugResume p s
  | .debugStep p => Sys2Proof.Machine.execDebugStep p s
  | .debugRunToWeir p => Sys2Proof.Machine.execDebugRunToWeir p s
  | .brk k => Sys2Proof.Machine.execBrk k s
  | .debugWrite p off data => Sys2Proof.Machine.execDebugWrite p off data s
  | .extest cells => Sys2Proof.Machine.execExtest cells s
  | .idcode => Sys2Proof.Machine.execIdcode s
  | .samplePreload cells => Sys2Proof.Machine.execSamplePreload cells s
  | .dtmcs v => Sys2Proof.Machine.execDtmcs v s
  | .dmi v => Sys2Proof.Machine.execDmi v s
  | .cdbg v => Sys2Proof.Machine.execCdbg v s
  | .cmem v => Sys2Proof.Machine.execCmem v s
  | .bypass tdi => Sys2Proof.Machine.execBypass tdi s
  | .gaugeSupplyLoss => Sys2Proof.Machine.execGaugeSupplyLoss s
  | .gaugeReferenceLost => Sys2Proof.Machine.execGaugeReferenceLost s
  | .gaugeReferenceRestored => Sys2Proof.Machine.execGaugeReferenceRestored s
  | .testLogicReset => Sys2Proof.Machine.execTestLogicReset s
  | .crossingOutOfBound x => Sys2Proof.Machine.execCrossingOutOfBound x s

end Sys2Proof.Machine
end

