-- ==== Sys2Proof/Machine/Step.lean ====
section
/-! DEFINITION. One step of the block: the command at the front of the queue; when none is there, the next waiting dictionary request, and with none one W-cycle
(log 3). -/

namespace Sys2Proof.Machine

/-- The oldest waiting request of a path is served (R427); those behind it stay. -/
def serveWaiting (s : State) (p : Path) : Host.Outcome State Fault Refusal :=
  match waitsOn s p with
  | [] => .next s
  | i :: rest =>
    match exec i ((setWaits s p []).mapMgm fun m => { m with lastPath := pathNo p }) with
    | .next t => .next (setWaits t p rest)
    | o => o

/-- One step. -/
def step (s : State) : Host.Outcome State Fault Refusal :=
  match s.pending with
  | [] =>
    match nextPath s with
    | none => .next (tick s)
    | some p => serveWaiting s p
  | i :: rest => exec i { s with pending := rest }

/-- The state with the command that a word spells put in front of its queue; no word spells one. -/
def State.withFetchWord (s : State) (nbits w : Nat) : State :=
  match decodeTableWord nbits w with
  | some i => { s with pending := i :: s.pending }
  | none => s

end Sys2Proof.Machine
end

