-- ==== Sys2Proof/Safety.lean ====
section
/-! DEFINITION. What a safe step is and what holds between steps, in the terms the statements use. -/

namespace Sys2Proof.Machine

/-- A step is safe when it gives a next state: no command of a unit that the chip does not have was sent. -/
def SafeStep (s : State) : Prop := ∃ t, step s = .next t

/-- The register map after one log entry: the entry's register becomes SHAKE256 of what it held and of the entry's fields (R508). -/
def mrAfter (m : FMap (List Byte)) (e : LogEntry) : FMap (List Byte) :=
  fset m (List.replicate 64 0#8) e.mr
    (shake64 (fget m (List.replicate 64 0#8) e.mr ++ leBytes 2 e.typ ++ leBytes 1 e.verdict ++ e.signer ++ e.digest))

/-- The register map that a log gives when it is replayed from registers of zero (R508, R510). -/
def logReplay (l : List LogEntry) : FMap (List Byte) := l.foldl mrAfter []

/-- The measurement log accounts for the registers (R508, R510): it holds the last 16,384 entries under consecutive `SEQ` that end below
`LOGSEQ`, and, while nothing has left the ring, replaying it gives the registers. -/
structure MeasInv (s : State) : Prop where
  /-- As many entries as extensions, at most the ring's 16,384. -/
  count : s.tru.log.length = min s.tru.logSeq 16384
  /-- Entry `i` of the ring has the `SEQ` that its place gives. -/
  seqs : ∀ i e, s.tru.log[i]? = some e → e.seq + s.tru.log.length = s.tru.logSeq + i
  /-- The registers are the replay of the log. -/
  replay : s.tru.logSeq ≤ 16384 → s.tru.mr = logReplay s.tru.log

/-- At most 32 staged changes are pending (R440). -/
def StagedInv (s : State) : Prop := s.mgm.staged.length ≤ 32

/-! ### Words for the statements about commands -/

/-- Operation `r` of opcode `o` on engine `e` of core `c` has started, its effect is still to be performed, no older one of its opcode waits
before it, and the compute domain runs. -/
def Performs (s : State) (c e o : Nat) (r : RunOp) : Prop := opOf s c e o = some r ∧ sRun s = true

/-- The sequencer of core `c` presents a descriptor of opcode `o` in this S-cycle that passes every check of R82, with its waits met. -/
def Executes (s : State) (c o : Nat) : Prop :=
  seqReady s c = true ∧ dOpcode (seqDesc s c) = o ∧ seqDecide s c (seqDesc s c) = .run ∧ waitsMet s c (seqDesc s c) = true

/-- Scalar register `r` of core `c` takes `v`; every other one keeps its value, and s0 reads 0 (R90). -/
def WritesReg (s t : State) (c r : Nat) (v : BitVec 32) : Prop :=
  ∀ k, (t.core c).sreg k = if k = 0 then 0#32 else if k = r then v else (s.core c).sreg k

/-- The sequencer of core `c` presents the descriptor at `NEXT` from the next S-cycle on (R95). -/
def Advances (s t : State) (c : Nat) (d : Desc) : Prop :=
  (t.core c).idx = dNext d ∧ (t.core c).nextS = s.sch.sCycle + 1 ∧ (t.core c).held = false

/-- A dictionary write of an object is served, allowed to the path, and of an object that the device state serves (R423, R428, R430). -/
def Takes (s : State) (p : Path) (obj : Nat) : Prop := served s p = true ∧ ownerOk s p = true ∧ stateServes s obj = true

/-- The last answer is the success of a write of an object on a path (R425). -/
def Granted (t : State) (p : Path) (obj : Nat) : Prop :=
  t.mgm.resp.getLast? = some { path := p, typ := 0x382, index := obj / 256, sub := obj % 256 }

/-- The last answer refuses a write of an object on a path with an abort code (R430). -/
def Denied (t : State) (p : Path) (obj ab : Nat) : Prop :=
  t.mgm.resp.getLast? = some { path := p, typ := 0x382, index := obj / 256, sub := obj % 256, abort := ab }

/-- Every core but `c` is as it was. -/
def OtherCores (s t : State) (c : Nat) : Prop := ∀ k, k ≠ c → t.core k = s.core k

/-- Operand `i` of operation `r` of core `c` is `n` bytes or more of the core's own scratchpad at byte `a`, the core present and the bytes in
segments that take writes (R79, R280, R282). -/
def OwnSpad (s : State) (c : Nat) (r : RunOp) (i a n : Nat) : Prop :=
  ∃ x : Opnd, operand s c r.item.desc i = some x ∧ x.loc = .spad c ∧ x.a = a ∧ n ≤ x.bytes ∧ corePresent s c = true ∧
    ∀ j, j < n → segOn (segTakes s c) (segOf (spadBytes c) (a + j)) = true

/-- The scratchpad of core `c` holds `bs` at byte `a` and is otherwise as it was. -/
def Stores (s t : State) (c a : Nat) (bs : List Byte) : Prop :=
  ∀ i, mget (t.core c).spad i = if a ≤ i ∧ i < a + bs.length then bs.getD (i - a) 0#8 else mget (s.core c).spad i

/-- The memory that an operand of a transfer lies in; a descriptor bank is the inactive one (R76). -/
def locMem (s : State) (l : Loc) : Mem :=
  match l with
  | .spad c => (s.core c).spad
  | .pool cl => (s.pool cl).mem
  | .beds => s.beds.mem
  | .bank c => (s.core c).inBank
  | _ => []

/-- The first `n` bytes of a destination can be written: its core is present and has a ring for a bank, its segments take writes (R76, R79, R280,
R282). -/
def DestOn (s : State) (y : Opnd) (n : Nat) : Prop :=
  match y.loc with
  | .spad c => corePresent s c = true ∧ ∀ j, j < n → segOn (segTakes s c) (segOf (spadBytes c) (y.a + j)) = true
  | .pool cl => ∀ j, j < n → segOn (segTakesPool s cl) (segOf poolBytes (y.a + j)) = true
  | .beds => True
  | .bank c => corePresent s c = true ∧ (s.core c).ring = true
  | _ => False

/-- Elements 0 to `n - 1` of a vector operation's destination group in format `f`: the active ones take the low bits of `g`, the others keep their
value or become zero (R191). -/
def VWrites (s t : State) (c : Nat) (d : Desc) (f n : Nat) (g : Nat → Nat) : Prop :=
  ∀ i, i < n → vElem (t.core c) c (vD d) f i =
    if vActive (s.core c) d i then g i % 2 ^ fmtBits f else if dPb d 27 then 0 else vElem (s.core c) c (vD d) f i

/-- The state in which the device stands after entering STANDBY or READY: SLACKWATER where the board asserts its sleep request (R435, R566). -/
def entered (s : State) (n : DevState) : DevState := if s.pins.sleepReq then .slackwater else n

/-- Bytes `o` to `o + n - 1` of a memory took `bs`, and every other one stays. -/
def Wrote (old new : Mem) (o : Nat) (bs : List Byte) : Prop :=
  ∀ a, mget new a = if o ≤ a ∧ a < o + bs.length then bs.getD (a - o) 0#8 else mget old a

/-- A unicast packet that ends at this chip is for the window of core `c`, at byte `a` of its scratchpad, in half `k` (R319, R325). -/
def Window (s : State) (p : Packet) (c a k : Nat) : Prop :=
  fabricTakes s = true ∧ hKind p = 0 ∧ hQueue p < 0x3F0 ∧ chipReplay s = false ∧ k = halfKey (hQueue p) (hHalf p) ∧
  (queueEntry s (hQueue p)).1 = some c ∧ hTag p < (queueEntry s (hQueue p)).2.2 ∧ a = 4 * (halfBase s k + 16 * hTag p) ∧
  segRangeOn (segTakes s c) (spadBytes c) a 64 = true

/-- Outside a job a packet's rows are written as it arrives; in one they wait for free slots of their banks behind those that wait (R255, R257). -/
def Waits (s t : State) (p : Packet) (c a k : Nat) : Prop :=
  t.cores = s.cores ∧ t.fab.halves = s.fab.halves ∧
    t.fab.narrow = s.fab.narrow ++ [{ key := k, tag := hTag p, core := c, addr := a, data := padTo 64 p.data, atW := s.sch.wCycle }]

/-- The packet's payload is in its window and counted in its half, and nothing else of the cores or the counters changed (R325). -/
def Delivered (s t : State) (p : Packet) (c a k : Nat) : Prop :=
  Stores s t c a (padTo 64 p.data) ∧ OtherCores s t c ∧ ∀ h, fget t.fab.halves 0 h = if h = k then min 65535 (fget s.fab.halves 0 h + 1) else fget s.fab.halves 0 h

/-- Nothing waits in the router for link `l` or inside it, but perhaps packets in injection buffer `b` of the first set. -/
def Idle (s : State) (l : Nat) (b : Option Nat) : Prop :=
  s.fab.waiting = [] ∧ s.fab.injIn = [] ∧ s.fab.groups = [] ∧ (s.link l).outQ = [] ∧ (s.link l).tx = [] ∧
  ∀ v, v < 8 → (b ≠ some (8 * l + v) → fget s.fab.inj [] (8 * l + v) = []) ∧ fget s.fab.inj2 [] (8 * l + v) = []

/-- The flits that a frame carries. -/
def frameFlits (f : Frame) : List (BitVec 128) := f.flits.take (bits f.ctl.toNat 94 90)

/-- The cycle of a memory that an activity outside the schedule wants is free, and none of higher or equal rank waits before it (R262). -/
def CycleFree (s : State) (i : Instr) : Prop :=
  ∀ r m wr, outsideJob s i = some (r, m, wr) → cycleHeld (wideNow s) s m wr = false ∧ outsideBehind s s.beds.waiting r (cycleKey s m wr) = false

/-- Every link but `l` is as it was. -/
def OtherLinks (s t : State) (l : Nat) : Prop := ∀ h, h ≠ l → t.link h = s.link h

end Sys2Proof.Machine
end

