-- ==== Sys2Proof/Certificates/Slice0/Obligations.lean ====
section
/-! DEFINITION. The statements for the provers. -/

section Slice0Obligations
open Sys2Proof Sys2Proof.Machine

/-! ### The queue, reset and the invariants -/

/-- Every command at the front of the queue is what a step runs, with the rest of the queue left waiting. -/
def Obligations.StepRunsFrontCommand : Prop :=
  ∀ (i : Instr) (rest : List Instr) (s : State), s.pending = i :: rest → step s = exec i { s with pending := rest }

/-- No command touches the queue of waiting commands, and none but a sample of a monitor that does not exist stops the block. -/
def Obligations.CommandsLeaveTheQueue : Prop :=
  ∀ (i : Instr) (s : State),
    (∀ t, exec i s = .next t → t.pending = s.pending) ∧ (∀ x, exec i s ≠ .refused x) ∧
    (∀ x, exec i s = .fault x → ∃ m, 64 ≤ m ∧ x = .noSuchUnit m ∧ (i = .droopClear m ∨ ∃ mv tc mg, i = .monitorSample m mv tc mg))

/-- R508, R510: whatever step is taken, the measurement log goes on accounting for the measurement registers. -/
def Obligations.MeasurementLogKept : Prop := ∀ s t : State, MeasInv s → step s = .next t → MeasInv t

/-- The measurement log accounts for the registers after reset. -/
def Obligations.MeasurementLogAtReset : Prop := MeasInv State.reset

/-! ### The sequencer -/

/-- R90, R91: the scalar operations of the sequencer. -/
def Obligations.SequencerScalarResults : Prop :=
  ∀ (c : CoreId) (s : State), dReserved (seqDesc s c.val) = false →
    let d := seqDesc s c.val
    let a := (s.core c.val).sreg (dP d 41 37)
    let b := if dPb d 47 then BitVec.ofNat 32 (dP d 31 0) else (s.core c.val).sreg (dP d 36 32)
    (Executes s c.val 0x01 → dP d 63 37 = 0 → ∃ t, exec (.sli c) s = .next t ∧
      WritesReg s t c.val (dP d 36 32) (BitVec.ofNat 32 (dP d 31 0)) ∧ Advances s t c.val d) ∧
    (Executes s c.val 0x02 → dP d 59 48 = 0 → ∃ t, exec (.salu c) s = .next t ∧ Advances s t c.val d ∧
      WritesReg s t c.val (dP d 46 42) (match dP d 63 60 with
        | 0 => a + b
        | 1 => a - b
        | 2 => a &&& b
        | 3 => a ||| b
        | 4 => a ^^^ b
        | 5 => a <<< (b.toNat % 32)
        | 6 => a >>> (b.toNat % 32)
        | 7 => a.sshiftRight (b.toNat % 32)
        | 8 => BitVec.ofNat 32 (min a.toNat b.toNat)
        | 9 => BitVec.ofNat 32 (max a.toNat b.toNat)
        | _ => BitVec.ofNat 32 (Config.freeNat s.free))) ∧
    (∀ x, Executes s c.val 0x03 → operand s c.val d 0 = some x → x.ext = 1 → dP d 63 37 = 0 → dP d 31 0 = 0 →
      ∃ t, exec (.sld c) s = .next t ∧ Advances s t c.val d ∧ (∀ k, (t.core c.val).sreg k = (s.core c.val).sreg k) ∧
        (t.core c.val).sldPend = (s.core c.val).sldPend ++
          [{ rd := dP d 36 32, value := BitVec.ofNat 32 (leNat (opRead s x 0 4)), atS := s.sch.sCycle + 6 }]) ∧
    (Executes s c.val 0x04 → dP d 63 37 = 0 → dP d 31 13 = 0 → dP d 7 2 = 0 → ∃ t v, exec (.slotmask c) s = .next t ∧ Advances s t c.val d ∧
      WritesReg s t c.val (dP d 36 32) v ∧
      ∀ j, j < 32 → v.getLsbD j = (dP d 12 8).testBit (slotIdx (s.slot (32 * dP d 1 0 + j)).state))

/-- R91, R92, R93, R95, R96, R97, R106: `SYNC`, `WEIR`, `BANKARM` and the dispatch of an engine descriptor. -/
def Obligations.SequencerControlResults : Prop :=
  ∀ (c : CoreId) (s : State),
    let d := seqDesc s c.val
    (Executes s c.val 0x00 → ∃ t, exec (.sync c) s = .next t ∧ Advances s t c.val d ∧ ∀ k, (t.core c.val).sreg k = (s.core c.val).sreg k) ∧
    (Executes s c.val 0x05 → ∃ t, exec (.weir c) s = .next t ∧ Advances s t c.val d ∧ (t.core c.val).weirDone = true ∧
      (t.core c.val).weirNext = dNext d ∧ (dP d 15 0 = stepIndex s → t.sch.haltReq = s.sch.haltReq) ∧
      (dP d 15 0 ≠ stepIndex s → s.sch.haltReq = none → t.sch.haltReq = some 0x0307)) ∧
    (Executes s c.val 0x06 → ∃ t, exec (.bankarm c) s = .next t ∧ Advances s t c.val d ∧ (t.core c.val).armed = true) ∧
    (seqReady s c.val = true → dClass d ≠ 0 → seqDecide s c.val d = .run → ∃ t, exec (.queueFreeDispatch c) s = .next t ∧
      if queueHeld s c.val (dEngine d) < 16 then
        Advances s t c.val d ∧ fget (t.core c.val).queues [] (dEngine d) = fget (s.core c.val).queues [] (dEngine d) ++
          [{ desc := d, place := (s.core c.val).idx, bankB := (s.core c.val).activeB, dispS := s.sch.sCycle }]
      else
        (t.core c.val).idx = (s.core c.val).idx ∧ (t.core c.val).held = true ∧ (t.core c.val).nextS = s.sch.sCycle + 1 ∧
          (t.core c.val).stalls = min ((s.core c.val).stalls + 1) 0xFFFFFFFF ∧ (t.core c.val).queues = (s.core c.val).queues)

/-- R82, R83: a descriptor whose predicate is valid and false has no effect but its skip. -/
def Obligations.SequencerSkipsFalsePredicate : Prop :=
  ∀ (c : CoreId) (s : State), seqReady s c.val = true → (s.core c.val).held = false →
    let d := seqDesc s c.val
    predValid d = true → predTrue s c.val d = false → ∃ t, exec (.sync c) s = .next t ∧ Advances s t c.val d ∧
      (t.core c.val).skips = min ((s.core c.val).skips + 1) 0xFFFFFFFF ∧ (t.core c.val).weirDone = (s.core c.val).weirDone ∧
      (t.core c.val).armed = (s.core c.val).armed ∧ (t.core c.val).queues = (s.core c.val).queues ∧
      (∀ k, (t.core c.val).sreg k = (s.core c.val).sreg k) ∧ (dSkipSig d = false → t.sch.signals = s.sch.signals)

/-- What a turn of a sequencer leaves alone: every other core, and of its own core the scratchpad, vector registers, masks, arrays, banks and
operations in progress; of the rest only signals, a requested halt, event records and the counter of free values change. -/
def Obligations.SequencerFrame : Prop :=
  ∀ (c : CoreId) (s t : State) (i : Instr),
    i ∈ [.sync c, .sli c, .salu c, .sld c, .slotmask c, .weir c, .bankarm c, .queueFreeDispatch c] → exec i s = .next t →
    OtherCores s t c.val ∧
    t = { s with cores := t.cores, evr := t.evr, free := t.free
                 sch := { s.sch with signals := t.sch.signals, sigSent := t.sch.sigSent, sigDrops := t.sch.sigDrops, haltReq := t.sch.haltReq } } ∧
    ∃ k : Core, t.core c.val = { s.core c.val with
      idx := k.idx, nextS := k.nextS, held := k.held, sregs := k.sregs, sldPend := k.sldPend, sldRead := k.sldRead, weirDone := k.weirDone, weirNext := k.weirNext
      armed := k.armed, queues := k.queues, stalls := k.stalls, skips := k.skips, bounds := k.bounds }

/-! ### Engines and flags -/

/-- R32, R33, R90, R96: the head of an engine queue starts; its operation holds the engine for its occupancy and keeps the scalars it read. -/
def Obligations.EngineStarts : Prop :=
  ∀ (c : CoreId) (e : Fin 16) (s : State) (it : QItem), qHead s c.val e.val = some it → sRun s = true → startOk s c.val e.val it = true →
    ∃ t r, exec (.engineStart c e) s = .next t ∧ OtherCores s t c.val ∧ (t.core c.val).run = (s.core c.val).run ++ [r] ∧
      r.eng = e.val ∧ r.item = it ∧ r.startS = s.sch.sCycle ∧ r.done = false ∧ (∀ k, k < 32 → r.sreg k = (s.core c.val).sreg k) ∧
      r.vl = (s.core c.val).vl ∧ (r.occ, r.lat) = opTiming s c.val it.desc (s.core c.val).vl ∧
      fget (t.core c.val).queues [] e.val = (fget (s.core c.val).queues [] e.val).tail ∧
      fget (t.core c.val).busy 0 (resourceOf it.desc) = s.sch.sCycle + r.occ ∧ fget (t.core c.val).lastS 0 e.val = s.sch.sCycle + 1 ∧
      t = { s with cores := t.cores }

/-- R33, R86, R105: the oldest operation of an engine whose latency has ended leaves the engine and issues its signals. -/
def Obligations.OperationsComplete : Prop :=
  ∀ (c : CoreId) (e : Fin 16) (s : State) (r : RunOp), sRun s = true → (s.core c.val).run.find? (opEnded s e.val) = some r →
    dClass r.item.desc ≠ 0xA → dOpcode r.item.desc ≠ 0xB1 → ∃ t, exec (.operationComplete c e) s = .next t ∧
      (t.core c.val).run = dropFirst (opEnded s e.val) (s.core c.val).run ∧ OtherCores s t c.val ∧
      (let g := dSig r.item.desc 0
       let n := 12 * g.2.1 + g.2.2.1
       (dSig r.item.desc 1).1 = 0 → g.1 ≠ 0 → g.2.2.1 < 12 → (s.core n).ring = true → (n ≠ c.val → fget s.sch.sigSent 0 (192 * (r.startS + r.lat) + c.val) < 4) →
       t.sch.signals = s.sch.signals ++ [{ due := r.startS + r.lat + (if n = c.val then 0 else if n / 12 = c.val / 12 then 4 else 9), core := n
                                           flag := g.2.2.2.1, op := g.1, value := g.2.2.2.2, srcCore := c.val, srcEng := 1 + e.val }])

/-- R87, R88: the signals that take effect on one flag in one S-cycle are combined: the SET of the first source in the order of cluster, slot and engine
(the sequencer, then MX0 to DMA3) gives the base, every SUB is subtracted and every ADD added, the result is clamped once, and a clamp at either end and
two SETs raise their events. No other flag changes. At most 16 of them come from other cores (R302). -/
def Obligations.SignalsReachFlags : Prop :=
  ∀ (c : CoreId) (f : Fin 64) (s : State),
    let mine := fun (g : Signal) => g.core == c.val && g.flag == f.val && decide (g.due ≤ s.sch.sCycle)
    let gs := s.sch.signals.filter mine
    let sum := fun (o : Nat) => (((gs.filter fun g => g.op == o).map fun g => g.value).sum : Int)
    let first := fun (g : Signal) => g ∈ gs ∧ g.op = 3 ∧
      ∀ h ∈ gs, h.op = 3 → h = g ∨ g.srcCore < h.srcCore ∨ (g.srcCore = h.srcCore ∧ g.srcEng < h.srcEng)
    gs ≠ [] → (∀ g ∈ gs, g.srcEng ≤ 16) → (∀ g ∈ gs, ∀ h ∈ gs, g.due = h.due) →
    (∀ g ∈ gs, (s.sch.signals.filter fun h => h.core == c.val && h.due == g.due && h.srcCore != c.val).length ≤ 16) →
    ∀ base : Nat, ((∀ g ∈ gs, g.op ≠ 3) ∧ base = flagVal s c.val f.val ∨ ∃ g, first g ∧ base = g.value) →
    let x : Int := base + sum 1 - sum 2
    let two := 2 ≤ (gs.filter fun g => g.op == 3).length
    ∃ t, exec (.flagSignalEffect c f) s = .next t ∧ t.sch = { s.sch with signals := s.sch.signals.filter fun g => !mine g } ∧
      flagVal t c.val f.val = (max 0 (min x 65535)).toNat ∧ (∀ h, h ≠ f.val → flagVal t c.val h = flagVal s c.val h) ∧ OtherCores s t c.val ∧
      t = { s with cores := t.cores, sch := t.sch, evr := t.evr } ∧
      t.evr = (let u := if 65535 < x then raiseC s 0x0303 c.val [f.val] else if x < 0 then raiseC s 0x0304 c.val [f.val] else s
        if two then raiseC u 0x0305 c.val [f.val] else u).evr

/-! ### Matrix arrays -/

/-- R145, R148, R172, R579: a stationary load fills the shadow buffer and a sentinel load a plane; the active tile and the accumulators stay; a
swap exchanges the two buffers (R154), and one that starts before the last load signals leaves the active tile undefined (R155). -/
def Obligations.TilesLoadAndSwap : Prop :=
  (∀ (c : CoreId) (a : Fin 4) (s : State) (r : RunOp) (x y : Opnd),
    let d := r.item.desc
    let f := dP d 63 59
    let old := (s.core c.val).arr a.val
    dReserved d = false → operand s c.val d 0 = some x → planeBytes c.val f ≤ x.bytes →
    (fmtBlock f = true → operand s c.val d 1 = some y ∧ tileBlocks c.val f ≤ y.bytes) →
    let holds := fun (p : Tile) => p.fmt = f ∧ p.loaded = true ∧
      (∀ i, i < planeBytes c.val f → mget p.elems i = (opRead s x 0 (planeBytes c.val f)).getD i 0#8) ∧
      (fmtBlock f = true → ∀ i, i < tileBlocks c.val f → mget p.scales i = (opRead s y 0 (tileBlocks c.val f)).getD i 0#8)
    (Performs s c.val a.val 0x11 r → widthClass f ≠ 0 → dP d 58 0 = 0 → ∃ t, exec (.stload c a) s = .next t ∧
      holds ((t.core c.val).arr a.val).shadow ∧ ((t.core c.val).arr a.val).active = old.active ∧ ((t.core c.val).arr a.val).acc = old.acc ∧
      OtherCores s t c.val) ∧
    (Performs s c.val a.val 0x14 r → widthClass f = 8 → dP d 57 0 = 0 → ∃ t, exec (.sndload c a) s = .next t ∧
      (if dPb d 58 then holds ((t.core c.val).arr a.val).plane1 ∧ ((t.core c.val).arr a.val).plane0 = old.plane0
       else holds ((t.core c.val).arr a.val).plane0 ∧ ((t.core c.val).arr a.val).plane1.loaded = false) ∧
      ((t.core c.val).arr a.val).capture = none ∧
      ((t.core c.val).arr a.val).snd.missed = (if old.capture.isSome then min (old.snd.missed + 1) 0xFFFFFFFF else old.snd.missed) ∧
      OtherCores s t c.val)) ∧
  (∀ (c : CoreId) (a : Fin 4) (s : State) (r : RunOp), Performs s c.val a.val 0x12 r →
    (loadComing s c.val a.val r.startS = false → dReserved r.item.desc = false → dP r.item.desc 63 0 = 0 →
      ∃ t, exec (.swap c a) s = .next t ∧ (t.core c.val).arr a.val = { (s.core c.val).arr a.val with
        active := ((s.core c.val).arr a.val).shadow, shadow := ((s.core c.val).arr a.val).active } ∧
        (∀ b, b ≠ a.val → (t.core c.val).arr b = (s.core c.val).arr b) ∧ OtherCores s t c.val ∧ t = { s with cores := t.cores }) ∧
    (loadComing s c.val a.val r.startS = true → ∃ t x, exec (.swap c a) s = .next t ∧ (t.core c.val).arr a.val = { (s.core c.val).arr a.val with
        active := x, shadow := ((s.core c.val).arr a.val).active } ∧
        (∀ b, b ≠ a.val → (t.core c.val).arr b = (s.core c.val).arr b) ∧ OtherCores s t c.val ∧ t = { s with cores := t.cores, free := t.free }))

/-- R136, R156, R158, R159: each row of a stream adds its products to its accumulator row, or starts it anew with `CLEAR`; a row that is not
valid adds nothing; a row of another type becomes undefined; every other accumulator row stays. -/
def Obligations.StreamAccumulates : Prop :=
  ∀ (c : CoreId) (a : Fin 4) (s : State) (r : RunOp), Performs s c.val a.val 0x10 r →
    let d := r.item.desc
    let m := dP d 53 44
    let base := dP d 63 54
    let f := dP d 43 39
    let x := (s.core c.val).arr a.val
    let k := tileK c.val x.active.fmt
    let isInt := streamInt f x.active.fmt
    base + m ≤ 1024 → m ≤ 512 → widthClass f = 8 → dP d 36 35 ≠ 3 → dP d 28 0 = 0 → dReserved d = false →
    streamInside s c.val r k f (indices m (rowValid s c.val r)) = true → ∃ t, exec (.stream c a) s = .next t ∧
      (∀ i n, i < m → n < 64 →
        let tag := fget x.tags .zero (base + i)
        let v := fget ((t.core c.val).arr a.val).acc 0#32 (64 * (base + i) + n)
        let old := fget x.acc 0#32 (64 * (base + i) + n)
        (rowValid s c.val r i = true → (dPb d 38 = true ∨ tag = .zero ∨ tag = streamTag isInt) →
          v = BitVec.ofNat 32 (accumElem isInt (dPb d 37) (dWrap d) (ftzOf s c.val) f (streamRow s d c.val f k i) x.active k n (k / 32)
            (if dPb d 38 then 0 else old.toNat)).v) ∧
        (rowValid s c.val r i = false → v = if dPb d 38 then 0#32 else old)) ∧
      (∀ j, (j < 64 * base ∨ 64 * (base + m) ≤ j) → fget ((t.core c.val).arr a.val).acc 0#32 j = fget x.acc 0#32 j) ∧
      ((t.core c.val).arr a.val).active = x.active ∧ OtherCores s t c.val

/-- R139, R162, R163: a drain stores the converted rows and, where it clears, leaves them zero. -/
def Obligations.DrainStores : Prop :=
  ∀ (c : CoreId) (a : Fin 4) (s : State) (r : RunOp) (at_ : Nat), Performs s c.val a.val 0x13 r →
    let d := r.item.desc
    let m := dP d 53 44
    let base := dP d 63 54
    let df := dP d 43 39
    let x := (s.core c.val).arr a.val
    0 < m → base + m ≤ 1024 → m ≤ 512 → drainFmt df = true → dP d 36 32 = 0 → dReserved d = false →
    OwnSpad s c.val r 3 at_ (m * (64 * fmtBits df / 8)) → ∃ t, exec (.drain c a) s = .next t ∧
      Stores s t c.val at_ (((List.range m).map fun i => packElems df ((List.range 64).map fun n =>
        (drainElem (ftzOf s c.val) (dWrap d) (dPb d 38) df (dP d 31 0) (fget x.acc 0#32 (64 * (base + i) + n)).toNat
          (fget x.tags .zero (base + i)) (fget x.osum xzero (64 * (base + i) + n))).v)).flatten) ∧
      (∀ j, fget ((t.core c.val).arr a.val).acc 0#32 j =
        if dPb d 37 = true ∧ 64 * base ≤ j ∧ j < 64 * (base + m) then 0#32 else fget x.acc 0#32 j) ∧
      OtherCores s t c.val

/-- R177, R178: 24 S-cycles after the last recomputation a sample is evaluated: the capture buffer is free again and exactly one of the counts of
samples, of non-finite samples and of samples without a reference goes up. -/
def Obligations.SoundingEvaluates : Prop :=
  ∀ (c : CoreId) (a : Fin 4) (s : State) (cap : Capture), sRun s = true → ((s.core c.val).arr a.val).capture = some cap → cap.left = 0 →
    cap.evalAt ≤ s.sch.sCycle → ∃ t, exec (.soundingEvaluate c a) s = .next t ∧ ((t.core c.val).arr a.val).capture = none ∧ OtherCores s t c.val ∧
      let o := ((s.core c.val).arr a.val).snd
      let n := ((t.core c.val).arr a.val).snd
      ((n.samples, n.nonfinite, n.zeroref) = (min (o.samples + 1) 0xFFFFFFFF, o.nonfinite, o.zeroref) ∨
       (n.samples, n.nonfinite, n.zeroref) = (o.samples, min (o.nonfinite + 1) 0xFFFFFFFF, o.zeroref) ∨
       (n.samples, n.nonfinite, n.zeroref) = (o.samples, o.nonfinite, min (o.zeroref + 1) 0xFFFFFFFF))

/-! ### The vector engine -/

/-- R188, R191, R193, R199, R201, R580: `VSETVL`, the integer operations, comparisons and mask logic. -/
def Obligations.VectorIntegerResults : Prop :=
  ∀ (c : CoreId) (s : State) (r : RunOp),
    let d := r.item.desc
    let k := s.core c.val
    let f := vEfmt d
    let n := vElems c.val d r.vl
    let src := if vBsc d then (r.sreg (dP d 25 21)).toNat else vImm d
    dReserved d = false →
    (Performs s c.val 4 0x20 r → r.startS + r.lat ≤ s.sch.sCycle + 1 → ∃ t, exec (.vsetvl c) s = .next t ∧
      (t.core c.val).vl = min src (32 * lanes c.val) ∧
      (t.core c.val).vlClamps = if src ≤ 32 * lanes c.val then k.vlClamps else min (k.vlClamps + 1) 0xFFFFFFFF) ∧
    (Performs s c.val 4 0x21 r → vFunc d ≤ 0xA → f ∈ [4, 5, 6] → grpsOk d ([vA d, vD d] ++ if vBsc d then [] else [vB d]) = true →
      ∃ t, exec (.vint c) s = .next t ∧
        VWrites s t c.val d f n fun i => (vintElem (vFunc d) f (dWrap d) (vElem k c.val (vA d) f i) (vOpB k c.val r f i)).v) ∧
    (Performs s c.val 4 0x21 r → vFunc d = 0xB → fmtReserved f = false → f ≠ 9 → grpsOk d (vD d :: if vBsc d then [] else [vA d]) = true →
      ∃ t, exec (.vint c) s = .next t ∧
        VWrites s t c.val d f n fun i => if vBsc d then vOpB k c.val r f i else vElem k c.val (vA d) f i) ∧
    (Performs s c.val 4 0x21 r → vFunc d = 0xC → fmtReserved f = false → grpsOk d [vA d] = true → 0 < n → vActive k d 0 = true →
      ∃ t, exec (.vint c) s = .next t ∧ (t.core c.val).sldPend = k.sldPend ++
        [{ rd := dP d 25 21, value := BitVec.ofNat 32 (vElem k c.val (vA d) f 0), atS := r.startS + r.lat, eng := 5 }]) ∧
    (Performs s c.val 4 0x22 r → vFunc d ≤ 5 → cmpFmt f = true → dP d 63 62 = 0 → grpsOk d (vA d :: if vBsc d then [] else [vB d]) = true →
      ∃ t, exec (.vcmp c) s = .next t ∧ ∀ i, i < n → mBit (t.core c.val) (dP d 61 59) i =
        if vActive k d i then (vcmpElem (vFunc d) f (ftzOf s c.val) (vElem k c.val (vA d) f i) (vOpB k c.val r f i)).1
        else if dPb d 27 then false else mBit k (dP d 61 59) i) ∧
    (Performs s c.val 4 0x23 r → vFunc d ≤ 7 → dP d 63 62 = 0 → dP d 58 57 = 0 → dP d 53 52 = 0 → r.vl ≤ 4096 →
      ∃ t, exec (.vmask c) s = .next t ∧ ∀ i, i < r.vl → mBit (t.core c.val) (dP d 61 59) i =
        if vActive k d i then (match vFunc d with
          | 0 => mBit k (dP d 56 54) i && mBit k (dP d 51 49) i
          | 1 => mBit k (dP d 56 54) i || mBit k (dP d 51 49) i
          | 2 => xor (mBit k (dP d 56 54) i) (mBit k (dP d 51 49) i)
          | 3 => mBit k (dP d 56 54) i && !mBit k (dP d 51 49) i
          | 4 => !mBit k (dP d 56 54) i
          | 5 => true
          | 6 => false
          | _ => mBit k (dP d 56 54) i)
        else if dPb d 27 then false else mBit k (dP d 61 59) i)

/-- R200, R202, R204, R205: floating-point arithmetic, reciprocals, exponentials, logarithms, quotients and roots, element by element. -/
def Obligations.VectorFloatResults : Prop :=
  ∀ (c : CoreId) (s : State) (r : RunOp) (ff : FFmt),
    let d := r.item.desc
    let k := s.core c.val
    let f := vEfmt d
    let n := vElems c.val d r.vl
    let ftz := ftzOf s c.val
    let A := fun i => vElem k c.val (vA d) f i
    let B := fun i => vOpB k c.val r f i
    dReserved d = false → fmtFloat f = some ff →
    (Performs s c.val 4 0x27 r → vFunc d ≤ 9 → f ≤ 3 →
      grpsOk d ([vA d, vD d] ++ (if vFunc d ≤ 7 ∧ !vBsc d then [vB d] else []) ++ if 3 ≤ vFunc d ∧ vFunc d ≤ 5 then [vC d] else []) = true →
      ∃ t, exec (.vflt c) s = .next t ∧ VWrites s t c.val d f n fun i =>
        let C := vElem k c.val (vC d) f i
        (match vFunc d with
          | 0 => fpAdd ff ftz (A i) (B i)
          | 1 => fpSub ff ftz (A i) (B i)
          | 2 => fpMul ff ftz (A i) (B i)
          | 3 => fpFma ff ftz (A i) (B i) C
          | 6 => fpMinMax ff ftz false (A i) (B i)
          | 7 => fpMinMax ff ftz true (A i) (B i)
          | _ => vfltElem (vFunc d) ff ftz (A i) (B i) C).v) ∧
    (Performs s c.val 4 0x2A r → vFunc d ≤ 1 → f ≤ 1 → grpsOk d [vA d, vD d] = true → ∃ t, exec (.vrcp c) s = .next t ∧
      VWrites s t c.val d f n fun i => (if vFunc d = 0 then fpDiv ff ftz (oneCode f) (A i) else fpRsqrt ff ftz (A i)).v) ∧
    (Performs s c.val 4 0x2B r → vFunc d ≤ 1 → f ≤ 1 → grpsOk d [vA d, vD d] = true → ∃ t, exec (.vexp c) s = .next t ∧
      VWrites s t c.val d f n fun i => (if vFunc d = 0 then fpExp2 ff ftz (A i) else fpLog2 ff ftz (A i)).v) ∧
    (Performs s c.val 4 0x2C r → vFunc d ≤ 1 → f ≤ 1 → grpsOk d ([vA d, vD d] ++ if vFunc d = 0 ∧ !vBsc d then [vB d] else []) = true →
      ∃ t, exec (.vdiv c) s = .next t ∧
        VWrites s t c.val d f n fun i => (if vFunc d = 0 then fpDiv ff ftz (A i) (B i) else fpSqrt ff ftz (A i)).v)

/-- R203, R204, R205, R206, R208, R210, R212: permutes, conversions between element formats, loads, accumulator views and reductions. -/
def Obligations.VectorMoveResults : Prop :=
  ∀ (c : CoreId) (s : State) (r : RunOp),
    let d := r.item.desc
    let k := s.core c.val
    let f := vEfmt d
    let n := vElems c.val d r.vl
    let p := 32 * lanes c.val / fmtBits f
    dReserved d = false →
    (Performs s c.val 4 0x28 r → vFunc d ≤ 4 → cmpFmt f = true → grpsOk d ([vA d, vD d] ++ if vFunc d = 1 ∧ !vBsc d then [vB d] else []) = true →
      ∃ t, exec (.vperm c) s = .next t ∧ VWrites s t c.val d f n fun i =>
        match permIdx (vFunc d) (r.sreg (dP d 25 21)).toNat p (i % p) (vOpB k c.val r f i) with
        | some j => vElem k c.val (vA d) f (i / p * p + j)
        | none => 0) ∧
    (Performs s c.val 4 0x24 r → fmtReserved f = false → fmtReserved (vXfmt d) = false → fmtBlock f = false → fmtBlock (vXfmt d) = false →
      vXfmt d ≠ 9 → vFunc d = 0 → grpOk (vA d) (vGrp d) = true → grpOk (vD d) (vGrpOf d (width10 (vXfmt d))) = true →
      ∃ t, exec (.vcvt c) s = .next t ∧
        VWrites s t c.val d (vXfmt d) n fun i => (cvtElem f (vXfmt d) (dWrap d) (ftzOf s c.val) (vElem k c.val (vA d) f i)).v) ∧
    (Performs s c.val 4 0x25 r → fmtReserved f = false → f ≠ 9 → grpsOk d [vD d] = true → vInside c.val d (operand s c.val d 0) (fmtBytes f n) = true →
      ∃ t, exec (.vld c) s = .next t ∧
        if dPb d 28 then VWrites s t c.val d f n fun i => elemCode (byteAt (vMemBytes s c.val d (operand s c.val d 0) (fmtBytes f n))) f i
        else ∀ i, i < fmtBytes f n → vByte (t.core c.val) c.val (vD d) i =
          byteAt (vMemBytes s c.val d (operand s c.val d 0) (fmtBytes f n)) i) ∧
    (∀ v : Nat → NR, Performs s c.val 4 0x29 r → (f = 0 ∨ f = 4 ∧ bit (vImm d) 3 = false) → bits (vImm d) 1 0 = 0 → bits (vImm d) 15 14 < arraysOf c.val →
      grpsOk d [vD d] = true →
      (∀ i, i < n → vActive k d i = true → vaccElem (k.arr (bits (vImm d) 15 14)) f (bit (vImm d) 3) (ftzOf s c.val)
        (bits (vImm d) 13 4 + i / 64) (i % 64) = some (v i)) →
      ∃ t, exec (.vacc c) s = .next t ∧ VWrites s t c.val d f n fun i => (v i).v) ∧
    (Performs s c.val 4 0x2D r → vFunc d ≤ 2 → cmpFmt f = true → grpsOk d [vA d] = true →
      grpOk (vD d) (if vFunc d = 0 then vGrpOf d 320 else vGrp d) = true → 0 < n → ∃ t, exec (.vred c) s = .next t ∧
      let v := vredVal (vFunc d) f (dWrap d) (ftzOf s c.val) (regsTouched c.val n (width10 f) * lanes c.val * 32 / fmtBits f)
        ((List.range n).map fun i => if vActive k d i then some (vElem k c.val (vA d) f i) else none)
      vElem (t.core c.val) c.val (vD d) (if vFunc d = 0 then 4 else f) 0 = v.v % 2 ^ fmtBits (if vFunc d = 0 then 4 else f) ∧
      (dPb d 20 = true → (t.core c.val).sldPend = k.sldPend ++
        [{ rd := dP d 25 21, value := BitVec.ofNat 32 v.v, atS := r.startS + r.lat, eng := 5 }]))

/-- R191, R208, R209: a vector store puts each active byte of the group at its place of the stride, 0 for an inactive one where it asks for zeros, and
changes no other byte of the scratchpad; of two that fall on one byte the later stands. -/
def Obligations.VectorStoreResults : Prop :=
  ∀ (c : CoreId) (s : State) (r : RunOp) (at_ : Nat) (x : Opnd), Performs s c.val 4 0x26 r →
    let d := r.item.desc
    let k := s.core c.val
    let f := vEfmt d
    let nb := fmtBytes f (vElems c.val d r.vl)
    let st := vStride c.val d
    dReserved d = false → fmtReserved f = false → (dPb d 28 = true → 8 ≤ fmtBits f) → grpsOk d [vA d] = true →
    operand s c.val d 3 = some x → x.a = at_ → vInside c.val d (some x) nb = true → OwnSpad s c.val r 3 at_ x.bytes → ∃ t, exec (.vst c) s = .next t ∧
      let active := fun (i : Nat) => dPb d 28 = false ∨ vActive k d (8 * i / fmtBits f) = true
      let puts := fun (i : Nat) => i < nb ∧ (active i ∨ dPb d 27 = true)
      (∀ i, puts i → (∀ j, i < j → puts j → vAddr c.val st j ≠ vAddr c.val st i) →
        (active i → mget (t.core c.val).spad (at_ + vAddr c.val st i) = vByte k c.val (vA d) i) ∧
        (¬ active i → mget (t.core c.val).spad (at_ + vAddr c.val st i) = 0#8)) ∧
      (∀ b, (∀ i, puts i → b ≠ at_ + vAddr c.val st i) → mget (t.core c.val).spad b = mget k.spad b) ∧
      (t.core c.val).vreg = k.vreg ∧ OtherCores s t c.val

/-- What a vector operation leaves alone: every other core, the flags and the sequencer of its core, the scratchpad but for a store, the arrays but for
`VACC`, and everything outside the cores but event records and the counter of free values. A store writes no byte outside its destination operand. -/
def Obligations.VectorFrame : Prop :=
  ∀ (c : CoreId) (s t : State) (i : Instr),
    i ∈ [.vsetvl c, .vint c, .vcmp c, .vmask c, .vcvt c, .vld c, .vflt c, .vperm c, .vrcp c, .vexp c, .vdiv c, .vred c, .vacc c, .vst c] →
    (i = .vst c → ∀ r, opOf s c.val 4 0x26 = some r → ∀ x, operand s c.val r.item.desc 3 = some x → x.loc = .spad c.val) → exec i s = .next t →
    OtherCores s t c.val ∧ t = { s with cores := t.cores, evr := t.evr, free := t.free } ∧
    (∀ r b, i = .vst c → opOf s c.val 4 0x26 = some r → (∀ x, operand s c.val r.item.desc 3 = some x → b < x.a ∨ x.a + x.bytes ≤ b) →
      mget (t.core c.val).spad b = mget (s.core c.val).spad b) ∧
    ∃ k : Core, t.core c.val = { s.core c.val with
      vreg := k.vreg, mreg := k.mreg, vl := k.vl, vlClamps := k.vlClamps, sticky := k.sticky, stickySet := k.stickySet, sldPend := k.sldPend, run := k.run
      arrays := k.arrays, spad := k.spad, bad := k.bad, badX := k.badX, wrote := k.wrote } ∧
      (i ≠ .vst c → (t.core c.val).spad = (s.core c.val).spad) ∧ (i ≠ .vacc c → (t.core c.val).arrays = (s.core c.val).arrays)

/-! ### Fixed-function engines -/

/-- R219, R223, R224, R226, R227, R229: the row engines store their rows, packed, in the own scratchpad. -/
def Obligations.RowEngineResults : Prop :=
  ∀ (c : CoreId) (s : State) (r : RunOp) (a : Nat),
    let d := r.item.desc
    let l := dP d 63 48
    let st := dP d 47 32
    let rows := dP d 31 22
    let f := dP d 21 17
    let of_ := dP d 16 12
    let ftz := ftzOf s c.val
    let src := operand s c.val d 0
    let opt := fun (x : Option Opnd) => if x.isNone then [] else (rowCodes s x (dP d 4 0) 0 0 l).map (widen (dP d 4 0))
    let okP := fun (x : Option Opnd) => rows = 0 ∨ x = none ∨ rowInside x (dP d 4 0) 0 0 l = true
    dReserved d = false → f ≤ 1 → rows ≤ 512 →
    (Performs s c.val 5 0x30 r → of_ ≤ 2 → dP d 11 10 ≠ 3 →
      let a1 := fxParam r (dP d 4 0) fOne
      let nr := fun i => if dP d 11 10 = 0 then l else min l ((r.sreg (dP d 9 5)).toNat + if dP d 11 10 = 2 then i else 0)
      let out := (List.range rows).map fun i => smRow (lanes c.val) ftz of_ ((List.range l).map fun j =>
        if j < nr i then fpMul fFP32 ftz (widen f ((rowCodes s src f st i (nr i)).getD j 0)) a1 else ⟨fNegInf, flNone⟩)
      (∀ i, i < rows → rowInside src f st i (nr i) = true) → OwnSpad s c.val r 3 a (rows * (4 * rowWords of_ l + 8)) →
      ∃ t, exec (.softmax c) s = .next t ∧
        Stores s t c.val a ((out.map fun o => packRow of_ o.1).flatten ++ (out.map fun o => leBytes 4 o.2.1 ++ leBytes 4 o.2.2.1).flatten)) ∧
    (of_ ≤ 3 → dP d 4 0 ≤ 1 → dP d 6 5 = 0 → (∀ i, i < rows → rowInside src f st i l = true) → OwnSpad s c.val r 3 a (rows * (4 * rowWords of_ l)) →
      okP (operand s c.val d 1) →
      let row := fun (ln : Bool) (bs : List Nat) (i : Nat) => packRow of_ ((nmRow (lanes c.val) ftz ln of_ (nmEps r (dP d 11 7))
        ((rowCodes s src f st i l).map (widen f)) (opt (operand s c.val d 1)) bs).map (·.v))
      (Performs s c.val 6 0x40 r → ∃ t, exec (.rmsnorm c) s = .next t ∧ Stores s t c.val a ((List.range rows).map (row false [])).flatten) ∧
      (Performs s c.val 6 0x41 r → okP (operand s c.val d 2) → ∃ t, exec (.layernorm c) s = .next t ∧
        Stores s t c.val a ((List.range rows).map (row true (opt (operand s c.val d 2)))).flatten)) ∧
    (Performs s c.val 7 0x50 r → 2 * dP d 16 7 ≤ l → (∀ i, i < rows → rowInside src f st i l = true) → OwnSpad s c.val r 3 a (rows * (4 * rowWords f l)) →
      (rows = 0 ∨ fits (operand s c.val d 1) (4 * dP d 16 7) = true) → (dPb d 5 = true → fits (operand s c.val d 2) (4 * rows) = true) →
      let ws := rowCodes s (operand s c.val d 1) 0 0 0 (dP d 16 7)
      let pos := fun i => if dPb d 5 then sext 32 ((rowCodes s (operand s c.val d 2) 4 0 0 rows).getD i 0)
        else sext 32 (((r.sreg (dP d 4 0)).toNat + i) % 2 ^ 32)
      let row := fun i => rpRow f ftz (dPb d 6) (dP d 16 7) (pos i) ws (rowCodes s src f st i l)
      ∃ t, exec (.rotary c) s = .next t ∧ Stores s t c.val a ((List.range rows).map fun i => packRow f ((row i).map (·.v))).flatten)

/-- R230, R231, R232, R233, R234, R409: unpacking, splitting and gathering store their elements in the own scratchpad; a gather for a slot that
pins no usable adapter stores zeros. -/
def Obligations.ConversionEngineResults : Prop :=
  ∀ (c : CoreId) (s : State) (r : RunOp) (a : Nat) (x y : Opnd),
    let d := r.item.desc
    let f := dP d 63 59
    let xf := dP d 58 54
    let ftz := ftzOf s c.val
    let n := elemsIn f x.bytes
    dReserved d = false → operand s c.val d 0 = some x →
    (Performs s c.val 8 0x60 r → unpackPair f xf = true → dP d 44 0 = 0 → OwnSpad s c.val r 3 a (fmtBytes xf n) →
      (fmtBlock f = true → fits (operand s c.val d 1) (cdiv n 32) = true) →
      let e := fun i => elemCode (byteAt (opRead s x 0 x.bytes)) f i
      let scs := rowCodes s (operand s c.val d 1) 6 0 0 (if fmtBlock f then cdiv n 32 else 0)
      let ls := if f = 0x10 ∧ dPb d 53 then (screenOutliers (cdiv n 32) (opWords s (operand s c.val d 2))).1 else []
      ∃ t, exec (.unpack c) s = .next t ∧ Stores s t c.val a (packElems xf ((List.range n).map fun i =>
        if fmtBlock f then (cvtElem 0 xf (dWrap d) ftz
          (decBlock f (e i) (scs.getD (i / 32) 0) (fp (zbScale ftz f xf (fxParam r (dP d 49 45) fOne)).v) (outlierVal ls i) ftz).v).v
        else (cvtElem f xf (dWrap d) ftz (e i)).v))) ∧
    (Performs s c.val 8 0x61 r → f ≤ 1 → pieceOk (dPb d 50) (dP d 52 51) xf = true → dP d 44 0 = 0 → OwnSpad s c.val r 3 a (4 * cdiv n 4 + cdiv n 32) →
      let bl := (blocks32 (cdiv n 32) ((encSource f ftz (rowCodes s (some x) f 0 0 n)).map (·.1))).map (splitBlock (dPb d 50) (dP d 52 51))
      ∃ t, exec (.split c) s = .next t ∧
        Stores s t c.val a (padTo (4 * cdiv n 4) (packElems 6 (bl.map (·.codes)).flatten) ++ packElems 6 (bl.map (·.scale)))) ∧
    (Performs s c.val 9 0x70 r → dP d 43 0 = 0 → operand s c.val d 3 = some y → OwnSpad s c.val r 3 a y.bytes →
      ∃ t, exec (.gather c) s = .next t ∧ Stores s t c.val a (match gatherSlot s (dSlot d) with
        | none => List.replicate y.bytes 0#8
        | some k =>
          if (s.adap k).state = .broken ∨ (s.adap k).gen ≠ (s.slot (dSlot d)).agen ∨
              (regionAt (s.core c.val).actBank (dOperand d 0).1).size < (dOperand d 0).2.1 + k * dP d 63 44 * 1024 + y.bytes then List.replicate y.bytes 0#8
          else bedRead s (x.a + k * dP d 63 44 * 1024) y.bytes))

/-- R240, R241, R242, R244, R245: a sample record is drawn from the row, its seed, position and counter. -/
def Obligations.SampleStoresRecord : Prop :=
  ∀ (c : CoreId) (s : State) (r : RunOp) (a : Nat), Performs s c.val 10 0x80 r →
    let d := r.item.desc
    let v := dP d 63 46
    let f := dP d 45 41
    let ftz := ftzOf s c.val
    let src := operand s c.val d 0
    let z := fun x => (fpMul fFP32 ftz (widen f x) (fxParam r (dP d 28 24) fOne)).v
    let ctr := BitVec.ofNat 64 (2 ^ 32 * (((r.sreg (dP d 18 14)).toNat + dP d 13 11) % 2 ^ 32) + 2 ^ 24 * dP d 10 3)
    dReserved d = false → f ≤ 1 → dP d 40 30 ≤ 1024 → dP d 2 0 = 0 → 0 < v → rowInside src f 0 0 v = true → OwnSpad s c.val r 3 a 16 →
    ∃ t, exec (.sample c) s = .next t ∧ Stores s t c.val a (sampleDraw ftz (dPb d 29) (dP d 40 30) (fxParam r (dP d 23 19) fOne)
      ((mix (slotSeed s (dSlot d)) ctr).toNat / 2 ^ 40) ((rowCodes s src f 0 0 v).map fun x => if fIsNan (fp (z x)) then fNegInf else z x)).1

/-- R247: a verify accepts the longest common prefix of the drafts and the targets and one target more, and writes their number, the committed tokens and
0xFFFF_FFFF to the rest of its destination. One that commits hands them over, and one that does not leaves the serving state alone. -/
def Obligations.VerifyAcceptsPrefix : Prop :=
  ∀ (c : CoreId) (s : State) (r : RunOp) (a : Nat), Performs s c.val 11 0x90 r →
    let d := r.item.desc
    let k := dP d 63 61
    let draft := rowCodes s (operand s c.val d 0) 4 0 0 k
    let target := rowCodes s (operand s c.val d 1) 4 0 0 (k + 1)
    dReserved d = false → dP d 59 0 = 0 → fits (operand s c.val d 0) (4 * k) = true → fits (operand s c.val d 1) (4 * k + 4) = true →
    OwnSpad s c.val r 3 a (4 * k + 8) → ∃ t n, exec (.verify c) s = .next t ∧ 1 ≤ n ∧ n ≤ k + 1 ∧
      (∀ i, i + 1 < n → draft.getD i 0 = target.getD i 0) ∧ (n ≤ k → draft.getD (n - 1) 0 ≠ target.getD (n - 1) 0) ∧
      Stores s t c.val a (leBytes 4 n ++ ((List.range (k + 1)).map fun i => leBytes 4 (if i < n then target.getD i 0 else 0xFFFFFFFF)).flatten) ∧
      (dPb d 60 = true → commitRole s = true → dSlot d < 128 →
        (s.srv.commits.any fun x => x.slot == dSlot d) = false →
        t.srv.commits = s.srv.commits ++ [{ slot := dSlot d, n := n, k := k, toks := (target.take n).map (BitVec.ofNat 32) }]) ∧
      (dPb d 60 = false → t.srv = s.srv)

/-! ### Transfers and queues -/

/-- R75, R76, R235, R237: a copy moves its rows, a fill repeats its word, and no other byte of the destination's memory changes. -/
def Obligations.TransferResults : Prop :=
  ∀ (c : CoreId) (dm : Fin 4) (s : State) (r : RunOp),
    let d := r.item.desc
    let rows := dP d 48 40
    let len := dP d 39 20
    let ss := dP d 19 10
    let ds := dP d 9 0
    let x := operandAny s c.val d 0
    let y := operandAny s c.val d 3
    dReserved d = false → DestOn s y y.bytes →
    (Performs s c.val (12 + dm.val) 0xA0 r → copyPair x y = true → len % 4 = 0 → copyInside x rows len ss = true → copyInside y rows len ds = true →
      copyOverlap x y rows len ss ds = false → ∃ t, exec (.copy c dm) s = .next t ∧
      (∀ i j, i < rows → j < len → (∀ h, i < h → h < rows → 64 * ds * i + j < 64 * ds * h ∨ 64 * ds * h + len ≤ 64 * ds * i + j) →
        mget (locMem t y.loc) (y.a + 64 * ds * i + j) = (opRead s x (64 * ss * i) len).getD j 0#8) ∧
      (∀ b, (∀ i, i < rows → b < y.a + 64 * ds * i ∨ y.a + 64 * ds * i + len ≤ b) → mget (locMem t y.loc) b = mget (locMem s y.loc) b) ∧
      (∀ l, l ≠ y.loc → locMem t l = locMem s l)) ∧
    (Performs s c.val (12 + dm.val) 0xA1 r → dPb d 55 = false → dP d 48 0 = 0 → y.ext ≠ 0 → ∃ t, exec (.fill c dm) s = .next t ∧
      (∀ i, i < y.bytes → mget (locMem t y.loc) (y.a + i) = (leBytes 4 (r.sreg (dP d 53 49)).toNat).getD (i % 4) 0#8) ∧
      (∀ b, (b < y.a ∨ y.a + y.bytes ≤ b) → mget (locMem t y.loc) b = mget (locMem s y.loc) b) ∧
      (∀ l, l ≠ y.loc → locMem t l = locMem s l))

/-- R45, R239, R274: a queue operation moves entry i in S-cycle t + i; an entry that is absent, or a place that is, holds the S-cycle. -/
def Obligations.QueueOperationResults : Prop :=
  ∀ (c : CoreId) (dm : Fin 4) (s : State) (r : RunOp) (x : Opnd) (q : Nat),
    let d := r.item.desc
    let i := r.prog
    s.sch.sCycle = r.startS + i → dReserved d = false → dP d 63 0 = 0 → x.typ = 1 → x.loc = .spad c.val → s.inp.replaying = false → q < 0x7C →
    (Performs s c.val (12 + dm.val) 0xC0 r → operandAny s c.val d 3 = x → (operandAny s c.val d 0).loc = .inQ q → (dOperand d 0).2.1 = 0 →
      i < (operandAny s c.val d 0).ext → 64 * (operandAny s c.val d 0).ext ≤ x.bytes → DestOn s x x.bytes →
      (∀ e, (fget s.trib.inQ [] q)[fget s.trib.used 0 q]? = some e → e.length = 64 →
        (fget s.trib.inAt [] q).getD (fget s.trib.used 0 q) 0 ≤ s.sch.wCycle → ∃ t, exec (.trd c dm) s = .next t ∧
          Stores s t c.val (x.a + 64 * i) e ∧ fget t.trib.used 0 q = fget s.trib.used 0 q + 1 ∧ t.trib.inQ = s.trib.inQ) ∧
      ((fget s.trib.inQ [] q).length ≤ fget s.trib.used 0 q → ∃ t, exec (.trd c dm) s = .next t ∧ hasCause t 3 = true ∧
        (t.core c.val).spad = (s.core c.val).spad ∧ t.trib = s.trib)) ∧
    (Performs s c.val (12 + dm.val) 0xC1 r → operandAny s c.val d 0 = x → (operandAny s c.val d 3).loc = .outQ q → (dOperand d 3).2.1 = 0 →
      i < (operandAny s c.val d 3).ext → 64 * (operandAny s c.val d 3).ext ≤ x.bytes →
      (0 < s.trib.outRoom → s.trib.roomAt ≤ s.sch.wCycle → ∃ t, exec (.twr c dm) s = .next t ∧
        t.trib.outStep = s.trib.outStep ++ [(q, opRead s x (64 * i) 64)] ∧ t.trib.outRoom = s.trib.outRoom - 1 ∧ t.trib.outQ = s.trib.outQ) ∧
      (s.trib.outRoom = 0 → ∃ t, exec (.twr c dm) s = .next t ∧ hasCause t 4 = true ∧ t.trib = s.trib))

/-- R45, R46, R274: an entry that arrives joins its input queue and a place that frees its buffer; what waits for it goes on 4 W-cycles later. -/
def Obligations.TributaryQueuesMove : Prop :=
  ∀ (s : State),
    (∀ (q : Fin 128) (e : List Byte), q.val < 0x7C → msgServed s = true → ∃ t, exec (.tribInputArrive q e) s = .next t ∧
      fget t.trib.inQ [] q.val = fget s.trib.inQ [] q.val ++ [padTo 64 e] ∧ fget t.trib.inAt [] q.val = fget s.trib.inAt [] q.val ++ [s.sch.wCycle + 4] ∧
      (∀ h, h ≠ q.val → fget t.trib.inQ [] h = fget s.trib.inQ [] h) ∧
      ∀ x ∈ t.sch.causes, x.no = 3 → x.src = q.val → x.untilW ≠ none) ∧
    (∀ n, 0 < n → n ≤ s.trib.outQ.length → ∃ t, exec (.tribOutputSpace n) s = .next t ∧ t.trib.outQ = s.trib.outQ.drop n ∧
      t.trib.outRoom = s.trib.outRoom + n ∧ t.trib.outStep = s.trib.outStep ∧ ∀ x ∈ t.sch.causes, x.no = 4 → x.src = 0 → x.untilW ≠ none)

/-! ### Fabric sends and receives -/

/-- R37, R45, R320, R321, R323, R325, R326: a send hands packet i to the router in S-cycle t + i, a receive whose packets have all come completes
in S-cycle t + 1, and one that waits completes with the packet that makes its count. -/
def Obligations.SendAndReceiveResults : Prop :=
  ∀ (c : CoreId) (dm : Fin 4) (s : State) (r : RunOp),
    let d := r.item.desc
    let e := 12 + dm.val
    dReserved d = false →
    (∀ (x : Opnd) (u : State) (b : Nat), Performs s c.val e 0xB0 r → dP d 24 0 = 0 → operand s c.val d 0 = some x → x.typ = 1 → x.loc = .spad c.val →
      let en := pathAt (pathBank s) (dP d 63 52)
      pathValid en = true → dP d 39 29 + cdiv x.bytes 64 ≤ 2048 → s.sch.sCycle = r.startS + r.prog → r.prog < cdiv x.bytes 64 →
      s.sch.discard = 0 → s.inp.replaying = false → r.bad = false →
      inject s false (sendPacket d en (hselHalf s (dP d 41 40)) (opRead s x 0 x.bytes) r.prog) = (some u, b) → fget s.fab.injAt 0 b ≤ s.sch.wCycle →
      ∃ t, exec (.send c dm) s = .next t ∧ t.fab = u.fab ∧ t.sch.handed = s.sch.handed + 1 ∧ t.sch.causes = s.sch.causes ∧
        (r.prog + 1 = cdiv x.bytes 64 → (t.core c.val).run = mapFirst (fun r => r.eng == e && dOpcode r.item.desc == 0xB0 && !r.done && r.ticks == 0)
          (fun r => { r with prog := r.prog + 1, done := true }) (s.core c.val).run)) ∧
    (∀ (x : Opnd) (b : Nat), Performs s c.val e 0xB0 r → dP d 24 0 = 0 → operand s c.val d 0 = some x → x.typ = 1 → x.loc = .spad c.val →
      let en := pathAt (pathBank s) (dP d 63 52)
      pathValid en = true → dP d 39 29 + cdiv x.bytes 64 ≤ 2048 → s.sch.sCycle = r.startS + r.prog → r.prog < cdiv x.bytes 64 →
      s.sch.discard = 0 → s.inp.replaying = false → r.bad = false →
      inject s false (sendPacket d en (hselHalf s (dP d 41 40)) (opRead s x 0 x.bytes) r.prog) = (none, b) →
      ∃ t, exec (.send c dm) s = .next t ∧ hasCause t 2 = true ∧ t.fab = s.fab ∧ t.sch.handed = s.sch.handed) ∧
    (Performs s c.val e 0xB1 r → recvBad s c.val r = false → r.startS < s.sch.sCycle → s.inp.replaying = false → 0 < dP d 51 40 →
      (dP d 51 40 ≤ halfCount s (recvHalf s r) → fget s.fab.halfAt 0 (recvHalf s r) ≤ s.sch.wCycle → ∃ t, exec (.recv c dm) s = .next t ∧
        t.sch.causes = s.sch.causes ∧ (recvHalf s r, dP d 51 40) ∈ t.fab.takes.map (fun x => (x.1, x.2.1))) ∧
      (halfCount s (recvHalf s r) < dP d 51 40 → ∃ t, exec (.recv c dm) s = .next t ∧ hasCause t 1 = true ∧ t.fab.takes = s.fab.takes)) ∧
    (opOf s c.val e 0xB1 = some r → s.sch.job = true → r.prog = 1 → dP d 51 40 ≤ halfCount s (recvHalf s r) →
      ∃ t, exec (.receiveComplete c dm) s = .next t ∧ (recvHalf s r, dP d 51 40) ∈ t.fab.takes.map (fun x => (x.1, x.2.1)) ∧
        ∀ x ∈ t.sch.causes, x.no = 1 → x.src = 4 * c.val + dm.val → x.untilW ≠ none)

/-! ### Eddy, the Weir and staged changes -/

/-- R45, R48, R100, R253, R257, R259, R260, R261, R296, R299, R300: a bank conflict holds the S-cycle for its length, whether a command or the wide
accesses of the S-cycle show it; a pool bank serves one row an S-cycle, a bulk port carries what fits, a bed stack one line; the Eddy limit and Oxbow's
limit freeze the job, an injection buffer empties into frames and ends the wait for it, and a control message that the network takes and that is late is
reported. -/
def Obligations.EddyAndControlEvents : Prop :=
  ∀ (s : State),
    (∀ (c : CoreId) (m : Nat), s.sch.job = true → stagesNow s = true → 2 ≤ m → (∀ x ∈ s.sch.causes, x.no = 5 → x.src ≠ c.val) →
      exec (.bankConflictServed c m) s = .next { s with sch := { s.sch with
        causes := s.sch.causes ++ [{ no := 5, src := c.val, sinceW := s.sch.wCycle, untilW := some (s.sch.wCycle + (m - 1)) }] } }) ∧
    (∀ d : Nat, sRun (sWork s) = true → (∀ x ∈ (sWork s).sch.causes, 4 < x.no) → s.sch.arbS ≠ s.sch.sCycle + 1 →
      conflicts (sWork s) (wideAccess (sWork s) (sWork s).sch.sCycle) ≠ [] →
      s.pwr.newFreq = none → s.sch.weirPhase = 0 → s.sch.replay = none → s.fab.narrow = [] → s.beds.waiting = [] →
      let t := runTick d s
      t.sch.sCycle = s.sch.sCycle ∧ t.sch.wCycle = s.sch.wCycle + 1 ∧ t.sch.eddyW = s.sch.eddyW + 1 ∧
        fget t.sch.perCause 0 5 = fget s.sch.perCause 0 5 + 1 ∧ t.cores = s.cores) ∧
    (rowBank 6 0x8143 = 14 ∧
      (∀ (q : List PoolReq) (b : Nat), ((poolServe [] q).filter fun y => rowBank 6 y.row == b).length = (q.filter fun y => rowBank 6 y.row == b).length - 1) ∧
      (∀ (n : Nat) (cs : List PortClaim), portLost n cs = [] ↔ sumN (cs.map fun p => p.units) ≤ n) ∧
      (∀ (p : Nat × Nat × WAcc) (r : List (Nat × Nat × WAcc)), bedMissed false (p :: r) = r.filter fun q => q.1 != p.1)) ∧
    (s.sch.eddyNs ≤ s.sch.eddyLimit * 1000000 → exec .eddyLimit s = .next s) ∧
    (s.sch.job = true → stagesNow s = true → (∃ x ∈ s.sch.causes, x.no ∉ [6, 7, 8, 12]) → s.sch.eddyLimit * 1000000 < s.sch.eddyNs → ∃ t,
      exec .eddyLimit s = .next t ∧
      t.dev.state = .halted ∧ t.dev.haltId = 0x0202 ∧ t = { s with dev := t.dev, evr := t.evr, inp := t.inp, beds := t.beds }) ∧
    (sRun s = true → (∃ c, c < 192 ∧ (s.core c).ring = true ∧ s.sch.oxLimit ≤ (s.core c).oxbow) → ∃ t, exec .oxbowLimit s = .next t ∧
      t.dev.state = .halted ∧ t.dev.haltId = 0x0308 ∧ t = { s with dev := t.dev, evr := t.evr, inp := t.inp, beds := t.beds }) ∧
    (∀ b : Fin 136, b.val < 128 →
      let l := b.val / 8
      let ps := fget s.fab.inj [] b.val
      Idle s l (some b.val) → linkUp (s.link l) = true → (s.link l).peerXoff.getLsbD (b.val % 8) = false →
      (s.link l).replayBuf.length + cdiv (5 * ps.length) 16 ≤ 1024 → ∃ t fs, exec (.injectionSpaceFree b) s = .next t ∧
        fget t.fab.inj [] b.val = [] ∧ (t.link l).replayBuf = (s.link l).replayBuf ++ fs ∧ fs.length = cdiv (5 * ps.length) 16 ∧
        fs.flatMap frameFlits = ps.flatMap packetFlits ∧ (∀ p, ps = [p] → hVcNo p = b.val % 8 → fs = [frameOf (s.link l) p]) ∧
        (∀ h, h ≠ b.val → fget t.fab.inj [] h = fget s.fab.inj [] h) ∧ ∀ x ∈ t.sch.causes, x.no = 2 → x.src = b.val → x.untilW ≠ none) ∧
    (∀ m : CtlMsg,
      let d := max m.wcycles (ctlLeast m.src.val m.dst.val)
      ∃ t, exec (.controlMessage m) s = .next t ∧
      t = { s with evr := t.evr, sch := { s.sch with ctlMax := t.sch.ctlMax, ctlLate := t.sch.ctlLate, ctlAt := t.sch.ctlAt } } ∧
      (m.vc = 0 → ctlTaken s m d = true → t.sch.ctlMax = max s.sch.ctlMax (min d 65535) ∧
        (200 < d → t.sch.ctlLate = min (s.sch.ctlLate + 1) 0xFFFFFFFF ∧ t.evr = (raise s 0x0904 m.dst.val [m.src.val, m.dst.val]).evr) ∧
        (d ≤ 200 → t.sch.ctlLate = s.sch.ctlLate ∧ t.evr = s.evr)) ∧ (m.vc ≠ 0 ∨ ctlTaken s m d = false → t = s))

/-- R29: the Weir begins only when the quiet tree is true, at S-cycle b + L - 12 or at the first one after it, and step overrun event 0x0201 records the
excess; the next step begins 12 S-cycles after the Weir, so it moves by the excess. At the Weir's end the step's number goes up, its withheld outputs
leave, what it read and received is taken away, and a requested halt freezes the job. -/
def Obligations.WeirBeginsAndEnds : Prop :=
  ∀ (s : State),
    let due := s.sch.base + (stepEntry s s.sch.stepNo).len - 12
    (sRun s = true → s.sch.weirAt = none → due ≤ s.sch.sCycle → quiet s = true → ∃ t, exec .weirBegin s = .next t ∧
      t = { s with evr := t.evr, sch := { s.sch with weirAt := some s.sch.sCycle } } ∧
      t.evr = (if due < s.sch.sCycle then (raise s 0x0201 0x14 [s.sch.stepNo, s.sch.sCycle - due]).evr else s.evr)) ∧
    ((s.sch.sCycle < due ∨ quiet s = false) → exec .weirBegin s = .next s) ∧
    (∀ w, sRun s = true → s.sch.weirAt = some w → w + 11 ≤ s.sch.sCycle → ∃ t, exec .weirEnd s = .next t ∧
      t.sch.stepNo = s.sch.stepNo + 1 ∧ t.sch.sCycle = w + 12 ∧ t.sch.weirAt = none ∧
      t.trib.outQ = s.trib.outQ ++ s.trib.outStep ∧ t.trib.outStep = [] ∧ t.trib.used = [] ∧ t.fab.takes = [] ∧
      (∀ q n, s.trib.used = [(q, n)] → fget t.trib.inQ [] q = (fget s.trib.inQ [] q).drop n) ∧
      (∀ h n k, s.fab.takes = [(h, n, k)] → fget t.fab.halves 0 h = fget s.fab.halves 0 h - n) ∧
      (s.sch.haltReq = none → s.inp.replaying = false → t.sch.job = true → t.sch.weirPhase = 0 → t.sch.base = w + 12) ∧
      (∀ id, s.sch.haltReq = some id → t.dev.state = .halted ∧ t.dev.haltId = id))

/-- R282, R436, R437, R439, R441: an acknowledgement of a staged change is noted in RUNNING, DRAINING and HALTED and puts the change into effect elsewhere, but
comes to nothing while a write is in flight to a segment that it switches off; a change that is not acknowledged in time is discarded. -/
def Obligations.StagedChangesSettle : Prop :=
  ∀ (i : Nat) (g : Staged) (s : State), s.mgm.staged[i]? = some g → g.sent = true →
    (segWaits s g.kind = true → exec (.stageAck i) s = .next s) ∧
    (segWaits s g.kind = false → stagesNow s = true → s.sch.weirPhase ≠ 7 → exec (.stageAck i) s =
      .next { s with mgm := { s.mgm with staged := s.mgm.staged.set i { g with acked := true, ackS := s.sch.sCycle } } }) ∧
    (segWaits s g.kind = false → stagesNow s = true → s.sch.weirPhase = 7 → (∀ j h, s.mgm.staged[j]? = some h → j ≠ i → h.weir < s.sch.stepNo → h.acked = true) →
      ∃ t, exec (.stageAck i) s = .next t ∧ ∀ x ∈ t.sch.causes, x.no = 6 → x.src = 0 → x.untilW ≠ none) ∧
    (segWaits s g.kind = false → s.dev.state = .halted → s.sch.weirPhase ≠ 7 → exec (.stageAck i) s =
      .next { s with mgm := { s.mgm with staged := s.mgm.staged.set i { g with acked := true, ackS := s.sch.sCycle } } }) ∧
    (segWaits s g.kind = false → stagesNow s = false → s.dev.state ≠ .halted → ∃ t, exec (.stageAck i) s = .next t ∧
      (∀ c v, g.kind = .numctl c v → (t.core c).numctl = v ∧ t.mgm.staged = s.mgm.staged.eraseIdx i) ∧
      (∀ u v, g.kind = .segment u v → segMaskOf t u = v ∧ t.mgm.staged = s.mgm.staged.eraseIdx i) ∧
      (g.kind = .pathSwitch → s.fab.pathIn = .valid → t.fab.pathAct = (!s.fab.pathAct) ∧ t.fab.pathIn = .spent) ∧
      (∀ c, g.kind = .bankSwitch c → s.sch.weirPhase ≠ 7 → t.cores = s.cores ∧
        t.mgm.staged = s.mgm.staged.set i { g with acked := true, ackS := s.sch.sCycle })) ∧
    (s.fab.ftime < g.atW + 100000 → exec (.stagedDiscard i) s = .next s) ∧
    (g.acked = false → s.sch.weirPhase ≠ 7 → g.atW + 100000 ≤ s.fab.ftime → ∃ t, exec (.stagedDiscard i) s = .next t ∧ t.mgm = { s.mgm with
      staged := s.mgm.staged.eraseIdx i, lastDisc := stageObj g.kind, discards := min (s.mgm.discards + 1) 0xFFFFFFFF } ∧
      t = { s with mgm := t.mgm, evr := t.evr, cores := t.cores, pools := t.pools } ∧
      (∀ c, (t.core c).numctl = (s.core c).numctl ∧ (t.core c).segMask = (s.core c).segMask ∧ (t.core c).spad = (s.core c).spad))

/-- R280, R281, R282, R283: a segment mask takes effect at once outside RUNNING and DRAINING, where a segment switched on reads zero, and is staged
in them; a mask that would switch off a segment in use is refused; a segment acknowledges its change, a power-down once no write is in flight to it, and
with the last of its segments the change is acknowledged, in effect at once outside RUNNING, DRAINING and HALTED (R437, R441). -/
def Obligations.SegmentsPowered : Prop :=
  ∀ (p : Path) (u : SegUnit) (mask : BitVec 8) (s : State),
    let off := fun i => (segMaskOf s u).getLsbD i && !mask.getLsbD i
    let on := fun i => mask.getLsbD i && !(segMaskOf s u).getLsbD i
    (Takes s p (segObj u) → stagesNow s = false → (∀ i, i < 8 → off i = true → segUsed s u i = false) →
      ∃ t, exec (.segmentMaskWrite p u mask) s = .next t ∧ Granted t p (segObj u) ∧ segMaskOf t u = mask ∧
        (∀ c, u = .core c → ∀ a, a < spadBytes c.val → mget (t.core c.val).spad a =
          if on (segOf (spadBytes c.val) a) then 0#8 else mget (s.core c.val).spad a) ∧
        (∀ cl, u = .pool cl → ∀ a, a < poolBytes → mget (t.pool cl.val).mem a = if on (segOf poolBytes a) then 0#8 else mget (s.pool cl.val).mem a) ∧
        t = { s with mgm := { s.mgm with resp := t.mgm.resp }, cores := t.cores, pools := t.pools }) ∧
    (Takes s p (segObj u) → stagesNow s = true → s.inp.replaying = false → (∀ i, i < 8 → off i = true → segUsed s u i = false) →
      stageRoom s (.segment u mask) = true → ∃ t, exec (.segmentMaskWrite p u mask) s = .next t ∧ Granted t p (segObj u) ∧
        (∃ g ∈ t.mgm.staged, g.kind = .segment u mask ∧ g.acked = false ∧ g.sent = false ∧ g.weir = stageWeir s) ∧
        t = { s with mgm := { s.mgm with resp := t.mgm.resp, staged := t.mgm.staged } }) ∧
    (∀ i, Takes s p (segObj u) → (stagesNow s = true → s.inp.replaying = false) → i < 8 → off i = true → segUsed s u i = true →
      ∃ t, exec (.segmentMaskWrite p u mask) s = .next t ∧ Denied t p (segObj u) 0x08000022 ∧ t.cores = s.cores ∧ t.pools = s.pools) ∧
    (∀ (i : Fin 8), segInFlight s u i.val ≠ 0 → exec (.segmentPowerDownDone u i) s = .next s) ∧
    (∀ (i : Fin 8),
      let mine := fun (up : Bool) (g : Staged) => g.sent && !g.acked && (segKind u g.kind).any fun v => v.getLsbD i.val == up && (segMaskOf s u).getLsbD i.val != up
      let last := fun (g : Staged) => (segKind u g.kind).any fun v => (segMaskOf s u ^^^ v) &&& ~~~(g.acks ||| 1#8 <<< i.val) == 0#8
      let acked := fun (up : Bool) => mapFirst (mine up) (fun g => { g with acks := g.acks ||| 1#8 <<< i.val, acked := last g, ackS := s.sch.sCycle }) s.mgm.staged
      (segInFlight s u i.val = 0 → (stagesNow s = true ∨ s.dev.state = .halted) → s.sch.weirPhase ≠ 7 → ∃ t, exec (.segmentPowerDownDone u i) s = .next t ∧
        t = { s with cores := t.cores, pools := t.pools, mgm := { s.mgm with staged := acked false } } ∧
        (∀ c, u = .core c → (t.core c.val).segDown = (s.core c.val).segDown &&& ~~~(1#8 <<< i.val) ∧ (t.core c.val).spad = (s.core c.val).spad) ∧
        (∀ cl, u = .pool cl → (t.pool cl.val).segDown = (s.pool cl.val).segDown &&& ~~~(1#8 <<< i.val))) ∧
      ((stagesNow s = true ∨ s.dev.state = .halted) → s.sch.weirPhase ≠ 7 →
        exec (.segmentPowerUpDone u i) s = .next { s with mgm := { s.mgm with staged := acked true } }) ∧
      (∀ g v, stagesNow s = false → s.dev.state ≠ .halted → s.mgm.staged = [g] → g.kind = .segment u v → g.acked = false →
        (mine true g = true → ∃ t, exec (.segmentPowerUpDone u i) s = .next t ∧
          if last g then segMaskOf t u = v ∧ t.mgm.staged = [] else t.mgm.staged = acked true ∧ t.cores = s.cores ∧ t.pools = s.pools) ∧
        (mine false g = true → segInFlight s u i.val = 0 → ∃ t, exec (.segmentPowerDownDone u i) s = .next t ∧
          if last g then segMaskOf t u = v ∧ t.mgm.staged = [] else segMaskOf t u = segMaskOf s u ∧ t.mgm.staged = acked false)))

/-! ### Memory errors, scrubbing and partitions -/

/-- R13, R49, R262, R270, R271, R274, R275, R276, R287, R288: an uncorrectable error in a schedule read starts a replay, a second one in the step is fatal; a
transient error restarts the step from its copies 64 W-cycles after its detection; one found outside the schedule is counted and reported, in the beds in a
free cycle. -/
def Obligations.MemoryErrorsServed : Prop :=
  ∀ (s : State),
    (∀ (m : MemLoc) (per : Bool), s.sch.job = true → stagesNow s = true → s.sch.replayed = false → s.sch.replay = none →
      ∃ t, exec (.uncorrectableRead m per) s = .next t ∧ hasCause t 11 = true ∧
        t.sch.replay = some { loc := m, persistent := per, atW := s.sch.wCycle } ∧ t.dev = s.dev ∧ t.evr = (raise s 0x0802 (memNode s m) (memItems s m)).evr) ∧
    (∀ (m : MemLoc) (per : Bool), s.sch.job = true → stagesNow s = true → (s.sch.replayed = true ∨ s.sch.replay ≠ none) →
      ∃ t, exec (.uncorrectableRead m per) s = .next t ∧ t.dev.state = .halted ∧ t.dev.haltId = 0x0803 ∧ t.sch = s.sch) ∧
    (∀ (r : Replay) (d : List Byte), s.sch.replay = some r → r.persistent = false → s.sch.wCycle < r.atW + 64 → exec (.replayReady d) s = .next s) ∧
    (∀ (r : Replay) (d : List Byte), s.sch.replay = some r → r.persistent = false → r.atW + 64 ≤ s.sch.wCycle → ∃ t, exec (.replayReady d) s = .next t ∧
      t.free = s.sch.freeAt ∧ t.sch.sCycle = s.sch.base ∧ t.sch.replayed = true ∧ t.sch.replay = none ∧ t.sch.discard = s.sch.handed ∧ t.sch.signals = [] ∧
      t.sch.replayCount = min (s.sch.replayCount + 1) 0xFFFFFFFF ∧ hasCause t 11 = false ∧ t.trib.outStep = [] ∧ t.trib.used = [] ∧ t.fab.takes = [] ∧
      ∀ c k, s.sch.copies = [(c, k)] → (t.core c).flags = k.flags ∧ (t.core c).sregs = k.sregs ∧ (t.core c).vreg = k.vreg ∧ (t.core c).mreg = k.mreg ∧
        (t.core c).vl = k.vl ∧ (t.core c).idx = k.idx ∧ (t.core c).run = [] ∧ (t.core c).spad = (s.core c).spad) ∧
    (s.dev.state ≠ .off →
      (∀ (c : CoreId) (g : Nat) (d : List Byte), ∃ t, exec (.uncorrectableOutside (.spad c g) d) s = .next t ∧
        t.evr = (raise s 0x0804 (c.val / 12) [0, c.val, rowBank (bankBits c.val) (g / 4), 8 * g]).evr ∧
        t.core c.val = { s.core c.val with bad := fset (s.core c.val).bad false g true, uncorr := min ((s.core c.val).uncorr + 1) 0xFFFFFFFF } ∧
        OtherCores s t c.val ∧ t = { s with cores := t.cores, evr := t.evr }) ∧
      (∀ (cl : Fin 16) (g : Nat) (d : List Byte), ∃ t, exec (.uncorrectableOutside (.pool cl g) d) s = .next t ∧
        t.evr = (raise s 0x0804 cl.val [1, cl.val, rowBank 6 (g / 4), 8 * g]).evr ∧
        t.pool cl.val = { s.pool cl.val with bad := fset (s.pool cl.val).bad false g true, uncorr := min ((s.pool cl.val).uncorr + 1) 0xFFFFFFFF } ∧
        t = { s with pools := t.pools, evr := t.evr }) ∧
      (∀ (l : Nat) (d : List Byte), cycleHeld (wideNow s) s (.beds l) true = true →
        exec (.uncorrectableOutside (.beds l) d) s = .next { s with beds := { s.beds with waiting := s.beds.waiting ++ [.uncorrectableOutside (.beds l) d] } }) ∧
      (∀ (l : Nat) (d : List Byte), CycleFree s (.uncorrectableOutside (.beds l) d) → ∃ t, exec (.uncorrectableOutside (.beds l) d) s = .next t ∧
        fget t.beds.uncorr 0 (rowOf s l).1 = min (fget s.beds.uncorr 0 (rowOf s l).1 + 1) 0xFFFFFFFF ∧ t.cores = s.cores ∧ t.pools = s.pools))

/-- R262, R264, R277, R278, R279, R287: scrubbing in a free cycle counts corrected errors and changes no content, a pass of a memory that takes longer than the
scrub period is reported once, and a partition entry is written in STANDBY unless it is out of range or collides. -/
def Obligations.ScrubAndPartitions : Prop :=
  ∀ (s : State),
    (∀ (c : CoreId) (g n : Nat) (x : ScrubRace), CycleFree s (.scrubLine (.spad c g) n x) → scrubRuns s = true →
      fget (s.core c.val).bad false g = false → 0 < n → ∃ t, exec (.scrubLine (.spad c g) n x) s = .next t ∧
        (t.core c.val).corr = min ((s.core c.val).corr + n) 0xFFFFFFFF ∧ ∀ k, (t.core k).spad = (s.core k).spad ∧ (t.core k).bad = (s.core k).bad) ∧
    (∀ (l n : Nat) (x : ScrubRace), CycleFree s (.scrubLine (.beds l) n x) → scrubRuns s = true → scrubDue s l = true →
      fget s.beds.bad false l = false → ∃ t, exec (.scrubLine (.beds l) n x) s = .next t ∧ t.beds.mem = s.beds.mem ∧
        (0 < n → fget t.beds.corr 0 (rowOf s l).1 = min (fget s.beds.corr 0 (rowOf s l).1 + n) 0xFFFFFFFF) ∧
        fget t.beds.scrubNext 0 (rowOf s l).1 =
          (if 1048576 ≤ fget s.beds.scrubNext 0 (rowOf s l).1 + 1 then 0 else fget s.beds.scrubNext 0 (rowOf s l).1 + 1)) ∧
    (∀ (m : MemLoc) (n : Nat) (x : ScrubRace) (r : Nat) (wr : Bool), outsideJob s (.scrubLine m n x) = some (r, m, wr) →
      cycleHeld (wideNow s) s m wr = true →
      exec (.scrubLine m n x) s = .next { s with beds := { s.beds with waiting := s.beds.waiting ++ [.scrubLine m n x] } }) ∧
    (let overdue := fun (since : Nat) => decide (3600000000000 * s.beds.scrubHours < s.now - since)
     (scrubRuns s = true → ∃ t, exec .scrubOverrun s = .next t ∧ t = { s with beds := t.beds, cores := t.cores, pools := t.pools, evr := t.evr } ∧
        t.beds = { s.beds with scrubLate := s.beds.scrubLate || overdue s.beds.scrubSince } ∧
        (∀ c : CoreId, t.core c.val = { s.core c.val with scrub := { (s.core c.val).scrub with late := (s.core c.val).scrub.late || overdue (s.core c.val).scrub.since } }) ∧
        (∀ cl : Fin 16, t.pool cl.val = { s.pool cl.val with scrub := { (s.pool cl.val).scrub with late := (s.pool cl.val).scrub.late || overdue (s.pool cl.val).scrub.since } })) ∧
     ((∀ c : CoreId, (s.core c.val).scrub.late = true ∨ overdue (s.core c.val).scrub.since = false) →
      (∀ cl : Fin 16, (s.pool cl.val).scrub.late = true ∨ overdue (s.pool cl.val).scrub.since = false) → scrubRuns s = true →
        ((s.beds.scrubLate = true ∨ overdue s.beds.scrubSince = false) → exec .scrubOverrun s = .next s) ∧
        (s.beds.scrubLate = false → overdue s.beds.scrubSince = true → s.rep.stackMap = none → s.beds.scrubWrap = [] →
          exec .scrubOverrun s = .next { s with beds := { s.beds with scrubLate := true }
                                                evr := (raise s 0x080A (memNode s (.beds (16 * fget s.beds.scrubNext 0 0))) (memItems s (.beds (16 * fget s.beds.scrubNext 0 0)))).evr }))) ∧
    (∀ (p : Path) (i : Fin 8) (v : BitVec 64), Takes s p (0x300000 + i.val + 1) → s.dev.state = .standby → bits v.toNat 63 60 < 7 →
      let obj := 0x300000 + i.val + 1
      let w := BitVec.ofNat 64 (bits v.toNat 63 60 * 2 ^ 60 + min 8192 (bits v.toNat 45 32) * 2 ^ 32 + bits v.toNat 12 0)
      (partBad s i.val w = false → ∃ t, exec (.partitionWrite p i v) s = .next t ∧ Granted t p obj ∧
        (∀ j, fget t.beds.parts 0#64 j = if j = i.val then w else fget s.beds.parts 0#64 j) ∧
        t = { s with beds := { s.beds with parts := t.beds.parts }, mgm := t.mgm, evr := t.evr }) ∧
      (partBad s i.val w = true → ∃ t, exec (.partitionWrite p i v) s = .next t ∧ Denied t p obj 0x08000021 ∧ t.beds = s.beds))

/-! ### Images and device states -/

/-- R56, R57, R60, R61, R62, R433, R434, R578: loading an image, its acceptance or refusal, and unloading. -/
def Obligations.ImagesLoad : Prop :=
  ∀ (p : Path) (s : State), s.dev.busy = false →
    (Takes s p 0x180002 → s.dev.state = .standby → ∃ t, exec (.load p) s = .next t ∧ Granted t p 0x180002 ∧
      t.dev = { s.dev with state := .loading, image := [], imgLen := 0, place := [], placeW := [] } ∧
      t = { s with dev := t.dev, evr := (raise s 0x0D04 0x10 [2, 3]).evr, mgm := { s.mgm with resp := t.mgm.resp } }) ∧
    (∀ (off : BitVec 32) (bs : List Byte), Takes s p 0x181100 → s.dev.state = .loading → ∃ t, exec (.imageWrite p off bs) s = .next t ∧
      Granted t p 0x181100 ∧ Wrote s.dev.image t.dev.image off.toNat bs ∧
      t.dev.imgLen = max s.dev.imgLen (if bs.isEmpty then 0 else off.toNat + bs.length) ∧
      t = { s with dev := { s.dev with image := t.dev.image, imgLen := t.dev.imgLen }, mgm := { s.mgm with resp := t.mgm.resp, src := t.mgm.src, harts := t.mgm.harts } }) ∧
    (∀ (off : BitVec 32) (bs : List Byte), Takes s p 0x181200 → s.dev.state = .loading → ∃ t, exec (.placementWrite p off bs) s = .next t ∧
      Granted t p 0x181200 ∧ Wrote s.dev.place t.dev.place off.toNat bs ∧
      t = { s with dev := { s.dev with place := t.dev.place, placeW := t.dev.placeW }
                   mgm := { s.mgm with resp := t.mgm.resp, src := t.mgm.src, harts := t.mgm.harts } }) ∧
    (Takes s p 0x180002 → s.dev.state = .loading →
      let m := imgView s.dev.image
      let r := acceptCheck s m s.dev.imgLen false
      ∃ t, exec (.accept p) s = .next t ∧ Granted t p 0x180002 ∧
        (r = 0 → t.dev.state = entered s .ready ∧ t.dev.img = some (imgKeep s m) ∧ t.dev.lat = mnat m 8 2 ∧ t.dev.loadRes = 0 ∧
          (∀ c, (t.core c).ring = decide (c ∈ imgCores m)) ∧
          (∀ c, c ∈ imgCores m → (t.core c).activeB = false ∧ (t.core c).inact = .empty ∧ (t.core c).idx = 0) ∧ t.fab.halves = []) ∧
        (r ≠ 0 → t.dev.state = entered s .standby ∧ t.dev.loadRes = r ∧ t.dev.img = none ∧ t.dev.image = [] ∧ t.dev.place = [] ∧
          ∀ c, (t.core c).ring = false ∧ (t.core c).bankA = [] ∧ (t.core c).bankB = [])) ∧
    (Takes s p 0x180002 → (s.dev.state = .loading ∨ s.dev.state = .ready) → ∃ t, exec (.unload p) s = .next t ∧ Granted t p 0x180002 ∧
      t.dev.state = entered s .standby ∧ t.dev.img = none ∧ t.dev.image = [] ∧ t.dev.place = [] ∧
      ∀ c, (t.core c).ring = false ∧ (t.core c).bankA = [] ∧ (t.core c).bankB = [] ∧ (t.core c).spad = (s.core c).spad)

/-- R434, R435: a device command is refused with `WRONG_STATE` in every state in which it has no row, and while an acceptance, a Flush or a wake
runs; only the refusal is recorded. -/
def Obligations.DeviceCommandsByState : Prop :=
  ∀ (p : Path) (s : State) (i : Instr) (l : List DevState),
    (i, l) ∈ [(.load p, [.standby]), (.accept p, [.loading]), (.unload p, [.loading, .ready]), (.run p, [.ready, .draining]), (.drainCmd p, [.running]),
      (.kill p, [.ready, .running, .draining, .halted]), (.killWeights p, [.ready, .running, .draining, .halted]), (.sleep p, [.standby, .ready]),
      (.wake p, [.slackwater])] →
    served s p = true → ownerOk s p = true → (s.dev.busy = true ∨ s.dev.state ∉ l) → ∃ t, exec i s = .next t ∧ Denied t p 0x180002 0x08000020 ∧
      t = { s with evr := (raise s 0x0D02 0x10 [0x180002, 0x08000020]).evr, mgm := { s.mgm with
        resp := t.mgm.resp, refusals := min (s.mgm.refusals + 1) 0xFFFFFFFF, lastAbort := 0x08000020, lastRef := 0x180002 } }

/-- R11, R27, R84, R132, R359, R434, R472, R473: a job starts from READY once every listed piece is VALID, S-cycle 0 begins when the ledger admits step
0, and a job that drains goes on with RUN. -/
def Obligations.JobsStart : Prop :=
  ∀ (p : Path) (s : State),
    (Takes s p 0x180002 → s.dev.busy = false → s.dev.state = .ready → allValid s = true → s.inp.replayOn ≠ 1 → ∃ t, exec (.run p) s = .next t ∧
      Granted t p 0x180002 ∧ t.dev.state = .running ∧ t.sch.job = false ∧ t.sch.jobWait = true ∧
      (t.sch.sCycle, t.sch.wCycle, t.sch.eddyW, t.sch.stepNo) = (0, 0, 0, 0) ∧ t.sch.causes = [] ∧ t.srv.slots = [] ∧ t.mgm.staged = [] ∧
      ∀ c, (t.core c).flags = [] ∧ (t.core c).sticky = 0#32 ∧ (t.core c).vl = 0 ∧ (t.core c).vreg = [] ∧ (t.core c).arrays = [] ∧
        ((t.core c).skips, (t.core c).bounds, (t.core c).stalls, (t.core c).refused, (t.core c).oxbow) = (0, 0, 0, 0, 0) ∧
        (t.core c).queues = [] ∧ (t.core c).run = []) ∧
    (Takes s p 0x180002 → s.dev.busy = false → s.dev.state = .ready → allValid s = false → ∃ t, exec (.run p) s = .next t ∧
      Denied t p 0x180002 0x08000028 ∧ t.dev = s.dev ∧ t.sch = s.sch) ∧
    (Takes s p 0x180002 → s.dev.busy = false → s.dev.state = .draining → ∃ t, exec (.run p) s = .next t ∧ Granted t p 0x180002 ∧
      t = { s with dev := { s.dev with state := .running }, evr := (raise s 0x0D04 0x10 [6, 5]).evr, mgm := { s.mgm with resp := t.mgm.resp } }) ∧
    (let ch := charge s (stepEntry s 0).energy (stepEntry s 0).len
     s.dev.state = .running → s.sch.jobWait = true →
      (admits s ch = true → ∃ t, exec .jobStart s = .next t ∧ t.sch.job = true ∧ t.sch.jobWait = false ∧ t.sch.sCycle = s.sch.sCycle ∧
        t.pwr = { s.pwr with charge := ch, stepE := 0 } ∧ t.dev = s.dev) ∧
      (admits s ch = false → exec .jobStart s = .next s)) ∧
    (Takes s p 0x180002 → s.dev.busy = false → s.dev.state = .running → ∃ t, exec (.drainCmd p) s = .next t ∧ Granted t p 0x180002 ∧
      t.dev.state = .draining ∧ t.srv.store = [] ∧ t.srv.out = s.srv.out ++ s.srv.store.map (fun r =>
        padTo 64 (leBytes 2 0x202 ++ leBytes 2 0 ++ leBytes 4 r.reqid ++ leBytes 1 0x44)) ∧
      t = { s with dev := { s.dev with state := .draining }, srv := t.srv, evr := t.evr, mgm := { s.mgm with resp := t.mgm.resp } })

/-- R62, R284, R285, R286: a kill ends the job and starts the Flush; its on-die part zeroes every memory and register of the cores and pools, its end
zeroes the KV, adapter and log partitions, and the weights only where the kill asks for it, and leaves the device in STANDBY. -/
def Obligations.KillFlushes : Prop :=
  ∀ (p : Path) (s : State),
    (∀ (w : Bool), Takes s p 0x180002 → s.dev.busy = false → s.dev.state ∈ [.ready, .running, .draining, .halted] →
      ∃ t, exec (if w then .killWeights p else .kill p) s = .next t ∧ Granted t p 0x180002 ∧ t.dev = { s.dev with busy := true } ∧
        t.beds.flush = 1 ∧ t.beds.flushW = w ∧ t.sch.job = false ∧ t.sch.jobWait = false ∧ t.sch.causes = [] ∧ t.mgm.staged = [] ∧
        t.trib.inQ = [] ∧ t.trib.outQ = [] ∧ t.wts.pstate = [] ∧ t.wts.man = none ∧ t.wts.swState = .idle ∧ t.srv.slots = [] ∧
        ∀ c, (t.core c).run = [] ∧ (t.core c).queues = []) ∧
    (s.beds.flush = 1 → s.dev.busy = true → ∃ t, exec .flushOndieDone s = .next t ∧ t.beds.flush = 2 ∧
      t.beds.flushOn = (s.fab.ftime - s.beds.flushSince) / 1000 ∧ t.beds.mem = s.beds.mem ∧
      (∀ c, (t.core c).spad = [] ∧ (t.core c).bankA = [] ∧ (t.core c).bankB = [] ∧ (t.core c).sregs = [] ∧ (t.core c).flags = [] ∧
        (t.core c).vreg = [] ∧ (t.core c).mreg = [] ∧ (t.core c).vl = 0 ∧
        ∀ a, ((t.core c).arr a).acc = [] ∧ (a < 4 → ((t.core c).arr a).snd = ((s.core c).arr a).snd)) ∧ (∀ cl, (t.pool cl).mem = []) ∧
      t = { s with cores := t.cores, pools := t.pools, beds := t.beds }) ∧
    (s.beds.flush = 2 → s.dev.busy = true → s.rep.stackReq = none → ∃ t, exec .flushComplete s = .next t ∧ t.beds.flush = 3 ∧ t.dev.busy = false ∧
      t.dev.state = entered s .standby ∧ t.dev.img = none ∧ t.dev.image = [] ∧ t.srv.adapters = [] ∧
      let gone := fun a => ∃ i, i < 8 ∧ partUsed (partOf s i) = true ∧ (partOf s i).2.1 ≤ a ∧ a < (partOf s i).2.1 + (partOf s i).2.2 ∧
        ((partOf s i).1 ∈ [3, 4, 5] ∨ s.beds.flushW = true ∧ (partOf s i).1 ∈ [1, 2])
      (∀ a, gone a → mget t.beds.mem a = 0#8) ∧ (∀ a, ¬ gone a → mget t.beds.mem a = mget s.beds.mem a))

/-- R434, R435, R477, R478, R566: Slackwater is entered by command or by the board's level, left by command or its release, and the wake ends in the
state left; the wake keeps memories and accumulators. -/
def Obligations.SlackwaterEntersAndWakes : Prop :=
  ∀ (p : Path) (s : State),
    (Takes s p 0x180002 → s.dev.busy = false → (s.dev.state = .standby ∨ s.dev.state = .ready) → ∃ t, exec (.sleep p) s = .next t ∧
      Granted t p 0x180002 ∧ t.dev.state = .slackwater ∧ t.dev.saved = stateCode s.dev.state ∧
      t.pwr = { s.pwr with sleepE := 0, sleepAt := s.fab.ftime, sleepN := min (s.pwr.sleepN + 1) 0xFFFFFFFF } ∧
      t = { s with dev := t.dev, pwr := t.pwr, evr := t.evr, mgm := { s.mgm with resp := t.mgm.resp } }) ∧
    (Takes s p 0x180002 → s.dev.busy = false → s.dev.state = .slackwater → ∃ t, exec (.wake p) s = .next t ∧ Granted t p 0x180002 ∧
      t = { s with dev := { s.dev with busy := true }, pwr := { s.pwr with wakeAt := s.fab.ftime }, mgm := { s.mgm with resp := t.mgm.resp } }) ∧
    (s.dev.state = .slackwater → s.dev.busy = true → ∃ t, exec (.wakeComplete []) s = .next t ∧ t.dev.busy = false ∧
      t.dev.state = entered s (if s.dev.saved = 4 then .ready else .standby) ∧ t.pwr.wakeUs = (s.fab.ftime - s.pwr.wakeAt) / 1000 ∧
      t.pools = s.pools ∧ t.beds = s.beds ∧ (∀ c, (t.core c).spad = (s.core c).spad ∧ (t.core c).bankA = (s.core c).bankA ∧
        (t.core c).bankB = (s.core c).bankB ∧ ∀ a, a < 4 → ((t.core c).arr a).acc = ((s.core c).arr a).acc)) ∧
    (∃ t, exec .sleepReqAssert s = .next t ∧ t.pins = { s.pins with sleepReq := true } ∧
      t.dev.state = (if s.dev.busy = false ∧ (s.dev.state = .standby ∨ s.dev.state = .ready) then .slackwater else s.dev.state) ∧
      t = { s with pins := t.pins, dev := t.dev, pwr := t.pwr, evr := t.evr
                   mgm := { s.mgm with src := t.mgm.src, harts := t.mgm.harts } }) ∧
    (∃ t, exec .sleepReqRelease s = .next t ∧ t.pins = { s.pins with sleepReq := false } ∧ t.dev.state = s.dev.state ∧
      t.dev.busy = (s.dev.busy || (s.dev.state == .slackwater && s.pins.sleepReq)) ∧
      t = { s with pins := t.pins, dev := { s.dev with busy := t.dev.busy }, pwr := { s.pwr with wakeAt := t.pwr.wakeAt }
                   mgm := { s.mgm with src := t.mgm.src, harts := t.mgm.harts } })

/-! ### Descriptor banks and path tables -/

/-- R103, R104, R105, R106, R107, R339, R340, R437: banks and path tables are written, sealed where their check holds, and switched or staged; a write to a
bank that a switch has made active since it was sent is refused. -/
def Obligations.BanksSeal : Prop :=
  ∀ (p : Path) (c : CoreId) (s : State), (s.dev.state = .ready ∨ s.dev.state = .running ∨ s.dev.state = .draining) → served s p = true → ownerOk s p = true →
    let k := s.core c.val
    let good := k.inact ≠ .empty ∧ bankSealOk s c.val k.inBank = true
    let pgood := s.fab.pathIn ≠ .empty ∧ pathSealOk (pathInBank s) = true
    (∀ (off : BitVec 32) (bs : List Byte), (stagesNow s = true → s.inp.replaying = false) → off.toNat + bs.length ≤ 135168 →
      (∃ t, exec (.bankWrite p c ⟨k.activeB, off⟩ bs) s = .next t ∧ Denied t p (0x203200 + c.val + 1) 0x08000020 ∧ OtherCores s t c.val ∧
        t.core c.val = { k with refused := min (k.refused + 1) 0xFFFFFFFF }) ∧
      ∃ t, exec (.bankWrite p c ⟨!k.activeB, off⟩ bs) s = .next t ∧ Granted t p (0x203200 + c.val + 1) ∧ Wrote k.inBank (t.core c.val).inBank off.toNat bs ∧ (t.core c.val).actBank = k.actBank ∧
      (t.core c.val).inact = .filling ∧ (t.core c.val).byOd = true ∧ OtherCores s t c.val) ∧
    (good → ∃ t, exec (.bankSeal p c) s = .next t ∧ Granted t p (0x203300 + c.val + 1) ∧ t.core c.val = { k with inact := .valid } ∧ OtherCores s t c.val) ∧
    (¬ good → ∃ t, exec (.bankSeal p c) s = .next t ∧ Denied t p (0x203300 + c.val + 1) 0x08000025 ∧ t.cores = s.cores) ∧
    (good → (stagesNow s = true → s.inp.replaying = false) → stageRoom s (.bankSwitch c.val) = true → ∃ t, exec (.bankSealSwitch p c) s = .next t ∧
      Granted t p (0x203300 + c.val + 1) ∧ t.core c.val = { k with inact := .valid } ∧ OtherCores s t c.val ∧
      ∃ g ∈ t.mgm.staged, g.kind = .bankSwitch c.val ∧ g.acked = false ∧ g.sent = true) ∧
    (∀ (off : BitVec 32) (bs : List Byte), off.toNat + bs.length ≤ 65536 → ∃ t, exec (.pathBankWrite p off bs) s = .next t ∧
      Granted t p 0x402000 ∧ Wrote (pathInBank s) (pathInBank t) off.toNat bs ∧ pathBank t = pathBank s ∧ t.fab.pathIn = .filling) ∧
    (pgood → ∃ t, exec (.pathBankSeal p) s = .next t ∧ Granted t p 0x402100 ∧ t.fab = { s.fab with pathIn := .valid }) ∧
    (¬ pgood → ∃ t, exec (.pathBankSeal p) s = .next t ∧ Denied t p 0x402100 0x08000025 ∧ t.fab = s.fab) ∧
    (pgood → s.dev.state = .ready → ∃ t, exec (.pathBankSealSwitch p) s = .next t ∧ Granted t p 0x402100 ∧
      t.fab = { s.fab with pathAct := !s.fab.pathAct, pathIn := .spent } ∧
      fget t.tru.mr (List.replicate 64 0#8) 4 = shake64 (fget s.tru.mr (List.replicate 64 0#8) 4 ++ leBytes 2 0x41 ++ leBytes 1 0 ++
        padTo 32 [] ++ padTo 64 (shake64 (mread (pathInBank s) 0 65536)))) ∧
    (pgood → s.dev.state ≠ .ready → s.inp.replaying = false → stageRoom s .pathSwitch = true → ∃ t, exec (.pathBankSealSwitch p) s = .next t ∧
      Granted t p 0x402100 ∧ t.fab = { s.fab with pathIn := .valid } ∧ ∃ g ∈ t.mgm.staged, g.kind = .pathSwitch ∧ g.acked = false ∧ g.sent = true)

/-! ### Links, packets and fabric time -/

/-- R310, R312, R313, R314, R319: link control, frames, faults and trainings change the state of a link; what is queued for a link that is given up, or of a
class whose gate closes, is dropped; a closed class is reported drained once nothing of it is left there, or late (R341). -/
def Obligations.LinksChangeState : Prop :=
  ∀ (l : LinkId) (s : State),
    let k := s.link l.val
    (∀ (p : Path) (v : BitVec 32) (i : Instr), i ∈ [.linkEnable p l v, .linkDisable p l v, .linkRetrain p l v] → Takes s p (0x401000 + l.val + 1) →
      (bits v.toNat 6 5 ≠ 3 → s.fab.waiting = [] → ∃ t, exec i s = .next t ∧ Granted t p (0x401000 + l.val + 1) ∧ OtherLinks s t l.val ∧
        (t.link l.val).enable = v.getLsbD 3 ∧ (t.link l.val).dateline = v.getLsbD 7 ∧ (t.link l.val).lanes = bits v.toNat 6 5 ∧
        (t.link l.val).state = (if v.getLsbD 3 = false then .off else if k.state = .off ∨ v.getLsbD 4 then .training else k.state) ∧
        (v.getLsbD 3 = false → (t.link l.val).outQ = [] ∧ (t.link l.val).replayBuf = [] ∧ queuedFor t l.val = [])) ∧
      (bits v.toNat 6 5 = 3 → ∃ t, exec i s = .next t ∧ Denied t p (0x401000 + l.val + 1) 0x06090030 ∧ t.fab = s.fab)) ∧
    (∀ f : Frame, linkUp k = true → frameOk k f = true → Idle s l.val none → ∃ t, exec (.linkFrameReceive l f) s = .next t ∧ OtherLinks s t l.val ∧
      (t.link l.val).expSeq = (k.expSeq + 1) % 4096 ∧ (t.link l.val).nak = false ∧ (t.link l.val).rx = rxAfter k f ∧
      (t.link l.val).fec = min (k.fec + f.fec) 0xFFFFFFFFFFFFFFFF ∧ (t.link l.val).peerAck = bits f.ctl.toNat 115 104 ∧ (t.link l.val).peerXoff = BitVec.ofNat 8 (bits f.ctl.toNat 102 95)) ∧
    (∀ f : Frame, linkUp k = true → frameOk k f = false → ∃ t, exec (.linkFrameReceive l f) s = .next t ∧
      t.link l.val = { k with nak := true, fec := min (k.fec + f.fec) 0xFFFFFFFFFFFFFFFF } ∧ OtherLinks s t l.val ∧ t = { s with fab := { s.fab with links := t.fab.links } }) ∧
    (∀ f : Frame, linkUp k = false → exec (.linkFrameReceive l f) s = .next s) ∧
    (∀ bad, linkUp k = true → ∃ t, exec (.linkFault l bad) s = .next t ∧ OtherLinks s t l.val ∧
      t.link l.val = { k with state := .training, trainAt := s.fab.ftime, keep4 := k.state == .up4, resendN := 0, bad := k.bad ||| bad }) ∧
    (∀ bad n, k.state = .training → Idle s l.val none → ∃ t, exec (.linkTrained l bad n) s = .next t ∧ OtherLinks s t l.val ∧ (t.link l.val).bad = bad ∧
      (k.lanes = 0 → k.keep4 = false → bad = 0#8 → (t.link l.val).state = .up8) ∧
      (k.lanes = 0 → (k.keep4 = true ∨ bad ≠ 0#8) → (t.link l.val).state = if bad.toNat % 16 = 0 ∨ bad.toNat / 16 = 0 then .up4 else .failed) ∧
      (k.lanes = 1 → (t.link l.val).state = if bad.toNat % 16 = 0 then .up4 else .failed) ∧
      (k.lanes = 2 → (t.link l.val).state = if bad.toNat / 16 = 0 then .up4 else .failed)) ∧
    (s.fab.ftime < k.trainAt + 20000000 → exec (.linkTrainTimeout l) s = .next s) ∧
    (k.state = .training → k.trainAt + 20000000 ≤ s.fab.ftime → Idle s l.val none → ∃ t, exec (.linkTrainTimeout l) s = .next t ∧ t.link l.val = { k with state := .failed } ∧ OtherLinks s t l.val ∧
      t.evr = (raise s 0x0A07 0x15 [l.val]).evr) ∧
    (k.state = .training → k.trainAt + 20000000 ≤ s.fab.ftime → s.fab.waiting = [] → k.dropped ≤ 0xFFFFFFFF → ∃ t, exec (.linkTrainTimeout l) s = .next t ∧ queuedFor t l.val = [] ∧
      (t.link l.val).dropped = min (k.dropped + (queuedFor s l.val).length) 0xFFFFFFFF) ∧
    (k.state ≠ .training → exec (.linkTrainTimeout l) s = .next s) ∧
    (∀ tc : Fin 4,
      (∀ (p : Path) (v : BitVec 8), Takes s p (0x404000 + l.val + 1) → s.fab.waiting = [] → ∃ t, exec (.gateWrite p l v) s = .next t ∧
        Granted t p (0x404000 + l.val + 1) ∧ OtherLinks s t l.val ∧ (t.link l.val).gate = v &&& 0x0F#8 ∧
        (∀ i, i < 4 → v.getLsbD i = false → (t.link l.val).drained.getLsbD i = false) ∧
        (k.tx = [] → ∀ q ∈ queuedFor t l.val, v.getLsbD (hTc q) = false) ∧
        (Idle s l.val none → (∀ h, fget t.fab.inj [] h = fget s.fab.inj [] h) ∧ (∀ h, fget t.fab.inj2 [] h = fget s.fab.inj2 [] h) ∧
          t = { s with fab := { s.fab with links := t.fab.links, inj := t.fab.inj, inj2 := t.fab.inj2 }, mgm := { s.mgm with resp := t.mgm.resp } })) ∧
      (gateShut k tc.val = true → classDrained s l.val tc.val = true → ∃ t, exec (.classDrained l tc) s = .next t ∧ OtherLinks s t l.val ∧
        t.link l.val = { k with drained := k.drained ||| (1#8 <<< tc.val) }) ∧
      (gateShut k tc.val = false ∨ classDrained s l.val tc.val = false → exec (.classDrained l tc) s = .next s) ∧
      (gateShut k tc.val = true → k.drained.getLsbD tc.val = false → k.gateLate.getLsbD tc.val = false → fget k.gateAt 0 tc.val + 10000000 ≤ s.fab.ftime → ∃ t,
        exec (.drainTimeout l tc) s = .next t ∧
        OtherLinks s t l.val ∧ t.link l.val = { k with gateLate := k.gateLate ||| (1#8 <<< tc.val) } ∧
        t.evr = (raise s 0x0A0B 0x15 [l.val, tc.val]).evr))

/-- R255, R317, R319, R323, R325, R331, R332, R333, R335: a packet goes to its window (in a job its rows wait for their banks), to its next link or is dropped; a complete reduce group leaves with its
combined payload. -/
def Obligations.PacketsDeliver : Prop :=
  ∀ (s : State),
    (∀ (l : LinkId) (pk : Packet), (s.link l.val).state ≠ .off → (s.link l.val).state ≠ .failed → s.fab.waiting = [] →
      (∀ c a k, (route s pk).2 = none → Window s (route s pk).1 c a k → ∃ t, exec (.packetArrive l pk) s = .next t ∧
        (if s.sch.job then Waits s t (route s pk).1 c a k else Delivered s t (route s pk).1 c a k) ∧ t.evr = s.evr) ∧
      (∀ h, (route s pk).2 = some h → hopBad s h (hTc (route s pk).1) = true → ∃ t, exec (.packetArrive l pk) s = .next t ∧
        (t.link h).dropped = min ((s.link h).dropped + 1) 0xFFFFFFFF ∧ t.evr = (raise s 0x0A01 0x15 [h]).evr ∧ t.cores = s.cores) ∧
      (∀ h, (route s pk).2 = some h → h ≠ l.val → hopBad s h (hTc (route s pk).1) = false → Idle s h none →
        canSend (s.link h) (route s pk).1 = true → ∃ t, exec (.packetArrive l pk) s = .next t ∧
          (t.link h).replayBuf = (s.link h).replayBuf ++ [frameOf (s.link h) (route s pk).1] ∧ t.fab.waiting = [] ∧ t.cores = s.cores ∧ t.evr = s.evr)) ∧
    (∀ (v : Fin 8) (p : Packet), s.fab.waiting = [] → s.fab.injIn = [] → s.fab.groups = [] → (fget s.fab.inj [] (128 + v.val)).head? = some p →
      (∀ c a k, Window s p c a k → ∃ t, exec (.localRouteDeliver false v) s = .next t ∧
        (if s.sch.job then Waits s t p c a k else Delivered s t p c a k) ∧
        fget t.fab.inj [] (128 + v.val) = (fget s.fab.inj [] (128 + v.val)).tail) ∧
      (fabricTakes s = false → ∃ t, exec (.localRouteDeliver false v) s = .next t ∧ t.fab.arrDrops = min (s.fab.arrDrops + 1) 0xFFFFFFFF ∧
        fget t.fab.inj [] (128 + v.val) = (fget s.fab.inj [] (128 + v.val)).tail ∧ t.evr = (raise s 0x0A02 0x15 [hQueue p]).evr)) ∧
    (∀ g u, s.fab.waiting = [] → s.fab.groups = [g] → groupFull s g = true → groupEmit s g = some u →
      exec .reducePlaceFree s = .next { u with fab := { u.fab with groups := [], waiting := [] } }) ∧
    (∀ a b : List Byte, ∀ i, i < 16 →
      fieldAt (redCombine 3 2 [(0, a), (1, b)]) (4 * i) 4 = (fieldAt a (4 * i) 4 + fieldAt b (4 * i) 4) % 2 ^ 32)

/-- R319, R343, R344, R457, R458, R459: beacons set fabric time and are sent on, or dropped where the chip takes no packets; the loss and the return of the
reference are recorded. -/
def Obligations.FabricTimeAligns : Prop :=
  ∀ (s : State), s.dev.state ≠ .off →
    (∀ (l : LinkId) (b : BitVec 64), fabricTakes s = true → s.fab.role = 0 → s.fab.parent = l.val →
      let new := b.toNat + (s.link l.val).delay
      let d : Int := (new : Int) - s.fab.ftime
      ∃ t, exec (.beaconReceive l b) s = .next t ∧ t.fab.beaconLate = false ∧
        (1000 ≤ d.natAbs → t.fab.ftime = new ∧ t.fab.slewNs = 0) ∧ (d.natAbs < 1000 → t.fab.ftime = s.fab.ftime ∧ t.fab.slewNs = d) ∧
        t.fab.corrNs = max (-2147483648) (min 2147483647 d)) ∧
    (∀ (l : LinkId) (b : BitVec 64), fabricTakes s = true → (s.fab.role = 1 ∨ s.fab.parent ≠ l.val) → exec (.beaconReceive l b) s = .next s) ∧
    (∀ (l : LinkId) (b : BitVec 64), fabricTakes s = false → exec (.beaconReceive l b) s = .next { s with
      fab := { s.fab with arrDrops := min (s.fab.arrDrops + 1) 0xFFFFFFFF }, evr := (raise s 0x0A02 0x15 [0x3FF]).evr }) ∧
    (∀ l : LinkId, s.fab.role = 1 → s.fab.childs = 1#16 <<< l.val → linkUp (s.link l.val) = true → (s.link l.val).gate = 0#8 →
      (s.link l.val).peerXoff = 0#8 → (s.link l.val).replayBuf.length < 1024 → Idle s l.val none →
      ∃ t q, exec .beaconSend s = .next t ∧ route s (beaconPacket s l.val) = (q, some l.val) ∧ q.data = padTo 64 (leBytes 8 s.fab.ftime) ∧
        (t.link l.val).replayBuf = (s.link l.val).replayBuf ++ [frameOf (s.link l.val) q] ∧ OtherLinks s t l.val ∧ t.fab.ftime = s.fab.ftime) ∧
    (s.fab.role = 0 → exec .beaconSend s = .next s) ∧
    (s.fab.ftime < s.fab.lastBeacon + 10000000 → exec .beaconTimeout s = .next s) ∧
    (s.fab.role = 0 → s.fab.beaconLate = false → s.fab.lastBeacon + 10000000 ≤ s.fab.ftime → exec .beaconTimeout s =
      .next { s with fab := { s.fab with beaconLate := true }, evr := (raise s 0x0A0C 0x15 []).evr }) ∧
    (s.pwr.refState = 0 → exec .referenceLost s = .next { s with evr := (raise s 0x0E01 0x12 []).evr, pwr := { s.pwr with
      refState := 1, holdN := min (s.pwr.holdN + 1) 0xFFFFFFFF, holdAt := s.fab.ftime, holdLong := false } }) ∧
    (s.pwr.refState = 2 → exec .referenceLost s = .next s) ∧
    (s.fab.ftime < s.pwr.holdAt + 1000000000 → exec .holdoverLong s = .next s) ∧
    (s.pwr.refState = 1 → s.pwr.holdLong = false → s.pwr.holdAt + 1000000000 ≤ s.fab.ftime → exec .holdoverLong s =
      .next { s with pwr := { s.pwr with holdLong := true }, evr := (raise s 0x0E03 0x12 []).evr }) ∧
    (s.pwr.refState = 1 → ∃ t, exec .referenceRestored s = .next t ∧ t.pwr.refState = 0 ∧ t.pwr.holdMs = (s.fab.ftime - s.pwr.holdAt) / 1000000 ∧
      t = { s with pwr := t.pwr, evr := (raise s 0x0E02 0x12 []).evr }) ∧
    (s.pwr.refState = 2 → exec .referenceRestored s = .next { s with pwr := { s.pwr with refState := 0 } })

/-! ### Weight shards -/

/-- R262, R352, R354, R356, R357, R358: pieces are taken in by stream or whole, in free bed cycles, hashed, and become VALID exactly where they match their
digest. -/
def Obligations.PiecesAreVerified : Prop :=
  ∀ (s : State),
    (∀ (st : Fin 8), s.dev.busy = false → (s.dev.state = .ready ∨ s.dev.state = .running ∨ s.dev.state = .draining) → s.wts.refetch = [] →
      (∀ h i, CycleFree s (.intakeHeader st h) → (s.wts.streams.find? fun x => x.1 == st.val) = none → intakeOk h = true → byteAt h 9 = 0#8 → intakePiece s h = some i → i < 262144 →
        ∃ t, exec (.intakeHeader st h) s = .next t ∧ pieceState t i = .filling ∧ (∀ d, fget t.wts.streams d st.val = { piece := i, next := 0 }) ∧
          (∀ j, j ≠ i → pieceState t j = pieceState s j) ∧ t = { s with wts := { s.wts with pstate := t.wts.pstate, streams := t.wts.streams } }) ∧
      (∀ h, CycleFree s (.intakeHeader st h) → (s.wts.streams.find? fun x => x.1 == st.val) = none → intakeOk h = false → exec (.intakeHeader st h) s =
        .next { s with wts := { s.wts with dropped := min (s.wts.dropped + 1) 0xFFFFFFFF } }) ∧
      (∀ o bs, CycleFree s (.intakeData st o.next bs) → (s.wts.streams.find? fun x => x.1 == st.val) = some (st.val, o) → pieceOpen s o.piece = true → ∃ t,
        exec (.intakeData st o.next bs) s = .next t ∧ Wrote s.beds.mem t.beds.mem (65536 * o.piece + 64 * o.next) (padTo 64 bs) ∧
        (o.next + 1 = 1024 → o.piece ∈ t.wts.hashing ∧ (t.wts.streams.find? fun x => x.1 == st.val) = none) ∧
        (o.next + 1 ≠ 1024 → t.wts.hashing = s.wts.hashing ∧ ∀ d, fget t.wts.streams d st.val = { piece := o.piece, next := o.next + 1 }) ∧
        t.wts.pstate = s.wts.pstate ∧ t.wts.dropped = s.wts.dropped) ∧
      (∀ o tag bs, CycleFree s (.intakeData st tag bs) → (s.wts.streams.find? fun x => x.1 == st.val) = some (st.val, o) → tag ≠ o.next → ∃ t, exec (.intakeData st tag bs) s = .next t ∧
        pieceState t o.piece = .bad ∧ t.wts.dropped = min (s.wts.dropped + 1) 0xFFFFFFFF ∧ t.beds = s.beds)) ∧
    (msgServed s = true →
      (∀ d i, CycleFree s (.tribPieceWrite d) → intakeOk (d.take 16) = true → byteAt d 9 = 0#8 → d.length = 16 + 65536 → intakePiece s (d.take 16) = some i → s.wts.relay.getLsbD 15 = false →
        ∃ t, exec (.tribPieceWrite d) s = .next t ∧ Wrote s.beds.mem t.beds.mem (65536 * i) (d.drop 16) ∧ pieceState t i = .filling ∧ i ∈ t.wts.hashing) ∧
      (∀ d, CycleFree s (.tribPieceWrite d) → d.length ≠ 16 + 65536 → exec (.tribPieceWrite d) s =
        .next { s with wts := { s.wts with dropped := min (s.wts.dropped + 1) 0xFFFFFFFF } })) ∧
    (∀ i, s.wts.hashing.contains i = true →
      (pieceMatches s i = true → ∃ t, exec (.pieceHashComplete i) s = .next t ∧ pieceState t i = .valid ∧ i ∉ t.wts.hashing ∧ t.evr = s.evr) ∧
      (pieceMatches s i = false → ∃ t, exec (.pieceHashComplete i) s = .next t ∧ pieceState t i = .bad ∧ i ∉ t.wts.hashing ∧
        t.wts.arrFail = min (s.wts.arrFail + 1) 0xFFFFFFFF ∧ t.evr = (raise s 0x0B01 0x10 [i]).evr)) ∧
    (∀ i, s.wts.hashing.contains i = false → pieceState s i = .absent →
      (pieceMatches s i = true → ∃ t, exec (.pieceHashComplete i) s = .next t ∧ pieceState t i = .valid ∧ ∀ j, j ≠ i → pieceState t j = pieceState s j) ∧
      (pieceMatches s i = false → exec (.pieceHashComplete i) s = .next s))

/-- R262, R361, R362, R363, R364, R365, R366, R367: missing pieces are asked of a source, requests are answered or dropped, a rescan finds the pieces that
have changed, and the packets of a refetch fill its buffer: a whole piece that matches gives the lost line, anything else the next source. -/
def Obligations.PiecesAreSourcedAndRescanned : Prop :=
  ∀ (s : State),
    (∀ k m i r, s.dev.state = .ready → s.wts.lastArrive + 1000000 * s.wts.quietMs ≤ s.fab.ftime → validSources s = [k] → s.wts.refetch = [] → s.wts.man = some m → fget s.wts.asked [] k = [] → fget s.wts.nak [] k = [] →
      missingPieces s = i :: r → ∃ t, exec .sourceRequest s = .next t ∧
        fget t.wts.asked [] k = (pieceRun (i :: r) i 1024).filter (fun j => (pieceName s j).1 == (pieceName s i).1) ∧
        t.wts.pstate = s.wts.pstate ∧ t.wts.reqs = s.wts.reqs) ∧
    (s.dev.state = .standby → s.wts.swState ≠ .filling → exec .sourceRequest s = .next s) ∧
    (∀ (st : Fin 8) (r : Refetch), s.dev.busy = false → (s.dev.state = .ready ∨ s.dev.state = .running ∨ s.dev.state = .draining) → s.wts.refetch = [r] →
      validSources s = [r.src] → (sourceOf s r.src).2.2.1 = st.val → s.wts.man ≠ none →
      let given := fun (t : State) => t.wts.refetch = [] ∧ t.evr = (raise s 0x0B02 0x10 [linePiece r.line]).evr ∧ t.beds = s.beds
      (∀ h, refetchTakes s st.val true h = true → (s.wts.streams.find? fun x => x.1 == st.val) = none →
        (byteAt h 9 = 0#8 → exec (.intakeHeader st h) s = .next { s with wts := { s.wts with refetch := [{ r with next := some 0, buf := [] }] } }) ∧
        (byteAt h 9 = 1#8 → ∃ t, exec (.intakeHeader st h) s = .next t ∧ given t)) ∧
      (∀ n tag bs, r.next = some n →
        let buf := r.buf ++ padTo 64 bs
        (tag = n → n + 1 < 1024 →
          exec (.intakeData st tag bs) s = .next { s with wts := { s.wts with refetch := [{ r with next := some (n + 1), buf := buf }] } }) ∧
        (tag ≠ n → ∃ t, exec (.intakeData st tag bs) s = .next t ∧ given t) ∧
        (tag = n → n = 1023 → pieceState s (linePiece r.line) = .valid →
          (refetchOk s r.line buf = false → ∃ t, exec (.intakeData st tag bs) s = .next t ∧ given t) ∧
          (refetchOk s r.line buf = true → ∃ t, exec (.intakeData st tag bs) s = .next t ∧ t.wts.refetch = [] ∧ t.wts.pstate = s.wts.pstate ∧
            Wrote s.beds.mem t.beds.mem (1024 * r.line) ((buf.drop (1024 * r.line % 65536)).take 1024) ∧ t.wts.lastArrive = s.fab.ftime ∧
            t.evr = (raise s 0x0808 (0x20 + (rowOf s r.line).1) [2, (rowOf s r.line).1, 1024 * r.line]).evr)))) ∧
    (s.fab.ftime < s.wts.lastArrive + 1000000 * s.wts.quietMs → exec .sourceRequest s = .next s) ∧
    (∀ (d : List Byte) (q : Packet) (l : Nat), s.dev.busy = false → (s.dev.state = .ready ∨ s.dev.state = .running ∨ s.dev.state = .draining) →
      s.wts.reqs = [] → s.wts.man = none → fieldAt d 14 2 = 1 →
      let e := pathAt (pathBank s) (fieldAt d 10 2 % 4096)
      let queue := fieldAt d 12 2 % 1024
      pathValid e = true → (routeStep (fun _ => false) { head := headOf e 2 0 0 false queue 0, data := [] }).2 = some l → Idle s l none →
      route s { head := headOf e 2 0 0 false queue 2047, data := padTo 64 (leBytes 8 (fieldAt d 0 8) ++ leBytes 1 (byteAt d 8).toNat ++
        leBytes 1 1 ++ [0#8, 0#8] ++ leBytes 4 (fieldAt d 16 4)) } = (q, some l) →
      hopBad s l (hTc q) = false → canSend (s.link l) q = true → ∃ t, exec (.pieceRequest d) s = .next t ∧ t.wts = s.wts ∧
        (t.link l).replayBuf = (s.link l).replayBuf ++ [frameOf (s.link l) q] ∧ OtherLinks s t l) ∧
    (∀ d, 16 ≤ s.wts.reqs.length → exec (.pieceRequest d) s = .next s) ∧
    (∀ i, CycleFree s (.rescanPiece i) → rescanNext s ≠ some i → exec (.rescanPiece i) s = .next s) ∧
    (∀ i, rescanNext s = some i → i ∈ listedPieces s ∧ pieceState s i = .valid ∧
      ∀ j ∈ listedPieces s, pieceState s j = .valid → s.wts.rescanAt ≤ j → s.wts.rescanAt ≤ i ∧ i ≤ j) ∧
    (∀ i, CycleFree s (.rescanPiece i) → s.wts.rescanSec ≠ 0 → rescanNext s = some i → ∃ t, exec (.rescanPiece i) s = .next t ∧
      (pieceMatches s i = true → t.wts.pstate = s.wts.pstate ∧ t.wts.rescanFail = s.wts.rescanFail ∧ t.evr = s.evr) ∧
      (pieceMatches s i = false → pieceState t i = .bad ∧ t.wts.rescanFail = min (s.wts.rescanFail + 1) 0xFFFFFFFF ∧
        t.evr = (raise s 0x0B03 0x10 [i]).evr ∧ (s.wts.rescanHalt = true → s.sch.job = true → s.sch.haltReq = none → t.sch.haltReq = some 0x0B03))) ∧
    (s.wts.rescanSec ≠ 0 → s.wts.rescanLate = false → 1000000000 * s.wts.rescanSec < s.fab.ftime - s.wts.rescanSince → (∃ i ∈ listedPieces s, pieceState s i = .valid) → exec .rescanOverrun s =
      .next { s with wts := { s.wts with rescanLate := true }, evr := (raise s 0x0B04 0x10 [s.wts.rescanAt]).evr })

/-- R369, R370, R371, R372, R373, R374: a swap image is written and staged in RUNNING, armed by its release step, cancelled before it fills, reported when
it fills too long, and opens admission again at the expected number of notices. -/
def Obligations.SwapsProceed : Prop :=
  ∀ (p : Path) (s : State),
    (∀ (off : BitVec 32) (bs : List Byte), Takes s p 0x307001 → s.dev.state = .running → ∃ t, exec (.swapImageWrite p off bs) s = .next t ∧
      Granted t p 0x307001 ∧ Wrote s.wts.swImg t.wts.swImg off.toNat bs ∧
      t = { s with wts := { s.wts with swImg := t.wts.swImg, swLen := t.wts.swLen }, mgm := { s.mgm with resp := t.mgm.resp } }) ∧
    (Takes s p 0x307100 → s.dev.state = .running → (s.wts.swState = .idle ∨ s.wts.swState = .done) →
      let m := imgView s.wts.swImg
      let r := acceptCheck s m s.wts.swLen true
      ∃ t, exec (.swapStage p) s = .next t ∧ Granted t p 0x307100 ∧ t.wts.swRes = r ∧
        (r = 0 → t.wts.swState = .staged ∧ t.wts.swMan = some (imgKeep s m) ∧ t.wts.swNotes = 0 ∧
          (∀ c, c ∈ imgCores m → (t.core c).inact = .valid ∧ (t.core c).actBank = (s.core c).actBank)) ∧
        (r ≠ 0 → t.wts.swState = s.wts.swState ∧ t.cores = s.cores ∧ t.evr = (raise s 0x0203 0x10 [r, s.sch.stepNo]).evr)) ∧
    (Takes s p 0x307100 → (s.wts.swState = .staged ∨ s.wts.swState = .armed) → ∃ t, exec (.swapCancel p) s = .next t ∧ Granted t p 0x307100 ∧
      t.wts.swState = .idle ∧ t.wts.swMan = none ∧ ∀ im, s.wts.swMan = some im → ∀ c, c ∈ im.cores → (t.core c).inact = .empty) ∧
    (Takes s p 0x307100 → s.wts.swState ∉ [.staged, .armed] → ∃ t, exec (.swapCancel p) s = .next t ∧ Denied t p 0x307100 0x08000020 ∧ t.wts = s.wts) ∧
    (∀ v : BitVec 64, Takes s p 0x307003 →
      (s.sch.stepNo + 2 < v.toNat → ∃ t, exec (.releaseStepWrite p v) s = .next t ∧ Granted t p 0x307003 ∧
        t = { s with wts := { s.wts with swRel := v.toNat, swState := if s.wts.swState = .staged then .armed else s.wts.swState }
                     mgm := { s.mgm with resp := t.mgm.resp } }) ∧
      (v.toNat ≤ s.sch.stepNo + 2 → ∃ t, exec (.releaseStepWrite p v) s = .next t ∧ Denied t p 0x307003 0x08000026 ∧ t.wts = s.wts)) ∧
    (s.fab.ftime < s.wts.swFillAt + 1000000 * s.wts.swLimMs → exec .swapFillLimit s = .next s) ∧
    (s.wts.swState = .filling → s.wts.swLate = false → s.wts.swFillAt + 1000000 * s.wts.swLimMs ≤ s.fab.ftime → exec .swapFillLimit s =
      .next { s with wts := { s.wts with swLate := true }, evr := (raise s 0x0B07 0x10 [s.sch.stepNo]).evr }) ∧
    (entryRole s = true → ∃ t, exec .swapReadyNotice s = .next t ∧ t.wts.swNotes = s.wts.swNotes + 1 ∧
      t.wts.swOpen = (s.wts.swOpen || s.wts.swNotes + 1 == s.wts.swExp) ∧ t = { s with wts := t.wts, evr := t.evr }) ∧
    (entryRole s = false → exec .swapReadyNotice s = .next s)

/-! ### Serving -/

/-- R383, R390, R393, R396, R404, R406, R411: a request is stored, with its interrupt source pending, or refused with its status, a waiting one is withdrawn and a running one ended by
`END`, and a slot parked for the park limit is ended. -/
def Obligations.RequestsServed : Prop :=
  ∀ (s : State), msgServed s = true →
    (∀ m : List Byte, fieldAt m 0 2 = 0x101 →
      (reqRefusal s m (reqOf s m) = none → ∃ t, exec (.servingRequest m) s = .next t ∧
        (t.isrc 22).pending = true ∧ (∀ j, j ≠ 22 → t.isrc j = s.isrc j) ∧
        t = { s with srv := { s.srv with reqN := min (s.srv.reqN + 1) 0xFFFFFFFF, store := s.srv.store ++ [reqOf s m] }
                     mgm := { s.mgm with src := t.mgm.src, harts := t.mgm.harts } }) ∧
      (∀ st, reqRefusal s m (reqOf s m) = some st → ∃ t, exec (.servingRequest m) s = .next t ∧ t.srv.store = s.srv.store ∧
        t.srv.reqN = min (s.srv.reqN + 1) 0xFFFFFFFF ∧ t.srv.refN = min (s.srv.refN + 1) 0xFFFFFFFF ∧
        t.srv.out = s.srv.out ++ [padTo 64 (leBytes 2 0x202 ++ leBytes 2 0 ++ leBytes 4 (fieldAt m 4 4) ++ leBytes 1 st)] ∧
        t.evr = (raise s 0x0C01 0x11 [fieldAt m 4 4, st, s.sch.stepNo]).evr)) ∧
    (∀ m : List Byte, entryRole s = false → fieldAt m 0 2 = 0x101 → reqRefusal s m (reqOf s m) = some 0x46) ∧
    (∀ m : List Byte, entryRole s = true → fieldAt m 0 2 = 0x102 →
      (∀ r q, s.srv.store = r :: q → r.reqid = fieldAt m 4 4 → exec (.endRequest m) s = .next { s with srv := { s.srv with store := q } }) ∧
      (s.srv.store = [] → (byteAt m 8).toNat < 128 → slotLive (s.slot (byteAt m 8).toNat) = true →
        (s.slot (byteAt m 8).toNat).start % 4294967296 = fieldAt m 12 4 → changeAhead s (byteAt m 8).toNat [3] = false →
        (byteAt m 16).toNat ∈ [2, 4, 5, 6, 7] → exec (.endRequest m) s = .next { s with srv := { s.srv with
          changes := s.srv.changes ++ [leBytes 1 3 ++ leBytes 1 (byteAt m 8).toNat ++ leBytes 2 (byteAt m 16).toNat ++ leBytes 4 0] } })) ∧
    (∀ i : SlotId, entryRole s = true → (s.slot i.val).state = .parked → fget s.srv.parkAt 0 i.val + 1000000 * conf s 10 ≤ s.fab.ftime →
      changeAhead s i.val [3] = false → exec (.parkLimit i) s = .next { s with
        srv := { s.srv with changes := s.srv.changes ++ [leBytes 1 3 ++ leBytes 1 i.val ++ leBytes 2 3 ++ leBytes 4 0] }
        evr := (raise s 0x0C03 0x11 [i.val, (s.slot i.val).tenant, s.sch.stepNo]).evr }) ∧
    (∀ i : SlotId, (s.slot i.val).state ≠ .parked → exec (.parkLimit i) s = .next s)

/-- R405, R408, R410, R432: budgets are added to, the cut step is set at least 3 steps ahead, and an adapter is allocated, filled, verified, published
and withdrawn. -/
def Obligations.BudgetsCutsAndAdapters : Prop :=
  ∀ (p : Path) (s : State),
    (∀ v : BitVec 64, Takes s p 0x521003 → ∃ t, exec (.budgetAdd p v) s = .next t ∧ Granted t p 0x521003 ∧
      (∀ k, budget t k = budget s k + if k = s.srv.tenSel then v.toInt else 0) ∧ t.srv.committed = s.srv.committed ∧
      t = { s with srv := { s.srv with budgets := t.srv.budgets, changes := t.srv.changes }, mgm := { s.mgm with resp := t.mgm.resp } }) ∧
    (∀ v : BitVec 64, Takes s p 0x502001 → entryRole s = true →
      ((v.toNat = 0 ∨ s.sch.stepNo + 3 ≤ v.toNat) → ∃ t, exec (.cutStepWrite p v) s = .next t ∧ Granted t p 0x502001 ∧
        t = { s with srv := { s.srv with cut := v.toNat }, mgm := { s.mgm with resp := t.mgm.resp } }) ∧
      (v.toNat ≠ 0 → v.toNat < s.sch.stepNo + 3 → ∃ t, exec (.cutStepWrite p v) s = .next t ∧ Denied t p 0x502001 0x08000026 ∧ t.srv = s.srv)) ∧
    (∀ i ∈ [(.cutStepWrite p 0, 0x502001), (.adapterAlloc p 0, 0x532001), (.adapterPublish p 0, 0x532004), (.adapterWithdraw p 0, 0x532005)],
      Takes s p i.2 → entryRole s = false → ∃ t, exec i.1 s = .next t ∧ Denied t p i.2 0x08000023 ∧ t.srv = s.srv) ∧
    (∀ id : BitVec 32, Takes s p 0x532001 → entryRole s = true →
      (∀ a, s.srv.adWait = [] → adFree s = some a → ∃ t, exec (.adapterAlloc p id) s = .next t ∧ Granted t p 0x532001 ∧
        let g := (fget s.srv.adGen 0 id.toNat + 1) % 256
        fget t.srv.adGen 0 id.toNat = g ∧ t.srv.changes = s.srv.changes ++ [leBytes 1 4 ++ leBytes 1 g ++ leBytes 2 a ++ leBytes 4 id.toNat] ∧
        t = { s with srv := { s.srv with adGen := t.srv.adGen, changes := t.srv.changes }, mgm := { s.mgm with resp := t.mgm.resp } }) ∧
      (adFree s = none → ∃ t, exec (.adapterAlloc p id) s = .next t ∧ Granted t p 0x532001 ∧
        t.srv = { s.srv with adWait := s.srv.adWait ++ [id.toNat] } ∧ t.evr = (raise s 0x0C04 0x11 [id.toNat, s.sch.stepNo]).evr)) ∧
    (∀ (off : BitVec 32) (bs : List Byte) (b : Nat), Takes s p 0x531006 → (s.adap s.srv.adSel).state = .filling → adBase s s.srv.adSel = some b →
      off.toNat + bs.length ≤ s.srv.adStride * 1024 → ∃ t, exec (.adapterDataWrite p off bs) s = .next t ∧ Granted t p 0x531006 ∧
        Wrote s.beds.mem t.beds.mem (b + off.toNat) bs ∧ t.srv = s.srv) ∧
    (∀ dg : List Byte, Takes s p 0x531007 → dg.length = 32 → (s.adap s.srv.adSel).state = .filling → ∃ t, exec (.adapterDigestWrite p dg) s = .next t ∧
      Granted t p 0x531007 ∧ t.adap s.srv.adSel = { s.adap s.srv.adSel with dig := some dg } ∧ t.beds = s.beds) ∧
    (∀ (a : Fin 1024) (dg : List Byte), (s.adap a.val).dig = some dg → (s.adap a.val).state = .filling →
      (s.dev.busy && (s.beds.flush == 1 || s.beds.flush == 2)) = false → ∃ t, exec (.adapterVerified a) s = .next t ∧
      (t.adap a.val).state = (if sha3 (adData s a.val) = dg then .verified else .filling) ∧ (t.adap a.val).dig = none ∧
      (∀ h, h ≠ a.val → t.adap h = s.adap h) ∧ t = { s with srv := { s.srv with adapters := t.srv.adapters } }) ∧
    (∀ v : BitVec 16, entryRole s = true → v.toNat < 1024 →
      (Takes s p 0x532004 → (s.adap v.toNat).state = .verified → ∃ t, exec (.adapterPublish p v) s = .next t ∧ Granted t p 0x532004 ∧
        t = { s with srv := { s.srv with changes := s.srv.changes ++ [leBytes 2 5 ++ leBytes 2 v.toNat ++ leBytes 4 0] }
                     mgm := { s.mgm with resp := t.mgm.resp } }) ∧
      (Takes s p 0x532004 → (s.adap v.toNat).state ≠ .verified → ∃ t, exec (.adapterPublish p v) s = .next t ∧ Denied t p 0x532004 0x08000025 ∧
        t.srv = s.srv) ∧
      (Takes s p 0x532005 → (s.adap v.toNat).state = .ready → ∃ t, exec (.adapterWithdraw p v) s = .next t ∧ Granted t p 0x532005 ∧
        t = { s with srv := { s.srv with changes := s.srv.changes ++ [leBytes 2 6 ++ leBytes 2 v.toNat ++ leBytes 4 0] }
                     mgm := { s.mgm with resp := t.mgm.resp } }))

/-! ### Reset, boot and firmware -/

/-- What reset leaves, as the spec states it: the device in OFF, the counters, flags, masks and configuration objects at their stated values. -/
def Obligations.ResetValues : Prop :=
  let s := State.reset
  s.dev.state = .off ∧ s.pins.resetN = false ∧ s.pins.pwrgood = false ∧
  (s.sch.sCycle, s.sch.wCycle, s.sch.eddyW, s.sch.stepNo) = (0, 0, 0, 0) ∧ s.sch.eddyLimit = 100 ∧ s.sch.oxLimit = 4096 ∧
  (∀ c, (s.core c).numctl = 0#32 ∧ (s.core c).flags = [] ∧ (s.core c).segMask = 0xFF#8 ∧ (s.core c).vl = 0) ∧
  (∀ i, (s.slot i).state = .free) ∧ (∀ l, (s.link l).state = .off ∧ (s.link l).enable = false) ∧ (∀ i, pieceState s i = .none) ∧
  (∀ i, fget s.tru.mr (List.replicate 64 0#8) i = List.replicate 64 0#8) ∧ s.tru.logSeq = 0 ∧ s.mgm.owner = 0 ∧ s.evr.next = 0 ∧
  s.pwr.refState = 2 ∧ s.pwr.target = 1500 ∧ s.pwr.sust = 1300 ∧ s.pwr.warnW = 900 ∧ s.pwr.cap = 500000 ∧ s.pwr.crit = 110 ∧
  (s.sch.sndThin, s.sch.sndRows, s.sch.sndWin) = (16, 8, 256) ∧ s.beds.scrubHours = 24 ∧ s.wts.rescanSec = 600 ∧ s.pending = []

/-- R417, R418, R508, R509, R560, R563: release of reset takes the main die from OFF to BOOT with the ROM and the identity measured and leaves the Gauge
alone, RESET_N or PWRGOOD low takes it to OFF, the last phase of boot leads to STANDBY with a full ledger, and a long wait is reported once.
In BOOT the firmware and the configuration are written, started and applied, which zeroes the beds and the on-die memories, and one that fails its
check is refused (R419, R497). -/
def Obligations.ResetAndBoot : Prop :=
  ∀ (s : State),
    (∀ seg : Fin 8, s.dev.state = .off → ∃ t, exec (.releaseOfReset seg) s = .next t ∧ t.dev.state = .boot ∧ t.dev.phase = 2 ∧
      t.pins = { s.pins with resetN := true, pwrgood := true, segaddr := seg.val, tempCrit := false } ∧ t.mgm.node = 2 * seg.val + 1 ∧
      t.mgm.gaugeNode = 2 * seg.val + 2 ∧ t.mgm.mac = 2#8 :: (idDigest t).take 5 ∧
      t.tru.logSeq = 2 ∧ t.tru.mr = logReplay t.tru.log ∧ (t.tru.log.map fun e => (e.typ, e.mr, e.seq)) = [(0x01, 0, 0), (0x02, 0, 1)] ∧
      t.gau = { s.gau with mirror := [], mirrorAt := 0, mirrorLate := false } ∧ t.dev.b0 = s.dev.b0 ∧ t.cores = [] ∧ t.sch = State.reset.sch) ∧
    (∀ seg : Fin 8, s.dev.state ≠ .off → exec (.releaseOfReset seg) s = .next s) ∧
    (∀ a b : Bool, (a && b) = false → ∃ t, exec (.resetAssert a b) s = .next t ∧ t.dev.state = .off ∧
      t.pins = { s.pins with resetN := a, pwrgood := b, tempCrit := false } ∧ t = { s with pins := t.pins, dev := { s.dev with state := .off } }) ∧
    (exec (.resetAssert true true) s = .next s) ∧
    (s.dev.state = .boot → s.dev.phase = 4 → s.dev.busy = false → ∃ t, exec .bootComplete s = .next t ∧ t.dev.state = entered s .standby ∧
      t.dev.phase = 5 ∧ t.pwr.credit = s.pwr.cap ∧ t.pwr.crossBad = 0#4 ∧ t.pwr.calOk = true) ∧
    (s.dev.state = .boot → (s.dev.phase = 2 ∨ s.dev.phase = 3) → s.dev.bootLate = false → 60000000000 ≤ s.fab.ftime → exec .bootWaitTimeout s =
      .next { s with dev := { s.dev with bootLate := true }, evr := (raise s 0x0D05 0x10 [s.dev.phase]).evr }) ∧
    (∀ p : Path, s.dev.state = .boot →
      (∀ (off : BitVec 32) (bs : List Byte), Takes s p 0x182000 → off.toNat + bs.length ≤ 2097152 → ∃ t, exec (.firmwareWrite p off bs) s = .next t ∧
        Granted t p 0x182000 ∧ Wrote (fget s.dev.fw [] 0) (fget t.dev.fw [] 0) off.toNat bs ∧ fget t.dev.fw [] 1 = fget s.dev.fw [] 1 ∧
        t = { s with dev := { s.dev with fw := t.dev.fw, fwLen := t.dev.fwLen }, mgm := { s.mgm with resp := t.mgm.resp } }) ∧
      (Takes s p 0x182100 → s.dev.phase = 2 →
        (Config.firmwareOk (fwBytes s 0) = true → ∃ t, exec (.firmwareStart p) s = .next t ∧ Granted t p 0x182100 ∧ t.dev.phase = 3 ∧ t.dev.fwRun = 0 ∧
          t.tru.logSeq = s.tru.logSeq + 1 ∧ (t.tru.log.getLast?.map fun e => (e.typ, e.mr)) = some (0x10, 1) ∧ t.tru.signers = firmwareKeys (fwBytes s 0)) ∧
        (Config.firmwareOk (fwBytes s 0) = false → ∃ t, exec (.firmwareStart p) s = .next t ∧ Denied t p 0x182100 0x08000025 ∧ t.dev = s.dev ∧
          t.tru = s.tru)) ∧
      (∀ (off : BitVec 32) (bs : List Byte), Takes s p 0x183000 → ∃ t, exec (.configWrite p off bs) s = .next t ∧ Granted t p 0x183000 ∧
        Wrote s.dev.cfg t.dev.cfg off.toNat bs ∧
        t = { s with dev := { s.dev with cfg := t.dev.cfg, cfgW := t.dev.cfgW }, mgm := { s.mgm with resp := t.mgm.resp } }) ∧
      (Takes s p 0x183100 → s.dev.phase = 3 →
        (cfgOk s = true → ∃ t, exec (.configApply p) s = .next t ∧ Granted t p 0x183100 ∧ t.dev.phase = 4 ∧ t.beds.mem = [] ∧
          (∀ c, (t.core c).spad = []) ∧ (∀ cl, (t.pool cl).mem = []) ∧ t.tru.logSeq = s.tru.logSeq + 1 ∧
          (t.tru.log.getLast?.map fun e => (e.typ, e.mr)) = some (0x20, 2)) ∧
        (cfgOk s = false → ∃ t, exec (.configApply p) s = .next t ∧ Denied t p 0x183100 0x08000025 ∧ t.dev = s.dev ∧ t.tru = s.tru)))

/-- R501: the states of a firmware update: written into the bank that does not run, checked, switched to for a trial, confirmed or cancelled. -/
def Obligations.FirmwareUpdates : Prop :=
  ∀ (p : Path) (s : State), s.dev.state ≠ .boot →
    let b := otherBank s
    (∀ (off : BitVec 32) (bs : List Byte), Takes s p 0x182300 → (s.mgm.upd = .idle ∨ s.mgm.upd = .filling) → off.toNat + bs.length ≤ 2097152 →
      ∃ t, exec (.fwUpdateWrite p off bs) s = .next t ∧ Granted t p 0x182300 ∧ t.mgm.upd = .filling ∧
        Wrote (if s.mgm.upd = .idle then [] else fget s.dev.fw [] b) (fget t.dev.fw [] b) off.toNat bs ∧
        ∀ k, k ≠ b → fget t.dev.fw [] k = fget s.dev.fw [] k) ∧
    (Takes s p 0x182400 → (s.mgm.upd = .filling ∨ s.mgm.upd = .checked) → ∃ t, exec (.fwUpdateCancel p) s = .next t ∧ Granted t p 0x182400 ∧
      t.mgm.upd = .idle ∧ fget t.dev.fw [] b = [] ∧ ∀ k, k ≠ b → fget t.dev.fw [] k = fget s.dev.fw [] k) ∧
    (Takes s p 0x182400 → s.mgm.upd = .filling →
      (updOk s = true → ∃ t, exec (.fwUpdateCheck p) s = .next t ∧ Granted t p 0x182400 ∧ t.mgm.upd = .checked ∧
        (t.tru.log.getLast?.map fun e => (e.typ, e.mr, e.digest)) = some (0x11, 1, padTo 64 (shake64 (fwBytes s b)))) ∧
      (updOk s = false → ∃ t, exec (.fwUpdateCheck p) s = .next t ∧ Denied t p 0x182400 0x08000025 ∧ t.mgm.upd = .filling ∧ t.tru = s.tru)) ∧
    (Takes s p 0x182400 → s.mgm.upd = .checked → ∃ t, exec (.fwUpdateSwitch p) s = .next t ∧ Granted t p 0x182400 ∧ t.mgm.upd = .trial ∧
      t.mgm.updAt = s.fab.ftime ∧ t.dev = s.dev ∧ (∀ h, h < 4 → (s.hart h).role = 4 → (t.hart h).role = 4) ∧
      ((s.hart 0).role = 0 → (s.hart 1).role = 1 → (s.hart 2).role = 3 → (s.hart 3).role = 3 → (t.hart 0).role = 3 ∧ (t.hart 1).role = 3 ∧
        ((t.hart 2).role, (t.hart 2).bankRun) = (0, b) ∧ ((t.hart 3).role, (t.hart 3).bankRun) = (1, b)) ∧
      ((∀ h, h < 4 → (s.hart h).role ≠ 3) → ∀ h, h < 4 → (t.hart h).role = (s.hart h).role ∧ ((s.hart h).role < 3 → (t.hart h).bankRun = b)) ∧
      t.evr = (raise s 0x0F09 0x10 [b]).evr) ∧
    (Takes s p 0x182400 → s.mgm.upd = .trial → ∃ t, exec (.fwUpdateConfirm p) s = .next t ∧ Granted t p 0x182400 ∧ t.mgm.upd = .idle ∧ t.dev.fwRun = b) ∧
    (s.mgm.upd = .trial → s.mgm.updAt + 60000000000 ≤ s.fab.ftime → ∃ t, exec .fwTrialTimeout s = .next t ∧ t.dev = { s.dev with fwRun := b } ∧
      t = { s with dev := t.dev, mgm := { s.mgm with upd := .idle, harts := t.mgm.harts } } ∧ ∀ h, h < 4 → (t.hart h).role = (s.hart h).role ∧
        (t.hart h).bankRun = if (s.hart h).role = 3 then b else (s.hart h).bankRun) ∧
    (s.fab.ftime < s.mgm.updAt + 60000000000 → exec .fwTrialTimeout s = .next s) ∧
    (s.mgm.upd ≠ .trial → exec .fwTrialTimeout s = .next s)

/-! ### The dictionary and interrupts -/

/-- R423, R428, R430: a write of an object is checked for its owner, then the device state, then its own conditions; a refusal leaves everything but
the answer, the counters of refusals and the event unchanged. -/
def Obligations.RefusalsInOrder : Prop :=
  ∀ (p : Path) (s : State) (off : BitVec 32) (bs : List Byte) (i : Instr) (obj : Nat) (ok : Bool) (ab : Nat), served s p = true →
    (i, obj, ok, ab) ∈ [(.pathBankWrite p off bs, 0x402000, pathState s, if off.toNat + bs.length ≤ 65536 then 0 else 0x06070012),
      (.firmwareWrite p off bs, 0x182000, s.dev.state == .boot, if off.toNat + bs.length ≤ 2097152 then 0 else 0x06070012),
      (.run p, 0x180002, !s.dev.busy && (s.dev.state == .ready || s.dev.state == .draining), if s.dev.state = .ready then
        (if allValid s then (if s.inp.replayOn ≠ 1 ∨ replayOk s = true then 0 else 0x08000021) else 0x08000028) else 0),
      (.cutStepWrite p 5, 0x502001, true, if entryRole s then (if s.sch.stepNo + 3 ≤ 5 then 0 else 0x08000026) else 0x08000023)] →
    ∃ t, exec i s = .next t ∧
      let a := if ownerOk s p = false then 0x06010003 else if (stateServes s obj && ok) = false then 0x08000020 else ab
      (a = 0 → Granted t p obj) ∧
      (a ≠ 0 → Denied t p obj a ∧ t = { s with evr := (raise s 0x0D02 0x10 [obj, a]).evr, mgm := { s.mgm with
        resp := t.mgm.resp, refusals := min (s.mgm.refusals + 1) 0xFFFFFFFF, lastAbort := a, lastRef := obj } })

/-- R425, R427, R429, R430: a request on a path that is served is checked in the order of R430 and answered; while its hart is in debug mode or others
wait before it, it waits, one of at most 16, and one beyond these is answered with `BUSY`; on a path that is not up it does nothing.
A read answers the object's whole value or the bytes asked for, a description its type, and neither changes anything but the answers; a write of an
object stores its value, clamped to its range, or has the effect of the object's own command; a refusal leaves everything but the answer, the counters of
refusals and the event unchanged. -/
def Obligations.DictionaryRequests : Prop :=
  ∀ (p : Path) (h : Pdu) (s : State),
    let i := h.index.toNat
    let sub := h.sub.toNat
    let off := h.offset.toNat
    let len := h.length.toNat
    let obj := i * 256 + sub
    let answer := fun (t : State) (typ ab : Nat) (data : List Byte) => t.mgm.resp.getLast? = some
      { path := p, typ := typ, txn := h.txn.toNat, index := i, sub := sub, abort := ab, data := data }
    let refused := fun (t : State) (ab : Nat) => answer t ((h.typ.toNat + 0x80) % 65536) ab [] ∧
      t = { s with evr := (raise s 0x0D02 0x10 [obj, ab]).evr, mgm := { s.mgm with
        resp := t.mgm.resp, refusals := min (s.mgm.refusals + 1) 0xFFFFFFFF, lastAbort := ab, lastRef := obj } }
    let found := fun (typ : Nat) (lenOk : Bool) (ab : Nat) =>
      if ¬(h.typ.toNat = typ ∧ h.rsvd = 0 ∧ lenOk = true ∧ len ≤ pduMax p) then ab = 0x05030001
      else if idxExists i = false then ab = 0x06020000
      else if objRow i sub = none then ab = 0x06090011 else ab = 0
    (pathUp s p = false → exec (.odRead p h) s = .next s ∧ exec (.odDescribe p h) s = .next s ∧ ∀ bs, exec (.odWrite p h bs) s = .next s) ∧
    (pathUp s p = true → served s p = false → ∀ bs,
      ((waitsOn s p).length < 16 → ∀ q ∈ [.odRead p h, .odDescribe p h, .odWrite p h bs, .run p, .swapImageWrite p h.offset bs, .debugHalt p, .quoteRequest p bs],
        ∃ t, exec q s = .next t ∧ waitsOn t p = waitsOn s p ++ [q] ∧ (∀ p', p' ≠ p → waitsOn t p' = waitsOn s p') ∧
          (t.isrc (if p = .tributary then 20 else 21)).pending = true ∧
          t = { s with mgm := { s.mgm with waitReq := t.mgm.waitReq, src := t.mgm.src, harts := t.mgm.harts } }) ∧
      (16 ≤ (waitsOn s p).length → (∀ q ∈ [.odRead p h, .odDescribe p h, .odWrite p h bs], ∃ t, exec q s = .next t ∧ refused t 0x05040001) ∧
        ∃ t, exec (.run p) s = .next t ∧ Denied t p 0x180002 0x05040001 ∧ t.dev = s.dev ∧ t.mgm.waitReq = s.mgm.waitReq)) ∧
    (served s p = true →
      (∀ ab, found 0x301 true ab → ab ≠ 0 → ∃ t, exec (.odRead p h) s = .next t ∧ refused t ab) ∧
      (∀ r, found 0x301 true 0 → objRow i sub = some r →
        let ab := if r.acc = .wo then 0x06010001 else if readState s i = false then 0x08000020 else if r.typ ≠ .domain ∧ off ≠ 0 then 0x06070010
          else if r.typ = .domain ∧ objSize s r sub < off + len then 0x06070012
          else if i = 0xA010 ∧ sub = 2 ∧ targetOk s.dbg.target.toNat = false then 0x08000021 else if readAvail s i sub = false then 0x08000023 else 0
        ∃ t, exec (.odRead p h) s = .next t ∧ (ab ≠ 0 → refused t ab) ∧
          (ab = 0 → t = { s with mgm := { s.mgm with resp := t.mgm.resp } } ∧
            (r.typ ≠ .domain → answer t 0x381 0 (leBytes (typSize r.typ) (objGet s i sub))) ∧
            (r.typ = .domain → answer t 0x381 0 (domGet s i sub off (if len = 0 then min (pduMax p) (objSize s r sub - off) else len))))) ∧
      (∀ ab, found 0x303 (h.length == 0) ab → ab ≠ 0 → ∃ t, exec (.odDescribe p h) s = .next t ∧ refused t ab) ∧
      (∀ r, found 0x303 (h.length == 0) 0 → objRow i sub = some r →
        let ab := if readState s i = false then 0x08000020 else if h.offset ≠ 0 then 0x06070010 else 0
        ∃ t, exec (.odDescribe p h) s = .next t ∧ (ab ≠ 0 → refused t ab) ∧
          (ab = 0 → answer t 0x383 0 (descBytes s r sub) ∧ (descBytes s r sub).length = 32 ∧ t = { s with mgm := { s.mgm with resp := t.mgm.resp } })) ∧
      (∀ (bs : List Byte) (ab : Nat), found 0x302 (len == bs.length) ab → ab ≠ 0 → ∃ t, exec (.odWrite p h bs) s = .next t ∧ refused t ab) ∧
      (∀ (bs : List Byte) (r : ORow), found 0x302 (len == bs.length) 0 → objRow i sub = some r → r.acc = .ro →
        ∃ t, exec (.odWrite p h bs) s = .next t ∧ refused t 0x06010002) ∧
      (∀ (bs : List Byte) (r : ORow), found 0x302 (len == bs.length) 0 → objRow i sub = some r → r.acc ≠ .ro →
        (∀ u, writeRoute s p i sub off (routePad r bs) = some u → routeLenOk r i off bs = true → exec (.odWrite p h bs) s = .next (stamp s h u)) ∧
        (writeRoute s p i sub off (routePad r bs) = none → r.typ ≠ .domain → Takes s p obj → accState s r = true → (i = 0x1102 → p = .tributary) →
          (i = 0x2060 → stagesNow s = true → s.inp.replaying = false ∧ stageRoom s (.numctl (sub - 1) 0#32) = true) → off = 0 →
          bs.length = typSize r.typ → valueOk r (leNat bs) = true → consistent s i sub (clampObj r (leNat bs)) = true →
          let u := objPut s i sub (clampObj r (leNat bs))
          ∃ t, exec (.odWrite p h bs) s = .next t ∧ answer t 0x382 0 [] ∧
            (clampObj r (leNat bs) = leNat bs → t = { u with mgm := { u.mgm with resp := t.mgm.resp } }) ∧
            (clampObj r (leNat bs) ≠ leNat bs → t = { u with
              evr := (raise u 0x0D03 0x10 [obj]).evr
              mgm := { u.mgm with resp := t.mgm.resp, clamps := min (u.mgm.clamps + 1) 0xFFFFFFFF, lastClamp := obj } })) ∧
        (i ∈ [0x4060, 0x4061, 0x4062] → Takes s p obj → s.dev.state = .standby → off + bs.length ≤ r.size →
          let m := if i = 0x4060 then queueMask else if i = 0x4061 then fanMask else redMask
          ∃ t, exec (.odWrite p h bs) s = .next t ∧ answer t 0x382 0 [] ∧
            (∀ j, mget (if i = 0x4060 then t.fab.queues else if i = 0x4061 then t.fab.fan else t.fab.red) j =
              if off ≤ j ∧ j < off + bs.length then byteAt bs (j - off) &&& m j
              else mget (if i = 0x4060 then s.fab.queues else if i = 0x4061 then s.fab.fan else s.fab.red) j) ∧
            t = { s with fab := { s.fab with queues := t.fab.queues, fan := t.fab.fan, red := t.fab.red }, mgm := { s.mgm with resp := t.mgm.resp } }) ∧
        (∀ q, i = 0x7032 → logPart s = some q → Takes s p obj → s.dev.state = .standby → off + bs.length ≤ q.2 → ∃ t, exec (.odWrite p h bs) s = .next t ∧
          answer t 0x382 0 [] ∧ Wrote s.beds.mem t.beds.mem (q.1 + off) bs ∧
          t = { s with beds := { s.beds with mem := t.beds.mem, bad := t.beds.bad }, mgm := { s.mgm with resp := t.mgm.resp } }))) ∧
    (served s p = true →
      (h.typ = 0x301 → h.index = 0x1800 → h.sub = 1 → h.rsvd = 0 → h.length.toNat ≤ 1484 → h.offset = 0 → ∃ t, exec (.odRead p h) s = .next t ∧
        answer t 0x381 0 (leBytes 1 (stateCode s.dev.state)) ∧ t = { s with mgm := { s.mgm with resp := t.mgm.resp } }) ∧
      (h.typ = 0x303 → h.index = 0x1800 → h.sub = 1 → h.rsvd = 0 → h.length = 0 → h.offset = 0 → ∃ t bs, exec (.odDescribe p h) s = .next t ∧
        answer t 0x383 0 bs ∧ bs.length = 32 ∧ t = { s with mgm := { s.mgm with resp := t.mgm.resp } }) ∧
      (∀ bs, h.typ = 0x302 → h.index = 0x6010 → h.sub = 1 → h.rsvd = 0 → h.offset = 0 → h.length = 2 → bs.length = 2 → 900 ≤ leNat bs → leNat bs ≤ 1800 →
        Takes s p 0x601001 → ∃ t, exec (.odWrite p h bs) s = .next t ∧ answer t 0x382 0 [] ∧
          t = { s with pwr := { s.pwr with target := leNat bs / 25 * 25 }, mgm := { s.mgm with resp := t.mgm.resp } }) ∧
      (h.typ ≠ 0x301 → ∃ t, exec (.odRead p h) s = .next t ∧ (t.mgm.resp.getLast?.map (·.abort)) = some 0x05030001 ∧ t.mgm.lastRef = obj) ∧
      (h.typ = 0x301 → h.rsvd = 0 → h.length.toNat ≤ 1484 → idxExists h.index.toNat = false → ∃ t, exec (.odRead p h) s = .next t ∧
        answer t 0x381 0x06020000 []) ∧
      (h.typ = 0x301 → h.rsvd = 0 → h.length.toNat ≤ 1484 → idxExists h.index.toNat = true → objRow h.index.toNat h.sub.toNat = none →
        ∃ t, exec (.odRead p h) s = .next t ∧ answer t 0x381 0x06090011 []) ∧
      (∀ bs, h.typ = 0x302 → h.index = 0x1800 → h.sub = 1 → h.rsvd = 0 → bs.length ≤ 1484 → h.length.toNat = bs.length →
        ∃ t, exec (.odWrite p h bs) s = .next t ∧ answer t 0x382 0x06010002 [] ∧ t.dev = s.dev))

/-- R444, R445, R446, R447, R448, R531, R532, R533, R534: a node sends its record of severity 3 first, else its oldest; the store numbers it, frees the
oldest record that is no more severe when it is full, or counts a drop; a cursor's write latches its window. A claim takes the deliverable source of highest priority, its completion ends it and starts the hold-off of its group,
`ISWSET` pends the lines of group 14, and the hold-off's end makes a source deliverable again. -/
def Obligations.EventsAndInterrupts : Prop :=
  ∀ (s : State), s.dev.state ≠ .off →
    (∀ (h : Fin 4) (i : Nat), (s.hart h.val).role < 4 → bestSrc s h.val = some i → ∃ t, exec (.claim h) s = .next t ∧
      t.isrc i = { s.isrc i with pending := false, active := true } ∧ (t.hart h.val).claimRd = BitVec.ofNat 9 (256 + i) ∧
      (t.hart h.val).claimed = (s.hart h.val).claimed ++ [i] ∧ (∀ j, j ≠ i → t.isrc j = s.isrc j) ∧ (∀ k, k ≠ h.val → t.hart k = s.hart k) ∧
      deliverable s h.val i = true ∧ (∀ j, deliverable s h.val j = true → j < 256 → (s.isrc j).prio ≤ (s.isrc i).prio ∧
        ((s.isrc j).prio = (s.isrc i).prio → i ≤ j)) ∧
      t = { s with mgm := { s.mgm with src := t.mgm.src, harts := t.mgm.harts } }) ∧
    (∀ (h : Fin 4), (s.hart h.val).role < 4 → bestSrc s h.val = none → ∃ t, exec (.claim h) s = .next t ∧ (t.hart h.val).claimRd = 0#9 ∧
      t = { s with mgm := { s.mgm with harts := t.mgm.harts } }) ∧
    (∀ (h : Fin 4) (i : Fin 256), (s.hart h.val).role < 4 → i.val ∈ (s.hart h.val).claimed → ∃ t, exec (.complete h i) s = .next t ∧
      t.isrc i.val = { s.isrc i.val with active := false, heldOff := false } ∧ (t.hart h.val).claimed = (s.hart h.val).claimed.erase i.val ∧
      fget t.mgm.lastComp 0 (i.val / 16) = s.fab.ftime + 1 ∧ t.evr = s.evr) ∧
    (∀ (h : Fin 4) (i : Fin 256), (s.hart h.val).role < 4 → i.val ∉ (s.hart h.val).claimed → exec (.complete h i) s =
      .next { s with evr := (raise s 0x0D07 0x10 [h.val, i.val]).evr }) ∧
    (∀ i : Nat, 4 ≤ i → i < 16 → (s.isrc (224 + i)).pending = false → (s.isrc (224 + i)).active = false → fget s.mgm.hold 0 14 = 0 →
      ∃ t, exec (.iswset (BitVec.ofNat 32 (2 ^ i))) s = .next t ∧ t.isrc (224 + i) = { s.isrc (224 + i) with pending := true, heldOff := false } ∧
        (∀ j, j ≠ 224 + i → t.isrc j = s.isrc j) ∧ t = { s with mgm := { s.mgm with src := t.mgm.src, harts := t.mgm.harts } }) ∧
    (∀ i : Fin 256, 0 < fget s.mgm.lastComp 0 (i.val / 16) → s.fab.ftime + 1 < fget s.mgm.lastComp 0 (i.val / 16) + 1000 * fget s.mgm.hold 0 (i.val / 16) →
      0 < fget s.mgm.hold 0 (i.val / 16) → exec (.holdoffExpire i) s = .next s) ∧
    (∀ i : Fin 256, fget s.mgm.lastComp 0 (i.val / 16) + 1000 * fget s.mgm.hold 0 (i.val / 16) ≤ s.fab.ftime + 1 → ∃ t, exec (.holdoffExpire i) s = .next t ∧ t.isrc i.val = { s.isrc i.val with heldOff := false } ∧
      (∀ j, j ≠ i.val → t.isrc j = s.isrc j) ∧ t = { s with mgm := { s.mgm with src := t.mgm.src, harts := t.mgm.harts } }) ∧
    (∀ (n : Fin 64) (l q : List EvRec) (r : EvRec), fget s.evr.held [] n.val = l ++ r :: q → (∀ x ∈ l, x.sev ≠ 3) →
      (r.sev = 3 ∨ (l = [] ∧ ∀ x ∈ q, x.sev ≠ 3)) → ∃ t, exec (.eventRecordStore n) s = .next t ∧ fget t.evr.held [] n.val = l ++ q ∧
        (∀ m, m ≠ n.val → fget t.evr.held [] m = fget s.evr.held [] m) ∧
        (s.evr.store.length < 16384 → t.evr.store = s.evr.store ++ [{ r with seq := s.evr.next }] ∧ t.evr.next = s.evr.next + 1 ∧
          t.evr.overs = s.evr.overs ∧ t.evr.drops = s.evr.drops ∧ (r.id / 256 = 0x0D → r.sev < 4 → (t.isrc r.sev).pending = true)) ∧
        (∀ o st, s.evr.store = o :: st → 16384 ≤ s.evr.store.length → o.sev ≤ r.sev → t.evr.store = st ++ [{ r with seq := s.evr.next }] ∧
          fget t.evr.overs 0 o.sev = min (fget s.evr.overs 0 o.sev + 1) 0xFFFFFFFF ∧ t.evr.drops = s.evr.drops) ∧
        (16384 ≤ s.evr.store.length → (∀ x ∈ s.evr.store, r.sev < x.sev) → t.evr.store = s.evr.store ∧ t.evr.next = s.evr.next ∧
          fget t.evr.drops 0 r.sev = min (fget s.evr.drops 0 r.sev + 1) 0xFFFFFFFF)) ∧
    (∀ n : Fin 64, fget s.evr.held [] n.val = [] → exec (.eventRecordStore n) s = .next s) ∧
    (∀ (p : Path) (v : BitVec 64), Takes s p (0x701000 + curKey p) → ∃ t, exec (.cursorWrite p v) s = .next t ∧ Granted t p (0x701000 + curKey p) ∧
      let w := fget t.evr.window [] (curKey p)
      fget t.evr.cursor 0 (curKey p) = v.toNat ∧ fieldAt w 0 4 = (fget s.evr.wseq 0 (curKey p) + 1) % 2 ^ 32 ∧
      fieldAt w 4 2 = min 63 (s.evr.store.filter fun r => v.toNat ≤ r.seq).length ∧ fieldAt w 16 8 = s.evr.next % 2 ^ 64 ∧ fieldAt w 24 8 = v.toNat ∧
      (∀ k, k ≠ curKey p → fget t.evr.window [] k = fget s.evr.window [] k) ∧ t.evr.store = s.evr.store ∧ t.evr.next = s.evr.next)

/-! ### Clocks, monitors and energy -/

/-- R454, R456, R460, R462, R463, R464, R465, R466, R468, R469, R470, R472: what a monitor's sample, a trip and its end, a change of frequency, the
board's power warning, the ledger's update and the crossings' check leave. The unit of 64 monitors is the spec's; the fault on another number and the
treatment of a monitor that has not measured yet are the model's (log 4, log 21). -/
def Obligations.ClocksAndPower : Prop :=
  ∀ (s : State), s.dev.state ≠ .off →
    (∀ (m mv : Nat) (tempC : Int) (margin : Nat),
      (m < 64 → ∃ t, exec (.monitorSample m mv tempC margin) s = .next t ∧
        (t.mon m).vloc = min mv 1023 ∧ (t.mon m).temp = min 255 (tempC + 40).toNat ∧ (t.mon m).valid = true ∧
        (t.mon m).trip = (if mv < s.pwr.tripMv then true else if s.pwr.tripMv + s.pwr.hystMv < mv then false else (s.mon m).trip) ∧
        (s.pwr.tripMv ≤ mv → (s.mon m).tripAt = 0 → (t.mon m).allow = min 127 (margin / 25) - (tempC - s.pwr.throttle).toNat) ∧
        (∀ k, k ≠ m → t.mon k = s.mon k) ∧ t.cores = s.cores) ∧
      (64 ≤ m → exec (.monitorSample m mv tempC margin) s = .fault (.noSuchUnit m))) ∧
    (∀ m : Nat,
      (m < 64 → (s.mon m).trip = true → ∃ t, exec (.droopClear m) s = .next t ∧ t.mon m = { s.mon m with trip := false } ∧
        (∀ k, k ≠ m → t.mon k = s.mon k) ∧ (∀ c ∈ s.sch.causes, (c.no ≠ 10 ∨ c.src ≠ m) → c ∈ t.sch.causes) ∧
        (∀ c ∈ s.sch.causes, c.no = 10 → c.src = m → c.untilW = none →
          { c with untilW := some (max (s.sch.wCycle + 4) (c.sinceW + 64)) } ∈ t.sch.causes)) ∧
      (m < 64 → (s.mon m).trip = false → exec (.droopClear m) s = .next s) ∧
      (64 ≤ m → exec (.droopClear m) s = .fault (.noSuchUnit m))) ∧
    ((s.dev.state = .standby ∨ s.dev.state = .ready ∨ s.dev.state = .halted) →
      (s.pwr.tripped = true → 900 < s.pwr.freq → ∃ t, exec .frequencyEvalIdle s = .next t ∧ t.pwr.freq = 900) ∧
      ((∀ m, (s.mon m).valid = false) → s.pwr.tripped = false → s.pwr.lowHeld = false → s.pwr.minHist = [] → 900 ≤ s.pwr.target →
        s.pwr.target ≤ 1800 →
        (s.pwr.target ≠ s.pwr.freq → exec .frequencyEvalIdle s = .next { s with
          fab := { s.fab with frac := s.fab.frac * s.pwr.target / max 1 s.pwr.freq }
          pwr := { s.pwr with freq := s.pwr.target, newFreq := none, changes := min (s.pwr.changes + 1) 0xFFFFFFFF, crossBad := 0#4 }
          evr := (raise s 0x0E04 0x12 [s.pwr.freq, s.pwr.target, 0]).evr }) ∧
        (s.pwr.target = s.pwr.freq → exec .frequencyEvalIdle s = .next s))) ∧
    (s.dev.state = .running → exec .frequencyEvalIdle s = .next s) ∧
    (∀ f, s.pwr.newFreq = some f → ∃ t, exec .clockChangeDone s = .next t ∧ t.pwr.freq = f ∧
      t.sch.wCycle = s.sch.wCycle + ((s.fab.ftime - s.pwr.changeAt) * f + 999) / 1000 ∧ t.sch.sCycle = s.sch.sCycle ∧
      (s.sch.weirPhase = 9 → hasCause t 8 = false)) ∧
    (s.pwr.newFreq = none → exec .clockChangeDone s = .next s) ∧
    (s.pwr.tripped = false → ∃ t, exec (.thermalTrip true) s = .next t ∧ t.pwr.tripped = true ∧ t.pwr.freq = 900 ∧
      t.pins = { s.pins with thermIn := true } ∧ t.cores = s.cores ∧
      (s.pins.thermIn = false → (t.isrc 214).pending = true) ∧ (∀ j, j ≠ 214 → t.isrc j = s.isrc j) ∧
      ((s.dev.state = .running ∨ s.dev.state = .draining) → t.dev.state = .halted ∧ t.dev.haltId = 0x0E07)) ∧
    (∃ t, exec (.thermalTrip false) s = .next t ∧ t.pins.thermIn = false ∧ t.pwr.freq = s.pwr.freq ∧
      ((∀ m, m < 64 → (s.mon m).valid = true → (s.mon m).temp + 10 ≤ s.pwr.crit + 40) → t.pwr.tripped = false ∧ t.pins.tempCrit = false) ∧
      ((∃ m, m < 64 ∧ (s.mon m).valid = true ∧ s.pwr.crit + 40 < (s.mon m).temp + 10) →
        t.pwr.tripped = s.pwr.tripped ∧ t.pins.tempCrit = s.pins.tempCrit)) ∧
    (∀ b : Bool, (s.pins.pgWarn ≠ b → ∃ t, exec (.pgWarnEdge b) s = .next t ∧ t.pins = { s.pins with pgWarn := b } ∧
        t.evr = (raise s 0x0E0A 0x12 [if b then 1 else 0]).evr ∧ (t.isrc 215).pending = true ∧ (∀ j, j ≠ 215 → t.isrc j = s.isrc j) ∧ t.pwr = s.pwr) ∧
      (s.pins.pgWarn = b → exec (.pgWarnEdge b) s = .next s)) ∧
    (∀ m mv : Nat, ∃ t, exec (.ledgerUpdate m mv) s = .next t ∧ t.pwr.railMv = mv ∧ t.pwr.totE = s.pwr.totE + m ∧ t.pwr.warnOn = s.pins.pgWarn ∧
      t.pwr.credit = max (-(s.pwr.cap : Int)) (min (s.pwr.cap : Int) (s.pwr.credit + (if s.pwr.warnOn then s.pwr.warnW else s.pwr.sust : Nat) - m)) ∧
      (∀ c ∈ s.sch.causes, c.no = 9 → c.src = 0 → c.untilW = none → (min s.pwr.need s.pwr.cap : Nat) ≤ t.pwr.credit →
        { c with untilW := some (s.sch.wCycle + 4) } ∈ t.sch.causes) ∧
      (t.pwr.credit < (min s.pwr.need s.pwr.cap : Nat) → t.sch = s.sch)) ∧
    (exec (.meterCalibration true) s = .next { s with pwr := { s.pwr with calOk := true } }) ∧
    (exec (.meterCalibration false) s = .next { s with pwr := { s.pwr with calOk := false }, evr := (raise s 0x0E0C 0x12 []).evr }) ∧
    (s.dev.state ≠ .running → s.dev.state ≠ .draining → s.pwr.idleAt + 1000000 ≤ s.fab.ftime → exec .idleFeed s = .next { s with
      tru := { s.tru with feed := s.tru.feed ++ [{ seq := s.tru.feedSeq, body := .idle s.pwr.idleE }], feedSeq := s.tru.feedSeq + 1 }
      pwr := { s.pwr with idleE := 0, idleAt := s.fab.ftime } }) ∧
    (∀ x : Fin 4, exec (.crossingOutOfBound x) s = .next { s with
      pwr := { s.pwr with crossBad := s.pwr.crossBad ||| (1#4 <<< x.val) }, evr := (raise s 0x0E0D 0x12 [x.val]).evr })

/-! ### Fences and repairs -/

/-- R481, R484, R485, R486, R488, R489, R492, R494, R495, R499: a fence takes its position out, arms its spare or leaves its slot absent; the remap is
applied, or not, at the Weir; a row's reads move to its spare; a stack fence waits for STANDBY; a hart that hangs hands its role on. -/
def Obligations.FencesAndRemaps : Prop :=
  ∀ (s : State),
    (∀ (p : Path) (v : BitVec 16), Takes s p 0x210200 →
      let cl := v.toNat / 4096
      let de := v.getLsbD 11
      let pos := v.toNat / 128 % 16
      let run := s.dev.state = .running ∨ s.dev.state = .draining
      let bad := (if de then 9 else 5) ≤ pos ∨ posFenced s (posKey cl de pos) = true ∨ ∃ r ∈ s.rep.pend, r.cl = cl ∧ r.de = de
      (bad → ∃ t, exec (.fenceRequest p v) s = .next t ∧ Denied t p 0x210200 0x08000021 ∧ t.rep = s.rep) ∧
      (¬ bad → posCarries s cl de pos = none → ∃ t, exec (.fenceRequest p v) s = .next t ∧ Granted t p 0x210200 ∧
        (∀ k, posFenced t k = if k = posKey cl de pos then true else posFenced s k) ∧ t.rep = { s.rep with fenced := t.rep.fenced } ∧
        t.evr = (raise s 0x0F03 0x10 [cl, pos]).evr ∧ t.sch = s.sch) ∧
      (¬ bad → posCarries s cl de pos ≠ none → spareFree s cl de = true → ∃ t, exec (.fenceRequest p v) s = .next t ∧ Granted t p 0x210200 ∧
        t = { s with rep := { s.rep with pend := s.rep.pend ++ [{ cl := cl, de := de, pos := pos }] }, mgm := { s.mgm with resp := t.mgm.resp } }) ∧
      (¬ bad → spareFree s cl de = false → ∀ c, posCarries s cl de pos = some c →
        (run → ∃ t, exec (.fenceRequest p v) s = .next t ∧ Granted t p 0x210200 ∧ t.rep.map = s.rep.map ∧
          t.rep.pend = s.rep.pend ++ [{ cl := cl, de := de, pos := pos, noSpare := true, weir := stageWeir s }] ∧
          t.sch = { s.sch with haltReq := s.sch.haltReq <|> some 0x0F02 }) ∧
        (¬ run → ∃ t, exec (.fenceRequest p v) s = .next t ∧ Granted t p 0x210200 ∧ corePos t c = 255 ∧
          (∀ k, k < 192 → k ≠ c → corePos t k = corePos s k) ∧ posFenced t (posKey cl de pos) = true ∧
          t.evr = (raise s 0x0F02 0x10 [cl, pos]).evr))) ∧
    (∀ (cl : Fin 16) (de : Bool),
      (∀ r, s.rep.pend = [r] → r.cl = cl.val → r.de = de → r.armed = false → r.noSpare = false →
        ((s.dev.state = .running ∨ s.dev.state = .draining) → exec (.spareReady cl de) s =
          .next { s with rep := { s.rep with pend := [{ r with armed := true, weir := stageWeir s }] } }) ∧
        (s.dev.state = .ready → ∀ c, posCarries s r.cl r.de r.pos = some c → ∃ t, exec (.spareReady cl de) s = .next t ∧ t.rep.pend = [] ∧
          corePos t c = (if de then 13 else 4) ∧ (∀ k, k < 192 → k ≠ c → corePos t k = corePos s k) ∧ posFenced t (posKey r.cl r.de r.pos) = true ∧
          t.rep.remaps = min (s.rep.remaps + 1) 0xFFFFFFFF ∧ t.cores = s.cores ∧ t.evr = (raise s 0x0F01 0x10 [r.cl, r.pos]).evr)) ∧
      (s.rep.pend = [] → exec (.spareReady cl de) s = .next s)) ∧
    (∀ r w, s.sch.causes = [{ no := 7, src := 0, sinceW := w, untilW := none }] → remapsDue s = [r] →
      (∃ t, exec .remapComplete s = .next t ∧ t.sch = { s.sch with causes := [{ no := 7, src := 0, sinceW := w, untilW := some (s.sch.wCycle + 4) }] } ∧
        t.rep.remapW = (s.sch.wCycle - w) % 2 ^ 32 ∧ t.rep.remaps = min (s.rep.remaps + 1) 0xFFFFFFFF ∧ r ∉ t.rep.pend ∧
        posFenced t (posKey r.cl r.de r.pos) = true ∧ t.cores = s.cores) ∧
      (s.sch.wCycle < w + 40 * s.pwr.freq → exec .remapTimeout s = .next s) ∧
      (w + 40 * s.pwr.freq ≤ s.sch.wCycle → ∃ t, exec .remapTimeout s = .next t ∧ t.sch.causes = [] ∧ r ∉ t.rep.pend ∧ t.rep.map = s.rep.map ∧ t.rep.fenced = s.rep.fenced ∧
        t.rep.remaps = s.rep.remaps ∧ ((s.dev.state = .running ∨ s.dev.state = .draining) → t.dev.state = .halted ∧ t.dev.haltId = 0x0F0B))) ∧
    (hasCause s 7 = false → exec .remapComplete s = .next s ∧ exec .remapTimeout s = .next s) ∧
    (∀ (stack : Fin 16) (tier : Fin 8) (row : Nat) (r : RowFix) (q : List RowFix), s.rep.rows = r :: q → r.stack = stack.val → r.tier = tier.val →
      r.row = row → r.copied = false → ∃ t, exec (.rowRepairCopyDone stack tier row) s = .next t ∧ t.rep.rows = { r with copied := true } :: q ∧
        (s.rep.log.length < 8192 → t.rep.log.length = s.rep.log.length + 1 ∧ t.rep.unlogged = s.rep.unlogged) ∧
        (8192 ≤ s.rep.log.length → t.rep.log = s.rep.log ∧ t.rep.unlogged = min (s.rep.unlogged + 1) 0xFFFFFFFF) ∧
        t.evr = (raise s 0x0F04 0x10 [stack.val, tier.val, row]).evr) ∧
    (∀ (stack : Fin 16) (tier : Fin 8) (row : Nat), s.rep.rows = [] → exec (.rowRepairCopyDone stack tier row) s = .next s) ∧
    (∀ (p : Path) (v : BitVec 16), Takes s p 0x309400 →
      let run := s.dev.state = .running ∨ s.dev.state = .draining
      (v.getLsbD 15 = true → s.rep.stackMap = none → s.rep.stackReq = none → ∃ t, exec (.stackFenceRequest p v) s = .next t ∧ Granted t p 0x309400 ∧
        (run → t.rep.stackReq = some (v.toNat % 16 + 16) ∧ t.sch = { s.sch with haltReq := s.sch.haltReq <|> some 0x0F06 }) ∧
        (¬ run → t.rep.stackReq = some (v.toNat % 16) ∧ t.sch = s.sch) ∧
        t = { s with rep := { s.rep with stackReq := t.rep.stackReq }, sch := t.sch, mgm := { s.mgm with resp := t.mgm.resp } }) ∧
      (v.getLsbD 15 = true → (s.rep.stackMap ≠ none ∨ s.rep.stackReq ≠ none) → ∃ t, exec (.stackFenceRequest p v) s = .next t ∧
        Denied t p 0x309400 0x08000021 ∧ t.rep = s.rep)) ∧
    (∀ h : Fin 4, s.dev.state = .running → s.mgm.upd = .idle → (s.hart h.val).role < 3 → (s.hart h.val).halted = false →
      ∃ t, exec (.watchdogExpire h) s = .next t ∧ (t.hart h.val).role = 4 ∧ (t.hart h.val).claimed = [] ∧
        (∀ j, j < 4 → (s.hart j).role = 3 → (∀ k, k < j → (s.hart k).role ≠ 3) → (t.hart j).role = (s.hart h.val).role ∧ t.mgm.dictOn = s.mgm.dictOn) ∧
        ((∀ k, k < 4 → k ≠ h.val → (s.hart k).role = 4) → t.mgm.dictOn = false) ∧ t.dev = s.dev) ∧
    (∀ h : Fin 4, 3 ≤ (s.hart h.val).role → exec (.watchdogExpire h) s = .next s)

/-! ### Quotes and the Gauge -/

/-- R513, R514, R517, R518, R519, R521, R522, R523, R524, R526, R527: what a quote's request and signature, the feed's records, the Gauge's supply and
reference, the close and the signature of an interval and the mirror's copy leave. -/
def Obligations.QuotesAndStatements : Prop :=
  ∀ (s : State),
    (∀ (p : Path) (nonce : List Byte), Takes s p 0x802000 → nonce.length = 32 →
      (s.tru.quoteSt ≠ 1 → ∃ t, exec (.quoteRequest p nonce) s = .next t ∧ Granted t p 0x802000 ∧ t.tru.quoteSnap = quoteBody s nonce ∧
        (t.tru.quoteSnap.drop 16).take 32 = nonce ∧
        t = { s with tru := { s.tru with quoteSt := 1, quoteSnap := quoteBody s nonce, quote := [] }, mgm := { s.mgm with resp := t.mgm.resp } }) ∧
      (s.tru.quoteSt = 1 → ∃ t, exec (.quoteRequest p nonce) s = .next t ∧ Denied t p 0x802000 0x08000023 ∧ t.tru = s.tru)) ∧
    (s.dev.state ≠ .off → s.tru.quoteSt = 1 → ∃ t, exec .quoteSigned s = .next t ∧ t.tru.quoteSt = 2 ∧
      t.tru.quote.take s.tru.quoteSnap.length = s.tru.quoteSnap ∧ t.tru.quote.length = s.tru.quoteSnap.length + 49856 ∧
      t.tru.quotes = min (s.tru.quotes + 1) 0xFFFFFFFF ∧ t.tru.mr = s.tru.mr ∧ t.tru.log = s.tru.log ∧
      t.evr = (raise s 0x1002 0x13 [t.tru.quotes]).evr) ∧
    (s.tru.quoteSt ≠ 1 → exec .quoteSigned s = .next s) ∧
    (s.fab.ftime < s.tru.identAt + 1000000000 → exec .identSend s = .next s) ∧
    (s.dev.state ≠ .off → s.tru.identAt + 1000000000 ≤ s.fab.ftime → exec .identSend s = .next { s with tru := { s.tru with
      feed := s.tru.feed ++ [{ seq := s.tru.feedSeq, body := .ident (idDigest s) (if s.dev.b0 then 0xB0 else 0xA0) }], feedSeq := s.tru.feedSeq + 1
      identAt := s.fab.ftime } }) ∧
    (s.gau.on = false → ∃ t, exec .gaugePowerUp s = .next t ∧ t.gau.on = true ∧ t.gau.epochs = s.gau.epochs + 1 ∧ t.gau.seq = 0 ∧ t.gau.tok = [] ∧
      t.gau.tokSum = [] ∧ t.gau.steps = [] ∧ t.gau.ledger = 0 ∧ t.gau.places = [] ∧ t.gau.toSign = [] ∧ t.gau.mirror = s.gau.mirror ∧
      t = { s with gau := t.gau }) ∧
    (s.gau.on = true → exec .gaugePowerUp s = .next s) ∧
    (∀ bs : List Byte, s.gau.on = true →
      let payload := (bs.drop 8).take (fieldAt bs 6 2)
      let q := fieldAt bs 0 4
      (feedOk bs = false → ∃ t, exec (.feedRecord bs) s = .next t ∧
        t.gau = { s.gau with badcrc := s.gau.badcrc + 1, badE := min (s.gau.badE + 1) 0xFFFFFFFF }) ∧
      (feedOk bs = true → fieldAt bs 4 1 = 3 → ∃ t, exec (.feedRecord bs) s = .next t ∧ t.gau.ledger = s.gau.ledger + fieldAt payload 0 8 ∧
        t.gau.seqExp = (q + 1) % 2 ^ 32 ∧ t.gau.gaps = s.gau.gaps + (q - s.gau.seqExp) ∧ t.gau.tok = s.gau.tok ∧ t.gau.steps = s.gau.steps) ∧
      (feedOk bs = true → fieldAt bs 4 1 = 2 → ∃ t, exec (.feedRecord bs) s = .next t ∧ t.gau.ledger = s.gau.ledger + fieldAt payload 8 8 ∧
        t.gau.steps = s.gau.steps ++ [(fieldAt payload 8 8, (List.range 128).map fun i => fieldAt payload (20 + 2 * i) 2)]) ∧
      (feedOk bs = true → fieldAt bs 4 1 = 4 → fieldAt payload 8 2 = 1 → ∃ t, exec (.feedRecord bs) s = .next t ∧
        (∀ k, fget t.gau.tok 0 k = fget s.gau.tok 0 k + if k = fieldAt payload 12 2 then fieldAt payload 16 4 else 0) ∧
        (∀ k, fget t.gau.tokSum 0 k = fget s.gau.tokSum 0 k + if k = fieldAt payload 12 2 then fieldAt payload 16 4 else 0) ∧
        t.gau.ledger = s.gau.ledger)) ∧
    (∀ bs : List Byte, s.gau.on = false → ∃ t, exec (.feedRecord bs) s = .next t ∧ t.gau = s.gau) ∧
    (∀ (e g : Nat) (ts : List Nat) (k : Nat), s.gau.steps = [(e, ts)] → s.gau.ledger = e → 0 < e → ts.length ≤ 128 →
      (∃ u ∈ ts, u ≠ 0xFFFF) → k ≠ 0xFFFF →
      tenantNrg s.gau g k = g * (ts.filter fun u => u == k).length / (ts.filter fun u => u != 0xFFFF).length) ∧
    (∀ (g : Nat) (ok : Bool), s.gau.time < s.gau.tstart + 60000 → exec (.gaugeIntervalClose g ok) s = .next s) ∧
    (∀ (g : Nat) (ok : Bool), s.gau.on = true → s.gau.tstart + 60000 ≤ s.gau.time → ∃ t x, exec (.gaugeIntervalClose g ok) s = .next t ∧ t.gau.toSign = s.gau.toSign ++ [x] ∧
      x.seq = s.gau.seq ∧ fieldAt x.body 112 8 = g % 2 ^ 64 ∧ t.gau.seq = s.gau.seq + 1 ∧ t.gau.tstart = s.gau.tstart + 60000 ∧ t.gau.ledger = 0 ∧
      t.gau.tok = [] ∧ t.gau.steps = [] ∧ t.gau.gaps = 0 ∧ t.gau.badcrc = 0 ∧ t.gau.tokSum = s.gau.tokSum ∧ t = { s with gau := t.gau }) ∧
    (∀ (v : BitVec 8) (g : Nat) (ok : Bool), s.gau.on = true →
      (v = 1#8 → (s.gau.seq = 0 ∨ s.gau.tstart + 1000 ≤ s.gau.time) → ∃ t x, exec (.gaugeCloseRequest v g ok) s = .next t ∧
        t.gau.toSign = s.gau.toSign ++ [x] ∧ x.seq = s.gau.seq ∧ (fieldAt x.body 6 2).testBit 1 = true ∧ t.gau.seq = s.gau.seq + 1 ∧
        t.gau.tstart = s.gau.time ∧ t.gau.resp = s.gau.resp ++ [{ path := .segment, typ := 0x382, index := 0x9030 }]) ∧
      (v ≠ 1#8 → exec (.gaugeCloseRequest v g ok) s = .next { s with gau := { s.gau with
        resp := s.gau.resp ++ [{ path := .segment, typ := 0x382, index := 0x9030, abort := 0x06090030 }] } }) ∧
      (v = 1#8 → 0 < s.gau.seq → s.gau.time < s.gau.tstart + 1000 → exec (.gaugeCloseRequest v g ok) s = .next { s with gau := { s.gau with
        resp := s.gau.resp ++ [{ path := .segment, typ := 0x382, index := 0x9030, abort := 0x08000023 }] } })) ∧
    (s.gau.on = true →
      (∀ x r, s.gau.toSign = x :: r → 80 ≤ x.body.length → ∃ t, exec .statementSigned s = .next t ∧ t.gau.toSign = r ∧ t.gau.last = x.seq ∧
        fget t.gau.places [] (x.seq % 32 + 1) = t.gau.prev ∧ t.gau.prev.take 80 = x.body.take 80 ∧
        (∀ j, j ≠ x.seq % 32 + 1 → fget t.gau.places [] j = fget s.gau.places [] j) ∧ t.gau.seq = s.gau.seq) ∧
      (s.gau.toSign = [] → exec .statementSigned s = .next s)) ∧
    (s.dev.state ≠ .off → s.dev.state ≠ .boot →
      (s.gau.on = true → ∃ t, exec (.gaugeMirror true) s = .next t ∧
        t.gau = { s.gau with mirror := gaugeObjs s.gau, mirrorAt := s.fab.ftime, mirrorLate := false } ∧ t.tru = s.tru) ∧
      (s.gau.mirrorAt + 10000000000 ≤ s.fab.ftime → s.gau.mirrorLate = false → exec (.gaugeMirror false) s = .next { s with
        gau := { s.gau with mirrorLate := true }, evr := (raise s 0x1004 0x10 []).evr }) ∧
      (s.fab.ftime < s.gau.mirrorAt + 10000000000 → exec (.gaugeMirror false) s = .next s)) ∧
    (s.gau.on = true → ∃ t, exec .gaugeSupplyLoss s = .next t ∧ t.gau.on = false ∧ t.gau.epochs = s.gau.epochs ∧ t.gau.toSign = [] ∧ t.gau.tokSum = [] ∧
      t.gau.nrgSum = [] ∧ t.gau.steps = [] ∧ t.gau.mirror = s.gau.mirror ∧ t = { s with gau := t.gau }) ∧
    (s.gau.on = false → exec .gaugeSupplyLoss s = .next s) ∧
    (s.gau.on = true → exec .gaugeReferenceLost s = .next { s with gau := { s.gau with refAbs := true, flags := s.gau.flags ||| 1#16 } }) ∧
    (exec .gaugeReferenceRestored s = .next { s with gau := { s.gau with refAbs := false } })

/-! ### Debug access and scan -/

/-- R544, R545, R546, R547, R548, R549, R550: the debug commands halt, resume and step in the states that serve them; a break halts with its cause; a
debug write stores and is measured once; the scan instructions capture and shift their registers. The data clause of the debug module follows the
layout that log 11 presumes. -/
def Obligations.DebugAndScan : Prop :=
  ∀ (s : State),
    (∀ p : Path, Takes s p 0xA00001 →
      (dbgLive s = true → ∃ t, exec (.debugHalt p) s = .next t ∧ Granted t p 0xA00001 ∧ t.dev.state = .halted ∧ t.dev.saved = stateCode s.dev.state ∧
        t.dev.dbgHalt = true ∧ t.dbg.cause = 1 ∧ hasCause t 12 = true ∧ t.cores = s.cores ∧ t.sch.sCycle = s.sch.sCycle ∧
        (t.tru.log.getLast?.map fun e => (e.typ, e.mr)) = some (0x70, 7)) ∧
      (dbgLive s = true → ∃ t, exec (.debugHaltAtWeir p) s = .next t ∧ Granted t p 0xA00001 ∧
        t = { s with dbg := { s.dbg with haltWeir := some 1 }, mgm := { s.mgm with resp := t.mgm.resp } }) ∧
      (dbgLive s = false → ∀ i ∈ [.debugHalt p, .debugHaltAtWeir p], ∃ t, exec i s = .next t ∧ Denied t p 0xA00001 0x08000020 ∧ t.dev = s.dev ∧
        t.dbg = s.dbg) ∧
      (dbgHeld s = true → ∀ i ∈ [.debugResume p, .debugStep p, .debugRunToWeir p], ∃ t, exec i s = .next t ∧ Granted t p 0xA00001 ∧
        t.dev.state = (if s.dev.saved = 6 then .draining else .running) ∧ t.dev.dbgHalt = false ∧
        (∀ c ∈ s.sch.causes, c.no = 12 → c.src = 0 → c.untilW = none → { c with untilW := some (s.sch.wCycle + 4) } ∈ t.sch.causes) ∧
        t.dbg = { s.dbg with haltS := if i = .debugStep p then some (s.sch.sCycle + s.dbg.steps) else s.dbg.haltS
                             haltWeir := if i = .debugRunToWeir p then some 2 else s.dbg.haltWeir }) ∧
      (dbgHeld s = false → ∀ i ∈ [.debugResume p, .debugStep p, .debugRunToWeir p], ∃ t, exec i s = .next t ∧ Denied t p 0xA00001 0x08000020 ∧
        t.dev = s.dev ∧ t.dbg = s.dbg)) ∧
    (∀ k : Fin 3,
      (sRun s = true → s.dev.busy = false → breakDue s k.val = true → ∃ t, exec (.brk k) s = .next t ∧ t.dev.state = .halted ∧ t.dbg.cause = 3 + k.val ∧
        hasCause t 12 = true ∧ t.cores = s.cores) ∧
      (breakDue s k.val = false → exec (.brk k) s = .next s)) ∧
    (∀ (p : Path) (bs : List Byte) (c r : Nat), Takes s p 0xA01002 → s.dev.busy = false →
      let a := 4 * 2 ^ 60 + c / 12 * 2 ^ 56 + c % 12 * 2 ^ 52 + 4 * r
      s.dbg.target = BitVec.ofNat 64 a → c < 192 → 0 < r → r < 32 → bs.length = 4 →
      (s.dev.state = .halted → ∃ t, exec (.debugWrite p 0#32 bs) s = .next t ∧ Granted t p 0xA01002 ∧
        (∀ k, (t.core c).sreg k = if k = r then BitVec.ofNat 32 (leNat bs) else (s.core c).sreg k) ∧ OtherCores s t c ∧
        (s.tru.dbgSince = false → t.tru.dbgSince = true ∧ t.tru.logSeq = s.tru.logSeq + 1 ∧
          (t.tru.log.getLast?.map fun e => (e.typ, e.mr)) = some (0x70, 7)) ∧
        (s.tru.dbgSince = true → t.tru = s.tru)) ∧
      (s.dev.state ≠ .halted → ∃ t, exec (.debugWrite p 0#32 bs) s = .next t ∧ Denied t p 0xA01002 0x08000020 ∧ t.cores = s.cores ∧ t.tru = s.tru)) ∧
    (∀ cells : BitVec 13,
      (s.dev.state = .off → s.pins.resetN = false → ∃ t, exec (.extest cells) s = .next t ∧ t.dbg.ir = 0 ∧ t.dbg.drive = true ∧ t.dbg.bscan = cells ∧
        t.pins = { s.pins with tempCrit := !cells.getLsbD 5 } ∧ t.dev = s.dev) ∧
      (s.dev.state ≠ .off → s.dbg.drive = false → exec (.extest cells) s = .next { s with dbg := { s.dbg with ir := 0, bypass := false, dr := 0#64 } }) ∧
      (s.dbg.drive = false → ∃ t, exec (.samplePreload cells) s = .next t ∧ t.dbg.ir = 2 ∧ t.dbg.bscan = cells ∧
        t = { s with dbg := t.dbg, free := t.free } ∧ t.dbg.dr.getLsbD 0 = s.pins.resetN ∧ t.dbg.dr.getLsbD 1 = s.pins.pwrgood)) ∧
    (s.dbg.drive = false →
      (exec .idcode s = .next { s with dbg := { s.dbg with ir := 1, dr := BitVec.ofNat 64 ((if s.dev.b0 then 2 ^ 28 else 0) + 0xD009 * 2 ^ 12 +
        Config.jedec.toNat * 2 + 1) } }) ∧
      (∀ tdi, exec (.bypass tdi) s = .next { s with dbg := { s.dbg with ir := 0x1F, bypass := tdi, dr := 0#64 } }) ∧
      (exec .testLogicReset s = .next { s with dbg := { s.dbg with ir := 1, session := false } }) ∧
      (∀ v, s.dev.state ≠ .off → s.dbg.session = false → ∃ t, exec (.dtmcs v) s = .next t ∧ t.dbg.session = true ∧
        t.dbg.dr = s.dbg.dtmcs.setWidth 64 ∧ (t.isrc 196).pending = true ∧ t.evr = (raise s 0x1108 0x13 []).evr ∧
        (t.tru.log.getLast?.map fun e => (e.typ, e.mr)) = some (0x70, 7)) ∧
      (s.dev.state ≠ .off → s.dbg.session = true →
        (∀ v, ∃ t, exec (.dtmcs v) s = .next t ∧ t.dbg.dr = s.dbg.dtmcs.setWidth 64 ∧ t = { s with dbg := t.dbg }) ∧
        (∀ d : BitVec 32, (dmGet s 0x10).testBit 0 = true → ∃ t, exec (.dmi (BitVec.ofNat 41 (4 * 2 ^ 34 + d.toNat * 4 + 2))) s = .next t ∧
          fget t.dbg.dmi 0#32 4 = d ∧ t = { s with dbg := t.dbg }) ∧
        (dbgLive s = true → ∃ t, exec (.cdbg (BitVec.ofNat 32 (2 ^ 29))) s = .next t ∧ t.dev.state = .halted ∧ t.dbg.cause = 6 ∧ t.dbg.ir = 0x18) ∧
        (∀ v : BitVec 64,
          (cmemOk s v.toNat = true → v.getLsbD 31 = false → ∃ t, exec (.cmem v) s = .next t ∧ t.dbg.dr = s.dbg.cmem ∧
            t.dbg.cmem = BitVec.ofNat 64 (leNat (dbgRead s (cmemTarget v.toNat) 0 4) * 2 ^ 32 + 2 ^ 31) ∧ t = { s with dbg := t.dbg }) ∧
          (cmemOk s v.toNat = false → ∃ t, exec (.cmem v) s = .next t ∧ t.dbg.dr = s.dbg.cmem ∧ t.dbg.cmem = BitVec.ofNat 64 (2 ^ 30) ∧
            t = { s with dbg := t.dbg }))))

/-! ### An empty queue -/

/-- What a step does when no command waits is the model's choice (log 3): the next waiting dictionary request is served, the paths in turn (R427), and
with none one W-cycle passes. In OFF only the Gauge's time goes on; while an Eddy lasts
the W-cycles count, the S-cycle stands, and a waiting router write takes the free slots of its banks (R44, R47, R258, R325). -/
def Obligations.IdleStepIsOneWCycle : Prop :=
  ∀ (s : State), s.pending = [] →
    (∀ p i rest t, nextPath s = some p → waitsOn s p = i :: rest →
      exec i (setWaits { s with mgm := { s.mgm with lastPath := pathNo p } } p []) = .next t → step s = .next (setWaits t p rest)) ∧
    (∀ p, pathUp s p = true → dictHart s = true → waitsOn s p ≠ [] →
      ((∀ p', p' ≠ p → waitsOn s p' = []) → nextPath s = some p) ∧ (s.mgm.lastPath = 1 - pathNo p → nextPath s = some p)) ∧
    (dictHart s = false → nextPath s = none) ∧ ((∀ p, waitsOn s p = []) → nextPath s = none) ∧
    (nextPath s = none →
    let d := (s.fab.frac + 1000) / max 1 s.pwr.freq
    (s.dev.state = .off → sRun s = false → s.sch.job = false → ∃ t, step s = .next t ∧
      t = { s with gau := t.gau, fab := { s.fab with frac := (s.fab.frac + 1000) % max 1 s.pwr.freq } } ∧
      (s.gau.on = true → 1000000 * t.gau.time + t.gau.frac = 1000000 * s.gau.time + s.gau.frac + d) ∧ (s.gau.on = false → t.gau = s.gau)) ∧
    (s.sch.job = true → s.dev.state = .running → s.wts.reqs = [] → s.beds.waiting = [] → s.sch.replay = none → s.pwr.newFreq = none → s.sch.weirPhase = 0 →
      s.sch.eddyNs = 0 →
      d ≤ s.sch.eddyLimit * 1000000 → s.sch.causes ≠ [] → (∀ c ∈ s.sch.causes, ∃ w, c.untilW = some w ∧ s.sch.wCycle + 1 < w) →
      ∃ t, step s = .next t ∧ t.sch.wCycle = s.sch.wCycle + 1 ∧ t.sch.eddyW = s.sch.eddyW + 1 ∧ t.sch.sCycle = s.sch.sCycle ∧
        t.sch.causes = s.sch.causes ∧ (s.fab.narrow = [] → t.cores = s.cores) ∧
        (∀ n, s.fab.narrow = [n] → n.lo = false → n.hi = false → s.sch.arbBusy = [] → n.data.length = 64 →
          rowBank (bankBits n.core) (n.addr / 32) ≠ rowBank (bankBits n.core) ((n.addr + 32) / 32) →
          segRangeOn (segTakes s n.core) (spadBytes n.core) n.addr 64 = true →
          Stores s t n.core n.addr n.data ∧ OtherCores s t n.core ∧ t.fab.narrow = [] ∧
            fget t.fab.halves 0 n.key = min 65535 (fget s.fab.halves 0 n.key + 1)) ∧
        (∀ n, fget t.sch.perCause 0 n = fget s.sch.perCause 0 n + if hasCause s n then 1 else 0)) ∧
    (s.sch.job = false → s.dev.state = .ready → s.wts.reqs = [] → s.beds.waiting = [] → s.fab.narrow = [] → ∃ t, step s = .next t ∧ t.sch = s.sch ∧ t.cores = s.cores))

/-! ### Frames of the engines -/

/-- What an operation of an array or a fixed-function engine leaves alone: other cores, the flags, scalars, vector registers and sequencer of its
core, the other arrays, every byte outside its destination operand, and everything outside the cores but event records, the counter of free values, a
requested halt and the commits of a verify. -/
def Obligations.EngineFrame : Prop :=
  ∀ (c : CoreId) (a : Fin 4) (s t : State),
    (∀ i ∈ [.stload c a, .sndload c a, .swap c a, .stream c a, .soundingEvaluate c a], exec i s = .next t →
      OtherCores s t c.val ∧ t = { s with cores := t.cores, evr := t.evr, free := t.free, sch := { s.sch with haltReq := t.sch.haltReq } } ∧
      (∀ b, b ≠ a.val → (t.core c.val).arr b = (s.core c.val).arr b) ∧
      ∃ k : Core, t.core c.val = { s.core c.val with arrays := k.arrays, sticky := k.sticky, stickySet := k.stickySet, run := k.run }) ∧
    (∀ p ∈ [(.drain c a, a.val, 0x13), (.softmax c, 5, 0x30), (.rmsnorm c, 6, 0x40), (.layernorm c, 6, 0x41), (.rotary c, 7, 0x50), (.unpack c, 8, 0x60),
        (.split c, 8, 0x61), (.gather c, 9, 0x70), (.sample c, 10, 0x80), (.verify c, 11, 0x90)],
      ∀ r : RunOp, Performs s c.val p.2.1 p.2.2 r → (∀ x, operand s c.val r.item.desc 3 = some x → x.loc = .spad c.val) → exec p.1 s = .next t →
        OtherCores s t c.val ∧ t = { s with cores := t.cores, evr := t.evr, free := t.free, srv := t.srv } ∧
        (p.1 ≠ .verify c → t.srv = s.srv) ∧ (∀ b, (b ≠ a.val ∨ p.1 ≠ .drain c a) → (t.core c.val).arr b = (s.core c.val).arr b) ∧
        (∀ b, (∀ x, operand s c.val r.item.desc 3 = some x → b < x.a ∨ x.a + x.bytes ≤ b) → mget (t.core c.val).spad b = mget (s.core c.val).spad b) ∧
        ∃ k : Core, t.core c.val = { s.core c.val with
          spad := k.spad, bad := k.bad, wrote := k.wrote, arrays := k.arrays, sticky := k.sticky, stickySet := k.stickySet, run := k.run })

end Slice0Obligations
end

