-- ==== Sys2Proof/Laws/Maps.lean ====
section
/-! SUPPORT. Laws of sparse maps, memories and byte strings: what a read sees after a write, and that every operation keeps the canonical form
(log 1). -/

namespace Sys2Proof.Machine

/-! ### Sparse maps -/

section
variable {α : Type} [DecidableEq α]

/-- Writing the default at a key makes it read the default, and leaves every other key. -/
theorem fget_fset_default (m : FMap α) (d : α) (i j : Nat) (e : α) :
    fget (fset m d i d) e j = if j = i then e else fget m e j := by
  induction m with
  | nil => simp [fset, fget]
  | cons p r ih =>
    obtain ⟨k, w⟩ := p
    simp only [fset, if_true]
    by_cases hk : i = k
    · subst hk
      simp only [if_true, ih, fget]
      split <;> rfl
    · have e1 : (if i < k then (k, w) :: fset r d i d else (k, w) :: fset r d i d) = (k, w) :: fset r d i d := ite_self _
      simp only [hk, if_false, e1, fget, ih]
      split <;> split <;> first | rfl | omega

/-- A read after a write of the same default: the written key has the new value, every other key its old one. -/
theorem fget_fset (m : FMap α) (d : α) (i j : Nat) (v : α) :
    fget (fset m d i v) d j = if j = i then v else fget m d j := by
  by_cases hv : v = d
  · subst hv; exact fget_fset_default m v i j v
  · induction m with
    | nil => simp only [fset, hv, if_false, fget]
    | cons p r ih =>
      obtain ⟨k, w⟩ := p
      simp only [fset, hv, if_false]
      split
      · next h => subst h; simp only [fget]; split <;> rfl
      · split
        · simp only [fget]
        · simp only [fget, ih]
          split <;> split <;> first | rfl | omega

/-- The key written reads the value written. -/
@[simp] theorem fget_fset_same (m : FMap α) (d : α) (i : Nat) (v : α) : fget (fset m d i v) d i = v := by simp [fget_fset]

/-- Another key reads as before, whatever default the reader takes. -/
theorem fget_fset_ne (m : FMap α) (d e : α) (i j : Nat) (v : α) (h : j ≠ i) : fget (fset m d i v) e j = fget m e j := by
  by_cases hv : v = d
  · subst hv; rw [fget_fset_default, if_neg h]
  · induction m with
    | nil => simp [fset, hv, fget, h]
    | cons p r ih =>
      obtain ⟨k, w⟩ := p
      simp only [fset, hv, if_false]
      split
      · next hk => subst hk; simp [fget, h]
      · split
        · simp [fget, h]
        · simp only [fget, ih]

/-- A read after an update by a function. -/
theorem fget_fmod (m : FMap α) (d : α) (i j : Nat) (f : α → α) :
    fget (fmod m d i f) d j = if j = i then f (fget m d i) else fget m d j := fget_fset m d i j _

omit [DecidableEq α] in
/-- A removed key reads the default, and every other key as before. -/
theorem fget_fdel (m : FMap α) (d : α) (i j : Nat) : fget (fdel m i) d j = if j = i then d else fget m d j := by
  induction m with
  | nil => simp [fdel, fget]
  | cons p r ih =>
    obtain ⟨k, w⟩ := p
    simp only [fdel, List.filter] at ih ⊢
    by_cases hk : k = i
    · subst hk; simp only [bne_self_eq_false, ih, fget]; split <;> rfl
    · have : (k != i) = true := by simpa using hk
      simp only [this, fget, ih]
      split
      · next h => subst h; simp [hk]
      · rfl

/-- A map that is canonical above a bound is canonical above a lower one. -/
theorem fwfFrom_le (d : α) (m : FMap α) {lo hi : Nat} (h : lo ≤ hi) (w : fwfFrom d hi m = true) : fwfFrom d lo m = true := by
  cases m with
  | nil => rfl
  | cons p r => simp only [fwfFrom, Bool.and_eq_true, decide_eq_true_eq] at w ⊢; exact ⟨⟨by omega, w.1.2⟩, w.2⟩

/-- Writing the default keeps the canonical form. -/
theorem fwfFrom_fset_default (d : α) (m : FMap α) (i lo : Nat) (w : fwfFrom d lo m = true) : fwfFrom d lo (fset m d i d) = true := by
  induction m generalizing lo with
  | nil => simp [fset, fwfFrom]
  | cons p r ih =>
    obtain ⟨k, x⟩ := p
    simp only [fwfFrom, Bool.and_eq_true, decide_eq_true_eq] at w
    simp only [fset, if_true]
    by_cases hk : i = k
    · rw [if_pos hk]; exact fwfFrom_le d _ (by omega) (ih (k + 1) w.2)
    · rw [if_neg hk, ite_self]
      simp only [fwfFrom, Bool.and_eq_true, decide_eq_true_eq]
      exact ⟨w.1, ih (k + 1) w.2⟩

/-- A write keeps the canonical form above any bound that the key respects. -/
theorem fwfFrom_fset (d : α) (m : FMap α) (i lo : Nat) (v : α) (hi : lo ≤ i) (w : fwfFrom d lo m = true) : fwfFrom d lo (fset m d i v) = true := by
  by_cases hv : v = d
  · subst hv; exact fwfFrom_fset_default v m i lo w
  · induction m generalizing lo with
    | nil => simp [fset, hv, fwfFrom, hi]
    | cons p r ih =>
      obtain ⟨k, x⟩ := p
      simp only [fwfFrom, Bool.and_eq_true, decide_eq_true_eq] at w
      simp only [fset, hv, if_false]
      split
      · next h => subst h; simp [fwfFrom, hv, hi, w.2]
      · split
        · next h => simp [fwfFrom, hv, hi, w.1.2, w.2]; omega
        · simp only [fwfFrom, Bool.and_eq_true, decide_eq_true_eq]
          exact ⟨w.1, ih (k + 1) (by omega) w.2⟩

/-- A write keeps the canonical form. -/
theorem fwf_fset (d : α) (m : FMap α) (i : Nat) (v : α) (w : fwf d m = true) : fwf d (fset m d i v) = true :=
  fwfFrom_fset d m i 0 v (Nat.zero_le _) w

/-- Dropping entries keeps the canonical form above a bound. -/
theorem fwfFrom_filter (d : α) (m : FMap α) (p : Nat × α → Bool) (lo : Nat) (w : fwfFrom d lo m = true) : fwfFrom d lo (m.filter p) = true := by
  induction m generalizing lo with
  | nil => rfl
  | cons x r ih =>
    obtain ⟨k, v⟩ := x
    simp only [fwfFrom, Bool.and_eq_true, decide_eq_true_eq] at w
    simp only [List.filter]
    split
    · simp only [fwfFrom, Bool.and_eq_true, decide_eq_true_eq]; exact ⟨w.1, ih (k + 1) w.2⟩
    · exact fwfFrom_le d _ (by omega) (ih (k + 1) w.2)

/-- Dropping entries keeps the canonical form. -/
theorem fwf_filter (d : α) (m : FMap α) (p : Nat × α → Bool) (w : fwf d m = true) : fwf d (m.filter p) = true := fwfFrom_filter d m p 0 w

/-- An update by a function keeps the canonical form. -/
theorem fwf_fmod (d : α) (m : FMap α) (i : Nat) (f : α → α) (w : fwf d m = true) : fwf d (fmod m d i f) = true := fwf_fset d m i _ w

/-- A removal keeps the canonical form. -/
theorem fwf_fdel (d : α) (m : FMap α) (i : Nat) (w : fwf d m = true) : fwf d (fdel m i) = true := fwf_filter d m _ w

end

/-! ### Memories -/

/-- A byte read after a byte written. -/
theorem mget_mset (m : Mem) (a i : Nat) (b : Byte) : mget (mset m a b) i = if i = a then b else mget m i := fget_fset m 0#8 a i b

/-- An empty memory reads 0. -/
@[simp] theorem mget_nil (a : Nat) : mget [] a = 0#8 := rfl

/-- A byte read after bytes written: the written one inside the range, the old one outside. -/
theorem mget_mwrite (m : Mem) (a i : Nat) (bs : List Byte) :
    mget (mwrite m a bs) i = if a ≤ i ∧ i < a + bs.length then bs.getD (i - a) 0#8 else mget m i := by
  induction bs generalizing m a with
  | nil => simp [mwrite]
  | cons b r ih =>
    simp only [mwrite, ih, mget_mset, List.length_cons]
    by_cases h1 : i = a
    · subst h1; rw [if_neg (by omega), if_pos rfl, if_pos (by omega)]; simp
    · by_cases h2 : a + 1 ≤ i ∧ i < a + 1 + r.length
      · rw [if_pos h2, if_pos (by omega)]
        have : i - a = (i - (a + 1)) + 1 := by omega
        rw [this, List.getD_cons_succ]
      · rw [if_neg h2, if_neg h1, if_neg (by omega)]

/-- A byte read after a range is zeroed. -/
theorem mget_mzero (m : Mem) (lo hi i : Nat) : mget (mzero m lo hi) i = if lo ≤ i ∧ i < hi then 0#8 else mget m i := by
  unfold mget mzero
  induction m with
  | nil => simp [fget]
  | cons p r ih =>
    obtain ⟨k, w⟩ := p
    simp only [List.filter]
    by_cases hk : k < lo ∨ hi ≤ k
    · have : (decide (k < lo) || decide (hi ≤ k)) = true := by simpa using hk
      simp only [this, fget, ih]
      by_cases h : i = k
      · subst h; rw [if_pos rfl, if_pos rfl, if_neg (by omega)]
      · rw [if_neg h, if_neg h]
    · have : (decide (k < lo) || decide (hi ≤ k)) = false := by simpa using hk
      simp only [this, ih, fget]
      by_cases h : i = k
      · subst h; rw [if_pos (by omega), if_pos (by omega)]
      · rw [if_neg h]

/-- Every byte operation keeps the canonical form of a memory. -/
theorem mset_wf (m : Mem) (a : Nat) (b : Byte) (w : Memory.wf m = true) : Memory.wf (mset m a b) = true := fwf_fset 0#8 m a b w

theorem mwrite_wf (m : Mem) (a : Nat) (bs : List Byte) (w : Memory.wf m = true) : Memory.wf (mwrite m a bs) = true := by
  induction bs generalizing m a with
  | nil => exact w
  | cons b r ih => exact ih _ _ (mset_wf m a b w)

theorem mzero_wf (m : Mem) (lo hi : Nat) (w : Memory.wf m = true) : Memory.wf (mzero m lo hi) = true := fwf_filter 0#8 m _ w

theorem mwordSet_wf (m : Mem) (x : Nat) (v : BitVec 32) (w : Memory.wf m = true) : Memory.wf (mwordSet m x v) = true := mwrite_wf m _ _ w

theorem mset_fold_wf (f : Nat → Nat) (g : Nat → Byte) (l : List Nat) (m : Mem) (w : Memory.wf m = true) :
    Memory.wf (l.foldl (fun m i => mset m (f i) (g i)) m) = true := by
  induction l generalizing m with
  | nil => exact w
  | cons x r ih => exact ih _ (mset_wf m _ _ w)

/-! ### Byte strings -/

/-- The bytes read are as many as asked for. -/
@[simp] theorem mread_length (m : Mem) (a n : Nat) : (mread m a n).length = n := by
  induction n generalizing a with
  | zero => rfl
  | succ n ih => simp [mread, ih]

@[simp] theorem leBytes_length (n v : Nat) : (leBytes n v).length = n := by
  induction n generalizing v with
  | zero => rfl
  | succ n ih => simp [leBytes, ih]

@[simp] theorem padTo_length (n : Nat) (bs : List Byte) : (padTo n bs).length = n := by simp [padTo]; omega

/-- The bytes of a value give the value back, modulo what they can hold. -/
theorem leNat_leBytes (n v : Nat) : leNat (leBytes n v) = v % 256 ^ n := by
  induction n generalizing v with
  | zero => simp [leBytes, leNat, Nat.mod_one]
  | succ n ih =>
    simp only [leBytes, leNat, ih, BitVec.toNat_ofNat]
    have e : 256 ^ (n + 1) = 256 * 256 ^ n := by rw [Nat.pow_succ, Nat.mul_comm]
    rw [e, Nat.mod_mul]

/-- A field of the bytes behind a prefix is a field of the whole. -/
theorem fieldAt_append_right (p q : List Byte) (o n : Nat) : fieldAt (p ++ q) (p.length + o) n = fieldAt q o n := by
  induction n generalizing o with
  | zero => rfl
  | succ n ih =>
    have : p.length + o + 1 = p.length + (o + 1) := by omega
    simp only [fieldAt, byteAt, this, ih]
    congr 2
    rw [List.getD_append_right _ _ _ _ (by omega)]
    congr 1; omega

/-- The first field of the bytes of a value. -/
theorem fieldAt_leBytes (n v : Nat) (q : List Byte) : fieldAt (leBytes n v ++ q) 0 n = v % 256 ^ n := by
  induction n generalizing v with
  | zero => simp [fieldAt, Nat.mod_one]
  | succ n ih =>
    have h : fieldAt (leBytes (n + 1) v ++ q) (0 + 1) n = fieldAt (leBytes n (v / 256) ++ q) 0 n :=
      fieldAt_append_right [BitVec.ofNat 8 v] (leBytes n (v / 256) ++ q) 0 n
    simp only [fieldAt, h, ih]
    simp only [byteAt, leBytes, List.cons_append, List.getD_cons_zero, BitVec.toNat_ofNat]
    have e : 256 ^ (n + 1) = 256 * 256 ^ n := by rw [Nat.pow_succ, Nat.mul_comm]
    rw [e, Nat.mod_mul]

end Sys2Proof.Machine
end

