-- ==== Sys2Proof/Laws/State.lean ====
section
/-! SUPPORT. What each update of State leaves: one lemma for each field and update, true by unfolding, so that no proof unfolds a record update; what the
accessors of the tables read after an update; and State's field-by-field extensionality at reset. -/

namespace Sys2Proof.Machine

variable (s : State)


/-! ### `mapCore` -/

@[simp] theorem State.mapCore_pending (c : Nat) (f : Core → Core) : (s.mapCore c f).pending = s.pending := rfl
@[simp] theorem State.mapCore_free (c : Nat) (f : Core → Core) : (s.mapCore c f).free = s.free := rfl
@[simp] theorem State.mapCore_pins (c : Nat) (f : Core → Core) : (s.mapCore c f).pins = s.pins := rfl
@[simp] theorem State.mapCore_dev (c : Nat) (f : Core → Core) : (s.mapCore c f).dev = s.dev := rfl
@[simp] theorem State.mapCore_sch (c : Nat) (f : Core → Core) : (s.mapCore c f).sch = s.sch := rfl
@[simp] theorem State.mapCore_pools (c : Nat) (f : Core → Core) : (s.mapCore c f).pools = s.pools := rfl
@[simp] theorem State.mapCore_beds (c : Nat) (f : Core → Core) : (s.mapCore c f).beds = s.beds := rfl
@[simp] theorem State.mapCore_fab (c : Nat) (f : Core → Core) : (s.mapCore c f).fab = s.fab := rfl
@[simp] theorem State.mapCore_wts (c : Nat) (f : Core → Core) : (s.mapCore c f).wts = s.wts := rfl
@[simp] theorem State.mapCore_srv (c : Nat) (f : Core → Core) : (s.mapCore c f).srv = s.srv := rfl
@[simp] theorem State.mapCore_trib (c : Nat) (f : Core → Core) : (s.mapCore c f).trib = s.trib := rfl
@[simp] theorem State.mapCore_mgm (c : Nat) (f : Core → Core) : (s.mapCore c f).mgm = s.mgm := rfl
@[simp] theorem State.mapCore_pwr (c : Nat) (f : Core → Core) : (s.mapCore c f).pwr = s.pwr := rfl
@[simp] theorem State.mapCore_rep (c : Nat) (f : Core → Core) : (s.mapCore c f).rep = s.rep := rfl
@[simp] theorem State.mapCore_tru (c : Nat) (f : Core → Core) : (s.mapCore c f).tru = s.tru := rfl
@[simp] theorem State.mapCore_gau (c : Nat) (f : Core → Core) : (s.mapCore c f).gau = s.gau := rfl
@[simp] theorem State.mapCore_evr (c : Nat) (f : Core → Core) : (s.mapCore c f).evr = s.evr := rfl
@[simp] theorem State.mapCore_inp (c : Nat) (f : Core → Core) : (s.mapCore c f).inp = s.inp := rfl
@[simp] theorem State.mapCore_dbg (c : Nat) (f : Core → Core) : (s.mapCore c f).dbg = s.dbg := rfl
@[simp] theorem State.mapCore_pool (c : Nat) (f : Core → Core) (k : Nat) : (s.mapCore c f).pool k = s.pool k := rfl
@[simp] theorem State.mapCore_link (c : Nat) (f : Core → Core) (k : Nat) : (s.mapCore c f).link k = s.link k := rfl
@[simp] theorem State.mapCore_slot (c : Nat) (f : Core → Core) (k : Nat) : (s.mapCore c f).slot k = s.slot k := rfl
@[simp] theorem State.mapCore_cmt (c : Nat) (f : Core → Core) (k : Nat) : (s.mapCore c f).cmt k = s.cmt k := rfl
@[simp] theorem State.mapCore_adap (c : Nat) (f : Core → Core) (k : Nat) : (s.mapCore c f).adap k = s.adap k := rfl
@[simp] theorem State.mapCore_hart (c : Nat) (f : Core → Core) (k : Nat) : (s.mapCore c f).hart k = s.hart k := rfl
@[simp] theorem State.mapCore_isrc (c : Nat) (f : Core → Core) (k : Nat) : (s.mapCore c f).isrc k = s.isrc k := rfl
@[simp] theorem State.mapCore_mon (c : Nat) (f : Core → Core) (k : Nat) : (s.mapCore c f).mon k = s.mon k := rfl
@[simp] theorem State.mapCore_now (c : Nat) (f : Core → Core) : (s.mapCore c f).now = s.now := rfl

/-! ### `mapArr` -/

@[simp] theorem State.mapArr_pending (c a : Nat) (f : MxArray → MxArray) : (s.mapArr c a f).pending = s.pending := rfl
@[simp] theorem State.mapArr_free (c a : Nat) (f : MxArray → MxArray) : (s.mapArr c a f).free = s.free := rfl
@[simp] theorem State.mapArr_pins (c a : Nat) (f : MxArray → MxArray) : (s.mapArr c a f).pins = s.pins := rfl
@[simp] theorem State.mapArr_dev (c a : Nat) (f : MxArray → MxArray) : (s.mapArr c a f).dev = s.dev := rfl
@[simp] theorem State.mapArr_sch (c a : Nat) (f : MxArray → MxArray) : (s.mapArr c a f).sch = s.sch := rfl
@[simp] theorem State.mapArr_pools (c a : Nat) (f : MxArray → MxArray) : (s.mapArr c a f).pools = s.pools := rfl
@[simp] theorem State.mapArr_beds (c a : Nat) (f : MxArray → MxArray) : (s.mapArr c a f).beds = s.beds := rfl
@[simp] theorem State.mapArr_fab (c a : Nat) (f : MxArray → MxArray) : (s.mapArr c a f).fab = s.fab := rfl
@[simp] theorem State.mapArr_wts (c a : Nat) (f : MxArray → MxArray) : (s.mapArr c a f).wts = s.wts := rfl
@[simp] theorem State.mapArr_srv (c a : Nat) (f : MxArray → MxArray) : (s.mapArr c a f).srv = s.srv := rfl
@[simp] theorem State.mapArr_trib (c a : Nat) (f : MxArray → MxArray) : (s.mapArr c a f).trib = s.trib := rfl
@[simp] theorem State.mapArr_mgm (c a : Nat) (f : MxArray → MxArray) : (s.mapArr c a f).mgm = s.mgm := rfl
@[simp] theorem State.mapArr_pwr (c a : Nat) (f : MxArray → MxArray) : (s.mapArr c a f).pwr = s.pwr := rfl
@[simp] theorem State.mapArr_rep (c a : Nat) (f : MxArray → MxArray) : (s.mapArr c a f).rep = s.rep := rfl
@[simp] theorem State.mapArr_tru (c a : Nat) (f : MxArray → MxArray) : (s.mapArr c a f).tru = s.tru := rfl
@[simp] theorem State.mapArr_gau (c a : Nat) (f : MxArray → MxArray) : (s.mapArr c a f).gau = s.gau := rfl
@[simp] theorem State.mapArr_evr (c a : Nat) (f : MxArray → MxArray) : (s.mapArr c a f).evr = s.evr := rfl
@[simp] theorem State.mapArr_inp (c a : Nat) (f : MxArray → MxArray) : (s.mapArr c a f).inp = s.inp := rfl
@[simp] theorem State.mapArr_dbg (c a : Nat) (f : MxArray → MxArray) : (s.mapArr c a f).dbg = s.dbg := rfl
@[simp] theorem State.mapArr_pool (c a : Nat) (f : MxArray → MxArray) (k : Nat) : (s.mapArr c a f).pool k = s.pool k := rfl
@[simp] theorem State.mapArr_link (c a : Nat) (f : MxArray → MxArray) (k : Nat) : (s.mapArr c a f).link k = s.link k := rfl
@[simp] theorem State.mapArr_slot (c a : Nat) (f : MxArray → MxArray) (k : Nat) : (s.mapArr c a f).slot k = s.slot k := rfl
@[simp] theorem State.mapArr_cmt (c a : Nat) (f : MxArray → MxArray) (k : Nat) : (s.mapArr c a f).cmt k = s.cmt k := rfl
@[simp] theorem State.mapArr_adap (c a : Nat) (f : MxArray → MxArray) (k : Nat) : (s.mapArr c a f).adap k = s.adap k := rfl
@[simp] theorem State.mapArr_hart (c a : Nat) (f : MxArray → MxArray) (k : Nat) : (s.mapArr c a f).hart k = s.hart k := rfl
@[simp] theorem State.mapArr_isrc (c a : Nat) (f : MxArray → MxArray) (k : Nat) : (s.mapArr c a f).isrc k = s.isrc k := rfl
@[simp] theorem State.mapArr_mon (c a : Nat) (f : MxArray → MxArray) (k : Nat) : (s.mapArr c a f).mon k = s.mon k := rfl
@[simp] theorem State.mapArr_now (c a : Nat) (f : MxArray → MxArray) : (s.mapArr c a f).now = s.now := rfl

/-! ### `mapPool` -/

@[simp] theorem State.mapPool_pending (c : Nat) (f : Pool → Pool) : (s.mapPool c f).pending = s.pending := rfl
@[simp] theorem State.mapPool_free (c : Nat) (f : Pool → Pool) : (s.mapPool c f).free = s.free := rfl
@[simp] theorem State.mapPool_pins (c : Nat) (f : Pool → Pool) : (s.mapPool c f).pins = s.pins := rfl
@[simp] theorem State.mapPool_dev (c : Nat) (f : Pool → Pool) : (s.mapPool c f).dev = s.dev := rfl
@[simp] theorem State.mapPool_sch (c : Nat) (f : Pool → Pool) : (s.mapPool c f).sch = s.sch := rfl
@[simp] theorem State.mapPool_cores (c : Nat) (f : Pool → Pool) : (s.mapPool c f).cores = s.cores := rfl
@[simp] theorem State.mapPool_beds (c : Nat) (f : Pool → Pool) : (s.mapPool c f).beds = s.beds := rfl
@[simp] theorem State.mapPool_fab (c : Nat) (f : Pool → Pool) : (s.mapPool c f).fab = s.fab := rfl
@[simp] theorem State.mapPool_wts (c : Nat) (f : Pool → Pool) : (s.mapPool c f).wts = s.wts := rfl
@[simp] theorem State.mapPool_srv (c : Nat) (f : Pool → Pool) : (s.mapPool c f).srv = s.srv := rfl
@[simp] theorem State.mapPool_trib (c : Nat) (f : Pool → Pool) : (s.mapPool c f).trib = s.trib := rfl
@[simp] theorem State.mapPool_mgm (c : Nat) (f : Pool → Pool) : (s.mapPool c f).mgm = s.mgm := rfl
@[simp] theorem State.mapPool_pwr (c : Nat) (f : Pool → Pool) : (s.mapPool c f).pwr = s.pwr := rfl
@[simp] theorem State.mapPool_rep (c : Nat) (f : Pool → Pool) : (s.mapPool c f).rep = s.rep := rfl
@[simp] theorem State.mapPool_tru (c : Nat) (f : Pool → Pool) : (s.mapPool c f).tru = s.tru := rfl
@[simp] theorem State.mapPool_gau (c : Nat) (f : Pool → Pool) : (s.mapPool c f).gau = s.gau := rfl
@[simp] theorem State.mapPool_evr (c : Nat) (f : Pool → Pool) : (s.mapPool c f).evr = s.evr := rfl
@[simp] theorem State.mapPool_inp (c : Nat) (f : Pool → Pool) : (s.mapPool c f).inp = s.inp := rfl
@[simp] theorem State.mapPool_dbg (c : Nat) (f : Pool → Pool) : (s.mapPool c f).dbg = s.dbg := rfl
@[simp] theorem State.mapPool_core (c : Nat) (f : Pool → Pool) (k : Nat) : (s.mapPool c f).core k = s.core k := rfl
@[simp] theorem State.mapPool_link (c : Nat) (f : Pool → Pool) (k : Nat) : (s.mapPool c f).link k = s.link k := rfl
@[simp] theorem State.mapPool_slot (c : Nat) (f : Pool → Pool) (k : Nat) : (s.mapPool c f).slot k = s.slot k := rfl
@[simp] theorem State.mapPool_cmt (c : Nat) (f : Pool → Pool) (k : Nat) : (s.mapPool c f).cmt k = s.cmt k := rfl
@[simp] theorem State.mapPool_adap (c : Nat) (f : Pool → Pool) (k : Nat) : (s.mapPool c f).adap k = s.adap k := rfl
@[simp] theorem State.mapPool_hart (c : Nat) (f : Pool → Pool) (k : Nat) : (s.mapPool c f).hart k = s.hart k := rfl
@[simp] theorem State.mapPool_isrc (c : Nat) (f : Pool → Pool) (k : Nat) : (s.mapPool c f).isrc k = s.isrc k := rfl
@[simp] theorem State.mapPool_mon (c : Nat) (f : Pool → Pool) (k : Nat) : (s.mapPool c f).mon k = s.mon k := rfl
@[simp] theorem State.mapPool_now (c : Nat) (f : Pool → Pool) : (s.mapPool c f).now = s.now := rfl

/-! ### `mapLink` -/

@[simp] theorem State.mapLink_pending (l : Nat) (f : Link → Link) : (s.mapLink l f).pending = s.pending := rfl
@[simp] theorem State.mapLink_free (l : Nat) (f : Link → Link) : (s.mapLink l f).free = s.free := rfl
@[simp] theorem State.mapLink_pins (l : Nat) (f : Link → Link) : (s.mapLink l f).pins = s.pins := rfl
@[simp] theorem State.mapLink_dev (l : Nat) (f : Link → Link) : (s.mapLink l f).dev = s.dev := rfl
@[simp] theorem State.mapLink_sch (l : Nat) (f : Link → Link) : (s.mapLink l f).sch = s.sch := rfl
@[simp] theorem State.mapLink_cores (l : Nat) (f : Link → Link) : (s.mapLink l f).cores = s.cores := rfl
@[simp] theorem State.mapLink_pools (l : Nat) (f : Link → Link) : (s.mapLink l f).pools = s.pools := rfl
@[simp] theorem State.mapLink_beds (l : Nat) (f : Link → Link) : (s.mapLink l f).beds = s.beds := rfl
@[simp] theorem State.mapLink_wts (l : Nat) (f : Link → Link) : (s.mapLink l f).wts = s.wts := rfl
@[simp] theorem State.mapLink_srv (l : Nat) (f : Link → Link) : (s.mapLink l f).srv = s.srv := rfl
@[simp] theorem State.mapLink_trib (l : Nat) (f : Link → Link) : (s.mapLink l f).trib = s.trib := rfl
@[simp] theorem State.mapLink_mgm (l : Nat) (f : Link → Link) : (s.mapLink l f).mgm = s.mgm := rfl
@[simp] theorem State.mapLink_pwr (l : Nat) (f : Link → Link) : (s.mapLink l f).pwr = s.pwr := rfl
@[simp] theorem State.mapLink_rep (l : Nat) (f : Link → Link) : (s.mapLink l f).rep = s.rep := rfl
@[simp] theorem State.mapLink_tru (l : Nat) (f : Link → Link) : (s.mapLink l f).tru = s.tru := rfl
@[simp] theorem State.mapLink_gau (l : Nat) (f : Link → Link) : (s.mapLink l f).gau = s.gau := rfl
@[simp] theorem State.mapLink_evr (l : Nat) (f : Link → Link) : (s.mapLink l f).evr = s.evr := rfl
@[simp] theorem State.mapLink_inp (l : Nat) (f : Link → Link) : (s.mapLink l f).inp = s.inp := rfl
@[simp] theorem State.mapLink_dbg (l : Nat) (f : Link → Link) : (s.mapLink l f).dbg = s.dbg := rfl
@[simp] theorem State.mapLink_core (l : Nat) (f : Link → Link) (k : Nat) : (s.mapLink l f).core k = s.core k := rfl
@[simp] theorem State.mapLink_pool (l : Nat) (f : Link → Link) (k : Nat) : (s.mapLink l f).pool k = s.pool k := rfl
@[simp] theorem State.mapLink_slot (l : Nat) (f : Link → Link) (k : Nat) : (s.mapLink l f).slot k = s.slot k := rfl
@[simp] theorem State.mapLink_cmt (l : Nat) (f : Link → Link) (k : Nat) : (s.mapLink l f).cmt k = s.cmt k := rfl
@[simp] theorem State.mapLink_adap (l : Nat) (f : Link → Link) (k : Nat) : (s.mapLink l f).adap k = s.adap k := rfl
@[simp] theorem State.mapLink_hart (l : Nat) (f : Link → Link) (k : Nat) : (s.mapLink l f).hart k = s.hart k := rfl
@[simp] theorem State.mapLink_isrc (l : Nat) (f : Link → Link) (k : Nat) : (s.mapLink l f).isrc k = s.isrc k := rfl
@[simp] theorem State.mapLink_mon (l : Nat) (f : Link → Link) (k : Nat) : (s.mapLink l f).mon k = s.mon k := rfl

/-! ### `mapSlot` -/

@[simp] theorem State.mapSlot_pending (i : Nat) (f : Slot → Slot) : (s.mapSlot i f).pending = s.pending := rfl
@[simp] theorem State.mapSlot_free (i : Nat) (f : Slot → Slot) : (s.mapSlot i f).free = s.free := rfl
@[simp] theorem State.mapSlot_pins (i : Nat) (f : Slot → Slot) : (s.mapSlot i f).pins = s.pins := rfl
@[simp] theorem State.mapSlot_dev (i : Nat) (f : Slot → Slot) : (s.mapSlot i f).dev = s.dev := rfl
@[simp] theorem State.mapSlot_sch (i : Nat) (f : Slot → Slot) : (s.mapSlot i f).sch = s.sch := rfl
@[simp] theorem State.mapSlot_cores (i : Nat) (f : Slot → Slot) : (s.mapSlot i f).cores = s.cores := rfl
@[simp] theorem State.mapSlot_pools (i : Nat) (f : Slot → Slot) : (s.mapSlot i f).pools = s.pools := rfl
@[simp] theorem State.mapSlot_beds (i : Nat) (f : Slot → Slot) : (s.mapSlot i f).beds = s.beds := rfl
@[simp] theorem State.mapSlot_fab (i : Nat) (f : Slot → Slot) : (s.mapSlot i f).fab = s.fab := rfl
@[simp] theorem State.mapSlot_wts (i : Nat) (f : Slot → Slot) : (s.mapSlot i f).wts = s.wts := rfl
@[simp] theorem State.mapSlot_trib (i : Nat) (f : Slot → Slot) : (s.mapSlot i f).trib = s.trib := rfl
@[simp] theorem State.mapSlot_mgm (i : Nat) (f : Slot → Slot) : (s.mapSlot i f).mgm = s.mgm := rfl
@[simp] theorem State.mapSlot_pwr (i : Nat) (f : Slot → Slot) : (s.mapSlot i f).pwr = s.pwr := rfl
@[simp] theorem State.mapSlot_rep (i : Nat) (f : Slot → Slot) : (s.mapSlot i f).rep = s.rep := rfl
@[simp] theorem State.mapSlot_tru (i : Nat) (f : Slot → Slot) : (s.mapSlot i f).tru = s.tru := rfl
@[simp] theorem State.mapSlot_gau (i : Nat) (f : Slot → Slot) : (s.mapSlot i f).gau = s.gau := rfl
@[simp] theorem State.mapSlot_evr (i : Nat) (f : Slot → Slot) : (s.mapSlot i f).evr = s.evr := rfl
@[simp] theorem State.mapSlot_inp (i : Nat) (f : Slot → Slot) : (s.mapSlot i f).inp = s.inp := rfl
@[simp] theorem State.mapSlot_dbg (i : Nat) (f : Slot → Slot) : (s.mapSlot i f).dbg = s.dbg := rfl
@[simp] theorem State.mapSlot_core (i : Nat) (f : Slot → Slot) (k : Nat) : (s.mapSlot i f).core k = s.core k := rfl
@[simp] theorem State.mapSlot_pool (i : Nat) (f : Slot → Slot) (k : Nat) : (s.mapSlot i f).pool k = s.pool k := rfl
@[simp] theorem State.mapSlot_link (i : Nat) (f : Slot → Slot) (k : Nat) : (s.mapSlot i f).link k = s.link k := rfl
@[simp] theorem State.mapSlot_hart (i : Nat) (f : Slot → Slot) (k : Nat) : (s.mapSlot i f).hart k = s.hart k := rfl
@[simp] theorem State.mapSlot_isrc (i : Nat) (f : Slot → Slot) (k : Nat) : (s.mapSlot i f).isrc k = s.isrc k := rfl
@[simp] theorem State.mapSlot_mon (i : Nat) (f : Slot → Slot) (k : Nat) : (s.mapSlot i f).mon k = s.mon k := rfl
@[simp] theorem State.mapSlot_now (i : Nat) (f : Slot → Slot) : (s.mapSlot i f).now = s.now := rfl

/-! ### `mapCmt` -/

@[simp] theorem State.mapCmt_pending (i : Nat) (f : CommitSt → CommitSt) : (s.mapCmt i f).pending = s.pending := rfl
@[simp] theorem State.mapCmt_free (i : Nat) (f : CommitSt → CommitSt) : (s.mapCmt i f).free = s.free := rfl
@[simp] theorem State.mapCmt_pins (i : Nat) (f : CommitSt → CommitSt) : (s.mapCmt i f).pins = s.pins := rfl
@[simp] theorem State.mapCmt_dev (i : Nat) (f : CommitSt → CommitSt) : (s.mapCmt i f).dev = s.dev := rfl
@[simp] theorem State.mapCmt_sch (i : Nat) (f : CommitSt → CommitSt) : (s.mapCmt i f).sch = s.sch := rfl
@[simp] theorem State.mapCmt_cores (i : Nat) (f : CommitSt → CommitSt) : (s.mapCmt i f).cores = s.cores := rfl
@[simp] theorem State.mapCmt_pools (i : Nat) (f : CommitSt → CommitSt) : (s.mapCmt i f).pools = s.pools := rfl
@[simp] theorem State.mapCmt_beds (i : Nat) (f : CommitSt → CommitSt) : (s.mapCmt i f).beds = s.beds := rfl
@[simp] theorem State.mapCmt_fab (i : Nat) (f : CommitSt → CommitSt) : (s.mapCmt i f).fab = s.fab := rfl
@[simp] theorem State.mapCmt_wts (i : Nat) (f : CommitSt → CommitSt) : (s.mapCmt i f).wts = s.wts := rfl
@[simp] theorem State.mapCmt_trib (i : Nat) (f : CommitSt → CommitSt) : (s.mapCmt i f).trib = s.trib := rfl
@[simp] theorem State.mapCmt_mgm (i : Nat) (f : CommitSt → CommitSt) : (s.mapCmt i f).mgm = s.mgm := rfl
@[simp] theorem State.mapCmt_pwr (i : Nat) (f : CommitSt → CommitSt) : (s.mapCmt i f).pwr = s.pwr := rfl
@[simp] theorem State.mapCmt_rep (i : Nat) (f : CommitSt → CommitSt) : (s.mapCmt i f).rep = s.rep := rfl
@[simp] theorem State.mapCmt_tru (i : Nat) (f : CommitSt → CommitSt) : (s.mapCmt i f).tru = s.tru := rfl
@[simp] theorem State.mapCmt_gau (i : Nat) (f : CommitSt → CommitSt) : (s.mapCmt i f).gau = s.gau := rfl
@[simp] theorem State.mapCmt_evr (i : Nat) (f : CommitSt → CommitSt) : (s.mapCmt i f).evr = s.evr := rfl
@[simp] theorem State.mapCmt_inp (i : Nat) (f : CommitSt → CommitSt) : (s.mapCmt i f).inp = s.inp := rfl
@[simp] theorem State.mapCmt_dbg (i : Nat) (f : CommitSt → CommitSt) : (s.mapCmt i f).dbg = s.dbg := rfl
@[simp] theorem State.mapCmt_core (i : Nat) (f : CommitSt → CommitSt) (k : Nat) : (s.mapCmt i f).core k = s.core k := rfl
@[simp] theorem State.mapCmt_pool (i : Nat) (f : CommitSt → CommitSt) (k : Nat) : (s.mapCmt i f).pool k = s.pool k := rfl
@[simp] theorem State.mapCmt_link (i : Nat) (f : CommitSt → CommitSt) (k : Nat) : (s.mapCmt i f).link k = s.link k := rfl
@[simp] theorem State.mapCmt_hart (i : Nat) (f : CommitSt → CommitSt) (k : Nat) : (s.mapCmt i f).hart k = s.hart k := rfl
@[simp] theorem State.mapCmt_isrc (i : Nat) (f : CommitSt → CommitSt) (k : Nat) : (s.mapCmt i f).isrc k = s.isrc k := rfl
@[simp] theorem State.mapCmt_mon (i : Nat) (f : CommitSt → CommitSt) (k : Nat) : (s.mapCmt i f).mon k = s.mon k := rfl
@[simp] theorem State.mapCmt_now (i : Nat) (f : CommitSt → CommitSt) : (s.mapCmt i f).now = s.now := rfl

/-! ### `mapAdap` -/

@[simp] theorem State.mapAdap_pending (i : Nat) (f : Adapter → Adapter) : (s.mapAdap i f).pending = s.pending := rfl
@[simp] theorem State.mapAdap_free (i : Nat) (f : Adapter → Adapter) : (s.mapAdap i f).free = s.free := rfl
@[simp] theorem State.mapAdap_pins (i : Nat) (f : Adapter → Adapter) : (s.mapAdap i f).pins = s.pins := rfl
@[simp] theorem State.mapAdap_dev (i : Nat) (f : Adapter → Adapter) : (s.mapAdap i f).dev = s.dev := rfl
@[simp] theorem State.mapAdap_sch (i : Nat) (f : Adapter → Adapter) : (s.mapAdap i f).sch = s.sch := rfl
@[simp] theorem State.mapAdap_cores (i : Nat) (f : Adapter → Adapter) : (s.mapAdap i f).cores = s.cores := rfl
@[simp] theorem State.mapAdap_pools (i : Nat) (f : Adapter → Adapter) : (s.mapAdap i f).pools = s.pools := rfl
@[simp] theorem State.mapAdap_beds (i : Nat) (f : Adapter → Adapter) : (s.mapAdap i f).beds = s.beds := rfl
@[simp] theorem State.mapAdap_fab (i : Nat) (f : Adapter → Adapter) : (s.mapAdap i f).fab = s.fab := rfl
@[simp] theorem State.mapAdap_wts (i : Nat) (f : Adapter → Adapter) : (s.mapAdap i f).wts = s.wts := rfl
@[simp] theorem State.mapAdap_trib (i : Nat) (f : Adapter → Adapter) : (s.mapAdap i f).trib = s.trib := rfl
@[simp] theorem State.mapAdap_mgm (i : Nat) (f : Adapter → Adapter) : (s.mapAdap i f).mgm = s.mgm := rfl
@[simp] theorem State.mapAdap_pwr (i : Nat) (f : Adapter → Adapter) : (s.mapAdap i f).pwr = s.pwr := rfl
@[simp] theorem State.mapAdap_rep (i : Nat) (f : Adapter → Adapter) : (s.mapAdap i f).rep = s.rep := rfl
@[simp] theorem State.mapAdap_tru (i : Nat) (f : Adapter → Adapter) : (s.mapAdap i f).tru = s.tru := rfl
@[simp] theorem State.mapAdap_gau (i : Nat) (f : Adapter → Adapter) : (s.mapAdap i f).gau = s.gau := rfl
@[simp] theorem State.mapAdap_evr (i : Nat) (f : Adapter → Adapter) : (s.mapAdap i f).evr = s.evr := rfl
@[simp] theorem State.mapAdap_inp (i : Nat) (f : Adapter → Adapter) : (s.mapAdap i f).inp = s.inp := rfl
@[simp] theorem State.mapAdap_dbg (i : Nat) (f : Adapter → Adapter) : (s.mapAdap i f).dbg = s.dbg := rfl
@[simp] theorem State.mapAdap_core (i : Nat) (f : Adapter → Adapter) (k : Nat) : (s.mapAdap i f).core k = s.core k := rfl
@[simp] theorem State.mapAdap_pool (i : Nat) (f : Adapter → Adapter) (k : Nat) : (s.mapAdap i f).pool k = s.pool k := rfl
@[simp] theorem State.mapAdap_link (i : Nat) (f : Adapter → Adapter) (k : Nat) : (s.mapAdap i f).link k = s.link k := rfl
@[simp] theorem State.mapAdap_hart (i : Nat) (f : Adapter → Adapter) (k : Nat) : (s.mapAdap i f).hart k = s.hart k := rfl
@[simp] theorem State.mapAdap_isrc (i : Nat) (f : Adapter → Adapter) (k : Nat) : (s.mapAdap i f).isrc k = s.isrc k := rfl
@[simp] theorem State.mapAdap_mon (i : Nat) (f : Adapter → Adapter) (k : Nat) : (s.mapAdap i f).mon k = s.mon k := rfl
@[simp] theorem State.mapAdap_now (i : Nat) (f : Adapter → Adapter) : (s.mapAdap i f).now = s.now := rfl

/-! ### `mapHart` -/

@[simp] theorem State.mapHart_pending (h : Nat) (f : Hart → Hart) : (s.mapHart h f).pending = s.pending := rfl
@[simp] theorem State.mapHart_free (h : Nat) (f : Hart → Hart) : (s.mapHart h f).free = s.free := rfl
@[simp] theorem State.mapHart_pins (h : Nat) (f : Hart → Hart) : (s.mapHart h f).pins = s.pins := rfl
@[simp] theorem State.mapHart_dev (h : Nat) (f : Hart → Hart) : (s.mapHart h f).dev = s.dev := rfl
@[simp] theorem State.mapHart_sch (h : Nat) (f : Hart → Hart) : (s.mapHart h f).sch = s.sch := rfl
@[simp] theorem State.mapHart_cores (h : Nat) (f : Hart → Hart) : (s.mapHart h f).cores = s.cores := rfl
@[simp] theorem State.mapHart_pools (h : Nat) (f : Hart → Hart) : (s.mapHart h f).pools = s.pools := rfl
@[simp] theorem State.mapHart_beds (h : Nat) (f : Hart → Hart) : (s.mapHart h f).beds = s.beds := rfl
@[simp] theorem State.mapHart_fab (h : Nat) (f : Hart → Hart) : (s.mapHart h f).fab = s.fab := rfl
@[simp] theorem State.mapHart_wts (h : Nat) (f : Hart → Hart) : (s.mapHart h f).wts = s.wts := rfl
@[simp] theorem State.mapHart_srv (h : Nat) (f : Hart → Hart) : (s.mapHart h f).srv = s.srv := rfl
@[simp] theorem State.mapHart_trib (h : Nat) (f : Hart → Hart) : (s.mapHart h f).trib = s.trib := rfl
@[simp] theorem State.mapHart_pwr (h : Nat) (f : Hart → Hart) : (s.mapHart h f).pwr = s.pwr := rfl
@[simp] theorem State.mapHart_rep (h : Nat) (f : Hart → Hart) : (s.mapHart h f).rep = s.rep := rfl
@[simp] theorem State.mapHart_tru (h : Nat) (f : Hart → Hart) : (s.mapHart h f).tru = s.tru := rfl
@[simp] theorem State.mapHart_gau (h : Nat) (f : Hart → Hart) : (s.mapHart h f).gau = s.gau := rfl
@[simp] theorem State.mapHart_evr (h : Nat) (f : Hart → Hart) : (s.mapHart h f).evr = s.evr := rfl
@[simp] theorem State.mapHart_inp (h : Nat) (f : Hart → Hart) : (s.mapHart h f).inp = s.inp := rfl
@[simp] theorem State.mapHart_dbg (h : Nat) (f : Hart → Hart) : (s.mapHart h f).dbg = s.dbg := rfl
@[simp] theorem State.mapHart_core (h : Nat) (f : Hart → Hart) (k : Nat) : (s.mapHart h f).core k = s.core k := rfl
@[simp] theorem State.mapHart_pool (h : Nat) (f : Hart → Hart) (k : Nat) : (s.mapHart h f).pool k = s.pool k := rfl
@[simp] theorem State.mapHart_link (h : Nat) (f : Hart → Hart) (k : Nat) : (s.mapHart h f).link k = s.link k := rfl
@[simp] theorem State.mapHart_slot (h : Nat) (f : Hart → Hart) (k : Nat) : (s.mapHart h f).slot k = s.slot k := rfl
@[simp] theorem State.mapHart_cmt (h : Nat) (f : Hart → Hart) (k : Nat) : (s.mapHart h f).cmt k = s.cmt k := rfl
@[simp] theorem State.mapHart_adap (h : Nat) (f : Hart → Hart) (k : Nat) : (s.mapHart h f).adap k = s.adap k := rfl
@[simp] theorem State.mapHart_mon (h : Nat) (f : Hart → Hart) (k : Nat) : (s.mapHart h f).mon k = s.mon k := rfl
@[simp] theorem State.mapHart_now (h : Nat) (f : Hart → Hart) : (s.mapHart h f).now = s.now := rfl

/-! ### `mapSrc` -/

@[simp] theorem State.mapSrc_pending (i : Nat) (f : ISrc → ISrc) : (s.mapSrc i f).pending = s.pending := rfl
@[simp] theorem State.mapSrc_free (i : Nat) (f : ISrc → ISrc) : (s.mapSrc i f).free = s.free := rfl
@[simp] theorem State.mapSrc_pins (i : Nat) (f : ISrc → ISrc) : (s.mapSrc i f).pins = s.pins := rfl
@[simp] theorem State.mapSrc_dev (i : Nat) (f : ISrc → ISrc) : (s.mapSrc i f).dev = s.dev := rfl
@[simp] theorem State.mapSrc_sch (i : Nat) (f : ISrc → ISrc) : (s.mapSrc i f).sch = s.sch := rfl
@[simp] theorem State.mapSrc_cores (i : Nat) (f : ISrc → ISrc) : (s.mapSrc i f).cores = s.cores := rfl
@[simp] theorem State.mapSrc_pools (i : Nat) (f : ISrc → ISrc) : (s.mapSrc i f).pools = s.pools := rfl
@[simp] theorem State.mapSrc_beds (i : Nat) (f : ISrc → ISrc) : (s.mapSrc i f).beds = s.beds := rfl
@[simp] theorem State.mapSrc_fab (i : Nat) (f : ISrc → ISrc) : (s.mapSrc i f).fab = s.fab := rfl
@[simp] theorem State.mapSrc_wts (i : Nat) (f : ISrc → ISrc) : (s.mapSrc i f).wts = s.wts := rfl
@[simp] theorem State.mapSrc_srv (i : Nat) (f : ISrc → ISrc) : (s.mapSrc i f).srv = s.srv := rfl
@[simp] theorem State.mapSrc_trib (i : Nat) (f : ISrc → ISrc) : (s.mapSrc i f).trib = s.trib := rfl
@[simp] theorem State.mapSrc_pwr (i : Nat) (f : ISrc → ISrc) : (s.mapSrc i f).pwr = s.pwr := rfl
@[simp] theorem State.mapSrc_rep (i : Nat) (f : ISrc → ISrc) : (s.mapSrc i f).rep = s.rep := rfl
@[simp] theorem State.mapSrc_tru (i : Nat) (f : ISrc → ISrc) : (s.mapSrc i f).tru = s.tru := rfl
@[simp] theorem State.mapSrc_gau (i : Nat) (f : ISrc → ISrc) : (s.mapSrc i f).gau = s.gau := rfl
@[simp] theorem State.mapSrc_evr (i : Nat) (f : ISrc → ISrc) : (s.mapSrc i f).evr = s.evr := rfl
@[simp] theorem State.mapSrc_inp (i : Nat) (f : ISrc → ISrc) : (s.mapSrc i f).inp = s.inp := rfl
@[simp] theorem State.mapSrc_dbg (i : Nat) (f : ISrc → ISrc) : (s.mapSrc i f).dbg = s.dbg := rfl
@[simp] theorem State.mapSrc_core (i : Nat) (f : ISrc → ISrc) (k : Nat) : (s.mapSrc i f).core k = s.core k := rfl
@[simp] theorem State.mapSrc_pool (i : Nat) (f : ISrc → ISrc) (k : Nat) : (s.mapSrc i f).pool k = s.pool k := rfl
@[simp] theorem State.mapSrc_link (i : Nat) (f : ISrc → ISrc) (k : Nat) : (s.mapSrc i f).link k = s.link k := rfl
@[simp] theorem State.mapSrc_slot (i : Nat) (f : ISrc → ISrc) (k : Nat) : (s.mapSrc i f).slot k = s.slot k := rfl
@[simp] theorem State.mapSrc_cmt (i : Nat) (f : ISrc → ISrc) (k : Nat) : (s.mapSrc i f).cmt k = s.cmt k := rfl
@[simp] theorem State.mapSrc_adap (i : Nat) (f : ISrc → ISrc) (k : Nat) : (s.mapSrc i f).adap k = s.adap k := rfl
@[simp] theorem State.mapSrc_mon (i : Nat) (f : ISrc → ISrc) (k : Nat) : (s.mapSrc i f).mon k = s.mon k := rfl
@[simp] theorem State.mapSrc_now (i : Nat) (f : ISrc → ISrc) : (s.mapSrc i f).now = s.now := rfl

/-! ### `mapMon` -/

@[simp] theorem State.mapMon_pending (m : Nat) (f : Monitor → Monitor) : (s.mapMon m f).pending = s.pending := rfl
@[simp] theorem State.mapMon_free (m : Nat) (f : Monitor → Monitor) : (s.mapMon m f).free = s.free := rfl
@[simp] theorem State.mapMon_pins (m : Nat) (f : Monitor → Monitor) : (s.mapMon m f).pins = s.pins := rfl
@[simp] theorem State.mapMon_dev (m : Nat) (f : Monitor → Monitor) : (s.mapMon m f).dev = s.dev := rfl
@[simp] theorem State.mapMon_sch (m : Nat) (f : Monitor → Monitor) : (s.mapMon m f).sch = s.sch := rfl
@[simp] theorem State.mapMon_cores (m : Nat) (f : Monitor → Monitor) : (s.mapMon m f).cores = s.cores := rfl
@[simp] theorem State.mapMon_pools (m : Nat) (f : Monitor → Monitor) : (s.mapMon m f).pools = s.pools := rfl
@[simp] theorem State.mapMon_beds (m : Nat) (f : Monitor → Monitor) : (s.mapMon m f).beds = s.beds := rfl
@[simp] theorem State.mapMon_fab (m : Nat) (f : Monitor → Monitor) : (s.mapMon m f).fab = s.fab := rfl
@[simp] theorem State.mapMon_wts (m : Nat) (f : Monitor → Monitor) : (s.mapMon m f).wts = s.wts := rfl
@[simp] theorem State.mapMon_srv (m : Nat) (f : Monitor → Monitor) : (s.mapMon m f).srv = s.srv := rfl
@[simp] theorem State.mapMon_trib (m : Nat) (f : Monitor → Monitor) : (s.mapMon m f).trib = s.trib := rfl
@[simp] theorem State.mapMon_mgm (m : Nat) (f : Monitor → Monitor) : (s.mapMon m f).mgm = s.mgm := rfl
@[simp] theorem State.mapMon_rep (m : Nat) (f : Monitor → Monitor) : (s.mapMon m f).rep = s.rep := rfl
@[simp] theorem State.mapMon_tru (m : Nat) (f : Monitor → Monitor) : (s.mapMon m f).tru = s.tru := rfl
@[simp] theorem State.mapMon_gau (m : Nat) (f : Monitor → Monitor) : (s.mapMon m f).gau = s.gau := rfl
@[simp] theorem State.mapMon_evr (m : Nat) (f : Monitor → Monitor) : (s.mapMon m f).evr = s.evr := rfl
@[simp] theorem State.mapMon_inp (m : Nat) (f : Monitor → Monitor) : (s.mapMon m f).inp = s.inp := rfl
@[simp] theorem State.mapMon_dbg (m : Nat) (f : Monitor → Monitor) : (s.mapMon m f).dbg = s.dbg := rfl
@[simp] theorem State.mapMon_core (m : Nat) (f : Monitor → Monitor) (k : Nat) : (s.mapMon m f).core k = s.core k := rfl
@[simp] theorem State.mapMon_pool (m : Nat) (f : Monitor → Monitor) (k : Nat) : (s.mapMon m f).pool k = s.pool k := rfl
@[simp] theorem State.mapMon_link (m : Nat) (f : Monitor → Monitor) (k : Nat) : (s.mapMon m f).link k = s.link k := rfl
@[simp] theorem State.mapMon_slot (m : Nat) (f : Monitor → Monitor) (k : Nat) : (s.mapMon m f).slot k = s.slot k := rfl
@[simp] theorem State.mapMon_cmt (m : Nat) (f : Monitor → Monitor) (k : Nat) : (s.mapMon m f).cmt k = s.cmt k := rfl
@[simp] theorem State.mapMon_adap (m : Nat) (f : Monitor → Monitor) (k : Nat) : (s.mapMon m f).adap k = s.adap k := rfl
@[simp] theorem State.mapMon_hart (m : Nat) (f : Monitor → Monitor) (k : Nat) : (s.mapMon m f).hart k = s.hart k := rfl
@[simp] theorem State.mapMon_isrc (m : Nat) (f : Monitor → Monitor) (k : Nat) : (s.mapMon m f).isrc k = s.isrc k := rfl
@[simp] theorem State.mapMon_now (m : Nat) (f : Monitor → Monitor) : (s.mapMon m f).now = s.now := rfl

/-! ### `mapSch` -/

@[simp] theorem State.mapSch_pending (f : Sched → Sched) : (s.mapSch f).pending = s.pending := rfl
@[simp] theorem State.mapSch_free (f : Sched → Sched) : (s.mapSch f).free = s.free := rfl
@[simp] theorem State.mapSch_pins (f : Sched → Sched) : (s.mapSch f).pins = s.pins := rfl
@[simp] theorem State.mapSch_dev (f : Sched → Sched) : (s.mapSch f).dev = s.dev := rfl
@[simp] theorem State.mapSch_cores (f : Sched → Sched) : (s.mapSch f).cores = s.cores := rfl
@[simp] theorem State.mapSch_pools (f : Sched → Sched) : (s.mapSch f).pools = s.pools := rfl
@[simp] theorem State.mapSch_beds (f : Sched → Sched) : (s.mapSch f).beds = s.beds := rfl
@[simp] theorem State.mapSch_fab (f : Sched → Sched) : (s.mapSch f).fab = s.fab := rfl
@[simp] theorem State.mapSch_wts (f : Sched → Sched) : (s.mapSch f).wts = s.wts := rfl
@[simp] theorem State.mapSch_srv (f : Sched → Sched) : (s.mapSch f).srv = s.srv := rfl
@[simp] theorem State.mapSch_trib (f : Sched → Sched) : (s.mapSch f).trib = s.trib := rfl
@[simp] theorem State.mapSch_mgm (f : Sched → Sched) : (s.mapSch f).mgm = s.mgm := rfl
@[simp] theorem State.mapSch_pwr (f : Sched → Sched) : (s.mapSch f).pwr = s.pwr := rfl
@[simp] theorem State.mapSch_rep (f : Sched → Sched) : (s.mapSch f).rep = s.rep := rfl
@[simp] theorem State.mapSch_tru (f : Sched → Sched) : (s.mapSch f).tru = s.tru := rfl
@[simp] theorem State.mapSch_gau (f : Sched → Sched) : (s.mapSch f).gau = s.gau := rfl
@[simp] theorem State.mapSch_evr (f : Sched → Sched) : (s.mapSch f).evr = s.evr := rfl
@[simp] theorem State.mapSch_inp (f : Sched → Sched) : (s.mapSch f).inp = s.inp := rfl
@[simp] theorem State.mapSch_dbg (f : Sched → Sched) : (s.mapSch f).dbg = s.dbg := rfl
@[simp] theorem State.mapSch_sch (f : Sched → Sched) : (s.mapSch f).sch = f s.sch := rfl
@[simp] theorem State.mapSch_core (f : Sched → Sched) (k : Nat) : (s.mapSch f).core k = s.core k := rfl
@[simp] theorem State.mapSch_pool (f : Sched → Sched) (k : Nat) : (s.mapSch f).pool k = s.pool k := rfl
@[simp] theorem State.mapSch_link (f : Sched → Sched) (k : Nat) : (s.mapSch f).link k = s.link k := rfl
@[simp] theorem State.mapSch_slot (f : Sched → Sched) (k : Nat) : (s.mapSch f).slot k = s.slot k := rfl
@[simp] theorem State.mapSch_cmt (f : Sched → Sched) (k : Nat) : (s.mapSch f).cmt k = s.cmt k := rfl
@[simp] theorem State.mapSch_adap (f : Sched → Sched) (k : Nat) : (s.mapSch f).adap k = s.adap k := rfl
@[simp] theorem State.mapSch_hart (f : Sched → Sched) (k : Nat) : (s.mapSch f).hart k = s.hart k := rfl
@[simp] theorem State.mapSch_isrc (f : Sched → Sched) (k : Nat) : (s.mapSch f).isrc k = s.isrc k := rfl
@[simp] theorem State.mapSch_mon (f : Sched → Sched) (k : Nat) : (s.mapSch f).mon k = s.mon k := rfl
@[simp] theorem State.mapSch_now (f : Sched → Sched) : (s.mapSch f).now = s.now := rfl

/-! ### `mapFab` -/

@[simp] theorem State.mapFab_pending (f : Fabric → Fabric) : (s.mapFab f).pending = s.pending := rfl
@[simp] theorem State.mapFab_free (f : Fabric → Fabric) : (s.mapFab f).free = s.free := rfl
@[simp] theorem State.mapFab_pins (f : Fabric → Fabric) : (s.mapFab f).pins = s.pins := rfl
@[simp] theorem State.mapFab_dev (f : Fabric → Fabric) : (s.mapFab f).dev = s.dev := rfl
@[simp] theorem State.mapFab_sch (f : Fabric → Fabric) : (s.mapFab f).sch = s.sch := rfl
@[simp] theorem State.mapFab_cores (f : Fabric → Fabric) : (s.mapFab f).cores = s.cores := rfl
@[simp] theorem State.mapFab_pools (f : Fabric → Fabric) : (s.mapFab f).pools = s.pools := rfl
@[simp] theorem State.mapFab_beds (f : Fabric → Fabric) : (s.mapFab f).beds = s.beds := rfl
@[simp] theorem State.mapFab_wts (f : Fabric → Fabric) : (s.mapFab f).wts = s.wts := rfl
@[simp] theorem State.mapFab_srv (f : Fabric → Fabric) : (s.mapFab f).srv = s.srv := rfl
@[simp] theorem State.mapFab_trib (f : Fabric → Fabric) : (s.mapFab f).trib = s.trib := rfl
@[simp] theorem State.mapFab_mgm (f : Fabric → Fabric) : (s.mapFab f).mgm = s.mgm := rfl
@[simp] theorem State.mapFab_pwr (f : Fabric → Fabric) : (s.mapFab f).pwr = s.pwr := rfl
@[simp] theorem State.mapFab_rep (f : Fabric → Fabric) : (s.mapFab f).rep = s.rep := rfl
@[simp] theorem State.mapFab_tru (f : Fabric → Fabric) : (s.mapFab f).tru = s.tru := rfl
@[simp] theorem State.mapFab_gau (f : Fabric → Fabric) : (s.mapFab f).gau = s.gau := rfl
@[simp] theorem State.mapFab_evr (f : Fabric → Fabric) : (s.mapFab f).evr = s.evr := rfl
@[simp] theorem State.mapFab_inp (f : Fabric → Fabric) : (s.mapFab f).inp = s.inp := rfl
@[simp] theorem State.mapFab_dbg (f : Fabric → Fabric) : (s.mapFab f).dbg = s.dbg := rfl
@[simp] theorem State.mapFab_fab (f : Fabric → Fabric) : (s.mapFab f).fab = f s.fab := rfl
@[simp] theorem State.mapFab_core (f : Fabric → Fabric) (k : Nat) : (s.mapFab f).core k = s.core k := rfl
@[simp] theorem State.mapFab_pool (f : Fabric → Fabric) (k : Nat) : (s.mapFab f).pool k = s.pool k := rfl
@[simp] theorem State.mapFab_slot (f : Fabric → Fabric) (k : Nat) : (s.mapFab f).slot k = s.slot k := rfl
@[simp] theorem State.mapFab_cmt (f : Fabric → Fabric) (k : Nat) : (s.mapFab f).cmt k = s.cmt k := rfl
@[simp] theorem State.mapFab_adap (f : Fabric → Fabric) (k : Nat) : (s.mapFab f).adap k = s.adap k := rfl
@[simp] theorem State.mapFab_hart (f : Fabric → Fabric) (k : Nat) : (s.mapFab f).hart k = s.hart k := rfl
@[simp] theorem State.mapFab_isrc (f : Fabric → Fabric) (k : Nat) : (s.mapFab f).isrc k = s.isrc k := rfl
@[simp] theorem State.mapFab_mon (f : Fabric → Fabric) (k : Nat) : (s.mapFab f).mon k = s.mon k := rfl

/-! ### `mapWts` -/

@[simp] theorem State.mapWts_pending (f : Weights → Weights) : (s.mapWts f).pending = s.pending := rfl
@[simp] theorem State.mapWts_free (f : Weights → Weights) : (s.mapWts f).free = s.free := rfl
@[simp] theorem State.mapWts_pins (f : Weights → Weights) : (s.mapWts f).pins = s.pins := rfl
@[simp] theorem State.mapWts_dev (f : Weights → Weights) : (s.mapWts f).dev = s.dev := rfl
@[simp] theorem State.mapWts_sch (f : Weights → Weights) : (s.mapWts f).sch = s.sch := rfl
@[simp] theorem State.mapWts_cores (f : Weights → Weights) : (s.mapWts f).cores = s.cores := rfl
@[simp] theorem State.mapWts_pools (f : Weights → Weights) : (s.mapWts f).pools = s.pools := rfl
@[simp] theorem State.mapWts_beds (f : Weights → Weights) : (s.mapWts f).beds = s.beds := rfl
@[simp] theorem State.mapWts_fab (f : Weights → Weights) : (s.mapWts f).fab = s.fab := rfl
@[simp] theorem State.mapWts_srv (f : Weights → Weights) : (s.mapWts f).srv = s.srv := rfl
@[simp] theorem State.mapWts_trib (f : Weights → Weights) : (s.mapWts f).trib = s.trib := rfl
@[simp] theorem State.mapWts_mgm (f : Weights → Weights) : (s.mapWts f).mgm = s.mgm := rfl
@[simp] theorem State.mapWts_pwr (f : Weights → Weights) : (s.mapWts f).pwr = s.pwr := rfl
@[simp] theorem State.mapWts_rep (f : Weights → Weights) : (s.mapWts f).rep = s.rep := rfl
@[simp] theorem State.mapWts_tru (f : Weights → Weights) : (s.mapWts f).tru = s.tru := rfl
@[simp] theorem State.mapWts_gau (f : Weights → Weights) : (s.mapWts f).gau = s.gau := rfl
@[simp] theorem State.mapWts_evr (f : Weights → Weights) : (s.mapWts f).evr = s.evr := rfl
@[simp] theorem State.mapWts_inp (f : Weights → Weights) : (s.mapWts f).inp = s.inp := rfl
@[simp] theorem State.mapWts_dbg (f : Weights → Weights) : (s.mapWts f).dbg = s.dbg := rfl
@[simp] theorem State.mapWts_wts (f : Weights → Weights) : (s.mapWts f).wts = f s.wts := rfl
@[simp] theorem State.mapWts_core (f : Weights → Weights) (k : Nat) : (s.mapWts f).core k = s.core k := rfl
@[simp] theorem State.mapWts_pool (f : Weights → Weights) (k : Nat) : (s.mapWts f).pool k = s.pool k := rfl
@[simp] theorem State.mapWts_link (f : Weights → Weights) (k : Nat) : (s.mapWts f).link k = s.link k := rfl
@[simp] theorem State.mapWts_slot (f : Weights → Weights) (k : Nat) : (s.mapWts f).slot k = s.slot k := rfl
@[simp] theorem State.mapWts_cmt (f : Weights → Weights) (k : Nat) : (s.mapWts f).cmt k = s.cmt k := rfl
@[simp] theorem State.mapWts_adap (f : Weights → Weights) (k : Nat) : (s.mapWts f).adap k = s.adap k := rfl
@[simp] theorem State.mapWts_hart (f : Weights → Weights) (k : Nat) : (s.mapWts f).hart k = s.hart k := rfl
@[simp] theorem State.mapWts_isrc (f : Weights → Weights) (k : Nat) : (s.mapWts f).isrc k = s.isrc k := rfl
@[simp] theorem State.mapWts_mon (f : Weights → Weights) (k : Nat) : (s.mapWts f).mon k = s.mon k := rfl
@[simp] theorem State.mapWts_now (f : Weights → Weights) : (s.mapWts f).now = s.now := rfl

/-! ### `mapSrv` -/

@[simp] theorem State.mapSrv_pending (f : Serving → Serving) : (s.mapSrv f).pending = s.pending := rfl
@[simp] theorem State.mapSrv_free (f : Serving → Serving) : (s.mapSrv f).free = s.free := rfl
@[simp] theorem State.mapSrv_pins (f : Serving → Serving) : (s.mapSrv f).pins = s.pins := rfl
@[simp] theorem State.mapSrv_dev (f : Serving → Serving) : (s.mapSrv f).dev = s.dev := rfl
@[simp] theorem State.mapSrv_sch (f : Serving → Serving) : (s.mapSrv f).sch = s.sch := rfl
@[simp] theorem State.mapSrv_cores (f : Serving → Serving) : (s.mapSrv f).cores = s.cores := rfl
@[simp] theorem State.mapSrv_pools (f : Serving → Serving) : (s.mapSrv f).pools = s.pools := rfl
@[simp] theorem State.mapSrv_beds (f : Serving → Serving) : (s.mapSrv f).beds = s.beds := rfl
@[simp] theorem State.mapSrv_fab (f : Serving → Serving) : (s.mapSrv f).fab = s.fab := rfl
@[simp] theorem State.mapSrv_wts (f : Serving → Serving) : (s.mapSrv f).wts = s.wts := rfl
@[simp] theorem State.mapSrv_trib (f : Serving → Serving) : (s.mapSrv f).trib = s.trib := rfl
@[simp] theorem State.mapSrv_mgm (f : Serving → Serving) : (s.mapSrv f).mgm = s.mgm := rfl
@[simp] theorem State.mapSrv_pwr (f : Serving → Serving) : (s.mapSrv f).pwr = s.pwr := rfl
@[simp] theorem State.mapSrv_rep (f : Serving → Serving) : (s.mapSrv f).rep = s.rep := rfl
@[simp] theorem State.mapSrv_tru (f : Serving → Serving) : (s.mapSrv f).tru = s.tru := rfl
@[simp] theorem State.mapSrv_gau (f : Serving → Serving) : (s.mapSrv f).gau = s.gau := rfl
@[simp] theorem State.mapSrv_evr (f : Serving → Serving) : (s.mapSrv f).evr = s.evr := rfl
@[simp] theorem State.mapSrv_inp (f : Serving → Serving) : (s.mapSrv f).inp = s.inp := rfl
@[simp] theorem State.mapSrv_dbg (f : Serving → Serving) : (s.mapSrv f).dbg = s.dbg := rfl
@[simp] theorem State.mapSrv_srv (f : Serving → Serving) : (s.mapSrv f).srv = f s.srv := rfl
@[simp] theorem State.mapSrv_core (f : Serving → Serving) (k : Nat) : (s.mapSrv f).core k = s.core k := rfl
@[simp] theorem State.mapSrv_pool (f : Serving → Serving) (k : Nat) : (s.mapSrv f).pool k = s.pool k := rfl
@[simp] theorem State.mapSrv_link (f : Serving → Serving) (k : Nat) : (s.mapSrv f).link k = s.link k := rfl
@[simp] theorem State.mapSrv_hart (f : Serving → Serving) (k : Nat) : (s.mapSrv f).hart k = s.hart k := rfl
@[simp] theorem State.mapSrv_isrc (f : Serving → Serving) (k : Nat) : (s.mapSrv f).isrc k = s.isrc k := rfl
@[simp] theorem State.mapSrv_mon (f : Serving → Serving) (k : Nat) : (s.mapSrv f).mon k = s.mon k := rfl
@[simp] theorem State.mapSrv_now (f : Serving → Serving) : (s.mapSrv f).now = s.now := rfl

/-! ### `mapMgm` -/

@[simp] theorem State.mapMgm_pending (f : Mgmt → Mgmt) : (s.mapMgm f).pending = s.pending := rfl
@[simp] theorem State.mapMgm_free (f : Mgmt → Mgmt) : (s.mapMgm f).free = s.free := rfl
@[simp] theorem State.mapMgm_pins (f : Mgmt → Mgmt) : (s.mapMgm f).pins = s.pins := rfl
@[simp] theorem State.mapMgm_dev (f : Mgmt → Mgmt) : (s.mapMgm f).dev = s.dev := rfl
@[simp] theorem State.mapMgm_sch (f : Mgmt → Mgmt) : (s.mapMgm f).sch = s.sch := rfl
@[simp] theorem State.mapMgm_cores (f : Mgmt → Mgmt) : (s.mapMgm f).cores = s.cores := rfl
@[simp] theorem State.mapMgm_pools (f : Mgmt → Mgmt) : (s.mapMgm f).pools = s.pools := rfl
@[simp] theorem State.mapMgm_beds (f : Mgmt → Mgmt) : (s.mapMgm f).beds = s.beds := rfl
@[simp] theorem State.mapMgm_fab (f : Mgmt → Mgmt) : (s.mapMgm f).fab = s.fab := rfl
@[simp] theorem State.mapMgm_wts (f : Mgmt → Mgmt) : (s.mapMgm f).wts = s.wts := rfl
@[simp] theorem State.mapMgm_srv (f : Mgmt → Mgmt) : (s.mapMgm f).srv = s.srv := rfl
@[simp] theorem State.mapMgm_trib (f : Mgmt → Mgmt) : (s.mapMgm f).trib = s.trib := rfl
@[simp] theorem State.mapMgm_pwr (f : Mgmt → Mgmt) : (s.mapMgm f).pwr = s.pwr := rfl
@[simp] theorem State.mapMgm_rep (f : Mgmt → Mgmt) : (s.mapMgm f).rep = s.rep := rfl
@[simp] theorem State.mapMgm_tru (f : Mgmt → Mgmt) : (s.mapMgm f).tru = s.tru := rfl
@[simp] theorem State.mapMgm_gau (f : Mgmt → Mgmt) : (s.mapMgm f).gau = s.gau := rfl
@[simp] theorem State.mapMgm_evr (f : Mgmt → Mgmt) : (s.mapMgm f).evr = s.evr := rfl
@[simp] theorem State.mapMgm_inp (f : Mgmt → Mgmt) : (s.mapMgm f).inp = s.inp := rfl
@[simp] theorem State.mapMgm_dbg (f : Mgmt → Mgmt) : (s.mapMgm f).dbg = s.dbg := rfl
@[simp] theorem State.mapMgm_mgm (f : Mgmt → Mgmt) : (s.mapMgm f).mgm = f s.mgm := rfl
@[simp] theorem State.mapMgm_core (f : Mgmt → Mgmt) (k : Nat) : (s.mapMgm f).core k = s.core k := rfl
@[simp] theorem State.mapMgm_pool (f : Mgmt → Mgmt) (k : Nat) : (s.mapMgm f).pool k = s.pool k := rfl
@[simp] theorem State.mapMgm_link (f : Mgmt → Mgmt) (k : Nat) : (s.mapMgm f).link k = s.link k := rfl
@[simp] theorem State.mapMgm_slot (f : Mgmt → Mgmt) (k : Nat) : (s.mapMgm f).slot k = s.slot k := rfl
@[simp] theorem State.mapMgm_cmt (f : Mgmt → Mgmt) (k : Nat) : (s.mapMgm f).cmt k = s.cmt k := rfl
@[simp] theorem State.mapMgm_adap (f : Mgmt → Mgmt) (k : Nat) : (s.mapMgm f).adap k = s.adap k := rfl
@[simp] theorem State.mapMgm_mon (f : Mgmt → Mgmt) (k : Nat) : (s.mapMgm f).mon k = s.mon k := rfl
@[simp] theorem State.mapMgm_now (f : Mgmt → Mgmt) : (s.mapMgm f).now = s.now := rfl

/-! ### `mapPwr` -/

@[simp] theorem State.mapPwr_pending (f : Power → Power) : (s.mapPwr f).pending = s.pending := rfl
@[simp] theorem State.mapPwr_free (f : Power → Power) : (s.mapPwr f).free = s.free := rfl
@[simp] theorem State.mapPwr_pins (f : Power → Power) : (s.mapPwr f).pins = s.pins := rfl
@[simp] theorem State.mapPwr_dev (f : Power → Power) : (s.mapPwr f).dev = s.dev := rfl
@[simp] theorem State.mapPwr_sch (f : Power → Power) : (s.mapPwr f).sch = s.sch := rfl
@[simp] theorem State.mapPwr_cores (f : Power → Power) : (s.mapPwr f).cores = s.cores := rfl
@[simp] theorem State.mapPwr_pools (f : Power → Power) : (s.mapPwr f).pools = s.pools := rfl
@[simp] theorem State.mapPwr_beds (f : Power → Power) : (s.mapPwr f).beds = s.beds := rfl
@[simp] theorem State.mapPwr_fab (f : Power → Power) : (s.mapPwr f).fab = s.fab := rfl
@[simp] theorem State.mapPwr_wts (f : Power → Power) : (s.mapPwr f).wts = s.wts := rfl
@[simp] theorem State.mapPwr_srv (f : Power → Power) : (s.mapPwr f).srv = s.srv := rfl
@[simp] theorem State.mapPwr_trib (f : Power → Power) : (s.mapPwr f).trib = s.trib := rfl
@[simp] theorem State.mapPwr_mgm (f : Power → Power) : (s.mapPwr f).mgm = s.mgm := rfl
@[simp] theorem State.mapPwr_rep (f : Power → Power) : (s.mapPwr f).rep = s.rep := rfl
@[simp] theorem State.mapPwr_tru (f : Power → Power) : (s.mapPwr f).tru = s.tru := rfl
@[simp] theorem State.mapPwr_gau (f : Power → Power) : (s.mapPwr f).gau = s.gau := rfl
@[simp] theorem State.mapPwr_evr (f : Power → Power) : (s.mapPwr f).evr = s.evr := rfl
@[simp] theorem State.mapPwr_inp (f : Power → Power) : (s.mapPwr f).inp = s.inp := rfl
@[simp] theorem State.mapPwr_dbg (f : Power → Power) : (s.mapPwr f).dbg = s.dbg := rfl
@[simp] theorem State.mapPwr_pwr (f : Power → Power) : (s.mapPwr f).pwr = f s.pwr := rfl
@[simp] theorem State.mapPwr_core (f : Power → Power) (k : Nat) : (s.mapPwr f).core k = s.core k := rfl
@[simp] theorem State.mapPwr_pool (f : Power → Power) (k : Nat) : (s.mapPwr f).pool k = s.pool k := rfl
@[simp] theorem State.mapPwr_link (f : Power → Power) (k : Nat) : (s.mapPwr f).link k = s.link k := rfl
@[simp] theorem State.mapPwr_slot (f : Power → Power) (k : Nat) : (s.mapPwr f).slot k = s.slot k := rfl
@[simp] theorem State.mapPwr_cmt (f : Power → Power) (k : Nat) : (s.mapPwr f).cmt k = s.cmt k := rfl
@[simp] theorem State.mapPwr_adap (f : Power → Power) (k : Nat) : (s.mapPwr f).adap k = s.adap k := rfl
@[simp] theorem State.mapPwr_hart (f : Power → Power) (k : Nat) : (s.mapPwr f).hart k = s.hart k := rfl
@[simp] theorem State.mapPwr_isrc (f : Power → Power) (k : Nat) : (s.mapPwr f).isrc k = s.isrc k := rfl
@[simp] theorem State.mapPwr_now (f : Power → Power) : (s.mapPwr f).now = s.now := rfl

/-! ### `mapDev` -/

@[simp] theorem State.mapDev_pending (f : Dev → Dev) : (s.mapDev f).pending = s.pending := rfl
@[simp] theorem State.mapDev_free (f : Dev → Dev) : (s.mapDev f).free = s.free := rfl
@[simp] theorem State.mapDev_pins (f : Dev → Dev) : (s.mapDev f).pins = s.pins := rfl
@[simp] theorem State.mapDev_sch (f : Dev → Dev) : (s.mapDev f).sch = s.sch := rfl
@[simp] theorem State.mapDev_cores (f : Dev → Dev) : (s.mapDev f).cores = s.cores := rfl
@[simp] theorem State.mapDev_pools (f : Dev → Dev) : (s.mapDev f).pools = s.pools := rfl
@[simp] theorem State.mapDev_beds (f : Dev → Dev) : (s.mapDev f).beds = s.beds := rfl
@[simp] theorem State.mapDev_fab (f : Dev → Dev) : (s.mapDev f).fab = s.fab := rfl
@[simp] theorem State.mapDev_wts (f : Dev → Dev) : (s.mapDev f).wts = s.wts := rfl
@[simp] theorem State.mapDev_srv (f : Dev → Dev) : (s.mapDev f).srv = s.srv := rfl
@[simp] theorem State.mapDev_trib (f : Dev → Dev) : (s.mapDev f).trib = s.trib := rfl
@[simp] theorem State.mapDev_mgm (f : Dev → Dev) : (s.mapDev f).mgm = s.mgm := rfl
@[simp] theorem State.mapDev_pwr (f : Dev → Dev) : (s.mapDev f).pwr = s.pwr := rfl
@[simp] theorem State.mapDev_rep (f : Dev → Dev) : (s.mapDev f).rep = s.rep := rfl
@[simp] theorem State.mapDev_tru (f : Dev → Dev) : (s.mapDev f).tru = s.tru := rfl
@[simp] theorem State.mapDev_gau (f : Dev → Dev) : (s.mapDev f).gau = s.gau := rfl
@[simp] theorem State.mapDev_evr (f : Dev → Dev) : (s.mapDev f).evr = s.evr := rfl
@[simp] theorem State.mapDev_inp (f : Dev → Dev) : (s.mapDev f).inp = s.inp := rfl
@[simp] theorem State.mapDev_dbg (f : Dev → Dev) : (s.mapDev f).dbg = s.dbg := rfl
@[simp] theorem State.mapDev_dev (f : Dev → Dev) : (s.mapDev f).dev = f s.dev := rfl
@[simp] theorem State.mapDev_core (f : Dev → Dev) (k : Nat) : (s.mapDev f).core k = s.core k := rfl
@[simp] theorem State.mapDev_pool (f : Dev → Dev) (k : Nat) : (s.mapDev f).pool k = s.pool k := rfl
@[simp] theorem State.mapDev_link (f : Dev → Dev) (k : Nat) : (s.mapDev f).link k = s.link k := rfl
@[simp] theorem State.mapDev_slot (f : Dev → Dev) (k : Nat) : (s.mapDev f).slot k = s.slot k := rfl
@[simp] theorem State.mapDev_cmt (f : Dev → Dev) (k : Nat) : (s.mapDev f).cmt k = s.cmt k := rfl
@[simp] theorem State.mapDev_adap (f : Dev → Dev) (k : Nat) : (s.mapDev f).adap k = s.adap k := rfl
@[simp] theorem State.mapDev_hart (f : Dev → Dev) (k : Nat) : (s.mapDev f).hart k = s.hart k := rfl
@[simp] theorem State.mapDev_isrc (f : Dev → Dev) (k : Nat) : (s.mapDev f).isrc k = s.isrc k := rfl
@[simp] theorem State.mapDev_mon (f : Dev → Dev) (k : Nat) : (s.mapDev f).mon k = s.mon k := rfl
@[simp] theorem State.mapDev_now (f : Dev → Dev) : (s.mapDev f).now = s.now := rfl

/-! ### `mapBeds` -/

@[simp] theorem State.mapBeds_pending (f : Beds → Beds) : (s.mapBeds f).pending = s.pending := rfl
@[simp] theorem State.mapBeds_free (f : Beds → Beds) : (s.mapBeds f).free = s.free := rfl
@[simp] theorem State.mapBeds_pins (f : Beds → Beds) : (s.mapBeds f).pins = s.pins := rfl
@[simp] theorem State.mapBeds_dev (f : Beds → Beds) : (s.mapBeds f).dev = s.dev := rfl
@[simp] theorem State.mapBeds_sch (f : Beds → Beds) : (s.mapBeds f).sch = s.sch := rfl
@[simp] theorem State.mapBeds_cores (f : Beds → Beds) : (s.mapBeds f).cores = s.cores := rfl
@[simp] theorem State.mapBeds_pools (f : Beds → Beds) : (s.mapBeds f).pools = s.pools := rfl
@[simp] theorem State.mapBeds_fab (f : Beds → Beds) : (s.mapBeds f).fab = s.fab := rfl
@[simp] theorem State.mapBeds_wts (f : Beds → Beds) : (s.mapBeds f).wts = s.wts := rfl
@[simp] theorem State.mapBeds_srv (f : Beds → Beds) : (s.mapBeds f).srv = s.srv := rfl
@[simp] theorem State.mapBeds_trib (f : Beds → Beds) : (s.mapBeds f).trib = s.trib := rfl
@[simp] theorem State.mapBeds_mgm (f : Beds → Beds) : (s.mapBeds f).mgm = s.mgm := rfl
@[simp] theorem State.mapBeds_pwr (f : Beds → Beds) : (s.mapBeds f).pwr = s.pwr := rfl
@[simp] theorem State.mapBeds_rep (f : Beds → Beds) : (s.mapBeds f).rep = s.rep := rfl
@[simp] theorem State.mapBeds_tru (f : Beds → Beds) : (s.mapBeds f).tru = s.tru := rfl
@[simp] theorem State.mapBeds_gau (f : Beds → Beds) : (s.mapBeds f).gau = s.gau := rfl
@[simp] theorem State.mapBeds_evr (f : Beds → Beds) : (s.mapBeds f).evr = s.evr := rfl
@[simp] theorem State.mapBeds_inp (f : Beds → Beds) : (s.mapBeds f).inp = s.inp := rfl
@[simp] theorem State.mapBeds_dbg (f : Beds → Beds) : (s.mapBeds f).dbg = s.dbg := rfl
@[simp] theorem State.mapBeds_beds (f : Beds → Beds) : (s.mapBeds f).beds = f s.beds := rfl
@[simp] theorem State.mapBeds_core (f : Beds → Beds) (k : Nat) : (s.mapBeds f).core k = s.core k := rfl
@[simp] theorem State.mapBeds_pool (f : Beds → Beds) (k : Nat) : (s.mapBeds f).pool k = s.pool k := rfl
@[simp] theorem State.mapBeds_link (f : Beds → Beds) (k : Nat) : (s.mapBeds f).link k = s.link k := rfl
@[simp] theorem State.mapBeds_slot (f : Beds → Beds) (k : Nat) : (s.mapBeds f).slot k = s.slot k := rfl
@[simp] theorem State.mapBeds_cmt (f : Beds → Beds) (k : Nat) : (s.mapBeds f).cmt k = s.cmt k := rfl
@[simp] theorem State.mapBeds_adap (f : Beds → Beds) (k : Nat) : (s.mapBeds f).adap k = s.adap k := rfl
@[simp] theorem State.mapBeds_hart (f : Beds → Beds) (k : Nat) : (s.mapBeds f).hart k = s.hart k := rfl
@[simp] theorem State.mapBeds_isrc (f : Beds → Beds) (k : Nat) : (s.mapBeds f).isrc k = s.isrc k := rfl
@[simp] theorem State.mapBeds_mon (f : Beds → Beds) (k : Nat) : (s.mapBeds f).mon k = s.mon k := rfl
@[simp] theorem State.mapBeds_now (f : Beds → Beds) : (s.mapBeds f).now = s.now := rfl

/-! ### `mapDbg` -/

@[simp] theorem State.mapDbg_pending (f : Debug → Debug) : (s.mapDbg f).pending = s.pending := rfl
@[simp] theorem State.mapDbg_free (f : Debug → Debug) : (s.mapDbg f).free = s.free := rfl
@[simp] theorem State.mapDbg_pins (f : Debug → Debug) : (s.mapDbg f).pins = s.pins := rfl
@[simp] theorem State.mapDbg_dev (f : Debug → Debug) : (s.mapDbg f).dev = s.dev := rfl
@[simp] theorem State.mapDbg_sch (f : Debug → Debug) : (s.mapDbg f).sch = s.sch := rfl
@[simp] theorem State.mapDbg_cores (f : Debug → Debug) : (s.mapDbg f).cores = s.cores := rfl
@[simp] theorem State.mapDbg_pools (f : Debug → Debug) : (s.mapDbg f).pools = s.pools := rfl
@[simp] theorem State.mapDbg_beds (f : Debug → Debug) : (s.mapDbg f).beds = s.beds := rfl
@[simp] theorem State.mapDbg_fab (f : Debug → Debug) : (s.mapDbg f).fab = s.fab := rfl
@[simp] theorem State.mapDbg_wts (f : Debug → Debug) : (s.mapDbg f).wts = s.wts := rfl
@[simp] theorem State.mapDbg_srv (f : Debug → Debug) : (s.mapDbg f).srv = s.srv := rfl
@[simp] theorem State.mapDbg_trib (f : Debug → Debug) : (s.mapDbg f).trib = s.trib := rfl
@[simp] theorem State.mapDbg_mgm (f : Debug → Debug) : (s.mapDbg f).mgm = s.mgm := rfl
@[simp] theorem State.mapDbg_pwr (f : Debug → Debug) : (s.mapDbg f).pwr = s.pwr := rfl
@[simp] theorem State.mapDbg_rep (f : Debug → Debug) : (s.mapDbg f).rep = s.rep := rfl
@[simp] theorem State.mapDbg_tru (f : Debug → Debug) : (s.mapDbg f).tru = s.tru := rfl
@[simp] theorem State.mapDbg_gau (f : Debug → Debug) : (s.mapDbg f).gau = s.gau := rfl
@[simp] theorem State.mapDbg_evr (f : Debug → Debug) : (s.mapDbg f).evr = s.evr := rfl
@[simp] theorem State.mapDbg_inp (f : Debug → Debug) : (s.mapDbg f).inp = s.inp := rfl
@[simp] theorem State.mapDbg_dbg (f : Debug → Debug) : (s.mapDbg f).dbg = f s.dbg := rfl
@[simp] theorem State.mapDbg_core (f : Debug → Debug) (k : Nat) : (s.mapDbg f).core k = s.core k := rfl
@[simp] theorem State.mapDbg_pool (f : Debug → Debug) (k : Nat) : (s.mapDbg f).pool k = s.pool k := rfl
@[simp] theorem State.mapDbg_link (f : Debug → Debug) (k : Nat) : (s.mapDbg f).link k = s.link k := rfl
@[simp] theorem State.mapDbg_slot (f : Debug → Debug) (k : Nat) : (s.mapDbg f).slot k = s.slot k := rfl
@[simp] theorem State.mapDbg_cmt (f : Debug → Debug) (k : Nat) : (s.mapDbg f).cmt k = s.cmt k := rfl
@[simp] theorem State.mapDbg_adap (f : Debug → Debug) (k : Nat) : (s.mapDbg f).adap k = s.adap k := rfl
@[simp] theorem State.mapDbg_hart (f : Debug → Debug) (k : Nat) : (s.mapDbg f).hart k = s.hart k := rfl
@[simp] theorem State.mapDbg_isrc (f : Debug → Debug) (k : Nat) : (s.mapDbg f).isrc k = s.isrc k := rfl
@[simp] theorem State.mapDbg_mon (f : Debug → Debug) (k : Nat) : (s.mapDbg f).mon k = s.mon k := rfl
@[simp] theorem State.mapDbg_now (f : Debug → Debug) : (s.mapDbg f).now = s.now := rfl

/-! ### `mapGau` -/

@[simp] theorem State.mapGau_pending (f : Gauge → Gauge) : (s.mapGau f).pending = s.pending := rfl
@[simp] theorem State.mapGau_free (f : Gauge → Gauge) : (s.mapGau f).free = s.free := rfl
@[simp] theorem State.mapGau_pins (f : Gauge → Gauge) : (s.mapGau f).pins = s.pins := rfl
@[simp] theorem State.mapGau_dev (f : Gauge → Gauge) : (s.mapGau f).dev = s.dev := rfl
@[simp] theorem State.mapGau_sch (f : Gauge → Gauge) : (s.mapGau f).sch = s.sch := rfl
@[simp] theorem State.mapGau_cores (f : Gauge → Gauge) : (s.mapGau f).cores = s.cores := rfl
@[simp] theorem State.mapGau_pools (f : Gauge → Gauge) : (s.mapGau f).pools = s.pools := rfl
@[simp] theorem State.mapGau_beds (f : Gauge → Gauge) : (s.mapGau f).beds = s.beds := rfl
@[simp] theorem State.mapGau_fab (f : Gauge → Gauge) : (s.mapGau f).fab = s.fab := rfl
@[simp] theorem State.mapGau_wts (f : Gauge → Gauge) : (s.mapGau f).wts = s.wts := rfl
@[simp] theorem State.mapGau_srv (f : Gauge → Gauge) : (s.mapGau f).srv = s.srv := rfl
@[simp] theorem State.mapGau_trib (f : Gauge → Gauge) : (s.mapGau f).trib = s.trib := rfl
@[simp] theorem State.mapGau_mgm (f : Gauge → Gauge) : (s.mapGau f).mgm = s.mgm := rfl
@[simp] theorem State.mapGau_pwr (f : Gauge → Gauge) : (s.mapGau f).pwr = s.pwr := rfl
@[simp] theorem State.mapGau_rep (f : Gauge → Gauge) : (s.mapGau f).rep = s.rep := rfl
@[simp] theorem State.mapGau_tru (f : Gauge → Gauge) : (s.mapGau f).tru = s.tru := rfl
@[simp] theorem State.mapGau_evr (f : Gauge → Gauge) : (s.mapGau f).evr = s.evr := rfl
@[simp] theorem State.mapGau_inp (f : Gauge → Gauge) : (s.mapGau f).inp = s.inp := rfl
@[simp] theorem State.mapGau_dbg (f : Gauge → Gauge) : (s.mapGau f).dbg = s.dbg := rfl
@[simp] theorem State.mapGau_gau (f : Gauge → Gauge) : (s.mapGau f).gau = f s.gau := rfl
@[simp] theorem State.mapGau_core (f : Gauge → Gauge) (k : Nat) : (s.mapGau f).core k = s.core k := rfl
@[simp] theorem State.mapGau_pool (f : Gauge → Gauge) (k : Nat) : (s.mapGau f).pool k = s.pool k := rfl
@[simp] theorem State.mapGau_link (f : Gauge → Gauge) (k : Nat) : (s.mapGau f).link k = s.link k := rfl
@[simp] theorem State.mapGau_slot (f : Gauge → Gauge) (k : Nat) : (s.mapGau f).slot k = s.slot k := rfl
@[simp] theorem State.mapGau_cmt (f : Gauge → Gauge) (k : Nat) : (s.mapGau f).cmt k = s.cmt k := rfl
@[simp] theorem State.mapGau_adap (f : Gauge → Gauge) (k : Nat) : (s.mapGau f).adap k = s.adap k := rfl
@[simp] theorem State.mapGau_hart (f : Gauge → Gauge) (k : Nat) : (s.mapGau f).hart k = s.hart k := rfl
@[simp] theorem State.mapGau_isrc (f : Gauge → Gauge) (k : Nat) : (s.mapGau f).isrc k = s.isrc k := rfl
@[simp] theorem State.mapGau_mon (f : Gauge → Gauge) (k : Nat) : (s.mapGau f).mon k = s.mon k := rfl
@[simp] theorem State.mapGau_now (f : Gauge → Gauge) : (s.mapGau f).now = s.now := rfl

/-! ### A table's entry after an update of one entry -/

theorem State.mapCore_core (i k : Nat) (f : Core → Core) : (s.mapCore i f).core k = if k = i then f (s.core i) else s.core k :=
  fget_fset _ _ _ _ _
@[simp] theorem State.mapCore_core_same (i : Nat) (f : Core → Core) : (s.mapCore i f).core i = f (s.core i) := fget_fset_same _ _ _ _
theorem State.mapCore_core_ne (i k : Nat) (f : Core → Core) (h : k ≠ i) : (s.mapCore i f).core k = s.core k := fget_fset_ne _ _ _ _ _ _ h
theorem State.mapPool_pool (i k : Nat) (f : Pool → Pool) : (s.mapPool i f).pool k = if k = i then f (s.pool i) else s.pool k :=
  fget_fset _ _ _ _ _
@[simp] theorem State.mapPool_pool_same (i : Nat) (f : Pool → Pool) : (s.mapPool i f).pool i = f (s.pool i) := fget_fset_same _ _ _ _
theorem State.mapPool_pool_ne (i k : Nat) (f : Pool → Pool) (h : k ≠ i) : (s.mapPool i f).pool k = s.pool k := fget_fset_ne _ _ _ _ _ _ h
theorem State.mapLink_link (i k : Nat) (f : Link → Link) : (s.mapLink i f).link k = if k = i then f (s.link i) else s.link k :=
  fget_fset _ _ _ _ _
@[simp] theorem State.mapLink_link_same (i : Nat) (f : Link → Link) : (s.mapLink i f).link i = f (s.link i) := fget_fset_same _ _ _ _
theorem State.mapLink_link_ne (i k : Nat) (f : Link → Link) (h : k ≠ i) : (s.mapLink i f).link k = s.link k := fget_fset_ne _ _ _ _ _ _ h
theorem State.mapSlot_slot (i k : Nat) (f : Slot → Slot) : (s.mapSlot i f).slot k = if k = i then f (s.slot i) else s.slot k :=
  fget_fset _ _ _ _ _
@[simp] theorem State.mapSlot_slot_same (i : Nat) (f : Slot → Slot) : (s.mapSlot i f).slot i = f (s.slot i) := fget_fset_same _ _ _ _
theorem State.mapSlot_slot_ne (i k : Nat) (f : Slot → Slot) (h : k ≠ i) : (s.mapSlot i f).slot k = s.slot k := fget_fset_ne _ _ _ _ _ _ h
theorem State.mapCmt_cmt (i k : Nat) (f : CommitSt → CommitSt) : (s.mapCmt i f).cmt k = if k = i then f (s.cmt i) else s.cmt k :=
  fget_fset _ _ _ _ _
@[simp] theorem State.mapCmt_cmt_same (i : Nat) (f : CommitSt → CommitSt) : (s.mapCmt i f).cmt i = f (s.cmt i) := fget_fset_same _ _ _ _
theorem State.mapCmt_cmt_ne (i k : Nat) (f : CommitSt → CommitSt) (h : k ≠ i) : (s.mapCmt i f).cmt k = s.cmt k := fget_fset_ne _ _ _ _ _ _ h
theorem State.mapAdap_adap (i k : Nat) (f : Adapter → Adapter) : (s.mapAdap i f).adap k = if k = i then f (s.adap i) else s.adap k :=
  fget_fset _ _ _ _ _
@[simp] theorem State.mapAdap_adap_same (i : Nat) (f : Adapter → Adapter) : (s.mapAdap i f).adap i = f (s.adap i) := fget_fset_same _ _ _ _
theorem State.mapAdap_adap_ne (i k : Nat) (f : Adapter → Adapter) (h : k ≠ i) : (s.mapAdap i f).adap k = s.adap k := fget_fset_ne _ _ _ _ _ _ h
theorem State.mapSrc_isrc (i k : Nat) (f : ISrc → ISrc) : (s.mapSrc i f).isrc k = if k = i then f (s.isrc i) else s.isrc k :=
  fget_fset _ _ _ _ _
@[simp] theorem State.mapSrc_isrc_same (i : Nat) (f : ISrc → ISrc) : (s.mapSrc i f).isrc i = f (s.isrc i) := fget_fset_same _ _ _ _
theorem State.mapSrc_isrc_ne (i k : Nat) (f : ISrc → ISrc) (h : k ≠ i) : (s.mapSrc i f).isrc k = s.isrc k := fget_fset_ne _ _ _ _ _ _ h
theorem State.mapMon_mon (i k : Nat) (f : Monitor → Monitor) : (s.mapMon i f).mon k = if k = i then f (s.mon i) else s.mon k :=
  fget_fset _ _ _ _ _
@[simp] theorem State.mapMon_mon_same (i : Nat) (f : Monitor → Monitor) : (s.mapMon i f).mon i = f (s.mon i) := fget_fset_same _ _ _ _
theorem State.mapMon_mon_ne (i k : Nat) (f : Monitor → Monitor) (h : k ≠ i) : (s.mapMon i f).mon k = s.mon k := fget_fset_ne _ _ _ _ _ _ h
@[simp] theorem State.mapHart_hart_same (i : Nat) (f : Hart → Hart) : (s.mapHart i f).hart i = f (s.hart i) := fget_fset_same _ _ _ _
theorem State.mapHart_hart_ne (i k : Nat) (f : Hart → Hart) (h : k ≠ i) : (s.mapHart i f).hart k = s.hart k := fget_fset_ne _ _ _ _ _ _ h
theorem State.mapArr_core_ne (i a k : Nat) (f : MxArray → MxArray) (h : k ≠ i) : (s.mapArr i a f).core k = s.core k := fget_fset_ne _ _ _ _ _ _ h

/-! ### Folds and conditions -/

/-- What every step of a fold keeps, the fold keeps. -/
theorem State.each_keeps {α : Type} (P : State → Prop) (l : List α) (f : State → α → State) (h : ∀ s x, P s → P (f s x)) (hs : P s) : P (s.each l f) := by
  induction l generalizing s with
  | nil => exact hs
  | cons x r ih => exact ih _ (h s x hs)

/-- What a change keeps, the change under a condition keeps. -/
theorem State.cond_keeps (P : State → Prop) (b : Bool) (f : State → State) (h : P s → P (f s)) (hs : P s) : P (s.cond b f) := by
  cases b
  · exact hs
  · exact h hs

@[simp] theorem State.each_nil {α : Type} (f : State → α → State) : s.each [] f = s := rfl
@[simp] theorem State.each_cons {α : Type} (x : α) (r : List α) (f : State → α → State) : s.each (x :: r) f = (f s x).each r f := rfl
@[simp] theorem State.cond_true (f : State → State) : s.cond true f = f s := rfl
@[simp] theorem State.cond_false (f : State → State) : s.cond false f = s := rfl

end Sys2Proof.Machine
end

