-- ==== Sys2Proof/Laws/Ops.lean ====
section
/-! SUPPORT. What each shared operation can do, said once: the parts of State it changes, and its result. -/

namespace Sys2Proof.Machine

variable (s : State)

/-! ### Frames -/

/-- Holding a record changes the recorder only. -/
theorem holdRec_frame (r : EvRec) : holdRec s r = { s with evr := (holdRec s r).evr } := by
  unfold holdRec countDrop; dsimp only; split
  · rfl
  · split <;> rfl
@[simp] theorem holdRec_pending (r : EvRec) : (holdRec s r).pending = s.pending := by rw [holdRec_frame]
@[simp] theorem holdRec_free (r : EvRec) : (holdRec s r).free = s.free := by rw [holdRec_frame]
@[simp] theorem holdRec_pins (r : EvRec) : (holdRec s r).pins = s.pins := by rw [holdRec_frame]
@[simp] theorem holdRec_dev (r : EvRec) : (holdRec s r).dev = s.dev := by rw [holdRec_frame]
@[simp] theorem holdRec_sch (r : EvRec) : (holdRec s r).sch = s.sch := by rw [holdRec_frame]
@[simp] theorem holdRec_cores (r : EvRec) : (holdRec s r).cores = s.cores := by rw [holdRec_frame]
@[simp] theorem holdRec_pools (r : EvRec) : (holdRec s r).pools = s.pools := by rw [holdRec_frame]
@[simp] theorem holdRec_beds (r : EvRec) : (holdRec s r).beds = s.beds := by rw [holdRec_frame]
@[simp] theorem holdRec_fab (r : EvRec) : (holdRec s r).fab = s.fab := by rw [holdRec_frame]
@[simp] theorem holdRec_wts (r : EvRec) : (holdRec s r).wts = s.wts := by rw [holdRec_frame]
@[simp] theorem holdRec_srv (r : EvRec) : (holdRec s r).srv = s.srv := by rw [holdRec_frame]
@[simp] theorem holdRec_trib (r : EvRec) : (holdRec s r).trib = s.trib := by rw [holdRec_frame]
@[simp] theorem holdRec_mgm (r : EvRec) : (holdRec s r).mgm = s.mgm := by rw [holdRec_frame]
@[simp] theorem holdRec_pwr (r : EvRec) : (holdRec s r).pwr = s.pwr := by rw [holdRec_frame]
@[simp] theorem holdRec_rep (r : EvRec) : (holdRec s r).rep = s.rep := by rw [holdRec_frame]
@[simp] theorem holdRec_tru (r : EvRec) : (holdRec s r).tru = s.tru := by rw [holdRec_frame]
@[simp] theorem holdRec_gau (r : EvRec) : (holdRec s r).gau = s.gau := by rw [holdRec_frame]
@[simp] theorem holdRec_inp (r : EvRec) : (holdRec s r).inp = s.inp := by rw [holdRec_frame]
@[simp] theorem holdRec_dbg (r : EvRec) : (holdRec s r).dbg = s.dbg := by rw [holdRec_frame]

/-- An event changes the recorder only (R530, R533). -/
theorem raise_frame (id n : Nat) (l : List Nat) : raise s id n l = { s with evr := (raise s id n l).evr } := holdRec_frame s _
@[simp] theorem raise_pending (id n : Nat) (l : List Nat) : (raise s id n l).pending = s.pending := by rw [raise_frame]
@[simp] theorem raise_free (id n : Nat) (l : List Nat) : (raise s id n l).free = s.free := by rw [raise_frame]
@[simp] theorem raise_pins (id n : Nat) (l : List Nat) : (raise s id n l).pins = s.pins := by rw [raise_frame]
@[simp] theorem raise_dev (id n : Nat) (l : List Nat) : (raise s id n l).dev = s.dev := by rw [raise_frame]
@[simp] theorem raise_sch (id n : Nat) (l : List Nat) : (raise s id n l).sch = s.sch := by rw [raise_frame]
@[simp] theorem raise_cores (id n : Nat) (l : List Nat) : (raise s id n l).cores = s.cores := by rw [raise_frame]
@[simp] theorem raise_pools (id n : Nat) (l : List Nat) : (raise s id n l).pools = s.pools := by rw [raise_frame]
@[simp] theorem raise_beds (id n : Nat) (l : List Nat) : (raise s id n l).beds = s.beds := by rw [raise_frame]
@[simp] theorem raise_fab (id n : Nat) (l : List Nat) : (raise s id n l).fab = s.fab := by rw [raise_frame]
@[simp] theorem raise_wts (id n : Nat) (l : List Nat) : (raise s id n l).wts = s.wts := by rw [raise_frame]
@[simp] theorem raise_srv (id n : Nat) (l : List Nat) : (raise s id n l).srv = s.srv := by rw [raise_frame]
@[simp] theorem raise_trib (id n : Nat) (l : List Nat) : (raise s id n l).trib = s.trib := by rw [raise_frame]
@[simp] theorem raise_mgm (id n : Nat) (l : List Nat) : (raise s id n l).mgm = s.mgm := by rw [raise_frame]
@[simp] theorem raise_pwr (id n : Nat) (l : List Nat) : (raise s id n l).pwr = s.pwr := by rw [raise_frame]
@[simp] theorem raise_rep (id n : Nat) (l : List Nat) : (raise s id n l).rep = s.rep := by rw [raise_frame]
@[simp] theorem raise_tru (id n : Nat) (l : List Nat) : (raise s id n l).tru = s.tru := by rw [raise_frame]
@[simp] theorem raise_gau (id n : Nat) (l : List Nat) : (raise s id n l).gau = s.gau := by rw [raise_frame]
@[simp] theorem raise_inp (id n : Nat) (l : List Nat) : (raise s id n l).inp = s.inp := by rw [raise_frame]
@[simp] theorem raise_dbg (id n : Nat) (l : List Nat) : (raise s id n l).dbg = s.dbg := by rw [raise_frame]

/-- An event of a core changes the recorder only (R110). -/
theorem raiseC_frame (id c : Nat) (l : List Nat) : raiseC s id c l = { s with evr := (raiseC s id c l).evr } := raise_frame s _ _ _
@[simp] theorem raiseC_pending (id c : Nat) (l : List Nat) : (raiseC s id c l).pending = s.pending := by rw [raiseC_frame]
@[simp] theorem raiseC_free (id c : Nat) (l : List Nat) : (raiseC s id c l).free = s.free := by rw [raiseC_frame]
@[simp] theorem raiseC_pins (id c : Nat) (l : List Nat) : (raiseC s id c l).pins = s.pins := by rw [raiseC_frame]
@[simp] theorem raiseC_dev (id c : Nat) (l : List Nat) : (raiseC s id c l).dev = s.dev := by rw [raiseC_frame]
@[simp] theorem raiseC_sch (id c : Nat) (l : List Nat) : (raiseC s id c l).sch = s.sch := by rw [raiseC_frame]
@[simp] theorem raiseC_cores (id c : Nat) (l : List Nat) : (raiseC s id c l).cores = s.cores := by rw [raiseC_frame]
@[simp] theorem raiseC_pools (id c : Nat) (l : List Nat) : (raiseC s id c l).pools = s.pools := by rw [raiseC_frame]
@[simp] theorem raiseC_beds (id c : Nat) (l : List Nat) : (raiseC s id c l).beds = s.beds := by rw [raiseC_frame]
@[simp] theorem raiseC_fab (id c : Nat) (l : List Nat) : (raiseC s id c l).fab = s.fab := by rw [raiseC_frame]
@[simp] theorem raiseC_wts (id c : Nat) (l : List Nat) : (raiseC s id c l).wts = s.wts := by rw [raiseC_frame]
@[simp] theorem raiseC_srv (id c : Nat) (l : List Nat) : (raiseC s id c l).srv = s.srv := by rw [raiseC_frame]
@[simp] theorem raiseC_trib (id c : Nat) (l : List Nat) : (raiseC s id c l).trib = s.trib := by rw [raiseC_frame]
@[simp] theorem raiseC_mgm (id c : Nat) (l : List Nat) : (raiseC s id c l).mgm = s.mgm := by rw [raiseC_frame]
@[simp] theorem raiseC_pwr (id c : Nat) (l : List Nat) : (raiseC s id c l).pwr = s.pwr := by rw [raiseC_frame]
@[simp] theorem raiseC_rep (id c : Nat) (l : List Nat) : (raiseC s id c l).rep = s.rep := by rw [raiseC_frame]
@[simp] theorem raiseC_tru (id c : Nat) (l : List Nat) : (raiseC s id c l).tru = s.tru := by rw [raiseC_frame]
@[simp] theorem raiseC_gau (id c : Nat) (l : List Nat) : (raiseC s id c l).gau = s.gau := by rw [raiseC_frame]
@[simp] theorem raiseC_inp (id c : Nat) (l : List Nat) : (raiseC s id c l).inp = s.inp := by rw [raiseC_frame]
@[simp] theorem raiseC_dbg (id c : Nat) (l : List Nat) : (raiseC s id c l).dbg = s.dbg := by rw [raiseC_frame]

/-- An event of a named S-cycle changes the recorder only (R530). -/
theorem raiseAt_frame (t id n : Nat) (l : List Nat) : raiseAt s t id n l = { s with evr := (raiseAt s t id n l).evr } := holdRec_frame s _
@[simp] theorem raiseAt_pending (t id n : Nat) (l : List Nat) : (raiseAt s t id n l).pending = s.pending := by rw [raiseAt_frame]
@[simp] theorem raiseAt_free (t id n : Nat) (l : List Nat) : (raiseAt s t id n l).free = s.free := by rw [raiseAt_frame]
@[simp] theorem raiseAt_pins (t id n : Nat) (l : List Nat) : (raiseAt s t id n l).pins = s.pins := by rw [raiseAt_frame]
@[simp] theorem raiseAt_dev (t id n : Nat) (l : List Nat) : (raiseAt s t id n l).dev = s.dev := by rw [raiseAt_frame]
@[simp] theorem raiseAt_sch (t id n : Nat) (l : List Nat) : (raiseAt s t id n l).sch = s.sch := by rw [raiseAt_frame]
@[simp] theorem raiseAt_cores (t id n : Nat) (l : List Nat) : (raiseAt s t id n l).cores = s.cores := by rw [raiseAt_frame]
@[simp] theorem raiseAt_pools (t id n : Nat) (l : List Nat) : (raiseAt s t id n l).pools = s.pools := by rw [raiseAt_frame]
@[simp] theorem raiseAt_beds (t id n : Nat) (l : List Nat) : (raiseAt s t id n l).beds = s.beds := by rw [raiseAt_frame]
@[simp] theorem raiseAt_fab (t id n : Nat) (l : List Nat) : (raiseAt s t id n l).fab = s.fab := by rw [raiseAt_frame]
@[simp] theorem raiseAt_wts (t id n : Nat) (l : List Nat) : (raiseAt s t id n l).wts = s.wts := by rw [raiseAt_frame]
@[simp] theorem raiseAt_srv (t id n : Nat) (l : List Nat) : (raiseAt s t id n l).srv = s.srv := by rw [raiseAt_frame]
@[simp] theorem raiseAt_trib (t id n : Nat) (l : List Nat) : (raiseAt s t id n l).trib = s.trib := by rw [raiseAt_frame]
@[simp] theorem raiseAt_mgm (t id n : Nat) (l : List Nat) : (raiseAt s t id n l).mgm = s.mgm := by rw [raiseAt_frame]
@[simp] theorem raiseAt_pwr (t id n : Nat) (l : List Nat) : (raiseAt s t id n l).pwr = s.pwr := by rw [raiseAt_frame]
@[simp] theorem raiseAt_rep (t id n : Nat) (l : List Nat) : (raiseAt s t id n l).rep = s.rep := by rw [raiseAt_frame]
@[simp] theorem raiseAt_tru (t id n : Nat) (l : List Nat) : (raiseAt s t id n l).tru = s.tru := by rw [raiseAt_frame]
@[simp] theorem raiseAt_gau (t id n : Nat) (l : List Nat) : (raiseAt s t id n l).gau = s.gau := by rw [raiseAt_frame]
@[simp] theorem raiseAt_inp (t id n : Nat) (l : List Nat) : (raiseAt s t id n l).inp = s.inp := by rw [raiseAt_frame]
@[simp] theorem raiseAt_dbg (t id n : Nat) (l : List Nat) : (raiseAt s t id n l).dbg = s.dbg := by rw [raiseAt_frame]

/-- Waking harts changes the management state only (R449). -/
theorem wfiWake_frame (h : Nat) : wfiWake s h = { s with mgm := (wfiWake s h).mgm } := by unfold wfiWake; split <;> rfl
theorem wfiWakes_frame : wfiWakes s = { s with mgm := (wfiWakes s).mgm } := by
  simp only [wfiWakes, List.foldl]
  rw [wfiWake_frame, wfiWake_frame (s := wfiWake (wfiWake s 0) 1), wfiWake_frame (s := wfiWake s 0), wfiWake_frame (s := s)]

/-- Pending a source changes the management state only (R447). -/
theorem pend_frame (i : Nat) : pend s i = { s with mgm := (pend s i).mgm } := by
  unfold pend; dsimp only; split
  · rw [wfiWakes_frame]; rfl
  · rfl
@[simp] theorem pend_pending (i : Nat) : (pend s i).pending = s.pending := by rw [pend_frame]
@[simp] theorem pend_free (i : Nat) : (pend s i).free = s.free := by rw [pend_frame]
@[simp] theorem pend_pins (i : Nat) : (pend s i).pins = s.pins := by rw [pend_frame]
@[simp] theorem pend_dev (i : Nat) : (pend s i).dev = s.dev := by rw [pend_frame]
@[simp] theorem pend_sch (i : Nat) : (pend s i).sch = s.sch := by rw [pend_frame]
@[simp] theorem pend_cores (i : Nat) : (pend s i).cores = s.cores := by rw [pend_frame]
@[simp] theorem pend_pools (i : Nat) : (pend s i).pools = s.pools := by rw [pend_frame]
@[simp] theorem pend_beds (i : Nat) : (pend s i).beds = s.beds := by rw [pend_frame]
@[simp] theorem pend_fab (i : Nat) : (pend s i).fab = s.fab := by rw [pend_frame]
@[simp] theorem pend_wts (i : Nat) : (pend s i).wts = s.wts := by rw [pend_frame]
@[simp] theorem pend_srv (i : Nat) : (pend s i).srv = s.srv := by rw [pend_frame]
@[simp] theorem pend_trib (i : Nat) : (pend s i).trib = s.trib := by rw [pend_frame]
@[simp] theorem pend_pwr (i : Nat) : (pend s i).pwr = s.pwr := by rw [pend_frame]
@[simp] theorem pend_rep (i : Nat) : (pend s i).rep = s.rep := by rw [pend_frame]
@[simp] theorem pend_tru (i : Nat) : (pend s i).tru = s.tru := by rw [pend_frame]
@[simp] theorem pend_gau (i : Nat) : (pend s i).gau = s.gau := by rw [pend_frame]
@[simp] theorem pend_evr (i : Nat) : (pend s i).evr = s.evr := by rw [pend_frame]
@[simp] theorem pend_inp (i : Nat) : (pend s i).inp = s.inp := by rw [pend_frame]
@[simp] theorem pend_dbg (i : Nat) : (pend s i).dbg = s.dbg := by rw [pend_frame]

/-- A direct line changes the management state only (Table 13-13). -/
theorem pendLine_frame (g n : Nat) : pendLine s g n = { s with mgm := (pendLine s g n).mgm } := pend_frame s _
@[simp] theorem pendLine_pending (g n : Nat) : (pendLine s g n).pending = s.pending := by rw [pendLine_frame]
@[simp] theorem pendLine_free (g n : Nat) : (pendLine s g n).free = s.free := by rw [pendLine_frame]
@[simp] theorem pendLine_pins (g n : Nat) : (pendLine s g n).pins = s.pins := by rw [pendLine_frame]
@[simp] theorem pendLine_dev (g n : Nat) : (pendLine s g n).dev = s.dev := by rw [pendLine_frame]
@[simp] theorem pendLine_sch (g n : Nat) : (pendLine s g n).sch = s.sch := by rw [pendLine_frame]
@[simp] theorem pendLine_cores (g n : Nat) : (pendLine s g n).cores = s.cores := by rw [pendLine_frame]
@[simp] theorem pendLine_pools (g n : Nat) : (pendLine s g n).pools = s.pools := by rw [pendLine_frame]
@[simp] theorem pendLine_beds (g n : Nat) : (pendLine s g n).beds = s.beds := by rw [pendLine_frame]
@[simp] theorem pendLine_fab (g n : Nat) : (pendLine s g n).fab = s.fab := by rw [pendLine_frame]
@[simp] theorem pendLine_wts (g n : Nat) : (pendLine s g n).wts = s.wts := by rw [pendLine_frame]
@[simp] theorem pendLine_srv (g n : Nat) : (pendLine s g n).srv = s.srv := by rw [pendLine_frame]
@[simp] theorem pendLine_trib (g n : Nat) : (pendLine s g n).trib = s.trib := by rw [pendLine_frame]
@[simp] theorem pendLine_pwr (g n : Nat) : (pendLine s g n).pwr = s.pwr := by rw [pendLine_frame]
@[simp] theorem pendLine_rep (g n : Nat) : (pendLine s g n).rep = s.rep := by rw [pendLine_frame]
@[simp] theorem pendLine_tru (g n : Nat) : (pendLine s g n).tru = s.tru := by rw [pendLine_frame]
@[simp] theorem pendLine_gau (g n : Nat) : (pendLine s g n).gau = s.gau := by rw [pendLine_frame]
@[simp] theorem pendLine_evr (g n : Nat) : (pendLine s g n).evr = s.evr := by rw [pendLine_frame]
@[simp] theorem pendLine_inp (g n : Nat) : (pendLine s g n).inp = s.inp := by rw [pendLine_frame]
@[simp] theorem pendLine_dbg (g n : Nat) : (pendLine s g n).dbg = s.dbg := by rw [pendLine_frame]

/-- Taking free bytes advances the counter only (log 2). -/
theorem takeFree_frame (n : Nat) : (takeFree s n).2 = { s with free := ((takeFree s n).2).free } := rfl
@[simp] theorem takeFree_pending (n : Nat) : ((takeFree s n).2).pending = s.pending := by rw [takeFree_frame]
@[simp] theorem takeFree_pins (n : Nat) : ((takeFree s n).2).pins = s.pins := by rw [takeFree_frame]
@[simp] theorem takeFree_dev (n : Nat) : ((takeFree s n).2).dev = s.dev := by rw [takeFree_frame]
@[simp] theorem takeFree_sch (n : Nat) : ((takeFree s n).2).sch = s.sch := by rw [takeFree_frame]
@[simp] theorem takeFree_cores (n : Nat) : ((takeFree s n).2).cores = s.cores := by rw [takeFree_frame]
@[simp] theorem takeFree_pools (n : Nat) : ((takeFree s n).2).pools = s.pools := by rw [takeFree_frame]
@[simp] theorem takeFree_beds (n : Nat) : ((takeFree s n).2).beds = s.beds := by rw [takeFree_frame]
@[simp] theorem takeFree_fab (n : Nat) : ((takeFree s n).2).fab = s.fab := by rw [takeFree_frame]
@[simp] theorem takeFree_wts (n : Nat) : ((takeFree s n).2).wts = s.wts := by rw [takeFree_frame]
@[simp] theorem takeFree_srv (n : Nat) : ((takeFree s n).2).srv = s.srv := by rw [takeFree_frame]
@[simp] theorem takeFree_trib (n : Nat) : ((takeFree s n).2).trib = s.trib := by rw [takeFree_frame]
@[simp] theorem takeFree_mgm (n : Nat) : ((takeFree s n).2).mgm = s.mgm := by rw [takeFree_frame]
@[simp] theorem takeFree_pwr (n : Nat) : ((takeFree s n).2).pwr = s.pwr := by rw [takeFree_frame]
@[simp] theorem takeFree_rep (n : Nat) : ((takeFree s n).2).rep = s.rep := by rw [takeFree_frame]
@[simp] theorem takeFree_tru (n : Nat) : ((takeFree s n).2).tru = s.tru := by rw [takeFree_frame]
@[simp] theorem takeFree_gau (n : Nat) : ((takeFree s n).2).gau = s.gau := by rw [takeFree_frame]
@[simp] theorem takeFree_evr (n : Nat) : ((takeFree s n).2).evr = s.evr := by rw [takeFree_frame]
@[simp] theorem takeFree_inp (n : Nat) : ((takeFree s n).2).inp = s.inp := by rw [takeFree_frame]
@[simp] theorem takeFree_dbg (n : Nat) : ((takeFree s n).2).dbg = s.dbg := by rw [takeFree_frame]

/-- Taking a free number advances the counter only (log 2). -/
theorem takeFreeNat_frame (w : Nat) : (takeFreeNat s w).2 = { s with free := ((takeFreeNat s w).2).free } := rfl
@[simp] theorem takeFreeNat_pending (w : Nat) : ((takeFreeNat s w).2).pending = s.pending := by rw [takeFreeNat_frame]
@[simp] theorem takeFreeNat_pins (w : Nat) : ((takeFreeNat s w).2).pins = s.pins := by rw [takeFreeNat_frame]
@[simp] theorem takeFreeNat_dev (w : Nat) : ((takeFreeNat s w).2).dev = s.dev := by rw [takeFreeNat_frame]
@[simp] theorem takeFreeNat_sch (w : Nat) : ((takeFreeNat s w).2).sch = s.sch := by rw [takeFreeNat_frame]
@[simp] theorem takeFreeNat_cores (w : Nat) : ((takeFreeNat s w).2).cores = s.cores := by rw [takeFreeNat_frame]
@[simp] theorem takeFreeNat_pools (w : Nat) : ((takeFreeNat s w).2).pools = s.pools := by rw [takeFreeNat_frame]
@[simp] theorem takeFreeNat_beds (w : Nat) : ((takeFreeNat s w).2).beds = s.beds := by rw [takeFreeNat_frame]
@[simp] theorem takeFreeNat_fab (w : Nat) : ((takeFreeNat s w).2).fab = s.fab := by rw [takeFreeNat_frame]
@[simp] theorem takeFreeNat_wts (w : Nat) : ((takeFreeNat s w).2).wts = s.wts := by rw [takeFreeNat_frame]
@[simp] theorem takeFreeNat_srv (w : Nat) : ((takeFreeNat s w).2).srv = s.srv := by rw [takeFreeNat_frame]
@[simp] theorem takeFreeNat_trib (w : Nat) : ((takeFreeNat s w).2).trib = s.trib := by rw [takeFreeNat_frame]
@[simp] theorem takeFreeNat_mgm (w : Nat) : ((takeFreeNat s w).2).mgm = s.mgm := by rw [takeFreeNat_frame]
@[simp] theorem takeFreeNat_pwr (w : Nat) : ((takeFreeNat s w).2).pwr = s.pwr := by rw [takeFreeNat_frame]
@[simp] theorem takeFreeNat_rep (w : Nat) : ((takeFreeNat s w).2).rep = s.rep := by rw [takeFreeNat_frame]
@[simp] theorem takeFreeNat_tru (w : Nat) : ((takeFreeNat s w).2).tru = s.tru := by rw [takeFreeNat_frame]
@[simp] theorem takeFreeNat_gau (w : Nat) : ((takeFreeNat s w).2).gau = s.gau := by rw [takeFreeNat_frame]
@[simp] theorem takeFreeNat_evr (w : Nat) : ((takeFreeNat s w).2).evr = s.evr := by rw [takeFreeNat_frame]
@[simp] theorem takeFreeNat_inp (w : Nat) : ((takeFreeNat s w).2).inp = s.inp := by rw [takeFreeNat_frame]
@[simp] theorem takeFreeNat_dbg (w : Nat) : ((takeFreeNat s w).2).dbg = s.dbg := by rw [takeFreeNat_frame]

/-- An extension changes the trust state only (R508, R510). -/
theorem extendMR_frame (typ m v : Nat) (sg dg : List Byte) : extendMR s typ m v sg dg = { s with tru := (extendMR s typ m v sg dg).tru } := rfl
@[simp] theorem extendMR_pending (typ m v : Nat) (sg dg : List Byte) : (extendMR s typ m v sg dg).pending = s.pending := by rw [extendMR_frame]
@[simp] theorem extendMR_free (typ m v : Nat) (sg dg : List Byte) : (extendMR s typ m v sg dg).free = s.free := by rw [extendMR_frame]
@[simp] theorem extendMR_pins (typ m v : Nat) (sg dg : List Byte) : (extendMR s typ m v sg dg).pins = s.pins := by rw [extendMR_frame]
@[simp] theorem extendMR_dev (typ m v : Nat) (sg dg : List Byte) : (extendMR s typ m v sg dg).dev = s.dev := by rw [extendMR_frame]
@[simp] theorem extendMR_sch (typ m v : Nat) (sg dg : List Byte) : (extendMR s typ m v sg dg).sch = s.sch := by rw [extendMR_frame]
@[simp] theorem extendMR_cores (typ m v : Nat) (sg dg : List Byte) : (extendMR s typ m v sg dg).cores = s.cores := by rw [extendMR_frame]
@[simp] theorem extendMR_pools (typ m v : Nat) (sg dg : List Byte) : (extendMR s typ m v sg dg).pools = s.pools := by rw [extendMR_frame]
@[simp] theorem extendMR_beds (typ m v : Nat) (sg dg : List Byte) : (extendMR s typ m v sg dg).beds = s.beds := by rw [extendMR_frame]
@[simp] theorem extendMR_fab (typ m v : Nat) (sg dg : List Byte) : (extendMR s typ m v sg dg).fab = s.fab := by rw [extendMR_frame]
@[simp] theorem extendMR_wts (typ m v : Nat) (sg dg : List Byte) : (extendMR s typ m v sg dg).wts = s.wts := by rw [extendMR_frame]
@[simp] theorem extendMR_srv (typ m v : Nat) (sg dg : List Byte) : (extendMR s typ m v sg dg).srv = s.srv := by rw [extendMR_frame]
@[simp] theorem extendMR_trib (typ m v : Nat) (sg dg : List Byte) : (extendMR s typ m v sg dg).trib = s.trib := by rw [extendMR_frame]
@[simp] theorem extendMR_mgm (typ m v : Nat) (sg dg : List Byte) : (extendMR s typ m v sg dg).mgm = s.mgm := by rw [extendMR_frame]
@[simp] theorem extendMR_pwr (typ m v : Nat) (sg dg : List Byte) : (extendMR s typ m v sg dg).pwr = s.pwr := by rw [extendMR_frame]
@[simp] theorem extendMR_rep (typ m v : Nat) (sg dg : List Byte) : (extendMR s typ m v sg dg).rep = s.rep := by rw [extendMR_frame]
@[simp] theorem extendMR_gau (typ m v : Nat) (sg dg : List Byte) : (extendMR s typ m v sg dg).gau = s.gau := by rw [extendMR_frame]
@[simp] theorem extendMR_evr (typ m v : Nat) (sg dg : List Byte) : (extendMR s typ m v sg dg).evr = s.evr := by rw [extendMR_frame]
@[simp] theorem extendMR_inp (typ m v : Nat) (sg dg : List Byte) : (extendMR s typ m v sg dg).inp = s.inp := by rw [extendMR_frame]
@[simp] theorem extendMR_dbg (typ m v : Nat) (sg dg : List Byte) : (extendMR s typ m v sg dg).dbg = s.dbg := by rw [extendMR_frame]

/-- An unsigned extension changes the trust state only. -/
theorem measure_frame (typ m : Nat) (dg : List Byte) : measure s typ m dg = { s with tru := (measure s typ m dg).tru } := rfl
@[simp] theorem measure_pending (typ m : Nat) (dg : List Byte) : (measure s typ m dg).pending = s.pending := by rw [measure_frame]
@[simp] theorem measure_free (typ m : Nat) (dg : List Byte) : (measure s typ m dg).free = s.free := by rw [measure_frame]
@[simp] theorem measure_pins (typ m : Nat) (dg : List Byte) : (measure s typ m dg).pins = s.pins := by rw [measure_frame]
@[simp] theorem measure_dev (typ m : Nat) (dg : List Byte) : (measure s typ m dg).dev = s.dev := by rw [measure_frame]
@[simp] theorem measure_sch (typ m : Nat) (dg : List Byte) : (measure s typ m dg).sch = s.sch := by rw [measure_frame]
@[simp] theorem measure_cores (typ m : Nat) (dg : List Byte) : (measure s typ m dg).cores = s.cores := by rw [measure_frame]
@[simp] theorem measure_pools (typ m : Nat) (dg : List Byte) : (measure s typ m dg).pools = s.pools := by rw [measure_frame]
@[simp] theorem measure_beds (typ m : Nat) (dg : List Byte) : (measure s typ m dg).beds = s.beds := by rw [measure_frame]
@[simp] theorem measure_fab (typ m : Nat) (dg : List Byte) : (measure s typ m dg).fab = s.fab := by rw [measure_frame]
@[simp] theorem measure_wts (typ m : Nat) (dg : List Byte) : (measure s typ m dg).wts = s.wts := by rw [measure_frame]
@[simp] theorem measure_srv (typ m : Nat) (dg : List Byte) : (measure s typ m dg).srv = s.srv := by rw [measure_frame]
@[simp] theorem measure_trib (typ m : Nat) (dg : List Byte) : (measure s typ m dg).trib = s.trib := by rw [measure_frame]
@[simp] theorem measure_mgm (typ m : Nat) (dg : List Byte) : (measure s typ m dg).mgm = s.mgm := by rw [measure_frame]
@[simp] theorem measure_pwr (typ m : Nat) (dg : List Byte) : (measure s typ m dg).pwr = s.pwr := by rw [measure_frame]
@[simp] theorem measure_rep (typ m : Nat) (dg : List Byte) : (measure s typ m dg).rep = s.rep := by rw [measure_frame]
@[simp] theorem measure_gau (typ m : Nat) (dg : List Byte) : (measure s typ m dg).gau = s.gau := by rw [measure_frame]
@[simp] theorem measure_evr (typ m : Nat) (dg : List Byte) : (measure s typ m dg).evr = s.evr := by rw [measure_frame]
@[simp] theorem measure_inp (typ m : Nat) (dg : List Byte) : (measure s typ m dg).inp = s.inp := by rw [measure_frame]
@[simp] theorem measure_dbg (typ m : Nat) (dg : List Byte) : (measure s typ m dg).dbg = s.dbg := by rw [measure_frame]

/-- A signed extension changes the trust state and may raise event 0x1001 (R512). -/
theorem measureSigned_frame (typ m : Nat) (ks : List (List Byte)) (b sg : List Byte) : measureSigned s typ m ks b sg = { s with tru := (measureSigned s typ m ks b sg).tru, evr := (measureSigned s typ m ks b sg).evr } := by
  unfold measureSigned; dsimp only; split
  · exact (raise_frame _ _ _ _).trans (by simp)
  · rfl
@[simp] theorem measureSigned_pending (typ m : Nat) (ks : List (List Byte)) (b sg : List Byte) : (measureSigned s typ m ks b sg).pending = s.pending := by rw [measureSigned_frame]
@[simp] theorem measureSigned_free (typ m : Nat) (ks : List (List Byte)) (b sg : List Byte) : (measureSigned s typ m ks b sg).free = s.free := by rw [measureSigned_frame]
@[simp] theorem measureSigned_pins (typ m : Nat) (ks : List (List Byte)) (b sg : List Byte) : (measureSigned s typ m ks b sg).pins = s.pins := by rw [measureSigned_frame]
@[simp] theorem measureSigned_dev (typ m : Nat) (ks : List (List Byte)) (b sg : List Byte) : (measureSigned s typ m ks b sg).dev = s.dev := by rw [measureSigned_frame]
@[simp] theorem measureSigned_sch (typ m : Nat) (ks : List (List Byte)) (b sg : List Byte) : (measureSigned s typ m ks b sg).sch = s.sch := by rw [measureSigned_frame]
@[simp] theorem measureSigned_cores (typ m : Nat) (ks : List (List Byte)) (b sg : List Byte) : (measureSigned s typ m ks b sg).cores = s.cores := by rw [measureSigned_frame]
@[simp] theorem measureSigned_pools (typ m : Nat) (ks : List (List Byte)) (b sg : List Byte) : (measureSigned s typ m ks b sg).pools = s.pools := by rw [measureSigned_frame]
@[simp] theorem measureSigned_beds (typ m : Nat) (ks : List (List Byte)) (b sg : List Byte) : (measureSigned s typ m ks b sg).beds = s.beds := by rw [measureSigned_frame]
@[simp] theorem measureSigned_fab (typ m : Nat) (ks : List (List Byte)) (b sg : List Byte) : (measureSigned s typ m ks b sg).fab = s.fab := by rw [measureSigned_frame]
@[simp] theorem measureSigned_wts (typ m : Nat) (ks : List (List Byte)) (b sg : List Byte) : (measureSigned s typ m ks b sg).wts = s.wts := by rw [measureSigned_frame]
@[simp] theorem measureSigned_srv (typ m : Nat) (ks : List (List Byte)) (b sg : List Byte) : (measureSigned s typ m ks b sg).srv = s.srv := by rw [measureSigned_frame]
@[simp] theorem measureSigned_trib (typ m : Nat) (ks : List (List Byte)) (b sg : List Byte) : (measureSigned s typ m ks b sg).trib = s.trib := by rw [measureSigned_frame]
@[simp] theorem measureSigned_mgm (typ m : Nat) (ks : List (List Byte)) (b sg : List Byte) : (measureSigned s typ m ks b sg).mgm = s.mgm := by rw [measureSigned_frame]
@[simp] theorem measureSigned_pwr (typ m : Nat) (ks : List (List Byte)) (b sg : List Byte) : (measureSigned s typ m ks b sg).pwr = s.pwr := by rw [measureSigned_frame]
@[simp] theorem measureSigned_rep (typ m : Nat) (ks : List (List Byte)) (b sg : List Byte) : (measureSigned s typ m ks b sg).rep = s.rep := by rw [measureSigned_frame]
@[simp] theorem measureSigned_gau (typ m : Nat) (ks : List (List Byte)) (b sg : List Byte) : (measureSigned s typ m ks b sg).gau = s.gau := by rw [measureSigned_frame]
@[simp] theorem measureSigned_inp (typ m : Nat) (ks : List (List Byte)) (b sg : List Byte) : (measureSigned s typ m ks b sg).inp = s.inp := by rw [measureSigned_frame]
@[simp] theorem measureSigned_dbg (typ m : Nat) (ks : List (List Byte)) (b sg : List Byte) : (measureSigned s typ m ks b sg).dbg = s.dbg := by rw [measureSigned_frame]

/-- An MR7 extension changes the trust state only. -/
theorem measureDebug_frame (k : Nat) : measureDebug s k = { s with tru := (measureDebug s k).tru } := rfl
@[simp] theorem measureDebug_pending (k : Nat) : (measureDebug s k).pending = s.pending := by rw [measureDebug_frame]
@[simp] theorem measureDebug_free (k : Nat) : (measureDebug s k).free = s.free := by rw [measureDebug_frame]
@[simp] theorem measureDebug_pins (k : Nat) : (measureDebug s k).pins = s.pins := by rw [measureDebug_frame]
@[simp] theorem measureDebug_dev (k : Nat) : (measureDebug s k).dev = s.dev := by rw [measureDebug_frame]
@[simp] theorem measureDebug_sch (k : Nat) : (measureDebug s k).sch = s.sch := by rw [measureDebug_frame]
@[simp] theorem measureDebug_cores (k : Nat) : (measureDebug s k).cores = s.cores := by rw [measureDebug_frame]
@[simp] theorem measureDebug_pools (k : Nat) : (measureDebug s k).pools = s.pools := by rw [measureDebug_frame]
@[simp] theorem measureDebug_beds (k : Nat) : (measureDebug s k).beds = s.beds := by rw [measureDebug_frame]
@[simp] theorem measureDebug_fab (k : Nat) : (measureDebug s k).fab = s.fab := by rw [measureDebug_frame]
@[simp] theorem measureDebug_wts (k : Nat) : (measureDebug s k).wts = s.wts := by rw [measureDebug_frame]
@[simp] theorem measureDebug_srv (k : Nat) : (measureDebug s k).srv = s.srv := by rw [measureDebug_frame]
@[simp] theorem measureDebug_trib (k : Nat) : (measureDebug s k).trib = s.trib := by rw [measureDebug_frame]
@[simp] theorem measureDebug_mgm (k : Nat) : (measureDebug s k).mgm = s.mgm := by rw [measureDebug_frame]
@[simp] theorem measureDebug_pwr (k : Nat) : (measureDebug s k).pwr = s.pwr := by rw [measureDebug_frame]
@[simp] theorem measureDebug_rep (k : Nat) : (measureDebug s k).rep = s.rep := by rw [measureDebug_frame]
@[simp] theorem measureDebug_gau (k : Nat) : (measureDebug s k).gau = s.gau := by rw [measureDebug_frame]
@[simp] theorem measureDebug_evr (k : Nat) : (measureDebug s k).evr = s.evr := by rw [measureDebug_frame]
@[simp] theorem measureDebug_inp (k : Nat) : (measureDebug s k).inp = s.inp := by rw [measureDebug_frame]
@[simp] theorem measureDebug_dbg (k : Nat) : (measureDebug s k).dbg = s.dbg := by rw [measureDebug_frame]

/-- A feed record changes the trust state only (R519). -/
theorem feedPut_frame (b : FeedBody) : feedPut s b = { s with tru := (feedPut s b).tru } := by unfold feedPut; dsimp only; split <;> rfl
@[simp] theorem feedPut_pending (b : FeedBody) : (feedPut s b).pending = s.pending := by rw [feedPut_frame]
@[simp] theorem feedPut_free (b : FeedBody) : (feedPut s b).free = s.free := by rw [feedPut_frame]
@[simp] theorem feedPut_pins (b : FeedBody) : (feedPut s b).pins = s.pins := by rw [feedPut_frame]
@[simp] theorem feedPut_dev (b : FeedBody) : (feedPut s b).dev = s.dev := by rw [feedPut_frame]
@[simp] theorem feedPut_sch (b : FeedBody) : (feedPut s b).sch = s.sch := by rw [feedPut_frame]
@[simp] theorem feedPut_cores (b : FeedBody) : (feedPut s b).cores = s.cores := by rw [feedPut_frame]
@[simp] theorem feedPut_pools (b : FeedBody) : (feedPut s b).pools = s.pools := by rw [feedPut_frame]
@[simp] theorem feedPut_beds (b : FeedBody) : (feedPut s b).beds = s.beds := by rw [feedPut_frame]
@[simp] theorem feedPut_fab (b : FeedBody) : (feedPut s b).fab = s.fab := by rw [feedPut_frame]
@[simp] theorem feedPut_wts (b : FeedBody) : (feedPut s b).wts = s.wts := by rw [feedPut_frame]
@[simp] theorem feedPut_srv (b : FeedBody) : (feedPut s b).srv = s.srv := by rw [feedPut_frame]
@[simp] theorem feedPut_trib (b : FeedBody) : (feedPut s b).trib = s.trib := by rw [feedPut_frame]
@[simp] theorem feedPut_mgm (b : FeedBody) : (feedPut s b).mgm = s.mgm := by rw [feedPut_frame]
@[simp] theorem feedPut_pwr (b : FeedBody) : (feedPut s b).pwr = s.pwr := by rw [feedPut_frame]
@[simp] theorem feedPut_rep (b : FeedBody) : (feedPut s b).rep = s.rep := by rw [feedPut_frame]
@[simp] theorem feedPut_gau (b : FeedBody) : (feedPut s b).gau = s.gau := by rw [feedPut_frame]
@[simp] theorem feedPut_evr (b : FeedBody) : (feedPut s b).evr = s.evr := by rw [feedPut_frame]
@[simp] theorem feedPut_inp (b : FeedBody) : (feedPut s b).inp = s.inp := by rw [feedPut_frame]
@[simp] theorem feedPut_dbg (b : FeedBody) : (feedPut s b).dbg = s.dbg := by rw [feedPut_frame]

/-- Entering a cause changes the schedule only (R45). -/
theorem addCause_frame (n src : Nat) : addCause s n src = { s with sch := (addCause s n src).sch } := by unfold addCause; split <;> rfl
@[simp] theorem addCause_pending (n src : Nat) : (addCause s n src).pending = s.pending := by rw [addCause_frame]
@[simp] theorem addCause_free (n src : Nat) : (addCause s n src).free = s.free := by rw [addCause_frame]
@[simp] theorem addCause_pins (n src : Nat) : (addCause s n src).pins = s.pins := by rw [addCause_frame]
@[simp] theorem addCause_dev (n src : Nat) : (addCause s n src).dev = s.dev := by rw [addCause_frame]
@[simp] theorem addCause_cores (n src : Nat) : (addCause s n src).cores = s.cores := by rw [addCause_frame]
@[simp] theorem addCause_pools (n src : Nat) : (addCause s n src).pools = s.pools := by rw [addCause_frame]
@[simp] theorem addCause_beds (n src : Nat) : (addCause s n src).beds = s.beds := by rw [addCause_frame]
@[simp] theorem addCause_fab (n src : Nat) : (addCause s n src).fab = s.fab := by rw [addCause_frame]
@[simp] theorem addCause_wts (n src : Nat) : (addCause s n src).wts = s.wts := by rw [addCause_frame]
@[simp] theorem addCause_srv (n src : Nat) : (addCause s n src).srv = s.srv := by rw [addCause_frame]
@[simp] theorem addCause_trib (n src : Nat) : (addCause s n src).trib = s.trib := by rw [addCause_frame]
@[simp] theorem addCause_mgm (n src : Nat) : (addCause s n src).mgm = s.mgm := by rw [addCause_frame]
@[simp] theorem addCause_pwr (n src : Nat) : (addCause s n src).pwr = s.pwr := by rw [addCause_frame]
@[simp] theorem addCause_rep (n src : Nat) : (addCause s n src).rep = s.rep := by rw [addCause_frame]
@[simp] theorem addCause_tru (n src : Nat) : (addCause s n src).tru = s.tru := by rw [addCause_frame]
@[simp] theorem addCause_gau (n src : Nat) : (addCause s n src).gau = s.gau := by rw [addCause_frame]
@[simp] theorem addCause_evr (n src : Nat) : (addCause s n src).evr = s.evr := by rw [addCause_frame]
@[simp] theorem addCause_inp (n src : Nat) : (addCause s n src).inp = s.inp := by rw [addCause_frame]
@[simp] theorem addCause_dbg (n src : Nat) : (addCause s n src).dbg = s.dbg := by rw [addCause_frame]

/-- Entering a cause that ends at a known W-cycle changes the schedule only. -/
theorem addCauseUntil_frame (n src w : Nat) : addCauseUntil s n src w = { s with sch := (addCauseUntil s n src w).sch } := by unfold addCauseUntil; split <;> rfl
@[simp] theorem addCauseUntil_pending (n src w : Nat) : (addCauseUntil s n src w).pending = s.pending := by rw [addCauseUntil_frame]
@[simp] theorem addCauseUntil_free (n src w : Nat) : (addCauseUntil s n src w).free = s.free := by rw [addCauseUntil_frame]
@[simp] theorem addCauseUntil_pins (n src w : Nat) : (addCauseUntil s n src w).pins = s.pins := by rw [addCauseUntil_frame]
@[simp] theorem addCauseUntil_dev (n src w : Nat) : (addCauseUntil s n src w).dev = s.dev := by rw [addCauseUntil_frame]
@[simp] theorem addCauseUntil_cores (n src w : Nat) : (addCauseUntil s n src w).cores = s.cores := by rw [addCauseUntil_frame]
@[simp] theorem addCauseUntil_pools (n src w : Nat) : (addCauseUntil s n src w).pools = s.pools := by rw [addCauseUntil_frame]
@[simp] theorem addCauseUntil_beds (n src w : Nat) : (addCauseUntil s n src w).beds = s.beds := by rw [addCauseUntil_frame]
@[simp] theorem addCauseUntil_fab (n src w : Nat) : (addCauseUntil s n src w).fab = s.fab := by rw [addCauseUntil_frame]
@[simp] theorem addCauseUntil_wts (n src w : Nat) : (addCauseUntil s n src w).wts = s.wts := by rw [addCauseUntil_frame]
@[simp] theorem addCauseUntil_srv (n src w : Nat) : (addCauseUntil s n src w).srv = s.srv := by rw [addCauseUntil_frame]
@[simp] theorem addCauseUntil_trib (n src w : Nat) : (addCauseUntil s n src w).trib = s.trib := by rw [addCauseUntil_frame]
@[simp] theorem addCauseUntil_mgm (n src w : Nat) : (addCauseUntil s n src w).mgm = s.mgm := by rw [addCauseUntil_frame]
@[simp] theorem addCauseUntil_pwr (n src w : Nat) : (addCauseUntil s n src w).pwr = s.pwr := by rw [addCauseUntil_frame]
@[simp] theorem addCauseUntil_rep (n src w : Nat) : (addCauseUntil s n src w).rep = s.rep := by rw [addCauseUntil_frame]
@[simp] theorem addCauseUntil_tru (n src w : Nat) : (addCauseUntil s n src w).tru = s.tru := by rw [addCauseUntil_frame]
@[simp] theorem addCauseUntil_gau (n src w : Nat) : (addCauseUntil s n src w).gau = s.gau := by rw [addCauseUntil_frame]
@[simp] theorem addCauseUntil_evr (n src w : Nat) : (addCauseUntil s n src w).evr = s.evr := by rw [addCauseUntil_frame]
@[simp] theorem addCauseUntil_inp (n src w : Nat) : (addCauseUntil s n src w).inp = s.inp := by rw [addCauseUntil_frame]
@[simp] theorem addCauseUntil_dbg (n src w : Nat) : (addCauseUntil s n src w).dbg = s.dbg := by rw [addCauseUntil_frame]

/-- Holding the S-cycle changes the schedule only (R45). -/
theorem holdFor_frame (n src : Nat) (h : Option (Option Nat)) : holdFor s n src h = { s with sch := (holdFor s n src h).sch } := by
  unfold holdFor; split
  · rfl
  · exact addCause_frame s _ _
  · exact addCauseUntil_frame s _ _ _
@[simp] theorem holdFor_pending (n src : Nat) (h : Option (Option Nat)) : (holdFor s n src h).pending = s.pending := by rw [holdFor_frame]
@[simp] theorem holdFor_free (n src : Nat) (h : Option (Option Nat)) : (holdFor s n src h).free = s.free := by rw [holdFor_frame]
@[simp] theorem holdFor_pins (n src : Nat) (h : Option (Option Nat)) : (holdFor s n src h).pins = s.pins := by rw [holdFor_frame]
@[simp] theorem holdFor_dev (n src : Nat) (h : Option (Option Nat)) : (holdFor s n src h).dev = s.dev := by rw [holdFor_frame]
@[simp] theorem holdFor_cores (n src : Nat) (h : Option (Option Nat)) : (holdFor s n src h).cores = s.cores := by rw [holdFor_frame]
@[simp] theorem holdFor_pools (n src : Nat) (h : Option (Option Nat)) : (holdFor s n src h).pools = s.pools := by rw [holdFor_frame]
@[simp] theorem holdFor_beds (n src : Nat) (h : Option (Option Nat)) : (holdFor s n src h).beds = s.beds := by rw [holdFor_frame]
@[simp] theorem holdFor_fab (n src : Nat) (h : Option (Option Nat)) : (holdFor s n src h).fab = s.fab := by rw [holdFor_frame]
@[simp] theorem holdFor_wts (n src : Nat) (h : Option (Option Nat)) : (holdFor s n src h).wts = s.wts := by rw [holdFor_frame]
@[simp] theorem holdFor_srv (n src : Nat) (h : Option (Option Nat)) : (holdFor s n src h).srv = s.srv := by rw [holdFor_frame]
@[simp] theorem holdFor_trib (n src : Nat) (h : Option (Option Nat)) : (holdFor s n src h).trib = s.trib := by rw [holdFor_frame]
@[simp] theorem holdFor_mgm (n src : Nat) (h : Option (Option Nat)) : (holdFor s n src h).mgm = s.mgm := by rw [holdFor_frame]
@[simp] theorem holdFor_pwr (n src : Nat) (h : Option (Option Nat)) : (holdFor s n src h).pwr = s.pwr := by rw [holdFor_frame]
@[simp] theorem holdFor_rep (n src : Nat) (h : Option (Option Nat)) : (holdFor s n src h).rep = s.rep := by rw [holdFor_frame]
@[simp] theorem holdFor_tru (n src : Nat) (h : Option (Option Nat)) : (holdFor s n src h).tru = s.tru := by rw [holdFor_frame]
@[simp] theorem holdFor_gau (n src : Nat) (h : Option (Option Nat)) : (holdFor s n src h).gau = s.gau := by rw [holdFor_frame]
@[simp] theorem holdFor_evr (n src : Nat) (h : Option (Option Nat)) : (holdFor s n src h).evr = s.evr := by rw [holdFor_frame]
@[simp] theorem holdFor_inp (n src : Nat) (h : Option (Option Nat)) : (holdFor s n src h).inp = s.inp := by rw [holdFor_frame]
@[simp] theorem holdFor_dbg (n src : Nat) (h : Option (Option Nat)) : (holdFor s n src h).dbg = s.dbg := by rw [holdFor_frame]

/-- Fixing a cause's end changes the schedule only (R45). -/
theorem endCause_frame (n src d : Nat) : endCause s n src d = { s with sch := (endCause s n src d).sch } := rfl
@[simp] theorem endCause_pending (n src d : Nat) : (endCause s n src d).pending = s.pending := by rw [endCause_frame]
@[simp] theorem endCause_free (n src d : Nat) : (endCause s n src d).free = s.free := by rw [endCause_frame]
@[simp] theorem endCause_pins (n src d : Nat) : (endCause s n src d).pins = s.pins := by rw [endCause_frame]
@[simp] theorem endCause_dev (n src d : Nat) : (endCause s n src d).dev = s.dev := by rw [endCause_frame]
@[simp] theorem endCause_cores (n src d : Nat) : (endCause s n src d).cores = s.cores := by rw [endCause_frame]
@[simp] theorem endCause_pools (n src d : Nat) : (endCause s n src d).pools = s.pools := by rw [endCause_frame]
@[simp] theorem endCause_beds (n src d : Nat) : (endCause s n src d).beds = s.beds := by rw [endCause_frame]
@[simp] theorem endCause_fab (n src d : Nat) : (endCause s n src d).fab = s.fab := by rw [endCause_frame]
@[simp] theorem endCause_wts (n src d : Nat) : (endCause s n src d).wts = s.wts := by rw [endCause_frame]
@[simp] theorem endCause_srv (n src d : Nat) : (endCause s n src d).srv = s.srv := by rw [endCause_frame]
@[simp] theorem endCause_trib (n src d : Nat) : (endCause s n src d).trib = s.trib := by rw [endCause_frame]
@[simp] theorem endCause_mgm (n src d : Nat) : (endCause s n src d).mgm = s.mgm := by rw [endCause_frame]
@[simp] theorem endCause_pwr (n src d : Nat) : (endCause s n src d).pwr = s.pwr := by rw [endCause_frame]
@[simp] theorem endCause_rep (n src d : Nat) : (endCause s n src d).rep = s.rep := by rw [endCause_frame]
@[simp] theorem endCause_tru (n src d : Nat) : (endCause s n src d).tru = s.tru := by rw [endCause_frame]
@[simp] theorem endCause_gau (n src d : Nat) : (endCause s n src d).gau = s.gau := by rw [endCause_frame]
@[simp] theorem endCause_evr (n src d : Nat) : (endCause s n src d).evr = s.evr := by rw [endCause_frame]
@[simp] theorem endCause_inp (n src d : Nat) : (endCause s n src d).inp = s.inp := by rw [endCause_frame]
@[simp] theorem endCause_dbg (n src d : Nat) : (endCause s n src d).dbg = s.dbg := by rw [endCause_frame]

/-- Removing a cause changes the schedule only. -/
theorem dropCause_frame (n : Nat) : dropCause s n = { s with sch := (dropCause s n).sch } := rfl
@[simp] theorem dropCause_pending (n : Nat) : (dropCause s n).pending = s.pending := by rw [dropCause_frame]
@[simp] theorem dropCause_free (n : Nat) : (dropCause s n).free = s.free := by rw [dropCause_frame]
@[simp] theorem dropCause_pins (n : Nat) : (dropCause s n).pins = s.pins := by rw [dropCause_frame]
@[simp] theorem dropCause_dev (n : Nat) : (dropCause s n).dev = s.dev := by rw [dropCause_frame]
@[simp] theorem dropCause_cores (n : Nat) : (dropCause s n).cores = s.cores := by rw [dropCause_frame]
@[simp] theorem dropCause_pools (n : Nat) : (dropCause s n).pools = s.pools := by rw [dropCause_frame]
@[simp] theorem dropCause_beds (n : Nat) : (dropCause s n).beds = s.beds := by rw [dropCause_frame]
@[simp] theorem dropCause_fab (n : Nat) : (dropCause s n).fab = s.fab := by rw [dropCause_frame]
@[simp] theorem dropCause_wts (n : Nat) : (dropCause s n).wts = s.wts := by rw [dropCause_frame]
@[simp] theorem dropCause_srv (n : Nat) : (dropCause s n).srv = s.srv := by rw [dropCause_frame]
@[simp] theorem dropCause_trib (n : Nat) : (dropCause s n).trib = s.trib := by rw [dropCause_frame]
@[simp] theorem dropCause_mgm (n : Nat) : (dropCause s n).mgm = s.mgm := by rw [dropCause_frame]
@[simp] theorem dropCause_pwr (n : Nat) : (dropCause s n).pwr = s.pwr := by rw [dropCause_frame]
@[simp] theorem dropCause_rep (n : Nat) : (dropCause s n).rep = s.rep := by rw [dropCause_frame]
@[simp] theorem dropCause_tru (n : Nat) : (dropCause s n).tru = s.tru := by rw [dropCause_frame]
@[simp] theorem dropCause_gau (n : Nat) : (dropCause s n).gau = s.gau := by rw [dropCause_frame]
@[simp] theorem dropCause_evr (n : Nat) : (dropCause s n).evr = s.evr := by rw [dropCause_frame]
@[simp] theorem dropCause_inp (n : Nat) : (dropCause s n).inp = s.inp := by rw [dropCause_frame]
@[simp] theorem dropCause_dbg (n : Nat) : (dropCause s n).dbg = s.dbg := by rw [dropCause_frame]

/-- Asking for a halt changes the schedule only (R94). -/
theorem haltNext_frame (id : Nat) : haltNext s id = { s with sch := (haltNext s id).sch } := rfl
@[simp] theorem haltNext_pending (id : Nat) : (haltNext s id).pending = s.pending := by rw [haltNext_frame]
@[simp] theorem haltNext_free (id : Nat) : (haltNext s id).free = s.free := by rw [haltNext_frame]
@[simp] theorem haltNext_pins (id : Nat) : (haltNext s id).pins = s.pins := by rw [haltNext_frame]
@[simp] theorem haltNext_dev (id : Nat) : (haltNext s id).dev = s.dev := by rw [haltNext_frame]
@[simp] theorem haltNext_cores (id : Nat) : (haltNext s id).cores = s.cores := by rw [haltNext_frame]
@[simp] theorem haltNext_pools (id : Nat) : (haltNext s id).pools = s.pools := by rw [haltNext_frame]
@[simp] theorem haltNext_beds (id : Nat) : (haltNext s id).beds = s.beds := by rw [haltNext_frame]
@[simp] theorem haltNext_fab (id : Nat) : (haltNext s id).fab = s.fab := by rw [haltNext_frame]
@[simp] theorem haltNext_wts (id : Nat) : (haltNext s id).wts = s.wts := by rw [haltNext_frame]
@[simp] theorem haltNext_srv (id : Nat) : (haltNext s id).srv = s.srv := by rw [haltNext_frame]
@[simp] theorem haltNext_trib (id : Nat) : (haltNext s id).trib = s.trib := by rw [haltNext_frame]
@[simp] theorem haltNext_mgm (id : Nat) : (haltNext s id).mgm = s.mgm := by rw [haltNext_frame]
@[simp] theorem haltNext_pwr (id : Nat) : (haltNext s id).pwr = s.pwr := by rw [haltNext_frame]
@[simp] theorem haltNext_rep (id : Nat) : (haltNext s id).rep = s.rep := by rw [haltNext_frame]
@[simp] theorem haltNext_tru (id : Nat) : (haltNext s id).tru = s.tru := by rw [haltNext_frame]
@[simp] theorem haltNext_gau (id : Nat) : (haltNext s id).gau = s.gau := by rw [haltNext_frame]
@[simp] theorem haltNext_evr (id : Nat) : (haltNext s id).evr = s.evr := by rw [haltNext_frame]
@[simp] theorem haltNext_inp (id : Nat) : (haltNext s id).inp = s.inp := by rw [haltNext_frame]
@[simp] theorem haltNext_dbg (id : Nat) : (haltNext s id).dbg = s.dbg := by rw [haltNext_frame]

/-- A bed write changes the beds only. -/
theorem bedWrite_frame (a : Nat) (bs : List Byte) : bedWrite s a bs = { s with beds := (bedWrite s a bs).beds } := rfl
@[simp] theorem bedWrite_pending (a : Nat) (bs : List Byte) : (bedWrite s a bs).pending = s.pending := by rw [bedWrite_frame]
@[simp] theorem bedWrite_free (a : Nat) (bs : List Byte) : (bedWrite s a bs).free = s.free := by rw [bedWrite_frame]
@[simp] theorem bedWrite_pins (a : Nat) (bs : List Byte) : (bedWrite s a bs).pins = s.pins := by rw [bedWrite_frame]
@[simp] theorem bedWrite_dev (a : Nat) (bs : List Byte) : (bedWrite s a bs).dev = s.dev := by rw [bedWrite_frame]
@[simp] theorem bedWrite_sch (a : Nat) (bs : List Byte) : (bedWrite s a bs).sch = s.sch := by rw [bedWrite_frame]
@[simp] theorem bedWrite_cores (a : Nat) (bs : List Byte) : (bedWrite s a bs).cores = s.cores := by rw [bedWrite_frame]
@[simp] theorem bedWrite_pools (a : Nat) (bs : List Byte) : (bedWrite s a bs).pools = s.pools := by rw [bedWrite_frame]
@[simp] theorem bedWrite_fab (a : Nat) (bs : List Byte) : (bedWrite s a bs).fab = s.fab := by rw [bedWrite_frame]
@[simp] theorem bedWrite_wts (a : Nat) (bs : List Byte) : (bedWrite s a bs).wts = s.wts := by rw [bedWrite_frame]
@[simp] theorem bedWrite_srv (a : Nat) (bs : List Byte) : (bedWrite s a bs).srv = s.srv := by rw [bedWrite_frame]
@[simp] theorem bedWrite_trib (a : Nat) (bs : List Byte) : (bedWrite s a bs).trib = s.trib := by rw [bedWrite_frame]
@[simp] theorem bedWrite_mgm (a : Nat) (bs : List Byte) : (bedWrite s a bs).mgm = s.mgm := by rw [bedWrite_frame]
@[simp] theorem bedWrite_pwr (a : Nat) (bs : List Byte) : (bedWrite s a bs).pwr = s.pwr := by rw [bedWrite_frame]
@[simp] theorem bedWrite_rep (a : Nat) (bs : List Byte) : (bedWrite s a bs).rep = s.rep := by rw [bedWrite_frame]
@[simp] theorem bedWrite_tru (a : Nat) (bs : List Byte) : (bedWrite s a bs).tru = s.tru := by rw [bedWrite_frame]
@[simp] theorem bedWrite_gau (a : Nat) (bs : List Byte) : (bedWrite s a bs).gau = s.gau := by rw [bedWrite_frame]
@[simp] theorem bedWrite_evr (a : Nat) (bs : List Byte) : (bedWrite s a bs).evr = s.evr := by rw [bedWrite_frame]
@[simp] theorem bedWrite_inp (a : Nat) (bs : List Byte) : (bedWrite s a bs).inp = s.inp := by rw [bedWrite_frame]
@[simp] theorem bedWrite_dbg (a : Nat) (bs : List Byte) : (bedWrite s a bs).dbg = s.dbg := by rw [bedWrite_frame]

/-- A write of the replay log changes the beds only (R538). -/
theorem logWrite_frame (o : Nat) (bs : List Byte) : logWrite s o bs = { s with beds := (logWrite s o bs).beds } := by unfold logWrite; split <;> rfl
@[simp] theorem logWrite_pending (o : Nat) (bs : List Byte) : (logWrite s o bs).pending = s.pending := by rw [logWrite_frame]
@[simp] theorem logWrite_free (o : Nat) (bs : List Byte) : (logWrite s o bs).free = s.free := by rw [logWrite_frame]
@[simp] theorem logWrite_pins (o : Nat) (bs : List Byte) : (logWrite s o bs).pins = s.pins := by rw [logWrite_frame]
@[simp] theorem logWrite_dev (o : Nat) (bs : List Byte) : (logWrite s o bs).dev = s.dev := by rw [logWrite_frame]
@[simp] theorem logWrite_sch (o : Nat) (bs : List Byte) : (logWrite s o bs).sch = s.sch := by rw [logWrite_frame]
@[simp] theorem logWrite_cores (o : Nat) (bs : List Byte) : (logWrite s o bs).cores = s.cores := by rw [logWrite_frame]
@[simp] theorem logWrite_pools (o : Nat) (bs : List Byte) : (logWrite s o bs).pools = s.pools := by rw [logWrite_frame]
@[simp] theorem logWrite_fab (o : Nat) (bs : List Byte) : (logWrite s o bs).fab = s.fab := by rw [logWrite_frame]
@[simp] theorem logWrite_wts (o : Nat) (bs : List Byte) : (logWrite s o bs).wts = s.wts := by rw [logWrite_frame]
@[simp] theorem logWrite_srv (o : Nat) (bs : List Byte) : (logWrite s o bs).srv = s.srv := by rw [logWrite_frame]
@[simp] theorem logWrite_trib (o : Nat) (bs : List Byte) : (logWrite s o bs).trib = s.trib := by rw [logWrite_frame]
@[simp] theorem logWrite_mgm (o : Nat) (bs : List Byte) : (logWrite s o bs).mgm = s.mgm := by rw [logWrite_frame]
@[simp] theorem logWrite_pwr (o : Nat) (bs : List Byte) : (logWrite s o bs).pwr = s.pwr := by rw [logWrite_frame]
@[simp] theorem logWrite_rep (o : Nat) (bs : List Byte) : (logWrite s o bs).rep = s.rep := by rw [logWrite_frame]
@[simp] theorem logWrite_tru (o : Nat) (bs : List Byte) : (logWrite s o bs).tru = s.tru := by rw [logWrite_frame]
@[simp] theorem logWrite_gau (o : Nat) (bs : List Byte) : (logWrite s o bs).gau = s.gau := by rw [logWrite_frame]
@[simp] theorem logWrite_evr (o : Nat) (bs : List Byte) : (logWrite s o bs).evr = s.evr := by rw [logWrite_frame]
@[simp] theorem logWrite_inp (o : Nat) (bs : List Byte) : (logWrite s o bs).inp = s.inp := by rw [logWrite_frame]
@[simp] theorem logWrite_dbg (o : Nat) (bs : List Byte) : (logWrite s o bs).dbg = s.dbg := by rw [logWrite_frame]

/-- Stopping the input recorder changes it and its log (R538). -/
theorem inpStop_frame (st : Nat) : inpStop s st = { s with beds := (inpStop s st).beds, inp := (inpStop s st).inp } := by
  unfold inpStop; split
  · exact (logWrite_frame _ _ _).trans (by simp only [logWrite_inp])
  · rfl
@[simp] theorem inpStop_pending (st : Nat) : (inpStop s st).pending = s.pending := by rw [inpStop_frame]
@[simp] theorem inpStop_free (st : Nat) : (inpStop s st).free = s.free := by rw [inpStop_frame]
@[simp] theorem inpStop_pins (st : Nat) : (inpStop s st).pins = s.pins := by rw [inpStop_frame]
@[simp] theorem inpStop_dev (st : Nat) : (inpStop s st).dev = s.dev := by rw [inpStop_frame]
@[simp] theorem inpStop_sch (st : Nat) : (inpStop s st).sch = s.sch := by rw [inpStop_frame]
@[simp] theorem inpStop_cores (st : Nat) : (inpStop s st).cores = s.cores := by rw [inpStop_frame]
@[simp] theorem inpStop_pools (st : Nat) : (inpStop s st).pools = s.pools := by rw [inpStop_frame]
@[simp] theorem inpStop_fab (st : Nat) : (inpStop s st).fab = s.fab := by rw [inpStop_frame]
@[simp] theorem inpStop_wts (st : Nat) : (inpStop s st).wts = s.wts := by rw [inpStop_frame]
@[simp] theorem inpStop_srv (st : Nat) : (inpStop s st).srv = s.srv := by rw [inpStop_frame]
@[simp] theorem inpStop_trib (st : Nat) : (inpStop s st).trib = s.trib := by rw [inpStop_frame]
@[simp] theorem inpStop_mgm (st : Nat) : (inpStop s st).mgm = s.mgm := by rw [inpStop_frame]
@[simp] theorem inpStop_pwr (st : Nat) : (inpStop s st).pwr = s.pwr := by rw [inpStop_frame]
@[simp] theorem inpStop_rep (st : Nat) : (inpStop s st).rep = s.rep := by rw [inpStop_frame]
@[simp] theorem inpStop_tru (st : Nat) : (inpStop s st).tru = s.tru := by rw [inpStop_frame]
@[simp] theorem inpStop_gau (st : Nat) : (inpStop s st).gau = s.gau := by rw [inpStop_frame]
@[simp] theorem inpStop_evr (st : Nat) : (inpStop s st).evr = s.evr := by rw [inpStop_frame]
@[simp] theorem inpStop_dbg (st : Nat) : (inpStop s st).dbg = s.dbg := by rw [inpStop_frame]

/-- A change of the device state changes it and the recorder (R433). -/
theorem setState0_frame (n : DevState) : setState0 s n = { s with dev := (setState0 s n).dev, evr := (setState0 s n).evr } := by
  unfold setState0; dsimp only; split
  · rfl
  · split
    · rfl
    · exact (raise_frame _ _ _ _).trans (by simp only [raise_dev]; rfl)
@[simp] theorem setState0_pending (n : DevState) : (setState0 s n).pending = s.pending := by rw [setState0_frame]
@[simp] theorem setState0_free (n : DevState) : (setState0 s n).free = s.free := by rw [setState0_frame]
@[simp] theorem setState0_pins (n : DevState) : (setState0 s n).pins = s.pins := by rw [setState0_frame]
@[simp] theorem setState0_sch (n : DevState) : (setState0 s n).sch = s.sch := by rw [setState0_frame]
@[simp] theorem setState0_cores (n : DevState) : (setState0 s n).cores = s.cores := by rw [setState0_frame]
@[simp] theorem setState0_pools (n : DevState) : (setState0 s n).pools = s.pools := by rw [setState0_frame]
@[simp] theorem setState0_beds (n : DevState) : (setState0 s n).beds = s.beds := by rw [setState0_frame]
@[simp] theorem setState0_fab (n : DevState) : (setState0 s n).fab = s.fab := by rw [setState0_frame]
@[simp] theorem setState0_wts (n : DevState) : (setState0 s n).wts = s.wts := by rw [setState0_frame]
@[simp] theorem setState0_srv (n : DevState) : (setState0 s n).srv = s.srv := by rw [setState0_frame]
@[simp] theorem setState0_trib (n : DevState) : (setState0 s n).trib = s.trib := by rw [setState0_frame]
@[simp] theorem setState0_mgm (n : DevState) : (setState0 s n).mgm = s.mgm := by rw [setState0_frame]
@[simp] theorem setState0_pwr (n : DevState) : (setState0 s n).pwr = s.pwr := by rw [setState0_frame]
@[simp] theorem setState0_rep (n : DevState) : (setState0 s n).rep = s.rep := by rw [setState0_frame]
@[simp] theorem setState0_tru (n : DevState) : (setState0 s n).tru = s.tru := by rw [setState0_frame]
@[simp] theorem setState0_gau (n : DevState) : (setState0 s n).gau = s.gau := by rw [setState0_frame]
@[simp] theorem setState0_inp (n : DevState) : (setState0 s n).inp = s.inp := by rw [setState0_frame]
@[simp] theorem setState0_dbg (n : DevState) : (setState0 s n).dbg = s.dbg := by rw [setState0_frame]

/-- Entry into SLACKWATER changes the device state, the power state and the recorder (R477). -/
theorem enterSleep_frame : enterSleep s = { s with dev := (enterSleep s).dev, pwr := (enterSleep s).pwr, evr := (enterSleep s).evr } := by
  unfold enterSleep; dsimp only
  exact (raise_frame _ _ _ _).trans (by simp)
@[simp] theorem enterSleep_pending : (enterSleep s).pending = s.pending := by rw [enterSleep_frame]
@[simp] theorem enterSleep_free : (enterSleep s).free = s.free := by rw [enterSleep_frame]
@[simp] theorem enterSleep_pins : (enterSleep s).pins = s.pins := by rw [enterSleep_frame]
@[simp] theorem enterSleep_sch : (enterSleep s).sch = s.sch := by rw [enterSleep_frame]
@[simp] theorem enterSleep_cores : (enterSleep s).cores = s.cores := by rw [enterSleep_frame]
@[simp] theorem enterSleep_pools : (enterSleep s).pools = s.pools := by rw [enterSleep_frame]
@[simp] theorem enterSleep_beds : (enterSleep s).beds = s.beds := by rw [enterSleep_frame]
@[simp] theorem enterSleep_fab : (enterSleep s).fab = s.fab := by rw [enterSleep_frame]
@[simp] theorem enterSleep_wts : (enterSleep s).wts = s.wts := by rw [enterSleep_frame]
@[simp] theorem enterSleep_srv : (enterSleep s).srv = s.srv := by rw [enterSleep_frame]
@[simp] theorem enterSleep_trib : (enterSleep s).trib = s.trib := by rw [enterSleep_frame]
@[simp] theorem enterSleep_mgm : (enterSleep s).mgm = s.mgm := by rw [enterSleep_frame]
@[simp] theorem enterSleep_rep : (enterSleep s).rep = s.rep := by rw [enterSleep_frame]
@[simp] theorem enterSleep_tru : (enterSleep s).tru = s.tru := by rw [enterSleep_frame]
@[simp] theorem enterSleep_gau : (enterSleep s).gau = s.gau := by rw [enterSleep_frame]
@[simp] theorem enterSleep_inp : (enterSleep s).inp = s.inp := by rw [enterSleep_frame]
@[simp] theorem enterSleep_dbg : (enterSleep s).dbg = s.dbg := by rw [enterSleep_frame]

/-- A change of the device state and what a board request makes of it (R435). -/
theorem setState_frame (n : DevState) : setState s n = { s with dev := (setState s n).dev, pwr := (setState s n).pwr, evr := (setState s n).evr } := by
  unfold setState; dsimp only; split
  · exact (enterSleep_frame _).trans (by simp)
  · rw [setState0_frame]
@[simp] theorem setState_pending (n : DevState) : (setState s n).pending = s.pending := by rw [setState_frame]
@[simp] theorem setState_free (n : DevState) : (setState s n).free = s.free := by rw [setState_frame]
@[simp] theorem setState_pins (n : DevState) : (setState s n).pins = s.pins := by rw [setState_frame]
@[simp] theorem setState_sch (n : DevState) : (setState s n).sch = s.sch := by rw [setState_frame]
@[simp] theorem setState_cores (n : DevState) : (setState s n).cores = s.cores := by rw [setState_frame]
@[simp] theorem setState_pools (n : DevState) : (setState s n).pools = s.pools := by rw [setState_frame]
@[simp] theorem setState_beds (n : DevState) : (setState s n).beds = s.beds := by rw [setState_frame]
@[simp] theorem setState_fab (n : DevState) : (setState s n).fab = s.fab := by rw [setState_frame]
@[simp] theorem setState_wts (n : DevState) : (setState s n).wts = s.wts := by rw [setState_frame]
@[simp] theorem setState_srv (n : DevState) : (setState s n).srv = s.srv := by rw [setState_frame]
@[simp] theorem setState_trib (n : DevState) : (setState s n).trib = s.trib := by rw [setState_frame]
@[simp] theorem setState_mgm (n : DevState) : (setState s n).mgm = s.mgm := by rw [setState_frame]
@[simp] theorem setState_rep (n : DevState) : (setState s n).rep = s.rep := by rw [setState_frame]
@[simp] theorem setState_tru (n : DevState) : (setState s n).tru = s.tru := by rw [setState_frame]
@[simp] theorem setState_gau (n : DevState) : (setState s n).gau = s.gau := by rw [setState_frame]
@[simp] theorem setState_inp (n : DevState) : (setState s n).inp = s.inp := by rw [setState_frame]
@[simp] theorem setState_dbg (n : DevState) : (setState s n).dbg = s.dbg := by rw [setState_frame]

/-- Freezing the job changes the device state, the recorders and the log (R10). -/
theorem freeze_frame (id : Nat) : freeze s id = { s with dev := (freeze s id).dev, beds := (freeze s id).beds, evr := (freeze s id).evr, inp := (freeze s id).inp } := by
  unfold freeze; dsimp only; split
  · exact (setState0_frame _ _).trans (by simp)
  · rfl
@[simp] theorem freeze_pending (id : Nat) : (freeze s id).pending = s.pending := by rw [freeze_frame]
@[simp] theorem freeze_free (id : Nat) : (freeze s id).free = s.free := by rw [freeze_frame]
@[simp] theorem freeze_pins (id : Nat) : (freeze s id).pins = s.pins := by rw [freeze_frame]
@[simp] theorem freeze_sch (id : Nat) : (freeze s id).sch = s.sch := by rw [freeze_frame]
@[simp] theorem freeze_cores (id : Nat) : (freeze s id).cores = s.cores := by rw [freeze_frame]
@[simp] theorem freeze_pools (id : Nat) : (freeze s id).pools = s.pools := by rw [freeze_frame]
@[simp] theorem freeze_fab (id : Nat) : (freeze s id).fab = s.fab := by rw [freeze_frame]
@[simp] theorem freeze_wts (id : Nat) : (freeze s id).wts = s.wts := by rw [freeze_frame]
@[simp] theorem freeze_srv (id : Nat) : (freeze s id).srv = s.srv := by rw [freeze_frame]
@[simp] theorem freeze_trib (id : Nat) : (freeze s id).trib = s.trib := by rw [freeze_frame]
@[simp] theorem freeze_mgm (id : Nat) : (freeze s id).mgm = s.mgm := by rw [freeze_frame]
@[simp] theorem freeze_pwr (id : Nat) : (freeze s id).pwr = s.pwr := by rw [freeze_frame]
@[simp] theorem freeze_rep (id : Nat) : (freeze s id).rep = s.rep := by rw [freeze_frame]
@[simp] theorem freeze_tru (id : Nat) : (freeze s id).tru = s.tru := by rw [freeze_frame]
@[simp] theorem freeze_gau (id : Nat) : (freeze s id).gau = s.gau := by rw [freeze_frame]
@[simp] theorem freeze_dbg (id : Nat) : (freeze s id).dbg = s.dbg := by rw [freeze_frame]

/-- A fatal event is its record and the freeze. -/
theorem fatal_frame (id n : Nat) (l : List Nat) : fatal s id n l = { s with dev := (fatal s id n l).dev, beds := (fatal s id n l).beds, evr := (fatal s id n l).evr, inp := (fatal s id n l).inp } := (freeze_frame _ _).trans (by simp [fatal])
@[simp] theorem fatal_pending (id n : Nat) (l : List Nat) : (fatal s id n l).pending = s.pending := by rw [fatal_frame]
@[simp] theorem fatal_free (id n : Nat) (l : List Nat) : (fatal s id n l).free = s.free := by rw [fatal_frame]
@[simp] theorem fatal_pins (id n : Nat) (l : List Nat) : (fatal s id n l).pins = s.pins := by rw [fatal_frame]
@[simp] theorem fatal_sch (id n : Nat) (l : List Nat) : (fatal s id n l).sch = s.sch := by rw [fatal_frame]
@[simp] theorem fatal_cores (id n : Nat) (l : List Nat) : (fatal s id n l).cores = s.cores := by rw [fatal_frame]
@[simp] theorem fatal_pools (id n : Nat) (l : List Nat) : (fatal s id n l).pools = s.pools := by rw [fatal_frame]
@[simp] theorem fatal_fab (id n : Nat) (l : List Nat) : (fatal s id n l).fab = s.fab := by rw [fatal_frame]
@[simp] theorem fatal_wts (id n : Nat) (l : List Nat) : (fatal s id n l).wts = s.wts := by rw [fatal_frame]
@[simp] theorem fatal_srv (id n : Nat) (l : List Nat) : (fatal s id n l).srv = s.srv := by rw [fatal_frame]
@[simp] theorem fatal_trib (id n : Nat) (l : List Nat) : (fatal s id n l).trib = s.trib := by rw [fatal_frame]
@[simp] theorem fatal_mgm (id n : Nat) (l : List Nat) : (fatal s id n l).mgm = s.mgm := by rw [fatal_frame]
@[simp] theorem fatal_pwr (id n : Nat) (l : List Nat) : (fatal s id n l).pwr = s.pwr := by rw [fatal_frame]
@[simp] theorem fatal_rep (id n : Nat) (l : List Nat) : (fatal s id n l).rep = s.rep := by rw [fatal_frame]
@[simp] theorem fatal_tru (id n : Nat) (l : List Nat) : (fatal s id n l).tru = s.tru := by rw [fatal_frame]
@[simp] theorem fatal_gau (id n : Nat) (l : List Nat) : (fatal s id n l).gau = s.gau := by rw [fatal_frame]
@[simp] theorem fatal_dbg (id n : Nat) (l : List Nat) : (fatal s id n l).dbg = s.dbg := by rw [fatal_frame]

/-- A debug halt changes the device state, the schedule's causes, the records and MR7 (R545). -/
theorem debugHalt_frame (c : Nat) : debugHalt s c = { s with dev := (debugHalt s c).dev, sch := (debugHalt s c).sch, evr := (debugHalt s c).evr, tru := (debugHalt s c).tru, dbg := (debugHalt s c).dbg } := by unfold debugHalt; dsimp only; exact (measureDebug_frame _ _).trans (by simp)
@[simp] theorem debugHalt_pending (c : Nat) : (debugHalt s c).pending = s.pending := by rw [debugHalt_frame]
@[simp] theorem debugHalt_free (c : Nat) : (debugHalt s c).free = s.free := by rw [debugHalt_frame]
@[simp] theorem debugHalt_pins (c : Nat) : (debugHalt s c).pins = s.pins := by rw [debugHalt_frame]
@[simp] theorem debugHalt_cores (c : Nat) : (debugHalt s c).cores = s.cores := by rw [debugHalt_frame]
@[simp] theorem debugHalt_pools (c : Nat) : (debugHalt s c).pools = s.pools := by rw [debugHalt_frame]
@[simp] theorem debugHalt_beds (c : Nat) : (debugHalt s c).beds = s.beds := by rw [debugHalt_frame]
@[simp] theorem debugHalt_fab (c : Nat) : (debugHalt s c).fab = s.fab := by rw [debugHalt_frame]
@[simp] theorem debugHalt_wts (c : Nat) : (debugHalt s c).wts = s.wts := by rw [debugHalt_frame]
@[simp] theorem debugHalt_srv (c : Nat) : (debugHalt s c).srv = s.srv := by rw [debugHalt_frame]
@[simp] theorem debugHalt_trib (c : Nat) : (debugHalt s c).trib = s.trib := by rw [debugHalt_frame]
@[simp] theorem debugHalt_mgm (c : Nat) : (debugHalt s c).mgm = s.mgm := by rw [debugHalt_frame]
@[simp] theorem debugHalt_pwr (c : Nat) : (debugHalt s c).pwr = s.pwr := by rw [debugHalt_frame]
@[simp] theorem debugHalt_rep (c : Nat) : (debugHalt s c).rep = s.rep := by rw [debugHalt_frame]
@[simp] theorem debugHalt_gau (c : Nat) : (debugHalt s c).gau = s.gau := by rw [debugHalt_frame]
@[simp] theorem debugHalt_inp (c : Nat) : (debugHalt s c).inp = s.inp := by rw [debugHalt_frame]

/-- An answer changes the management state only (R425). -/
theorem respond_frame (r : Resp) : respond s r = { s with mgm := (respond s r).mgm } := rfl
@[simp] theorem respond_pending (r : Resp) : (respond s r).pending = s.pending := by rw [respond_frame]
@[simp] theorem respond_free (r : Resp) : (respond s r).free = s.free := by rw [respond_frame]
@[simp] theorem respond_pins (r : Resp) : (respond s r).pins = s.pins := by rw [respond_frame]
@[simp] theorem respond_dev (r : Resp) : (respond s r).dev = s.dev := by rw [respond_frame]
@[simp] theorem respond_sch (r : Resp) : (respond s r).sch = s.sch := by rw [respond_frame]
@[simp] theorem respond_cores (r : Resp) : (respond s r).cores = s.cores := by rw [respond_frame]
@[simp] theorem respond_pools (r : Resp) : (respond s r).pools = s.pools := by rw [respond_frame]
@[simp] theorem respond_beds (r : Resp) : (respond s r).beds = s.beds := by rw [respond_frame]
@[simp] theorem respond_fab (r : Resp) : (respond s r).fab = s.fab := by rw [respond_frame]
@[simp] theorem respond_wts (r : Resp) : (respond s r).wts = s.wts := by rw [respond_frame]
@[simp] theorem respond_srv (r : Resp) : (respond s r).srv = s.srv := by rw [respond_frame]
@[simp] theorem respond_trib (r : Resp) : (respond s r).trib = s.trib := by rw [respond_frame]
@[simp] theorem respond_pwr (r : Resp) : (respond s r).pwr = s.pwr := by rw [respond_frame]
@[simp] theorem respond_rep (r : Resp) : (respond s r).rep = s.rep := by rw [respond_frame]
@[simp] theorem respond_tru (r : Resp) : (respond s r).tru = s.tru := by rw [respond_frame]
@[simp] theorem respond_gau (r : Resp) : (respond s r).gau = s.gau := by rw [respond_frame]
@[simp] theorem respond_evr (r : Resp) : (respond s r).evr = s.evr := by rw [respond_frame]
@[simp] theorem respond_inp (r : Resp) : (respond s r).inp = s.inp := by rw [respond_frame]
@[simp] theorem respond_dbg (r : Resp) : (respond s r).dbg = s.dbg := by rw [respond_frame]

/-- A success changes the management state only. -/
theorem okResp_frame (p : Path) (o : Nat) : okResp s p o = { s with mgm := (okResp s p o).mgm } := rfl
@[simp] theorem okResp_pending (p : Path) (o : Nat) : (okResp s p o).pending = s.pending := by rw [okResp_frame]
@[simp] theorem okResp_free (p : Path) (o : Nat) : (okResp s p o).free = s.free := by rw [okResp_frame]
@[simp] theorem okResp_pins (p : Path) (o : Nat) : (okResp s p o).pins = s.pins := by rw [okResp_frame]
@[simp] theorem okResp_dev (p : Path) (o : Nat) : (okResp s p o).dev = s.dev := by rw [okResp_frame]
@[simp] theorem okResp_sch (p : Path) (o : Nat) : (okResp s p o).sch = s.sch := by rw [okResp_frame]
@[simp] theorem okResp_cores (p : Path) (o : Nat) : (okResp s p o).cores = s.cores := by rw [okResp_frame]
@[simp] theorem okResp_pools (p : Path) (o : Nat) : (okResp s p o).pools = s.pools := by rw [okResp_frame]
@[simp] theorem okResp_beds (p : Path) (o : Nat) : (okResp s p o).beds = s.beds := by rw [okResp_frame]
@[simp] theorem okResp_fab (p : Path) (o : Nat) : (okResp s p o).fab = s.fab := by rw [okResp_frame]
@[simp] theorem okResp_wts (p : Path) (o : Nat) : (okResp s p o).wts = s.wts := by rw [okResp_frame]
@[simp] theorem okResp_srv (p : Path) (o : Nat) : (okResp s p o).srv = s.srv := by rw [okResp_frame]
@[simp] theorem okResp_trib (p : Path) (o : Nat) : (okResp s p o).trib = s.trib := by rw [okResp_frame]
@[simp] theorem okResp_pwr (p : Path) (o : Nat) : (okResp s p o).pwr = s.pwr := by rw [okResp_frame]
@[simp] theorem okResp_rep (p : Path) (o : Nat) : (okResp s p o).rep = s.rep := by rw [okResp_frame]
@[simp] theorem okResp_tru (p : Path) (o : Nat) : (okResp s p o).tru = s.tru := by rw [okResp_frame]
@[simp] theorem okResp_gau (p : Path) (o : Nat) : (okResp s p o).gau = s.gau := by rw [okResp_frame]
@[simp] theorem okResp_evr (p : Path) (o : Nat) : (okResp s p o).evr = s.evr := by rw [okResp_frame]
@[simp] theorem okResp_inp (p : Path) (o : Nat) : (okResp s p o).inp = s.inp := by rw [okResp_frame]
@[simp] theorem okResp_dbg (p : Path) (o : Nat) : (okResp s p o).dbg = s.dbg := by rw [okResp_frame]

/-- A refusal changes the management state and raises event 0x0D02 (R430). -/
theorem refuse_frame (p : Path) (o ab : Nat) : refuse s p o ab = { s with mgm := (refuse s p o ab).mgm, evr := (refuse s p o ab).evr } := by unfold refuse; dsimp only; exact (respond_frame _ _).trans (by simp)
@[simp] theorem refuse_pending (p : Path) (o ab : Nat) : (refuse s p o ab).pending = s.pending := by rw [refuse_frame]
@[simp] theorem refuse_free (p : Path) (o ab : Nat) : (refuse s p o ab).free = s.free := by rw [refuse_frame]
@[simp] theorem refuse_pins (p : Path) (o ab : Nat) : (refuse s p o ab).pins = s.pins := by rw [refuse_frame]
@[simp] theorem refuse_dev (p : Path) (o ab : Nat) : (refuse s p o ab).dev = s.dev := by rw [refuse_frame]
@[simp] theorem refuse_sch (p : Path) (o ab : Nat) : (refuse s p o ab).sch = s.sch := by rw [refuse_frame]
@[simp] theorem refuse_cores (p : Path) (o ab : Nat) : (refuse s p o ab).cores = s.cores := by rw [refuse_frame]
@[simp] theorem refuse_pools (p : Path) (o ab : Nat) : (refuse s p o ab).pools = s.pools := by rw [refuse_frame]
@[simp] theorem refuse_beds (p : Path) (o ab : Nat) : (refuse s p o ab).beds = s.beds := by rw [refuse_frame]
@[simp] theorem refuse_fab (p : Path) (o ab : Nat) : (refuse s p o ab).fab = s.fab := by rw [refuse_frame]
@[simp] theorem refuse_wts (p : Path) (o ab : Nat) : (refuse s p o ab).wts = s.wts := by rw [refuse_frame]
@[simp] theorem refuse_srv (p : Path) (o ab : Nat) : (refuse s p o ab).srv = s.srv := by rw [refuse_frame]
@[simp] theorem refuse_trib (p : Path) (o ab : Nat) : (refuse s p o ab).trib = s.trib := by rw [refuse_frame]
@[simp] theorem refuse_pwr (p : Path) (o ab : Nat) : (refuse s p o ab).pwr = s.pwr := by rw [refuse_frame]
@[simp] theorem refuse_rep (p : Path) (o ab : Nat) : (refuse s p o ab).rep = s.rep := by rw [refuse_frame]
@[simp] theorem refuse_tru (p : Path) (o ab : Nat) : (refuse s p o ab).tru = s.tru := by rw [refuse_frame]
@[simp] theorem refuse_gau (p : Path) (o ab : Nat) : (refuse s p o ab).gau = s.gau := by rw [refuse_frame]
@[simp] theorem refuse_inp (p : Path) (o ab : Nat) : (refuse s p o ab).inp = s.inp := by rw [refuse_frame]
@[simp] theorem refuse_dbg (p : Path) (o ab : Nat) : (refuse s p o ab).dbg = s.dbg := by rw [refuse_frame]

/-- A clamp changes the management state and raises event 0x0D03 (R431). -/
theorem clamped_frame (o : Nat) : clamped s o = { s with mgm := (clamped s o).mgm, evr := (clamped s o).evr } := (raise_frame _ _ _ _).trans (by simp [clamped])
@[simp] theorem clamped_pending (o : Nat) : (clamped s o).pending = s.pending := by rw [clamped_frame]
@[simp] theorem clamped_free (o : Nat) : (clamped s o).free = s.free := by rw [clamped_frame]
@[simp] theorem clamped_pins (o : Nat) : (clamped s o).pins = s.pins := by rw [clamped_frame]
@[simp] theorem clamped_dev (o : Nat) : (clamped s o).dev = s.dev := by rw [clamped_frame]
@[simp] theorem clamped_sch (o : Nat) : (clamped s o).sch = s.sch := by rw [clamped_frame]
@[simp] theorem clamped_cores (o : Nat) : (clamped s o).cores = s.cores := by rw [clamped_frame]
@[simp] theorem clamped_pools (o : Nat) : (clamped s o).pools = s.pools := by rw [clamped_frame]
@[simp] theorem clamped_beds (o : Nat) : (clamped s o).beds = s.beds := by rw [clamped_frame]
@[simp] theorem clamped_fab (o : Nat) : (clamped s o).fab = s.fab := by rw [clamped_frame]
@[simp] theorem clamped_wts (o : Nat) : (clamped s o).wts = s.wts := by rw [clamped_frame]
@[simp] theorem clamped_srv (o : Nat) : (clamped s o).srv = s.srv := by rw [clamped_frame]
@[simp] theorem clamped_trib (o : Nat) : (clamped s o).trib = s.trib := by rw [clamped_frame]
@[simp] theorem clamped_pwr (o : Nat) : (clamped s o).pwr = s.pwr := by rw [clamped_frame]
@[simp] theorem clamped_rep (o : Nat) : (clamped s o).rep = s.rep := by rw [clamped_frame]
@[simp] theorem clamped_tru (o : Nat) : (clamped s o).tru = s.tru := by rw [clamped_frame]
@[simp] theorem clamped_gau (o : Nat) : (clamped s o).gau = s.gau := by rw [clamped_frame]
@[simp] theorem clamped_inp (o : Nat) : (clamped s o).inp = s.inp := by rw [clamped_frame]
@[simp] theorem clamped_dbg (o : Nat) : (clamped s o).dbg = s.dbg := by rw [clamped_frame]

/-- Staging changes the management state only (R437). -/
theorem stage_frame (k : StageKind) : stage s k = { s with mgm := (stage s k).mgm } := rfl
@[simp] theorem stage_pending (k : StageKind) : (stage s k).pending = s.pending := by rw [stage_frame]
@[simp] theorem stage_free (k : StageKind) : (stage s k).free = s.free := by rw [stage_frame]
@[simp] theorem stage_pins (k : StageKind) : (stage s k).pins = s.pins := by rw [stage_frame]
@[simp] theorem stage_dev (k : StageKind) : (stage s k).dev = s.dev := by rw [stage_frame]
@[simp] theorem stage_sch (k : StageKind) : (stage s k).sch = s.sch := by rw [stage_frame]
@[simp] theorem stage_cores (k : StageKind) : (stage s k).cores = s.cores := by rw [stage_frame]
@[simp] theorem stage_pools (k : StageKind) : (stage s k).pools = s.pools := by rw [stage_frame]
@[simp] theorem stage_beds (k : StageKind) : (stage s k).beds = s.beds := by rw [stage_frame]
@[simp] theorem stage_fab (k : StageKind) : (stage s k).fab = s.fab := by rw [stage_frame]
@[simp] theorem stage_wts (k : StageKind) : (stage s k).wts = s.wts := by rw [stage_frame]
@[simp] theorem stage_srv (k : StageKind) : (stage s k).srv = s.srv := by rw [stage_frame]
@[simp] theorem stage_trib (k : StageKind) : (stage s k).trib = s.trib := by rw [stage_frame]
@[simp] theorem stage_pwr (k : StageKind) : (stage s k).pwr = s.pwr := by rw [stage_frame]
@[simp] theorem stage_rep (k : StageKind) : (stage s k).rep = s.rep := by rw [stage_frame]
@[simp] theorem stage_tru (k : StageKind) : (stage s k).tru = s.tru := by rw [stage_frame]
@[simp] theorem stage_gau (k : StageKind) : (stage s k).gau = s.gau := by rw [stage_frame]
@[simp] theorem stage_evr (k : StageKind) : (stage s k).evr = s.evr := by rw [stage_frame]
@[simp] theorem stage_inp (k : StageKind) : (stage s k).inp = s.inp := by rw [stage_frame]
@[simp] theorem stage_dbg (k : StageKind) : (stage s k).dbg = s.dbg := by rw [stage_frame]

/-- A scratchpad write changes the cores and may raise event 0x0809 (R282). -/
theorem spadWrite_frame (c a : Nat) (bs : List Byte) : (spadWrite s c a bs).1 = { s with cores := ((spadWrite s c a bs).1).cores, evr := ((spadWrite s c a bs).1).evr } := by
  unfold spadWrite; dsimp only; split
  · rfl
  · exact (raise_frame _ _ _ _).trans (by simp)
@[simp] theorem spadWrite_pending (c a : Nat) (bs : List Byte) : ((spadWrite s c a bs).1).pending = s.pending := by rw [spadWrite_frame]
@[simp] theorem spadWrite_free (c a : Nat) (bs : List Byte) : ((spadWrite s c a bs).1).free = s.free := by rw [spadWrite_frame]
@[simp] theorem spadWrite_pins (c a : Nat) (bs : List Byte) : ((spadWrite s c a bs).1).pins = s.pins := by rw [spadWrite_frame]
@[simp] theorem spadWrite_dev (c a : Nat) (bs : List Byte) : ((spadWrite s c a bs).1).dev = s.dev := by rw [spadWrite_frame]
@[simp] theorem spadWrite_sch (c a : Nat) (bs : List Byte) : ((spadWrite s c a bs).1).sch = s.sch := by rw [spadWrite_frame]
@[simp] theorem spadWrite_pools (c a : Nat) (bs : List Byte) : ((spadWrite s c a bs).1).pools = s.pools := by rw [spadWrite_frame]
@[simp] theorem spadWrite_beds (c a : Nat) (bs : List Byte) : ((spadWrite s c a bs).1).beds = s.beds := by rw [spadWrite_frame]
@[simp] theorem spadWrite_fab (c a : Nat) (bs : List Byte) : ((spadWrite s c a bs).1).fab = s.fab := by rw [spadWrite_frame]
@[simp] theorem spadWrite_wts (c a : Nat) (bs : List Byte) : ((spadWrite s c a bs).1).wts = s.wts := by rw [spadWrite_frame]
@[simp] theorem spadWrite_srv (c a : Nat) (bs : List Byte) : ((spadWrite s c a bs).1).srv = s.srv := by rw [spadWrite_frame]
@[simp] theorem spadWrite_trib (c a : Nat) (bs : List Byte) : ((spadWrite s c a bs).1).trib = s.trib := by rw [spadWrite_frame]
@[simp] theorem spadWrite_mgm (c a : Nat) (bs : List Byte) : ((spadWrite s c a bs).1).mgm = s.mgm := by rw [spadWrite_frame]
@[simp] theorem spadWrite_pwr (c a : Nat) (bs : List Byte) : ((spadWrite s c a bs).1).pwr = s.pwr := by rw [spadWrite_frame]
@[simp] theorem spadWrite_rep (c a : Nat) (bs : List Byte) : ((spadWrite s c a bs).1).rep = s.rep := by rw [spadWrite_frame]
@[simp] theorem spadWrite_tru (c a : Nat) (bs : List Byte) : ((spadWrite s c a bs).1).tru = s.tru := by rw [spadWrite_frame]
@[simp] theorem spadWrite_gau (c a : Nat) (bs : List Byte) : ((spadWrite s c a bs).1).gau = s.gau := by rw [spadWrite_frame]
@[simp] theorem spadWrite_inp (c a : Nat) (bs : List Byte) : ((spadWrite s c a bs).1).inp = s.inp := by rw [spadWrite_frame]
@[simp] theorem spadWrite_dbg (c a : Nat) (bs : List Byte) : ((spadWrite s c a bs).1).dbg = s.dbg := by rw [spadWrite_frame]

/-- A pool write changes the pools and may raise event 0x0809 (R282). -/
theorem poolWrite_frame (c a : Nat) (bs : List Byte) : (poolWrite s c a bs).1 = { s with pools := ((poolWrite s c a bs).1).pools, evr := ((poolWrite s c a bs).1).evr } := by
  unfold poolWrite; dsimp only; split
  · rfl
  · exact (raise_frame _ _ _ _).trans (by simp)
@[simp] theorem poolWrite_pending (c a : Nat) (bs : List Byte) : ((poolWrite s c a bs).1).pending = s.pending := by rw [poolWrite_frame]
@[simp] theorem poolWrite_free (c a : Nat) (bs : List Byte) : ((poolWrite s c a bs).1).free = s.free := by rw [poolWrite_frame]
@[simp] theorem poolWrite_pins (c a : Nat) (bs : List Byte) : ((poolWrite s c a bs).1).pins = s.pins := by rw [poolWrite_frame]
@[simp] theorem poolWrite_dev (c a : Nat) (bs : List Byte) : ((poolWrite s c a bs).1).dev = s.dev := by rw [poolWrite_frame]
@[simp] theorem poolWrite_sch (c a : Nat) (bs : List Byte) : ((poolWrite s c a bs).1).sch = s.sch := by rw [poolWrite_frame]
@[simp] theorem poolWrite_cores (c a : Nat) (bs : List Byte) : ((poolWrite s c a bs).1).cores = s.cores := by rw [poolWrite_frame]
@[simp] theorem poolWrite_beds (c a : Nat) (bs : List Byte) : ((poolWrite s c a bs).1).beds = s.beds := by rw [poolWrite_frame]
@[simp] theorem poolWrite_fab (c a : Nat) (bs : List Byte) : ((poolWrite s c a bs).1).fab = s.fab := by rw [poolWrite_frame]
@[simp] theorem poolWrite_wts (c a : Nat) (bs : List Byte) : ((poolWrite s c a bs).1).wts = s.wts := by rw [poolWrite_frame]
@[simp] theorem poolWrite_srv (c a : Nat) (bs : List Byte) : ((poolWrite s c a bs).1).srv = s.srv := by rw [poolWrite_frame]
@[simp] theorem poolWrite_trib (c a : Nat) (bs : List Byte) : ((poolWrite s c a bs).1).trib = s.trib := by rw [poolWrite_frame]
@[simp] theorem poolWrite_mgm (c a : Nat) (bs : List Byte) : ((poolWrite s c a bs).1).mgm = s.mgm := by rw [poolWrite_frame]
@[simp] theorem poolWrite_pwr (c a : Nat) (bs : List Byte) : ((poolWrite s c a bs).1).pwr = s.pwr := by rw [poolWrite_frame]
@[simp] theorem poolWrite_rep (c a : Nat) (bs : List Byte) : ((poolWrite s c a bs).1).rep = s.rep := by rw [poolWrite_frame]
@[simp] theorem poolWrite_tru (c a : Nat) (bs : List Byte) : ((poolWrite s c a bs).1).tru = s.tru := by rw [poolWrite_frame]
@[simp] theorem poolWrite_gau (c a : Nat) (bs : List Byte) : ((poolWrite s c a bs).1).gau = s.gau := by rw [poolWrite_frame]
@[simp] theorem poolWrite_inp (c a : Nat) (bs : List Byte) : ((poolWrite s c a bs).1).inp = s.inp := by rw [poolWrite_frame]
@[simp] theorem poolWrite_dbg (c a : Nat) (bs : List Byte) : ((poolWrite s c a bs).1).dbg = s.dbg := by rw [poolWrite_frame]

/-- A bank write changes the cores only. -/
theorem bankWriteTo_frame (c o : Nat) (bs : List Byte) (b : Bool) : bankWriteTo s c o bs b = { s with cores := (bankWriteTo s c o bs b).cores } := rfl
@[simp] theorem bankWriteTo_pending (c o : Nat) (bs : List Byte) (b : Bool) : (bankWriteTo s c o bs b).pending = s.pending := by rw [bankWriteTo_frame]
@[simp] theorem bankWriteTo_free (c o : Nat) (bs : List Byte) (b : Bool) : (bankWriteTo s c o bs b).free = s.free := by rw [bankWriteTo_frame]
@[simp] theorem bankWriteTo_pins (c o : Nat) (bs : List Byte) (b : Bool) : (bankWriteTo s c o bs b).pins = s.pins := by rw [bankWriteTo_frame]
@[simp] theorem bankWriteTo_dev (c o : Nat) (bs : List Byte) (b : Bool) : (bankWriteTo s c o bs b).dev = s.dev := by rw [bankWriteTo_frame]
@[simp] theorem bankWriteTo_sch (c o : Nat) (bs : List Byte) (b : Bool) : (bankWriteTo s c o bs b).sch = s.sch := by rw [bankWriteTo_frame]
@[simp] theorem bankWriteTo_pools (c o : Nat) (bs : List Byte) (b : Bool) : (bankWriteTo s c o bs b).pools = s.pools := by rw [bankWriteTo_frame]
@[simp] theorem bankWriteTo_beds (c o : Nat) (bs : List Byte) (b : Bool) : (bankWriteTo s c o bs b).beds = s.beds := by rw [bankWriteTo_frame]
@[simp] theorem bankWriteTo_fab (c o : Nat) (bs : List Byte) (b : Bool) : (bankWriteTo s c o bs b).fab = s.fab := by rw [bankWriteTo_frame]
@[simp] theorem bankWriteTo_wts (c o : Nat) (bs : List Byte) (b : Bool) : (bankWriteTo s c o bs b).wts = s.wts := by rw [bankWriteTo_frame]
@[simp] theorem bankWriteTo_srv (c o : Nat) (bs : List Byte) (b : Bool) : (bankWriteTo s c o bs b).srv = s.srv := by rw [bankWriteTo_frame]
@[simp] theorem bankWriteTo_trib (c o : Nat) (bs : List Byte) (b : Bool) : (bankWriteTo s c o bs b).trib = s.trib := by rw [bankWriteTo_frame]
@[simp] theorem bankWriteTo_mgm (c o : Nat) (bs : List Byte) (b : Bool) : (bankWriteTo s c o bs b).mgm = s.mgm := by rw [bankWriteTo_frame]
@[simp] theorem bankWriteTo_pwr (c o : Nat) (bs : List Byte) (b : Bool) : (bankWriteTo s c o bs b).pwr = s.pwr := by rw [bankWriteTo_frame]
@[simp] theorem bankWriteTo_rep (c o : Nat) (bs : List Byte) (b : Bool) : (bankWriteTo s c o bs b).rep = s.rep := by rw [bankWriteTo_frame]
@[simp] theorem bankWriteTo_tru (c o : Nat) (bs : List Byte) (b : Bool) : (bankWriteTo s c o bs b).tru = s.tru := by rw [bankWriteTo_frame]
@[simp] theorem bankWriteTo_gau (c o : Nat) (bs : List Byte) (b : Bool) : (bankWriteTo s c o bs b).gau = s.gau := by rw [bankWriteTo_frame]
@[simp] theorem bankWriteTo_evr (c o : Nat) (bs : List Byte) (b : Bool) : (bankWriteTo s c o bs b).evr = s.evr := by rw [bankWriteTo_frame]
@[simp] theorem bankWriteTo_inp (c o : Nat) (bs : List Byte) (b : Bool) : (bankWriteTo s c o bs b).inp = s.inp := by rw [bankWriteTo_frame]
@[simp] theorem bankWriteTo_dbg (c o : Nat) (bs : List Byte) (b : Bool) : (bankWriteTo s c o bs b).dbg = s.dbg := by rw [bankWriteTo_frame]

/-- A bank switch changes the cores and raises its event (R106). -/
theorem bankSwitch_frame (c : Nat) : bankSwitch s c = { s with cores := (bankSwitch s c).cores, evr := (bankSwitch s c).evr } := by
  unfold bankSwitch; dsimp only; split
  · exact (raiseAt_frame _ _ _ _ _).trans (by simp)
  · exact (raiseAt_frame _ _ _ _ _).trans (by simp)
@[simp] theorem bankSwitch_pending (c : Nat) : (bankSwitch s c).pending = s.pending := by rw [bankSwitch_frame]
@[simp] theorem bankSwitch_free (c : Nat) : (bankSwitch s c).free = s.free := by rw [bankSwitch_frame]
@[simp] theorem bankSwitch_pins (c : Nat) : (bankSwitch s c).pins = s.pins := by rw [bankSwitch_frame]
@[simp] theorem bankSwitch_dev (c : Nat) : (bankSwitch s c).dev = s.dev := by rw [bankSwitch_frame]
@[simp] theorem bankSwitch_sch (c : Nat) : (bankSwitch s c).sch = s.sch := by rw [bankSwitch_frame]
@[simp] theorem bankSwitch_pools (c : Nat) : (bankSwitch s c).pools = s.pools := by rw [bankSwitch_frame]
@[simp] theorem bankSwitch_beds (c : Nat) : (bankSwitch s c).beds = s.beds := by rw [bankSwitch_frame]
@[simp] theorem bankSwitch_fab (c : Nat) : (bankSwitch s c).fab = s.fab := by rw [bankSwitch_frame]
@[simp] theorem bankSwitch_wts (c : Nat) : (bankSwitch s c).wts = s.wts := by rw [bankSwitch_frame]
@[simp] theorem bankSwitch_srv (c : Nat) : (bankSwitch s c).srv = s.srv := by rw [bankSwitch_frame]
@[simp] theorem bankSwitch_trib (c : Nat) : (bankSwitch s c).trib = s.trib := by rw [bankSwitch_frame]
@[simp] theorem bankSwitch_mgm (c : Nat) : (bankSwitch s c).mgm = s.mgm := by rw [bankSwitch_frame]
@[simp] theorem bankSwitch_pwr (c : Nat) : (bankSwitch s c).pwr = s.pwr := by rw [bankSwitch_frame]
@[simp] theorem bankSwitch_rep (c : Nat) : (bankSwitch s c).rep = s.rep := by rw [bankSwitch_frame]
@[simp] theorem bankSwitch_tru (c : Nat) : (bankSwitch s c).tru = s.tru := by rw [bankSwitch_frame]
@[simp] theorem bankSwitch_gau (c : Nat) : (bankSwitch s c).gau = s.gau := by rw [bankSwitch_frame]
@[simp] theorem bankSwitch_inp (c : Nat) : (bankSwitch s c).inp = s.inp := by rw [bankSwitch_frame]
@[simp] theorem bankSwitch_dbg (c : Nat) : (bankSwitch s c).dbg = s.dbg := by rw [bankSwitch_frame]

/-- Sticky flags change the cores only (R132). -/
theorem setSticky_frame (c : Nat) (f : BitVec 32) : setSticky s c f = { s with cores := (setSticky s c f).cores } := by unfold setSticky; split <;> rfl
@[simp] theorem setSticky_pending (c : Nat) (f : BitVec 32) : (setSticky s c f).pending = s.pending := by rw [setSticky_frame]
@[simp] theorem setSticky_free (c : Nat) (f : BitVec 32) : (setSticky s c f).free = s.free := by rw [setSticky_frame]
@[simp] theorem setSticky_pins (c : Nat) (f : BitVec 32) : (setSticky s c f).pins = s.pins := by rw [setSticky_frame]
@[simp] theorem setSticky_dev (c : Nat) (f : BitVec 32) : (setSticky s c f).dev = s.dev := by rw [setSticky_frame]
@[simp] theorem setSticky_sch (c : Nat) (f : BitVec 32) : (setSticky s c f).sch = s.sch := by rw [setSticky_frame]
@[simp] theorem setSticky_pools (c : Nat) (f : BitVec 32) : (setSticky s c f).pools = s.pools := by rw [setSticky_frame]
@[simp] theorem setSticky_beds (c : Nat) (f : BitVec 32) : (setSticky s c f).beds = s.beds := by rw [setSticky_frame]
@[simp] theorem setSticky_fab (c : Nat) (f : BitVec 32) : (setSticky s c f).fab = s.fab := by rw [setSticky_frame]
@[simp] theorem setSticky_wts (c : Nat) (f : BitVec 32) : (setSticky s c f).wts = s.wts := by rw [setSticky_frame]
@[simp] theorem setSticky_srv (c : Nat) (f : BitVec 32) : (setSticky s c f).srv = s.srv := by rw [setSticky_frame]
@[simp] theorem setSticky_trib (c : Nat) (f : BitVec 32) : (setSticky s c f).trib = s.trib := by rw [setSticky_frame]
@[simp] theorem setSticky_mgm (c : Nat) (f : BitVec 32) : (setSticky s c f).mgm = s.mgm := by rw [setSticky_frame]
@[simp] theorem setSticky_pwr (c : Nat) (f : BitVec 32) : (setSticky s c f).pwr = s.pwr := by rw [setSticky_frame]
@[simp] theorem setSticky_rep (c : Nat) (f : BitVec 32) : (setSticky s c f).rep = s.rep := by rw [setSticky_frame]
@[simp] theorem setSticky_tru (c : Nat) (f : BitVec 32) : (setSticky s c f).tru = s.tru := by rw [setSticky_frame]
@[simp] theorem setSticky_gau (c : Nat) (f : BitVec 32) : (setSticky s c f).gau = s.gau := by rw [setSticky_frame]
@[simp] theorem setSticky_evr (c : Nat) (f : BitVec 32) : (setSticky s c f).evr = s.evr := by rw [setSticky_frame]
@[simp] theorem setSticky_inp (c : Nat) (f : BitVec 32) : (setSticky s c f).inp = s.inp := by rw [setSticky_frame]
@[simp] theorem setSticky_dbg (c : Nat) (f : BitVec 32) : (setSticky s c f).dbg = s.dbg := by rw [setSticky_frame]

/-- A scalar write changes the cores only (R90). -/
theorem setSreg_frame (c r : Nat) (v : BitVec 32) : setSreg s c r v = { s with cores := (setSreg s c r v).cores } := by unfold setSreg; split <;> rfl
@[simp] theorem setSreg_pending (c r : Nat) (v : BitVec 32) : (setSreg s c r v).pending = s.pending := by rw [setSreg_frame]
@[simp] theorem setSreg_free (c r : Nat) (v : BitVec 32) : (setSreg s c r v).free = s.free := by rw [setSreg_frame]
@[simp] theorem setSreg_pins (c r : Nat) (v : BitVec 32) : (setSreg s c r v).pins = s.pins := by rw [setSreg_frame]
@[simp] theorem setSreg_dev (c r : Nat) (v : BitVec 32) : (setSreg s c r v).dev = s.dev := by rw [setSreg_frame]
@[simp] theorem setSreg_sch (c r : Nat) (v : BitVec 32) : (setSreg s c r v).sch = s.sch := by rw [setSreg_frame]
@[simp] theorem setSreg_pools (c r : Nat) (v : BitVec 32) : (setSreg s c r v).pools = s.pools := by rw [setSreg_frame]
@[simp] theorem setSreg_beds (c r : Nat) (v : BitVec 32) : (setSreg s c r v).beds = s.beds := by rw [setSreg_frame]
@[simp] theorem setSreg_fab (c r : Nat) (v : BitVec 32) : (setSreg s c r v).fab = s.fab := by rw [setSreg_frame]
@[simp] theorem setSreg_wts (c r : Nat) (v : BitVec 32) : (setSreg s c r v).wts = s.wts := by rw [setSreg_frame]
@[simp] theorem setSreg_srv (c r : Nat) (v : BitVec 32) : (setSreg s c r v).srv = s.srv := by rw [setSreg_frame]
@[simp] theorem setSreg_trib (c r : Nat) (v : BitVec 32) : (setSreg s c r v).trib = s.trib := by rw [setSreg_frame]
@[simp] theorem setSreg_mgm (c r : Nat) (v : BitVec 32) : (setSreg s c r v).mgm = s.mgm := by rw [setSreg_frame]
@[simp] theorem setSreg_pwr (c r : Nat) (v : BitVec 32) : (setSreg s c r v).pwr = s.pwr := by rw [setSreg_frame]
@[simp] theorem setSreg_rep (c r : Nat) (v : BitVec 32) : (setSreg s c r v).rep = s.rep := by rw [setSreg_frame]
@[simp] theorem setSreg_tru (c r : Nat) (v : BitVec 32) : (setSreg s c r v).tru = s.tru := by rw [setSreg_frame]
@[simp] theorem setSreg_gau (c r : Nat) (v : BitVec 32) : (setSreg s c r v).gau = s.gau := by rw [setSreg_frame]
@[simp] theorem setSreg_evr (c r : Nat) (v : BitVec 32) : (setSreg s c r v).evr = s.evr := by rw [setSreg_frame]
@[simp] theorem setSreg_inp (c r : Nat) (v : BitVec 32) : (setSreg s c r v).inp = s.inp := by rw [setSreg_frame]
@[simp] theorem setSreg_dbg (c r : Nat) (v : BitVec 32) : (setSreg s c r v).dbg = s.dbg := by rw [setSreg_frame]

/-- A free scalar result changes the core and the counter of free values (log 2). -/
theorem undefSreg_frame (c r : Nat) : undefSreg s c r = { s with free := (undefSreg s c r).free, cores := (undefSreg s c r).cores } := by unfold undefSreg; dsimp only; exact (setSreg_frame _ _ _ _).trans (by simp)
@[simp] theorem undefSreg_pending (c r : Nat) : (undefSreg s c r).pending = s.pending := by rw [undefSreg_frame]
@[simp] theorem undefSreg_pins (c r : Nat) : (undefSreg s c r).pins = s.pins := by rw [undefSreg_frame]
@[simp] theorem undefSreg_dev (c r : Nat) : (undefSreg s c r).dev = s.dev := by rw [undefSreg_frame]
@[simp] theorem undefSreg_sch (c r : Nat) : (undefSreg s c r).sch = s.sch := by rw [undefSreg_frame]
@[simp] theorem undefSreg_pools (c r : Nat) : (undefSreg s c r).pools = s.pools := by rw [undefSreg_frame]
@[simp] theorem undefSreg_beds (c r : Nat) : (undefSreg s c r).beds = s.beds := by rw [undefSreg_frame]
@[simp] theorem undefSreg_fab (c r : Nat) : (undefSreg s c r).fab = s.fab := by rw [undefSreg_frame]
@[simp] theorem undefSreg_wts (c r : Nat) : (undefSreg s c r).wts = s.wts := by rw [undefSreg_frame]
@[simp] theorem undefSreg_srv (c r : Nat) : (undefSreg s c r).srv = s.srv := by rw [undefSreg_frame]
@[simp] theorem undefSreg_trib (c r : Nat) : (undefSreg s c r).trib = s.trib := by rw [undefSreg_frame]
@[simp] theorem undefSreg_mgm (c r : Nat) : (undefSreg s c r).mgm = s.mgm := by rw [undefSreg_frame]
@[simp] theorem undefSreg_pwr (c r : Nat) : (undefSreg s c r).pwr = s.pwr := by rw [undefSreg_frame]
@[simp] theorem undefSreg_rep (c r : Nat) : (undefSreg s c r).rep = s.rep := by rw [undefSreg_frame]
@[simp] theorem undefSreg_tru (c r : Nat) : (undefSreg s c r).tru = s.tru := by rw [undefSreg_frame]
@[simp] theorem undefSreg_gau (c r : Nat) : (undefSreg s c r).gau = s.gau := by rw [undefSreg_frame]
@[simp] theorem undefSreg_evr (c r : Nat) : (undefSreg s c r).evr = s.evr := by rw [undefSreg_frame]
@[simp] theorem undefSreg_inp (c r : Nat) : (undefSreg s c r).inp = s.inp := by rw [undefSreg_frame]
@[simp] theorem undefSreg_dbg (c r : Nat) : (undefSreg s c r).dbg = s.dbg := by rw [undefSreg_frame]

/-- A result written to an operand changes the memories and may raise an event. -/
theorem opWrite_frame (x : Opnd) (o : Nat) (bs : List Byte) (b : Bool) : (opWrite s x o bs b).1 = { s with cores := ((opWrite s x o bs b).1).cores, pools := ((opWrite s x o bs b).1).pools, beds := ((opWrite s x o bs b).1).beds, evr := ((opWrite s x o bs b).1).evr } := by
  unfold opWrite; split
  · split
    · exact (spadWrite_frame s _ _ _).trans (by simp)
    · rfl
  · exact (poolWrite_frame s _ _ _).trans (by simp)
  · rfl
  · dsimp only; split
    · rfl
    · split
      · exact (raiseC_frame _ _ _ _).trans (by simp)
      · rfl
  · rfl
@[simp] theorem opWrite_pending (x : Opnd) (o : Nat) (bs : List Byte) (b : Bool) : ((opWrite s x o bs b).1).pending = s.pending := by rw [opWrite_frame]
@[simp] theorem opWrite_free (x : Opnd) (o : Nat) (bs : List Byte) (b : Bool) : ((opWrite s x o bs b).1).free = s.free := by rw [opWrite_frame]
@[simp] theorem opWrite_pins (x : Opnd) (o : Nat) (bs : List Byte) (b : Bool) : ((opWrite s x o bs b).1).pins = s.pins := by rw [opWrite_frame]
@[simp] theorem opWrite_dev (x : Opnd) (o : Nat) (bs : List Byte) (b : Bool) : ((opWrite s x o bs b).1).dev = s.dev := by rw [opWrite_frame]
@[simp] theorem opWrite_sch (x : Opnd) (o : Nat) (bs : List Byte) (b : Bool) : ((opWrite s x o bs b).1).sch = s.sch := by rw [opWrite_frame]
@[simp] theorem opWrite_fab (x : Opnd) (o : Nat) (bs : List Byte) (b : Bool) : ((opWrite s x o bs b).1).fab = s.fab := by rw [opWrite_frame]
@[simp] theorem opWrite_wts (x : Opnd) (o : Nat) (bs : List Byte) (b : Bool) : ((opWrite s x o bs b).1).wts = s.wts := by rw [opWrite_frame]
@[simp] theorem opWrite_srv (x : Opnd) (o : Nat) (bs : List Byte) (b : Bool) : ((opWrite s x o bs b).1).srv = s.srv := by rw [opWrite_frame]
@[simp] theorem opWrite_trib (x : Opnd) (o : Nat) (bs : List Byte) (b : Bool) : ((opWrite s x o bs b).1).trib = s.trib := by rw [opWrite_frame]
@[simp] theorem opWrite_mgm (x : Opnd) (o : Nat) (bs : List Byte) (b : Bool) : ((opWrite s x o bs b).1).mgm = s.mgm := by rw [opWrite_frame]
@[simp] theorem opWrite_pwr (x : Opnd) (o : Nat) (bs : List Byte) (b : Bool) : ((opWrite s x o bs b).1).pwr = s.pwr := by rw [opWrite_frame]
@[simp] theorem opWrite_rep (x : Opnd) (o : Nat) (bs : List Byte) (b : Bool) : ((opWrite s x o bs b).1).rep = s.rep := by rw [opWrite_frame]
@[simp] theorem opWrite_tru (x : Opnd) (o : Nat) (bs : List Byte) (b : Bool) : ((opWrite s x o bs b).1).tru = s.tru := by rw [opWrite_frame]
@[simp] theorem opWrite_gau (x : Opnd) (o : Nat) (bs : List Byte) (b : Bool) : ((opWrite s x o bs b).1).gau = s.gau := by rw [opWrite_frame]
@[simp] theorem opWrite_inp (x : Opnd) (o : Nat) (bs : List Byte) (b : Bool) : ((opWrite s x o bs b).1).inp = s.inp := by rw [opWrite_frame]
@[simp] theorem opWrite_dbg (x : Opnd) (o : Nat) (bs : List Byte) (b : Bool) : ((opWrite s x o bs b).1).dbg = s.dbg := by rw [opWrite_frame]

/-- An undefined result is a write of free bytes (R12). -/
theorem opUndef_frame (x : Option Opnd) : opUndef s x = { s with free := (opUndef s x).free, cores := (opUndef s x).cores, pools := (opUndef s x).pools, beds := (opUndef s x).beds, evr := (opUndef s x).evr } := by
  unfold opUndef; split
  · exact (opWrite_frame _ _ _ _ _).trans (by simp [takeFree])
  · rfl
@[simp] theorem opUndef_pending (x : Option Opnd) : (opUndef s x).pending = s.pending := by rw [opUndef_frame]
@[simp] theorem opUndef_pins (x : Option Opnd) : (opUndef s x).pins = s.pins := by rw [opUndef_frame]
@[simp] theorem opUndef_dev (x : Option Opnd) : (opUndef s x).dev = s.dev := by rw [opUndef_frame]
@[simp] theorem opUndef_sch (x : Option Opnd) : (opUndef s x).sch = s.sch := by rw [opUndef_frame]
@[simp] theorem opUndef_fab (x : Option Opnd) : (opUndef s x).fab = s.fab := by rw [opUndef_frame]
@[simp] theorem opUndef_wts (x : Option Opnd) : (opUndef s x).wts = s.wts := by rw [opUndef_frame]
@[simp] theorem opUndef_srv (x : Option Opnd) : (opUndef s x).srv = s.srv := by rw [opUndef_frame]
@[simp] theorem opUndef_trib (x : Option Opnd) : (opUndef s x).trib = s.trib := by rw [opUndef_frame]
@[simp] theorem opUndef_mgm (x : Option Opnd) : (opUndef s x).mgm = s.mgm := by rw [opUndef_frame]
@[simp] theorem opUndef_pwr (x : Option Opnd) : (opUndef s x).pwr = s.pwr := by rw [opUndef_frame]
@[simp] theorem opUndef_rep (x : Option Opnd) : (opUndef s x).rep = s.rep := by rw [opUndef_frame]
@[simp] theorem opUndef_tru (x : Option Opnd) : (opUndef s x).tru = s.tru := by rw [opUndef_frame]
@[simp] theorem opUndef_gau (x : Option Opnd) : (opUndef s x).gau = s.gau := by rw [opUndef_frame]
@[simp] theorem opUndef_inp (x : Option Opnd) : (opUndef s x).inp = s.inp := by rw [opUndef_frame]
@[simp] theorem opUndef_dbg (x : Option Opnd) : (opUndef s x).dbg = s.dbg := by rw [opUndef_frame]

/-- The result of a fixed-function unit goes to its operand only. -/
theorem fxPut_frame (x : Option Opnd) (o : Nat) (bs : List Byte) : fxPut s x o bs = { s with cores := (fxPut s x o bs).cores, pools := (fxPut s x o bs).pools, beds := (fxPut s x o bs).beds, evr := (fxPut s x o bs).evr } := by
  unfold fxPut; split
  · exact opWrite_frame _ _ _ _ _
  · rfl
@[simp] theorem fxPut_pending (x : Option Opnd) (o : Nat) (bs : List Byte) : (fxPut s x o bs).pending = s.pending := by rw [fxPut_frame]
@[simp] theorem fxPut_free (x : Option Opnd) (o : Nat) (bs : List Byte) : (fxPut s x o bs).free = s.free := by rw [fxPut_frame]
@[simp] theorem fxPut_pins (x : Option Opnd) (o : Nat) (bs : List Byte) : (fxPut s x o bs).pins = s.pins := by rw [fxPut_frame]
@[simp] theorem fxPut_dev (x : Option Opnd) (o : Nat) (bs : List Byte) : (fxPut s x o bs).dev = s.dev := by rw [fxPut_frame]
@[simp] theorem fxPut_sch (x : Option Opnd) (o : Nat) (bs : List Byte) : (fxPut s x o bs).sch = s.sch := by rw [fxPut_frame]
@[simp] theorem fxPut_fab (x : Option Opnd) (o : Nat) (bs : List Byte) : (fxPut s x o bs).fab = s.fab := by rw [fxPut_frame]
@[simp] theorem fxPut_wts (x : Option Opnd) (o : Nat) (bs : List Byte) : (fxPut s x o bs).wts = s.wts := by rw [fxPut_frame]
@[simp] theorem fxPut_srv (x : Option Opnd) (o : Nat) (bs : List Byte) : (fxPut s x o bs).srv = s.srv := by rw [fxPut_frame]
@[simp] theorem fxPut_trib (x : Option Opnd) (o : Nat) (bs : List Byte) : (fxPut s x o bs).trib = s.trib := by rw [fxPut_frame]
@[simp] theorem fxPut_mgm (x : Option Opnd) (o : Nat) (bs : List Byte) : (fxPut s x o bs).mgm = s.mgm := by rw [fxPut_frame]
@[simp] theorem fxPut_pwr (x : Option Opnd) (o : Nat) (bs : List Byte) : (fxPut s x o bs).pwr = s.pwr := by rw [fxPut_frame]
@[simp] theorem fxPut_rep (x : Option Opnd) (o : Nat) (bs : List Byte) : (fxPut s x o bs).rep = s.rep := by rw [fxPut_frame]
@[simp] theorem fxPut_tru (x : Option Opnd) (o : Nat) (bs : List Byte) : (fxPut s x o bs).tru = s.tru := by rw [fxPut_frame]
@[simp] theorem fxPut_gau (x : Option Opnd) (o : Nat) (bs : List Byte) : (fxPut s x o bs).gau = s.gau := by rw [fxPut_frame]
@[simp] theorem fxPut_inp (x : Option Opnd) (o : Nat) (bs : List Byte) : (fxPut s x o bs).inp = s.inp := by rw [fxPut_frame]
@[simp] theorem fxPut_dbg (x : Option Opnd) (o : Nat) (bs : List Byte) : (fxPut s x o bs).dbg = s.dbg := by rw [fxPut_frame]

/-- A signal changes the schedule and may raise an event (R86). -/
theorem issueOne_frame (c e t : Nat) (pl : List Nat) (g : Nat × Nat × Nat × Nat × Nat) : issueOne s c e t pl g = { s with sch := (issueOne s c e t pl g).sch, evr := (issueOne s c e t pl g).evr } := by
  unfold issueOne; dsimp only; split
  · rfl
  · split
    · exact (raiseAt_frame _ _ _ _ _).trans (by simp)
    · split
      · exact (raiseAt_frame _ _ _ _ _).trans (by simp)
      · rfl
@[simp] theorem issueOne_pending (c e t : Nat) (pl : List Nat) (g : Nat × Nat × Nat × Nat × Nat) : (issueOne s c e t pl g).pending = s.pending := by rw [issueOne_frame]
@[simp] theorem issueOne_free (c e t : Nat) (pl : List Nat) (g : Nat × Nat × Nat × Nat × Nat) : (issueOne s c e t pl g).free = s.free := by rw [issueOne_frame]
@[simp] theorem issueOne_pins (c e t : Nat) (pl : List Nat) (g : Nat × Nat × Nat × Nat × Nat) : (issueOne s c e t pl g).pins = s.pins := by rw [issueOne_frame]
@[simp] theorem issueOne_dev (c e t : Nat) (pl : List Nat) (g : Nat × Nat × Nat × Nat × Nat) : (issueOne s c e t pl g).dev = s.dev := by rw [issueOne_frame]
@[simp] theorem issueOne_cores (c e t : Nat) (pl : List Nat) (g : Nat × Nat × Nat × Nat × Nat) : (issueOne s c e t pl g).cores = s.cores := by rw [issueOne_frame]
@[simp] theorem issueOne_pools (c e t : Nat) (pl : List Nat) (g : Nat × Nat × Nat × Nat × Nat) : (issueOne s c e t pl g).pools = s.pools := by rw [issueOne_frame]
@[simp] theorem issueOne_beds (c e t : Nat) (pl : List Nat) (g : Nat × Nat × Nat × Nat × Nat) : (issueOne s c e t pl g).beds = s.beds := by rw [issueOne_frame]
@[simp] theorem issueOne_fab (c e t : Nat) (pl : List Nat) (g : Nat × Nat × Nat × Nat × Nat) : (issueOne s c e t pl g).fab = s.fab := by rw [issueOne_frame]
@[simp] theorem issueOne_wts (c e t : Nat) (pl : List Nat) (g : Nat × Nat × Nat × Nat × Nat) : (issueOne s c e t pl g).wts = s.wts := by rw [issueOne_frame]
@[simp] theorem issueOne_srv (c e t : Nat) (pl : List Nat) (g : Nat × Nat × Nat × Nat × Nat) : (issueOne s c e t pl g).srv = s.srv := by rw [issueOne_frame]
@[simp] theorem issueOne_trib (c e t : Nat) (pl : List Nat) (g : Nat × Nat × Nat × Nat × Nat) : (issueOne s c e t pl g).trib = s.trib := by rw [issueOne_frame]
@[simp] theorem issueOne_mgm (c e t : Nat) (pl : List Nat) (g : Nat × Nat × Nat × Nat × Nat) : (issueOne s c e t pl g).mgm = s.mgm := by rw [issueOne_frame]
@[simp] theorem issueOne_pwr (c e t : Nat) (pl : List Nat) (g : Nat × Nat × Nat × Nat × Nat) : (issueOne s c e t pl g).pwr = s.pwr := by rw [issueOne_frame]
@[simp] theorem issueOne_rep (c e t : Nat) (pl : List Nat) (g : Nat × Nat × Nat × Nat × Nat) : (issueOne s c e t pl g).rep = s.rep := by rw [issueOne_frame]
@[simp] theorem issueOne_tru (c e t : Nat) (pl : List Nat) (g : Nat × Nat × Nat × Nat × Nat) : (issueOne s c e t pl g).tru = s.tru := by rw [issueOne_frame]
@[simp] theorem issueOne_gau (c e t : Nat) (pl : List Nat) (g : Nat × Nat × Nat × Nat × Nat) : (issueOne s c e t pl g).gau = s.gau := by rw [issueOne_frame]
@[simp] theorem issueOne_inp (c e t : Nat) (pl : List Nat) (g : Nat × Nat × Nat × Nat × Nat) : (issueOne s c e t pl g).inp = s.inp := by rw [issueOne_frame]
@[simp] theorem issueOne_dbg (c e t : Nat) (pl : List Nat) (g : Nat × Nat × Nat × Nat × Nat) : (issueOne s c e t pl g).dbg = s.dbg := by rw [issueOne_frame]

/-- The signals of a descriptor change the schedule and may raise events (R83). -/
theorem issueSignals_frame (c e t : Nat) (pl : List Nat) (d : Desc) : issueSignals s c e t pl d = { s with sch := (issueSignals s c e t pl d).sch, evr := (issueSignals s c e t pl d).evr } := by unfold issueSignals; exact (issueOne_frame _ _ _ _ _ _).trans (by simp)
@[simp] theorem issueSignals_pending (c e t : Nat) (pl : List Nat) (d : Desc) : (issueSignals s c e t pl d).pending = s.pending := by rw [issueSignals_frame]
@[simp] theorem issueSignals_free (c e t : Nat) (pl : List Nat) (d : Desc) : (issueSignals s c e t pl d).free = s.free := by rw [issueSignals_frame]
@[simp] theorem issueSignals_pins (c e t : Nat) (pl : List Nat) (d : Desc) : (issueSignals s c e t pl d).pins = s.pins := by rw [issueSignals_frame]
@[simp] theorem issueSignals_dev (c e t : Nat) (pl : List Nat) (d : Desc) : (issueSignals s c e t pl d).dev = s.dev := by rw [issueSignals_frame]
@[simp] theorem issueSignals_cores (c e t : Nat) (pl : List Nat) (d : Desc) : (issueSignals s c e t pl d).cores = s.cores := by rw [issueSignals_frame]
@[simp] theorem issueSignals_pools (c e t : Nat) (pl : List Nat) (d : Desc) : (issueSignals s c e t pl d).pools = s.pools := by rw [issueSignals_frame]
@[simp] theorem issueSignals_beds (c e t : Nat) (pl : List Nat) (d : Desc) : (issueSignals s c e t pl d).beds = s.beds := by rw [issueSignals_frame]
@[simp] theorem issueSignals_fab (c e t : Nat) (pl : List Nat) (d : Desc) : (issueSignals s c e t pl d).fab = s.fab := by rw [issueSignals_frame]
@[simp] theorem issueSignals_wts (c e t : Nat) (pl : List Nat) (d : Desc) : (issueSignals s c e t pl d).wts = s.wts := by rw [issueSignals_frame]
@[simp] theorem issueSignals_srv (c e t : Nat) (pl : List Nat) (d : Desc) : (issueSignals s c e t pl d).srv = s.srv := by rw [issueSignals_frame]
@[simp] theorem issueSignals_trib (c e t : Nat) (pl : List Nat) (d : Desc) : (issueSignals s c e t pl d).trib = s.trib := by rw [issueSignals_frame]
@[simp] theorem issueSignals_mgm (c e t : Nat) (pl : List Nat) (d : Desc) : (issueSignals s c e t pl d).mgm = s.mgm := by rw [issueSignals_frame]
@[simp] theorem issueSignals_pwr (c e t : Nat) (pl : List Nat) (d : Desc) : (issueSignals s c e t pl d).pwr = s.pwr := by rw [issueSignals_frame]
@[simp] theorem issueSignals_rep (c e t : Nat) (pl : List Nat) (d : Desc) : (issueSignals s c e t pl d).rep = s.rep := by rw [issueSignals_frame]
@[simp] theorem issueSignals_tru (c e t : Nat) (pl : List Nat) (d : Desc) : (issueSignals s c e t pl d).tru = s.tru := by rw [issueSignals_frame]
@[simp] theorem issueSignals_gau (c e t : Nat) (pl : List Nat) (d : Desc) : (issueSignals s c e t pl d).gau = s.gau := by rw [issueSignals_frame]
@[simp] theorem issueSignals_inp (c e t : Nat) (pl : List Nat) (d : Desc) : (issueSignals s c e t pl d).inp = s.inp := by rw [issueSignals_frame]
@[simp] theorem issueSignals_dbg (c e t : Nat) (pl : List Nat) (d : Desc) : (issueSignals s c e t pl d).dbg = s.dbg := by rw [issueSignals_frame]

/-- Marking an effect as performed changes the cores only. -/
theorem opDoneSt_frame (c e o st : Nat) : opDoneSt s c e o st = { s with cores := (opDoneSt s c e o st).cores } := rfl
@[simp] theorem opDoneSt_pending (c e o st : Nat) : (opDoneSt s c e o st).pending = s.pending := by rw [opDoneSt_frame]
@[simp] theorem opDoneSt_free (c e o st : Nat) : (opDoneSt s c e o st).free = s.free := by rw [opDoneSt_frame]
@[simp] theorem opDoneSt_pins (c e o st : Nat) : (opDoneSt s c e o st).pins = s.pins := by rw [opDoneSt_frame]
@[simp] theorem opDoneSt_dev (c e o st : Nat) : (opDoneSt s c e o st).dev = s.dev := by rw [opDoneSt_frame]
@[simp] theorem opDoneSt_sch (c e o st : Nat) : (opDoneSt s c e o st).sch = s.sch := by rw [opDoneSt_frame]
@[simp] theorem opDoneSt_pools (c e o st : Nat) : (opDoneSt s c e o st).pools = s.pools := by rw [opDoneSt_frame]
@[simp] theorem opDoneSt_beds (c e o st : Nat) : (opDoneSt s c e o st).beds = s.beds := by rw [opDoneSt_frame]
@[simp] theorem opDoneSt_fab (c e o st : Nat) : (opDoneSt s c e o st).fab = s.fab := by rw [opDoneSt_frame]
@[simp] theorem opDoneSt_wts (c e o st : Nat) : (opDoneSt s c e o st).wts = s.wts := by rw [opDoneSt_frame]
@[simp] theorem opDoneSt_srv (c e o st : Nat) : (opDoneSt s c e o st).srv = s.srv := by rw [opDoneSt_frame]
@[simp] theorem opDoneSt_trib (c e o st : Nat) : (opDoneSt s c e o st).trib = s.trib := by rw [opDoneSt_frame]
@[simp] theorem opDoneSt_mgm (c e o st : Nat) : (opDoneSt s c e o st).mgm = s.mgm := by rw [opDoneSt_frame]
@[simp] theorem opDoneSt_pwr (c e o st : Nat) : (opDoneSt s c e o st).pwr = s.pwr := by rw [opDoneSt_frame]
@[simp] theorem opDoneSt_rep (c e o st : Nat) : (opDoneSt s c e o st).rep = s.rep := by rw [opDoneSt_frame]
@[simp] theorem opDoneSt_tru (c e o st : Nat) : (opDoneSt s c e o st).tru = s.tru := by rw [opDoneSt_frame]
@[simp] theorem opDoneSt_gau (c e o st : Nat) : (opDoneSt s c e o st).gau = s.gau := by rw [opDoneSt_frame]
@[simp] theorem opDoneSt_evr (c e o st : Nat) : (opDoneSt s c e o st).evr = s.evr := by rw [opDoneSt_frame]
@[simp] theorem opDoneSt_inp (c e o st : Nat) : (opDoneSt s c e o st).inp = s.inp := by rw [opDoneSt_frame]
@[simp] theorem opDoneSt_dbg (c e o st : Nat) : (opDoneSt s c e o st).dbg = s.dbg := by rw [opDoneSt_frame]

/-- Marking an effect as performed changes the cores only. -/
theorem opDone_frame (c e o : Nat) : opDone s c e o = { s with cores := (opDone s c e o).cores } := rfl
@[simp] theorem opDone_pending (c e o : Nat) : (opDone s c e o).pending = s.pending := by rw [opDone_frame]
@[simp] theorem opDone_free (c e o : Nat) : (opDone s c e o).free = s.free := by rw [opDone_frame]
@[simp] theorem opDone_pins (c e o : Nat) : (opDone s c e o).pins = s.pins := by rw [opDone_frame]
@[simp] theorem opDone_dev (c e o : Nat) : (opDone s c e o).dev = s.dev := by rw [opDone_frame]
@[simp] theorem opDone_sch (c e o : Nat) : (opDone s c e o).sch = s.sch := by rw [opDone_frame]
@[simp] theorem opDone_pools (c e o : Nat) : (opDone s c e o).pools = s.pools := by rw [opDone_frame]
@[simp] theorem opDone_beds (c e o : Nat) : (opDone s c e o).beds = s.beds := by rw [opDone_frame]
@[simp] theorem opDone_fab (c e o : Nat) : (opDone s c e o).fab = s.fab := by rw [opDone_frame]
@[simp] theorem opDone_wts (c e o : Nat) : (opDone s c e o).wts = s.wts := by rw [opDone_frame]
@[simp] theorem opDone_srv (c e o : Nat) : (opDone s c e o).srv = s.srv := by rw [opDone_frame]
@[simp] theorem opDone_trib (c e o : Nat) : (opDone s c e o).trib = s.trib := by rw [opDone_frame]
@[simp] theorem opDone_mgm (c e o : Nat) : (opDone s c e o).mgm = s.mgm := by rw [opDone_frame]
@[simp] theorem opDone_pwr (c e o : Nat) : (opDone s c e o).pwr = s.pwr := by rw [opDone_frame]
@[simp] theorem opDone_rep (c e o : Nat) : (opDone s c e o).rep = s.rep := by rw [opDone_frame]
@[simp] theorem opDone_tru (c e o : Nat) : (opDone s c e o).tru = s.tru := by rw [opDone_frame]
@[simp] theorem opDone_gau (c e o : Nat) : (opDone s c e o).gau = s.gau := by rw [opDone_frame]
@[simp] theorem opDone_evr (c e o : Nat) : (opDone s c e o).evr = s.evr := by rw [opDone_frame]
@[simp] theorem opDone_inp (c e o : Nat) : (opDone s c e o).inp = s.inp := by rw [opDone_frame]
@[simp] theorem opDone_dbg (c e o : Nat) : (opDone s c e o).dbg = s.dbg := by rw [opDone_frame]

/-- A scalar result of an engine changes the cores only (R198). -/
theorem engSreg_frame (c : Nat) (r : RunOp) (rd : Nat) (v : BitVec 32) : engSreg s c r rd v = { s with cores := (engSreg s c r rd v).cores } := rfl
@[simp] theorem engSreg_pending (c : Nat) (r : RunOp) (rd : Nat) (v : BitVec 32) : (engSreg s c r rd v).pending = s.pending := by rw [engSreg_frame]
@[simp] theorem engSreg_free (c : Nat) (r : RunOp) (rd : Nat) (v : BitVec 32) : (engSreg s c r rd v).free = s.free := by rw [engSreg_frame]
@[simp] theorem engSreg_pins (c : Nat) (r : RunOp) (rd : Nat) (v : BitVec 32) : (engSreg s c r rd v).pins = s.pins := by rw [engSreg_frame]
@[simp] theorem engSreg_dev (c : Nat) (r : RunOp) (rd : Nat) (v : BitVec 32) : (engSreg s c r rd v).dev = s.dev := by rw [engSreg_frame]
@[simp] theorem engSreg_sch (c : Nat) (r : RunOp) (rd : Nat) (v : BitVec 32) : (engSreg s c r rd v).sch = s.sch := by rw [engSreg_frame]
@[simp] theorem engSreg_pools (c : Nat) (r : RunOp) (rd : Nat) (v : BitVec 32) : (engSreg s c r rd v).pools = s.pools := by rw [engSreg_frame]
@[simp] theorem engSreg_beds (c : Nat) (r : RunOp) (rd : Nat) (v : BitVec 32) : (engSreg s c r rd v).beds = s.beds := by rw [engSreg_frame]
@[simp] theorem engSreg_fab (c : Nat) (r : RunOp) (rd : Nat) (v : BitVec 32) : (engSreg s c r rd v).fab = s.fab := by rw [engSreg_frame]
@[simp] theorem engSreg_wts (c : Nat) (r : RunOp) (rd : Nat) (v : BitVec 32) : (engSreg s c r rd v).wts = s.wts := by rw [engSreg_frame]
@[simp] theorem engSreg_srv (c : Nat) (r : RunOp) (rd : Nat) (v : BitVec 32) : (engSreg s c r rd v).srv = s.srv := by rw [engSreg_frame]
@[simp] theorem engSreg_trib (c : Nat) (r : RunOp) (rd : Nat) (v : BitVec 32) : (engSreg s c r rd v).trib = s.trib := by rw [engSreg_frame]
@[simp] theorem engSreg_mgm (c : Nat) (r : RunOp) (rd : Nat) (v : BitVec 32) : (engSreg s c r rd v).mgm = s.mgm := by rw [engSreg_frame]
@[simp] theorem engSreg_pwr (c : Nat) (r : RunOp) (rd : Nat) (v : BitVec 32) : (engSreg s c r rd v).pwr = s.pwr := by rw [engSreg_frame]
@[simp] theorem engSreg_rep (c : Nat) (r : RunOp) (rd : Nat) (v : BitVec 32) : (engSreg s c r rd v).rep = s.rep := by rw [engSreg_frame]
@[simp] theorem engSreg_tru (c : Nat) (r : RunOp) (rd : Nat) (v : BitVec 32) : (engSreg s c r rd v).tru = s.tru := by rw [engSreg_frame]
@[simp] theorem engSreg_gau (c : Nat) (r : RunOp) (rd : Nat) (v : BitVec 32) : (engSreg s c r rd v).gau = s.gau := by rw [engSreg_frame]
@[simp] theorem engSreg_evr (c : Nat) (r : RunOp) (rd : Nat) (v : BitVec 32) : (engSreg s c r rd v).evr = s.evr := by rw [engSreg_frame]
@[simp] theorem engSreg_inp (c : Nat) (r : RunOp) (rd : Nat) (v : BitVec 32) : (engSreg s c r rd v).inp = s.inp := by rw [engSreg_frame]
@[simp] theorem engSreg_dbg (c : Nat) (r : RunOp) (rd : Nat) (v : BitVec 32) : (engSreg s c r rd v).dbg = s.dbg := by rw [engSreg_frame]

/-- Sealing changes the cores and may raise event 0x030A (R105). -/
theorem sealBank_frame (c : Nat) (pl : List Nat) : (sealBank s c pl).1 = { s with cores := ((sealBank s c pl).1).cores, evr := ((sealBank s c pl).1).evr } := by
  unfold sealBank; dsimp only; split
  · rfl
  · exact (raiseC_frame _ _ _ _).trans (by simp)
@[simp] theorem sealBank_pending (c : Nat) (pl : List Nat) : ((sealBank s c pl).1).pending = s.pending := by rw [sealBank_frame]
@[simp] theorem sealBank_free (c : Nat) (pl : List Nat) : ((sealBank s c pl).1).free = s.free := by rw [sealBank_frame]
@[simp] theorem sealBank_pins (c : Nat) (pl : List Nat) : ((sealBank s c pl).1).pins = s.pins := by rw [sealBank_frame]
@[simp] theorem sealBank_dev (c : Nat) (pl : List Nat) : ((sealBank s c pl).1).dev = s.dev := by rw [sealBank_frame]
@[simp] theorem sealBank_sch (c : Nat) (pl : List Nat) : ((sealBank s c pl).1).sch = s.sch := by rw [sealBank_frame]
@[simp] theorem sealBank_pools (c : Nat) (pl : List Nat) : ((sealBank s c pl).1).pools = s.pools := by rw [sealBank_frame]
@[simp] theorem sealBank_beds (c : Nat) (pl : List Nat) : ((sealBank s c pl).1).beds = s.beds := by rw [sealBank_frame]
@[simp] theorem sealBank_fab (c : Nat) (pl : List Nat) : ((sealBank s c pl).1).fab = s.fab := by rw [sealBank_frame]
@[simp] theorem sealBank_wts (c : Nat) (pl : List Nat) : ((sealBank s c pl).1).wts = s.wts := by rw [sealBank_frame]
@[simp] theorem sealBank_srv (c : Nat) (pl : List Nat) : ((sealBank s c pl).1).srv = s.srv := by rw [sealBank_frame]
@[simp] theorem sealBank_trib (c : Nat) (pl : List Nat) : ((sealBank s c pl).1).trib = s.trib := by rw [sealBank_frame]
@[simp] theorem sealBank_mgm (c : Nat) (pl : List Nat) : ((sealBank s c pl).1).mgm = s.mgm := by rw [sealBank_frame]
@[simp] theorem sealBank_pwr (c : Nat) (pl : List Nat) : ((sealBank s c pl).1).pwr = s.pwr := by rw [sealBank_frame]
@[simp] theorem sealBank_rep (c : Nat) (pl : List Nat) : ((sealBank s c pl).1).rep = s.rep := by rw [sealBank_frame]
@[simp] theorem sealBank_tru (c : Nat) (pl : List Nat) : ((sealBank s c pl).1).tru = s.tru := by rw [sealBank_frame]
@[simp] theorem sealBank_gau (c : Nat) (pl : List Nat) : ((sealBank s c pl).1).gau = s.gau := by rw [sealBank_frame]
@[simp] theorem sealBank_inp (c : Nat) (pl : List Nat) : ((sealBank s c pl).1).inp = s.inp := by rw [sealBank_frame]
@[simp] theorem sealBank_dbg (c : Nat) (pl : List Nat) : ((sealBank s c pl).1).dbg = s.dbg := by rw [sealBank_frame]

/-- An input record changes the recorder, its log and may raise event 0x1102 (R538). -/
theorem inpAdd_frame (k y : Nat) (d : List Byte) : inpAdd s k y d = { s with beds := (inpAdd s k y d).beds, evr := (inpAdd s k y d).evr, inp := (inpAdd s k y d).inp } := by
  unfold inpAdd; dsimp only; split_ifs
  · exact (raise_frame _ _ _ _).trans (by simp)
  · rfl
  · rfl
@[simp] theorem inpAdd_pending (k y : Nat) (d : List Byte) : (inpAdd s k y d).pending = s.pending := by rw [inpAdd_frame]
@[simp] theorem inpAdd_free (k y : Nat) (d : List Byte) : (inpAdd s k y d).free = s.free := by rw [inpAdd_frame]
@[simp] theorem inpAdd_pins (k y : Nat) (d : List Byte) : (inpAdd s k y d).pins = s.pins := by rw [inpAdd_frame]
@[simp] theorem inpAdd_dev (k y : Nat) (d : List Byte) : (inpAdd s k y d).dev = s.dev := by rw [inpAdd_frame]
@[simp] theorem inpAdd_sch (k y : Nat) (d : List Byte) : (inpAdd s k y d).sch = s.sch := by rw [inpAdd_frame]
@[simp] theorem inpAdd_cores (k y : Nat) (d : List Byte) : (inpAdd s k y d).cores = s.cores := by rw [inpAdd_frame]
@[simp] theorem inpAdd_pools (k y : Nat) (d : List Byte) : (inpAdd s k y d).pools = s.pools := by rw [inpAdd_frame]
@[simp] theorem inpAdd_fab (k y : Nat) (d : List Byte) : (inpAdd s k y d).fab = s.fab := by rw [inpAdd_frame]
@[simp] theorem inpAdd_wts (k y : Nat) (d : List Byte) : (inpAdd s k y d).wts = s.wts := by rw [inpAdd_frame]
@[simp] theorem inpAdd_srv (k y : Nat) (d : List Byte) : (inpAdd s k y d).srv = s.srv := by rw [inpAdd_frame]
@[simp] theorem inpAdd_trib (k y : Nat) (d : List Byte) : (inpAdd s k y d).trib = s.trib := by rw [inpAdd_frame]
@[simp] theorem inpAdd_mgm (k y : Nat) (d : List Byte) : (inpAdd s k y d).mgm = s.mgm := by rw [inpAdd_frame]
@[simp] theorem inpAdd_pwr (k y : Nat) (d : List Byte) : (inpAdd s k y d).pwr = s.pwr := by rw [inpAdd_frame]
@[simp] theorem inpAdd_rep (k y : Nat) (d : List Byte) : (inpAdd s k y d).rep = s.rep := by rw [inpAdd_frame]
@[simp] theorem inpAdd_tru (k y : Nat) (d : List Byte) : (inpAdd s k y d).tru = s.tru := by rw [inpAdd_frame]
@[simp] theorem inpAdd_gau (k y : Nat) (d : List Byte) : (inpAdd s k y d).gau = s.gau := by rw [inpAdd_frame]
@[simp] theorem inpAdd_dbg (k y : Nat) (d : List Byte) : (inpAdd s k y d).dbg = s.dbg := by rw [inpAdd_frame]

/-- A replay mismatch is counted and raises event 0x1104 (R542). -/
theorem mismatch_frame (k : Nat) : mismatch s k = { s with evr := (mismatch s k).evr, inp := (mismatch s k).inp } := (raise_frame _ _ _ _).trans (by simp [mismatch])
@[simp] theorem mismatch_pending (k : Nat) : (mismatch s k).pending = s.pending := by rw [mismatch_frame]
@[simp] theorem mismatch_free (k : Nat) : (mismatch s k).free = s.free := by rw [mismatch_frame]
@[simp] theorem mismatch_pins (k : Nat) : (mismatch s k).pins = s.pins := by rw [mismatch_frame]
@[simp] theorem mismatch_dev (k : Nat) : (mismatch s k).dev = s.dev := by rw [mismatch_frame]
@[simp] theorem mismatch_sch (k : Nat) : (mismatch s k).sch = s.sch := by rw [mismatch_frame]
@[simp] theorem mismatch_cores (k : Nat) : (mismatch s k).cores = s.cores := by rw [mismatch_frame]
@[simp] theorem mismatch_pools (k : Nat) : (mismatch s k).pools = s.pools := by rw [mismatch_frame]
@[simp] theorem mismatch_beds (k : Nat) : (mismatch s k).beds = s.beds := by rw [mismatch_frame]
@[simp] theorem mismatch_fab (k : Nat) : (mismatch s k).fab = s.fab := by rw [mismatch_frame]
@[simp] theorem mismatch_wts (k : Nat) : (mismatch s k).wts = s.wts := by rw [mismatch_frame]
@[simp] theorem mismatch_srv (k : Nat) : (mismatch s k).srv = s.srv := by rw [mismatch_frame]
@[simp] theorem mismatch_trib (k : Nat) : (mismatch s k).trib = s.trib := by rw [mismatch_frame]
@[simp] theorem mismatch_mgm (k : Nat) : (mismatch s k).mgm = s.mgm := by rw [mismatch_frame]
@[simp] theorem mismatch_pwr (k : Nat) : (mismatch s k).pwr = s.pwr := by rw [mismatch_frame]
@[simp] theorem mismatch_rep (k : Nat) : (mismatch s k).rep = s.rep := by rw [mismatch_frame]
@[simp] theorem mismatch_tru (k : Nat) : (mismatch s k).tru = s.tru := by rw [mismatch_frame]
@[simp] theorem mismatch_gau (k : Nat) : (mismatch s k).gau = s.gau := by rw [mismatch_frame]
@[simp] theorem mismatch_dbg (k : Nat) : (mismatch s k).dbg = s.dbg := by rw [mismatch_frame]
/-! ### Events -/

/-- A record that is put among others is there, with each of them (R531). -/
theorem recInsert_mem (r x : EvRec) (q : List EvRec) : x ∈ recInsert r q ↔ x = r ∨ x ∈ q := by
  induction q with
  | nil => simp [recInsert]
  | cons y q ih =>
    unfold recInsert
    split
    · simp
    · simp only [List.mem_cons, ih]; tauto

/-- A record of a new W-cycle goes behind the held ones (R531, R533). -/
theorem recInsert_last (r : EvRec) (q : List EvRec) (h : ∀ x ∈ q, x.atW ≠ r.atW ∨ x.tick ≠ r.tick) : recInsert r q = q ++ [r] := by
  induction q with
  | nil => rfl
  | cons y q ih =>
    have hy := h y (by simp)
    unfold recInsert
    rw [if_neg (by tauto), ih fun x hx => h x (by simp [hx])]
    rfl

/-- A record joins the records of its node while fewer than 16 are held there (R533). -/
theorem holdRec_held (r : EvRec) (h : (fget s.evr.held [] r.node).length < 16) (n : Nat) :
    fget (holdRec s r).evr.held [] n = if n = r.node then recInsert r (fget s.evr.held [] r.node) else fget s.evr.held [] n := by
  simp [holdRec, h, fget_fset]

/-- The record an event forms (R530, R533). -/
theorem raise_held (id n : Nat) (l : List Nat) (h : (fget s.evr.held [] (evNode id n)).length < 16) :
    fget (raise s id n l).evr.held [] (evNode id n) = recInsert
      { sev := evSev id, scyc := evScyc s id, replay := s.sch.replayed, id := id, node := evNode id n, tick := s.now, items := l
        src := evSrc id n l, atW := s.sch.wCycle } (fget s.evr.held [] (evNode id n)) :=
  (holdRec_held s _ h _).trans (by simp)

/-! ### Device states -/

/-- The state after a change (R433). -/
@[simp] theorem setState0_state (n : DevState) : (setState0 s n).dev.state = n := by
  unfold setState0; dsimp only; split
  · simp_all
  · split <;> simp [State.mapDev]

/-- The state after a change, with the board's sleep request (R435, R566). -/
theorem setState_state (n : DevState) :
    (setState s n).dev.state = if (n = .standby ∨ n = .ready) ∧ s.pins.sleepReq ∧ !(setState0 s n).dev.busy then .slackwater else n := by
  unfold setState; dsimp only; rw [setState0_pins]; split
  · simp [enterSleep, State.mapDev]
  · simp

/-- A freeze of a job halts the device and names the event (R10, Table 13-10). -/
theorem freeze_state (id : Nat) (h : s.dev.state = .running ∨ s.dev.state = .draining) :
    (freeze s id).dev.state = .halted ∧ (freeze s id).dev.haltId = id := by
  have hne : ¬ DevState.halted = s.dev.state := by rcases h with h | h <;> simp [h]
  simp [freeze, h, setState0, State.mapDev, hne]

/-- Without a job nothing freezes. -/
theorem freeze_idle (id : Nat) (h : ¬ (s.dev.state = .running ∨ s.dev.state = .draining)) : freeze s id = s := by simp [freeze, h]

/-- A fatal event halts the device and names itself. -/
theorem fatal_state (id n : Nat) (l : List Nat) (h : s.dev.state = .running ∨ s.dev.state = .draining) :
    (fatal s id n l).dev.state = .halted ∧ (fatal s id n l).dev.haltId = id := freeze_state _ _ (by simpa using h)

/-- The halt asked for first stands (R94). -/
theorem haltNext_haltReq (id : Nat) : (haltNext s id).sch.haltReq = if s.sch.haltReq = none then some id else s.sch.haltReq := by
  cases h : s.sch.haltReq <;> simp [haltNext, State.mapSch, h]

/-! ### Eddy causes -/

/-- The causes after one is entered: it is there, and what was there stays (R45). -/
theorem addCause_causes (n src : Nat) : ∃ l, (addCause s n src).sch.causes = s.sch.causes ++ l ∧ hasCause (addCause s n src) n = true := by
  unfold addCause; split
  · rename_i h
    refine ⟨[], by simp, ?_⟩
    rw [List.any_eq_true] at h
    obtain ⟨c, hc, e⟩ := h
    exact List.any_eq_true.mpr ⟨c, hc, by simp_all⟩
  · exact ⟨_, rfl, by simp [hasCause, State.mapSch]⟩

/-- A cause removed is gone, and every other one stays. -/
theorem dropCause_hasCause (n m : Nat) : hasCause (dropCause s n) m = (hasCause s m && (m != n)) := by
  rw [Bool.eq_iff_iff]
  simp only [hasCause, dropCause, State.mapSch, List.any_filter, List.any_eq_true, Bool.and_eq_true, bne_iff_ne, beq_iff_eq]
  constructor
  · rintro ⟨c, hc, hn, rfl⟩; exact ⟨⟨c, hc, rfl⟩, hn⟩
  · rintro ⟨⟨c, hc, rfl⟩, hn⟩; exact ⟨c, hc, hn, rfl⟩

/-! ### Free values -/

@[simp] theorem takeFree_length (n : Nat) : (takeFree s n).1.length = n := by simp [takeFree]
@[simp] theorem takeFree_free (n : Nat) : (takeFree s n).2.free = s.free + n := rfl
@[simp] theorem takeFreeNat_free (w : Nat) : (takeFreeNat s w).2.free = s.free + 1 := rfl
theorem takeFreeNat_lt (w : Nat) : (takeFreeNat s w).1 < 2 ^ w := Nat.mod_lt _ (Nat.two_pow_pos w)

/-! ### Measurement -/

/-- Replaying a log with one entry more (R508). -/
theorem logReplay_append (l : List LogEntry) (e : LogEntry) : logReplay (l ++ [e]) = mrAfter (logReplay l) e := by simp [logReplay]

/-- An extension keeps the log's account of the registers (R508, R510). -/
theorem extendMR_measInv (typ m v : Nat) (sg dg : List Byte) (h : MeasInv s) : MeasInv (extendMR s typ m v sg dg) := by
  obtain ⟨hc, hs, hr⟩ := h
  constructor
  · simp only [extendMR, List.length_drop, List.length_append, List.length_singleton]; omega
  · intro i e he
    simp only [extendMR, List.getElem?_drop, List.length_drop, List.length_append, List.length_singleton] at he ⊢
    rw [List.getElem?_append] at he
    split at he
    · have := hs _ _ he; omega
    · rename_i hi
      rw [List.getElem?_singleton] at he
      split at he
      · obtain rfl := Option.some.inj he; dsimp only; omega
      · cases he
  · intro hq
    simp only [extendMR] at hq ⊢
    have h0 : s.tru.log.length + 1 - 16384 = 0 := by omega
    rw [h0, List.drop_zero, logReplay_append, mrAfter, ← hr (by omega)]

/-- The account depends on the trust state only. -/
theorem measInv_congr {s t : State} (e : t.tru = s.tru) (h : MeasInv s) : MeasInv t := ⟨e ▸ h.count, e ▸ h.seqs, e ▸ h.replay⟩

/-- An unsigned extension keeps the account. -/
theorem measure_measInv (typ m : Nat) (dg : List Byte) (h : MeasInv s) : MeasInv (measure s typ m dg) := extendMR_measInv s _ _ _ _ _ h

/-- A signed extension keeps the account. -/
theorem measureSigned_measInv (typ m : Nat) (ks : List (List Byte)) (b sg : List Byte) (h : MeasInv s) : MeasInv (measureSigned s typ m ks b sg) := by
  unfold measureSigned; dsimp only; split
  · exact measInv_congr (raise_tru _ _ _ _) (extendMR_measInv s _ _ _ _ _ h)
  · exact extendMR_measInv s _ _ _ _ _ h

/-! ### Dictionary answers -/

/-- A success is the last answer (R425). -/
theorem okResp_granted (p : Path) (o : Nat) : Granted (okResp s p o) p o := by simp [Granted, okResp, respond, State.mapMgm]

/-- A refusal is the last answer, with its abort code (R430). -/
theorem refuse_denied (p : Path) (o ab : Nat) : Denied (refuse s p o ab) p o ab := by
  simp [Denied, refuse, respond, State.mapMgm]

/-- A refusal is counted and kept (R430, Table 13-11). -/
theorem refuse_counts (p : Path) (o ab : Nat) :
    (refuse s p o ab).mgm.refusals = sat32 s.mgm.refusals ∧ (refuse s p o ab).mgm.lastAbort = ab ∧ (refuse s p o ab).mgm.lastRef = o := by
  simp [refuse, respond, State.mapMgm]

/-- A list of checks passes when each of them passes or has no code. -/
theorem firstAbort_zero (l : List (Bool × Nat)) (h : ∀ q ∈ l, q.1 = true) : firstAbort l = 0 := by
  induction l with
  | nil => rfl
  | cons q r ih =>
    obtain ⟨ok, ab⟩ := q
    have h0 : ok = true := h (ok, ab) (by simp)
    simp only [firstAbort, h0, if_true]
    exact ih fun q hq => h q (by simp [hq])

/-- A passing check leaves the rest of the list. -/
@[simp] theorem firstAbort_pass (ab : Nat) (r : List (Bool × Nat)) : firstAbort ((true, ab) :: r) = firstAbort r := rfl

/-- A failing check gives its code. -/
@[simp] theorem firstAbort_fail (ab : Nat) (r : List (Bool × Nat)) : firstAbort ((false, ab) :: r) = ab := rfl

variable (p : Path) (o : Nat) (st : Bool) (chk : Nat) (act : State → State)

/-- The waiting requests of a path after they are set. -/
@[simp] theorem waitsOn_setWaits (l : List Instr) : waitsOn (setWaits s p l) p = l := by cases p <;> simp [waitsOn, setWaits, State.mapMgm]

/-- Those of the other path stay. -/
theorem waitsOn_setWaits_other (l : List Instr) (q : Path) (h : q ≠ p) : waitsOn (setWaits s p l) q = waitsOn s q := by
  cases p <;> cases q <;> simp_all [waitsOn, setWaits, State.mapMgm, pathNo, fget_fset_ne]

/-- A served path is up. -/
theorem pathUp_of_served (h : served s p = true) : pathUp s p = true := by
  simp only [served, Bool.and_eq_true] at h
  exact h.1.1

variable (i : Instr) (full now : State)

/-- A request on a path that is served is served at once (R427). -/
theorem odTake_served (h : served s p = true) : odTake s p i full now = now := by simp [odTake, h]

/-- On a path that is not up it is handed to the request's own operation, which does nothing. -/
theorem odTake_down (h : pathUp s p = false) : odTake s p i full now = now := by simp [odTake, h]

/-- A request that finds its hart in debug mode, or others before it, waits and pends the path's line (R427, R551). -/
theorem odTake_waits (h : pathUp s p = true) (g : served s p = false) (w : (waitsOn s p).length < 16) :
    odTake s p i full now = pendLine (setWaits s p (waitsOn s p ++ [i])) 1 (4 + pathNo p) := by simp [odTake, h, g, w]

/-- One beyond 16 is answered with `BUSY` (R427). -/
theorem odTake_full (h : pathUp s p = true) (g : served s p = false) (w : 16 ≤ (waitsOn s p).length) :
    odTake s p i full now = full := by simp [odTake, h, g, Nat.not_lt.mpr w]

/-- A request nobody serves has no effect (R423). -/
theorem odCmd_unserved (h : served s p = false) : odCmd s p o st chk act = s := by simp [odCmd, h]

/-- A write of a path that does not own the dictionary is refused (R428). -/
theorem odCmd_notOwner (h : served s p = true) (g : ownerOk s p = false) : odCmd s p o st chk act = refuse s p o abNOTOWNER := by
  simp [odCmd, h, g]

/-- A write that the device state does not serve is refused (R423). -/
theorem odCmd_wrongState (h : served s p = true) (g : ownerOk s p = true) (w : (stateServes s o && st) = false) :
    odCmd s p o st chk act = refuse s p o abSTATE := by simp_all [odCmd]

/-- A write that fails a check of its own is refused with that check's code (R430). -/
theorem odCmd_refused (h : Takes s p o) (w : st = true) (e : chk ≠ 0) : odCmd s p o st chk act = refuse s p o chk := by
  obtain ⟨a, b, c⟩ := h
  simp [odCmd, a, b, c, w, e]

/-- A write that passes every check has its effect and is granted (R430). -/
theorem odCmd_done (h : Takes s p o) (w : st = true) (e : chk = 0) : odCmd s p o st chk act = okResp (act s) p o := by
  obtain ⟨a, b, c⟩ := h
  simp [odCmd, a, b, c, w, e]

/-- What an effect, an answer and a refusal keep, the write keeps. -/
theorem odCmd_keeps (P : State → Prop) (hr : ∀ ab, P s → P (refuse s p o ab)) (ha : P s → P (okResp (act s) p o)) (hs : P s) :
    P (odCmd s p o st chk act) := by
  unfold odCmd
  split
  · exact hs
  · split
    · exact hr _ hs
    · split
      · exact hr _ hs
      · split
        · exact hr _ hs
        · exact ha hs

/-! ### Staging -/

/-- Staging keeps the limit of 32 pending changes (R440). -/
theorem stage_stagedInv (k : StageKind) (h : StagedInv s) : StagedInv (stage s k) := by
  unfold StagedInv at *
  simp only [stage, State.mapMgm]
  split
  · simpa using h
  · split
    · simp; omega
    · exact h

/-! ### Scalars, operations and the sequencer -/

/-- A scalar register after a write; s0 reads 0 (R90). -/
theorem setSreg_sreg (c r k : Nat) (v : BitVec 32) :
    ((setSreg s c r v).core c).sreg k = if k = 0 then 0#32 else if k = r then v else (s.core c).sreg k := by
  unfold setSreg
  by_cases hr : r = 0
  · by_cases hk : k = 0 <;> simp [hr, hk, Core.sreg]
  · by_cases hk : k = 0
    · simp [hk, Core.sreg]
    · simp [hr, hk, Core.sreg, fget_fset]

/-- A scalar write leaves every other core as it is. -/
theorem setSreg_core_ne (c r k : Nat) (v : BitVec 32) (h : k ≠ c) : (setSreg s c r v).core k = s.core k := by
  unfold setSreg; split
  · rfl
  · exact State.mapCore_core_ne _ _ _ _ h

/-- An operation that has started performs its effect and is marked (log 5). -/
theorem withOp_some (c e q : Nat) (f : RunOp → State → State) (r : RunOp) (h : Performs s c e q r) : withOp s c e q f = opDone (f r s) c e q := by
  obtain ⟨a, b⟩ := h
  simp [withOp, a, b]

/-- No operation of the opcode, no effect (log 4). -/
theorem withOp_none (c e q : Nat) (f : RunOp → State → State) (h : opOf s c e q = none) : withOp s c e q f = s := by simp [withOp, h]

/-- While the compute domain does not run, no effect. -/
theorem withOp_held (c e q : Nat) (f : RunOp → State → State) (h : sRun s = false) : withOp s c e q f = s := by
  unfold withOp; split <;> simp [h]

/-- An executed sequencer operation: its effect, its signals, and the next descriptor (R91, R95). -/
theorem seqOp_executes (c q : Nat) (h : Executes s c q) (k : dClass (seqDesc s c) = 0) :
    seqOp s c q = seqNext (issueSignals (seqEffect s c (seqDesc s c)) c 0 (s.sch.sCycle + 1) (seqPlace s c) (seqDesc s c)) c (seqDesc s c) := by
  obtain ⟨a, b, d, e⟩ := h
  simp [seqOp, a, b, seqTurn, d, k, seqExec, e]

/-- Going on to the next descriptor (R95). -/
theorem seqNext_advances (c : Nat) (d : Desc) :
    ((seqNext s c d).core c).idx = dNext d ∧ ((seqNext s c d).core c).nextS = s.sch.sCycle + 1 ∧ ((seqNext s c d).core c).held = false := by
  simp [seqNext]

end Sys2Proof.Machine
end

