-- ==== Sys2Proof/Laws/Memory.lean ====
section
/-! SUPPORT. Every memory operation keeps the canonical form of the memories (log 1), the memories of the reset state have it, and what a write to a
memory leaves in every byte. -/

namespace Sys2Proof.Machine

/-! ### The canonical form of all memories -/

/-- The memories of one core are canonical: scratchpad, both descriptor banks and the vector registers. -/
structure CoreCanon (k : Core) : Prop where
  spad : Memory.wf k.spad = true
  bankA : Memory.wf k.bankA = true
  bankB : Memory.wf k.bankB = true
  vreg : Memory.wf k.vreg = true

/-- Every addressed memory of the chip is canonical. -/
structure MemCanon (s : State) : Prop where
  core : ∀ c, CoreCanon (s.core c)
  pool : ∀ p, Memory.wf (s.pool p).mem = true
  beds : Memory.wf s.beds.mem = true

/-- The memories of the reset state are canonical. -/
theorem reset_memCanon : MemCanon State.reset := ⟨fun _ => ⟨rfl, rfl, rfl, rfl⟩, fun _ => rfl, rfl⟩

variable {s t : State}

/-- A change of other parts of State keeps the form. -/
theorem memCanon_congr (h : MemCanon s) (hc : t.cores = s.cores) (hp : t.pools = s.pools) (hb : t.beds = s.beds) : MemCanon t := by
  obtain ⟨a, b, c⟩ := h
  exact ⟨fun n => by simpa only [State.core, hc] using a n, fun n => by simpa only [State.pool, hp] using b n, hb ▸ c⟩

theorem mapCore_memCanon (h : MemCanon s) (c : Nat) (f : Core → Core) (w : CoreCanon (f (s.core c))) : MemCanon (s.mapCore c f) := by
  refine ⟨fun n => ?_, h.pool, h.beds⟩
  rw [State.mapCore_core]; split
  · exact w
  · exact h.core n

theorem mapPool_memCanon (h : MemCanon s) (p : Nat) (f : Pool → Pool) (w : Memory.wf (f (s.pool p)).mem = true) : MemCanon (s.mapPool p f) := by
  refine ⟨h.core, fun n => ?_, h.beds⟩
  rw [State.mapPool_pool]; split
  · exact w
  · exact h.pool n

theorem mapBeds_memCanon (h : MemCanon s) (f : Beds → Beds) (w : Memory.wf (f s.beds).mem = true) : MemCanon (s.mapBeds f) := ⟨h.core, h.pool, w⟩

/-! ### The operations over the memories keep it -/

theorem takeFree_memCanon (h : MemCanon s) (n : Nat) : MemCanon (takeFree s n).2 := memCanon_congr h rfl rfl rfl

theorem raise_memCanon (h : MemCanon s) (id n : Nat) (l : List Nat) : MemCanon (raise s id n l) := memCanon_congr h (by simp) (by simp) (by simp)

theorem raiseAt_memCanon (h : MemCanon s) (t id n : Nat) (l : List Nat) : MemCanon (raiseAt s t id n l) := memCanon_congr h (by simp) (by simp) (by simp)

theorem raiseC_memCanon (h : MemCanon s) (id c : Nat) (l : List Nat) : MemCanon (raiseC s id c l) := raise_memCanon h _ _ _

theorem bedWrite_memCanon (h : MemCanon s) (a : Nat) (bs : List Byte) : MemCanon (bedWrite s a bs) :=
  mapBeds_memCanon h _ (mwrite_wf _ _ _ h.beds)

theorem logWrite_memCanon (h : MemCanon s) (o : Nat) (bs : List Byte) : MemCanon (logWrite s o bs) := by
  unfold logWrite; split
  · exact bedWrite_memCanon h _ _
  · exact h

theorem lineZero_memCanon (h : MemCanon s) (l : Nat) : MemCanon (lineZero s l) := mapBeds_memCanon h _ (mzero_wf _ _ _ h.beds)

theorem spadWrite_memCanon (h : MemCanon s) (c a : Nat) (bs : List Byte) : MemCanon (spadWrite s c a bs).1 := by
  obtain ⟨ws, wa, wb, wv⟩ := h.core c
  unfold spadWrite; dsimp only; split
  · dsimp only
    refine mapCore_memCanon h c _ ?_
    exact ⟨mwrite_wf _ _ _ ws, wa, wb, wv⟩
  · refine raise_memCanon (mapCore_memCanon h c _ ?_) _ _ _
    exact ⟨mset_fold_wf _ _ _ _ ws, wa, wb, wv⟩

theorem poolWrite_memCanon (h : MemCanon s) (p a : Nat) (bs : List Byte) : MemCanon (poolWrite s p a bs).1 := by
  unfold poolWrite; dsimp only; split
  · dsimp only
    refine mapPool_memCanon h p _ ?_
    exact mwrite_wf _ _ _ (h.pool p)
  · refine raise_memCanon (mapPool_memCanon h p _ ?_) _ _ _
    exact mset_fold_wf _ _ _ _ (h.pool p)

theorem mapIn_coreCanon {k : Core} (h : CoreCanon k) (f : Mem → Mem) (w : ∀ m, Memory.wf m = true → Memory.wf (f m) = true) : CoreCanon (k.mapIn f) := by
  obtain ⟨ws, wa, wb, wv⟩ := h
  unfold Core.mapIn; split
  · exact ⟨ws, w _ wa, wb, wv⟩
  · exact ⟨ws, wa, w _ wb, wv⟩

theorem bankWriteTo_memCanon (h : MemCanon s) (c o : Nat) (bs : List Byte) (b : Bool) : MemCanon (bankWriteTo s c o bs b) := by
  obtain ⟨ws, wa, wb, wv⟩ := mapIn_coreCanon (h.core c) (fun m => mwrite m o bs) fun m w => mwrite_wf m _ _ w
  exact mapCore_memCanon h c _ ⟨ws, wa, wb, wv⟩

theorem bankSwitch_memCanon (h : MemCanon s) (c : Nat) : MemCanon (bankSwitch s c) := by
  obtain ⟨ws, wa, wb, wv⟩ := h.core c
  unfold bankSwitch; dsimp only; split <;> exact raiseAt_memCanon (mapCore_memCanon h c _ ⟨ws, wa, wb, wv⟩) _ _ _ _

theorem opWrite_memCanon (h : MemCanon s) (x : Opnd) (o : Nat) (bs : List Byte) (b : Bool) (pl : List Nat := []) : MemCanon (opWrite s x o bs b pl).1 := by
  unfold opWrite; split
  · split
    · exact spadWrite_memCanon h _ _ _
    · exact h
  · exact poolWrite_memCanon h _ _ _
  · exact bedWrite_memCanon h _ _
  · rename_i c _
    obtain ⟨ws, wa, wb, wv⟩ := h.core c
    dsimp only; split
    · exact h
    · split
      · exact raiseC_memCanon (mapCore_memCanon h c _ ⟨ws, wa, wb, wv⟩) _ _ _
      · exact bankWriteTo_memCanon h _ _ _ _
  · exact h

theorem opUndef_memCanon (h : MemCanon s) (x : Option Opnd) : MemCanon (opUndef s x) := by
  unfold opUndef; split
  · exact opWrite_memCanon (takeFree_memCanon h _) _ _ _ _
  · exact h

theorem fxPut_memCanon (h : MemCanon s) (x : Option Opnd) (o : Nat) (bs : List Byte) : MemCanon (fxPut s x o bs) := by
  unfold fxPut; split
  · exact opWrite_memCanon h _ _ _ _
  · exact h

theorem copyRows_memCanon (h : MemCanon s) (x y : Opnd) (n ss ds : Nat) (bk : Bool) (pl : List Nat) (rows : Nat) :
    MemCanon (copyRows x y n ss ds bk pl s rows).1 := by
  have key : ∀ (l : List Nat) (a : State × Nat), MemCanon a.1 → MemCanon (l.foldl (fun a i =>
      let (s, st) := opWrite a.1 y (64 * ds * i) (opRead a.1 x (64 * ss * i) n) bk pl
      (s, max a.2 st)) a).1 := by
    intro l
    induction l with
    | nil => exact fun a ha => ha
    | cons i r ih => exact fun a ha => ih _ (opWrite_memCanon ha _ _ _ _ _)
  exact key _ _ h

theorem ternReport_memCanon (h : MemCanon s) (c : Nat) (r : RunOp) (b : Bool) : MemCanon (ternReport s c r b) := by
  have key : ∀ u : State, MemCanon u → ∀ f : Core → Core, (∀ k, CoreCanon k → CoreCanon (f k)) → MemCanon (u.mapCore c f) :=
    fun u hu f hf => mapCore_memCanon hu c f (hf _ (hu.core c))
  have sticky : MemCanon (setSticky s c flTERN) := by
    unfold setSticky; split
    · exact h
    · exact key s h _ fun k ⟨ws, wa, wb, wv⟩ => ⟨ws, wa, wb, wv⟩
  unfold ternReport; dsimp only; split
  · exact h
  · split
    · exact sticky
    · exact key _ (raise_memCanon sticky _ _ _) _ fun k ⟨ws, wa, wb, wv⟩ => ⟨ws, wa, wb, wv⟩

theorem vWrite_memCanon (h : MemCanon s) (src : State) (c : Nat) (r : RunOp) (v f lo n m : Nat) (bs : List Byte) :
    MemCanon (vWrite src c r v f lo n m bs s) := by
  obtain ⟨ws, wa, wb, wv⟩ := h.core c
  unfold vWrite; dsimp only
  refine ternReport_memCanon (mapCore_memCanon h c _ ?_) c r _
  exact ⟨ws, wa, wb, mwrite_wf _ _ _ wv⟩

theorem vUndef_memCanon (h : MemCanon s) (c v f n : Nat) : MemCanon (vUndef s c v f n) := by
  obtain ⟨ws, wa, wb, wv⟩ := h.core c
  unfold vUndef; dsimp only
  refine mapCore_memCanon (takeFree_memCanon h _) c _ ?_
  exact ⟨ws, wa, wb, mwrite_wf _ _ _ wv⟩

theorem granuleZero_memCanon (h : MemCanon s) (m : MemLoc) : MemCanon (granuleZero s m) := by
  unfold granuleZero; split
  · rename_i c _
    obtain ⟨ws, wa, wb, wv⟩ := h.core c.val
    exact mapCore_memCanon h _ _ ⟨mzero_wf _ _ _ ws, wa, wb, wv⟩
  · exact mapPool_memCanon h _ _ (mzero_wf _ _ _ (h.pool _))
  · rename_i c _
    obtain ⟨ws, wa, wb, wv⟩ := h.core c.val
    refine mapCore_memCanon h _ _ ?_
    dsimp only; split
    · exact ⟨ws, mzero_wf _ _ _ wa, wb, wv⟩
    · exact ⟨ws, wa, mzero_wf _ _ _ wb, wv⟩
  · rename_i c _
    obtain ⟨ws, wa, wb, wv⟩ := h.core c.val
    exact mapCore_memCanon h _ _ ⟨ws, wa, wb, wv⟩
  · exact h

theorem flushBeds_memCanon (h : MemCanon s) : MemCanon (flushBeds s) := by
  unfold flushBeds; dsimp only
  generalize (if s.beds.flushW then [1, 2, 3, 4, 5] else [3, 4, 5]) = ts
  refine State.each_keeps s MemCanon _ _ (fun s p h => ?_) h
  split
  · refine mapBeds_memCanon h _ ?_
    exact mzero_wf _ _ _ h.beds
  · exact h

theorem segZero_wf (l : List Nat) (v old : BitVec 8) (z : Nat) (m : Mem) (w : Memory.wf m = true) : Memory.wf (l.foldl (fun m i =>
    if v.getLsbD i && !old.getLsbD i then mzero m (z / 8 * i) (z / 8 * (i + 1)) else m) m) = true := by
  induction l generalizing m with
  | nil => exact w
  | cons i r ih =>
    refine ih _ ?_
    dsimp only; split
    · exact mzero_wf _ _ _ w
    · exact w

theorem segSet_memCanon (h : MemCanon s) (u : SegUnit) (v : BitVec 8) : MemCanon (segSet s u v) := by
  unfold segSet; split
  · rename_i c
    obtain ⟨ws, wa, wb, wv⟩ := h.core c.val
    exact mapCore_memCanon h _ _ ⟨segZero_wf _ _ _ _ _ ws, wa, wb, wv⟩
  · exact mapPool_memCanon h _ _ (segZero_wf _ _ _ _ _ (h.pool _))

/-! ### What a write leaves -/

/-- A bed write puts its bytes at its address and leaves every other byte. -/
theorem bedWrite_mget (a : Nat) (bs : List Byte) (i : Nat) :
    mget (bedWrite s a bs).beds.mem i = if a ≤ i ∧ i < a + bs.length then bs.getD (i - a) 0#8 else mget s.beds.mem i := mget_mwrite _ _ _ _

/-- A scratchpad write whose segments take it puts its bytes at its address and leaves every other byte (R280, R282). -/
theorem spadWrite_stores (c a : Nat) (bs : List Byte) (h : segRangeOn (segTakes s c) (spadBytes c) a bs.length = true) :
    Stores s (spadWrite s c a bs).1 c a bs ∧ OtherCores s (spadWrite s c a bs).1 c ∧ (spadWrite s c a bs).2 = false := by
  unfold spadWrite; simp only [h, if_true]
  refine ⟨fun i => ?_, fun k hk => State.mapCore_core_ne _ _ _ _ hk, trivial⟩
  rw [State.mapCore_core_same]; exact mget_mwrite _ _ _ _

/-- A pool write whose segments take it puts its bytes at its address and leaves every other byte (R280, R282). -/
theorem poolWrite_wrote (p a : Nat) (bs : List Byte) (h : segRangeOn (segTakesPool s p) poolBytes a bs.length = true) :
    Wrote (s.pool p).mem ((poolWrite s p a bs).1.pool p).mem a bs ∧ (poolWrite s p a bs).2 = false := by
  unfold poolWrite; simp only [h, if_true]
  refine ⟨fun i => ?_, trivial⟩
  rw [State.mapPool_pool_same]; exact mget_mwrite _ _ _ _

/-- A write to the inactive bank: its bytes, FILLING, and the active bank as it was (Table 3-9). -/
theorem bankWriteTo_wrote (c o : Nat) (bs : List Byte) (b : Bool) :
    Wrote (s.core c).inBank ((bankWriteTo s c o bs b).core c).inBank o bs ∧ ((bankWriteTo s c o bs b).core c).actBank = (s.core c).actBank ∧
      ((bankWriteTo s c o bs b).core c).inact = .filling := by
  unfold bankWriteTo
  rw [State.mapCore_core_same]
  cases h : (s.core c).activeB <;> simp [Core.mapIn, Core.inBank, Core.actBank, h] <;>
    exact fun i => mget_mwrite _ _ _ _

/-- A zeroed bed line reads zero, and every other byte stays. -/
theorem lineZero_mget (l i : Nat) :
    mget (lineZero s l).beds.mem i = if 1024 * l ≤ i ∧ i < 1024 * l + 1024 then 0#8 else mget s.beds.mem i := mget_mzero _ _ _ _

end Sys2Proof.Machine
end

