-- ==== Sys2Proof/Laws/SlhDsa.lean ====
section
/-! SUPPORT. Lengths of hashes and of SLH-DSA signatures (R512, R514). -/

namespace Sys2Proof.Machine

theorem keccakRound_length (a : Lanes) (rc : BitVec 64) : (keccakRound a rc).length = 25 := by simp [keccakRound]

theorem keccakF_length (a : Lanes) : (keccakF a).length = 25 := by
  simp only [keccakF, keccakRC, List.foldl_cons, List.foldl_nil, keccakRound_length]

theorem keccakAbsorb_length (a : Lanes) (m : List Byte) (n : Nat) (h : a.length = 25) : (keccakAbsorb a m n).length = 25 := by
  induction n generalizing a m with
  | zero => exact h
  | succ n ih => exact ih _ _ (keccakF_length _)

/-- Every string of a list has `n` bytes: so many the list joined. -/
theorem flatten_length_of {l : List (List Byte)} {n : Nat} (h : ∀ x ∈ l, x.length = n) : l.flatten.length = n * l.length := by
  induction l with
  | nil => simp
  | cons x r ih =>
    simp only [List.flatten_cons, List.length_append, List.length_cons]
    rw [h x (List.mem_cons_self ..), ih fun y hy => h y (List.mem_cons_of_mem _ hy)]
    ring

theorem keccakHash_length (d : Byte) (m : List Byte) : (keccakHash d m).length = 200 := by
  simp only [keccakHash]
  rw [flatten_length_of (n := 8) (by simp [leBytes_length]), List.length_map, keccakAbsorb_length _ _ _ (List.length_replicate ..)]

@[simp] theorem shake32_length (m : List Byte) : (shake32 m).length = 32 := by simp [shake32, keccakHash_length]

@[simp] theorem slhT_length (ps : List Byte) (a : Adrs) (m : List Byte) : (slhT ps a m).length = 32 := shake32_length _

theorem slhChain_length (ps : List Byte) (a : Adrs) (x : List Byte) (i n : Nat) (h : x.length = 32) : (slhChain ps a x i n).length = 32 := by
  simp only [slhChain]
  induction n with
  | zero => simpa
  | succ n _ => rw [List.range_succ, List.foldl_append]; simp

theorem wotsSign_length (k : SlhKey) (a : Adrs) (m : List Byte) : (wotsSign k a m).length = 32 * 67 := by
  simp only [wotsSign]
  rw [flatten_length_of (n := 32), List.length_map, List.length_range]
  intro x hx
  obtain ⟨c, -, rfl⟩ := List.mem_map.1 hx
  exact slhChain_length _ _ _ _ _ (slhT_length _ _ _)

theorem xmssNode_length (k : SlhKey) (a : Adrs) (z i : Nat) : (xmssNode k a z i).length = 32 := by
  cases z <;> simp [xmssNode, wotsPub, wotsPk]

theorem xmssSign_length (p : SlhPar) (k : SlhKey) (a : Adrs) (m : List Byte) (i : Nat) : (xmssSign p k a m i).length = 32 * (67 + p.hp) := by
  simp only [xmssSign, List.length_append, wotsSign_length]
  rw [flatten_length_of (n := 32), List.length_map, List.length_range]
  · ring
  intro x hx
  obtain ⟨c, -, rfl⟩ := List.mem_map.1 hx
  exact xmssNode_length _ _ _ _

theorem htSign_length (p : SlhPar) (k : SlhKey) (m : List Byte) (t l : Nat) : (htSign p k m t l).length = p.d * (32 * (67 + p.hp)) := by
  simp only [htSign]
  generalize p.d = n
  suffices h : ∀ m : List Byte, ((List.range n).foldl (fun (acc : List Byte × List Byte) j =>
      (acc.1 ++ xmssSign p k { layer := j, tree := (layerAt p t l j).1 } acc.2 (layerAt p t l j).2,
        xmssFrom p k.pkSeed { layer := j, tree := (layerAt p t l j).1 } acc.2
          (xmssSign p k { layer := j, tree := (layerAt p t l j).1 } acc.2 (layerAt p t l j).2) (layerAt p t l j).2)) ([], m)).1.length =
      n * (32 * (67 + p.hp)) from h m
  intro m
  induction n with
  | zero => simp
  | succ n ih =>
    rw [List.range_succ, List.foldl_append]
    simp only [List.foldl_cons, List.foldl_nil, List.length_append, ih, xmssSign_length]
    ring

theorem forsNode_length (k : SlhKey) (a : Adrs) (z i : Nat) : (forsNode k a z i).length = 32 := by cases z <;> simp [forsNode]

theorem forsSign_length (p : SlhPar) (k : SlhKey) (a : Adrs) (md : List Byte) : (forsSign p k a md).length = 32 * (1 + p.a) * p.k := by
  simp only [forsSign]
  rw [flatten_length_of (n := 32 * (1 + p.a)), List.length_map, List.length_range]
  intro x hx
  obtain ⟨c, -, rfl⟩ := List.mem_map.1 hx
  simp only [List.length_append, forsSecret, slhT_length]
  rw [flatten_length_of (n := 32), List.length_map, List.length_range]
  · ring
  intro y hy
  obtain ⟨j, -, rfl⟩ := List.mem_map.1 hy
  exact forsNode_length _ _ _ _

/-- A signature has the length of its parameter set. -/
theorem slhSign_length (p : SlhPar) (k : SlhKey) (msg : List Byte) : (slhSign p k msg).length = 32 * slhLen p := by
  simp only [slhSign, List.length_append, shake32_length, forsSign_length, htSign_length, slhLen]
  ring

/-- R514, R516: 49,856 bytes for a quote, 29,792 for a statement. -/
theorem slhLen_values : 32 * slhLen slhF = 49856 ∧ 32 * slhLen slhS = 29792 := by decide

end Sys2Proof.Machine
end

