-- ==== Sys2Proof/WellFormed.lean ====
section
/-! DEFINITION. Which commands are well formed: the sizes that the spec fixes for the data a command carries. -/

namespace Sys2Proof

/-- The sizes the spec fixes: 64-byte queue entries (R239), packets of 64 payload bytes (R315), frames of 16 data flits (R309), 64 monitors
(R460), intake and request payloads of 64 bytes (R356, R362), request messages of at least 64 bytes (R390). -/
def Instr.wf : Instr → Bool
  | .tribInputArrive _ entry => entry.length == 64
  | .packetArrive _ pk => pk.data.length == 64
  | .linkFrameReceive _ f => f.flits.length == 16
  | .monitorSample m _ _ _ => decide (m < 64)
  | .droopClear m => decide (m < 64)
  | .intakeHeader _ payload => payload.length == 64
  | .intakeData _ tag payload => payload.length == 64 && decide (tag < 2048)
  | .pieceRequest payload => payload.length == 64
  | .servingRequest msg => decide (64 ≤ msg.length)
  | .endRequest msg => msg.length == 64
  | .pieceHashComplete i => decide (i < 262144)
  | .rescanPiece i => decide (i < 262144)
  | _ => true

end Sys2Proof
end

