-- ==== Sys2Proof/Tests/Slice0.lean ====
section
/-! SUPPORT. Tests: ill-formed commands are refused, single steps give what the spec's rules give by hand, and every statement with hypotheses has a
state and operands that meet them. -/

namespace Sys2Proof.Tests

open Sys2Proof.Machine

set_option Elab.async false

/-! ### Small states -/

/-- The state a command leaves; the reset state where it stops. -/
def after (i : Instr) (s : State) : State :=
  match exec i s with
  | .next t => t
  | _ => State.reset

/-- Reset, in another device state. -/
def inState (d : DevState) : State := { State.reset with dev := { State.reset.dev with state := d } }

/-- A job runs. -/
def running : State := { inState .running with sch := { State.reset.sch with job := true } }

/-- A job runs and core `c` is `k`. -/
def withCore (c : Nat) (k : Core) : State := { running with cores := [(c, k)] }

/-- A descriptor from its opcode, engine, `NEXT`, `PARAM` and operands (number, region, offset, extent), by Table 3-1. -/
def dsc (op eng next param : Nat) (ops : List (Nat × Nat × Nat × Nat)) : Nat :=
  op * 2 ^ 56 + eng * 2 ^ 52 + next + param * 2 ^ 448 +
    sumN (ops.map fun o => (o.2.1 * 2 ^ 56 + o.2.2.1 * 2 ^ 22 + o.2.2.2) * 2 ^ (if o.1 = 3 then 192 else 256 + 64 * o.1))

/-- A region-table entry from its type, size and base, readable and writable, by Table 3-4. -/
def rgn (typ size base : Nat) : Nat := typ * 2 ^ 124 + 3 * 2 ^ 122 + size * 2 ^ 64 + base * 2 ^ 30

/-- A bank with one descriptor at place 0 and region entries from 0 on. -/
def bankOf (d : Nat) (rs : List Nat) : Mem :=
  (List.range rs.length).foldl (fun m i => mwrite m (131072 + 16 * i) (leBytes 16 (rs.getD i 0))) (mwrite [] 0 (leBytes 64 d))

/-- Core `c` presents descriptor `d`; region 0 is its own scratchpad. -/
def presents (c d : Nat) : State := withCore c { ring := true, bankA := bankOf d [rgn 1 4096 0] }

/-- An operation of descriptor `d` on engine `e` with its scalars and `vl`. -/
def opr (e d : Nat) (rs : List (BitVec 32)) (vl : Nat) : RunOp := { eng := e, item := { desc := BitVec.ofNat 512 d }, sregs := rs, vl := vl }

/-- Core `c`, as `k`, has started an operation; regions 0 to 4 are its scratchpad, bed bytes, input queue 0, output
queue 0 and its receive windows. -/
def started (c : Nat) (k : Core) (r : RunOp) : State :=
  withCore c { k with ring := true, bankA := bankOf 0 [rgn 1 4096 0, rgn 4 4096 0, rgn 7 4 0, rgn 8 4 0, rgn 6 4096 0], run := [r] }

/-! ### Ways to show the statements' hypotheses -/

theorem performs {s : State} {c e o : Nat} {r : RunOp} (h : opOf s c e o = some r ∧ sRun s = true) : Performs s c e o r := h

theorem executes {s : State} {c o : Nat} (h : seqReady s c = true ∧ dOpcode (seqDesc s c) = o ∧ seqDecide s c (seqDesc s c) = .run ∧
    waitsMet s c (seqDesc s c) = true) : Executes s c o := h

theorem takes {s : State} {p : Path} {o : Nat} (h : served s p = true ∧ ownerOk s p = true ∧ stateServes s o = true) : Takes s p o := h

theorem ownSpad {s : State} {c i a n : Nat} {r : RunOp} (x : Opnd) (h : operand s c r.item.desc i = some x ∧ x.loc = .spad c ∧ x.a = a ∧ n ≤ x.bytes ∧
    corePresent s c = true ∧ ∀ j, j < n → segOn (segTakes s c) (segOf (spadBytes c) (a + j)) = true) : OwnSpad s c r i a n := ⟨x, h⟩

theorem destOn {s : State} {y : Opnd} {n c : Nat} (l : y.loc = .spad c) (h : corePresent s c = true ∧
    ∀ j, j < n → segOn (segTakes s c) (segOf (spadBytes c) (y.a + j)) = true) : DestOn s y n := by unfold DestOn; rw [l]; exact h

theorem cycleFree {s : State} {i : Instr} (h : (outsideJob s i).all (fun x => !cycleHeld (wideNow s) s x.2.1 x.2.2 &&
    !outsideBehind s s.beds.waiting x.1 (cycleKey s x.2.1 x.2.2)) = true) : CycleFree s i := by
  intro r m wr e
  simpa [e] using h

/-- `SLI` of 7 to s3, going on to place 5. -/
def sliS : State := presents 0 (dsc 0x01 0 5 (3 * 2 ^ 32 + 7) [])

/-- `SALU` function 1 of s0 and the immediate 1 to s4. -/
def saluS : State := presents 0 (dsc 0x02 0 1 (2 ^ 60 + 2 ^ 47 + 4 * 2 ^ 42 + 1) [])

theorem mread_nil (a n : Nat) : mread [] a n = List.replicate n 0#8 := by
  induction n generalizing a with
  | zero => rfl
  | succ n h => rw [mread, h, List.replicate_succ]; rfl

/-! ### Well-formedness -/

theorem test_wf_tribInputArrive : (Instr.tribInputArrive 0 []).wf = false ∧ (Instr.tribInputArrive 0 (List.replicate 64 0#8)).wf = true := by decide +kernel
theorem test_wf_packetArrive : (Instr.packetArrive 0 { data := [0#8] }).wf = false := by decide +kernel
theorem test_wf_linkFrameReceive : (Instr.linkFrameReceive 0 {}).wf = false := by decide +kernel
theorem test_wf_monitorSample : (Instr.monitorSample 64 0 0 0).wf = false ∧ (Instr.monitorSample 63 0 0 0).wf = true := by decide +kernel
theorem test_wf_droopClear : (Instr.droopClear 64).wf = false := by decide +kernel
theorem test_wf_intakeHeader : (Instr.intakeHeader 0 []).wf = false := by decide +kernel
theorem test_wf_intakeData : (Instr.intakeData 0 2048 (List.replicate 64 0#8)).wf = false ∧ (Instr.intakeData 0 0 []).wf = false := by decide +kernel
theorem test_wf_pieceRequest : (Instr.pieceRequest []).wf = false := by decide +kernel
theorem test_wf_servingRequest : (Instr.servingRequest (List.replicate 63 0#8)).wf = false := by decide +kernel
theorem test_wf_endRequest : (Instr.endRequest (List.replicate 65 0#8)).wf = false := by decide +kernel
theorem test_wf_pieceHashComplete : (Instr.pieceHashComplete 262144).wf = false := by decide +kernel
theorem test_wf_rescanPiece : (Instr.rescanPiece 262144).wf = false := by decide +kernel

/-! ### The queue -/

/-- R91: the command at the front runs first. -/
theorem test_step_fifo : (match step { State.reset with pending := [.resetAssert true true, .weirBegin] } with
    | .next t => t.pending
    | _ => []) = [.weirBegin] := by decide +kernel

/-! ### Sequencer -/

/-- R91: `SLI` writes 7 to s3 and goes on to place 5. -/
theorem test_sli : ((after (.sli 0) sliS).core 0).sreg 3 = 7#32 ∧ ((after (.sli 0) sliS).core 0).idx = 5 := by decide +kernel

/-- R90: s0 takes nothing. -/
theorem test_sli_s0 : ((after (.sli 0) (presents 0 (dsc 0x01 0 5 7 []))).core 0).sreg 0 = 0#32 := by decide +kernel

/-- R91: `SALU` function 1 subtracts the immediate 1 from s0 and wraps. -/
theorem test_salu_wraps : ((after (.salu 0) saluS).core 0).sreg 4 = 0xFFFFFFFF#32 := by decide +kernel

/-! ### Witnesses: the queue, the measurement log, the sequencer -/

/-- StepRunsFrontCommand: a command waits in front of another. -/
theorem wit_StepRunsFrontCommand : ({ State.reset with pending := [.weirBegin, .eddyLimit] } : State).pending = .weirBegin :: [.eddyLimit] := rfl

/-- CommandsLeaveTheQueue: a command that answers a next state, and one that stops. -/
theorem wit_CommandsLeaveTheQueue : (∃ t, exec .weirBegin State.reset = .next t) ∧ exec (.droopClear 64) State.reset = .fault (.noSuchUnit 64) :=
  ⟨⟨_, rfl⟩, rfl⟩

/-- MeasurementLogKept: a log of one entry, and an idle step from there. -/
def logged : State := { State.reset with tru := { State.reset.tru with log := [{}], logSeq := 1, mr := logReplay [{}] } }
theorem wit_MeasurementLogKept : MeasInv logged ∧ ∃ t, step logged = .next t := by
  refine ⟨⟨rfl, fun i e h => ?_, fun _ => by simp only [logged]⟩, ⟨_, rfl⟩⟩
  match i with
  | 0 => obtain rfl := Option.some.inj h; rfl
  | i + 1 => cases h

/-- SequencerScalarResults: `SLI`, `SALU` with an immediate and with a register, `SLD` of one word, `SLOTMASK` of quarter 3. -/
def saluR : State := presents 0 (dsc 0x02 0 1 (8 * 2 ^ 60 + 31 * 2 ^ 42 + 1 * 2 ^ 37 + 2 * 2 ^ 32) [])
def sldS : State := presents 0 (dsc 0x03 0 1 (2 * 2 ^ 32) [(0, 0, 4095, 1)])
def maskS : State := presents 0 (dsc 0x04 0 1 (2 * 2 ^ 32 + 5 * 2 ^ 8 + 3) [])
theorem wit_SequencerScalarResults :
    (dReserved (seqDesc sliS 0) = false ∧ Executes sliS 0 0x01 ∧ dP (seqDesc sliS 0) 63 37 = 0) ∧
    (dReserved (seqDesc saluS 0) = false ∧ Executes saluS 0 0x02 ∧ dP (seqDesc saluS 0) 59 48 = 0) ∧
    (dReserved (seqDesc saluR 0) = false ∧ Executes saluR 0 0x02 ∧ dP (seqDesc saluR 0) 59 48 = 0) ∧
    (dReserved (seqDesc sldS 0) = false ∧ Executes sldS 0 0x03 ∧
      operand sldS 0 (seqDesc sldS 0) 0 = some { typ := 1, loc := .spad 0, a := 16380, bytes := 4, ext := 1 } ∧ dP (seqDesc sldS 0) 63 37 = 0 ∧
      dP (seqDesc sldS 0) 31 0 = 0) ∧
    (dReserved (seqDesc maskS 0) = false ∧ Executes maskS 0 0x04 ∧ dP (seqDesc maskS 0) 63 37 = 0 ∧ dP (seqDesc maskS 0) 31 13 = 0 ∧
      dP (seqDesc maskS 0) 7 2 = 0) :=
  ⟨⟨by decide +kernel, executes (by decide +kernel), by decide +kernel⟩, ⟨by decide +kernel, executes (by decide +kernel), by decide +kernel⟩,
   ⟨by decide +kernel, executes (by decide +kernel), by decide +kernel⟩, ⟨by decide +kernel, executes (by decide +kernel), by decide +kernel⟩,
   ⟨by decide +kernel, executes (by decide +kernel), by decide +kernel⟩⟩

/-- SequencerControlResults: `SYNC`, `WEIR` with and without the step's index, `BANKARM`, and a dispatch with room and without. -/
def syncS : State := presents 0 (dsc 0x00 0 1 0 [])
def weirS : State := presents 0 (dsc 0x05 0 1 0 [])
def weirBad : State := presents 0 (dsc 0x05 0 1 5 [])
def armS : State := presents 0 (dsc 0x06 0 1 0 [])
def dispS (n : Nat) : State := withCore 0 { ring := true, bankA := bankOf (dsc 0x20 4 1 0 []) [], queues := [(4, List.replicate n {})] }
theorem wit_SequencerControlResults :
    Executes syncS 0 0x00 ∧ (Executes weirS 0 0x05 ∧ dP (seqDesc weirS 0) 15 0 = stepIndex weirS) ∧
    (Executes weirBad 0 0x05 ∧ dP (seqDesc weirBad 0) 15 0 ≠ stepIndex weirBad ∧ weirBad.sch.haltReq = none) ∧ Executes armS 0 0x06 ∧
    (∀ n ∈ [15, 16], seqReady (dispS n) 0 = true ∧ dClass (seqDesc (dispS n) 0) ≠ 0 ∧ seqDecide (dispS n) 0 (seqDesc (dispS n) 0) = .run ∧
      queueHeld (dispS n) 0 (dEngine (seqDesc (dispS n) 0)) = n) :=
  ⟨executes (by decide +kernel), ⟨executes (by decide +kernel), by decide +kernel⟩, ⟨executes (by decide +kernel), by decide +kernel⟩,
   executes (by decide +kernel), by decide +kernel⟩

/-- SequencerSkipsFalsePredicate: a predicate on bit 0 of s0. -/
def falseS : State := presents 0 (dsc 0x01 0 1 7 [] + 2 ^ 49)
theorem wit_SequencerSkipsFalsePredicate : seqReady falseS 0 = true ∧ (falseS.core 0).held = false ∧ predValid (seqDesc falseS 0) = true ∧
    predTrue falseS 0 (seqDesc falseS 0) = false ∧ dSkipSig (seqDesc falseS 0) = false := by decide +kernel

/-- SequencerFrame: a turn answers a next state. -/
theorem wit_SequencerFrame : Instr.sli 0 ∈ [Instr.sync 0, .sli 0] ∧ ∃ t, exec (.sli 0) sliS = .next t := ⟨by decide +kernel, ⟨_, rfl⟩⟩

/-! ### Witnesses: engines and flags -/

/-- EngineStarts: an item dispatched two S-cycles ago. -/
def startS : State := { withCore 0 { queues := [(4, [{ desc := BitVec.ofNat 512 (dsc 0x20 4 1 0 []) }])] } with
  sch := { running.sch with sCycle := 2 } }
theorem wit_EngineStarts : qHead startS 0 4 = some { desc := BitVec.ofNat 512 (dsc 0x20 4 1 0 []) } ∧ sRun startS = true ∧
    startOk startS 0 4 { desc := BitVec.ofNat 512 (dsc 0x20 4 1 0 []) } = true := by decide +kernel

/-- OperationsComplete: an operation that has performed its effect, with a signal `ADD` 5 to flag 3 of core 0. -/
def doneOp : RunOp := { opr 4 (dsc 0x20 4 1 0 [] + (2 ^ 30 + 3 * 2 ^ 16 + 5) * 2 ^ 128) [] 0 with done := true }
def doneS : State := withCore 0 { ring := true, run := [doneOp] }
theorem wit_OperationsComplete : sRun doneS = true ∧ (doneS.core 0).run.find? (opEnded doneS 4) = some doneOp ∧ dClass doneOp.item.desc ≠ 0xA ∧
    dOpcode doneOp.item.desc ≠ 0xB1 ∧ (dSig doneOp.item.desc 1).1 = 0 ∧ (dSig doneOp.item.desc 0).1 ≠ 0 ∧ (dSig doneOp.item.desc 0).2.2.1 < 12 ∧
    (doneS.core 0).ring = true := by decide +kernel

/-- R33, R86: the completion issues the signal at once for its own core. -/
theorem test_operationComplete : (after (.operationComplete 0 4) doneS).sch.signals =
    [{ due := 0, core := 0, flag := 3, op := 1, value := 5, srcCore := 0, srcEng := 5 }] := by decide +kernel

/-- SignalsReachFlags: without a `SET`, and with two, where the one of the sequencer of core 0 is first. -/
def sigS (l : List Signal) : State := { withCore 0 { flags := [(3, 10)] } with sch := { running.sch with signals := l } }
def sig (op v e : Nat) : Signal := { due := 0, core := 0, flag := 3, op := op, value := v, srcCore := 0, srcEng := e }
theorem wit_SignalsReachFlags : ∀ l ∈ [[sig 1 65535 1, sig 2 7 2], [sig 3 4 5, sig 3 9 0, sig 1 1 16]],
    let s := sigS l
    let gs := s.sch.signals.filter fun g => g.core == 0 && g.flag == 3 && decide (g.due ≤ s.sch.sCycle)
    gs ≠ [] ∧ (∀ g ∈ gs, g.srcEng ≤ 16) ∧ (∀ g ∈ gs, ∀ h ∈ gs, g.due = h.due) ∧
    (∀ g ∈ gs, (s.sch.signals.filter fun h => h.core == 0 && h.due == g.due && h.srcCore != 0).length ≤ 16) ∧
    ((∀ g ∈ gs, g.op ≠ 3) ∨ ∃ g ∈ gs, g.op = 3 ∧ ∀ h ∈ gs, h.op = 3 → h = g ∨ g.srcCore < h.srcCore ∨ (g.srcCore = h.srcCore ∧ g.srcEng < h.srcEng)) := by
  decide +kernel

/-- R87, R88: 10 + 65535 - 7 clamps to 65535; the first `SET` of 9 and an `ADD` of 1 give 10. -/
theorem test_flags : flagVal (after (.flagSignalEffect 0 3) (sigS [sig 1 65535 1, sig 2 7 2])) 0 3 = 65535 ∧
    flagVal (after (.flagSignalEffect 0 3) (sigS [sig 3 4 5, sig 3 9 0, sig 1 1 16])) 0 3 = 10 := by decide +kernel

/-! ### Witnesses: matrix arrays -/

def swOp : RunOp := opr 0 (dsc 0x12 0 1 0 []) [] 0

/-- TilesLoadAndSwap: an INT8 tile, an MXFP8 tile with its scales, both sentinel planes, a swap. -/
def ldop (o f b58 : Nat) : RunOp := opr 0 (dsc o 0 1 (f * 2 ^ 59 + b58 * 2 ^ 58) [(0, 0, 0, 2048), (1, 0, 2048, 128)]) [] 0
theorem wit_TilesLoadAndSwap :
    (∀ of_ ∈ [(0x11, 5, 0), (0x11, 0xA, 0), (0x14, 5, 0), (0x14, 5, 1)],
      let r := ldop of_.1 of_.2.1 of_.2.2
      let s := started 0 {} r
      let d := r.item.desc
      dReserved d = false ∧ operand s 0 d 0 = some { typ := 1, loc := .spad 0, a := 0, bytes := 8192, ext := 2048 } ∧ planeBytes 0 of_.2.1 ≤ 8192 ∧
      operand s 0 d 1 = some { typ := 1, loc := .spad 0, a := 8192, bytes := 512, ext := 128 } ∧ tileBlocks 0 of_.2.1 ≤ 512 ∧ widthClass of_.2.1 = 8 ∧
      dP d 57 0 = 0 ∧ (opOf s 0 0 of_.1 = some r ∧ sRun s = true)) ∧
    (∀ k ∈ [({} : Core), { arrays := [(0, { shadow := { readyAt := 9 } })] }],
      (opOf (started 0 k swOp) 0 0 0x12 = some swOp ∧ sRun (started 0 k swOp) = true) ∧ dReserved swOp.item.desc = false ∧ dP swOp.item.desc 63 0 = 0 ∧
        loadComing (started 0 k swOp) 0 0 swOp.startS = decide (k ≠ {})) := by decide +kernel

/-- R155: a swap before the last load signals leaves the active tile undefined; else the buffers change places. -/
theorem test_swap : ((after (.swap 0 0) (started 0 { arrays := [(0, { shadow := { fmt := 6 } })] } swOp)).core 0).arr 0 = { active := { fmt := 6 } } ∧
    (after (.swap 0 0) (started 0 { arrays := [(0, { shadow := { readyAt := 9 } })] } swOp)).free ≠ 0 := by decide +kernel

/-- StreamAccumulates: one INT8 row into accumulator row 1023, with a valid row and with none. -/
def strop (v : Nat) : RunOp := opr 0 (dsc 0x10 0 1 (1023 * 2 ^ 54 + 2 ^ 44 + 5 * 2 ^ 39 + v * 2 ^ 35) [(0, 0, 0, 64)]) [] 0
theorem wit_StreamAccumulates : ∀ v ∈ [0, 1],
    let r := strop v
    let s := started 0 {} r
    let d := r.item.desc
    (opOf s 0 0 0x10 = some r ∧ sRun s = true) ∧ dP d 63 54 + dP d 53 44 ≤ 1024 ∧ dP d 53 44 ≤ 512 ∧ widthClass (dP d 43 39) = 8 ∧ dP d 36 35 ≠ 3 ∧
    dP d 28 0 = 0 ∧ dReserved d = false ∧ streamInside s 0 r (tileK 0 5) 5 (indices 1 (rowValid s 0 r)) = true ∧ rowValid s 0 r 0 = decide (v = 0) ∧
    fget ((s.core 0).arr 0).tags .zero 1023 = .zero := by decide +kernel

/-- R136: 2 · 3 + 4 · 5 is added to 100 in INT32. -/
theorem test_accumElem : (accumElem true false false false 5 ⟨2 :: 4 :: List.replicate 30 0, []⟩ { elems := mwrite [] 0 [3#8, 5#8] } 32 0 1 100).v = 126 := by decide +kernel

/-- DrainStores: one row drained to INT32 at byte 256. -/
def drop_ : RunOp := opr 0 (dsc 0x13 0 1 (1023 * 2 ^ 54 + 2 ^ 44 + 4 * 2 ^ 39 + 2 ^ 37) [(3, 0, 64, 64)]) [] 0
theorem wit_DrainStores : let s := started 0 {} drop_
    let d := drop_.item.desc
    Performs s 0 0 0x13 drop_ ∧ (0 < dP d 53 44 ∧ dP d 63 54 + dP d 53 44 ≤ 1024 ∧ dP d 53 44 ≤ 512 ∧ drainFmt (dP d 43 39) = true ∧ dP d 36 32 = 0 ∧
      dReserved d = false) ∧ OwnSpad s 0 drop_ 3 256 (dP d 53 44 * (64 * fmtBits (dP d 43 39) / 8)) :=
  ⟨performs (by decide +kernel), by decide +kernel, ownSpad { typ := 1, loc := .spad 0, a := 256, bytes := 256, ext := 64 } (by decide +kernel)⟩

/-- SoundingEvaluates: a sample whose recomputations are made. -/
def sndS : State := withCore 0 { arrays := [(0, { capture := some {} })] }
theorem wit_SoundingEvaluates : sRun sndS = true ∧ ((sndS.core 0).arr 0).capture = some {} ∧ ({} : Capture).left = 0 ∧
    ({} : Capture).evalAt ≤ sndS.sch.sCycle := by decide +kernel

/-! ### Witnesses: the vector engine -/

/-- A vector operation of 4 elements in format `f` on groups 8 (A), 16 (B), 24 (C) and 0 (D), with function `fn` and further `PARAM` bits. -/
def vop (o f fn x : Nat) : RunOp :=
  opr 4 (dsc o 4 1 (8 * 2 ^ 54 + 16 * 2 ^ 49 + 24 * 2 ^ 44 + f * 2 ^ 37 + fn * 2 ^ 16 + x) [(0, 0, 0, 1024), (3, 0, 1024, 1024)]) [0#32, 5#32] 4

/-- Core 0 with that operation started, its group 8 holding 1, 2, 3, … in bytes. -/
def vS (r : RunOp) : State := started 0 { vreg := mwrite [] 4096 ((List.range 16).map (BitVec.ofNat 8 <| · + 1)) } r

/-- VectorIntegerResults: `VSETVL` in its last S-cycle with 65535 and with 4096; `VINT` with a register and a scalar, the move and the read of
element 0; `VCMP` masked; `VMASK`. -/
theorem wit_VectorIntegerResults :
    (∀ n ∈ [65535, 4096], let r := vop 0x20 0 0 n
      (opOf (vS r) 0 4 0x20 = some r ∧ sRun (vS r) = true) ∧ dReserved r.item.desc = false ∧ r.startS + r.lat ≤ (vS r).sch.sCycle + 1) ∧
    (∀ q ∈ [(0, 4, 0), (0xA, 5, 2 ^ 26 + 2 ^ 21), (0, 6, 2 ^ 28)], let r := vop 0x21 q.2.1 q.1 q.2.2
      let d := r.item.desc
      (opOf (vS r) 0 4 0x21 = some r ∧ sRun (vS r) = true) ∧ dReserved d = false ∧ vFunc d ≤ 0xA ∧ vEfmt d ∈ [4, 5, 6] ∧
      grpsOk d ([vA d, vD d] ++ if vBsc d then [] else [vB d]) = true) ∧
    (let r := vop 0x21 7 0xB 0
     let d := r.item.desc
     (opOf (vS r) 0 4 0x21 = some r ∧ sRun (vS r) = true) ∧ dReserved d = false ∧ vFunc d = 0xB ∧ fmtReserved (vEfmt d) = false ∧ vEfmt d ≠ 9 ∧
     grpsOk d (vD d :: if vBsc d then [] else [vA d]) = true) ∧
    (let r := vop 0x21 4 0xC (3 * 2 ^ 21)
     let d := r.item.desc
     (opOf (vS r) 0 4 0x21 = some r ∧ sRun (vS r) = true) ∧ dReserved d = false ∧ vFunc d = 0xC ∧ fmtReserved (vEfmt d) = false ∧ grpsOk d [vA d] = true ∧
     0 < vElems 0 d r.vl ∧ vActive ((vS r).core 0) d 0 = true) ∧
    (let r := vop 0x22 6 5 (2 ^ 28)
     let d := r.item.desc
     (opOf (vS r) 0 4 0x22 = some r ∧ sRun (vS r) = true) ∧ dReserved d = false ∧ vFunc d ≤ 5 ∧ cmpFmt (vEfmt d) = true ∧ dP d 63 62 = 0 ∧
     grpsOk d (vA d :: if vBsc d then [] else [vB d]) = true) ∧
    (let r := opr 4 (dsc 0x23 4 1 (2 ^ 59 + 2 * 2 ^ 54 + 7 * 2 ^ 16) []) [] 4096
     let d := r.item.desc
     (opOf (vS r) 0 4 0x23 = some r ∧ sRun (vS r) = true) ∧ dReserved d = false ∧ vFunc d ≤ 7 ∧ dP d 63 62 = 0 ∧ dP d 58 57 = 0 ∧ dP d 53 52 = 0 ∧
     r.vl ≤ 4096) := by decide +kernel

/-- R188: 65535 clamps to 32 · 128 and is counted. -/
theorem test_vsetvl : ((after (.vsetvl 0) (vS (vop 0x20 0 0 65535))).core 0).vl = 4096 ∧ ((after (.vsetvl 0) (vS (vop 0x20 0 0 65535))).core 0).vlClamps = 1 := by
  decide +kernel

/-- R199: bytes 1 to 4 plus the scalar 5. -/
theorem test_vint : (List.range 4).map (vElem ((after (.vint 0) (vS (vop 0x21 5 0 (2 ^ 26 + 2 ^ 21)))).core 0) 0 0 5) = [6, 7, 8, 9] := by decide +kernel

/-- VectorFloatResults: every unit in FP32 and BF16, `VFLT` in FP8 too. -/
theorem wit_VectorFloatResults :
    (∀ q ∈ [(0, 0), (3, 1), (9, 3)], let r := vop 0x27 q.2 q.1 0
      let d := r.item.desc
      (opOf (vS r) 0 4 0x27 = some r ∧ sRun (vS r) = true) ∧ dReserved d = false ∧ (fmtFloat (vEfmt d)).isSome = true ∧ vFunc d ≤ 9 ∧ vEfmt d ≤ 3 ∧
      grpsOk d ([vA d, vD d] ++ (if vFunc d ≤ 7 ∧ !vBsc d then [vB d] else []) ++ if 3 ≤ vFunc d ∧ vFunc d ≤ 5 then [vC d] else []) = true) ∧
    (∀ q ∈ [(0x2A, 0, 0), (0x2A, 1, 1), (0x2B, 0, 1), (0x2B, 1, 0), (0x2C, 0, 0), (0x2C, 1, 1)], let r := vop q.1 q.2.2 q.2.1 0
      let d := r.item.desc
      (opOf (vS r) 0 4 q.1 = some r ∧ sRun (vS r) = true) ∧ dReserved d = false ∧ (fmtFloat (vEfmt d)).isSome = true ∧ vFunc d ≤ 1 ∧ vEfmt d ≤ 1 ∧
      grpsOk d [vA d, vD d] = true ∧ grpsOk d [vB d] = true) := by decide +kernel

/-- R200: 1.5 + 2.25 = 3.75 in FP32. -/
theorem test_fpAdd : (fpAdd fFP32 false 0x3FC00000 0x40100000).v = 0x40700000 := by decide +kernel

/-- R202: 2 to the 3 is 8, 1 / 4 is 0.25, the root of 9 is 3. -/
theorem test_fp_special : (fpExp2 fFP32 false 0x40400000).v = 0x41000000 ∧ (fpDiv fFP32 false 0x3F800000 0x40800000).v = 0x3E800000 ∧
    (fpSqrt fFP32 false 0x41100000).v = 0x40400000 := by decide +kernel

/-- VectorMoveResults: a permute within a register and one by a register, a conversion, a load masked and not, an accumulator view and a reduction. -/
theorem wit_VectorMoveResults :
    (∀ q ∈ [(0, 2 ^ 21), (1, 0), (4, 0)], let r := vop 0x28 5 q.1 q.2
      let d := r.item.desc
      (opOf (vS r) 0 4 0x28 = some r ∧ sRun (vS r) = true) ∧ dReserved d = false ∧ vFunc d ≤ 4 ∧ cmpFmt (vEfmt d) = true ∧
      grpsOk d ([vA d, vD d] ++ if vFunc d = 1 ∧ !vBsc d then [vB d] else []) = true) ∧
    (let r := vop 0x24 5 0 (0 * 2 ^ 32)
     let d := r.item.desc
     (opOf (vS r) 0 4 0x24 = some r ∧ sRun (vS r) = true) ∧ dReserved d = false ∧ fmtReserved (vEfmt d) = false ∧ fmtReserved (vXfmt d) = false ∧
     fmtBlock (vEfmt d) = false ∧ fmtBlock (vXfmt d) = false ∧ vXfmt d ≠ 9 ∧ vFunc d = 0 ∧ grpOk (vA d) (vGrp d) = true ∧
     grpOk (vD d) (vGrpOf d (width10 (vXfmt d))) = true) ∧
    (∀ x ∈ [0, 2 ^ 28], let r := vop 0x25 5 0 x
     let d := r.item.desc
     (opOf (vS r) 0 4 0x25 = some r ∧ sRun (vS r) = true) ∧ dReserved d = false ∧ fmtReserved (vEfmt d) = false ∧ vEfmt d ≠ 9 ∧ grpsOk d [vD d] = true ∧
     vInside 0 d (operand (vS r) 0 d 0) (fmtBytes (vEfmt d) (vElems 0 d r.vl)) = true) ∧
    (let r := vop 0x29 4 0 (1023 * 2 ^ 4)
     let d := r.item.desc
     (opOf (vS r) 0 4 0x29 = some r ∧ sRun (vS r) = true) ∧ dReserved d = false ∧ (vEfmt d = 4 ∧ bit (vImm d) 3 = false) ∧ bits (vImm d) 1 0 = 0 ∧
     bits (vImm d) 15 14 < arraysOf 0 ∧ grpsOk d [vD d] = true ∧ ∀ i, i < vElems 0 d r.vl → (vaccElem (((vS r).core 0).arr 0) 4 false false
       (bits (vImm d) 13 4 + i / 64) (i % 64)).isSome = true) ∧
    (let r := vop 0x2D 5 0 (2 ^ 20 + 2 * 2 ^ 21)
     let d := r.item.desc
     (opOf (vS r) 0 4 0x2D = some r ∧ sRun (vS r) = true) ∧ dReserved d = false ∧ vFunc d ≤ 2 ∧ cmpFmt (vEfmt d) = true ∧ grpsOk d [vA d] = true ∧
     grpOk (vD d) (if vFunc d = 0 then vGrpOf d 320 else vGrp d) = true ∧ 0 < vElems 0 d r.vl ∧ dPb d 20 = true) := by decide +kernel

/-- R204: the permute that reverses a register moves its first byte to its last place. -/
theorem test_vperm : permIdx 4 0 512 511 0 = some 0 ∧ permIdx 2 1 512 511 0 = none := by decide +kernel

/-- VectorStoreResults and VectorFrame: a store of 4 bytes at byte 4096, whole and masked. -/
theorem wit_VectorStoreResults : ∀ x ∈ [0, 2 ^ 28, 2 ^ 28 + 2 ^ 27], let r := vop 0x26 5 0 x
    let d := r.item.desc
    let y : Opnd := { typ := 1, loc := .spad 0, a := 4096, bytes := 4096, ext := 1024 }
    (opOf (vS r) 0 4 0x26 = some r ∧ sRun (vS r) = true) ∧ dReserved d = false ∧ fmtReserved (vEfmt d) = false ∧ 8 ≤ fmtBits (vEfmt d) ∧ grpsOk d [vA d] = true ∧
    operand (vS r) 0 d 3 = some y ∧ vInside 0 d (some y) (fmtBytes (vEfmt d) (vElems 0 d r.vl)) = true ∧ corePresent (vS r) 0 = true ∧
    ((vS r).core 0).segMask = 0xFF#8 := by decide +kernel

theorem wit_VectorStoreResults_dest : OwnSpad (vS (vop 0x26 5 0 0)) 0 (vop 0x26 5 0 0) 3 4096 4096 := by
  refine ⟨{ typ := 1, loc := .spad 0, a := 4096, bytes := 4096, ext := 1024 }, by decide +kernel, rfl, rfl, Nat.le_refl _, by decide +kernel, fun j hj => ?_⟩
  have h : segOf (spadBytes 0) (4096 + j) = 0 := by
    show (4096 + j) * 8 / 4194304 = 0
    omega
  rw [h]
  decide +kernel

theorem wit_VectorFrame : ∃ t, exec (.vst 0) (vS (vop 0x26 5 0 0)) = .next t := ⟨_, rfl⟩

/-- R208: the four bytes are stored. -/
theorem test_vst : mread ((after (.vst 0) (vS (vop 0x26 5 0 0))).core 0).spad 4095 6 = [0#8, 1#8, 2#8, 3#8, 4#8, 0#8] := by decide +kernel

/-! ### Witnesses: fixed-function engines -/

/-- An operation of a fixed-function engine: sources at words 0, 1024 and 2048 and the destination at word 3072, each of 1,024 words. -/
def fop (o e p : Nat) : RunOp := opr e (dsc o e 1 p [(0, 0, 0, 1024), (1, 0, 1024, 1024), (2, 0, 2048, 1024), (3, 0, 3072, 1024)]) [0#32, 2#32] 0

/-- The operation started on a core whose first three words are 1.0, 1.0 and 2.0. -/
def fS (r : RunOp) : State := started 0 { spad := mwrite [] 0 (leBytes 4 0x3F800000 ++ leBytes 4 0x3F800000 ++ leBytes 4 0x40000000) } r

/-- The destination of these operations. -/
def fDst : Opnd := { typ := 1, loc := .spad 0, a := 12288, bytes := 4096, ext := 1024 }

theorem fDst_own (o e p n : Nat) (h : operand (fS (fop o e p)) 0 (fop o e p).item.desc 3 = some fDst) (hn : n ≤ 4096) :
    OwnSpad (fS (fop o e p)) 0 (fop o e p) 3 12288 n := by
  refine ⟨fDst, h, rfl, rfl, hn, rfl, fun j hj => ?_⟩
  have h : segOf (spadBytes 0) (12288 + j) = 0 := by
    show (12288 + j) * 8 / 4194304 = 0
    omega
  have e : segTakes (fS (fop o e p)) 0 = 0xFF#8 := by
    simp [segTakes, fS, started, withCore, running, inState, State.core, State.reset, fget]
  rw [h, e]
  decide

/-- RowEngineResults: a row of 2 in FP32 to BF16 and FP32, with the three length modes; a row of `ROTARY` with one pair. -/
theorem wit_RowEngineResults :
    (∀ lm ∈ [0, 1, 2], let r := fop 0x30 5 (2 * 2 ^ 48 + 2 ^ 22 + 2 ^ 12 + lm * 2 ^ 10 + 2 ^ 5)
      let d := r.item.desc
      (opOf (fS r) 0 5 0x30 = some r ∧ sRun (fS r) = true) ∧ dReserved d = false ∧ dP d 21 17 ≤ 1 ∧ dP d 31 22 ≤ 512 ∧ dP d 16 12 ≤ 2 ∧ dP d 11 10 ≠ 3 ∧
      rowInside (operand (fS r) 0 d 0) 0 (dP d 47 32) 0 2 = true ∧ operand (fS r) 0 d 3 = some fDst) ∧
    (∀ o ∈ [0x40, 0x41], let r := fop o 6 (2 * 2 ^ 48 + 2 ^ 22)
      let d := r.item.desc
      (opOf (fS r) 0 6 o = some r ∧ sRun (fS r) = true) ∧ dReserved d = false ∧ dP d 16 12 ≤ 3 ∧ dP d 4 0 ≤ 1 ∧ dP d 6 5 = 0 ∧ dP d 31 22 ≤ 512 ∧
      rowInside (operand (fS r) 0 d 0) 0 (dP d 47 32) 0 2 = true ∧ rowInside (operand (fS r) 0 d 1) 0 0 0 2 = true ∧
      rowInside (operand (fS r) 0 d 2) 0 0 0 2 = true ∧ operand (fS r) 0 d 3 = some fDst) ∧
    (∀ pv ∈ [0, 1], let r := fop 0x50 7 (2 * 2 ^ 48 + 2 ^ 22 + 2 ^ 7 + pv * 2 ^ 5)
      let d := r.item.desc
      (opOf (fS r) 0 7 0x50 = some r ∧ sRun (fS r) = true) ∧ dReserved d = false ∧ 2 * dP d 16 7 ≤ dP d 63 48 ∧ dP d 31 22 ≤ 512 ∧
      rowInside (operand (fS r) 0 d 0) 0 (dP d 47 32) 0 2 = true ∧ fits (operand (fS r) 0 d 1) (4 * dP d 16 7) = true ∧
      fits (operand (fS r) 0 d 2) (4 * dP d 31 22) = true ∧ operand (fS r) 0 d 3 = some fDst) := by decide +kernel

/-- R229: position 0 leaves a pair as it is. -/
theorem test_rotary : (rpRow 0 false true 1 0 [0x3F800000] [0x3F800000, 0x40000000]).map (·.v) = [0x3F800000, 0x40000000] := by
  decide +kernel

/-- R220: the row 1, 1 sums to 2. -/
theorem test_rowSum : (rowSum 2 false [⟨0x3F800000, flNone⟩, ⟨0x3F800000, flNone⟩]).v = 0x40000000 := by decide +kernel

/-- ConversionEngineResults: INT2 and MXFP4 unpacked, FP32 split, a gather without an adapter. -/
theorem wit_ConversionEngineResults :
    (∀ q ∈ [(8, 5), (0xE, 1)], let r := opr 8 (dsc 0x60 8 1 (q.1 * 2 ^ 59 + q.2 * 2 ^ 54) [(0, 0, 0, 1), (1, 0, 1024, 1), (3, 0, 3072, 1024)]) [] 0
      let d := r.item.desc
      (opOf (fS r) 0 8 0x60 = some r ∧ sRun (fS r) = true) ∧ dReserved d = false ∧
      operand (fS r) 0 d 0 = some { typ := 1, loc := .spad 0, a := 0, bytes := 4, ext := 1 } ∧ unpackPair q.1 q.2 = true ∧ dP d 44 0 = 0 ∧
      fits (operand (fS r) 0 d 1) (cdiv (elemsIn q.1 4) 32) = true ∧ operand (fS r) 0 d 3 = some fDst) ∧
    (let r := opr 8 (dsc 0x61 8 1 (0x12 * 2 ^ 54 + 2 ^ 50) [(0, 0, 0, 32), (3, 0, 3072, 1024)]) [] 0
     let d := r.item.desc
     (opOf (fS r) 0 8 0x61 = some r ∧ sRun (fS r) = true) ∧ dReserved d = false ∧ dP d 63 59 ≤ 1 ∧ pieceOk (dPb d 50) (dP d 52 51) (dP d 58 54) = true ∧
     dP d 44 0 = 0 ∧ operand (fS r) 0 d 3 = some fDst) ∧
    (let r := opr 9 (dsc 0x70 9 1 (2 ^ 44) [(0, 1, 0, 4096), (3, 0, 3072, 1024)]) [] 0
     let d := r.item.desc
     (opOf (fS r) 0 9 0x70 = some r ∧ sRun (fS r) = true) ∧ dReserved d = false ∧ dP d 43 0 = 0 ∧
     operand (fS r) 0 d 0 = some { typ := 4, loc := .beds, a := 0, bytes := 4096, ext := 4096 } ∧ operand (fS r) 0 d 3 = some fDst ∧
     gatherSlot (fS r) (dSlot d) = none) := by decide +kernel

/-- R113, R231: INT2 codes 1, 2, 3 of a byte as INT8: 1, -2, -1. -/
theorem test_unpack : (List.range 4).map (fun i => (cvtElem 8 5 false false (elemCode (byteAt [0b00111001#8]) 8 i)).v) = [1, 0xFE, 0xFF, 0] := by
  decide +kernel

/-- SampleStoresRecord and VerifyAcceptsPrefix, on a DE core. -/
def smpOp : RunOp := opr 10 (dsc 0x80 10 1 (3 * 2 ^ 46 + 2 ^ 30) [(0, 0, 0, 1024), (3, 0, 3072, 1024)]) [] 0
theorem wit_SampleStoresRecord : let s := started 4 {} smpOp
    let d := smpOp.item.desc
    (opOf s 4 10 0x80 = some smpOp ∧ sRun s = true) ∧ dReserved d = false ∧ dP d 45 41 ≤ 1 ∧ dP d 40 30 ≤ 1024 ∧ dP d 2 0 = 0 ∧ 0 < dP d 63 46 ∧
    rowInside (operand s 4 d 0) 0 0 0 (dP d 63 46) = true ∧ operand s 4 d 3 = some { typ := 1, loc := .spad 4, a := 12288, bytes := 4096, ext := 1024 } := by
  decide +kernel

/-- R242: greedy takes the first of the largest. -/
theorem test_sample_greedy : fieldAt (sampleDraw false true 0 0 0 [0x3F800000, 0x40000000, 0x40000000]).1 0 4 = 1 := by decide +kernel

/-- A verify of k drafts, its drafts at word 0 and its targets at word 1024, with and without `COMMIT`. -/
def verOp (k cm : Nat) : RunOp :=
  opr 11 (dsc 0x90 11 1 (k * 2 ^ 61 + cm * 2 ^ 60) [(0, 0, 0, 1024), (1, 0, 1024, 1024), (3, 0, 3072, 1024)] + 5 * 2 ^ 29) [] 0
def verS (k cm : Nat) : State := { started 4 { spad := mwrite (mwrite [] 0 (leBytes 4 7 ++ leBytes 4 8)) 4096 (leBytes 4 7 ++ leBytes 4 9) } (verOp k cm) with
  dev := { (inState .running).dev with img := some { commit := true } } }
theorem wit_VerifyAcceptsPrefix : ∀ q ∈ [(0, 0), (7, 1)], let r := verOp q.1 q.2
    let s := verS q.1 q.2
    let d := r.item.desc
    (opOf s 4 11 0x90 = some r ∧ sRun s = true) ∧ dReserved d = false ∧ dP d 59 0 = 0 ∧ fits (operand s 4 d 0) (4 * q.1) = true ∧
    fits (operand s 4 d 1) (4 * q.1 + 4) = true ∧ operand s 4 d 3 = some { typ := 1, loc := .spad 4, a := 12288, bytes := 4096, ext := 1024 } ∧
    (q.2 = 1 → dPb d 60 = true ∧ commitRole s = true ∧ dSlot d < 128 ∧
      (s.srv.commits.any fun x => x.slot == dSlot d) = false) := by decide +kernel

/-- R247: drafts 7, 8 against targets 7, 9, 0 accept two. -/
theorem test_verify : mnat ((after (.verify 4) (verS 2 1)).core 4).spad 12288 16 = 2 + 7 * 2 ^ 32 + 9 * 2 ^ 64 + 0xFFFFFFFF * 2 ^ 96 := by decide +kernel

/-! ### Witnesses: transfers and queues -/

/-- TransferResults: two rows of 8 bytes at strides 1 and 2, and a fill of 3 words. -/
def cpOp : RunOp := opr 12 (dsc 0xA0 12 1 (2 * 2 ^ 40 + 8 * 2 ^ 20 + 2 ^ 10 + 2) [(0, 0, 0, 64), (3, 0, 64, 64)]) [] 0
def flOp : RunOp := opr 12 (dsc 0xA1 12 1 (2 ^ 49) [(3, 0, 64, 3)]) [0#32, 0x04030201#32] 0
def cpDst : Opnd := { typ := 1, loc := .spad 0, a := 256, bytes := 256, ext := 64 }
def flDst : Opnd := { typ := 1, loc := .spad 0, a := 256, bytes := 12, ext := 3 }
def cpS : State := started 0 { spad := mwrite [] 64 [1#8, 2#8] } cpOp
theorem wit_TransferResults :
    (let d := cpOp.item.desc
     let x := operandAny cpS 0 d 0
     let y := operandAny cpS 0 d 3
     (opOf cpS 0 12 0xA0 = some cpOp ∧ sRun cpS = true) ∧ dReserved d = false ∧ copyPair x y = true ∧ dP d 39 20 % 4 = 0 ∧
     copyInside x (dP d 48 40) (dP d 39 20) (dP d 19 10) = true ∧ copyInside y (dP d 48 40) (dP d 39 20) (dP d 9 0) = true ∧
     copyOverlap x y (dP d 48 40) (dP d 39 20) (dP d 19 10) (dP d 9 0) = false) ∧
    operandAny cpS 0 cpOp.item.desc 3 = cpDst ∧ DestOn cpS cpDst 256 ∧
    (let d := flOp.item.desc
     (opOf (started 0 {} flOp) 0 12 0xA1 = some flOp ∧ sRun (started 0 {} flOp) = true) ∧ dReserved d = false ∧ dPb d 55 = false ∧ dP d 48 0 = 0 ∧
     (operandAny (started 0 {} flOp) 0 d 3).ext ≠ 0) ∧
    operandAny (started 0 {} flOp) 0 flOp.item.desc 3 = flDst ∧ DestOn (started 0 {} flOp) flDst 12 :=
  ⟨by decide +kernel, by decide +kernel, destOn (c := 0) rfl (by decide +kernel), by decide +kernel, by decide +kernel,
   destOn (c := 0) rfl (by decide +kernel)⟩

/-- R235, R237: the second row goes 128 bytes behind the first; a fill repeats its word. -/
theorem test_copy : mread ((after (.copy 0 0) cpS).core 0).spad 384 2 = [1#8, 2#8] := by decide +kernel
theorem test_fill : mread ((after (.fill 0 0) (started 0 {} flOp)).core 0).spad 263 3 = [4#8, 1#8, 2#8] := by decide +kernel

/-- QueueOperationResults: a read of queue 0 whose entry is there, and absent; a write to output queue 0 with room, and without. -/
def trdOp : RunOp := opr 12 (dsc 0xC0 12 1 0 [(0, 2, 0, 1), (3, 0, 64, 16)]) [] 0
def twrOp : RunOp := opr 12 (dsc 0xC1 12 1 0 [(0, 0, 0, 16), (3, 3, 0, 1)]) [] 0
def ent : List Byte := List.replicate 64 7#8
def trdS (l : List (List Byte)) : State := { started 0 {} trdOp with trib := { State.reset.trib with inQ := if l = [] then [] else [(0, l)], inAt := [] } }
def twrS (n : Nat) : State := { started 0 {} twrOp with trib := { State.reset.trib with outRoom := n } }
theorem wit_QueueOperationResults :
    (∀ l ∈ [[ent], []], let s := trdS l
      let d := trdOp.item.desc
      let x : Opnd := { typ := 1, loc := .spad 0, a := 256, bytes := 64, ext := 16 }
      s.sch.sCycle = trdOp.startS + trdOp.prog ∧ dReserved d = false ∧ dP d 63 0 = 0 ∧ s.inp.replaying = false ∧ (opOf s 0 12 0xC0 = some trdOp ∧ sRun s = true) ∧
      operandAny s 0 d 3 = x ∧ (operandAny s 0 d 0).loc = .inQ 0 ∧ (dOperand d 0).2.1 = 0 ∧ trdOp.prog < (operandAny s 0 d 0).ext ∧
      64 * (operandAny s 0 d 0).ext ≤ x.bytes ∧
      (l = [ent] → (fget s.trib.inQ [] 0)[fget s.trib.used 0 0]? = some ent ∧ ent.length = 64 ∧
        (fget s.trib.inAt [] 0).getD (fget s.trib.used 0 0) 0 ≤ s.sch.wCycle) ∧
      (l = [] → (fget s.trib.inQ [] 0).length ≤ fget s.trib.used 0 0)) ∧
    DestOn (trdS []) { typ := 1, loc := .spad 0, a := 256, bytes := 64, ext := 16 } 64 ∧
    (∀ n ∈ [0, 1], let s := twrS n
      let d := twrOp.item.desc
      let x : Opnd := { typ := 1, loc := .spad 0, a := 0, bytes := 64, ext := 16 }
      s.sch.sCycle = twrOp.startS + twrOp.prog ∧ dReserved d = false ∧ dP d 63 0 = 0 ∧ s.inp.replaying = false ∧ (opOf s 0 12 0xC1 = some twrOp ∧ sRun s = true) ∧
      operandAny s 0 d 0 = x ∧ (operandAny s 0 d 3).loc = .outQ 0 ∧ (dOperand d 3).2.1 = 0 ∧ twrOp.prog < (operandAny s 0 d 3).ext ∧
      64 * (operandAny s 0 d 3).ext ≤ x.bytes ∧ s.trib.outRoom = n ∧ s.trib.roomAt ≤ s.sch.wCycle) :=
  ⟨by decide +kernel, destOn (c := 0) rfl (by decide +kernel), by decide +kernel⟩

/-- R239, R45: the entry is stored and used; without one the S-cycle is held by cause 3. -/
theorem test_trd : mget ((after (.trd 0 0) (trdS [ent])).core 0).spad 319 = 7#8 ∧ hasCause (after (.trd 0 0) (trdS [])) 3 = true := by decide +kernel

/-- R274: an entry written is withheld until the Weir. -/
theorem test_twr : (after (.twr 0 0) (twrS 1)).trib.outQ = [] ∧ (after (.twr 0 0) (twrS 1)).trib.outStep = [(0, List.replicate 64 0#8)] := by decide +kernel

/-- TributaryQueuesMove: the chip serves messages; an entry waits to leave. -/
theorem wit_TributaryQueuesMove : msgServed (inState .ready) = true ∧ (0 < 1 ∧ 1 ≤ [(0, ent)].length) := by decide +kernel
theorem test_tribInputArrive : fget (after (.tribInputArrive 3 ent) running).trib.inQ [] 3 = [ent] := by decide +kernel

/-! ### Witnesses: fabric sends and receives, Eddy, the Weir, staged changes -/

/-- SendAndReceiveResults: a packet on path 5, which stays on the chip, with room in its buffer and without; a receive of 2 packets on queue 1 that has
them, and that waits. -/
def sdOp : RunOp := opr 12 (dsc 0xB0 12 1 (5 * 2 ^ 52) [(0, 0, 0, 16)]) [] 0
def sdS (n : Nat) : State := { started 0 {} sdOp with fab := { State.reset.fab with
  pathA := mwrite [] 80 (leBytes 16 (2 ^ 29)), inj := if n = 0 then [] else [(128, List.replicate n {})] } }
def rcOp (p : Nat) : RunOp := { opr 12 (dsc 0xB1 12 1 (2 ^ 54 + 2 * 2 ^ 40) [(3, 4, 64, 32)]) [] 0 with prog := p }
def rcS (p n : Nat) : State := { started 0 {} (rcOp p) with
  sch := { running.sch with sCycle := 1 }
  fab := { State.reset.fab with queues := mwrite [] 8 (leBytes 8 (64 * 2 ^ 36 + 2 * 2 ^ 24)), halves := [(2, n)] } }
theorem wit_SendAndReceiveResults :
    (∀ n ∈ [11, 12], let s := sdS n
      let d := sdOp.item.desc
      let en := pathAt (pathBank s) (dP d 63 52)
      (opOf s 0 12 0xB0 = some sdOp ∧ sRun s = true) ∧ dReserved d = false ∧ dP d 24 0 = 0 ∧
      operand s 0 d 0 = some { typ := 1, loc := .spad 0, a := 0, bytes := 64, ext := 16 } ∧ pathValid en = true ∧ dP d 39 29 + cdiv 64 64 ≤ 2048 ∧
      s.sch.sCycle = sdOp.startS + sdOp.prog ∧ sdOp.prog < cdiv 64 64 ∧ s.sch.discard = 0 ∧ s.inp.replaying = false ∧
      (inject s false (sendPacket d en (hselHalf s (dP d 41 40)) (opRead s { typ := 1, loc := .spad 0, a := 0, bytes := 64, ext := 16 } 0 64) 0)).1.isSome =
        decide (n = 11) ∧ fget s.fab.injAt 0 128 ≤ s.sch.wCycle) ∧
    (∀ n ∈ [2, 1], let s := rcS 0 n
      let d := (rcOp 0).item.desc
      (opOf s 0 12 0xB1 = some (rcOp 0) ∧ sRun s = true) ∧ dReserved d = false ∧ recvBad s 0 (rcOp 0) = false ∧ (rcOp 0).startS < s.sch.sCycle ∧
      s.inp.replaying = false ∧ 0 < dP d 51 40 ∧ (n = 2 → dP d 51 40 ≤ halfCount s (recvHalf s (rcOp 0)) ∧
        fget s.fab.halfAt 0 (recvHalf s (rcOp 0)) ≤ s.sch.wCycle) ∧ (n = 1 → halfCount s (recvHalf s (rcOp 0)) < dP d 51 40)) ∧
    (opOf (rcS 1 2) 0 12 0xB1 = some (rcOp 1) ∧ (rcS 1 2).sch.job = true ∧ dP (rcOp 1).item.desc 51 40 ≤ halfCount (rcS 1 2) (recvHalf (rcS 1 2) (rcOp 1))) := by
  decide +kernel

/-- R37, R326: a receive that has its packets takes them; one that has not is held by cause 1. -/
theorem test_recv : (after (.recv 0 0) (rcS 0 2)).fab.takes.length = 1 ∧ hasCause (after (.recv 0 0) (rcS 0 1)) 1 = true := by decide +kernel

/-- EddyAndControlEvents. -/
def eddyS (l : List Cause) : State := { running with sch := { running.sch with causes := l } }
def eddyLong (l : List Cause) : State := { eddyS l with sch := { (eddyS l).sch with eddyNs := 100000001 } }
def oxS : State := withCore 191 { ring := true, oxbow := 4096 }
def injS : State := { running with fab := { State.reset.fab with inj := [(0, [{}])], links := [(0, { state := .up8 })] } }
/-- A control message that arrives late; its source has just sent one (R300). -/
def ctlS : CtlMsg := { src := 1, dst := 2, vc := 0, op := 0, flits := [0], wcycles := 201 }
def ctlBusy : State := { running with sch := { running.sch with wCycle := 5, ctlAt := [(1, 6)] } }
/-- A load of row 65 of a PF scratchpad beside an `SLD` of row 0: both rows lie in bank 0. -/
def cfR : RunOp := { opr 4 (dsc 0x25 4 0 0 [(0, 0, 520, 128)]) [] 1 with occ := 1, lat := 6, done := true }
def cfS : State := started 0 { weirDone := true, sldRead := (1, 0) } cfR

theorem wit_bankConflict : sRun (sWork cfS) = true ∧ cfS.sch.arbS ≠ cfS.sch.sCycle + 1 ∧
    conflicts (sWork cfS) (wideAccess (sWork cfS) (sWork cfS).sch.sCycle) = [(0, 2)] ∧ (∀ x ∈ (sWork cfS).sch.causes, 4 < x.no) ∧ cfS.sch.replay = none ∧
    cfS.beds.waiting = [] ∧ cfS.pwr.newFreq = none ∧ cfS.sch.weirPhase = 0 ∧
    cfS.fab.narrow = [] := by decide +kernel

theorem wit_EddyAndControlEvents :
    (running.sch.job = true ∧ stagesNow running = true ∧ 2 ≤ 2 ∧ ∀ x ∈ running.sch.causes, x.no = 5 → x.src ≠ 0) ∧
    (stagesNow (eddyS [{ no := 1 }]) = true ∧ ∃ x ∈ (eddyS [{ no := 1 }]).sch.causes, x.no ∉ [6, 7, 8, 12]) ∧
    (sRun oxS = true ∧ 191 < 192 ∧ (oxS.core 191).ring = true ∧ oxS.sch.oxLimit ≤ (oxS.core 191).oxbow) ∧
    (Idle injS 0 (some 0) ∧ linkUp (injS.link 0) = true ∧ (injS.link 0).peerXoff.getLsbD 0 = false ∧ (injS.link 0).replayBuf.length + cdiv (5 * 1) 16 ≤ 1024 ∧
      fget injS.fab.inj [] 0 = [{}] ∧ hVcNo {} = 0) ∧
    (ctlS.vc = 0 ∧ ctlTaken running ctlS 201 = true ∧ 200 < max ctlS.wcycles (ctlLeast ctlS.src.val ctlS.dst.val) ∧ ctlTaken ctlBusy ctlS 201 = false ∧
      { ctlS with vc := 3 }.vc ≠ 0) := by unfold Idle; decide +kernel

/-- R257: two accesses of one bank cost one W-cycle and no S-cycle. -/
theorem test_conflictHold : let t := runTick 1 cfS
    (t.sch.sCycle, t.sch.wCycle, t.sch.causes.length, (runTick 1 t).sch.sCycle) = (0, 1, 0, 1) := by decide +kernel

/-- R253 and R295: the worked examples of chapters 8 and 9 (bank 14 at row 0x205; ports 6, 12, 20 and 44; the transfer of 8 units is not carried). -/
theorem test_bankAndRoute : (rowBank 6 0x8143, 0x8143 / 64) = (14, 0x205) ∧ meshPorts 1 11 = [6, 12, 20, 44] ∧
    (portLost 8 [⟨12, 4, 18, 12, 1000⟩, ⟨12, 8, 28, 12, 1002⟩]).map (fun p => p.core) = [28] := by decide +kernel

/-- R48, R100, R257. -/
theorem test_eddyLimit : (after .eddyLimit (eddyLong [{ no := 1 }])).dev.haltId = 0x0202 := by decide +kernel
theorem test_oxbowLimit : (after .oxbowLimit oxS).dev.haltId = 0x0308 := by decide +kernel
theorem test_bankConflict : ((after (.bankConflictServed 7 4) running).sch.causes.map fun c => (c.no, c.src, c.untilW)) = [(5, 7, some 3)] := by
  decide +kernel

/-- WeirBeginsAndEnds: due, late, too early and not quiet; an end with an entry read, packets received, and with a halt asked for. -/
def weirAtS (t : Nat) : State := { running with sch := { running.sch with sCycle := t } }
def weirEndS (h : Option Nat) : State := { running with
  sch := { running.sch with weirAt := some 52, sCycle := 63, haltReq := h }
  trib := { State.reset.trib with inQ := [(3, [ent, ent])], used := [(3, 1)], outStep := [(2, ent)] }
  fab := { State.reset.fab with halves := [(8, 5)], takes := [(8, 2, 0)] } }
theorem wit_WeirBeginsAndEnds :
    (∀ t ∈ [52, 53], sRun (weirAtS t) = true ∧ (weirAtS t).sch.weirAt = none ∧ (weirAtS t).sch.base + (stepEntry (weirAtS t) 0).len - 12 ≤ t ∧
      quiet (weirAtS t) = true) ∧
    ((weirAtS 51).sch.sCycle < (weirAtS 51).sch.base + (stepEntry (weirAtS 51) 0).len - 12 ∧ quiet syncS = false) ∧
    (∀ h ∈ [none, some 0x0301], sRun (weirEndS h) = true ∧ (weirEndS h).sch.weirAt = some 52 ∧ 52 + 11 ≤ (weirEndS h).sch.sCycle ∧
      (weirEndS h).trib.used = [(3, 1)] ∧ (weirEndS h).fab.takes = [(8, 2, 0)] ∧ (weirEndS h).inp.replaying = false) := by decide +kernel

/-- R29, R94, R274: the step's number goes up, its output is sent, and the halt asked for freezes the job. -/
theorem test_weirEnd : let t := after .weirEnd (weirEndS (some 0x0301))
    (t.sch.stepNo, t.trib.outQ.length, t.dev.haltId) = (1, 1, 0x0301) := by decide +kernel

/-- StagedChangesSettle: each kind of change, in a job and outside one. -/
def stgS (d : DevState) (k : StageKind) (ph : Nat) : State := { inState d with
  sch := { State.reset.sch with weirPhase := ph, stepNo := 1 }, mgm := { State.reset.mgm with staged := [{ kind := k }] }
  fab := { State.reset.fab with pathIn := .valid } }
def stgW : State := { stgS .running (.segment (.core 0) 0xFE#8) 0 with fab := { State.reset.fab with narrow := [{}] } }
theorem wit_StagedChangesSettle : (stgW.mgm.staged[0]? = some { kind := .segment (.core 0) 0xFE#8 } ∧ segWaits stgW (.segment (.core 0) 0xFE#8) = true) ∧ ∀ k ∈ [StageKind.numctl 3 1#32, .segment (.pool 2) 0x7F#8, .pathSwitch, .bankSwitch 4],
    (∀ d ∈ [DevState.ready, .running, .halted], ∀ ph ∈ [0, 7], segWaits (stgS d k ph) k = false) ∧ (stgS .running k 0).mgm.staged[0]? = some { kind := k } ∧ ({ kind := k } : Staged).sent = true ∧ stagesNow (stgS .running k 0) = true ∧
    (stgS .running k 0).sch.weirPhase ≠ 7 ∧ stagesNow (stgS .running k 7) = true ∧ (stgS .running k 7).sch.weirPhase = 7 ∧
    stagesNow (stgS .ready k 0) = false ∧ (stgS .ready k 0).dev.state ≠ .halted ∧ (stgS .halted k 0).dev.state = .halted ∧ (stgS .halted k 0).sch.weirPhase ≠ 7 ∧ (stgS .ready k 0).fab.pathIn = .valid ∧ ({ kind := k } : Staged).acked = false := by decide +kernel

/-- R436: a `NUMCTL` change acknowledged outside a job is in effect. -/
theorem test_stageAck : ((after (.stageAck 0) (stgS .ready (.numctl 3 1#32) 0)).core 3).numctl = 1#32 := by decide +kernel

/-- SegmentsPowered: a mask at once, staged, and refused for a segment in use. -/
def segUpS : State := { stgS .ready (.segment (.pool 2) 0xFF#8) 0 with pools := [(2, { segMask := 0x7F#8 })] }
def segS (d : DevState) : State := { started 0 {} {} with dev := { State.reset.dev with state := d } }
theorem wit_SegmentsPowered :
    Takes (inState .ready) .segment (segObj (.pool 3)) ∧ stagesNow (inState .ready) = false ∧
    (∀ i, i < 8 → segUsed (inState .ready) (.pool 3) i = false) ∧
    Takes running .segment (segObj (.pool 3)) ∧ stagesNow running = true ∧ running.inp.replaying = false ∧ stageRoom running (.segment (.pool 3) 0x0F#8) = true ∧
    (∀ d ∈ [DevState.ready, .running], (served (segS d) .segment && ownerOk (segS d) .segment && stateServes (segS d) (segObj (.core 0))) = true ∧
      segInFlight (segS d) (.core 0) 0 = 0 ∧
      segInFlight { segS d with fab := { State.reset.fab with narrow := [{}] } } (.core 0) 0 = 1 ∧
      (segMaskOf (segS d) (.core 0)).getLsbD 0 = true ∧ (0xFE#8).getLsbD 0 = false ∧ segUsed (segS d) (.core 0) 0 = true) ∧
    (∀ v ∈ [0x7F#8, 0x3F#8], let s := stgS .ready (.segment (.pool 2) v) 0
      let g : Staged := { kind := .segment (.pool 2) v }
      s.mgm.staged = [g] ∧ g.acked = false ∧ stagesNow s = false ∧ s.dev.state ≠ .halted ∧ s.sch.weirPhase ≠ 7 ∧ segInFlight s (.pool 2) 7 = 0 ∧
      (g.sent && !g.acked && (segKind (.pool 2) g.kind).any fun v => v.getLsbD 7 == false && (segMaskOf s (.pool 2)).getLsbD 7 != false) = true ∧
      ((segKind (.pool 2) g.kind).any fun v => (segMaskOf s (.pool 2) ^^^ v) &&& ~~~(g.acks ||| 1#8 <<< 7) == 0#8) = decide (v = 0x7F#8)) ∧
    (let g : Staged := { kind := .segment (.pool 2) 0xFF#8 }
     segUpS.mgm.staged = [g] ∧ (g.sent && !g.acked && (segKind (.pool 2) g.kind).any fun v => v.getLsbD 7 == true && (segMaskOf segUpS (.pool 2)).getLsbD 7 != true) = true ∧
     ((segKind (.pool 2) g.kind).any fun v => (segMaskOf segUpS (.pool 2) ^^^ v) &&& ~~~(g.acks ||| 1#8 <<< 7) == 0#8) = true) :=
  ⟨takes (by decide +kernel), by decide +kernel, by decide +kernel, takes (by decide +kernel), by decide +kernel, by decide +kernel, by decide +kernel,
   by decide +kernel, by decide +kernel, by decide +kernel⟩

/-- R282, R283: with the last segment's acknowledgement the mask is in effect; with the first of two nothing is yet. -/
theorem test_segmentDone : segMaskOf (after (.segmentPowerDownDone (.pool 2) 7) (stgS .ready (.segment (.pool 2) 0x7F#8) 0)) (.pool 2) = 0x7F#8 ∧
    segMaskOf (after (.segmentPowerDownDone (.pool 2) 7) (stgS .ready (.segment (.pool 2) 0x3F#8) 0)) (.pool 2) = 0xFF#8 ∧
    segMaskOf (after (.segmentPowerUpDone (.pool 2) 7) segUpS) (.pool 2) = 0xFF#8 := by decide +kernel

/-- R281: a segment in use is not switched off. -/
theorem test_segmentMaskWrite : (after (.segmentMaskWrite .segment (.core 0) 0xFE#8) (segS .ready)).mgm.lastAbort = 0x08000022 ∧
    segMaskOf (after (.segmentMaskWrite .segment (.pool 3) 0x0F#8) (inState .ready)) (.pool 3) = 0x0F#8 := by decide +kernel

/-! ### Witnesses: memory errors, scrubbing, partitions -/

/-- MemoryErrorsServed: a first error, a second one, a replay ready with a copied core, and the states outside a job. -/
def rplS (b : Bool) : State := { running with sch := { running.sch with
  wCycle := 67
  replayed := b, replay := if b then some { loc := .spad 0 1, persistent := false, atW := 3 } else none, copies := [(0, { vl := 5 })], sCycle := 9 } }
/-- A replay whose 64 W-cycles are not over; a fill that writes line 1 of the beds in this S-cycle. -/
def eRpl : State := { rplS true with sch := { (rplS true).sch with replay := some { loc := .spad 0 1, persistent := false, atW := 4 } } }
def bedS : State := started 0 {} { opr 12 (dsc 0xA1 12 1 (2 ^ 49) [(3, 1, 1024, 3)]) [0#32, 0x04030201#32] 0 with lat := 1, occ := 1 }
theorem wit_MemoryErrorsServed :
    ((rplS false).sch.job = true ∧ stagesNow (rplS false) = true ∧ (rplS false).sch.replayed = false ∧ (rplS false).sch.replay = none) ∧
    ((rplS true).sch.replayed = true ∧ (rplS true).sch.replay = some { loc := .spad 0 1, persistent := false, atW := 3 } ∧
      (rplS true).sch.copies = [(0, { vl := 5 })] ∧ 3 + 64 ≤ (rplS true).sch.wCycle ∧ (eRpl.sch.replay = some { loc := .spad 0 1, persistent := false, atW := 4 } ∧
        eRpl.sch.wCycle < 4 + 64)) ∧ (inState .ready).dev.state ≠ .off ∧ cycleHeld (wideNow bedS) bedS (.beds 1) true = true ∧
    CycleFree (inState .ready) (.uncorrectableOutside (.beds 5) []) :=
  ⟨by decide +kernel, by decide +kernel, by decide +kernel, by decide +kernel, cycleFree (by decide +kernel)⟩

/-- R276: one found outside the schedule takes a free cycle; while the schedule writes a line of its stack it waits. -/
theorem test_uncorrectableOutside : (after (.uncorrectableOutside (.beds 1) []) bedS).beds.waiting = [.uncorrectableOutside (.beds 1) []] ∧
    fget (after (.uncorrectableOutside (.beds 5) []) (inState .ready)).beds.uncorr 0 5 = 1 := by decide +kernel

/-- R271, R274: cause 11; the restart puts the core back to its copy. -/
theorem test_uncorrectableRead : hasCause (after (.uncorrectableRead (.spad 0 1) false) (rplS false)) 11 = true ∧
    (after (.uncorrectableRead (.spad 0 1) false) (rplS true)).dev.haltId = 0x0803 := by decide +kernel
theorem test_replayReady : ((after (.replayReady []) (rplS true)).core 0).vl = 5 ∧ (after (.replayReady []) (rplS true)).sch.sCycle = 0 := by decide +kernel

/-- ScrubAndPartitions: a granule, the last line of a stack's pass, an overrun, and partitions that fit and overlap. -/
def partS : State := { inState .standby with beds := { State.reset.beds with parts := [(0, BitVec.ofNat 64 (2 ^ 60 + 4 * 2 ^ 32))], scrubNext := [(0, 0)] } }
/-- The passes of the scratchpads and pools began lately; that of the beds lately, or at tick 0. -/
def lateS (n : Nat) : State := { partS with
  fab := { partS.fab with ftime := 3600000000000 * 24 + 1 }
  cores := (List.range 192).map fun c => (c, { scrub := { since := 1 } }), pools := (List.range 16).map fun c => (c, { scrub := { since := 1 } })
  beds := { partS.beds with scrubSince := 1 - n } }
theorem wit_ScrubAndPartitions :
    (scrubRuns partS = true ∧ fget (partS.core 0).bad false 0 = false ∧ 0 < 1) ∧ (scrubDue partS 0 = true ∧ fget partS.beds.bad false 0 = false) ∧
    (∀ l ∈ [MemLoc.spad 0 0, .beds 0], CycleFree partS (.scrubLine l 1 ⟨false, []⟩)) ∧
    (outsideJob bedS (.scrubLine (.spad 0 7) 1 ⟨false, []⟩) = some (3, .spad 0 7, false) ∧
      cycleHeld (wideNow { bedS with fab := { bedS.fab with narrow := [{}] } }) { bedS with fab := { bedS.fab with narrow := [{}] } } (.spad 0 3) false = true) ∧
    (∀ n ∈ [0, 1], let s := lateS n
      scrubRuns s = true ∧ (∀ c : CoreId, (s.core c.val).scrub.late = true ∨ decide (3600000000000 * s.beds.scrubHours < s.now - (s.core c.val).scrub.since) = false) ∧
      (∀ cl : Fin 16, (s.pool cl.val).scrub.late = true ∨ decide (3600000000000 * s.beds.scrubHours < s.now - (s.pool cl.val).scrub.since) = false) ∧
      s.beds.scrubLate = false ∧ decide (3600000000000 * s.beds.scrubHours < s.now - s.beds.scrubSince) = decide (n = 1) ∧ s.rep.stackMap = none ∧ s.beds.scrubWrap = []) ∧
    Takes partS .segment (0x300000 + 1 + 1) ∧ partS.dev.state = .standby ∧ bits (3 * 2 ^ 60 + 2 ^ 32 + 4) 63 60 < 7 ∧
    partBad partS 1 (BitVec.ofNat 64 (3 * 2 ^ 60 + 2 ^ 32 + 4)) = false ∧ partBad partS 1 (BitVec.ofNat 64 (3 * 2 ^ 60 + 2 ^ 32 + 3)) = true :=
  ⟨by decide +kernel, by decide +kernel, fun l h => by simp only [List.mem_cons, List.not_mem_nil, or_false] at h; rcases h with rfl | rfl <;> exact cycleFree (by decide +kernel),
   by decide +kernel, by decide +kernel, takes (by decide +kernel), by decide +kernel, by decide +kernel, by decide +kernel, by decide +kernel⟩

/-! ### Witnesses: images and device states -/

/-- An image of one step without cores, whose manifest lists one piece of partition type 1 (Tables 2-14, 2-19, 11-3); bytes 816 to 823 are the
first of SHA3-256 of bytes 872 to 919. -/
def imgM : Mem :=
  [(0, 73#8), (1, 81#8), (2, 67#8), (3, 79#8), (4, 2#8), (6, 9#8), (7, 208#8), (8, 2#8), (9, 1#8), (16, 248#8), (17, 119#8), (24, 152#8),
   (32, 152#8), (40, 1#8), (56, 40#8), (57, 3#8), (64, 128#8), (72, 16#8), (152, 64#8), (808, 68#8), (809, 82#8), (810, 72#8), (811, 83#8),
   (812, 1#8), (816, 236#8), (817, 227#8), (818, 187#8), (819, 169#8), (820, 123#8), (821, 23#8), (822, 109#8), (823, 145#8), (832, 1#8),
   (836, 1#8), (840, 112#8), (848, 96#8), (849, 116#8), (872, 1#8), (880, 1#8), (888, 9#8)]

/-- LOADING with that image and an empty placement block, and with nothing. -/
def ldS : State := { inState .loading with
  dev := { (inState .loading).dev with image := imgM, imgLen := 30712, place := mwrite [] 0 (leBytes 4 0x504C4342 ++ leBytes 2 1), placeW := [⟨0, 64⟩] }
  beds := { State.reset.beds with parts := [(0, BitVec.ofNat 64 (2 ^ 60 + 2 ^ 32))] } }

/-- ImagesLoad: every command in its state; an image that is accepted and one that is not. -/
theorem wit_ImagesLoad :
    (Takes (inState .standby) .tributary 0x180002 ∧ (inState .standby).dev.busy = false ∧ (inState .standby).dev.state = .standby) ∧
    (Takes (inState .loading) .tributary 0x181100 ∧ Takes (inState .loading) .tributary 0x181200 ∧ Takes (inState .loading) .tributary 0x180002 ∧
      (inState .loading).dev.state = .loading) ∧
    (Takes ldS .tributary 0x180002 ∧ acceptCheck ldS (imgView ldS.dev.image) ldS.dev.imgLen false = 0) ∧
    acceptCheck (inState .loading) (imgView (inState .loading).dev.image) 0 false ≠ 0 ∧
    (Takes (inState .ready) .tributary 0x180002 ∧ (inState .ready).dev.state = .ready) :=
  ⟨⟨takes (by decide +kernel), by decide +kernel⟩, ⟨takes (by decide +kernel), takes (by decide +kernel), takes (by decide +kernel), by decide +kernel⟩,
   ⟨takes (by decide +kernel), by decide +kernel⟩, by decide +kernel, ⟨takes (by decide +kernel), by decide +kernel⟩⟩

/-- R61: what the image leaves out is `BAD_FORMAT`; a product that is not this one is result 2. -/
theorem test_acceptCheck : acceptCheck ldS (mset imgM 0 0#8) 30712 false = 1 ∧ acceptCheck ldS (mset imgM 6 0#8) 30712 false = 2 := by decide +kernel

/-- DeviceCommandsByState: a command in a state without a row, and one while the device is busy. -/
def busyS (d : DevState) : State := { inState d with dev := { (inState d).dev with busy := true } }
theorem wit_DeviceCommandsByState : (served (inState .ready) .segment = true ∧ ownerOk (inState .ready) .segment = true ∧
    (inState .ready).dev.state ∉ [DevState.standby]) ∧ (served (busyS .standby) .segment = true ∧ (busyS .standby).dev.busy = true) := by decide +kernel

/-- R435: refused with `WRONG_STATE`. -/
theorem test_load_wrongState : (after (.load .segment) (busyS .standby)).mgm.lastAbort = 0x08000020 := by decide +kernel

/-- JobsStart: READY with its pieces and without; DRAINING; a job that waits with credit and without; RUNNING. -/
def pcS (v : PieceState) : State := { inState .ready with
  beds := ldS.beds, wts := { State.reset.wts with man := some { segs := [{ ptype := 1, pieces := 1 }], digests := [9] }, pstate := [(0, v)] } }
def waitS (cr : Int) : State := { inState .running with sch := { State.reset.sch with jobWait := true }, pwr := { State.reset.pwr with credit := cr } }
theorem wit_JobsStart :
    (Takes (pcS .valid) .tributary 0x180002 ∧ (pcS .valid).dev.busy = false ∧ (pcS .valid).dev.state = .ready ∧ allValid (pcS .valid) = true ∧
      (pcS .valid).inp.replayOn ≠ 1) ∧
    (Takes (pcS .bad) .tributary 0x180002 ∧ allValid (pcS .bad) = false) ∧ (Takes (inState .draining) .tributary 0x180002) ∧
    ((waitS 500000).sch.jobWait = true ∧ admits (waitS 500000) (charge (waitS 500000) (stepEntry (waitS 500000) 0).energy (stepEntry (waitS 500000) 0).len) =
      true ∧ admits (waitS 0) (charge (waitS 0) (stepEntry (waitS 0) 0).energy (stepEntry (waitS 0) 0).len) = false) ∧
    Takes running .tributary 0x180002 :=
  ⟨⟨takes (by decide +kernel), by decide +kernel⟩, ⟨takes (by decide +kernel), by decide +kernel⟩, takes (by decide +kernel), by decide +kernel,
   takes (by decide +kernel)⟩

/-- R11, R359, R473. -/
theorem test_run : (after (.run .tributary) (pcS .valid)).dev.state = .running ∧ (after (.run .tributary) (pcS .bad)).mgm.lastAbort = 0x08000028 := by
  decide +kernel
theorem test_jobStart : (after .jobStart (waitS 0)).sch.job = false := by decide +kernel

/-- KillFlushes: a kill, and both ends of the Flush. -/
def flS (n : Nat) : State := { busyS .ready with beds := { State.reset.beds with flush := n } }
theorem wit_KillFlushes : (Takes running .tributary 0x180002 ∧ running.dev.busy = false ∧ running.dev.state ∈ [DevState.ready, .running, .draining, .halted]) ∧
    ((flS 1).beds.flush = 1 ∧ (flS 1).dev.busy = true) ∧ ((flS 2).beds.flush = 2 ∧ (flS 2).rep.stackReq = none) :=
  ⟨⟨takes (by decide +kernel), by decide +kernel⟩, by decide +kernel, by decide +kernel⟩

/-- SlackwaterEntersAndWakes. -/
theorem wit_SlackwaterEntersAndWakes : Takes (inState .standby) .segment 0x180002 ∧ Takes (inState .slackwater) .segment 0x180002 ∧
    ((inState .slackwater).dev.state = .slackwater ∧ (busyS .slackwater).dev.state = .slackwater ∧ (busyS .slackwater).dev.busy = true) :=
  ⟨takes (by decide +kernel), takes (by decide +kernel), by decide +kernel⟩

/-- R477, R566: the command and the level both sleep. -/
theorem test_sleep : (after (.sleep .segment) (inState .ready)).dev.state = .slackwater ∧ (after .sleepReqAssert (inState .ready)).dev.state = .slackwater ∧
    (after .sleepReqAssert running).dev.state = .running := by decide +kernel

/-! ### Witnesses: descriptor banks and path tables -/

/-- BanksSeal: READY and RUNNING, a bank and a path table FILLING that pass, and a path table whose bytes do not. -/
def bkS (d : DevState) : State := { inState d with
  cores := [(0, { ring := true, inact := .filling })], fab := { State.reset.fab with pathIn := .filling } }
theorem wit_BanksSeal : ∀ d ∈ [DevState.ready, .running], (bkS d).dev.state = d ∧ served (bkS d) .segment = true ∧ ownerOk (bkS d) .segment = true ∧
    ((bkS d).core 0).inact ≠ .empty ∧ bankSealOk (bkS d) 0 ((bkS d).core 0).inBank = true ∧ ((bkS d).core 1).inact = .empty ∧ (bkS d).fab.pathIn ≠ .empty ∧
    (inState d).fab.pathIn = .empty ∧ (bkS d).inp.replaying = false ∧ stageRoom (bkS d) (.bankSwitch 0) = true ∧ stageRoom (bkS d) .pathSwitch = true := by
  decide +kernel

theorem wit_BanksSeal_path (d : DevState) : pathSealOk (pathInBank (bkS d)) = true := by
  have h : pathInBank (bkS d) = [] := rfl
  have e : ∀ i, pathAt [] i = 0 := fun i => by rw [pathAt, mnat, mread_nil]; rfl
  simp only [pathSealOk, h, e]
  decide +kernel

/-- R104: a write for the bank that is active by now is refused. -/
theorem test_bankWrite_late : (after (.bankWrite .segment 0 ⟨false, 4⟩ [7#8]) (bkS .ready)).mgm.lastAbort = 0x08000020 ∧
    ((after (.bankWrite .segment 0 ⟨false, 4⟩ [7#8]) (bkS .ready)).core 0).refused = 1 := by decide +kernel

/-- R103, R105: the inactive bank takes bytes, and is sealed. -/
theorem test_bankWrite : ((after (.bankWrite .segment 0 ⟨true, 4⟩ [7#8]) (bkS .ready)).core 0).inBank = [(4, 7#8)] := by decide +kernel
theorem test_bankSeal : (after (.bankSeal .segment 1) (bkS .ready)).mgm.lastAbort = 0x08000025 := by decide +kernel

/-! ### Witnesses: links, packets, fabric time -/

/-- The same state 1,000 s of fabric time after the start. -/
def later (s : State) : State := { s with fab := { s.fab with ftime := 1000000000000 } }

/-- READY with link 3 in a state. -/
def lkS (st : LinkState) (g : BitVec 8) : State := { inState .ready with fab := { State.reset.fab with links := [(3, { state := st, gate := g })] } }

/-- A link that expects `SEQ` 0 takes the empty frame that has its CRC. -/
theorem emptyFrame_taken (k : Link) (x : Nat) (hx : x < 2 ^ 32) (hc : frameCrc [] 0 = x) (h : k.expSeq = 0 ∧ k.rx = []) :
    frameOk k { flits := [], ctl := BitVec.ofNat 128 x } = true := by
  have e : (BitVec.ofNat 128 x).toNat = x := by rw [BitVec.toNat_ofNat]; exact Nat.mod_eq_of_lt (Nat.lt_trans hx (by decide))
  have z : ∀ n, 32 ≤ n → x >>> n = 0 := fun n hn => by
    rw [Nat.shiftRight_eq_div_pow]; exact Nat.div_eq_of_lt (Nat.lt_of_lt_of_le hx (Nat.pow_le_pow_right (by decide) hn))
  have c : frameCrc [] x = x := by unfold frameCrc at hc ⊢; rw [Nat.zero_div] at hc; rw [Nat.div_eq_of_lt hx]; exact hc
  simp only [frameOk, frameSeq, rxAfter, e, c, h.1, h.2, bits, z 90 (by decide), z 116 (by decide)]
  simp [landing, sumN]; exact hx

/-- A link refuses a frame of another `SEQ`. -/
theorem otherSeq_refused (k : Link) (f : Frame) (h : (frameSeq f == k.expSeq) = false) : frameOk k f = false := by simp [frameOk, h]

/-- A link in training for which a packet of class 0 waits. -/
def lkQ : State := { lkS .training 0 with fab := { (lkS .training 0).fab with inj := [(24, [{}])] } }

/-- LinksChangeState: control words with and without a reserved lane code; a good frame, a bad one, a link that is down; training; gates. -/
theorem wit_LinksChangeState :
    (Takes (lkS .off 0) .tributary (0x401000 + 3 + 1) ∧ bits (8#32).toNat 6 5 ≠ 3 ∧ bits (0x68#32).toNat 6 5 = 3) ∧
    (linkUp ((lkS .up8 0).link 3) = true ∧ (∃ f, frameOk ((lkS .up8 0).link 3) f = true) ∧ frameOk ((lkS .up8 0).link 3) { ctl := 1#128 <<< 116 } = false ∧
      linkUp ((lkS .failed 0).link 3) = false ∧ ((lkS .training 0).link 3).state = .training ∧ ((lkS .up4 0).link 3).state ≠ .training) ∧
    (∀ st ∈ [LinkState.up8, .training], Idle (lkS st 0) 3 none) ∧
    ((lkQ.link 3).state = .training ∧ lkQ.fab.waiting = [] ∧ (lkQ.link 3).dropped ≤ 0xFFFFFFFF ∧ (queuedFor lkQ 3).length = 1 ∧ (lkQ.link 3).tx = []) ∧
    Takes (lkS .up8 0) .tributary (0x404000 + 3 + 1) ∧
    (gateShut ((lkS .up8 8).link 3) 3 = true ∧ classDrained (lkS .up8 8) 3 3 = true ∧ gateShut ((lkS .up8 8).link 3) 2 = false ∧
      ((lkS .up8 8).link 3).drained.getLsbD 3 = false ∧ ((lkS .up8 8).link 3).gateLate.getLsbD 3 = false) :=
  ⟨⟨takes (by decide +kernel), by decide +kernel⟩, ⟨by decide +kernel, ⟨_, emptyFrame_taken _ _ (crc32 _).isLt rfl (by decide +kernel)⟩, otherSeq_refused _ _ (by decide +kernel), by decide +kernel⟩, by unfold Idle; decide +kernel, by decide +kernel,
   takes (by decide +kernel), by decide +kernel⟩

/-- R314, R319, R341: what is queued for a link that fails, or of a class whose gate closes, is dropped and counted. -/
theorem test_dropQueued : ((after (.linkTrainTimeout 3) (later lkQ)).link 3).dropped = 1 ∧ queuedFor (after (.linkTrainTimeout 3) (later lkQ)) 3 = [] ∧
    queuedFor (after (.gateWrite .tributary 3 1#8) lkQ) 3 = [] ∧ (queuedFor (after (.gateWrite .tributary 3 2#8) lkQ) 3).length = 1 := by decide +kernel

/-- R312. -/
theorem test_linkEnable : ((after (.linkEnable .tributary 3 8#32) (lkS .off 0)).link 3).state = .training := by decide +kernel

/-- A packet for queue 1 that stays here, and one that leaves by link 5. -/
def pkHere : Packet := { head := BitVec.ofNat 128 (2 ^ 11), data := ent }
def pkOut : Packet := { head := BitVec.ofNat 128 (5 * 2 ^ 47 + 2 ^ 40 + 2 ^ 27), data := ent }
def pkS (st : LinkState) : State := { inState .ready with
  fab := { State.reset.fab with queues := mwrite [] 8 (leBytes 8 (64 * 2 ^ 36 + 2 * 2 ^ 24)), inj := [(128, [pkHere])]
                                links := [(4, { state := .up8 }), (5, { state := st })] } }
def grpS : State := { pkS .up8 with fab := { (pkS .up8).fab with
  red := leBytes 8 (2 * 2 ^ 61 + 3 * 2 ^ 58 + 2 ^ 57 + 2 ^ 47) |> mwrite [] 0, inj := [], groups := [{ parts := [(0, ent), (1, ent)] }] } }
theorem wit_PacketsDeliver :
    (∀ st ∈ [LinkState.off, .up8], ((pkS st).link 4).state ≠ .off ∧ ((pkS st).link 4).state ≠ .failed ∧ (pkS st).fab.waiting = [] ∧
      (route (pkS st) pkHere).2 = none ∧ (route (pkS st) pkOut).2 = some 5 ∧ hopBad (pkS st) 5 (hTc (route (pkS st) pkOut).1) = decide (st = .off) ∧
      Idle (pkS st) 5 none ∧ (st = .up8 → canSend ((pkS st).link 5) (route (pkS st) pkOut).1 = true)) ∧
    (∀ j, let s := { pkS .off with sch := { State.reset.sch with job := j } }
      Window s (route s pkHere).1 0 256 2 ∧ Window s pkHere 0 256 2) ∧
    ((pkS .off).fab.injIn = [] ∧ (pkS .off).fab.groups = [] ∧ (fget (pkS .off).fab.inj [] 128).head? = some pkHere ∧
      fabricTakes { pkS .off with dev := (inState .standby).dev } = false) ∧
    (grpS.fab.waiting = [] ∧ groupFull grpS { parts := [(0, ent), (1, ent)] } = true ∧ (groupEmit grpS { parts := [(0, ent), (1, ent)] }).isSome = true) := by
  unfold Window Idle; decide +kernel

/-- R319, R325: the packet is in its window and counted; the other one is dropped at the link that is off. -/
theorem test_packetArrive : mread ((after (.packetArrive 4 pkHere) (pkS .off)).core 0).spad 255 2 = [0#8, 7#8] ∧
    fget (after (.packetArrive 4 pkHere) (pkS .off)).fab.halves 0 2 = 1 ∧ ((after (.packetArrive 4 pkOut) (pkS .off)).link 5).dropped = 1 := by decide +kernel

/-- FabricTimeAligns. -/
def tmS (role : Nat) (rf : Nat) : State := { lkS .up8 0 with
  fab := { (lkS .up8 0).fab with role := role, parent := 3, childs := 8#16 }, pwr := { State.reset.pwr with refState := rf } }
theorem wit_FabricTimeAligns :
    ((tmS 0 0).dev.state ≠ .off ∧ fabricTakes (tmS 0 0) = true ∧ fabricTakes { tmS 0 0 with dev := (inState .halted).dev } = false ∧ (tmS 0 0).fab.role = 0 ∧ (tmS 0 0).fab.parent = 3 ∧ (tmS 0 0).fab.beaconLate = false ∧ (tmS 0 0).pwr.refState = 0) ∧
    ((tmS 1 1).fab.role = 1 ∧ (tmS 1 1).fab.childs = 1#16 <<< 3 ∧ linkUp ((tmS 1 1).link 3) = true ∧ ((tmS 1 1).link 3).gate = 0#8 ∧
      ((tmS 1 1).link 3).peerXoff = 0#8 ∧ ((tmS 1 1).link 3).replayBuf.length < 1024 ∧ Idle (tmS 1 1) 3 none ∧
      (tmS 1 1).pwr.refState = 1 ∧ (tmS 1 1).pwr.holdLong = false) ∧ (tmS 0 2).pwr.refState = 2 := by unfold Idle; decide +kernel

/-- R343: 1,000 ns or more sets the time, less is slewed. -/
theorem test_beaconReceive : (after (.beaconReceive 3 1000#64) (tmS 0 0)).fab.ftime = 1000 ∧ (after (.beaconReceive 3 999#64) (tmS 0 0)).fab.ftime = 0 ∧
    (after (.beaconReceive 3 999#64) (tmS 0 0)).fab.slewNs = 999 := by decide +kernel

/-! ### Witnesses: weight shards -/

/-- An intake header for piece 0 of partition type 1 of shard 0. -/
def hdr : List Byte := List.replicate 8 0#8 ++ [1#8] ++ List.replicate 55 0#8

/-- Piece 0 in a state, on stream 2 with `n` packets taken. -/
def inS (v : PieceState) (n : Nat) : State := { pcS v with wts := { (pcS v).wts with streams := [(2, { piece := 0, next := n })] } }

/-- A piece that matches its digest, by the digest it has. -/
def okS (v : PieceState) (h : List Nat) : State := { pcS v with wts := { (pcS v).wts with digests := [(0, pieceHash (pcS v) 0)], hashing := h } }
theorem okS_matches (v : PieceState) (h : List Nat) : pieceMatches (okS v h) 0 = true := by
  have e : pieceHash (okS v h) 0 = pieceHash (pcS v) 0 := rfl
  simp only [pieceMatches, e]
  simp [okS, fhas, fget]

theorem wit_PiecesAreVerified :
    ((pcS .absent).dev.busy = false ∧ (pcS .absent).dev.state = .ready ∧ (pcS .absent).wts.refetch = [] ∧ (inS .filling 5).wts.refetch = [] ∧ (((pcS .absent).wts.streams.find? fun x => x.1 == 2) = none) ∧ intakeOk hdr = true ∧
      byteAt hdr 9 = 0#8 ∧ intakePiece (pcS .absent) hdr = some 0 ∧ intakeOk [] = false) ∧
    (((inS .filling 1023).wts.streams.find? fun x => x.1 == 2) = some (2, { piece := 0, next := 1023 }) ∧ pieceOpen (inS .filling 1023) 0 = true ∧
      ((inS .filling 5).wts.streams.find? fun x => x.1 == 2) = some (2, { piece := 0, next := 5 }) ∧ pieceOpen (inS .filling 5) 0 = true ∧ 4 ≠ 5) ∧
    (msgServed (pcS .absent) = true ∧ intakeOk ((hdr.take 16).take 16) = true ∧ intakePiece (pcS .absent) ((hdr.take 16).take 16) = some 0 ∧
      (pcS .absent).wts.relay.getLsbD 15 = false ∧ hdr.length ≠ 16 + 65536) ∧
    ((okS .filling [0]).wts.hashing.contains 0 = true ∧ (okS .absent []).wts.hashing.contains 0 = false ∧ pieceState (okS .absent []) 0 = .absent ∧
      pieceMatches { pcS .absent with wts := { (pcS .absent).wts with hashing := [0] } } 0 = false ∧ pieceMatches (pcS .absent) 0 = false) ∧
    (∀ p ∈ [((.intakeHeader 2 hdr : Instr), pcS .absent), (.intakeHeader 2 [], pcS .absent), (.intakeData 2 1023 ent, inS .filling 1023),
      (.intakeData 2 4 ent, inS .filling 5), (.tribPieceWrite hdr, pcS .absent), (.tribPieceWrite (hdr.take 16 ++ List.replicate 65536 0#8), pcS .absent),
      (.rescanPiece 0, pcS .valid)], CycleFree p.2 p.1) := by
  refine ⟨by decide +kernel, by decide +kernel, by decide +kernel, by decide +kernel, fun p h => ?_⟩
  simp only [List.mem_cons, List.not_mem_nil, or_false] at h
  rcases h with rfl | rfl | rfl | rfl | rfl | rfl | rfl <;> exact cycleFree (by decide +kernel)

/-- R357: a header opens its piece; a packet out of order makes it BAD. -/
theorem test_intakeHeader : pieceState (after (.intakeHeader 2 hdr) (pcS .absent)) 0 = .filling := by decide +kernel
theorem test_intakeData : pieceState (after (.intakeData 2 4 ent) (inS .filling 5)) 0 = .bad ∧
    (after (.intakeData 2 1023 ent) (inS .filling 1023)).wts.hashing = [0] := by decide +kernel

/-- PiecesAreSourcedAndRescanned: a missing piece with source 1; a request for one piece by path 1 and link 2; a full queue; rescans. -/
def srcS (v : PieceState) : State := { pcS v with wts := { (pcS v).wts with sources := [(1, 2 ^ 36)] } }
def rqD : List Byte := List.replicate 8 0#8 ++ [1#8, 0#8] ++ leBytes 2 1 ++ leBytes 2 0x3F0 ++ leBytes 2 1 ++ List.replicate 48 0#8
def rqS : State := { inState .ready with fab := { State.reset.fab with
  pathA := mwrite [] 16 (leBytes 16 (2 * 2 ^ 47 + 2 ^ 40 + 2 ^ 29)), links := [(2, { state := .up4 })] } }
theorem wit_PiecesAreSourcedAndRescanned :
    ((srcS .absent).dev.state = .ready ∧ validSources (srcS .absent) = [1] ∧ (srcS .absent).wts.man.isSome = true ∧ fget (srcS .absent).wts.asked [] 1 = [] ∧
      fget (srcS .absent).wts.nak [] 1 = [] ∧ (srcS .absent).wts.refetch = [] ∧ missingPieces (srcS .absent) = 0 :: [] ∧ (inState .standby).wts.swState ≠ .filling) ∧
    (rqS.dev.busy = false ∧ rqS.wts.reqs = [] ∧ rqS.wts.man = none ∧ fieldAt rqD 14 2 = 1 ∧
      (let e := pathAt (pathBank rqS) (fieldAt rqD 10 2 % 4096)
       let queue := fieldAt rqD 12 2 % 1024
       let q := route rqS { head := headOf e 2 0 0 false queue 2047, data := padTo 64 (leBytes 8 (fieldAt rqD 0 8) ++ leBytes 1 (byteAt rqD 8).toNat ++
         leBytes 1 1 ++ [0#8, 0#8] ++ leBytes 4 (fieldAt rqD 16 4)) }
       pathValid e = true ∧ (routeStep (fun _ => false) { head := headOf e 2 0 0 false queue 0, data := [] }).2 = some 2 ∧ Idle rqS 2 none ∧
       q.2 = some 2 ∧ hopBad rqS 2 (hTc q.1) = false ∧ canSend (rqS.link 2) q.1 = true)) ∧
    (16 ≤ ({ rqS with wts := { rqS.wts with reqs := List.replicate 16 {} } } : State).wts.reqs.length ∧ (pcS .valid).wts.rescanSec ≠ 0 ∧
      pieceState (pcS .valid) 0 = .valid ∧ pieceState (okS .valid []) 0 = .valid ∧ pieceMatches (pcS .valid) 0 = false ∧ (pcS .valid).wts.rescanLate = false ∧
      ∃ i ∈ listedPieces (pcS .valid), pieceState (pcS .valid) i = .valid) := by unfold Idle; decide +kernel

/-- A refetch of line 3 of piece 0, VALID, from source 1, with `n` packets in its buffer. -/
def rfS (n : Nat) : State := { srcS .valid with wts := { (srcS .valid).wts with
  refetch := [{ line := 3, src := 1, next := some n, buf := List.replicate (64 * n) 0#8 }] } }
theorem wit_refetch : (rfS 5).dev.busy = false ∧ (rfS 5).dev.state = .ready ∧ validSources (rfS 5) = [1] ∧ (sourceOf (rfS 5) 1).2.2.1 = 0 ∧
    (rfS 5).wts.man.isSome = true ∧ refetchTakes (rfS 5) 0 true hdr = true ∧ byteAt hdr 9 = 0#8 ∧ ((rfS 5).wts.streams.find? fun x => x.1 == 0) = none ∧
    refetchTakes (rfS 5) 0 true (hdr.set 9 1#8) = true ∧ pieceState (rfS 1023) (linePiece 3) = .valid ∧ 5 + 1 < 1024 ∧ 6 ≠ 5 ∧
    refetchOk (rfS 5) 3 (List.replicate 384 0#8) = false := by decide +kernel
theorem wit_refetchOk (bs : List Byte) (h : bs.length = 65536) :
    refetchOk { rfS 1023 with wts := { (rfS 1023).wts with digests := [(0, leNat (sha3 bs))] } } 3 bs = true := by
  simp [refetchOk, h, fget, linePiece, pieceBytes]

/-- R365: the buffer fills; a reply out of order or a header with `STATUS` 1 ends the last source's try. R275: a lost line is asked for. -/
theorem test_refetch : ((after (.intakeData 0 5 ent) (rfS 5)).wts.refetch.map fun r => (r.next, r.buf.length)) = [(some 6, 384)] ∧
    (after (.intakeHeader 0 (hdr.set 9 1#8)) (rfS 5)).wts.refetch = [] ∧
    ((after (.uncorrectableOutside (.beds 3) []) (srcS .valid)).wts.refetch.map fun r => (r.line, r.src)) = [(3, 1)] := by decide +kernel

/-- R361: the missing piece is asked of the source. -/
theorem test_sourceRequest : fget (after .sourceRequest (later (srcS .absent))).wts.asked [] 1 = [0] := by decide +kernel

/-- SwapsProceed. -/
def swS (d : DevState) (v : SwapState) : State := { inState d with wts := { State.reset.wts with swState := v, swMan := some {} } }
def swOk : State := { inState .running with
  dev := { (inState .running).dev with img := some { lat := 0x102, steps := [{}] }, lat := 0x102, place := ldS.dev.place, placeW := ldS.dev.placeW }
  beds := ldS.beds, wts := { State.reset.wts with swImg := imgM, swLen := 30712 } }
theorem wit_SwapsProceed :
    Takes running .segment 0x307001 ∧ (Takes swOk .segment 0x307100 ∧ swOk.dev.state = .running ∧ swOk.wts.swState = .idle ∧
      acceptCheck swOk (imgView swOk.wts.swImg) swOk.wts.swLen true = 0) ∧ acceptCheck running (imgView running.wts.swImg) running.wts.swLen true ≠ 0 ∧
    (Takes (swS .running .armed) .segment 0x307100 ∧ (swS .running .armed).wts.swState = .armed ∧ running.wts.swState ∉ [SwapState.staged, .armed]) ∧
    (Takes (swS .running .staged) .segment 0x307003 ∧ (swS .running .staged).sch.stepNo + 2 < (3#64).toNat ∧
      (2#64).toNat ≤ (swS .running .staged).sch.stepNo + 2) ∧
    ((swS .running .filling).wts.swLate = false ∧ entryRole { running with dev := { running.dev with img := some { entry := true } } } = true ∧
      entryRole running = false) :=
  ⟨takes (by decide +kernel), ⟨takes (by decide +kernel), by decide +kernel⟩, by decide +kernel, ⟨takes (by decide +kernel), by decide +kernel⟩,
   ⟨takes (by decide +kernel), by decide +kernel⟩, by decide +kernel⟩

/-- R372: step 3 is the first that step 0 may name. -/
theorem test_releaseStepWrite : (after (.releaseStepWrite .segment 3#64) (swS .running .staged)).wts.swState = .armed ∧
    (after (.releaseStepWrite .segment 2#64) (swS .running .staged)).mgm.lastAbort = 0x08000026 := by decide +kernel

/-! ### Witnesses: serving -/

/-- The entry chip of a group in a state, with a slot. -/
def entryS (d : DevState) (x : Slot) : State := { inState d with
  dev := { (inState d).dev with img := some { entry := true } }
  srv := { State.reset.srv with slots := [(7, x)], conf := [(7, 4), (10, 0)], budgets := [(1, 100)] }
  beds := { State.reset.beds with kvS := 1, kvQ := 4096, kvU := 64, parts := [(1, BitVec.ofNat 64 (4 * 2 ^ 60 + 2 ^ 32))] } }

/-- A request of two prompt tokens for tenant 1 (R391). -/
def rqM (tenant : Nat) : List Byte := leBytes 2 0x101 ++ leBytes 2 0 ++ leBytes 4 9 ++ leBytes 2 tenant ++ leBytes 2 0 ++ leBytes 4 0 ++ leBytes 4 2 ++
  leBytes 4 5 ++ List.replicate 40 0#8 ++ leBytes 8 1

/-- `END` of request 9, or of slot 7 with the status 2 for a sequence that began at step 3. -/
def endM : List Byte := leBytes 2 0x102 ++ leBytes 2 0 ++ leBytes 4 9 ++ leBytes 4 7 ++ leBytes 4 3 ++ leBytes 4 2

theorem wit_RequestsServed :
    (msgServed (entryS .ready {}) = true ∧ fieldAt (rqM 1) 0 2 = 0x101 ∧ reqRefusal (entryS .ready {}) (rqM 1) (reqOf (entryS .ready {}) (rqM 1)) = none ∧
      reqRefusal (entryS .ready {}) (rqM 2) (reqOf (entryS .ready {}) (rqM 2)) = some 0x40) ∧
    (entryRole (inState .ready) = false) ∧ (entryRole (entryS .ready {}) = true ∧ fieldAt endM 0 2 = 0x102 ∧ fieldAt endM 4 4 = 9 ∧
      (entryS .ready {}).srv.store = [] ∧ (byteAt endM 8).toNat = 7 ∧ slotLive ((entryS .running { state := .decode, start := 3 }).slot 7) = true ∧
      ((entryS .running { state := .decode, start := 3 }).slot 7).start % 4294967296 = fieldAt endM 12 4 ∧
      changeAhead (entryS .running { state := .decode, start := 3 }) 7 [3] = false ∧ (byteAt endM 16).toNat ∈ [2, 4, 5, 6, 7]) ∧
    (((entryS .running { state := .parked }).slot 7).state = .parked ∧ fget (entryS .running { state := .parked }).srv.parkAt 0 7 + 1000000 *
      conf (entryS .running { state := .parked }) 10 ≤ (entryS .running { state := .parked }).fab.ftime ∧
      changeAhead (entryS .running { state := .parked }) 7 [3] = false ∧ ((entryS .running {}).slot 7).state ≠ .parked) := by decide +kernel

/-- R393: stored with its tokens. -/
theorem test_servingRequest : ((after (.servingRequest (rqM 1)) (entryS .ready {})).srv.store.map fun r => (r.reqid, r.plen, r.tokens)) =
    [(9, 2, [1#32, 0#32])] := by decide +kernel

/-- BudgetsCutsAndAdapters: the adapter slots of the partition in each state. -/
def adS (v : AdapterState) : State := { entryS .ready {} with srv := { (entryS .ready {}).srv with
  adSel := 3, adStride := 1, adapters := [(3, { state := v, id := 6, dig := some [] })] } }
theorem wit_BudgetsCutsAndAdapters :
    Takes (entryS .ready {}) .tributary 0x521003 ∧ (Takes (entryS .ready {}) .tributary 0x502001 ∧ entryRole (entryS .ready {}) = true ∧
      (entryS .ready {}).sch.stepNo + 3 ≤ (3#64).toNat ∧ (2#64).toNat ≠ 0 ∧ (2#64).toNat < (entryS .ready {}).sch.stepNo + 3) ∧
    ((∀ o ∈ [0x502001, 0x532001, 0x532004, 0x532005], Takes (inState .ready) .tributary o) ∧ entryRole (inState .ready) = false) ∧
    (Takes (entryS .ready {}) .tributary 0x532001 ∧ (entryS .ready {}).srv.adWait = [] ∧ adFree (entryS .ready {}) = some 0) ∧
    (Takes (adS .filling) .tributary 0x531006 ∧ ((adS .filling).adap 3).state = .filling ∧ adBase (adS .filling) 3 = some 3072 ∧
      (1#32).toNat + [5#8].length ≤ (adS .filling).srv.adStride * 1024 ∧ Takes (adS .filling) .tributary 0x531007 ∧
      ((adS .filling).adap 3).dig = some [] ∧ ((adS .filling).dev.busy && ((adS .filling).beds.flush == 1 || (adS .filling).beds.flush == 2)) = false) ∧
    (Takes (adS .verified) .tributary 0x532004 ∧ ((adS .verified).adap 3).state = .verified ∧ ((adS .filling).adap 3).state ≠ .verified ∧
      Takes (adS .ready) .tributary 0x532005 ∧ ((adS .ready).adap 3).state = .ready ∧ entryRole (adS .ready) = true) := by
  unfold Takes; decide +kernel

/-- A map whose values are all `v` gives `v` at each of its keys. -/
theorem fget_all {α : Type} (d v : α) (l : FMap α) (a : Nat) (h : ∀ p ∈ l, p.2 = v) (ha : a ∈ l.map (·.1)) : fget l d a = v := by
  induction l with
  | nil => cases ha
  | cons p r ih =>
    simp only [fget]
    by_cases e : a = p.1
    · simp [e, h p]
    · simp only [e, if_false]
      exact ih (fun q hq => h q (List.mem_cons_of_mem _ hq)) (by simpa [e] using ha)

/-- Every slot taken: an allocation waits. -/
theorem wit_adFree_none : adFree { entryS .ready {} with srv := { (entryS .ready {}).srv with
    adapters := (List.range 1024).map fun a => (a, { state := .ready }) } } = none := by
  unfold adFree
  rw [List.find?_eq_none]
  intro a ha
  rw [Bool.not_eq_true, Bool.and_eq_false_iff]
  left
  simp only [State.adap]
  rw [fget_all _ { state := .ready } _ a (by simp) (by simpa using ha)]
  rfl

/-- R405, R408. -/
theorem test_cutStepWrite : (after (.cutStepWrite .tributary 3) (entryS .ready {})).srv.cut = 3 := by decide +kernel
theorem test_adapterAlloc : (after (.adapterAlloc .tributary 6) (entryS .ready {})).srv.changes = [[4#8, 1#8, 0#8, 0#8, 6#8, 0#8, 0#8, 0#8]] := by
  decide +kernel

/-! ### Witnesses: reset, boot and firmware -/

/-- BOOT after a phase. -/
def bootS (ph : Nat) : State := { inState .boot with dev := { (inState .boot).dev with phase := ph } }

/-- BOOT after phase 3, with a configuration without records. -/
def cfgS : State := { bootS 3 with dev := { (bootS 3).dev with
  cfg := mwrite [] 0 (leBytes 4 0x43464731 ++ leBytes 2 1 ++ leBytes 2 0 ++ leBytes 4 16), cfgW := [⟨0, 29808⟩] } }

/-- ResetAndBoot. The firmware's check is opaque: every state after phase 2 meets one of the two conditions on it. -/
theorem wit_ResetAndBoot :
    (State.reset.dev.state = .off ∧ (inState .ready).dev.state ≠ .off ∧ (true && false) = false) ∧
    ((bootS 4).dev.state = .boot ∧ (bootS 4).dev.phase = 4 ∧ (bootS 4).dev.busy = false) ∧ ((bootS 2).dev.phase = 2 ∧ (bootS 2).dev.bootLate = false) ∧
    (Takes (bootS 2) .segment 0x182000 ∧ (0#32).toNat + [1#8].length ≤ 2097152 ∧ Takes (bootS 2) .segment 0x182100) ∧ Takes (bootS 3) .segment 0x183000 ∧
    (Takes cfgS .segment 0x183100 ∧ cfgS.dev.phase = 3 ∧ cfgOk cfgS = true ∧ Takes (bootS 3) .segment 0x183100 ∧ cfgOk (bootS 3) = false) := by
  unfold Takes; decide +kernel
theorem wit_firmwareOk (s : State) : Config.firmwareOk (fwBytes s 0) = true ∨ Config.firmwareOk (fwBytes s 0) = false := by
  cases Config.firmwareOk (fwBytes s 0) <;> simp

/-- R417: OFF after either pin; R430: the phase is checked. -/
theorem test_resetAssert : (after (.resetAssert false true) (inState .running)).dev.state = .off := by decide +kernel
theorem test_configApply : (after (.configApply .segment) (bootS 3)).mgm.lastAbort = 0x08000025 := by decide +kernel

/-- FirmwareUpdates: the update in each state; its check reads opaque firmware, and either result is one of the two cases. -/
def updS (v : UpdState) : State := { inState .running with mgm := { State.reset.mgm with upd := v } }
theorem wit_FirmwareUpdates :
    ((updS .idle).dev.state ≠ .boot ∧ Takes (updS .idle) .tributary 0x182300 ∧ (updS .idle).mgm.upd = .idle ∧ (0#32).toNat + [1#8].length ≤ 2097152) ∧
    (Takes (updS .filling) .tributary 0x182400 ∧ (updS .filling).mgm.upd = .filling ∧ Takes (updS .checked) .tributary 0x182400 ∧
      (updS .checked).mgm.upd = .checked ∧ Takes (updS .trial) .tributary 0x182400 ∧ (updS .trial).mgm.upd = .trial ∧ (updS .idle).mgm.upd ≠ .trial) := by
  unfold Takes; decide +kernel
theorem wit_updOk (s : State) : updOk s = true ∨ updOk s = false := by cases updOk s <;> simp

/-- R501. -/
theorem test_fwUpdateSwitch : (after (.fwUpdateSwitch .tributary) (updS .checked)).mgm.upd = .trial ∧
    ([0, 1, 2, 3].map fun h => ((after (.fwUpdateSwitch .tributary) (updS .checked)).hart h).role) = [3, 3, 0, 1] ∧
    ((after (.watchdogExpire 2) (after (.fwUpdateSwitch .tributary) (updS .checked))).hart 0).role = 0 := by decide +kernel

/-! ### Witnesses: dictionary, events, interrupts -/

/-- RefusalsInOrder: each of the three refusals and none. -/
theorem wit_RefusalsInOrder :
    served (inState .ready) .segment = true ∧ ownerOk { inState .ready with mgm := { State.reset.mgm with owner := 1 } } .segment = false ∧
    ownerOk (inState .ready) .segment = true ∧ (stateServes (inState .halted) 0x502001 && true) = false ∧ (stateServes (inState .ready) 0x502001 && true) = true ∧
    entryRole (inState .ready) = false ∧ entryRole (entryS .ready {}) = true ∧ (entryS .ready {}).sch.stepNo + 3 ≤ 5 := by decide +kernel

/-- R430: the owner is checked before the state. -/
theorem test_refusalOrder : (after (.cutStepWrite .segment 5) { inState .halted with mgm := { State.reset.mgm with owner := 1 } }).mgm.lastAbort = 0x06010003 ∧
    (after (.cutStepWrite .segment 5) (inState .halted)).mgm.lastAbort = 0x08000020 := by decide +kernel

/-- A request PDU of a type for an object. -/
def pdu (t i sub len : Nat) : Pdu := ⟨BitVec.ofNat 16 t, 5#16, BitVec.ofNat 16 i, BitVec.ofNat 8 sub, 0#8, 0#32, BitVec.ofNat 32 len⟩

/-- STANDBY with a replay-log partition of 4 MiB at 2 MiB. -/
def logS : State := { inState .standby with beds := { State.reset.beds with parts := [(0, BitVec.ofNat 64 (5 * 2 ^ 60 + 2 * 2 ^ 32 + 1))] } }

/-- DictionaryRequests. -/
theorem wit_DictionaryRequests :
    (served (inState .ready) .segment = true ∧ (pdu 0x301 0x1800 1 0).typ = 0x301 ∧ (pdu 0x301 0x1800 1 0).index = 0x1800 ∧ (pdu 0x301 0x1800 1 0).sub = 1 ∧
      (pdu 0x301 0x1800 1 0).rsvd = 0 ∧ (pdu 0x301 0x1800 1 0).length.toNat ≤ 1484 ∧ (pdu 0x301 0x1800 1 0).offset = 0) ∧
    ((pdu 0x303 0x1800 1 0).typ = 0x303 ∧ (pdu 0x303 0x1800 1 0).length = 0) ∧
    ((pdu 0x302 0x6010 1 2).typ = 0x302 ∧ (pdu 0x302 0x6010 1 2).index = 0x6010 ∧ (pdu 0x302 0x6010 1 2).length = 2 ∧ [0xDC#8, 5#8].length = 2 ∧
      900 ≤ leNat [0xDC#8, 5#8] ∧ leNat [0xDC#8, 5#8] ≤ 1800 ∧ served (inState .ready) .segment = true ∧ ownerOk (inState .ready) .segment = true ∧
      stateServes (inState .ready) 0x601001 = true) ∧
    ((pdu 0x303 0x1800 1 0).typ ≠ 0x301 ∧ idxExists (pdu 0x301 0x1FFF 1 0).index.toNat = false ∧ idxExists (pdu 0x301 0x1800 9 0).index.toNat = true ∧
      objRow (pdu 0x301 0x1800 9 0).index.toNat (pdu 0x301 0x1800 9 0).sub.toNat = none ∧
      (pdu 0x302 0x1800 1 1).length.toNat = [0#8].length) ∧
    (served State.reset .segment = false ∧ ∀ q ∈ [(0x301, 0x1800, 1, 0), (0x301, 0x4060, 0, 64), (0x303, 0x4060, 0, 0), (0x302, 0x6010, 1, 2), (0x302, 0x1800, 1, 1),
      (0x302, 0x1800, 2, 1), (0x302, 0x4060, 0, 64), (0x302, 0x7032, 0, 64)], let h := pdu q.1 q.2.1 q.2.2.1 q.2.2.2
      (h.typ.toNat = q.1 ∧ h.rsvd = 0 ∧ h.length.toNat = q.2.2.2 ∧ h.length.toNat ≤ pduMax .segment) ∧ idxExists h.index.toNat = true ∧
      (objRow h.index.toNat h.sub.toNat).isSome = true) ∧
    (∀ q ∈ [([0xDC#8, 5#8], 1500), ([0xE8#8, 3#8], 1000), ([1#8, 0#8], 900)], (objRow 0x6010 1).all fun r =>
      decide (r.acc ≠ .ro ∧ r.typ ≠ .domain) && (writeRoute (inState .ready) .segment 0x6010 1 0 (routePad r q.1)).isNone && accState (inState .ready) r &&
      decide (q.1.length = typSize r.typ) && valueOk r (leNat q.1) && consistent (inState .ready) 0x6010 1 (clampObj r (leNat q.1)) &&
      decide (clampObj r (leNat q.1) = q.2)) ∧
    ((objRow 0x1800 2).all fun r => decide (r.acc ≠ .ro) && (writeRoute (inState .ready) .segment 0x1800 2 0 (routePad r [4#8])).isSome &&
      routeLenOk r 0x1800 0 [4#8]) = true ∧
    (∀ o ∈ [0x406000, 0x406100, 0x406200, 0x703200], served logS .segment = true ∧ ownerOk logS .segment = true ∧ stateServes logS o = true ∧
      logS.dev.state = .standby ∧ (objRow (o / 256) 0).all fun r => decide (64 ≤ objSize logS r 0) && decide (r.acc ≠ .ro)) ∧
    logPart logS = some (2097152, 4194304) := by decide +kernel

/-- The hart that serves the dictionary in debug mode, with `n` requests waiting on the management segment. -/
def wtS (n : Nat) : State := { inState .ready with mgm := { State.reset.mgm with
  harts := [(0, { hart0 0 with halted := true })], waitReq := if n = 0 then [] else [(1, List.replicate n (.run .segment))] } }

/-- The same hart resumed. -/
def wtGo (s : State) : State := s.mapHart 0 fun x => { x with halted := false }

/-- DictionaryRequests, IdleStepIsOneWCycle: requests wait, one too many is refused; paths that are served in turn. -/
theorem wit_waiting : (pathUp State.reset .segment = false) ∧ (pathUp (wtS 3) .segment = true ∧ served (wtS 3) .segment = false ∧ (waitsOn (wtS 3) .segment).length = 3) ∧
    (pathUp (wtS 0) .tributary = true ∧ served (wtS 0) .tributary = false ∧ waitsOn (wtS 0) .tributary = []) ∧
    (served (wtGo (wtS 0)) .segment = true ∧ served (wtGo (wtS 16)) .segment = false ∧ (waitsOn (wtS 16) .segment).length = 16) ∧
    (dictHart (wtS 3) = false ∧ nextPath (wtS 3) = none ∧ dictHart (wtGo (wtS 3)) = true ∧ nextPath (wtGo (wtS 3)) = some .segment ∧
      (wtGo (wtS 3)).pending = [] ∧ waitsOn (wtGo (wtS 3)) .tributary = []) := by decide +kernel

/-- R427: one waiting request is served by the step, in its order, and the 17th is refused. -/
theorem test_waiting : ((outState State.reset (step (wtGo { wtS 0 with mgm := { (wtS 0).mgm with waitReq := [(1, [.odRead .segment (pdu 0x301 0x1800 1 0),
      .odRead .segment (pdu 0x301 0x1800 1 0)])] } }))).mgm.resp.map (fun r => (r.abort, r.data)) = [(0, [4#8])] ∧
    waitsOn (outState State.reset (step (wtGo (wtS 3)))) .segment = List.replicate 2 (.run .segment)) ∧
    (after (.cursorWrite .segment 0) (wtS 16)).mgm.lastAbort = 0x05040001 ∧
    (after (.odRead .segment (pdu 0x301 0x1800 1 0)) (wtS 0)).mgm.resp = [] ∧
    ((after (.odRead .segment (pdu 0x301 0x1800 1 0)) (wtS 0)).isrc 21).pending = true := by decide +kernel

/-- R427, R431: a value below its range is clamped; R14, R324: of a table's bytes only the fields' bits are stored. -/
theorem test_odWrite_general : (after (.odWrite .segment (pdu 0x302 0x6010 1 2) [1#8, 0#8]) (inState .ready)).pwr.target = 900 ∧
    (after (.odWrite .segment (pdu 0x302 0x6010 1 2) [1#8, 0#8]) (inState .ready)).mgm.clamps = 1 ∧
    mread (after (.odWrite .segment (pdu 0x302 0x4060 0 8) (List.replicate 8 0xFF#8)) logS).fab.queues 0 8 =
      [0#8, 0#8, 0#8, 0xFF#8, 0xFF#8, 0xFF#8, 0xFF#8, 0xFF#8] := by decide +kernel

/-- R425, R430: 0x1800:01 reads 4, READY; it cannot be written. -/
theorem test_odRead : (after (.odRead .segment (pdu 0x301 0x1800 1 0)) (inState .ready)).mgm.resp.getLast?.map (fun r => (r.abort, r.data)) =
    some (0, [4#8]) := by decide +kernel
theorem test_odWrite : (after (.odWrite .segment (pdu 0x302 0x6010 1 2) [0xDC#8, 5#8]) (inState .ready)).pwr.target = 1500 ∧
    (after (.odWrite .segment (pdu 0x302 0x1800 1 1) [0#8]) (inState .ready)).mgm.lastAbort = 0x06010002 := by decide +kernel

/-- Source 3 pends for hart 0, source 4 as well; node 0x12 holds two records; one record is stored. -/
def irqS : State := { inState .ready with
  mgm := { State.reset.mgm with src := [(3, { pending := true, target := 1#4, prio := 2 }), (4, { pending := true, target := 1#4, prio := 5 })]
                                harts := [(0, { role := 0, claimed := [9] })] }
  evr := { State.reset.evr with held := [(0x12, [{ sev := 1, id := 0x0D00 }, { sev := 3 }])], store := [{ sev := 2 }] } }

/-- EventsAndInterrupts: what a full store needs is a store of 16,384 records, which the last two clauses show. -/
theorem wit_EventsAndInterrupts :
    (irqS.dev.state ≠ .off ∧ (irqS.hart 0).role < 4 ∧ bestSrc irqS 0 = some 4 ∧ bestSrc (inState .ready) 0 = none ∧ ((inState .ready).hart 0).role < 4) ∧
    (9 ∈ (irqS.hart 0).claimed ∧ 8 ∉ (irqS.hart 0).claimed) ∧
    ((irqS.isrc (224 + 5)).pending = false ∧ (irqS.isrc (224 + 5)).active = false ∧ fget irqS.mgm.hold 0 14 = 0) ∧
    (fget irqS.evr.held [] 0x12 = [{ sev := 1, id := 0x0D00 }] ++ { sev := 3 } :: [] ∧ (∀ x ∈ [({ sev := 1, id := 0x0D00 } : EvRec)], x.sev ≠ 3) ∧
      irqS.evr.store.length < 16384 ∧ fget irqS.evr.held [] 0x13 = []) ∧
    (served irqS .segment = true ∧ ownerOk irqS .segment = true ∧ stateServes irqS (0x701000 + curKey .segment) = true) := by decide +kernel
theorem wit_fullStore (v : Nat) : (List.replicate 16384 ({ sev := v } : EvRec)) = { sev := v } :: List.replicate 16383 { sev := v } ∧
    16384 ≤ (List.replicate 16384 ({ sev := v } : EvRec)).length ∧ ∀ x ∈ List.replicate 16384 ({ sev := v } : EvRec), x.sev = v := by
  refine ⟨List.replicate_succ, by rw [List.length_replicate], fun x h => ?_⟩
  rw [List.eq_of_mem_replicate h]

/-- R446, R533. -/
theorem test_claim : ((after (.claim 0) irqS).hart 0).claimRd = 0x104#9 := by decide +kernel
theorem test_eventRecordStore : ((after (.eventRecordStore 0x12) irqS).evr.store.map fun r => (r.sev, r.seq)) = [(2, 0), (3, 0)] := by decide +kernel

/-! ### Witnesses: clocks, fences -/

/-- A monitor that has tripped, with the cause it raised. -/
def dropS : State := { running with
  pwr := { State.reset.pwr with mons := [(5, { trip := true, valid := true, temp := 90 })] }
  sch := { running.sch with causes := [{ no := 10, src := 5, sinceW := 3 }] } }
/-- STANDBY at another frequency than its target; a trip; a change of frequency on its way. -/
def fqS : State := { inState .standby with pwr := { State.reset.pwr with freq := 1200 } }
def tpS : State := { inState .standby with pwr := { State.reset.pwr with freq := 1200, tripped := true } }
def chS : State := { running with pwr := { State.reset.pwr with newFreq := some 1400 } }
theorem wit_ClocksAndPower :
    (dropS.dev.state ≠ .off ∧ dropS.pwr.tripMv ≤ 800 ∧ ((inState .ready).mon 5).tripAt = 0 ∧ (dropS.mon 5).trip = true ∧ ((inState .ready).mon 5).trip = false ∧
      (∃ c ∈ dropS.sch.causes, c.no = 10 ∧ c.src = 5 ∧ c.untilW = none)) ∧
    (tpS.dev.state = .standby ∧ tpS.pwr.tripped = true ∧ 900 < tpS.pwr.freq) ∧
    (fqS.pwr.tripped = false ∧ fqS.pwr.lowHeld = false ∧ fqS.pwr.minHist = [] ∧ 900 ≤ fqS.pwr.target ∧ fqS.pwr.target ≤ 1800 ∧
      fqS.pwr.target ≠ fqS.pwr.freq ∧ (inState .standby).pwr.target = (inState .standby).pwr.freq) ∧
    (running.dev.state = .running ∧ chS.pwr.newFreq = some 1400 ∧ running.pwr.newFreq = none ∧ running.pwr.tripped = false) ∧
    ((∀ m, m < 64 → (dropS.mon m).valid = true → (dropS.mon m).temp + 10 ≤ dropS.pwr.crit + 40) ∧ fqS.pins.pgWarn ≠ true ∧ fqS.pins.pgWarn = false) ∧
    (fqS.dev.state ≠ .running ∧ fqS.dev.state ≠ .draining) := by decide +kernel
theorem wit_monitorsInvalid (m : Nat) : (fqS.mon m).valid = false := rfl
theorem wit_monitorHot : ∃ m, m < 64 ∧ ({ dropS with pwr := { dropS.pwr with mons := [(5, { valid := true, temp := 150 })] } } : State).pwr.crit + 40 <
    (({ dropS with pwr := { dropS.pwr with mons := [(5, { valid := true, temp := 150 })] } } : State).mon m).temp + 10 := ⟨5, by decide +kernel⟩

/-- R460, R470. -/
theorem test_monitorSample : ((after (.monitorSample 5 800 (-50) 100) running).mon 5).vloc = 800 ∧
    ((after (.monitorSample 5 800 (-50) 100) running).mon 5).temp = 0 := by decide +kernel
theorem test_ledgerUpdate : (after (.ledgerUpdate 7 750) running).pwr.totE = 7 := by decide +kernel

/-- FencesAndRemaps: PF position 2 of cluster 0 with its spare free, its spare fenced, itself fenced; an armed fence at a Weir; a hart that hangs. -/
def fcS (d : DevState) (k : List Nat) : State := { inState d with rep := { State.reset.rep with fenced := k.map fun i => (i, true) } }
def rmS (d : DevState) (r : Remap) : State := { inState d with rep := { State.reset.rep with pend := [r] } }
def rwS : State := { rmS .running { armed := true, pos := 2 } with
  sch := { running.sch with stepNo := 4, causes := [{ no := 7, src := 0, sinceW := 1, untilW := none }] } }
def rowS : State := { inState .ready with rep := { State.reset.rep with rows := [{ stack := 1, tier := 2, row := 3, copied := false }] } }
theorem wit_FencesAndRemaps :
    ((∀ d ∈ [DevState.ready, .running], Takes (fcS d []) .segment 0x210200) ∧ posCarries (fcS .ready []) 0 false 2 = some 2 ∧
      spareFree (fcS .ready []) 0 false = true ∧ spareFree (fcS .ready [4]) 0 false = false ∧ posFenced (fcS .ready [2]) (posKey 0 false 2) = true ∧
      posFenced (fcS .ready []) (posKey 0 false 4) = false ∧ posCarries (fcS .ready []) 0 false 4 = none ∧ (fcS .ready []).rep.pend = []) ∧
    ((rmS .ready { pos := 2 }).rep.pend = [{ pos := 2 }] ∧ posCarries (rmS .ready { pos := 2 }) 0 false 2 = some 2) ∧
    (rwS.sch.causes = [{ no := 7, src := 0, sinceW := 1, untilW := none }] ∧ remapsDue rwS = [{ armed := true, pos := 2 }] ∧
      hasCause (inState .ready) 7 = false) ∧
    (rowS.rep.rows = { stack := 1, tier := 2, row := 3, copied := false } :: [] ∧ rowS.rep.log.length < 8192 ∧ (inState .ready).rep.rows = []) ∧
    (Takes running .segment 0x309400 ∧ Takes (inState .ready) .segment 0x309400 ∧ (0x8001#16).getLsbD 15 = true ∧ running.rep.stackMap = none ∧
      running.rep.stackReq = none ∧ ({ running with rep := { running.rep with stackReq := some 1 } } : State).rep.stackReq ≠ none) ∧
    (running.mgm.upd = .idle ∧ (running.hart 0).role < 3 ∧ (running.hart 0).halted = false ∧ (running.hart 2).role = 3 ∧
      (∀ k, k < 2 → (running.hart k).role ≠ 3)) := by unfold Takes; decide +kernel
theorem wit_fullRepairLog : 8192 ≤ ({ rowS with rep := { rowS.rep with log := List.replicate 8192 0#64 } } : State).rep.log.length := by
  show 8192 ≤ (List.replicate 8192 0#64).length
  rw [List.length_replicate]

/-- R481, R485, R492, R499. -/
theorem test_fenceRequest : (after (.fenceRequest .segment 0x0100) (fcS .running [])).rep.pend = [{ pos := 2 }] ∧
    corePos (after (.spareReady 0 false) (rmS .ready { pos := 2 })) 2 = 4 := by decide +kernel
theorem test_watchdogExpire : ((after (.watchdogExpire 0) running).hart 2).role = (running.hart 0).role := by decide +kernel

/-! ### Witnesses: quotes and the Gauge -/

/-- A quote in a state of its own; the Gauge with its supply, and with a statement to sign. -/
def quS (n : Nat) : State := { inState .ready with tru := { State.reset.tru with quoteSt := n } }
def gaS : State := { inState .ready with gau := { on := true, seq := 1, time := 2500, tstart := 1000, steps := [(8, [1, 2, 0xFFFF])], ledger := 8,
                                                  toSign := [{ seq := 1, body := List.replicate 80 0#8 }] } }

/-- Feed records number 7 with their CRC: `IDLE` of 500, `STEP` of 500 with one slot of tenant 1, `TOKENS` of 9 for tenant 5 (Table 16-4). -/
def idleM : List Byte := leBytes 4 7 ++ [3#8, 0#8] ++ leBytes 2 8 ++ leBytes 8 500 ++ leBytes 4 1796715114
def stepM : List Byte := leBytes 4 7 ++ [2#8, 0#8] ++ leBytes 2 24 ++ leBytes 8 3 ++ leBytes 8 500 ++ leBytes 4 0 ++ leBytes 4 1 ++ leBytes 4 4026810110
def tokM : List Byte := leBytes 4 7 ++ [4#8, 0#8] ++ leBytes 2 20 ++ leBytes 8 3 ++ leBytes 4 1 ++ leBytes 4 5 ++ leBytes 4 9 ++ leBytes 4 1132192231
theorem wit_QuotesAndStatements :
    (served (quS 0) .tributary = true ∧ ownerOk (quS 0) .tributary = true ∧ stateServes (quS 0) 0x802000 = true ∧ (List.replicate 32 1#8).length = 32 ∧
      (quS 0).tru.quoteSt ≠ 1 ∧ (quS 1).tru.quoteSt = 1 ∧ served (quS 1) .tributary = true ∧ (quS 1).dev.state ≠ .off) ∧
    ((quS 0).gau.on = false ∧ gaS.gau.on = true ∧ feedOk [] = false) ∧
    (gaS.gau.steps = [(8, [1, 2, 0xFFFF])] ∧ gaS.gau.ledger = 8 ∧ 0 < 8 ∧ [1, 2, 0xFFFF].length ≤ 128 ∧ (∃ u ∈ [1, 2, 0xFFFF], u ≠ 0xFFFF) ∧ 1 ≠ 0xFFFF) ∧
    (gaS.gau.tstart + 1000 ≤ gaS.gau.time ∧ 0 < gaS.gau.seq ∧ ({ gaS.gau with time := 1999 } : Gauge).time < gaS.gau.tstart + 1000 ∧ (0#8) ≠ 1#8) ∧
    (gaS.gau.toSign = { seq := 1, body := List.replicate 80 0#8 } :: [] ∧ 80 ≤ (List.replicate 80 0#8).length ∧ (quS 0).gau.toSign = []) ∧
    (gaS.dev.state ≠ .off ∧ gaS.dev.state ≠ .boot ∧ gaS.gau.mirrorLate = false ∧ gaS.fab.ftime < gaS.gau.mirrorAt + 10000000000 ∧
      gaS.gau.mirrorAt + 10000000000 ≤ 10000000000) := by decide +kernel
theorem wit_feedIdle : feedOk idleM = true ∧ fieldAt idleM 4 1 = 3 := by decide +kernel
theorem wit_feedStep : feedOk stepM = true ∧ fieldAt stepM 4 1 = 2 := by decide +kernel
theorem wit_feedTokens : feedOk tokM = true ∧ fieldAt tokM 4 1 = 4 ∧ fieldAt ((tokM.drop 8).take (fieldAt tokM 6 2)) 8 2 = 1 := by decide +kernel

/-- R521, R523. -/
theorem test_feedRecord : (after (.feedRecord idleM) gaS).gau.ledger = 508 ∧ (after (.feedRecord idleM) gaS).gau.seqExp = 8 := by decide +kernel
theorem test_quoteRequest : (after (.quoteRequest .tributary (List.replicate 31 0#8)) (quS 0)).mgm.lastAbort = 0x06070010 := by decide +kernel

/-! ### Witnesses: bounds of wall time -/

/-- The time of a statement's clause on a bound has passed, or has not, in a state that meets its other conditions. -/
theorem wit_timeBounds :
    ((eddyLong [{ no := 1 }]).sch.job = true ∧ stagesNow (eddyLong [{ no := 1 }]) = true ∧ (∃ x ∈ (eddyLong [{ no := 1 }]).sch.causes, x.no ∉ [6, 7, 8, 12]) ∧
      (eddyLong [{ no := 1 }]).sch.eddyLimit * 1000000 < (eddyLong [{ no := 1 }]).sch.eddyNs ∧ running.sch.eddyNs ≤ running.sch.eddyLimit * 1000000) ∧
    (∀ k ∈ [StageKind.numctl 3 1#32, .bankSwitch 4], (later (stgS .running k 0)).mgm.staged[0]? = some { kind := k } ∧
      ({ kind := k } : Staged).atW + 100000 ≤ (later (stgS .running k 0)).fab.ftime ∧ (stgS .running k 0).fab.ftime < ({ kind := k } : Staged).atW + 100000) ∧
    (((later lkQ).link 3).state = .training ∧ ((later lkQ).link 3).trainAt + 20000000 ≤ (later lkQ).fab.ftime ∧ lkQ.fab.ftime < (lkQ.link 3).trainAt + 20000000 ∧
      (later lkQ).fab.waiting = [] ∧ gateShut ((later (lkS .up8 8)).link 3) 3 = true ∧
      fget ((later (lkS .up8 8)).link 3).gateAt 0 3 + 10000000 ≤ (later (lkS .up8 8)).fab.ftime) ∧
    ((later (tmS 0 1)).fab.role = 0 ∧ (later (tmS 0 1)).fab.beaconLate = false ∧ (later (tmS 0 1)).fab.lastBeacon + 10000000 ≤ (later (tmS 0 1)).fab.ftime ∧
      (tmS 0 1).fab.ftime < (tmS 0 1).fab.lastBeacon + 10000000 ∧ (later (tmS 0 1)).pwr.refState = 1 ∧ (later (tmS 0 1)).pwr.holdLong = false ∧
      (later (tmS 0 1)).pwr.holdAt + 1000000000 ≤ (later (tmS 0 1)).fab.ftime ∧ (tmS 0 1).fab.ftime < (tmS 0 1).pwr.holdAt + 1000000000) ∧
    ((later (srcS .absent)).dev.state = .ready ∧ validSources (later (srcS .absent)) = [1] ∧ missingPieces (later (srcS .absent)) = [0] ∧
      (later (srcS .absent)).wts.lastArrive + 1000000 * (later (srcS .absent)).wts.quietMs ≤ (later (srcS .absent)).fab.ftime ∧
      (srcS .absent).fab.ftime < (srcS .absent).wts.lastArrive + 1000000 * (srcS .absent).wts.quietMs) ∧
    (rescanNext (pcS .valid) = some 0 ∧ (pcS .valid).wts.rescanSec ≠ 0 ∧ (pcS .valid).wts.rescanLate = false ∧ (∃ i ∈ listedPieces (pcS .valid), pieceState (pcS .valid) i = .valid) ∧
      1000000000 * (later (pcS .valid)).wts.rescanSec < (later (pcS .valid)).fab.ftime - (later (pcS .valid)).wts.rescanSince) ∧
    ((later (swS .running .filling)).wts.swState = .filling ∧ (later (swS .running .filling)).wts.swLate = false ∧
      (later (swS .running .filling)).wts.swFillAt + 1000000 * (later (swS .running .filling)).wts.swLimMs ≤ (later (swS .running .filling)).fab.ftime ∧
      (swS .running .filling).fab.ftime < (swS .running .filling).wts.swFillAt + 1000000 * (swS .running .filling).wts.swLimMs) ∧
    ((later (bootS 2)).dev.state = .boot ∧ (later (bootS 2)).dev.phase = 2 ∧ (later (bootS 2)).dev.bootLate = false ∧ 60000000000 ≤ (later (bootS 2)).fab.ftime) := by
  decide +kernel
theorem wit_timeBounds_more :
    ((later (updS .trial)).mgm.upd = .trial ∧ (later (updS .trial)).mgm.updAt + 60000000000 ≤ (later (updS .trial)).fab.ftime ∧
      (updS .trial).fab.ftime < (updS .trial).mgm.updAt + 60000000000 ∧ ((updS .checked).hart 0).role = 0 ∧ ((updS .checked).hart 1).role = 1 ∧
      ((updS .checked).hart 2).role = 3 ∧ ((updS .checked).hart 3).role = 3) ∧
    (fget irqS.mgm.lastComp 0 0 + 1000 * fget irqS.mgm.hold 0 0 ≤ irqS.fab.ftime + 1 ∧
      (let h : State := { irqS with mgm := { irqS.mgm with lastComp := [(0, 1)], hold := [(0, 1)] } };
      0 < fget h.mgm.lastComp 0 0 ∧ h.fab.ftime + 1 < fget h.mgm.lastComp 0 0 + 1000 * fget h.mgm.hold 0 0 ∧ 0 < fget h.mgm.hold 0 0)) ∧
    (fqS.pins.thermIn = false ∧ (later fqS).dev.state ≠ .running ∧ (later fqS).dev.state ≠ .draining ∧ (later fqS).pwr.idleAt + 1000000 ≤ (later fqS).fab.ftime) ∧
    ((later (quS 0)).dev.state ≠ .off ∧ (later (quS 0)).tru.identAt + 1000000000 ≤ (later (quS 0)).fab.ftime ∧
      (quS 0).fab.ftime < (quS 0).tru.identAt + 1000000000) ∧
    (let g : State := { gaS with gau := { gaS.gau with time := 61000 } };
      g.gau.on = true ∧ g.gau.tstart + 60000 ≤ g.gau.time ∧ gaS.gau.time < gaS.gau.tstart + 60000) ∧
    (let r : State := { rwS with sch := { rwS.sch with wCycle := 60001 } };
      r.sch.causes = [{ no := 7, src := 0, sinceW := 1, untilW := none }] ∧ remapsDue r = [{ armed := true, pos := 2 }] ∧
        1 + 40 * r.pwr.freq ≤ r.sch.wCycle ∧ rwS.sch.wCycle < 1 + 40 * rwS.pwr.freq) := by decide +kernel

/-- R312, R366, R443: a link in training fails after 20 ms; a piece out of turn is not rescanned; the thermal trip input pends source 214. -/
theorem test_timeBounds : ((after (.linkTrainTimeout 3) lkQ).link 3).state = .training ∧ ((after (.thermalTrip true) fqS).isrc 214).pending = true ∧
    (after (.rescanPiece 1) (pcS .valid)).wts.rescanAt = 0 := by decide +kernel

/-! ### Witnesses: debug access, the empty queue, frames -/

/-- HALTED by a debug halt; a break that is due; a target in scalar s5 of core 14; a JTAG session. -/
def hdS : State := { inState .halted with dev := { (inState .halted).dev with dbgHalt := true, saved := 5 }
                                          sch := { running.sch with causes := [{ no := 12, src := 0, sinceW := 2 }] } }
def brS (k : Nat) : State := { running with sch := { running.sch with stepNo := 3, sCycle := 9, base := 9 }
                                            dbg := { steps := 1, brkStep := if k = 0 then 2 else 0, brkS := if k = 1 then 9 else 0
                                                     brkId := if k = 2 then 5 else 0, brkIdHit := true } }
def tgS (d : DevState) (since : Bool) : State := { inState d with
  dbg := { target := BitVec.ofNat 64 (4 * 2 ^ 60 + 14 / 12 * 2 ^ 56 + 14 % 12 * 2 ^ 52 + 4 * 5) }, tru := { State.reset.tru with dbgSince := since } }
def jtS (d : DevState) : State := { inState d with sch := running.sch, dbg := { session := true, dmi := [(16, 1#32)] } }
theorem wit_DebugAndScan :
    (Takes running .segment 0xA00001 ∧ dbgLive running = true ∧ Takes (inState .ready) .segment 0xA00001 ∧ dbgLive (inState .ready) = false ∧
      Takes hdS .segment 0xA00001 ∧ dbgHeld hdS = true ∧ dbgHeld running = false ∧ ∃ c ∈ hdS.sch.causes, c.no = 12 ∧ c.src = 0 ∧ c.untilW = none) ∧
    (∀ k : Fin 3, sRun (brS k) = true ∧ (brS k).dev.busy = false ∧ breakDue (brS k) k = true ∧ breakDue running k = false) ∧
    (∀ b, Takes (tgS .halted b) .segment 0xA01002 ∧ (tgS .halted b).dev.busy = false ∧ (tgS .halted b).tru.dbgSince = b ∧
      (tgS .halted b).dbg.target = BitVec.ofNat 64 (4 * 2 ^ 60 + 14 / 12 * 2 ^ 56 + 14 % 12 * 2 ^ 52 + 4 * 5)) ∧ Takes (tgS .ready true) .segment 0xA01002 ∧
    (State.reset.dev.state = .off ∧ State.reset.pins.resetN = false ∧ running.dbg.drive = false ∧ running.dbg.session = false) ∧
    ((jtS .running).dbg.session = true ∧ (jtS .running).dbg.drive = false ∧ (dmGet (jtS .running) 0x10).testBit 0 = true ∧ dbgLive (jtS .running) = true ∧
      cmemOk (jtS .running) 0 = true ∧ (0#64).getLsbD 31 = false ∧ cmemOk (jtS .off) 0 = false) := by
  unfold Takes; decide +kernel

/-- R544, R547, R548. -/
theorem test_debugResume : (after (.debugResume .segment) hdS).dev.state = .running := by decide +kernel
theorem test_debugWrite : (((after (.debugWrite .segment 0#32 (leBytes 4 77)) (tgS .halted true)).core 14).sreg 5) = 77#32 := by decide +kernel

/-- IdleStepIsOneWCycle: OFF; an Eddy whose end is known; READY. -/
def edS : State := { running with sch := { running.sch with causes := [{ no := 3, src := 0, sinceW := 2, untilW := some 9 }] } }
def nwS : State := { edS with fab := { edS.fab with narrow := [{ core := 5, addr := 128, data := List.replicate 64 1#8 }] } }
theorem wit_IdleStepIsOneWCycle :
    (State.reset.pending = [] ∧ State.reset.dev.state = .off ∧ sRun State.reset = false ∧ State.reset.sch.job = false) ∧
    (edS.pending = [] ∧ edS.sch.job = true ∧ edS.dev.state = .running ∧ edS.wts.reqs = [] ∧ edS.beds.waiting = [] ∧ edS.sch.replay = none ∧ edS.pwr.newFreq = none ∧ edS.sch.weirPhase = 0 ∧
      edS.sch.eddyNs = 0 ∧ (edS.fab.frac + 1000) / max 1 edS.pwr.freq ≤ edS.sch.eddyLimit * 1000000 ∧ edS.sch.causes ≠ [] ∧
      ∃ w, w = 9 ∧ edS.sch.wCycle + 1 < w ∧ ∀ c ∈ edS.sch.causes, c.untilW = some w) ∧
    (edS.fab.narrow = [] ∧ ∃ n ∈ nwS.fab.narrow, nwS = { edS with fab := nwS.fab } ∧ nwS.fab.narrow = [n] ∧ n.lo = false ∧ n.hi = false ∧
      nwS.sch.arbBusy = [] ∧ n.data.length = 64 ∧ rowBank (bankBits n.core) (n.addr / 32) ≠ rowBank (bankBits n.core) ((n.addr + 32) / 32) ∧
      segRangeOn (segTakes nwS n.core) (spadBytes n.core) n.addr 64 = true) ∧
    ((inState .ready).fab.narrow = [] ∧ (inState .ready).pending = [] ∧ (inState .ready).sch.job = false ∧ (inState .ready).dev.state = .ready ∧ (inState .ready).wts.reqs = [] ∧ (inState .ready).beds.waiting = []) := by
  refine ⟨by decide +kernel, ⟨by decide +kernel, by decide +kernel, by decide +kernel, by decide +kernel, by decide +kernel, by decide +kernel,
    by decide +kernel, by decide +kernel, by decide +kernel, by decide +kernel, by decide +kernel, 9, rfl, by decide +kernel, by decide +kernel⟩,
    ⟨by decide +kernel, _, List.mem_singleton_self _, by decide +kernel⟩, by decide +kernel⟩

/-- R258, R325: the write lands in the Eddy and is counted. -/
theorem test_narrow : fget (tick nwS).fab.halves 0 0 = 1 ∧ mread ((tick nwS).core 5).spad 127 2 = [0#8, 1#8] := by decide +kernel

/-- EngineFrame: operation of opcode `o` on engine `e` with a destination in the core's own scratchpad. -/
def frO (e o : Nat) : RunOp := opr e (dsc o e 1 0 [(3, 0, 0, 64)]) [] 0
theorem wit_EngineFrame : (∀ p ∈ [(0, 0x13), (5, 0x30), (6, 0x40), (6, 0x41), (7, 0x50), (8, 0x60), (8, 0x61), (9, 0x70), (10, 0x80), (11, 0x90)],
      Performs (started 0 {} (frO p.1 p.2)) 0 p.1 p.2 (frO p.1 p.2) ∧
      (operand (started 0 {} (frO p.1 p.2)) 0 (frO p.1 p.2).item.desc 3).map (·.loc) = some (.spad 0)) ∧
    ∀ i s, i ∈ [Instr.stload 0 0, .sndload 0 0, .swap 0 0, .stream 0 0, .soundingEvaluate 0 0, .drain 0 0, .softmax 0, .verify 0] → ∃ t, exec i s = .next t := by
  refine ⟨by unfold Performs; decide +kernel, fun i s h => ?_⟩
  simp only [List.mem_cons, List.not_mem_nil, or_false] at h
  rcases h with rfl | rfl | rfl | rfl | rfl | rfl | rfl | rfl <;> exact ⟨_, rfl⟩

end Sys2Proof.Tests
end

/-! PROOFS. What settles a step at its Weir's end, and the updates, commits and slot-table changes that leave it (R384, R401). -/

namespace Sys2Proof.Machine

/-- What an end of a Weir settles about the step it ends, and what follows leaves: the Tributary queues, the counters of the receive halves with the
receives still to be subtracted, the schedule but for the Eddy causes, and the device state with the halt it names (R10, R50, R274, R305, R326). -/
structure WeirResult where
  /-- The Tributary queues (R274). -/
  trib : Tributary
  /-- Receives still to be subtracted (R326). -/
  takes : List (Nat × Nat × Nat)
  /-- Counters of the receive halves (R325). -/
  halves : FMap Nat
  /-- The schedule, its Eddy causes left out. -/
  sch : Sched
  /-- The device state (R10). -/
  state : DevState
  /-- The event that halted the device (R10). -/
  haltId : Nat

/-- The part of a state that `WeirResult` names. -/
def State.weirResult (s : State) : WeirResult := ⟨s.trib, s.fab.takes, s.fab.halves, { s.sch with causes := [] }, s.dev.state, s.dev.haltId⟩

section
variable (s : State)

/-- A change that touches neither Tributary, fabric, schedule nor device state. -/
theorem weirResult_of_eq {s t : State} (htrib : t.trib = s.trib := by simp) (hfab : t.fab = s.fab := by simp)
    (hsch : t.sch = s.sch := by simp) (hdev : t.dev = s.dev := by simp) : t.weirResult = s.weirResult := by simp [State.weirResult, htrib, hfab, hsch, hdev]

/-! ### Updates of one part -/

@[simp] theorem mapCore_weirResult (c : Nat) (f : Core → Core) : (s.mapCore c f).weirResult = s.weirResult := weirResult_of_eq rfl rfl rfl rfl
@[simp] theorem mapPool_weirResult (c : Nat) (f : Pool → Pool) : (s.mapPool c f).weirResult = s.weirResult := weirResult_of_eq rfl rfl rfl rfl
@[simp] theorem mapLink_weirResult (l : Nat) (f : Link → Link) : (s.mapLink l f).weirResult = s.weirResult := by simp [State.weirResult, State.mapLink]
@[simp] theorem mapSlot_weirResult (i : Nat) (f : Slot → Slot) : (s.mapSlot i f).weirResult = s.weirResult := weirResult_of_eq rfl rfl rfl rfl
@[simp] theorem mapCmt_weirResult (i : Nat) (f : CommitSt → CommitSt) : (s.mapCmt i f).weirResult = s.weirResult := weirResult_of_eq rfl rfl rfl rfl
@[simp] theorem mapAdap_weirResult (a : Nat) (f : Adapter → Adapter) : (s.mapAdap a f).weirResult = s.weirResult := weirResult_of_eq rfl rfl rfl rfl
@[simp] theorem mapSrv_weirResult (f : Serving → Serving) : (s.mapSrv f).weirResult = s.weirResult := weirResult_of_eq rfl rfl rfl rfl
@[simp] theorem mapMgm_weirResult (f : Mgmt → Mgmt) : (s.mapMgm f).weirResult = s.weirResult := weirResult_of_eq rfl rfl rfl rfl
@[simp] theorem mapWts_weirResult (f : Weights → Weights) : (s.mapWts f).weirResult = s.weirResult := weirResult_of_eq rfl rfl rfl rfl
@[simp] theorem mapPwr_weirResult (f : Power → Power) : (s.mapPwr f).weirResult = s.weirResult := weirResult_of_eq rfl rfl rfl rfl
@[simp] theorem mapBeds_weirResult (f : Beds → Beds) : (s.mapBeds f).weirResult = s.weirResult := weirResult_of_eq rfl rfl rfl rfl

/-- A change of the fabric that leaves the halves and the receives to be subtracted. -/
theorem mapFab_weirResult {s : State} {f : Fabric → Fabric} (ht : (f s.fab).takes = s.fab.takes) (hh : (f s.fab).halves = s.fab.halves) :
    (s.mapFab f).weirResult = s.weirResult := by simp [State.weirResult, ht, hh]

/-- A change of the device record that leaves its state and halt. -/
theorem mapDev_weirResult {s : State} {f : Dev → Dev} (hs : (f s.dev).state = s.dev.state) (hh : (f s.dev).haltId = s.dev.haltId) :
    (s.mapDev f).weirResult = s.weirResult := by simp [State.weirResult, hs, hh]

/-! ### Folds and conditions -/

theorem each_weirResult {α : Type} {s : State} {l : List α} {f : State → α → State} (h : ∀ s x, (f s x).weirResult = s.weirResult) :
    (s.each l f).weirResult = s.weirResult :=
  State.each_keeps s (fun t => t.weirResult = s.weirResult) l f (fun u x hu => (h u x).trans hu) rfl

theorem cond_weirResult {s : State} {b : Bool} {f : State → State} (h : (f s).weirResult = s.weirResult) : (s.cond b f).weirResult = s.weirResult :=
  State.cond_keeps s (fun t => t.weirResult = s.weirResult) b f (fun _ => h) rfl

/-! ### Events, the feed, the recorder and the causes -/

@[simp] theorem raise_weirResult (id n : Nat) (l : List Nat) : (raise s id n l).weirResult = s.weirResult := weirResult_of_eq
@[simp] theorem raiseV_weirResult (id : Nat) (l : List Nat) : (raiseV s id l).weirResult = s.weirResult := raise_weirResult _ _ _ _
@[simp] theorem feedPut_weirResult (b : FeedBody) : (feedPut s b).weirResult = s.weirResult := weirResult_of_eq
@[simp] theorem inpAdd_weirResult (k y : Nat) (d : List Byte) : (inpAdd s k y d).weirResult = s.weirResult := weirResult_of_eq
@[simp] theorem inpStop_weirResult (st : Nat) : (inpStop s st).weirResult = s.weirResult := weirResult_of_eq
@[simp] theorem measure_weirResult (y m : Nat) (d : List Byte) : (measure s y m d).weirResult = s.weirResult := weirResult_of_eq rfl rfl rfl rfl
@[simp] theorem measureSigned_weirResult (y m : Nat) (ks : List (List Byte)) (b sg : List Byte) : (measureSigned s y m ks b sg).weirResult = s.weirResult :=
  weirResult_of_eq
@[simp] theorem bedWrite_weirResult (a : Nat) (bs : List Byte) : (bedWrite s a bs).weirResult = s.weirResult := weirResult_of_eq rfl rfl rfl rfl
@[simp] theorem stage_weirResult (k : StageKind) : (stage s k).weirResult = s.weirResult := weirResult_of_eq rfl rfl rfl rfl
@[simp] theorem bankSwitch_weirResult (c : Nat) : (bankSwitch s c).weirResult = s.weirResult := weirResult_of_eq
@[simp] theorem endCause_weirResult (n src d : Nat) : (endCause s n src d).weirResult = s.weirResult := rfl
@[simp] theorem addCause_weirResult (n src : Nat) : (addCause s n src).weirResult = s.weirResult := by unfold addCause; split <;> rfl

/-! ### Commits (R401) -/

@[simp] theorem respTokens_weirResult (i n : Nat) (ts : List (BitVec 32)) : (respTokens s i n ts).weirResult = s.weirResult := rfl

@[simp] theorem respEnded_weirResult (i st : Nat) : (respEnded s i st).weirResult = s.weirResult := by
  unfold respEnded; dsimp only; split <;> rfl

@[simp] theorem commitTimes_weirResult (i : Nat) : (commitTimes s i).weirResult = s.weirResult := by
  unfold commitTimes; dsimp only
  split
  · split <;> simp
  · split
    · rfl
    · split <;> rfl

theorem commitOne_weirResult (a : State × List (Nat × Nat) × List (Nat × Nat)) (c : Commit1) : (commitOne a c).1.weirResult = a.1.weirResult := by
  unfold commitOne; dsimp only
  split
  · rfl
  · split
    · rfl
    · simp

@[simp] theorem commitFold_weirResult (l : List Commit1) (a : State × List (Nat × Nat) × List (Nat × Nat)) :
    (l.foldl commitOne a).1.weirResult = a.1.weirResult := by
  induction l generalizing a with
  | nil => rfl
  | cons c r ih => exact (ih _).trans (commitOne_weirResult a c)

@[simp] theorem commitApply_weirResult : (commitApply s).weirResult = s.weirResult := by
  unfold commitApply; dsimp only
  split
  · split <;> simpa using each_weirResult fun _ _ => mapCmt_weirResult _ _ _
  · rfl

/-! ### The slot table (R384) -/

@[simp] theorem slotEnd_weirResult (i st : Nat) : (slotEnd s i st).weirResult = s.weirResult := respEnded_weirResult _ _ _

@[simp] theorem applyNibble_weirResult (i n : Nat) : (applyNibble s i n).weirResult = s.weirResult := by
  unfold applyNibble; dsimp only
  split
  · rfl
  · split
    · rfl
    · simp
    all_goals split <;> simp

@[simp] theorem applyReport_weirResult (bs : List Byte) : (applyReport s bs).weirResult = s.weirResult := by
  simp [applyReport, each_weirResult]

@[simp] theorem unpin_weirResult (a : Nat) : (unpin s a).weirResult = s.weirResult := by unfold unpin; split <;> rfl

@[simp] theorem slotTimed_weirResult (i : Nat) : (slotTimed s i).weirResult = s.weirResult := by
  unfold slotTimed; dsimp only
  split
  case h_4 => rfl
  all_goals split <;> simp

@[simp] theorem adPublish_weirResult (a : Nat) : (adPublish s a).weirResult = s.weirResult := by
  unfold adPublish; dsimp only
  have h : ∀ id, (s.each (List.range 1024) fun s j => if j ≠ a ∧ (s.adap j).state = .ready ∧ (s.adap j).id = id then
      s.mapAdap j fun y => { y with state := .retiring } else s).weirResult = s.weirResult := fun id => each_weirResult fun u j => by split <;> rfl
  split <;> simpa using h _

@[simp] theorem applyChange_weirResult (r : List Byte) : (applyChange s r).weirResult = s.weirResult := by
  unfold applyChange; dsimp only
  split_ifs <;> simp

@[simp] theorem applyAdmit_weirResult (r : List Byte) : (applyAdmit s r).weirResult = s.weirResult := by
  unfold applyAdmit; dsimp only
  split
  · simp
  · split <;> rfl

@[simp] theorem applyUpdate_weirResult (u : List Byte) : (applyUpdate s u).weirResult = s.weirResult := by
  unfold applyUpdate; dsimp only
  refine (cond_weirResult (by simp)).trans ?_
  refine (cond_weirResult rfl).trans ?_
  refine (cond_weirResult rfl).trans ?_
  refine (cond_weirResult (each_weirResult fun u i => ?_)).trans (cond_weirResult (by simp))
  split <;> simp

@[simp] theorem adSettle_weirResult : (adSettle s).weirResult = s.weirResult := by
  unfold adSettle
  exact each_weirResult fun u a => by split <;> rfl

@[simp] theorem passEnter_weirResult (i : Nat) : (passEnter s i).weirResult = s.weirResult := by unfold passEnter; dsimp only; split <;> rfl

@[simp] theorem markPark_weirResult (i : Nat) : (markPark s i).weirResult = s.weirResult := by unfold markPark; split <;> rfl

@[simp] theorem slotTableApply_weirResult : (slotTableApply s).weirResult = s.weirResult := by
  unfold slotTableApply; dsimp only
  simp only [mapSrv_weirResult, mapBeds_weirResult, each_weirResult, markPark_weirResult, passEnter_weirResult, adSettle_weirResult, implies_true]
  split <;> split <;> simp [each_weirResult]

end
end Sys2Proof.Machine

/-! PROOFS. The load service, staged changes, bank switches, replays and remaps leave what a Weir's end settles (R106, R371, R438, R486, R541). -/

namespace Sys2Proof.Machine

section
variable (s : State)

/-! ### The load service sends (R373): what leaves or waits for a link changes no receive half -/

@[simp] theorem dropArr_weirResult (l : List Nat) : (dropArr s l).weirResult = s.weirResult := (raise_weirResult _ _ _ _).trans (mapFab_weirResult rfl rfl)

@[simp] theorem dropAtLink_weirResult (l : Nat) : (dropAtLink s l).weirResult = s.weirResult := by simp [dropAtLink]

@[simp] theorem rxDrop_weirResult (o : Nat) (fl : BitVec 128) : (rxDrop s o fl).weirResult = s.weirResult := by unfold rxDrop; split <;> simp

@[simp] theorem injFreed_weirResult (had : Bool) (b : Nat) : (injFreed had s b).weirResult = s.weirResult := by
  unfold injFreed
  split
  · cases had
    · exact (endCause_weirResult _ _ _ _).trans (mapFab_weirResult rfl rfl)
    · exact endCause_weirResult _ _ _ _
  · rfl

@[simp] theorem srcStamp_weirResult (l v src : Nat) (p : Packet) : (srcStamp s l v src p).weirResult = s.weirResult := by
  unfold srcStamp
  split
  · exact mapFab_weirResult rfl rfl
  · rfl

@[simp] theorem srcGone_weirResult (l v src n : Nat) : (srcGone s l v src n).weirResult = s.weirResult := by
  unfold srcGone; dsimp only
  split
  · simp
  · split
    case h_3 => simp
    all_goals exact (mapFab_weirResult rfl rfl).trans (mapLink_weirResult _ _ _)

theorem sendFlit_weirResult (l v : Nat) (fresh : Bool) : (sendFlit s l v fresh).1.weirResult = s.weirResult := by
  unfold sendFlit
  split
  · rfl
  · split
    · rfl
    · refine (cond_weirResult (injFreed_weirResult _ _ _)).trans ?_
      refine (srcGone_weirResult _ _ _ _ _).trans ((cond_weirResult (rxDrop_weirResult _ _ _)).trans ?_)
      refine (mapLink_weirResult _ _ _).trans ?_
      split
      · exact srcStamp_weirResult _ _ _ _ _
      · rfl

theorem fillFrame_weirResult (l n : Nat) (acc : List (Nat × BitVec 128)) : (fillFrame s l acc n).1.weirResult = s.weirResult := by
  induction n generalizing s acc with
  | zero => rfl
  | succ n ih =>
    unfold fillFrame
    split
    · rfl
    · exact (ih _ _).trans (sendFlit_weirResult _ _ _ _)

theorem pumpGo_weirResult (l n : Nat) : (pumpGo s l n).weirResult = s.weirResult := by
  induction n generalizing s with
  | zero => rfl
  | succ n ih =>
    unfold pumpGo; dsimp only
    split
    · rfl
    · exact (ih _).trans ((mapLink_weirResult _ _ _).trans (fillFrame_weirResult _ _ _ _))

@[simp] theorem pump_weirResult (l : Nat) : (pump s l).weirResult = s.weirResult := by
  unfold pump
  split
  · exact pumpGo_weirResult _ _ _
  · rfl

@[simp] theorem forward_weirResult (l : Nat) (p : Packet) : (forward s l p).weirResult = s.weirResult := by
  unfold forward; split <;> simp

theorem inject_weirResult {s t : State} {set2 : Bool} {p : Packet} (h : (inject s set2 p).1 = some t) : t.weirResult = s.weirResult := by
  unfold inject at h
  dsimp only at h
  split_ifs at h <;> cases h
  · exact dropAtLink_weirResult _ _
  · exact mapFab_weirResult rfl rfl
  · exact mapFab_weirResult rfl rfl

theorem injRefill_weirResult : (injRefill s).weirResult = s.weirResult := by
  unfold injRefill
  refine (each_weirResult (s := s.mapFab fun f => { f with injIn := [] }) fun u p => ?_).trans (mapFab_weirResult rfl rfl)
  split
  · exact inject_weirResult ‹_›
  · exact mapFab_weirResult rfl rfl

@[simp] theorem injOwn_weirResult (o : Nat) (p : Packet) : (injOwn s o p).weirResult = s.weirResult :=
  (injRefill_weirResult _).trans (mapFab_weirResult rfl rfl)

@[simp] theorem serviceSend_weirResult (path tc q tag : Nat) (bs : List Byte) : (serviceSend s path tc q tag bs).weirResult = s.weirResult := by
  unfold serviceSend; dsimp only
  split
  · simp
  · split <;> simp

/-! ### Staged changes, bank switches and the load service at a Weir (R106, R371, R438) -/

@[simp] theorem pathSwitch_weirResult : (pathSwitch s).weirResult = s.weirResult := by
  unfold pathSwitch
  split
  · exact (measure_weirResult _ _ _ _).trans ((raise_weirResult _ _ _ _).trans (mapFab_weirResult rfl rfl))
  · simp

@[simp] theorem segSet_weirResult (u : SegUnit) (v : BitVec 8) : (segSet s u v).weirResult = s.weirResult := by cases u <;> simp [segSet]

@[simp] theorem segDownEnd_weirResult (u : SegUnit) (m : BitVec 8) : (segDownEnd s u m).weirResult = s.weirResult := by cases u <;> simp [segDownEnd]

@[simp] theorem swapApply_weirResult : (swapApply s).weirResult = s.weirResult := by
  unfold swapApply
  split
  · rfl
  · exact (measure_weirResult _ _ _ _).trans ((mapDev_weirResult rfl rfl).trans (each_weirResult fun _ _ => bankSwitch_weirResult _ _))

@[simp] theorem applyStaged_weirResult (k : StageKind) : (applyStaged s k).weirResult = s.weirResult := by cases k <;> simp [applyStaged]

@[simp] theorem recordStaged_weirResult (k : StageKind) : (recordStaged s k).weirResult = s.weirResult := by cases k <;> simp [recordStaged]

@[simp] theorem bankSwitchAt_weirResult (c : Nat) : (bankSwitchAt s c).weirResult = s.weirResult := by
  unfold bankSwitchAt; dsimp only; split <;> simp

@[simp] theorem measureManifest_weirResult (m : Manifest) : (measureManifest s m).weirResult = s.weirResult :=
  measureSigned_weirResult _ _ _ _ _ _

@[simp] theorem manInstall_weirResult (m : Manifest) (l : List Nat) : (manInstall s m l).weirResult = s.weirResult := mapWts_weirResult _ _

@[simp] theorem swapTick_weirResult (n : Nat) : (swapTick s n).weirResult = s.weirResult := by
  unfold swapTick
  split
  · split
    · split <;> simp
    · rfl
  · split <;> simp
  · split
    · simp
    · split <;> simp
  · rfl

@[simp] theorem stagedApply_weirResult : (stagedApply s).weirResult = s.weirResult := by
  unfold stagedApply; dsimp only
  refine (swapTick_weirResult _ _).trans ((each_weirResult fun u g => ?_).trans (mapMgm_weirResult _ _))
  split <;> simp

@[simp] theorem stagedSend_weirResult : (stagedSend s).weirResult = s.weirResult := mapMgm_weirResult _ _

@[simp] theorem weirBanks_weirResult : (weirBanks s).weirResult = s.weirResult :=
  (each_weirResult fun _ _ => bankSwitchAt_weirResult _ _).trans (mapMgm_weirResult _ _)

/-! ### Replay at a Weir (R541) -/

@[simp] theorem replayBank_weirResult (d : List Byte) : (replayBank s d).weirResult = s.weirResult := by
  unfold replayBank; dsimp only
  split
  · split
    · exact (pathSwitch_weirResult _).trans (mapFab_weirResult (by dsimp only; split <;> rfl) (by dsimp only; split <;> rfl))
    · rfl
  · split <;> simp

@[simp] theorem replayAdapter_weirResult (d : List Byte) : (replayAdapter s d).weirResult = s.weirResult := by
  unfold replayAdapter; dsimp only
  split
  · split <;> simp
  · rfl

theorem replayKind_weirResult {s : State} {k n : Nat} {f : State → List Byte → State} (h : ∀ s d, (f s d).weirResult = s.weirResult) :
    (replayKind s k n f).weirResult = s.weirResult := each_weirResult fun _ _ => h _ _

/-! ### Remaps and the end of a job (R485-R488, R439) -/

@[simp] theorem remapApply_weirResult (r : Remap) : (remapApply s r).weirResult = s.weirResult := by
  unfold remapApply; dsimp only; split <;> simp [State.weirResult, fencePos, mapCoreTo, pendDrop]

@[simp] theorem slotAbsent_weirResult (r : Remap) : (slotAbsent s r).weirResult = s.weirResult := by
  unfold slotAbsent; dsimp only; split <;> simp [State.weirResult, fencePos, mapCoreTo, pendDrop]

@[simp] theorem drainEnd_weirResult : (drainEnd s).weirResult = s.weirResult := by
  unfold drainEnd; dsimp only
  exact (each_weirResult fun _ _ => applyStaged_weirResult _ _).trans ((mapMgm_weirResult _ _).trans (each_weirResult fun _ _ => remapApply_weirResult _ _))

end
end Sys2Proof.Machine

/-! PROOFS. The close of a step: its record, and what it releases and takes away (R274, R305, R326, R537, R542). -/

namespace Sys2Proof.Machine

section
variable (s : State)

/-! ### The record of the step that ends (R389, R519, R537, R542) -/

@[simp] theorem missingInputs_weirResult : (missingInputs s).weirResult = s.weirResult := by
  unfold missingInputs; dsimp only
  exact (mapSrv_weirResult _ _).trans ((cond_weirResult (raiseV_weirResult _ _ _)).trans (cond_weirResult (raiseV_weirResult _ _ _)))

theorem missingInputs_haltReq : (missingInputs s).sch.haltReq = s.sch.haltReq := congrArg (fun r => r.sch.haltReq) (missingInputs_weirResult s)

theorem cond_inp {s : State} {b : Bool} {f : State → State} (h : (f s).inp = s.inp) : (s.cond b f).inp = s.inp :=
  State.cond_keeps s (fun t => t.inp = s.inp) b f (fun _ => h) rfl

theorem missingInputs_inp : (missingInputs s).inp = s.inp := by
  unfold missingInputs; dsimp only
  exact (cond_inp (raise_inp _ _ _ _)).trans (cond_inp (raise_inp _ _ _ _))

@[simp] theorem inpFlush_weirResult (n : Nat) : (inpFlush s n).weirResult = s.weirResult := by
  unfold inpFlush; dsimp only
  split
  · exact weirResult_of_eq
  · rfl

@[simp] theorem mismatch_weirResult (k : Nat) : (mismatch s k).weirResult = s.weirResult := weirResult_of_eq

/-- The replay's check of a step reports what it misses, and asks for a halt in the last step of the log (R542). -/
theorem replayStep_cases (n : Nat) : ∃ u : State, u.weirResult = s.weirResult ∧
    replayStep s n = if u.sch.stepNo = u.inp.lastStep then haltNext (raise u 0x1105 0x13 [u.sch.stepNo]) 0x1105 else u := by
  refine ⟨_, ?_, rfl⟩
  refine (weirResult_of_eq rfl rfl rfl rfl).trans ((each_weirResult fun _ _ => mismatch_weirResult _ _).trans ?_)
  split
  · split
    · rfl
    · exact mismatch_weirResult _ _
  · exact mismatch_weirResult _ _

/-- The replay's check may ask for a halt, where none is asked for yet, and settles nothing else (R94, R542). -/
theorem replayStep_weirResult (n : Nat) : ∃ h, (replayStep s n).weirResult = { s.weirResult with sch := { s.weirResult.sch with haltReq := h } } ∧
    ∀ id, s.sch.haltReq = some id → h = some id := by
  obtain ⟨u, hu, e⟩ := replayStep_cases s n
  have hq : u.sch.haltReq = s.sch.haltReq := congrArg (fun r => r.sch.haltReq) hu
  rw [e]
  split
  · refine ⟨u.sch.haltReq <|> some 0x1105, ?_, fun id h => by rw [hq, h]; rfl⟩
    rw [← hu]
    simp [State.weirResult, haltNext]
  · exact ⟨u.sch.haltReq, hu.trans (by rw [hq]; rfl), fun id h => hq.trans h⟩

/-- The state with a step's record closed: its 12 S-cycles of the Weir passed, its `STEP` entry or the replay's check made, and the feed told. -/
def weirRecorded (s : State) (w : Nat) : State :=
  let s := s.mapSch fun k => { k with sCycle := w + 12, wCycle := k.wCycle + (w + 12 - k.sCycle), weirAt := none }
  let s := missingInputs s
  let s := if s.inp.replaying then replayStep s (w + 11)
    else inpFlush (inpAdd s 1 (w + 11) (leBytes 8 s.sch.stepNo ++ outDigest s)) s.sch.stepNo
  feedPut s (.step s.sch.stepNo s.pwr.stepE 1 (stepTenants s))

/-- Closing the record moves time past the Weir and may ask for a halt in a replay. -/
theorem weirRecorded_weirResult (w : Nat) : ∃ h, (weirRecorded s w).weirResult = { s.weirResult with
      sch := { s.weirResult.sch with sCycle := w + 12, wCycle := s.sch.wCycle + (w + 12 - s.sch.sCycle), weirAt := none, haltReq := h } } ∧
    (s.inp.replaying = false → h = s.sch.haltReq) ∧ ∀ id, s.sch.haltReq = some id → h = some id := by
  unfold weirRecorded
  simp only [feedPut_weirResult, missingInputs_inp, State.mapSch_inp]
  cases hr : s.inp.replaying
  · exact ⟨s.sch.haltReq, by simp; rfl, fun _ => rfl, fun _ h => h⟩
  · obtain ⟨h, e, hh⟩ := replayStep_weirResult (missingInputs (s.mapSch fun k => { k with
      sCycle := w + 12, wCycle := k.wCycle + (w + 12 - k.sCycle), weirAt := none })) (w + 11)
    refine ⟨h, ?_, by simp, fun id hid => hh id ?_⟩
    · rw [if_pos rfl, e, missingInputs_weirResult]; rfl
    · exact (missingInputs_haltReq _).trans hid

/-! ### What the step leaves with (R274, R326, R395) -/

/-- The state with the step's outputs released, and what it read and received taken away. -/
def weirReleased (s : State) : State :=
  let s := { s with
    pwr := { s.pwr with lastE := s.pwr.stepE, stepE := 0, crossBad := 0#4 }
    trib := { s.trib with
      inQ := s.trib.used.foldl (fun m (p : Nat × Nat) => fset m [] p.1 ((fget m [] p.1).drop p.2)) s.trib.inQ
      inAt := s.trib.used.foldl (fun m (p : Nat × Nat) => fset m [] p.1 ((fget m [] p.1).drop p.2)) s.trib.inAt
      used := [], outQ := s.trib.outQ ++ s.trib.outStep, outStep := [] } }
  let s := s.mapFab fun f => f.takes.foldl (fun f (t : Nat × Nat × Nat) => { f with
    halves := fset f.halves 0 t.1 (fget f.halves 0 t.1 - t.2.1), taken := fset f.taken [] t.1 ((fget f.taken [] t.1).drop t.2.2) }) { f with takes := [] }
  let s := s.mapSch fun k => { k with
    stepTicks := (k.stepTicks ++ [s.now - k.lastWeirTick]).drop (k.stepTicks.length + 1 - 64), lastWeirTick := s.now }
  let s := s.each (ringCores s) fun s c => s.mapCore c fun k => { k with idx := k.weirNext, held := false }
  pendLine s 8 4

theorem weirClose_eq (w : Nat) : weirClose s w = weirReleased (weirRecorded s w) := rfl

/-- Taking the receives away subtracts each COUNT from its half, and adds no receive (R326). -/
theorem takesFold_fab (l : List (Nat × Nat × Nat)) (f : Fabric) :
    let g := l.foldl (fun f (t : Nat × Nat × Nat) => { f with
      halves := fset f.halves 0 t.1 (fget f.halves 0 t.1 - t.2.1), taken := fset f.taken [] t.1 ((fget f.taken [] t.1).drop t.2.2) }) f
    g.takes = f.takes ∧ g.halves = l.foldl (fun m t => fset m 0 t.1 (fget m 0 t.1 - t.2.1)) f.halves := by
  induction l generalizing f with
  | nil => exact ⟨rfl, rfl⟩
  | cons t r ih => exact ih _

/-- A change of the cores of a list changes the cores only. -/
theorem each_mapCore_frame {α : Type} (l : List α) (c : α → Nat) (f : State → α → Core → Core) :
    (s.each l fun s x => s.mapCore (c x) (f s x)) = { s with cores := (s.each l fun s x => s.mapCore (c x) (f s x)).cores } :=
  State.each_keeps s (fun t => t = { s with cores := t.cores }) l _ (fun u x hu => by rw [hu]; rfl) rfl

/-- The outputs are behind those that wait, and the entries read are gone (R274). -/
theorem weirReleased_trib : (weirReleased s).trib = { s.trib with
    inQ := s.trib.used.foldl (fun m (p : Nat × Nat) => fset m [] p.1 ((fget m [] p.1).drop p.2)) s.trib.inQ
    inAt := s.trib.used.foldl (fun m (p : Nat × Nat) => fset m [] p.1 ((fget m [] p.1).drop p.2)) s.trib.inAt
    used := [], outQ := s.trib.outQ ++ s.trib.outStep, outStep := [] } := by
  unfold weirReleased; dsimp only; rw [pendLine_trib, each_mapCore_frame]; rfl

/-- The packets received are gone from their halves, and no receive is left to be subtracted (R326). -/
theorem weirReleased_fab : (weirReleased s).fab.takes = [] ∧
    (weirReleased s).fab.halves = s.fab.takes.foldl (fun m t => fset m 0 t.1 (fget m 0 t.1 - t.2.1)) s.fab.halves := by
  unfold weirReleased; dsimp only; rw [pendLine_fab, each_mapCore_frame]
  exact takesFold_fab _ _

/-- Of the schedule only the wall times of the steps change (R395). -/
theorem weirReleased_sch : (weirReleased s).sch = { s.sch with
    stepTicks := (weirReleased s).sch.stepTicks, lastWeirTick := (weirReleased s).sch.lastWeirTick } := by
  unfold weirReleased; dsimp only; rw [pendLine_sch, each_mapCore_frame]; rfl

theorem weirReleased_dev : (weirReleased s).dev = s.dev := by
  unfold weirReleased; dsimp only; rw [pendLine_dev, each_mapCore_frame]; rfl

end
end Sys2Proof.Machine

/-! PROOFS. The ways out of a Weir: the next step or a cause before it, the drained job, the halt (R50, R94, R305). -/

namespace Sys2Proof.Machine

section
variable (s : State)

/-! ### What every way out of a Weir leaves -/

/-- What the statement on a Weir's end says of every way out of it: the queues, the receive halves, the step's number and the time. -/
def State.weirOut (s : State) : Tributary × List (Nat × Nat × Nat) × FMap Nat × Nat × Nat × Option Nat :=
  (s.trib, s.fab.takes, s.fab.halves, s.sch.stepNo, s.sch.sCycle, s.sch.weirAt)

theorem weirOut_of_weirResult {s t : State} (h : t.weirResult = s.weirResult) : t.weirOut = s.weirOut :=
  congrArg (fun r : WeirResult => (r.trib, r.takes, r.halves, r.sch.stepNo, r.sch.sCycle, r.sch.weirAt)) h

theorem weirOut_of_eq {s t : State} (htrib : t.trib = s.trib := by simp) (hfab : t.fab = s.fab := by simp) (hno : t.sch.stepNo = s.sch.stepNo := by simp)
    (hcycle : t.sch.sCycle = s.sch.sCycle := by simp) (hat : t.sch.weirAt = s.sch.weirAt := by simp) : t.weirOut = s.weirOut := by
  simp [State.weirOut, htrib, hfab, hno, hcycle, hat]

/-! ### The next step begins, or waits for a cause (R50, R305) -/

/-- Entering a cause changes nothing of the schedule but the causes (R45). -/
theorem addCause_sch (n src : Nat) : (addCause s n src).sch = { s.sch with causes := (addCause s n src).sch.causes } := by
  unfold addCause; split <;> rfl

theorem debugHalt_sch (c : Nat) : (debugHalt s c).sch = { s.sch with causes := (debugHalt s c).sch.causes } := by
  simp only [debugHalt, measureDebug_sch, raise_sch]
  rw [addCause_sch]; simp

theorem debugHalt_weirOut (c : Nat) : (debugHalt s c).weirOut = s.weirOut := by
  have e := debugHalt_sch s c
  exact weirOut_of_eq (by simp) (by simp) (by rw [e]) (by rw [e]) (by rw [e])

theorem debugHalt_base (c : Nat) : (debugHalt s c).sch.base = s.sch.base := by rw [debugHalt_sch]

theorem weirDebug_weirOut : (weirDebug s).weirOut = s.weirOut ∧ (weirDebug s).sch.base = s.sch.base := by
  unfold weirDebug
  split
  · exact ⟨debugHalt_weirOut _ _, debugHalt_base _ _⟩
  · split_ifs
    · exact ⟨debugHalt_weirOut _ _, debugHalt_base _ _⟩
    · exact ⟨debugHalt_weirOut _ _, debugHalt_base _ _⟩
    · exact ⟨rfl, rfl⟩

/-- The next step begins in the S-cycle at which the Weir ended. -/
theorem stepBegin_weirOut : (stepBegin s).weirOut = s.weirOut ∧ (stepBegin s).sch.base = s.sch.sCycle := by
  unfold stepBegin
  refine ⟨(weirDebug_weirOut _).1.trans ?_, (weirDebug_weirOut _).2.trans ?_⟩
  · rw [each_mapCore_frame]; rfl
  · rw [each_mapCore_frame]; rfl

/-- A state that follows from `s` by one of the causes 6 to 9 at the end of a Weir, or in which the next step has begun (R50). -/
structure WeirGoesOn (s t : State) : Prop where
  /-- The step's end is kept. -/
  out : t.weirOut = s.weirOut
  /-- Where no cause is awaited, the next step began in this S-cycle. -/
  base : t.sch.weirPhase = 0 → t.sch.base = s.sch.sCycle

theorem WeirGoesOn.of_weirResult {s t u : State} (h : WeirGoesOn t u) (e : t.weirResult = s.weirResult) : WeirGoesOn s u :=
  ⟨h.out.trans (weirOut_of_weirResult e), fun p => (h.base p).trans (congrArg (fun r => r.sch.sCycle) e)⟩

theorem stepBegin_goesOn : WeirGoesOn s (stepBegin s) := ⟨(stepBegin_weirOut s).1, fun _ => (stepBegin_weirOut s).2⟩

/-- A state that waits for a cause under phase `p` (R50). -/
theorem weirGoesOn_waits {s t : State} {p : Nat} (hp : p ≠ 0)
    (h : t.weirResult = (s.mapSch fun k => { k with weirPhase := p }).weirResult) : WeirGoesOn s t :=
  ⟨(weirOut_of_weirResult h).trans rfl, fun e => absurd ((congrArg (fun r => r.sch.weirPhase) h).symm.trans e) hp⟩

theorem weirFrom9_goesOn : WeirGoesOn s (weirFrom9 s) := by
  unfold weirFrom9; dsimp only
  split
  · exact (stepBegin_goesOn _).of_weirResult (by simp)
  · exact (weirGoesOn_waits (p := 10) (by decide) (addCause_weirResult _ _ _)).of_weirResult (by simp)

theorem weirFrom8_goesOn : WeirGoesOn s (weirFrom8 s) := by
  unfold weirFrom8
  split
  · exact (weirGoesOn_waits (p := 9) (by decide) (addCause_weirResult _ _ _)).of_weirResult (mapPwr_weirResult _ _)
  · exact weirFrom9_goesOn s

theorem weirFrom7_goesOn : WeirGoesOn s (weirFrom7 s) := by
  unfold weirFrom7
  split
  · exact weirFrom8_goesOn s
  · exact weirGoesOn_waits (p := 8) (by decide) (addCause_weirResult _ _ _)

theorem weirFrom6_goesOn : WeirGoesOn s (weirFrom6 s) := by
  refine WeirGoesOn.of_weirResult (t := stagedSend s) ?_ (stagedSend_weirResult s)
  unfold weirFrom6; dsimp only
  split_ifs
  · exact weirGoesOn_waits (p := 7) (by decide) (addCause_weirResult _ _ _)
  · exact weirGoesOn_waits (p := 7) (by decide) (by simp)
  · exact (weirFrom7_goesOn _).of_weirResult (stagedApply_weirResult _)

/-! ### The ways out of a Weir (R305) -/

@[simp] theorem weirStack_weirResult : (weirStack s).weirResult = s.weirResult := by
  unfold weirStack
  split
  · split
    · exact (raise_weirResult _ _ _ _).trans rfl
    · rfl
  · rfl

/-- A halt at the end of a Weir freezes the job and names the event asked for (R94). -/
theorem weirHalt_halts (id : Nat) (h : s.dev.state = .running ∨ s.dev.state = .draining) :
    (weirHalt s id).weirOut = s.weirOut ∧ (weirHalt s id).dev.state = .halted ∧ (weirHalt s id).dev.haltId = id := by
  have e : (weirHalt s id).weirResult = (freeze (s.mapSch fun k => { k with haltReq := none }) id).weirResult :=
    (each_weirResult fun _ _ => remapApply_weirResult _ _).trans (each_weirResult fun _ _ => slotAbsent_weirResult _ _)
  obtain ⟨hs, hi⟩ := freeze_state (s.mapSch fun k => { k with haltReq := none }) id h
  exact ⟨(weirOut_of_weirResult e).trans (weirOut_of_eq),
    (congrArg WeirResult.state e).trans hs, (congrArg WeirResult.haltId e).trans hi⟩

/-- The step's number goes up (R305). -/
def nextStepNo (s : State) : State := s.mapSch fun k => { k with stepNo := k.stepNo + 1 }

theorem nextStepNo_weirResult {s t : State} (h : t.weirResult = s.weirResult) : (nextStepNo t).weirResult = (nextStepNo s).weirResult :=
  congrArg (fun r : WeirResult => { r with sch := { r.sch with stepNo := r.sch.stepNo + 1 } }) h

/-- The end of a Weir halts where a halt is asked for; else, with commits, switches and the slot table in `u`, the job has drained or goes on. -/
theorem weirEnd_cases {w : Nat} (hrun : sRun s = true) (hat : s.sch.weirAt = some w) (hw : w + 11 ≤ s.sch.sCycle) :
    (∃ id, (weirStack (weirClose s w)).sch.haltReq = some id ∧ weirEnd s = weirHalt (nextStepNo (weirStack (weirClose s w))) id) ∨
    ((weirStack (weirClose s w)).sch.haltReq = none ∧ ∃ u, u.weirResult = (nextStepNo (weirStack (weirClose s w))).weirResult ∧
      (weirEnd s = setState ((drainEnd (inpStop u 2)).mapSch fun k => { k with job := false, weirPhase := 0 }) .ready ∨ weirEnd s = weirFrom6 u)) := by
  unfold weirEnd
  rw [hat]
  dsimp only
  rw [if_pos ⟨hrun, hw⟩]
  generalize weirStack (weirClose s w) = c
  cases c.sch.haltReq with
  | some id => exact .inl ⟨id, rfl, rfl⟩
  | none =>
    dsimp only
    refine .inr ⟨rfl, _, ?_, ite_eq_or_eq _ _ _⟩
    refine (slotTableApply_weirResult _).trans ((cond_weirResult (replayKind_weirResult fun u d => ?_)).trans ((weirBanks_weirResult _).trans
      ((cond_weirResult ((replayKind_weirResult replayAdapter_weirResult).trans (replayKind_weirResult replayBank_weirResult))).trans
        (nextStepNo_weirResult (commitApply_weirResult c)))))
    split
    · exact applyStaged_weirResult _ _
    · rfl

end
end Sys2Proof.Machine

/-! PROOFS. The begin and the end of a Weir, and the statement on both (R29, R94, R304, R305). -/

namespace Sys2Proof.Machine

section
variable (s : State)

/-! ### The state after a Weir's close -/

/-- What the close of a step leaves of the queues, the halves and the time (R274, R305, R326). -/
theorem weirClose_weirOut (w : Nat) : (weirClose s w).weirOut =
    ({ s.trib with
        inQ := s.trib.used.foldl (fun m (p : Nat × Nat) => fset m [] p.1 ((fget m [] p.1).drop p.2)) s.trib.inQ
        inAt := s.trib.used.foldl (fun m (p : Nat × Nat) => fset m [] p.1 ((fget m [] p.1).drop p.2)) s.trib.inAt
        used := [], outQ := s.trib.outQ ++ s.trib.outStep, outStep := [] },
      [], s.fab.takes.foldl (fun m t => fset m 0 t.1 (fget m 0 t.1 - t.2.1)) s.fab.halves, s.sch.stepNo, w + 12, none) := by
  obtain ⟨h, e, -⟩ := weirRecorded_weirResult s w
  have htrib : (weirRecorded s w).trib = s.trib := congrArg WeirResult.trib e
  have htakes : (weirRecorded s w).fab.takes = s.fab.takes := congrArg WeirResult.takes e
  have hhalves : (weirRecorded s w).fab.halves = s.fab.halves := congrArg WeirResult.halves e
  have hno : (weirRecorded s w).sch.stepNo = s.sch.stepNo := congrArg (fun r => r.sch.stepNo) e
  have hcycle : (weirRecorded s w).sch.sCycle = w + 12 := congrArg (fun r => r.sch.sCycle) e
  have hat : (weirRecorded s w).sch.weirAt = none := congrArg (fun r => r.sch.weirAt) e
  obtain ⟨ht, hh⟩ := weirReleased_fab (weirRecorded s w)
  rw [weirClose_eq, State.weirOut, weirReleased_trib, ht, hh, weirReleased_sch, htrib, htakes, hhalves]
  dsimp only
  rw [hno, hcycle, hat]

/-- A halt asked for before the close stands, and only a replay's check asks for one in it (R94, R542). -/
theorem weirClose_haltReq (w : Nat) : (s.inp.replaying = false → (weirClose s w).sch.haltReq = s.sch.haltReq) ∧
    ∀ id, s.sch.haltReq = some id → (weirClose s w).sch.haltReq = some id := by
  obtain ⟨h, e, hf, hs⟩ := weirRecorded_weirResult s w
  have hc : (weirClose s w).sch.haltReq = h := by
    rw [weirClose_eq, weirReleased_sch]
    exact congrArg (fun r => r.sch.haltReq) e
  exact ⟨fun hr => hc.trans (hf hr), fun id hid => hc.trans (hs id hid)⟩

theorem weirClose_state (w : Nat) : (weirClose s w).dev.state = s.dev.state := by
  obtain ⟨h, e, -⟩ := weirRecorded_weirResult s w
  rw [weirClose_eq, weirReleased_dev]
  exact congrArg WeirResult.state e

/-- A compute domain that runs does so in RUNNING or DRAINING (R6, R44). -/
theorem sRun_state {s : State} (h : sRun s = true) : s.dev.state = .running ∨ s.dev.state = .draining := by
  simp only [sRun, Bool.and_eq_true, Bool.or_eq_true, beq_iff_eq] at h
  exact h.1.2

theorem nextStepNo_weirOut {s : State} {q : Tributary} {l : List (Nat × Nat × Nat)} {m : FMap Nat} {n c : Nat} {o : Option Nat}
    (h : s.weirOut = (q, l, m, n, c, o)) : (nextStepNo s).weirOut = (q, l, m, n + 1, c, o) :=
  congrArg (fun o : Tributary × List (Nat × Nat × Nat) × FMap Nat × Nat × Nat × Option Nat => (o.1, o.2.1, o.2.2.1, o.2.2.2.1 + 1, o.2.2.2.2)) h

theorem weirStack_state : (weirStack s).dev.state = s.dev.state := congrArg WeirResult.state (weirStack_weirResult s)

theorem weirStack_haltReq : (weirStack s).sch.haltReq = s.sch.haltReq := congrArg (fun r : WeirResult => r.sch.haltReq) (weirStack_weirResult s)

/-- A Weir that closes still stands in RUNNING or DRAINING (Table 13-10). -/
theorem weirClosed_state {s : State} (h : sRun s = true) (w : Nat) :
    (nextStepNo (weirStack (weirClose s w))).dev.state = .running ∨ (nextStepNo (weirStack (weirClose s w))).dev.state = .draining := by
  rw [nextStepNo, State.mapSch_dev, weirStack_state, weirClose_state]
  exact sRun_state h

/-! ### The end of a Weir (R305) -/

section
variable {s : State} {w : Nat} (hrun : sRun s = true) (hat : s.sch.weirAt = some w) (hw : w + 11 ≤ s.sch.sCycle)
include hrun hat hw

/-- Whichever way the job goes on, the Weir's end leaves what the close settled, with the step's number one up (R305). -/
theorem weirEnd_weirOut : (weirEnd s).weirOut = (nextStepNo (weirClose s w)).weirOut := by
  have hn := weirOut_of_weirResult (nextStepNo_weirResult (weirStack_weirResult (weirClose s w)))
  rcases weirEnd_cases s hrun hat hw with ⟨id, -, e⟩ | ⟨-, u, hu, e | e⟩
  · rw [e, (weirHalt_halts _ id (weirClosed_state hrun w)).1, hn]
  · have hd : (drainEnd (inpStop u 2)).weirResult = u.weirResult := by simp
    rw [e, ← hn, ← weirOut_of_weirResult hu, ← weirOut_of_weirResult hd]
    exact weirOut_of_eq
  · rw [e, (weirFrom6_goesOn u).out, ← hn, ← weirOut_of_weirResult hu]

/-- A halt asked for freezes the job at the Weir's end (R94). -/
theorem weirEnd_halts {id : Nat} (h : s.sch.haltReq = some id) : (weirEnd s).dev.state = .halted ∧ (weirEnd s).dev.haltId = id := by
  have hreq : (weirStack (weirClose s w)).sch.haltReq = some id :=
    (weirStack_haltReq _).trans ((weirClose_haltReq s w).2 id h)
  rcases weirEnd_cases s hrun hat hw with ⟨id', hid, e⟩ | ⟨hid, -⟩
  · obtain rfl : id' = id := Option.some.inj (hid.symm.trans hreq)
    rw [e]
    exact (weirHalt_halts _ id' (weirClosed_state hrun w)).2
  · exact absurd (hid.symm.trans hreq) (by simp)

/-- Without a halt and without a cause that holds the Weir's end, the next step begins 12 S-cycles after the Weir did (R29, R305). -/
theorem weirEnd_base (h : s.sch.haltReq = none) (hr : s.inp.replaying = false) (hjob : (weirEnd s).sch.job = true)
    (hphase : (weirEnd s).sch.weirPhase = 0) : (weirEnd s).sch.base = w + 12 := by
  have hreq : (weirStack (weirClose s w)).sch.haltReq = none :=
    (weirStack_haltReq _).trans (((weirClose_haltReq s w).1 hr).trans h)
  rcases weirEnd_cases s hrun hat hw with ⟨id, hid, -⟩ | ⟨-, u, hu, e | e⟩
  · exact absurd (hid.symm.trans hreq) (by simp)
  · rw [e, setState_sch] at hjob
    exact absurd hjob (by simp)
  · have hcycle : u.sch.sCycle = w + 12 := by
      have ho := (weirOut_of_weirResult hu).trans (nextStepNo_weirOut ((weirOut_of_weirResult (weirStack_weirResult _)).trans (weirClose_weirOut s w)))
      exact congrArg (fun o => o.2.2.2.2.1) ho
    rw [e] at hphase ⊢
    exact ((weirFrom6_goesOn u).base hphase).trans hcycle

end

/-! ### The begin of a Weir (R29, R304) -/

theorem exec_weirBegin : exec .weirBegin s = .next (weirBegin s) := rfl

theorem exec_weirEnd : exec .weirEnd s = .next (weirEnd s) := rfl

/-- A Weir begins once it is due and the quiet tree is true, and a late one records by how much (R29). -/
theorem weirBegin_due {s : State} (hrun : sRun s = true) (hat : s.sch.weirAt = none) (hdue : weirDue s ≤ s.sch.sCycle) (hq : quiet s = true) :
    weirBegin s = (s.cond (decide (0 < s.sch.sCycle - weirDue s)) fun t => raise t 0x0201 0x14 [t.sch.stepNo, s.sch.sCycle - weirDue s]).mapSch
      fun k => { k with weirAt := some k.sCycle } := by
  unfold weirBegin; rw [if_pos ⟨hrun, hat, hdue, hq⟩]

/-- Too early, or with the quiet tree false, no Weir begins (R29). -/
theorem weirBegin_waits {s : State} (h : s.sch.sCycle < weirDue s ∨ quiet s = false) : weirBegin s = s := by
  unfold weirBegin
  rw [if_neg]
  rintro ⟨-, -, hdue, hq⟩
  rcases h with h | h
  · omega
  · rw [hq] at h; cases h

/-- A Weir that begins leaves its S-cycle, and, where it is late, the record of the excess (R29). -/
theorem weirBegin_records {s : State} (hrun : sRun s = true) (hat : s.sch.weirAt = none) (hdue : weirDue s ≤ s.sch.sCycle) (hq : quiet s = true) :
    weirBegin s = { s with evr := (weirBegin s).evr, sch := { s.sch with weirAt := some s.sch.sCycle } } ∧
    (weirBegin s).evr = if weirDue s < s.sch.sCycle then (raise s 0x0201 0x14 [s.sch.stepNo, s.sch.sCycle - weirDue s]).evr else s.evr := by
  rw [weirBegin_due hrun hat hdue hq]
  by_cases h : weirDue s < s.sch.sCycle
  · simp only [h, Nat.sub_pos_of_lt h, decide_true, State.cond_true, if_true, State.mapSch_evr, and_true]
    rw [State.mapSch, raise_frame]
  · simp only [h, mt Nat.lt_of_sub_pos h, decide_false, State.cond_false, if_false, State.mapSch_evr, and_true]
    rfl

end

/-- Settles O30: the Weir's begin by its guard; its end by what the close of the step settles and every way out of the Weir keeps. -/
theorem weirBeginsAndEnds : Obligations.WeirBeginsAndEnds := by
  unfold Obligations.WeirBeginsAndEnds
  intro s due
  refine ⟨fun hrun hat hdue hq => ⟨weirBegin s, exec_weirBegin s, weirBegin_records hrun hat hdue hq⟩,
    fun h => (exec_weirBegin s).trans (congrArg _ (weirBegin_waits h)), fun w hrun hat hw => ⟨weirEnd s, exec_weirEnd s, ?_⟩⟩
  have ho := (weirEnd_weirOut hrun hat hw).trans (nextStepNo_weirOut (weirClose_weirOut s w))
  simp only [State.weirOut, Prod.mk.injEq] at ho
  obtain ⟨htrib, htakes, hhalves, hno, hcycle, hend⟩ := ho
  rw [htrib, htakes, hhalves]
  exact ⟨hno, hcycle, hend, rfl, rfl, rfl, rfl, fun q n h => by simp [h], fun c n k h => by simp [h], weirEnd_base hrun hat hw,
    fun id h => weirEnd_halts hrun hat hw h⟩

end Sys2Proof.Machine

/-! PROOFS. The signals of one S-cycle on one flag: their order and sum, and what their effect leaves (R87, R88, R302). -/

namespace Sys2Proof.Machine

/-! ### Source order (R87) -/

theorem sigInsert_perm (g : Signal) (l : List Signal) : (sigInsert g l).Perm (g :: l) := by
  induction l with
  | nil => exact .refl _
  | cons h r ih =>
    unfold sigInsert
    split
    · exact .refl _
    · exact (ih.cons h).trans (.swap g h r)

theorem sigInsert_sorted (g : Signal) {l : List Signal} (hl : l.Pairwise (sigKey · ≤ sigKey ·)) :
    (sigInsert g l).Pairwise (sigKey · ≤ sigKey ·) := by
  induction l with
  | nil => exact List.pairwise_singleton _ _
  | cons h r ih =>
    obtain ⟨hh, hr⟩ := List.pairwise_cons.1 hl
    unfold sigInsert
    split
    next hlt => exact List.pairwise_cons.2 ⟨List.forall_mem_cons.2 ⟨hlt.le, fun x hx => hlt.le.trans (hh x hx)⟩, hl⟩
    next hge =>
      refine List.pairwise_cons.2 ⟨fun x hx => ?_, ih hr⟩
      rcases List.mem_cons.1 ((sigInsert_perm g r).mem_iff.1 hx) with rfl | hx
      · exact not_lt.1 hge
      · exact hh x hx

/-- Putting signals in source order neither loses nor adds one. -/
theorem sigSort_perm (l : List Signal) : (sigSort l).Perm l := by
  suffices h : ∀ a : List Signal, (l.foldl (fun a g => sigInsert g a) a).Perm (a ++ l) from h []
  induction l with
  | nil => simp
  | cons g r ih => exact fun a => (ih _).trans (((sigInsert_perm g a).append_right r).trans List.perm_middle.symm)

theorem sigSort_sorted (l : List Signal) : (sigSort l).Pairwise (sigKey · ≤ sigKey ·) :=
  List.foldlRecOn l _ .nil fun _ h g _ => sigInsert_sorted g h

/-- Cluster and slot go before the engine, the sequencer first (R87). -/
theorem sigKey_lt {g h : Signal} (hg : g.srcEng ≤ 16) (hgh : g.srcCore < h.srcCore ∨ (g.srcCore = h.srcCore ∧ g.srcEng < h.srcEng)) :
    sigKey g < sigKey h := by
  unfold sigKey; omega

/-! ### The combination (R87) -/

/-- The sum of the values of the signals of one kind. -/
def opSum (o : Nat) (gs : List Signal) : Int := ((gs.filter fun g => g.op == o).map fun g => (g.value : Int)).sum

theorem opSum_perm (o : Nat) {l r : List Signal} (h : l.Perm r) : opSum o l = opSum o r := ((h.filter _).map _).sum_eq

theorem opSum_cons (o : Nat) (g : Signal) (l : List Signal) : opSum o (g :: l) = (if g.op = o then (g.value : Int) else 0) + opSum o l := by
  by_cases h : g.op = o <;> simp [opSum, h]

/-- One signal after the other, the signals add every `ADD` and subtract every `SUB`. -/
theorem foldl_signals (l : List Signal) (b : Int) :
    l.foldl (fun (a : Int) g => if g.op = 1 then a + g.value else if g.op = 2 then a - g.value else a) b = b + opSum 1 l - opSum 2 l := by
  induction l generalizing b with
  | nil => simp [opSum]
  | cons g r ih =>
    rw [List.foldl_cons, ih, opSum_cons, opSum_cons]
    by_cases hadd : g.op = 1
    · simp [hadd]; omega
    · by_cases hsub : g.op = 2
      · simp [hsub]; omega
      · simp [hadd, hsub]

theorem flagCombine_eq (v : Nat) (gs : List Signal) :
    flagCombine v gs = (((sigSort gs).find? fun g => g.op == 3).elim v Signal.value : Nat) + opSum 1 gs - opSum 2 gs := by
  unfold flagCombine
  rw [foldl_signals, opSum_perm 1 (sigSort_perm gs), opSum_perm 2 (sigSort_perm gs)]
  cases (sigSort gs).find? fun g => g.op == 3 <;> rfl

theorem flagCombine_of_no_set (v : Nat) {gs : List Signal} (h : ∀ g ∈ gs, g.op ≠ 3) : flagCombine v gs = v + opSum 1 gs - opSum 2 gs := by
  have hn : ((sigSort gs).find? fun g => g.op == 3) = none := by
    simpa [List.find?_eq_none, (sigSort_perm gs).mem_iff] using h
  rw [flagCombine_eq, hn, Option.elim_none]

/-- A `SET` that stands before every other one is the first in source order. -/
theorem find_sigSort_set {g : Signal} {gs : List Signal} (hg : g ∈ gs) (hop : g.op = 3)
    (hfirst : ∀ h ∈ gs, h.op = 3 → h = g ∨ sigKey g < sigKey h) : ((sigSort gs).find? fun g => g.op == 3) = some g := by
  have hmem : g ∈ sigSort gs := (sigSort_perm gs).mem_iff.2 hg
  cases hx : (sigSort gs).find? fun g => g.op == 3 with
  | none => exact absurd hop (by simpa using List.find?_eq_none.1 hx g hmem)
  | some x =>
    obtain ⟨hxop, before, after, hsplit, hbefore⟩ := List.find?_eq_some_iff_append.1 hx
    have hxmem : x ∈ gs := (sigSort_perm gs).mem_iff.1 (List.mem_of_find?_eq_some hx)
    rcases hfirst x hxmem (by simpa using hxop) with rfl | hlt
    · rfl
    have hsorted := sigSort_sorted gs
    rw [hsplit, List.pairwise_append, List.pairwise_cons] at hsorted
    obtain ⟨-, ⟨hafter, -⟩, -⟩ := hsorted
    rw [hsplit, List.mem_append, List.mem_cons] at hmem
    rcases hmem with hmem | rfl | hmem
    · exact absurd (hbefore g hmem) (by simp [hop])
    · rfl
    · exact absurd (hafter g hmem) (not_le.2 hlt)

theorem flagCombine_of_set (v : Nat) {g : Signal} {gs : List Signal} (hg : g ∈ gs) (hop : g.op = 3)
    (hfirst : ∀ h ∈ gs, h.op = 3 → h = g ∨ sigKey g < sigKey h) : flagCombine v gs = g.value + opSum 1 gs - opSum 2 gs := by
  rw [flagCombine_eq, find_sigSort_set hg hop hfirst, Option.elim_some]

/-! ### The events (R88) -/

/-- The events of a combination of result `x` from `n` `SET`s. -/
def flagEvents (s : State) (c f : Nat) (x : Int) (n : Nat) : State :=
  ((s.cond (decide (65535 < x)) fun s => raiseC s 0x0303 c [f]).cond (decide (x < 0)) fun s => raiseC s 0x0304 c [f]).cond (decide (2 ≤ n))
    fun s => raiseC s 0x0305 c [f]

/-- At most one end of the range clamps. -/
theorem flagEvents_eq (s : State) (c f : Nat) (x : Int) (n : Nat) :
    flagEvents s c f x n = (let u := if 65535 < x then raiseC s 0x0303 c [f] else if x < 0 then raiseC s 0x0304 c [f] else s
      if 2 ≤ n then raiseC u 0x0305 c [f] else u) := by
  have hone : 65535 < x → ¬ x < 0 := by omega
  by_cases hhi : 65535 < x
  · simp [flagEvents, State.cond, hhi, hone hhi]
  · simp [flagEvents, State.cond, hhi]

/-- What differs in the recorder only still does after an event. -/
theorem cond_raiseC_frame {s u : State} (hu : u = { s with evr := u.evr }) (b : Bool) (id c : Nat) (l : List Nat) :
    (u.cond b fun u => raiseC u id c l) = { s with evr := (u.cond b fun u => raiseC u id c l).evr } :=
  State.cond_keeps u (fun t => t = { s with evr := t.evr }) b _ (fun h => by rw [raiseC_frame, h]) hu

/-- The clamps and `SET`s are told by the recorder only. -/
theorem flagEvents_frame (s : State) (c f : Nat) (x : Int) (n : Nat) : flagEvents s c f x n = { s with evr := (flagEvents s c f x n).evr } :=
  cond_raiseC_frame (cond_raiseC_frame (cond_raiseC_frame rfl _ _ _ _) _ _ _ _) _ _ _ _

@[simp] theorem flagEvents_sch (s : State) (c f : Nat) (x : Int) (n : Nat) : (flagEvents s c f x n).sch = s.sch := by rw [flagEvents_frame]
@[simp] theorem flagEvents_core (s : State) (c f : Nat) (x : Int) (n k : Nat) : (flagEvents s c f x n).core k = s.core k := by
  rw [flagEvents_frame]; rfl

/-! ### The effect on the state (R86, R87) -/

/-- Flag `f` of core `c` takes the value `v`, and the signals `l` remain on their way. -/
def takeSignals (s : State) (c f v : Nat) (l : List Signal) : State :=
  (s.mapSch fun k => { k with signals := l }).mapCore c fun k => { k with flags := fset k.flags 0 f v }

@[simp] theorem takeSignals_evr (s : State) (c f v : Nat) (l : List Signal) : (takeSignals s c f v l).evr = s.evr := rfl
@[simp] theorem takeSignals_sch (s : State) (c f v : Nat) (l : List Signal) : (takeSignals s c f v l).sch = { s.sch with signals := l } := rfl

theorem takeSignals_flagVal (s : State) (c f v : Nat) (l : List Signal) (h : Nat) :
    flagVal (takeSignals s c f v l) c h = if h = f then v else flagVal s c h := by
  unfold flagVal takeSignals
  rw [State.mapCore_core_same]
  exact fget_fset _ _ _ _ _

theorem takeSignals_otherCores (s : State) (c f v : Nat) (l : List Signal) : OtherCores s (takeSignals s c f v l) c := fun k hk =>
  State.mapCore_core_ne _ c k _ hk

/-- Holding a record does not read flags or signals. -/
theorem holdRec_takeSignals (s : State) (c f v : Nat) (l : List Signal) (r : EvRec) :
    holdRec (takeSignals s c f v l) r = takeSignals (holdRec s r) c f v l := by
  by_cases hroom : (fget s.evr.held [] r.node).length < 16
  · simp only [holdRec, takeSignals_evr, hroom, if_true]; rfl
  · by_cases hsev : minSev (fget s.evr.held [] r.node) < r.sev
    · simp only [holdRec, takeSignals_evr, hroom, hsev, if_true, if_false]; rfl
    · simp only [holdRec, takeSignals_evr, hroom, hsev, if_false]; rfl

/-- The record that an event forms names neither flags nor signals (R530). -/
theorem raiseC_takeSignals (s : State) (c f v : Nat) (l : List Signal) (id k : Nat) (items : List Nat) :
    raiseC (takeSignals s c f v l) id k items = takeSignals (raiseC s id k items) c f v l := holdRec_takeSignals s c f v l _

theorem flagEvents_takeSignals (s : State) (c f v : Nat) (l : List Signal) (x : Int) (n : Nat) :
    flagEvents (takeSignals s c f v l) c f x n = takeSignals (flagEvents s c f x n) c f v l := by
  simp only [flagEvents, State.cond, raiseC_takeSignals, ← apply_ite fun u => takeSignals u c f v l]

/-- The clamped result of a combination. -/
def clampFlag (x : Int) : Nat := if x < 0 then 0 else min x.toNat 65535

theorem clampFlag_eq (x : Int) : clampFlag x = (max 0 (min x 65535)).toNat := by
  unfold clampFlag; split <;> omega

/-- The signals of one S-cycle, combined: their events, and the flag at the clamped result (R87, R88). -/
theorem flagApply_eq (s : State) (c f d : Nat) :
    let gs := s.sch.signals.filter fun g => g.core == c && g.flag == f && g.due == d
    let x := flagCombine (flagVal s c f) gs
    flagApply s c f d = takeSignals (flagEvents s c f x (gs.filter fun g => g.op == 3).length) c f (clampFlag x)
      (s.sch.signals.filter fun g => !(g.core == c && g.flag == f && g.due == d)) :=
  flagEvents_takeSignals ..

/-- The limit of R302 drops nothing while at most 16 signals come from other cores. -/
theorem dropInbound_le {s : State} {c d : Nat} (h : (s.sch.signals.filter fun g => g.core == c && g.due == d && g.srcCore != c).length ≤ 16) :
    dropInbound s c d = s := by
  have hbad : (sigSort (s.sch.signals.filter fun g => g.core == c && g.due == d && g.srcCore != c)).drop 16 = [] :=
    List.drop_eq_nil_of_le ((sigSort_perm _).length_eq.trans_le h)
  simp [dropInbound, hbad]

theorem firstDue_of_due {gs : List Signal} {d : Nat} (hne : gs ≠ []) (h : ∀ g ∈ gs, g.due = d) : firstDue gs = some d := by
  obtain ⟨g, r, rfl⟩ := List.exists_cons_of_ne_nil hne
  obtain ⟨rfl, hr⟩ := List.forall_mem_cons.1 h
  exact List.foldlRecOn (motive := (· = some g.due)) r _ rfl fun b hb x hx => by simp [hb, hr x hx]

/-- Whether a signal takes effect on flag `f` of core `c` by now. -/
def dueOn (s : State) (c f : Nat) (g : Signal) : Bool := g.core == c && g.flag == f && decide (g.due ≤ s.sch.sCycle)

theorem flagEffect_of_none {s : State} {c f : Nat} (h : s.sch.signals.filter (dueOn s c f) = []) (n : Nat) : flagEffect s c f n = s := by
  unfold dueOn at h
  cases n with
  | zero => rfl
  | succ n => simp [flagEffect, h, firstDue]

theorem flagEffect_succ {s : State} {c f d : Nat} (h : firstDue (s.sch.signals.filter (dueOn s c f)) = some d) (n : Nat) :
    flagEffect s c f (n + 1) = flagEffect (flagApply (dropInbound s c d) c f d) c f n := by
  unfold dueOn at h
  simp only [flagEffect, h]

/-- Where all due signals of a flag are due in S-cycle `d`, they are those of `d`. -/
theorem dueOn_of_due {s : State} {c f d : Nat} (hnow : d ≤ s.sch.sCycle) (hd : ∀ g ∈ s.sch.signals.filter (dueOn s c f), g.due = d)
    {g : Signal} (hg : g ∈ s.sch.signals) : (g.core == c && g.flag == f && g.due == d) = dueOn s c f g := by
  cases hdue : dueOn s c f g with
  | true =>
    have hgd := hd g (List.mem_filter.2 ⟨hg, hdue⟩)
    simp only [dueOn, Bool.and_eq_true] at hdue
    simp [hdue.1, hgd]
  | false =>
    rw [Bool.eq_false_iff] at hdue ⊢
    simp only [ne_eq, dueOn, Bool.and_eq_true, beq_iff_eq, decide_eq_true_eq] at hdue ⊢
    exact fun ⟨hflag, hgd⟩ => hdue ⟨hflag, hgd.trans_le hnow⟩

/-- Signals of one S-cycle take effect together, and none is left (R87). -/
theorem flagEffect_of_due {s : State} {c f d : Nat} {gs : List Signal} {x : Int} (hgs : s.sch.signals.filter (dueOn s c f) = gs)
    (hx : flagCombine (flagVal s c f) gs = x) (hne : gs ≠ []) (hd : ∀ g ∈ gs, g.due = d)
    (hin : (s.sch.signals.filter fun g => g.core == c && g.due == d && g.srcCore != c).length ≤ 16) :
    flagEffect s c f s.sch.signals.length = takeSignals (flagEvents s c f x (gs.filter fun g => g.op == 3).length) c f (clampFlag x)
      (s.sch.signals.filter fun g => !dueOn s c f g) := by
  subst hgs hx
  obtain ⟨g, hg⟩ := List.exists_mem_of_ne_nil _ hne
  obtain ⟨hmem, hdue⟩ := List.mem_filter.1 hg
  have hnow : d ≤ s.sch.sCycle := by
    simp only [dueOn, Bool.and_eq_true, decide_eq_true_eq] at hdue
    exact hd g hg ▸ hdue.2
  obtain ⟨n, hn⟩ := Nat.exists_eq_succ_of_ne_zero (List.length_pos_of_mem hmem).ne'
  rw [hn, flagEffect_succ (firstDue_of_due hne hd), dropInbound_le hin, flagApply_eq,
    List.filter_congr fun g hg => dueOn_of_due hnow hd hg, List.filter_congr fun g hg => congrArg (! ·) (dueOn_of_due hnow hd hg)]
  exact flagEffect_of_none (by simp [dueOn]) n

theorem exec_flagSignalEffect (c : CoreId) (f : Fin 64) (s : State) :
    exec (.flagSignalEffect c f) s = .next (flagEffect s c.val f.val s.sch.signals.length) := rfl

/-- The combination from the base that the statement names: the flag where no signal is a `SET`, else the first `SET` (R87). -/
theorem flagCombine_of_base {gs : List Signal} {v base : Nat} (heng : ∀ g ∈ gs, g.srcEng ≤ 16)
    (hbase : (∀ g ∈ gs, g.op ≠ 3) ∧ base = v ∨ ∃ g, (g ∈ gs ∧ g.op = 3 ∧
      ∀ h ∈ gs, h.op = 3 → h = g ∨ g.srcCore < h.srcCore ∨ (g.srcCore = h.srcCore ∧ g.srcEng < h.srcEng)) ∧ base = g.value) :
    flagCombine v gs = base + opSum 1 gs - opSum 2 gs := by
  rcases hbase with ⟨hno, rfl⟩ | ⟨g, ⟨hg, hop, hfirst⟩, rfl⟩
  · exact flagCombine_of_no_set _ hno
  · exact flagCombine_of_set v hg hop fun h hh hh3 => (hfirst h hh hh3).imp_right (sigKey_lt (heng g hg))

/-- Settles O11: the first due S-cycle takes all the signals, and their fold in source order is the base with the sums. -/
theorem signalsReachFlags : Obligations.SignalsReachFlags := by
  unfold Obligations.SignalsReachFlags
  intro c f s mine gs sum first hne heng hdue hin base hbase x two
  obtain ⟨g, hg⟩ := List.exists_mem_of_ne_nil gs hne
  have heff := flagEffect_of_due (s := s) (c := c) (f := f) rfl (flagCombine_of_base heng hbase) hne (fun h hh => hdue h hh g hg) (hin g hg)
  refine ⟨_, (exec_flagSignalEffect c f s).trans (congrArg _ heff), ?_, ?_, fun h hh => ?_, fun k hk => ?_, ?_, ?_⟩
  · rw [takeSignals_sch, flagEvents_sch]; rfl
  · rw [takeSignals_flagVal, if_pos rfl, clampFlag_eq]; rfl
  · rw [takeSignals_flagVal, if_neg hh, flagVal, flagEvents_core]; rfl
  · rw [takeSignals_otherCores _ _ _ _ _ k hk, flagEvents_core]
  · rw [flagEvents_frame]; rfl
  · rw [takeSignals_evr, flagEvents_eq]; rfl

end Sys2Proof.Machine

/-! PROOFS. Writes to a core's own scratchpad (R280, R282), and what a verify accepts, stores and hands over (R247, R248). -/

namespace Sys2Proof.Machine

/-! ### Writes to a core's own scratchpad (R280, R282) -/

/-- A range each of whose bytes lies in a segment that is on, of a memory of whole segments. -/
theorem segRangeOn_of_segOn {mask : BitVec 8} {size a n : Nat} (hsize : 8 ∣ size)
    (hon : ∀ j, j < n → segOn mask (segOf size (a + j)) = true) : segRangeOn mask size a n = true := by
  obtain ⟨seg, rfl⟩ := hsize
  simp only [segRangeOn, List.all_eq_true, List.mem_range, Nat.mul_div_cancel_left seg (by decide : 0 < 8), Bool.or_eq_true, decide_eq_true_eq,
    beq_iff_eq]
  intro i _
  by_contra! hout
  obtain ⟨⟨⟨hoff, hbelow⟩, habove⟩, hn⟩ := hout
  have hseg : 0 < seg := Nat.pos_of_ne_zero (by rintro rfl; simp at habove)
  have hnext : (i + 1) * seg = i * seg + seg := Nat.succ_mul i seg
  -- the first byte of the range that lies in segment `i`
  have hfirst : segOf (8 * seg) (a + (i * seg - a)) = i := by
    unfold segOf
    rw [Nat.mul_comm 8 seg, Nat.mul_div_mul_right _ _ (by decide)]
    exact Nat.div_eq_of_lt_le (by omega) (by omega)
  exact hoff (hfirst ▸ hon (i * seg - a) (by omega))

theorem spadBytes_segments (c : Nat) : 8 ∣ spadBytes c := by
  unfold spadBytes; split <;> decide

section
variable {s t u : State} {c a i : Nat} {r : RunOp} {bs : List Byte}

/-- A result written to an operand of the core's own scratchpad stands there, and every other byte stays (R79). -/
theorem fxPut_stores (h : OwnSpad s c r i a bs.length) : Stores s (fxPut s (operand s c r.item.desc i) 0 bs) c a bs := by
  obtain ⟨x, hx, hloc, rfl, -, hpresent, hon⟩ := h
  have hput : fxPut s (operand s c r.item.desc i) 0 bs = (spadWrite s c x.a bs).1 := by
    simp [fxPut, hx, opWrite, hloc, hpresent]
  rw [hput]
  exact (spadWrite_stores c x.a bs (segRangeOn_of_segOn (spadBytes_segments c) hon)).1

/-- An operand of the core's own scratchpad holds a result of its length. -/
theorem OwnSpad.fits {n : Nat} (h : OwnSpad s c r i a n) : fits (operand s c r.item.desc i) n = true := by
  obtain ⟨x, hx, -, -, hn, -⟩ := h
  simp [Machine.fits, hx, hn]

/-- What follows a store and leaves the scratchpad leaves what is stored. -/
theorem Stores.of_spad (h : Stores s t c a bs) (hu : (u.core c).spad = (t.core c).spad) : Stores s u c a bs := by
  unfold Stores; rw [hu]; exact h

/-- Marking an effect as performed leaves the scratchpad. -/
@[simp] theorem opDone_spad (e o : Nat) : ((opDone s c e o).core c).spad = (s.core c).spad := by simp [opDone, opDoneSt]

end

/-! ### Words in rows of 32-bit elements (R112) -/

theorem elemCode_int32_lt (rd : Nat → Byte) (i : Nat) : elemCode rd 4 i < 2 ^ 32 := Nat.mod_lt _ (by decide)

section
variable {s : State} {x : Option Opnd} {stride row n : Nat}

theorem rowCodes_int32_lt {v : Nat} (h : v ∈ rowCodes s x 4 stride row n) : v < 2 ^ 32 := by
  cases x with
  | none => cases h
  | some x =>
    obtain ⟨i, -, rfl⟩ := List.mem_map.1 h
    exact elemCode_int32_lt _ i

theorem rowCodes_length_le (f : Nat) : (rowCodes s x f stride row n).length ≤ n := by
  cases x <;> simp [rowCodes]

/-- The row of an operand that holds some bytes has its elements: such an operand is not absent (R79). -/
theorem rowCodes_length {m f : Nat} (hfits : fits x m = true) (hm : m ≠ 0) : (rowCodes s x f stride row n).length = n := by
  cases x with
  | none => simp [fits, hm] at hfits
  | some x => simp [rowCodes]

end

/-! ### The accepted prefix (R247) -/

theorem getD_lt_of_forall_mem {l : List Nat} {m : Nat} (h : ∀ v ∈ l, v < m) (hm : 0 < m) (i : Nat) : l.getD i 0 < m := by
  rw [List.getD_eq_getElem?_getD]
  cases hi : l[i]? with
  | none => exact hm
  | some v => exact h v (List.mem_of_getElem? hi)

theorem take_append_replicate_eq_map {α : Type} (l : List α) {n : Nat} (hn : n ≤ l.length) (d x : α) :
    l.take n ++ List.replicate (l.length - n) x = (List.range l.length).map fun i => if i < n then l.getD i d else x := by
  refine List.ext_getElem (by simp; omega) fun i h _ => ?_
  by_cases hi : i < n
  · have hil : i < l.length := hi.trans_le hn
    simp [List.getElem_append_left, hi, hil]
  · rw [List.getElem_append_right (by simp; omega)]
    simp [hi]

theorem acceptLen_le_length (ds ts : List (BitVec 32)) : acceptLen ds ts ≤ ds.length := by
  induction ds generalizing ts with
  | nil => exact le_rfl
  | cons d ds ih =>
    cases ts with
    | nil => exact Nat.zero_le _
    | cons t ts =>
      by_cases h : d = t
      · simpa [acceptLen, h] using ih ts
      · simp [acceptLen, h]

/-- Drafts and targets agree in the accepted prefix. -/
theorem getElem?_eq_of_lt_acceptLen {ds ts : List (BitVec 32)} {i : Nat} (hi : i < acceptLen ds ts) : ds[i]? = ts[i]? := by
  induction ds generalizing ts i with
  | nil => simp [acceptLen] at hi
  | cons d ds ih =>
    cases ts with
    | nil => simp [acceptLen] at hi
    | cons t ts =>
      by_cases h : d = t
      · cases i with
        | zero => simp [h]
        | succ i => simpa using ih (by simpa [acceptLen, h] using hi)
      · simp [acceptLen, h] at hi

/-- No longer prefix agrees: the draft behind the accepted ones is not the target there. -/
theorem getElem?_acceptLen_ne {ds ts : List (BitVec 32)} (hd : acceptLen ds ts < ds.length) : ds[acceptLen ds ts]? ≠ ts[acceptLen ds ts]? := by
  induction ds generalizing ts with
  | nil => simp at hd
  | cons d ds ih =>
    cases ts with
    | nil => simp [acceptLen]
    | cons t ts =>
      by_cases h : d = t
      · simpa [acceptLen, h] using ih (by simpa [acceptLen, h] using hd)
      · simp [acceptLen, h]

/-- Codes of 32 bits are equal where their words are. -/
theorem getElem?_eq_of_map_ofNat {ds ts : List Nat} {i : Nat} (hds : ∀ v ∈ ds, v < 2 ^ 32) (hts : ∀ v ∈ ts, v < 2 ^ 32)
    (h : (ds.map (BitVec.ofNat 32))[i]? = (ts.map (BitVec.ofNat 32))[i]?) : ds[i]? = ts[i]? := by
  rw [List.getElem?_map, List.getElem?_map] at h
  cases hd : ds[i]? with
  | none => simpa [hd, eq_comm] using h
  | some x =>
    cases ht : ts[i]? with
    | none => simp [hd, ht] at h
    | some y =>
      have hxy : BitVec.ofNat 32 x = BitVec.ofNat 32 y := by simpa [hd, ht] using h
      have hmod := congrArg BitVec.toNat hxy
      rw [BitVec.toNat_ofNat, BitVec.toNat_ofNat, Nat.mod_eq_of_lt (hds x (List.mem_of_getElem? hd)),
        Nat.mod_eq_of_lt (hts y (List.mem_of_getElem? ht))] at hmod
      rw [hmod]

/-! ### The result and the commit of a verify (R247, R248) -/

/-- The codes of the `k` draft tokens of a verify (R246). -/
def verifyDrafts (s : State) (c : Nat) (r : RunOp) : List Nat := rowCodes s (operand s c r.item.desc 0) 4 0 0 (dP r.item.desc 63 61)

/-- The codes of the `k + 1` target tokens of a verify (R246). -/
def verifyTargets (s : State) (c : Nat) (r : RunOp) : List Nat := rowCodes s (operand s c r.item.desc 1) 4 0 0 (dP r.item.desc 63 61 + 1)

/-- The number of tokens that a verify commits (R247). -/
def verifyCount (s : State) (c : Nat) (r : RunOp) : Nat :=
  acceptLen ((verifyDrafts s c r).map (BitVec.ofNat 32)) ((verifyTargets s c r).map (BitVec.ofNat 32)) + 1

/-- The bytes that a verify of `n` committed tokens writes for its targets: the count, the committed tokens, and 0xFFFF_FFFF behind them (R247). -/
def verifyBytes (n : Nat) (target : List Nat) : List Byte :=
  leBytes 4 n ++ ((List.range target.length).map fun i => leBytes 4 (if i < n then target.getD i 0 else 0xFFFFFFFF)).flatten

/-- Words of tokens in memory order: the model's packing is that of `verifyBytes`. -/
theorem flatMap_leBytes_eq_verifyBytes {n : Nat} {target : List Nat} (htarget : ∀ v ∈ target, v < 2 ^ 32) (hn : n ≤ target.length) (hn32 : n < 2 ^ 32) :
    ((BitVec.ofNat 32 n :: ((target.map (BitVec.ofNat 32)).take n ++ List.replicate (target.length - n) 0xFFFFFFFF#32)).flatMap
      fun x => leBytes 4 x.toNat) = verifyBytes n target := by
  have hfill : (0xFFFFFFFF#32) = BitVec.ofNat 32 0xFFFFFFFF := rfl
  rw [List.flatMap_cons, BitVec.toNat_ofNat, Nat.mod_eq_of_lt hn32, hfill, ← List.map_take, ← List.map_replicate, ← List.map_append,
    take_append_replicate_eq_map _ hn 0, List.flatMap_def, List.map_map, List.map_map, verifyBytes]
  refine congrArg (leBytes 4 n ++ ·.flatten) (List.map_congr_left fun i _ => ?_)
  have hword : (if i < n then target.getD i 0 else 0xFFFFFFFF) < 2 ^ 32 := by
    split
    · exact getD_lt_of_forall_mem htarget (by decide) i
    · decide
  exact congrArg (leBytes 4) ((BitVec.toNat_ofNat ..).trans (Nat.mod_eq_of_lt hword))

theorem verifyBytes_length (n : Nat) (target : List Nat) : (verifyBytes n target).length = 4 * target.length + 4 := by
  rw [verifyBytes, List.length_append, leBytes_length, flatten_length_of (n := 4) (by simp), List.length_map, List.length_range]
  omega

section
variable {s : State} {c : Nat} {r : RunOp}

theorem verifyDrafts_lt : ∀ v ∈ verifyDrafts s c r, v < 2 ^ 32 := fun _ => rowCodes_int32_lt

theorem verifyTargets_lt : ∀ v ∈ verifyTargets s c r, v < 2 ^ 32 := fun _ => rowCodes_int32_lt

theorem verifyDrafts_length_le : (verifyDrafts s c r).length ≤ dP r.item.desc 63 61 := rowCodes_length_le 4

theorem verifyTargets_length (hfits : fits (operand s c r.item.desc 1) (4 * dP r.item.desc 63 61 + 4) = true) :
    (verifyTargets s c r).length = dP r.item.desc 63 61 + 1 := rowCodes_length hfits (Nat.succ_ne_zero _)

theorem verifyCount_le : verifyCount s c r ≤ dP r.item.desc 63 61 + 1 :=
  Nat.succ_le_succ ((acceptLen_le_length _ _).trans (by simpa using verifyDrafts_length_le))

/-- Up to the last committed token, drafts and targets agree (R247). -/
theorem verifyDrafts_eq_verifyTargets {i : Nat} (hi : i + 1 < verifyCount s c r) : (verifyDrafts s c r).getD i 0 = (verifyTargets s c r).getD i 0 := by
  have heq := getElem?_eq_of_map_ofNat verifyDrafts_lt verifyTargets_lt (getElem?_eq_of_lt_acceptLen (Nat.succ_lt_succ_iff.1 hi))
  rw [List.getD_eq_getElem?_getD, heq, List.getD_eq_getElem?_getD]

/-- A verify that does not commit all its targets ends its prefix at a draft that differs (R247). -/
theorem verifyDrafts_ne_verifyTargets (hdrafts : fits (operand s c r.item.desc 0) (4 * dP r.item.desc 63 61) = true)
    (htargets : fits (operand s c r.item.desc 1) (4 * dP r.item.desc 63 61 + 4) = true) (hn : verifyCount s c r ≤ dP r.item.desc 63 61) :
    (verifyDrafts s c r).getD (verifyCount s c r - 1) 0 ≠ (verifyTargets s c r).getD (verifyCount s c r - 1) 0 := by
  intro heq
  have hpos : 0 < verifyCount s c r := Nat.succ_pos _
  have hlen : (verifyDrafts s c r).length = dP r.item.desc 63 61 := rowCodes_length hdrafts (by omega)
  have hd : verifyCount s c r - 1 < (verifyDrafts s c r).length := by omega
  have ht : verifyCount s c r - 1 < (verifyTargets s c r).length := by rw [verifyTargets_length htargets]; omega
  rw [List.getD_eq_getElem _ _ hd, List.getD_eq_getElem _ _ ht] at heq
  have hsame : ((verifyDrafts s c r).map (BitVec.ofNat 32))[verifyCount s c r - 1]? =
      ((verifyTargets s c r).map (BitVec.ofNat 32))[verifyCount s c r - 1]? := by
    rw [List.getElem?_map, List.getElem?_map, List.getElem?_eq_getElem hd, List.getElem?_eq_getElem ht, heq]
  exact getElem?_acceptLen_ne (hd.trans_eq (List.length_map _).symm) hsame

/-- A verify whose fields are allowed and whose operands hold it has a defined result (R79, R248). -/
theorem verifyBad_eq_false (hres : dReserved r.item.desc = false) (hparam : dP r.item.desc 59 0 = 0)
    (hdrafts : fits (operand s c r.item.desc 0) (4 * dP r.item.desc 63 61) = true)
    (htargets : fits (operand s c r.item.desc 1) (4 * dP r.item.desc 63 61 + 4) = true)
    (hdst : fits (operand s c r.item.desc 3) (4 * dP r.item.desc 63 61 + 8) = true) : verifyBad s c r = false := by
  simp [verifyBad, hres, hparam, hdrafts, htargets, hdst]

theorem verifyOp_of_not_bad (h : verifyBad s c r = false) : verifyOp c r s = verifyPut s c r s := by simp [verifyOp, h]

/-- The result of a verify goes to its destination, and then the commit, if it has one (R247, R248). -/
theorem verifyPut_eq (htargets : fits (operand s c r.item.desc 1) (4 * dP r.item.desc 63 61 + 4) = true) :
    verifyPut s c r s = (fxPut s (operand s c r.item.desc 3) 0 (verifyBytes (verifyCount s c r) (verifyTargets s c r))).cond (dPb r.item.desc 60)
      fun u => verifyCommit u c r (dP r.item.desc 63 61) (((verifyTargets s c r).take (verifyCount s c r)).map (BitVec.ofNat 32)) := by
  have hlen := verifyTargets_length htargets
  have hk : dP r.item.desc 63 61 < 2 ^ 3 := Nat.mod_lt _ (by decide)
  have hn := verifyCount_le (s := s) (c := c) (r := r)
  rw [← flatMap_leBytes_eq_verifyBytes verifyTargets_lt (hlen ▸ hn) (by omega), hlen, List.map_take]
  rfl

/-- A commit changes no core (R248). -/
theorem verifyCommit_core (k i : Nat) (toks : List (BitVec 32)) : (verifyCommit s c r k toks).core i = s.core i := by
  unfold verifyCommit
  dsimp only
  split
  · simp [State.core]
  · rfl

/-- The commit role hands over a slot's first commit of the step; what went before left the device's image and the serving state (R56, R248). -/
theorem verifyCommit_commits {u : State} {k n : Nat} {toks : List (BitVec 32)} (hdev : u.dev = s.dev) (hsrv : u.srv = s.srv)
    (hrole : commitRole s = true) (hslot : dSlot r.item.desc < 128) (hfirst : (s.srv.commits.any fun x => x.slot == dSlot r.item.desc) = false)
    (hn : toks.length = n) : (verifyCommit u c r k toks).srv.commits = s.srv.commits ++ [{ slot := dSlot r.item.desc, n := n, k := k, toks := toks }] := by
  subst hn
  have hurole : commitRole u = true := by rw [← hrole, commitRole, commitRole, hdev]
  rw [← hsrv] at hfirst ⊢
  rw [verifyCommit, if_neg (by simp [hurole, hslot, hfirst])]
  rfl

end

theorem exec_verify {c : CoreId} {s : State} {r : RunOp} (h : Performs s c.val 11 0x90 r) :
    exec (.verify c) s = .next (opDone (verifyOp c.val r s) c.val 11 0x90) := congrArg _ (withOp_some s c.val 11 0x90 (verifyOp c.val) r h)

/-- Settles O24: the count is one more than the longest common prefix, its bytes stand in the destination, and only the commit touches the serving state. -/
theorem verifyAcceptsPrefix : Obligations.VerifyAcceptsPrefix := by
  unfold Obligations.VerifyAcceptsPrefix
  intro c s r a hperf d k draft target hres hparam hdrafts htargets hown
  have hlen : target.length = k + 1 := verifyTargets_length htargets
  have hn : verifyCount s c.val r ≤ k + 1 := verifyCount_le
  have hop := (verifyOp_of_not_bad (verifyBad_eq_false hres hparam hdrafts htargets hown.fits)).trans (verifyPut_eq htargets)
  refine ⟨_, verifyCount s c.val r, exec_verify hperf, Nat.succ_pos _, hn, fun i => verifyDrafts_eq_verifyTargets,
    verifyDrafts_ne_verifyTargets hdrafts htargets, ?stores, fun (hcommit : dPb r.item.desc 60 = true) hrole hslot hfirst => ?commits,
    fun (hcommit : dPb r.item.desc 60 = false) => ?keeps⟩
  case stores =>
    have hput := fxPut_stores (bs := verifyBytes (verifyCount s c.val r) target) (by rw [verifyBytes_length, hlen]; exact hown)
    rw [← hlen]
    refine hput.of_spad ?_
    rw [opDone_spad, hop]
    exact congrArg Core.spad (State.cond_keeps _ (fun u => u.core c.val = _) _ _ (fun _ => verifyCommit_core ..) rfl)
  case commits =>
    have htoks : ((target.take (verifyCount s c.val r)).map (BitVec.ofNat 32)).length = verifyCount s c.val r := by simp [hlen, hn]
    rw [opDone_srv, hop, hcommit, State.cond_true]
    exact verifyCommit_commits (fxPut_dev ..) (fxPut_srv ..) hrole hslot hfirst htoks
  case keeps =>
    rw [opDone_srv, hop, hcommit, State.cond_false, fxPut_srv]

end Sys2Proof.Machine

section
/-! PROOFS. The waiting commands and the measurement log (O1 to O4). What only a measurement changes is the account of a state; every operation but those
that measure leaves it, and a measurement adds its entry to the log and its digest to its register. -/
namespace Sys2Proof.Machine

/-! ### The account, and the operations that leave it -/

/-- What only a measurement changes: the waiting commands, the measurement registers and their log (R508, R510). -/
structure Account where
  pending : List Instr
  mr : FMap (List Byte)
  log : List LogEntry
  logSeq : Nat

/-- A state's part of the account. -/
def State.acct (s : State) : Account := ⟨s.pending, s.tru.mr, s.tru.log, s.tru.logSeq⟩

@[simp] theorem acct_eta (s : State) : (⟨s.pending, s.tru.mr, s.tru.log, s.tru.logSeq⟩ : Account) = s.acct := rfl

@[simp] theorem acct_mk (pending free pins dev sch cores pools beds fab wts srv trib mgm pwr rep tru gau evr inp dbg) :
    (State.mk pending free pins dev sch cores pools beds fab wts srv trib mgm pwr rep tru gau evr inp dbg).acct = ⟨pending, tru.mr, tru.log, tru.logSeq⟩ := rfl

theorem acct_of {s t : State} (hp : t.pending = s.pending) (ht : t.tru = s.tru) : t.acct = s.acct := by rw [State.acct, hp, ht]; rfl

@[simp] theorem acct_ite (c : Prop) [Decidable c] (s t : State) : (if c then s else t).acct = if c then s.acct else t.acct := by
  split <;> rfl

@[simp] theorem foldl_acct {α : Type} (f : State → α → State) (l : List α) (s : State) (h : ∀ s x, (f s x).acct = s.acct) : (l.foldl f s).acct = s.acct :=
  List.foldlRecOn (motive := fun t => t.acct = s.acct) l f rfl fun t ht x _ => (h t x).trans ht

@[simp] theorem each_acct {α : Type} (f : State → α → State) (l : List α) (s : State) (h : ∀ s x, (f s x).acct = s.acct) : (s.each l f).acct = s.acct :=
  foldl_acct f l s h

@[simp] theorem cond_acct (b : Bool) (f : State → State) (s : State) (h : (f s).acct = s.acct) : (s.cond b f).acct = s.acct := by
  cases b <;> simp [h]

@[simp] theorem acct_fst_ite {α : Type} (c : Prop) [Decidable c] (x y : State × α) : (if c then x else y).1.acct = if c then x.1.acct else y.1.acct := by
  split <;> rfl

@[simp] theorem acct_snd_ite {α : Type} (c : Prop) [Decidable c] (x y : α × State) : (if c then x else y).2.acct = if c then x.2.acct else y.2.acct := by
  split <;> rfl

@[simp] theorem State.mapCore_acct (s : State) (c : Nat) (f : Core → Core) : (State.mapCore s c f).acct = s.acct := acct_of (by simp) (by simp)

@[simp] theorem State.mapArr_acct (s : State) (c a : Nat) (f : MxArray → MxArray) : (State.mapArr s c a f).acct = s.acct := acct_of (by simp) (by simp)

@[simp] theorem State.mapPool_acct (s : State) (cl : Nat) (f : Pool → Pool) : (State.mapPool s cl f).acct = s.acct := acct_of (by simp) (by simp)

@[simp] theorem State.mapLink_acct (s : State) (l : Nat) (f : Link → Link) : (State.mapLink s l f).acct = s.acct := acct_of (by simp) (by simp)

@[simp] theorem State.mapSlot_acct (s : State) (i : Nat) (f : Slot → Slot) : (State.mapSlot s i f).acct = s.acct := acct_of (by simp) (by simp)

@[simp] theorem State.mapCmt_acct (s : State) (i : Nat) (f : CommitSt → CommitSt) : (State.mapCmt s i f).acct = s.acct := acct_of (by simp) (by simp)

@[simp] theorem State.mapAdap_acct (s : State) (i : Nat) (f : Adapter → Adapter) : (State.mapAdap s i f).acct = s.acct := acct_of (by simp) (by simp)

@[simp] theorem State.mapHart_acct (s : State) (h : Nat) (f : Hart → Hart) : (State.mapHart s h f).acct = s.acct := acct_of (by simp) (by simp)

@[simp] theorem State.mapSrc_acct (s : State) (i : Nat) (f : ISrc → ISrc) : (State.mapSrc s i f).acct = s.acct := acct_of (by simp) (by simp)

@[simp] theorem State.mapMon_acct (s : State) (m : Nat) (f : Monitor → Monitor) : (State.mapMon s m f).acct = s.acct := acct_of (by simp) (by simp)

@[simp] theorem State.mapSch_acct (s : State) (f : Sched → Sched) : (State.mapSch s f).acct = s.acct := acct_of (by simp) (by simp)

@[simp] theorem State.mapFab_acct (s : State) (f : Fabric → Fabric) : (State.mapFab s f).acct = s.acct := acct_of (by simp) (by simp)

@[simp] theorem State.mapWts_acct (s : State) (f : Weights → Weights) : (State.mapWts s f).acct = s.acct := acct_of (by simp) (by simp)

@[simp] theorem State.mapSrv_acct (s : State) (f : Serving → Serving) : (State.mapSrv s f).acct = s.acct := acct_of (by simp) (by simp)

@[simp] theorem State.mapMgm_acct (s : State) (f : Mgmt → Mgmt) : (State.mapMgm s f).acct = s.acct := acct_of (by simp) (by simp)

@[simp] theorem State.mapPwr_acct (s : State) (f : Power → Power) : (State.mapPwr s f).acct = s.acct := acct_of (by simp) (by simp)

@[simp] theorem State.mapDev_acct (s : State) (f : Dev → Dev) : (State.mapDev s f).acct = s.acct := acct_of (by simp) (by simp)

@[simp] theorem State.mapBeds_acct (s : State) (f : Beds → Beds) : (State.mapBeds s f).acct = s.acct := acct_of (by simp) (by simp)

@[simp] theorem takeFree_acct (s : State) (n : Nat) : (takeFree s n).2.acct = s.acct := acct_of (by simp) (by simp)

@[simp] theorem takeFreeNat_acct (s : State) (w : Nat) : (takeFreeNat s w).2.acct = s.acct := acct_of (by simp) (by simp)

@[simp] theorem countDrop_acct (s : State) (v : Nat) : (countDrop s v).acct = s.acct := by simp [countDrop]

@[simp] theorem holdRec_acct (s : State) (r : EvRec) : (holdRec s r).acct = s.acct := acct_of (by simp) (by simp)

@[simp] theorem raise_acct (s : State) (id hint : Nat) (items : List Nat) : (raise s id hint items).acct = s.acct := acct_of (by simp) (by simp)

@[simp] theorem raiseAt_acct (s : State) (t id hint : Nat) (items : List Nat) : (raiseAt s t id hint items).acct = s.acct := acct_of (by simp) (by simp)

@[simp] theorem raiseC_acct (s : State) (id c : Nat) (items : List Nat) : (raiseC s id c items).acct = s.acct := acct_of (by simp) (by simp)

@[simp] theorem raiseE_acct (s : State) (id c e : Nat) (items : List Nat) : (raiseE s id c e items).acct = s.acct := acct_of (by simp) (by simp)

@[simp] theorem wfiWake_acct (s : State) (h : Nat) : (wfiWake s h).acct = s.acct := by simp [wfiWake]

@[simp] theorem wfiWakes_acct (s : State) : (wfiWakes s).acct = s.acct := by simp [wfiWakes]

@[simp] theorem pend_acct (s : State) (i : Nat) : (pend s i).acct = s.acct := acct_of (by simp) (by simp)

@[simp] theorem pendLine_acct (s : State) (g n : Nat) : (pendLine s g n).acct = s.acct := acct_of (by simp) (by simp)

@[simp] theorem feedPut_acct (s : State) (b : FeedBody) : (feedPut s b).acct = s.acct := by unfold feedPut; dsimp only; split <;> simp

@[simp] theorem addCause_acct (s : State) (n src : Nat) : (addCause s n src).acct = s.acct := acct_of (by simp) (by simp)

@[simp] theorem addCauseUntil_acct (s : State) (n src w : Nat) : (addCauseUntil s n src w).acct = s.acct := acct_of (by simp) (by simp)

@[simp] theorem holdFor_acct (s : State) (n src : Nat) (h : Option (Option Nat)) : (holdFor s n src h).acct = s.acct := acct_of (by simp) (by simp)

@[simp] theorem endCause_acct (s : State) (n src d : Nat) : (endCause s n src d).acct = s.acct := acct_of (by simp) (by simp)

@[simp] theorem dropCause_acct (s : State) (n : Nat) : (dropCause s n).acct = s.acct := acct_of (by simp) (by simp)

@[simp] theorem bedWrite_acct (s : State) (a : Nat) (bs : List Byte) : (bedWrite s a bs).acct = s.acct := acct_of (by simp) (by simp)

@[simp] theorem logWrite_acct (s : State) (off : Nat) (bs : List Byte) : (logWrite s off bs).acct = s.acct := acct_of (by simp) (by simp)

@[simp] theorem inpStop_acct (s : State) (st : Nat) : (inpStop s st).acct = s.acct := acct_of (by simp) (by simp)

@[simp] theorem setState0_acct (s : State) (n : DevState) : (setState0 s n).acct = s.acct := acct_of (by simp) (by simp)

@[simp] theorem enterSleep_acct (s : State) : (enterSleep s).acct = s.acct := acct_of (by simp) (by simp)

@[simp] theorem setState_acct (s : State) (n : DevState) : (setState s n).acct = s.acct := acct_of (by simp) (by simp)

@[simp] theorem freeze_acct (s : State) (id : Nat) : (freeze s id).acct = s.acct := acct_of (by simp) (by simp)

@[simp] theorem fatal_acct (s : State) (id hint : Nat) (items : List Nat) : (fatal s id hint items).acct = s.acct := acct_of (by simp) (by simp)

@[simp] theorem haltNext_acct (s : State) (id : Nat) : (haltNext s id).acct = s.acct := acct_of (by simp) (by simp)

@[simp] theorem spadWrite_acct (s : State) (c a : Nat) (bs : List Byte) : (spadWrite s c a bs).1.acct = s.acct := acct_of (by simp) (by simp)

@[simp] theorem poolWrite_acct (s : State) (cl a : Nat) (bs : List Byte) : (poolWrite s cl a bs).1.acct = s.acct := acct_of (by simp) (by simp)

@[simp] theorem bankWriteTo_acct (s : State) (c off : Nat) (bs : List Byte) (byOd : Bool) : (bankWriteTo s c off bs byOd).acct = s.acct :=
  acct_of (by simp) (by simp)

@[simp] theorem bankSwitch_acct (s : State) (c : Nat) : (bankSwitch s c).acct = s.acct := acct_of (by simp) (by simp)

@[simp] theorem setSticky_acct (s : State) (c : Nat) (f : BitVec 32) : (setSticky s c f).acct = s.acct := acct_of (by simp) (by simp)

@[simp] theorem respond_acct (s : State) (r : Resp) : (respond s r).acct = s.acct := acct_of (by simp) (by simp)

@[simp] theorem refuse_acct (s : State) (p : Path) (obj ab : Nat) : (refuse s p obj ab).acct = s.acct := acct_of (by simp) (by simp)

@[simp] theorem okResp_acct (s : State) (p : Path) (obj : Nat) : (okResp s p obj).acct = s.acct := acct_of (by simp) (by simp)

@[simp] theorem clamped_acct (s : State) (obj : Nat) : (clamped s obj).acct = s.acct := acct_of (by simp) (by simp)

@[simp] theorem setWaits_acct (s : State) (p : Path) (l : List Instr) : (setWaits s p l).acct = s.acct := by simp [setWaits]

@[simp] theorem odTake_acct (s : State) (p : Path) (i : Instr) (full now : State) (hf : full.acct = s.acct) (hn : now.acct = s.acct) :
    (odTake s p i full now).acct = s.acct :=
  by
  unfold odTake; split
  · exact hn
  · split
    · exact acct_of (by simp [setWaits]) (by simp [setWaits])
    · exact hf

@[simp] theorem odCmd_acct (s : State) (p : Path) (obj : Nat) (stOk : Bool) (chk : Nat) (act : State → State) (h : (act s).acct = s.acct) :
    (odCmd s p obj stOk chk act).acct = s.acct :=
  by
  simp [odCmd, h]

@[simp] theorem odReq_acct (s : State) (p : Path) (obj : Nat) (i : Instr) (now : State) (h : now.acct = s.acct) : (odReq s p obj i now).acct = s.acct := by
  simp [odReq, h]

@[simp] theorem stage_acct (s : State) (k : StageKind) : (stage s k).acct = s.acct := acct_of (by simp) (by simp)

@[simp] theorem opWrite_acct (s : State) (y : Opnd) (o : Nat) (bs : List Byte) (bk : Bool) (pl : List Nat) : (opWrite s y o bs bk pl).1.acct = s.acct := by
  unfold opWrite
  split <;> simp

@[simp] theorem opUndef_acct (s : State) (y : Option Opnd) : (opUndef s y).acct = s.acct := acct_of (by simp) (by simp)

@[simp] theorem issueOne_acct (s : State) (c eng at_ : Nat) (pl : List Nat) (g : Nat × Nat × Nat × Nat × Nat) : (issueOne s c eng at_ pl g).acct = s.acct :=
  acct_of (by simp) (by simp)

@[simp] theorem issueSignals_acct (s : State) (c eng at_ : Nat) (pl : List Nat) (d : Desc) : (issueSignals s c eng at_ pl d).acct = s.acct :=
  acct_of (by simp) (by simp)

@[simp] theorem dropInbound_acct (s : State) (c due : Nat) : (dropInbound s c due).acct = s.acct := by simp [dropInbound]

@[simp] theorem flagApply_acct (s : State) (c f due : Nat) : (flagApply s c f due).acct = s.acct := by simp [flagApply]

@[simp] theorem flagEffect_acct (s : State) (c f y : Nat) : (flagEffect s c f y).acct = s.acct := by fun_induction flagEffect <;> simp_all

@[simp] theorem flagsDue_acct (s : State) : (flagsDue s).acct = s.acct := by simp [flagsDue]

@[simp] theorem setSreg_acct (s : State) (c r : Nat) (v : BitVec 32) : (setSreg s c r v).acct = s.acct := acct_of (by simp) (by simp)

@[simp] theorem seqNext_acct (s : State) (c : Nat) (d : Desc) : (seqNext s c d).acct = s.acct := by simp [seqNext]

@[simp] theorem seqSkip_acct (s : State) (c : Nat) (d : Desc) : (seqSkip s c d).acct = s.acct := by simp [seqSkip]

@[simp] theorem seqHold_acct (s : State) (c : Nat) : (seqHold s c).acct = s.acct := by simp [seqHold]

@[simp] theorem undefSreg_acct (s : State) (c r : Nat) : (undefSreg s c r).acct = s.acct := acct_of (by simp) (by simp)

@[simp] theorem seqSli_acct (s : State) (c : Nat) (d : Desc) : (seqSli s c d).acct = s.acct := by simp [seqSli]

@[simp] theorem seqSalu_acct (s : State) (c : Nat) (d : Desc) : (seqSalu s c d).acct = s.acct := by
  unfold seqSalu
  dsimp only
  split <;> simp

@[simp] theorem seqSld_acct (s : State) (c : Nat) (d : Desc) : (seqSld s c d).acct = s.acct := by unfold seqSld; split <;> simp

@[simp] theorem seqSlotmask_acct (s : State) (c : Nat) (d : Desc) : (seqSlotmask s c d).acct = s.acct := by simp [seqSlotmask]

@[simp] theorem seqWeir_acct (s : State) (c : Nat) (d : Desc) : (seqWeir s c d).acct = s.acct := by simp [seqWeir]

@[simp] theorem seqBankarm_acct (s : State) (c : Nat) : (seqBankarm s c).acct = s.acct := by simp [seqBankarm]

@[simp] theorem seqEffect_acct (s : State) (c : Nat) (d : Desc) : (seqEffect s c d).acct = s.acct := by unfold seqEffect; split <;> simp

@[simp] theorem seqExec_acct (s : State) (c : Nat) (d : Desc) : (seqExec s c d).acct = s.acct := by simp [seqExec]

@[simp] theorem seqDispatch_acct (s : State) (c : Nat) (d : Desc) : (seqDispatch s c d).acct = s.acct := by simp [seqDispatch]

@[simp] theorem seqTurn_acct (s : State) (c : Nat) : (seqTurn s c).acct = s.acct := by unfold seqTurn; dsimp only; split <;> simp

@[simp] theorem seqOp_acct (s : State) (c o : Nat) : (seqOp s c o).acct = s.acct := by simp [seqOp]

@[simp] theorem engStart_acct (s : State) (c e : Nat) : (engStart s c e).acct = s.acct := by unfold engStart; split <;> simp

@[simp] theorem opDoneSt_acct (s : State) (c e : Nat) (o st : Nat) : (opDoneSt s c e o st).acct = s.acct := acct_of (by simp) (by simp)

@[simp] theorem opDone_acct (s : State) (c e o : Nat) : (opDone s c e o).acct = s.acct := acct_of (by simp) (by simp)

@[simp] theorem withOp_acct (s : State) (c e o : Nat) (f : RunOp → State → State) (h : ∀ r, (f r s).acct = s.acct) : (withOp s c e o f).acct = s.acct := by
  unfold withOp; split <;> simp [h]

@[simp] theorem setOp_acct (s : State) (c : Nat) (r : RunOp) (f : RunOp → RunOp) : (setOp s c r f).acct = s.acct := by simp [setOp]

@[simp] theorem engSreg_acct (s : State) (c : Nat) (r : RunOp) (rd : Nat) (v : BitVec 32) : (engSreg s c r rd v).acct = s.acct := acct_of (by simp) (by simp)

@[simp] theorem sealBank_acct (s : State) (c : Nat) (pl : List Nat) : (sealBank s c pl).1.acct = s.acct := acct_of (by simp) (by simp)

@[simp] theorem opFinish_acct (s : State) (c : Nat) (r : RunOp) : (opFinish s c r).acct = s.acct := by
  unfold opFinish; dsimp only
  split
  · split
    · split <;> simp
    · simp
  · rfl

@[simp] theorem engComplete_acct (s : State) (c e : Nat) : (engComplete s c e).acct = s.acct := by unfold engComplete; split <;> simp

@[simp] theorem outlierReport_acct (s : State) (c : Nat) (r : RunOp) (bad : Bool) : (outlierReport s c r bad).acct = s.acct := by
  simp [outlierReport]

@[simp] theorem undefTile_acct (s : State) (c ready : Nat) : (undefTile s c ready).2.acct = s.acct := by simp [undefTile]

@[simp] theorem stloadBegin_acct (c a : Nat) (r : RunOp) (s : State) : (stloadBegin c a r s).acct = s.acct := by simp [stloadBegin]

@[simp] theorem stloadPut_acct (src : State) (bad : Bool) (c a : Nat) (r : RunOp) (s : State) : (stloadPut src bad c a r s).acct = s.acct := by
  unfold stloadPut
  dsimp only
  split <;> simp

@[simp] theorem stloadOp_acct (c a : Nat) (r : RunOp) (s : State) : (stloadOp c a r s).acct = s.acct := by simp [stloadOp]

@[simp] theorem sndMissed_acct (s : State) (c a : Nat) : (sndMissed s c a).acct = s.acct := by simp [sndMissed]

@[simp] theorem sndloadBegin_acct (c a : Nat) (s : State) : (sndloadBegin c a s).acct = s.acct := by simp [sndloadBegin]

@[simp] theorem sndloadPut_acct (src : State) (bad : Bool) (c a : Nat) (r : RunOp) (s : State) : (sndloadPut src bad c a r s).acct = s.acct := by
  unfold sndloadPut
  dsimp only
  split <;> simp

@[simp] theorem sndloadOp_acct (c a : Nat) (r : RunOp) (s : State) : (sndloadOp c a r s).acct = s.acct := by simp [sndloadOp]

@[simp] theorem swapOp_acct (c a : Nat) (r : RunOp) (s : State) : (swapOp c a r s).acct = s.acct := by simp [swapOp]

@[simp] theorem freeRow_acct (s : State) : (freeRow s).2.acct = s.acct := by simp [freeRow]

@[simp] theorem streamFree_acct (c a : Nat) (r : RunOp) (isInt : Bool) (s : State) (i : Nat) : (streamFree c a r isInt s i).acct = s.acct := by
  simp [streamFree]

@[simp] theorem streamOne_acct (src : State) (t : Tile) (c a : Nat) (r : RunOp) (s : State) (i : Nat) : (streamOne src t c a r s i).acct = s.acct := by
  simp [streamOne]

@[simp] theorem captureRow_acct (src : State) (t : Tile) (c a : Nat) (r : RunOp) (s : State) (i : Nat) : (captureRow src t c a r s i).acct = s.acct := by
  unfold captureRow
  split <;> simp

@[simp] theorem captureFree_acct (c a : Nat) (r : RunOp) (s : State) (n : Nat) : (captureFree c a r s n).acct = s.acct := by
  simp [captureFree]

@[simp] theorem sampleStream_acct (s : State) (c a : Nat) (r : RunOp) (bad : Bool) (valid : List Nat) : (sampleStream s c a r bad valid).acct = s.acct := by
  simp [sampleStream]

@[simp] theorem streamBegin_acct (c a : Nat) (r : RunOp) (s : State) : (streamBegin c a r s).acct = s.acct := by simp [streamBegin]

@[simp] theorem streamOp_acct (c a : Nat) (r : RunOp) (s : State) : (streamOp c a r s).acct = s.acct := by simp [streamOp]

@[simp] theorem drainBegin_acct (c a : Nat) (r : RunOp) (s : State) : (drainBegin c a r s).acct = s.acct := by simp [drainBegin]

@[simp] theorem drainOne_acct (y : MxArray) (c : Nat) (r : RunOp) (s : State) (i : Nat) : (drainOne y c r s i).acct = s.acct := by
  unfold drainOne
  dsimp only
  split <;> simp

@[simp] theorem zeroRow_acct (c a : Nat) (s : State) (row : Nat) : (zeroRow c a s row).acct = s.acct := by simp [zeroRow]

@[simp] theorem drainZero_acct (c a : Nat) (d : Desc) (s : State) (i : Nat) : (drainZero c a d s i).acct = s.acct := by simp [drainZero]

@[simp] theorem drainOp_acct (c a : Nat) (r : RunOp) (s : State) : (drainOp c a r s).acct = s.acct := by simp [drainOp]

@[simp] theorem sndAlarm_acct (s : State) (c a e : Nat) : (sndAlarm s c a e).acct = s.acct := by simp [sndAlarm]

@[simp] theorem sndWindow_acct (s : State) (c a b : Nat) : (sndWindow s c a b).acct = s.acct := by simp [sndWindow]

@[simp] theorem sndEvaluate_acct (s : State) (c a : Nat) (cap : Capture) : (sndEvaluate s c a cap).acct = s.acct := by simp [sndEvaluate]

@[simp] theorem sndDue_acct (s : State) (c a : Nat) : (sndDue s c a).acct = s.acct := by unfold sndDue; split <;> simp

@[simp] theorem ternReport_acct (s : State) (c : Nat) (r : RunOp) (bad : Bool) : (ternReport s c r bad).acct = s.acct := by
  simp [ternReport]

@[simp] theorem vWrite_acct (src : State) (c : Nat) (r : RunOp) (v f : Nat) (lo n m : Nat) (new : List Byte) (s : State) :
    (vWrite src c r v f lo n m new s).acct = s.acct := by
  simp [vWrite]

@[simp] theorem mWrite_acct (src : State) (c : Nat) (d : Desc) (m lo : Nat) (bs : List Bool) (s : State) : (mWrite src c d m lo bs s).acct = s.acct := by
  simp [mWrite]

@[simp] theorem vUndef_acct (s : State) (c v : Nat) (f n : Nat) : (vUndef s c v f n).acct = s.acct := by simp [vUndef]

@[simp] theorem mUndef_acct (s : State) (c m n : Nat) : (mUndef s c m n).acct = s.acct := by simp [mUndef]

@[simp] theorem vFault_acct (s : State) (c : Nat) (r : RunOp) (badF badG : Bool) : (vFault s c r badF badG).acct = s.acct := by
  simp [vFault]

/-- What the parts of a vector operation leave. -/
structure VxDef.KeepsAcct (x : VxDef) : Prop where
  undef : ∀ c r s, (x.undef c r s).acct = s.acct
  part : ∀ src p c r s, (x.part src p c r s).acct = s.acct

@[simp] theorem VxDef.start_acct (y : VxDef) (c : Nat) (r : RunOp) (s : State) : (VxDef.start y c r s).acct = s.acct := by
  simp [VxDef.start]

theorem VxDef.op_acct {x : VxDef} (h : x.KeepsAcct) (c : Nat) (r : RunOp) (s : State) : (x.op c r s).acct = s.acct := by
  unfold VxDef.op; split
  · rw [h.undef]; simp
  · rw [h.part]; simp

@[simp] theorem vMap_acct (src : State) (p : VPart) (c : Nat) (r : RunOp) (f : Nat) (g : Core → Nat → NR) (s : State) : (vMap src p c r f g s).acct = s.acct := by
  simp [vMap]

@[simp] theorem vUndefD_acct (c : Nat) (r : RunOp) (s : State) : (vUndefD c r s).acct = s.acct := by simp [vUndefD]

@[simp] theorem vsetvlOp_acct (c : Nat) (r : RunOp) (s : State) : (vsetvlOp c r s).acct = s.acct := by simp [vsetvlOp]

@[simp] theorem fillFree_acct (s : State) (l : List (Option NR)) : (fillFree s l).2.acct = s.acct := by
  unfold fillFree
  refine List.foldlRecOn (motive := fun a : List NR × State => a.2.acct = s.acct) l _ rfl fun a h x _ => ?_
  split
  · exact h
  · simpa using h

@[simp] theorem vaccStart_acct (c : Nat) (r : RunOp) (s : State) : (vaccStart c r s).acct = s.acct := by simp [vaccStart]

@[simp] theorem vaccZero_acct (c : Nat) (r : RunOp) (s : State) (j : Nat) : (vaccZero c r s j).acct = s.acct := by simp [vaccZero]

@[simp] theorem vScales_acct (s : State) (c v lo : Nat) (sc : List Nat) : (vScales s c v lo sc).acct = s.acct := by simp [vScales]

@[simp] theorem vStoreReg_acct (src : State) (c : Nat) (r : RunOp) (y : Opnd) (s : State) (g : Nat) : (vStoreReg src c r y s g).acct = s.acct := by
  simp [vStoreReg]

@[simp] theorem fxPut_acct (s : State) (y : Option Opnd) (o : Nat) (bs : List Byte) : (fxPut s y o bs).acct = s.acct := acct_of (by simp) (by simp)

@[simp] theorem FxDef.start_acct (y : FxDef) (c : Nat) (r : RunOp) (s : State) : (FxDef.start y c r s).acct = s.acct := by
  unfold FxDef.start
  split <;> simp

theorem FxDef.op_acct {x : FxDef} (h : ∀ f c r s i, (x.unit f c r s i).acct = s.acct) (c : Nat) (r : RunOp) (s : State) : (x.op c r s).acct = s.acct := by
  unfold FxDef.op; split <;> simp [h]

@[simp] theorem gatherStart_acct (c : Nat) (r : RunOp) (s : State) : (gatherStart c r s).acct = s.acct := by
  unfold gatherStart
  split <;> simp

@[simp] theorem gatherOp_acct (c : Nat) (r : RunOp) (s : State) : (gatherOp c r s).acct = s.acct := by unfold gatherOp; split <;> simp

@[simp] theorem verifyCommit_acct (s : State) (c : Nat) (r : RunOp) (k : Nat) (toks : List (BitVec 32)) : (verifyCommit s c r k toks).acct = s.acct := by
  simp [verifyCommit]

@[simp] theorem verifyUndef_acct (c : Nat) (r : RunOp) (s : State) : (verifyUndef c r s).acct = s.acct := by simp [verifyUndef]

@[simp] theorem verifyPut_acct (src : State) (c : Nat) (r : RunOp) (s : State) : (verifyPut src c r s).acct = s.acct := by simp [verifyPut]

@[simp] theorem verifyOp_acct (c : Nat) (r : RunOp) (s : State) : (verifyOp c r s).acct = s.acct := by simp [verifyOp]

@[simp] theorem inpAdd_acct (s : State) (kind scyc : Nat) (data : List Byte) : (inpAdd s kind scyc data).acct = s.acct := acct_of (by simp) (by simp)

@[simp] theorem inpFlush_acct (s : State) (step : Nat) : (inpFlush s step).acct = s.acct := by simp [inpFlush]

@[simp] theorem inpStart_acct (s : State) : (inpStart s).acct = s.acct := by
  unfold inpStart; dsimp only
  split
  · simp
  · split <;> simp

@[simp] theorem mismatch_acct (s : State) (kind : Nat) : (mismatch s kind).acct = s.acct := acct_of (by simp) (by simp)

@[simp] theorem replayTake_acct (s : State) (p : InEntry → Bool) : (replayTake s p).2.acct = s.acct := by simp [replayTake]

@[simp] theorem replayStart_acct (s : State) : (replayStart s).acct = s.acct := by unfold replayStart; split <;> simp

@[simp] theorem raiseV_acct (s : State) (id : Nat) (items : List Nat) : (raiseV s id items).acct = s.acct := by simp [raiseV]

@[simp] theorem sendResp_acct (s : State) (bs : List Byte) : (sendResp s bs).acct = s.acct := by simp [sendResp]

@[simp] theorem respAdmitted_acct (s : State) (reqid slot start : Nat) : (respAdmitted s reqid slot start).acct = s.acct := by
  simp [respAdmitted]

@[simp] theorem respRefused_acct (s : State) (reqid status : Nat) : (respRefused s reqid status).acct = s.acct := by simp [respRefused]

@[simp] theorem respTokens_acct (s : State) (i idx : Nat) (toks : List (BitVec 32)) : (respTokens s i idx toks).acct = s.acct := by
  simp [respTokens]

@[simp] theorem respEnded_acct (s : State) (i status : Nat) : (respEnded s i status).acct = s.acct := by simp [respEnded]

@[simp] theorem slotEnd_acct (s : State) (i status : Nat) : (slotEnd s i status).acct = s.acct := by simp [slotEnd]

@[simp] theorem applyNibble_acct (s : State) (i n : Nat) : (applyNibble s i n).acct = s.acct := by
  unfold applyNibble; dsimp only
  split
  · simp
  · split <;> simp

@[simp] theorem applyReport_acct (s : State) (bs : List Byte) : (applyReport s bs).acct = s.acct := by simp [applyReport]

@[simp] theorem unpin_acct (s : State) (a : Nat) : (unpin s a).acct = s.acct := by simp [unpin]

@[simp] theorem slotTimed_acct (s : State) (i : Nat) : (slotTimed s i).acct = s.acct := by unfold slotTimed; dsimp only; split <;> simp

@[simp] theorem applyAdmit_acct (s : State) (r : List Byte) : (applyAdmit s r).acct = s.acct := by simp [applyAdmit]

@[simp] theorem adSettle_acct (s : State) : (adSettle s).acct = s.acct := by simp [adSettle]

@[simp] theorem passEnter_acct (s : State) (i : Nat) : (passEnter s i).acct = s.acct := by simp [passEnter]

@[simp] theorem markPark_acct (s : State) (i : Nat) : (markPark s i).acct = s.acct := by simp [markPark]

@[simp] theorem commitTimes_acct (s : State) (i : Nat) : (commitTimes s i).acct = s.acct := by simp [commitTimes]

@[simp] theorem commitOne_acct (a : State × List (Nat × Nat) × List (Nat × Nat)) (c : Commit1) : (commitOne a c).1.acct = a.1.acct := by
  unfold commitOne; dsimp only
  split
  · rfl
  · split <;> simp

@[simp] theorem commitApply_acct (s : State) : (commitApply s).acct = s.acct := by
  have hfold (l : List Commit1) (a : State × List (Nat × Nat) × List (Nat × Nat)) : (l.foldl commitOne a).1.acct = a.1.acct :=
    List.foldlRecOn (motive := fun b => b.1.acct = a.1.acct) l _ rfl fun b h x _ => (commitOne_acct b x).trans h
  unfold commitApply; dsimp only
  split
  · split <;> simp [hfold]
  · simp

@[simp] theorem queueChange_acct (s : State) (r : List Byte) : (queueChange s r).acct = s.acct := by simp [queueChange]

@[simp] theorem parkOne_acct (s : State) (i : Nat) : (parkOne s i).acct = s.acct := by simp [parkOne]

@[simp] theorem parkScan_acct (s : State) : (parkScan s).acct = s.acct := by simp [parkScan]

theorem adAlloc_acct {s t : State} {id : Nat} (h : adAlloc s id = some t) : t.acct = s.acct := by
  unfold adAlloc at h
  obtain ⟨a, _, h⟩ := Option.map_eq_some_iff.mp h
  subst h; simp

@[simp] theorem takeUpdate_acct (s : State) (bs : List Byte) : (takeUpdate s bs).acct = s.acct := by
  unfold takeUpdate
  dsimp only
  split <;> simp

@[simp] theorem budgetPay_acct (s : State) (t n : Nat) : (budgetPay s t n).acct = s.acct := by simp [budgetPay]

@[simp] theorem takeReport_acct (s : State) (bs : List Byte) : (takeReport s bs).acct = s.acct := by simp [takeReport]

@[simp] theorem missingInputs_acct (s : State) : (missingInputs s).acct = s.acct := by simp [missingInputs]

@[simp] theorem admitScan_acct (t sl : Nat) (l : List Req) (s : State) : (admitScan t sl l s).2.acct = s.acct := by
  induction l generalizing s with
  | nil => rfl
  | cons r rs ih =>
    unfold admitScan; dsimp only
    split
    · simp [ih]
    · split <;> simp [ih]

@[simp] theorem admitNext_acct (s : State) (t : Nat) : (admitNext s t).2.acct = s.acct := by fun_cases admitNext <;> simp_all

@[simp] theorem pubSent_acct (s : State) (ch : Option (List Byte)) : (pubSent s ch).acct = s.acct := by unfold pubSent; split <;> simp

@[simp] theorem servingStart_acct (s : State) : (servingStart s).acct = s.acct := by simp [servingStart]

@[simp] theorem copyRows_acct (x y : Opnd) (len ss ds : Nat) (bk : Bool) (pl : List Nat) (s : State) (rows : Nat) :
    (copyRows x y len ss ds bk pl s rows).1.acct = s.acct :=
  List.foldlRecOn (motive := fun a : State × Nat => a.1.acct = s.acct) _ _ rfl fun a h i _ => by simp [h]

@[simp] theorem copyOp_acct (c : Nat) (r : RunOp) (s : State) : (copyOp c r s).1.acct = s.acct := by simp [copyOp]

@[simp] theorem fillOp_acct (c : Nat) (r : RunOp) (s : State) : (fillOp c r s).1.acct = s.acct := by unfold fillOp; split <;> simp

@[simp] theorem withDma_acct (s : State) (c e o : Nat) (f : RunOp → State → State × Nat) (h : ∀ r, (f r s).1.acct = s.acct) : (withDma s c e o f).acct = s.acct := by
  unfold withDma; split <;> simp [h]

@[simp] theorem opMap_acct (s : State) (c e o : Nat) (g : RunOp → RunOp) : (opMap s c e o g).acct = s.acct := by simp [opMap]

@[simp] theorem trdGo_acct (q : Nat) (r : RunOp) (s : State) (i : Nat) (got : List Byte) (n : Nat) : (trdGo q r s i got n).1.acct = s.acct := by
  induction n generalizing s i got with
  | zero => rfl
  | succ n ih =>
    unfold trdGo; split
    · rfl
    · split <;> simp [ih]

@[simp] theorem trdRecord_acct (s : State) (q n t : Nat) (bs : List Byte) : (trdRecord s q n t bs).acct = s.acct := by simp [trdRecord]

@[simp] theorem trdLand_acct (s : State) (c : Nat) (r : RunOp) : (trdLand s c r).acct = s.acct := by simp [trdLand]

@[simp] theorem twrPut_acct (s : State) (q : Nat) (bs : List Byte) : (twrPut s q bs).acct = s.acct := by simp [twrPut]

@[simp] theorem twrGo_acct (q : Nat) (en : State → Nat → List Byte) (r : RunOp) (s : State) (i n : Nat) : (twrGo q en r s i n).1.acct = s.acct := by
  fun_induction twrGo q en r s i n <;> simp_all

@[simp] theorem twrOp_acct (s : State) (c e : Nat) (r : RunOp) : (twrOp s c e r).acct = s.acct := by
  unfold twrOp; dsimp only
  split
  · split
    · simp
    · split <;> split <;> simp
  · simp

@[simp] theorem withQueue_acct (s : State) (c e o : Nat) (f : State → Nat → Nat → RunOp → State) (h : ∀ r, (f s c e r).acct = s.acct) :
    (withQueue s c e o f).acct = s.acct :=
  by
  unfold withQueue; split <;> simp [h]

@[simp] theorem dropAtLink_acct (s : State) (l : Nat) : (dropAtLink s l).acct = s.acct := by simp [dropAtLink]

@[simp] theorem dropArr_acct (s : State) (items : List Nat) : (dropArr s items).acct = s.acct := by simp [dropArr]

@[simp] theorem toTraining_acct (s : State) (l : Nat) (keep4 : Bool) : (toTraining s l keep4).acct = s.acct := by simp [toTraining]

@[simp] theorem frameTake_acct (s : State) (l : Nat) (f : Frame) : (frameTake s l f).acct = s.acct := by simp [frameTake]

@[simp] theorem rxDrop_acct (s : State) (o : Nat) (fl : BitVec 128) : (rxDrop s o fl).acct = s.acct := by simp [rxDrop]

@[simp] theorem heldDrop_acct (s : State) (w : HeldPkt) : (heldDrop s w).acct = s.acct := by simp [heldDrop]

@[simp] theorem dropQueued_acct (s : State) (l : Nat) (cls : Nat → Bool) (all : Bool) : (dropQueued s l cls all).acct = s.acct := by
  simp [dropQueued]

@[simp] theorem linkOff_acct (s : State) (l : Nat) : (linkOff s l).acct = s.acct := by simp [linkOff]

@[simp] theorem linkFail_acct (s : State) (l : Nat) : (linkFail s l).acct = s.acct := by simp [linkFail]

@[simp] theorem linkWrite_acct (s : State) (l : Nat) (v : BitVec 32) : (linkWrite s l v).acct = s.acct := by simp [linkWrite]

@[simp] theorem linkTrain_acct (s : State) (l : Nat) (bad : BitVec 8) (delay : Nat) : (linkTrain s l bad delay).acct = s.acct := by
  simp [linkTrain]

@[simp] theorem gateWrite_acct (s : State) (l : Nat) (v : BitVec 8) : (gateWrite s l v).acct = s.acct := by simp [gateWrite]

@[simp] theorem injFreed_acct (had : Bool) (s : State) (b : Nat) : (injFreed had s b).acct = s.acct := by simp [injFreed]

@[simp] theorem srcGone_acct (s : State) (l v : Nat) (src n : Nat) : (srcGone s l v src n).acct = s.acct := by
  unfold srcGone; dsimp only
  split
  · simp
  · split <;> simp

@[simp] theorem srcStamp_acct (s : State) (l v src : Nat) (p : Packet) : (srcStamp s l v src p).acct = s.acct := by simp [srcStamp]

@[simp] theorem sendFlit_acct (s : State) (l v : Nat) (fresh : Bool) : (sendFlit s l v fresh).1.acct = s.acct := by
  unfold sendFlit; dsimp only
  split
  · simp
  · split <;> simp

@[simp] theorem fillFrame_acct (s : State) (l : Nat) (acc : List (Nat × BitVec 128)) (n : Nat) : (fillFrame s l acc n).1.acct = s.acct := by
  induction n generalizing s acc with
  | zero => rfl
  | succ n ih =>
    unfold fillFrame; split
    · rfl
    · simp [ih]

@[simp] theorem pumpGo_acct (s : State) (l n : Nat) : (pumpGo s l n).acct = s.acct := by
  induction n generalizing s with
  | zero => rfl
  | succ n ih => unfold pumpGo; dsimp only; split <;> simp [ih]

@[simp] theorem pump_acct (s : State) (l : Nat) : (pump s l).acct = s.acct := by simp [pump]

@[simp] theorem forward_acct (s : State) (l : Nat) (p : Packet) : (forward s l p).acct = s.acct := by simp [forward]

@[simp] theorem vsetvlDef_keepsAcct : vsetvlDef.KeepsAcct := ⟨vsetvlOp_acct, fun _ _ c r s => cond_acct _ _ _ (vsetvlOp_acct c r s)⟩

@[simp] theorem vintDef_keepsAcct : vintDef.KeepsAcct := by
  constructor <;> intros <;> simp [vintDef]

@[simp] theorem vcmpDef_keepsAcct : vcmpDef.KeepsAcct := by
  constructor <;> intros <;> simp [vcmpDef]

@[simp] theorem vmaskDef_keepsAcct : vmaskDef.KeepsAcct := by
  constructor <;> intros <;> simp [vmaskDef]

@[simp] theorem vfltDef_keepsAcct : vfltDef.KeepsAcct := by
  constructor <;> intros <;> simp only [vfltDef]
  · simp
  · split <;> simp

@[simp] theorem vfunDef_keepsAcct (f g) : (vfunDef f g).KeepsAcct := by
  constructor <;> intros <;> simp only [vfunDef]
  · simp
  · split <;> simp

@[simp] theorem vrcpDef_keepsAcct : vrcpDef.KeepsAcct := vfunDef_keepsAcct ..

@[simp] theorem vexpDef_keepsAcct : vexpDef.KeepsAcct := vfunDef_keepsAcct ..

@[simp] theorem vdivDef_keepsAcct : vdivDef.KeepsAcct := vfunDef_keepsAcct ..

@[simp] theorem vpermDef_keepsAcct : vpermDef.KeepsAcct := by
  constructor <;> intros <;> simp [vpermDef]

@[simp] theorem vredDef_keepsAcct : vredDef.KeepsAcct := by
  constructor <;> intros <;> simp [vredDef]

@[simp] theorem vaccDef_keepsAcct : vaccDef.KeepsAcct := by
  constructor <;> intros <;> simp [vaccDef]

@[simp] theorem vcvtDef_keepsAcct : vcvtDef.KeepsAcct := by
  constructor <;> intros <;> simp [vcvtDef]

@[simp] theorem vldDef_keepsAcct : vldDef.KeepsAcct := by
  constructor <;> intros <;> simp [vldDef]

@[simp] theorem vstDef_keepsAcct : vstDef.KeepsAcct := by
  constructor <;> intros <;> simp only [vstDef]
  · simp
  · split <;> simp

@[simp] theorem softmaxDef_unit_acct (f c r s i) : (softmaxDef.unit f c r s i).acct = s.acct := by simp [softmaxDef]

@[simp] theorem normDef_unit_acct (b f c r s i) : ((normDef b).unit f c r s i).acct = s.acct := by simp [normDef]

@[simp] theorem rotaryDef_unit_acct (f c r s i) : (rotaryDef.unit f c r s i).acct = s.acct := by simp [rotaryDef]

@[simp] theorem unpackDef_unit_acct (f c r s i) : (unpackDef.unit f c r s i).acct = s.acct := by simp [unpackDef]

@[simp] theorem splitDef_unit_acct (f c r s i) : (splitDef.unit f c r s i).acct = s.acct := by simp [splitDef]

@[simp] theorem sampleDef_unit_acct (f c r s i) : (sampleDef.unit f c r s i).acct = s.acct := by simp [sampleDef]

@[simp] theorem VxDef.op_acct' {x : VxDef} (h : x.KeepsAcct) (c : Nat) (r : RunOp) (s : State) : (x.op c r s).acct = s.acct := x.op_acct h c r s

@[simp] theorem FxDef.op_acct' {x : FxDef} (h : ∀ f c r s i, (x.unit f c r s i).acct = s.acct) (c : Nat) (r : RunOp) (s : State) : (x.op c r s).acct = s.acct :=
  x.op_acct h c r s

@[simp] theorem vaccOp_acct (c : Nat) (r : RunOp) (s : State) : (vaccOp c r s).acct = s.acct := by simp [vaccOp]

theorem acct_if {c : Prop} [Decidable c] {s t : State} {x : Account} (hs : s.acct = x) (ht : t.acct = x) : (if c then s else t).acct = x := by
  split <;> assumption

/-- The search of the adapter slots is taken as any function, for the equation does not depend on it. -/
theorem adAllocScan_succ (n : Nat) (s : State) : adAllocScan (n + 1) s = match s.srv.adWait with
    | [] => s
    | id :: r => match adAlloc s id with
      | some s => adAllocScan n (s.mapSrv fun v => { v with adWait := r })
      | none => s := by
  delta adAllocScan adAllocScan._f
  generalize adAlloc = alloc
  rfl

theorem inject_acct {s t : State} {set2 : Bool} {p : Packet} (h : (inject s set2 p).1 = some t) : t.acct = s.acct := by
  simp only [inject] at h
  split_ifs at h <;> cases h <;> simp

@[simp] theorem injRefill_acct (s : State) : (injRefill s).acct = s.acct := by
  unfold injRefill
  refine List.foldlRecOn (motive := fun t : State => t.acct = s.acct) _ _ (by simp) fun t h p _ => ?_
  split
  · next u hu => exact (inject_acct hu).trans h
  · simpa using h

theorem handOff_acct {s t : State} {p : Packet} (h : (handOff s p).1 = some t) : t.acct = s.acct := by
  simp only [handOff] at h
  split_ifs at h
  · cases h; simp
  · cases h; simp
  · split at h
    · cases h
    · next u b hu =>
      have hi := inject_acct (congrArg Prod.fst hu)
      split at h <;> cases h
      simp [hi]

@[simp] theorem sendGo_acct (r : RunOp) (pk : Nat → Packet) (s : State) (i n : Nat) : (sendGo r pk s i n).1.acct = s.acct := by
  induction n generalizing s i with
  | zero => rfl
  | succ n ih =>
    unfold sendGo; split
    · rfl
    · split
      · next t _ h => rw [ih, handOff_acct (congrArg Prod.fst h)]
      · rfl

@[simp] theorem sendOp_acct (s : State) (c e : Nat) (r : RunOp) : (sendOp s c e r).acct = s.acct := by
  have hfree (b : Bool) (n : Nat) : (if b then takeFree s n else ([], s)).2.acct = s.acct := by split <;> simp
  unfold sendOp
  extract_lets d fin en
  have hfin (t : State) : (fin t).acct = t.acct := opDone_acct t c e 0xB0
  split
  · simp [hfin]
  · extract_lets n own
    split
    · simp [hfin]
    · split
      · simp [hfin]
      · split
        next fb t ht =>
        have hft := congrArg (·.2.acct) ht
        simp only [hfree] at hft
        extract_lets bs
        split
        next u k blk hu =>
        have hgo := congrArg (·.1.acct) hu
        simp only [sendGo_acct] at hgo
        split <;> simp [hfin, ← hgo, ← hft]

@[simp] theorem adAllocScan_acct (n : Nat) (s : State) : (adAllocScan n s).acct = s.acct := by
  induction n generalizing s with
  | zero => rfl
  | succ n ih =>
    refine (congrArg State.acct (adAllocScan_succ n s)).trans ?_
    split
    · rfl
    · next id r hw =>
      split
      · next t h => simpa [ih] using adAlloc_acct h
      · rfl

@[simp] theorem servingDecision_acct (s : State) : (servingDecision s).acct = s.acct := by
   unfold servingDecision; dsimp only; split <;> simp

@[simp] theorem trdTake_acct (s : State) (q n t : Nat) : (trdTake s q n t).2.acct = s.acct := by
  unfold trdTake; dsimp only; split
  · split <;> simp
  · simp

@[simp] theorem trdNeed_acct (s : State) (c : Nat) (r : RunOp) (q : Nat) : (trdNeed s c r q).acct = s.acct := by simp [trdNeed]

@[simp] theorem vxDef_keepsAcct (o : Nat) : (vxDef o).KeepsAcct := by unfold vxDef; split <;> simp

@[simp] theorem fxDef_unit_acct (o f c r s i) : ((fxDef o).unit f c r s i).acct = s.acct := by unfold fxDef; split <;> simp

@[simp] theorem putPieces_acct (y : Opnd) (r : RunOp) (l : List (Nat × Nat)) (bs : List Byte) (s : State) : (putPieces y r l bs s).1.acct = s.acct := by
  induction l generalizing bs s with
  | nil => rfl
  | cons p l ih => simp [putPieces, ih]

@[simp] theorem vLand_acct (s : State) (c : Nat) (r : RunOp) (i : Nat) : (vLand s c r i).acct = s.acct := by
  simp [vLand, (vxDef_keepsAcct _).undef, (vxDef_keepsAcct _).part]

@[simp] theorem trdMove_acct (s : State) (c e : Nat) (r : RunOp) : (trdMove s c e r).acct = s.acct := by unfold trdMove; split <;> simp

@[simp] theorem trdOp_acct (s : State) (c e : Nat) (r : RunOp) : (trdOp s c e r).acct = s.acct := by
  unfold trdOp
  dsimp only
  split <;> simp

@[simp] theorem injOwn_acct (s : State) (o : Nat) (p : Packet) : (injOwn s o p).acct = s.acct := by simp [injOwn]

@[simp] theorem windowPut_acct (s : State) (k tag : Nat) (bs : List Byte) : (windowPut s k tag bs).1.acct = s.acct := by
  unfold windowPut
  split <;> simp

@[simp] theorem recvReplay_acct (s : State) (r : RunOp) : (recvReplay s r).acct = s.acct := by
  unfold recvReplay; dsimp only
  split
  · split <;> simp
  · simp

@[simp] theorem recvServe_acct (s : State) (k c : Nat) : (recvServe s k c).acct = s.acct := by simp [recvServe]

@[simp] theorem recvComplete_acct (s : State) (c e : Nat) (r : RunOp) : (recvComplete s c e r).acct = s.acct := by
  simp [recvComplete, recvComplete.inpAddChip]

@[simp] theorem recvComplete_inpAddChip_acct (s : State) (t : Nat) (bs : List Byte) : (recvComplete.inpAddChip s t bs).acct = s.acct := by
  simp [recvComplete.inpAddChip]

@[simp] theorem recvOp_acct (s : State) (c e : Nat) (r : RunOp) : (recvOp s c e r).acct = s.acct := by
  unfold recvOp
  split
  · simp
  · split
    · rfl
    · extract_lets d t
      have ht : t.acct = s.acct := by simp only [t]; split <;> simp
      split
      · simp [ht]
      · split
        · simp [ht]
        · split <;> simp [ht]

@[simp] theorem pathSeal_acct (s : State) : (pathSeal s).1.acct = s.acct := by simp [pathSeal]

@[simp] theorem pathSealCmd_acct (s : State) (p : Path) (stOk room : Bool) (more : State → State) (h : ∀ t, (more t).acct = t.acct) :
    (pathSealCmd s p stOk room more).acct = s.acct := by
  have hs (t : State) (b : Bool) (e : pathSeal s = (t, b)) : t.acct = s.acct := by simpa [e] using pathSeal_acct s
  unfold pathSealCmd
  extract_lets obj
  split
  · rfl
  · split
    · simp
    · split
      · simp
      · split <;> next t e => simp [h, hs _ _ e]

@[simp] theorem beaconOut_acct (s : State) : (beaconOut s).acct = s.acct := by simp [beaconOut]

@[simp] theorem beaconTake_acct (s : State) (l t : Nat) : (beaconTake s l t).acct = s.acct := by simp [beaconTake]

@[simp] theorem viewOf_acct (s : State) (c : Nat) (r : RunOp) (ks : List Nat) : (viewOf s c r ks).acct = s.acct := by simp [viewOf]

@[simp] theorem opEvents_acct (s : State) (c : Nat) (r : RunOp) : (opEvents s c r).acct = s.acct := by fun_cases opEvents <;> simp_all

@[simp] theorem opBegin_acct (s : State) (c : Nat) (r : RunOp) : (opBegin s c r).acct = s.acct := by simp [opBegin]

@[simp] theorem opCapture_acct (s : State) (c : Nat) (r : RunOp) : (opCapture s c r).acct = s.acct := by simp [opCapture]

@[simp] theorem opZero_acct (s : State) (c : Nat) (r : RunOp) : (opZero s c r).acct = s.acct := by unfold opZero; split <;> simp

@[simp] theorem fxLand_acct (s : State) (c : Nat) (r : RunOp) (i : Nat) : (fxLand s c r i).acct = s.acct := by simp [fxLand]

@[simp] theorem xferChunk_acct (s : State) (c : Nat) (r : RunOp) (j : Nat) : (xferChunk s c r j).acct = s.acct := by simp [xferChunk]

@[simp] theorem gatherChunk_acct (s : State) (c : Nat) (r : RunOp) (j : Nat) : (gatherChunk s c r j).acct = s.acct := by simp [gatherChunk]

@[simp] theorem chunkLand_acct (s : State) (c : Nat) (r : RunOp) (i : Nat) (f : State → Nat → RunOp → Nat → State) (h : ∀ j, (f s c r j).acct = s.acct) :
    (chunkLand s c r i f).acct = s.acct := by simp [chunkLand, h]

@[simp] theorem mxLand_acct (s : State) (c : Nat) (r : RunOp) (i : Nat) : (mxLand s c r i).acct = s.acct := by
  unfold mxLand
  dsimp only
  split <;> simp

@[simp] theorem opLand_acct (s : State) (c : Nat) (r : RunOp) : (opLand s c r).acct = s.acct := by
  unfold opLand; dsimp only
  rw [setOp_acct]
  split
  · simp
  · split
    · simp
    · split
      · simp
      · split <;> simp

@[simp] theorem setPiece_acct (s : State) (i : Nat) (v : PieceState) : (setPiece s i v).acct = s.acct := by simp [setPiece]

@[simp] theorem manInstall_acct (s : State) (m : Manifest) (keep : List Nat) : (manInstall s m keep).acct = s.acct := by simp [manInstall]

@[simp] theorem hashInPlace_acct (s : State) : (hashInPlace s).acct = s.acct := by simp [hashInPlace]

@[simp] theorem intakeDrop_acct (s : State) : (intakeDrop s).acct = s.acct := by simp [intakeDrop]

@[simp] theorem abandon_acct (s : State) (st : Nat) : (abandon s st).acct = s.acct := by unfold abandon; split <;> simp

@[simp] theorem sourceNak_acct (s : State) (k i : Nat) : (sourceNak s k i).acct = s.acct := by simp [sourceNak]

@[simp] theorem pieceCame_acct (s : State) (i : Nat) : (pieceCame s i).acct = s.acct := by simp [pieceCame]

@[simp] theorem serviceSend_acct (s : State) (path tc : Nat) (queue tag : Nat) (bs : List Byte) : (serviceSend s path tc queue tag bs).acct = s.acct := by
  unfold serviceSend; dsimp only
  split
  · simp
  · split <;> simp

@[simp] theorem askSource_acct (s : State) (m : Manifest) (k i n : Nat) : (askSource s m k i n).acct = s.acct := by simp [askSource]

@[simp] theorem refetchAsk_acct (s : State) (k : Nat) : (refetchAsk s k).acct = s.acct := by unfold refetchAsk; split <;> simp

@[simp] theorem refetchDrop_acct (s : State) : (refetchDrop s).acct = s.acct := by unfold refetchDrop; dsimp only; split <;> simp

@[simp] theorem refetchTurn_acct (s : State) : (refetchTurn s).acct = s.acct := by fun_cases refetchTurn <;> simp_all

@[simp] theorem refetchAdd_acct (s : State) (l : Nat) : (refetchAdd s l).acct = s.acct := by
  unfold refetchAdd; dsimp only
  split
  · simp
  · split <;> simp

@[simp] theorem refetchWrite_acct (s : State) (l : Nat) (bs : List Byte) : (refetchWrite s l bs).acct = s.acct := by simp [refetchWrite]

@[simp] theorem refetchForget_acct (s : State) (l : Nat) : (refetchForget s l).acct = s.acct := by simp [refetchForget]

@[simp] theorem refetchHead_acct (s : State) (st : Nat) (h : List Byte) : (refetchHead s st h).acct = s.acct := by simp [refetchHead]

@[simp] theorem refetchBody_acct (s : State) (tag : Nat) (bs : List Byte) : (refetchBody s tag bs).acct = s.acct := by
  unfold refetchBody
  split <;> simp

@[simp] theorem refetchCut_acct (s : State) (st : Nat) : (refetchCut s st).acct = s.acct := by simp [refetchCut]

@[simp] theorem refetchLate_acct (s : State) : (refetchLate s).acct = s.acct := by simp [refetchLate]

@[simp] theorem intakeHead_acct (s : State) (st : Nat) (h : List Byte) : (intakeHead s st h).acct = s.acct := by
  unfold intakeHead; dsimp only
  split
  · simp
  · split <;> split <;> simp

@[simp] theorem intakeBody_acct (s : State) (st tag : Nat) (bs : List Byte) : (intakeBody s st tag bs).acct = s.acct := by
  unfold intakeBody
  split <;> simp

@[simp] theorem outsideDo_acct (s : State) (i : Instr) (f : State → State) (h : (f s).acct = s.acct) : (outsideDo s i f).acct = s.acct := by
  unfold outsideDo; split <;> simp [h]

theorem outsideOne_acct (l : List WAcc) (act : Instr → State → State) (h : ∀ i s, (act i s).acct = s.acct) (a : OutsideAcc) (i : Instr) :
    (outsideOne l act a i).st.acct = a.st.acct := by
  unfold outsideOne
  split
  · exact h _ _
  · dsimp only; split
    · rfl
    · exact h _ _

@[simp] theorem outsideTurn_acct (act : Instr → State → State) (l : List WAcc) (s : State) (h : ∀ i s, (act i s).acct = s.acct) :
    (outsideTurn act l s).acct = s.acct := by
  unfold outsideTurn
  split
  · rfl
  · simp only [State.mapBeds_acct]
    exact List.foldlRecOn (motive := fun a : OutsideAcc => a.st.acct = s.acct) _ _ (State.mapBeds_acct ..) fun a ha i _ => (outsideOne_acct l act h a i).trans ha

@[simp] theorem intakeHeader_acct (s : State) (st : Fin 8) (bs : List Byte) : (intakeHeader s st bs).acct = s.acct := by simp [intakeHeader]

@[simp] theorem intakeData_acct (s : State) (st : Fin 8) (tag : Nat) (bs : List Byte) : (intakeData s st tag bs).acct = s.acct := by
  simp [intakeData]

@[simp] theorem intakePacket_acct (s : State) (st : Fin 8) (tag : Nat) (bs : List Byte) : (intakePacket s st tag bs).acct = s.acct := by
  simp [intakePacket]

@[simp] theorem tribPiece_acct (s : State) (d : List Byte) : (tribPiece s d).acct = s.acct := by
  unfold tribPiece; dsimp only
  split
  · simp
  · split <;> simp

@[simp] theorem hashDone_acct (s : State) (i : Nat) : (hashDone s i).acct = s.acct := by simp [hashDone]

@[simp] theorem sourceAsk_acct (s : State) (k : Nat) : (sourceAsk s k).acct = s.acct := by unfold sourceAsk; split <;> simp

@[simp] theorem sourceRound_acct (s : State) : (sourceRound s).acct = s.acct := by simp [sourceRound]

@[simp] theorem servePiece_acct (r : Request1) (s : State) (off : Nat) : (servePiece r s off).acct = s.acct := by
  unfold servePiece
  dsimp only
  split <;> simp

@[simp] theorem serveRequests_acct (s : State) : (serveRequests s).acct = s.acct := by unfold serveRequests; split <;> simp

@[simp] theorem requestTake_acct (s : State) (d : List Byte) : (requestTake s d).acct = s.acct := by simp [requestTake]

@[simp] theorem rescanEnd_acct (s : State) : (rescanEnd s).acct = s.acct := by simp [rescanEnd]

@[simp] theorem rescanOne_acct (s : State) (i : Nat) : (rescanOne s i).acct = s.acct := by simp [rescanOne]

@[simp] theorem swapDrop_acct (s : State) : (swapDrop s).acct = s.acct := by simp [swapDrop]

@[simp] theorem swapNotice_acct (s : State) : (swapNotice s).acct = s.acct := by
  unfold swapNotice; dsimp only
  split
  · simp
  · split <;> simp

@[simp] theorem serviceTake_acct (s : State) (origin tc q tag : Nat) (bs : List Byte) : (serviceTake s origin tc q tag bs).acct = s.acct := by
  simp only [serviceTake, acct_ite, intakePacket_acct, requestTake_acct, swapNotice_acct, beaconTake_acct, dropArr_acct, ite_self]

@[simp] theorem halfCountUp_acct (s : State) (k tag : Nat) (bs : List Byte) : (halfCountUp s k tag bs).acct = s.acct := by
  simp [halfCountUp]

@[simp] theorem queueTake_acct (s : State) (origin tc q : Nat) (half : Bool) (tag : Nat) (bs : List Byte) : (queueTake s origin tc q half tag bs).acct = s.acct := by
  simp [queueTake]

@[simp] theorem fanOut_acct (s : State) (origin tc q : Nat) (half : Bool) (tag : Nat) (bs : List Byte) : (fanOut s origin tc q half tag bs).acct = s.acct := by
  simp [fanOut]

theorem groupEmit_acct {s t : State} {g : Group} (h : groupEmit s g = some t) : t.acct = s.acct := by
  simp only [groupEmit] at h
  split_ifs at h
  · cases h; simp
  · cases h; simp
  · exact inject_acct h

@[simp] theorem groupsEmit_acct (s : State) : (groupsEmit s).acct = s.acct := by
  unfold groupsEmit
  refine List.foldlRecOn (motive := fun t : State => t.acct = s.acct) _ _ rfl fun t h g _ => ?_
  split
  · split
    · next u hu => simpa using (groupEmit_acct hu).trans h
    · exact h
  · exact h

@[simp] theorem contribute_acct (s : State) (p : Packet) : (contribute s p).1.acct = s.acct := by
  unfold contribute; dsimp only
  split
  · simp
  · split
    · simp
    · split <;> simp

@[simp] theorem arrive_acct (s : State) (origin : Nat) (p : Packet) : (arrive s origin p).1.acct = s.acct := by
  unfold arrive; dsimp only
  split
  · simp
  · split <;> simp

@[simp] theorem localPop_acct (s : State) (set2 : Bool) (v : Nat) : (localPop s set2 v).acct = s.acct := by simp [localPop]

@[simp] theorem headGone_acct (s : State) (w : HeldPkt) : (headGone s w).acct = s.acct := by simp [headGone]

@[simp] theorem headStep_acct (s : State) (o : Nat) : (headStep s o).acct = s.acct := by
  have ha (q : Packet) (t : State) (b : Bool) (h : arrive s o q = (t, b)) : t.acct = s.acct := by simpa [h] using arrive_acct s o q
  unfold headStep
  split
  · rfl
  · next w _ =>
    dsimp only
    generalize (if o < 128 then route s w.pkt else (w.pkt, none)) = x
    rcases x with ⟨q, _ | l⟩
    · dsimp only
      split
      · simp
      · split <;> next t h => simp [ha _ _ _ h]
    · simp

@[simp] theorem injSettle_acct (s : State) : (injSettle s).acct = s.acct := by simp [injSettle]

@[simp] theorem settleGo_acct (s : State) (n : Nat) : (settleGo s n).acct = s.acct := by
  induction n generalizing s with
  | zero => rfl
  | succ n ih => simp [settleGo, ih, headStep_acct]

@[simp] theorem settle_acct (s : State) : (settle s).acct = s.acct := by simp [settle]

@[simp] theorem switched_acct (s : State) (l : Nat) : (switched s l).acct = s.acct := by simp [switched]

@[simp] theorem enterQueue_acct (s : State) (o : Nat) (p : Packet) : (enterQueue s o p).acct = s.acct := by simp [enterQueue]

@[simp] theorem localDeliver_acct (s : State) (set2 : Bool) (v : Nat) : (localDeliver s set2 v).acct = s.acct := by
  unfold localDeliver
  split <;> simp

@[simp] theorem fencePos_acct (s : State) (cl : Nat) (de : Bool) (pos : Nat) : (fencePos s cl de pos).acct = s.acct := by simp [fencePos]

@[simp] theorem mapCoreTo_acct (s : State) (c pos : Nat) : (mapCoreTo s c pos).acct = s.acct := by simp [mapCoreTo]

@[simp] theorem pendDrop_acct (s : State) (r : Remap) : (pendDrop s r).acct = s.acct := by simp [pendDrop]

@[simp] theorem remapApply_acct (s : State) (r : Remap) : (remapApply s r).acct = s.acct := by unfold remapApply; dsimp only; split <;> simp

@[simp] theorem slotAbsent_acct (s : State) (r : Remap) : (slotAbsent s r).acct = s.acct := by unfold slotAbsent; dsimp only; split <;> simp

@[simp] theorem fenceDo_acct (s : State) (cl : Nat) (de : Bool) (pos : Nat) : (fenceDo s cl de pos).acct = s.acct := by simp [fenceDo]

@[simp] theorem spareReady_acct (s : State) (cl : Nat) (de : Bool) : (spareReady s cl de).acct = s.acct := by
  unfold spareReady
  split <;> simp

@[simp] theorem autoFence_acct (s : State) (c : Nat) : (autoFence s c).acct = s.acct := by simp [autoFence]

@[simp] theorem hourCount_acct (s : State) (c n : Nat) : (hourCount s c n).acct = s.acct := by simp [hourCount]

@[simp] theorem rowMade_acct (s : State) (r : RowFix) : (rowMade s r).acct = s.acct := by simp [rowMade]

@[simp] theorem rowRepair_acct (s : State) (line : Nat) (persistent : Bool) : (rowRepair s line persistent).acct = s.acct := by
  unfold rowRepair
  dsimp only
  split <;> simp

@[simp] theorem rowCount_acct (s : State) (line n : Nat) : (rowCount s line n).acct = s.acct := by simp [rowCount]

@[simp] theorem toStandby_acct (s : State) : (toStandby s).acct = s.acct := by unfold toStandby; split <;> simp

@[simp] theorem stepStart_acct (s : State) : (stepStart s).acct = s.acct := by simp [stepStart]

@[simp] theorem restartStep_acct (s : State) (r : Replay) : (restartStep s r).acct = s.acct := by simp [restartStep]

@[simp] theorem markBad_acct (s : State) (m : MemLoc) (keep : Bool) : (markBad s m keep).acct = s.acct := by unfold markBad; split <;> simp

@[simp] theorem lineZero_acct (s : State) (l : Nat) : (lineZero s l).acct = s.acct := by simp [lineZero]

@[simp] theorem lineRecover_acct (s : State) (l : Nat) (refetch : List Byte) : (lineRecover s l refetch).1.acct = s.acct := by
  unfold lineRecover; dsimp only
  split
  · simp
  · simp
  · split <;> simp
  · simp
  · simp
  · simp

@[simp] theorem machineCheck_acct (s : State) (m : MemLoc) (persistent : Bool) : (machineCheck s m persistent).acct = s.acct := by
  simp [machineCheck]

@[simp] theorem replayReady_acct (s : State) (refetch : List Byte) : (replayReady s refetch).acct = s.acct := by
  have hr (l : Nat) (t : State) (b : Bool) (h : lineRecover s l refetch = (t, b)) : t.acct = s.acct := by simpa [h] using lineRecover_acct s l refetch
  unfold replayReady
  split
  · rfl
  · split
    · simp
    · split
      · simp
      · simp
      · split <;> next t h => simp [hr _ _ _ h]
      · simp
      · simp
      · simp

@[simp] theorem replayTimer_acct (s : State) : (replayTimer s).acct = s.acct := by fun_cases replayTimer <;> simp_all

@[simp] theorem outsideError_acct (s : State) (m : MemLoc) (refetch : List Byte) : (outsideError s m refetch).acct = s.acct := by
  unfold outsideError
  split <;> simp

@[simp] theorem countCorr_acct (s : State) (m : MemLoc) (n : Nat) : (countCorr s m n).acct = s.acct := by
  unfold countCorr; dsimp only
  split
  · simp
  · split <;> simp

@[simp] theorem scrubStep_acct (s : State) (l : Nat) : (scrubStep s l).acct = s.acct := by simp [scrubStep]

@[simp] theorem scrubOne_acct (s : State) (m : MemLoc) (corrected : Nat) (refetch : List Byte) : (scrubOne s m corrected refetch).acct = s.acct := by
  unfold scrubOne; dsimp only
  split
  · simp
  · split <;> simp

@[simp] theorem overBeds_acct (s : State) : (overBeds s).acct = s.acct := by simp [overBeds]

@[simp] theorem overCore_acct (s : State) (c : CoreId) : (overCore s c).acct = s.acct := by simp [overCore]

@[simp] theorem overPool_acct (s : State) (cl : Fin 16) : (overPool s cl).acct = s.acct := by simp [overPool]

@[simp] theorem scrubOverrun_acct (s : State) : (scrubOverrun s).acct = s.acct := by simp [scrubOverrun]

@[simp] theorem segSet_acct (s : State) (u : SegUnit) (v : BitVec 8) : (segSet s u v).acct = s.acct := by unfold segSet; split <;> simp

@[simp] theorem segDownEnd_acct (s : State) (u : SegUnit) (m : BitVec 8) : (segDownEnd s u m).acct = s.acct := by
  unfold segDownEnd
  split <;> simp

@[simp] theorem segAck_acct (s : State) (u : SegUnit) (i : Nat) (up : Bool) : (segAck s u i up).acct = s.acct := by simp [segAck]

@[simp] theorem outsideAct_acct (i : Instr) (s : State) : (outsideAct i s).acct = s.acct := by unfold outsideAct; split <;> simp

@[simp] theorem histNote_acct (s : State) : (histNote s).acct = s.acct := by simp [histNote]

@[simp] theorem clockAt_acct (s : State) (f : Nat) : (clockAt s f).acct = s.acct := by simp [clockAt]

@[simp] theorem freqSet_acct (s : State) (f : Nat) : (freqSet s f).acct = s.acct := by simp [freqSet]

@[simp] theorem freqDrop_acct (s : State) : (freqDrop s).acct = s.acct := by simp [freqDrop]

@[simp] theorem thermalTrip_acct (s : State) (items : List Nat) : (thermalTrip s items).acct = s.acct := by simp [thermalTrip]

@[simp] theorem thermalRelease_acct (s : State) : (thermalRelease s).acct = s.acct := by simp [thermalRelease]

@[simp] theorem lowCheck_acct (s : State) : (lowCheck s).acct = s.acct := by simp [lowCheck]

@[simp] theorem droopCause_acct (s : State) (m : Nat) : (droopCause s m).acct = s.acct := by simp [droopCause]

@[simp] theorem droopTrip_acct (s : State) (m : Nat) : (droopTrip s m).acct = s.acct := by simp [droopTrip]

@[simp] theorem droopClear_acct (s : State) (m : Nat) : (droopClear s m).acct = s.acct := by simp [droopClear]

@[simp] theorem monSample_acct (s : State) (m mv : Nat) (tempC : ℤ) (margin : Nat) : (monSample s m mv tempC margin).acct = s.acct := by
  simp [monSample]

@[simp] theorem ledgerAdd_acct (s : State) (m mv : Nat) : (ledgerAdd s m mv).acct = s.acct := by simp [ledgerAdd]

@[simp] theorem imageDrop_acct (s : State) : (imageDrop s).acct = s.acct := by simp [imageDrop]

@[simp] theorem imageRefuse_acct (s : State) (r : Nat) : (imageRefuse s r).acct = s.acct := by simp [imageRefuse]

@[simp] theorem killStart_acct (s : State) (weights : Bool) : (killStart s weights).acct = s.acct := by simp [killStart]

@[simp] theorem flushOndie_acct (s : State) : (flushOndie s).acct = s.acct := by simp [flushOndie]

@[simp] theorem flushBeds_acct (s : State) : (flushBeds s).acct = s.acct := by simp [flushBeds]

@[simp] theorem flushDone_acct (s : State) : (flushDone s).acct = s.acct := by simp [flushDone]

@[simp] theorem wakeBegin_acct (s : State) : (wakeBegin s).acct = s.acct := by simp [wakeBegin]

@[simp] theorem granuleZero_acct (s : State) (m : MemLoc) : (granuleZero s m).acct = s.acct := by unfold granuleZero; split <;> simp

@[simp] theorem weirBegin_acct (s : State) : (weirBegin s).acct = s.acct := by simp [weirBegin]

@[simp] theorem recordStaged_acct (s : State) (k : StageKind) : (recordStaged s k).acct = s.acct := by unfold recordStaged; split <;> simp

@[simp] theorem bankSwitchAt_acct (s : State) (c : Nat) : (bankSwitchAt s c).acct = s.acct := by simp [bankSwitchAt]

@[simp] theorem stagedSend_acct (s : State) : (stagedSend s).acct = s.acct := by simp [stagedSend]

@[simp] theorem weirBanks_acct (s : State) : (weirBanks s).acct = s.acct := by simp [weirBanks]

@[simp] theorem replayAdapter_acct (s : State) (d : List Byte) : (replayAdapter s d).acct = s.acct := by
  unfold replayAdapter; dsimp only
  split
  · split <;> simp
  · simp

@[simp] theorem replayStep_acct (s : State) (last : Nat) : (replayStep s last).acct = s.acct := by
  unfold replayStep
  dsimp only
  split <;> simp

@[simp] theorem weirStack_acct (s : State) : (weirStack s).acct = s.acct := by unfold weirStack; split <;> simp

@[simp] theorem weirHalt_acct (s : State) (id : Nat) : (weirHalt s id).acct = s.acct := by simp [weirHalt]

@[simp] theorem oxbowCount_acct (s : State) (c : Nat) : (oxbowCount s c).acct = s.acct := by simp [oxbowCount]

@[simp] theorem oxbowTrip_acct (s : State) : (oxbowTrip s).acct = s.acct := by simp [oxbowTrip]

@[simp] theorem eddyTrip_acct (s : State) : (eddyTrip s).acct = s.acct := by simp [eddyTrip]

@[simp] theorem toOff_acct (s : State) : (toOff s).acct = s.acct := by simp [toOff]

@[simp] theorem fwWrite_acct (s : State) (b off : Nat) (data : List Byte) : (fwWrite s b off data).acct = s.acct := by simp [fwWrite]

@[simp] theorem mapKind_acct (s : State) (cl : Nat) (de : Bool) : (mapKind s cl de).acct = s.acct := by
  unfold mapKind
  dsimp only
  split <;> simp

@[simp] theorem mapCores0_acct (s : State) : (mapCores0 s).acct = s.acct := by simp [mapCores0]

@[simp] theorem applyRecord_acct (s : State) (r : Nat × List Byte) : (applyRecord s r).acct = s.acct := by
  unfold applyRecord
  split <;> simp

@[simp] theorem ringDatelines_acct (s : State) : (ringDatelines s).acct = s.acct := by simp [ringDatelines]

@[simp] theorem bootDone_acct (s : State) : (bootDone s).acct = s.acct := by simp [bootDone]

@[simp] theorem sourcesMove_acct (s : State) (claimed : List Nat) (h : Nat) (to_ : Option Nat) : (sourcesMove s claimed h to_).acct = s.acct := by
  simp [sourcesMove]

@[simp] theorem handOver_acct (bank : Nat) (s : State) (p : Nat × Option Nat) : (handOver bank s p).acct = s.acct := by
  unfold handOver
  split <;> simp

@[simp] theorem handOvers_acct (s : State) (bank : Nat) (from_ to_ : List Nat) : (handOvers s bank from_ to_).acct = s.acct := by
  simp [handOvers]

@[simp] theorem trialFail_acct (s : State) (h : Nat) : (trialFail s h).acct = s.acct := by simp [trialFail]

@[simp] theorem trialKeep_acct (s : State) : (trialKeep s).acct = s.acct := by simp [trialKeep]

@[simp] theorem claimOn_acct (s : State) (h : Nat) : (claimOn s h).acct = s.acct := by unfold claimOn; split <;> simp

@[simp] theorem completeOn_acct (s : State) (h i : Nat) : (completeOn s h i).acct = s.acct := by simp [completeOn]

@[simp] theorem iswset_acct (s : State) (v : Nat) : (iswset s v).acct = s.acct := by simp [iswset]

@[simp] theorem intcWrite_acct (s : State) (a v : Nat) : (intcWrite s a v).acct = s.acct := by fun_cases intcWrite <;> simp_all

@[simp] theorem quoteStart_acct (s : State) (nonce : List Byte) : (quoteStart s nonce).acct = s.acct := by simp [quoteStart]

@[simp] theorem quoteSign_acct (s : State) : (quoteSign s).acct = s.acct := by simp [quoteSign]

@[simp] theorem State.mapGau_acct (s : State) (f : Gauge → Gauge) : (State.mapGau s f).acct = s.acct := acct_of (by simp) (by simp)

@[simp] theorem epochStart_acct (s : State) : (epochStart s).acct = s.acct := by simp [epochStart]

@[simp] theorem gaugeOff_acct (s : State) : (gaugeOff s).acct = s.acct := by simp [gaugeOff]

@[simp] theorem feedTake_acct (s : State) (bs : List Byte) : (feedTake s bs).acct = s.acct := by simp [feedTake]

@[simp] theorem mirrorCopy_acct (s : State) : (mirrorCopy s).acct = s.acct := by simp [mirrorCopy]

@[simp] theorem mirrorMiss_acct (s : State) : (mirrorMiss s).acct = s.acct := by simp [mirrorMiss]

@[simp] theorem storePut_acct (s : State) (r : EvRec) : (storePut s r).acct = s.acct := by simp [storePut]

@[simp] theorem storeRec_acct (s : State) (r : EvRec) : (storeRec s r).acct = s.acct := by
  unfold storeRec; dsimp only
  split
  · simp
  · split <;> simp

@[simp] theorem storeFrom_acct (s : State) (n : Nat) : (storeFrom s n).acct = s.acct := by unfold storeFrom; split <;> simp

@[simp] theorem latch_acct (s : State) (k cur : Nat) : (latch s k cur).acct = s.acct := by simp [latch]

@[simp] theorem State.mapDbg_acct (s : State) (f : Debug → Debug) : (State.mapDbg s f).acct = s.acct := acct_of (by simp) (by simp)

@[simp] theorem dbgResume_acct (s : State) : (dbgResume s).acct = s.acct := by simp [dbgResume]

@[simp] theorem dbgStep_acct (s : State) (n : Nat) : (dbgStep s n).acct = s.acct := by simp [dbgStep]

@[simp] theorem dbgAtWeir_acct (s : State) (cause : Nat) : (dbgAtWeir s cause).acct = s.acct := by simp [dbgAtWeir]

@[simp] theorem dbgStore_acct (s : State) (t o : Nat) (bs : List Byte) : (dbgStore s t o bs).acct = s.acct := by
  unfold dbgStore
  split <;> simp

@[simp] theorem replayDebug_acct (s : State) (d : List Byte) : (replayDebug s d).acct = s.acct := by simp [replayDebug]

@[simp] theorem jtagIr_acct (s : State) (code : Nat) : (jtagIr s code).acct = s.acct := by simp [jtagIr]

@[simp] theorem captureCells_acct (s : State) : (captureCells s).acct = s.acct := by simp [captureCells]

@[simp] theorem dmSet_acct (s : State) (a v : Nat) : (dmSet s a v).acct = s.acct := by simp [dmSet]

@[simp] theorem dmControl_acct (s : State) (v : Nat) : (dmControl s v).acct = s.acct := by simp [dmControl]

@[simp] theorem dmErr_acct (s : State) (e : Nat) : (dmErr s e).acct = s.acct := by simp [dmErr]

@[simp] theorem dmTransfer_acct (s : State) (v : Nat) : (dmTransfer s v).1.acct = s.acct := by simp [dmTransfer]

@[simp] theorem dmProgram_acct (s : State) : (dmProgram s).acct = s.acct := by simp [dmProgram]

@[simp] theorem sbErr_acct (s : State) (e : Nat) : (sbErr s e).acct = s.acct := by simp [sbErr]

@[simp] theorem sbNext_acct (s : State) (n : Nat) : (sbNext s n).acct = s.acct := by simp [sbNext]

@[simp] theorem stamp_acct (old : State) (h : Pdu) (s : State) : (stamp old h s).acct = s.acct := by simp [stamp]

@[simp] theorem odRead_acct (s : State) (p : Path) (h : Pdu) : (odRead s p h).acct = s.acct := by simp [odRead]

@[simp] theorem odDescribe_acct (s : State) (p : Path) (h : Pdu) : (odDescribe s p h).acct = s.acct := by simp [odDescribe]

@[simp] theorem putB_acct (s : State) (i sub v : Nat) : (putB s i sub v).acct = s.acct := by unfold putB; split <;> simp

@[simp] theorem putC_acct (s : State) (i sub v : Nat) : (putC s i sub v).acct = s.acct := by unfold putC; split <;> simp

@[simp] theorem putE_acct (s : State) (i sub v : Nat) : (putE s i sub v).acct = s.acct := by unfold putE; split <;> simp

@[simp] theorem objPut_acct (s : State) (i sub v : Nat) : (objPut s i sub v).acct = s.acct := by simp [objPut]

@[simp] theorem writeValue_acct (s : State) (p : Path) (r : ORow) (i sub off : Nat) (data : List Byte) : (writeValue s p r i sub off data).acct = s.acct := by
  simp [writeValue]

@[simp] theorem writeDomain_acct (s : State) (p : Path) (r : ORow) (i sub off : Nat) (data : List Byte) : (writeDomain s p r i sub off data).acct = s.acct := by
  unfold writeDomain
  split <;> simp

@[simp] theorem badCode_acct (s : State) (p : Path) (obj : Nat) : (badCode s p obj).acct = s.acct := by simp [badCode]

@[simp] theorem conflictHold_acct (s : State) (l : List WAcc) (cs : List (Nat × Nat)) : (conflictHold s l cs).acct = s.acct := by
  simp [conflictHold]

@[simp] theorem narrowRow_acct (s : State) (l : List WAcc) (n : NarrowWr) (o : Nat) : (narrowRow s l n o).1.acct = s.acct := by
  simp [narrowRow]

@[simp] theorem narrowServe_acct (free : Nat → Bool) (l : List WAcc) (n : NarrowWr) (o : Nat) (s : State) (used : List (Nat × Nat)) :
    (narrowServe free l n o s used).1.acct = s.acct := by
  simp [narrowServe]

@[simp] theorem undefXfer_acct (s : State) (c e t0 : Nat) : (undefXfer s c e t0).acct = s.acct := by unfold undefXfer; split <;> simp

@[simp] theorem clashUndef_acct (l : List WAcc) (s : State) : (clashUndef l s).acct = s.acct := by simp [clashUndef]

@[simp] theorem poolOverrun_acct (cl : Nat) (s : State) (q : PoolReq) : (poolOverrun cl s q).acct = s.acct := by simp [poolOverrun]

@[simp] theorem poolTurn_acct (l : List WAcc) (t : Nat) (s : State) (cl : Nat) : (poolTurn l t s cl).acct = s.acct := by simp [poolTurn]

@[simp] theorem bedCollide_acct (k : Nat) (s : State) (q : Nat × Nat × WAcc) : (bedCollide k s q).acct = s.acct := by simp [bedCollide]

@[simp] theorem bedTurn_acct (l : List WAcc) (s : State) : (bedTurn l s).acct = s.acct := by simp [bedTurn]

@[simp] theorem portOver_acct (s : State) (p : Nat × List PortClaim) : (portOver s p).acct = s.acct := by simp [portOver]

@[simp] theorem bulkTurn_acct (t : Nat) (s : State) : (bulkTurn t s).acct = s.acct := by simp [bulkTurn]

@[simp] theorem timeTick_acct (s : State) : (timeTick s).acct = s.acct := by simp [timeTick]

@[simp] theorem coreCompletes_acct (s : State) (c : Nat) : (coreCompletes s c).acct = s.acct := by simp [coreCompletes]

@[simp] theorem coreStarts_acct (s : State) (c : Nat) : (coreStarts s c).acct = s.acct := by simp [coreStarts]

@[simp] theorem coreEvaluates_acct (s : State) (c : Nat) : (coreEvaluates s c).acct = s.acct := by simp [coreEvaluates]

@[simp] theorem coreTurn_acct (s : State) (c : Nat) : (coreTurn s c).acct = s.acct := by simp [coreTurn]

@[simp] theorem sHold_acct (s : State) (l : List Cause) : (sHold s l).acct = s.acct := by simp [sHold]

@[simp] theorem coreSpare_acct (t : Nat) (s : State) (c : Nat) : (coreSpare t s c).acct = s.acct := by simp [coreSpare]

@[simp] theorem boundaryAt_acct (s : State) (t : Nat) : (boundaryAt s t).acct = s.acct := by simp [boundaryAt]

@[simp] theorem sAdvance.sNext_acct (s : State) : (sAdvance.sNext s).acct = s.acct := by simp [sAdvance.sNext]

@[simp] theorem eddyCount_acct (d : Nat) (s : State) : (eddyCount d s).acct = s.acct := by simp [eddyCount]

@[simp] theorem eddyClear_acct (s : State) : (eddyClear s).acct = s.acct := by simp [eddyClear]

@[simp] theorem recvReady_acct (s : State) : (recvReady s).acct = s.acct := by simp [recvReady]

@[simp] theorem devCmd_acct (s : State) (p : Path) (states : List DevState) (chk : Nat) (act : State → State) (h : (act s).acct = s.acct) :
    (devCmd s p states chk act).acct = s.acct := odCmd_acct _ _ _ _ _ _ h

@[simp] theorem bankSealCmd_acct (s : State) (p : Path) (c : Nat) (stOk room : Bool) (more : State → State) (h : ∀ t, (more t).acct = t.acct) :
    (bankSealCmd s p c stOk room more).acct = s.acct := by
  have hs (t : State) (b : Bool) (e : sealBank s c [] = (t, b)) : t.acct = s.acct := by simpa [e] using sealBank_acct s c []
  unfold bankSealCmd
  extract_lets obj
  split
  · rfl
  · split
    · simp
    · split
      · simp
      · split <;> next t e => simp [h, hs _ _ e]

@[simp] theorem replayKind_acct (s : State) (k t : Nat) (f : State → List Byte → State) (h : ∀ s d, (f s d).acct = s.acct) :
    (replayKind s k t f).acct = s.acct := by simp [replayKind, h]

@[simp] theorem hartFail_acct (s : State) (h : Nat) : (hartFail s h).1.acct = s.acct := by
  unfold hartFail; dsimp only
  split
  · simp
  · split
    · simp
    · split <;> simp

@[simp] theorem applyRepairs_acct (s : State) (es : List Nat) : (applyRepairs s es).acct = s.acct := by simp [applyRepairs]

@[simp] theorem watchdog_acct (s : State) (h : Nat) : (watchdog s h).acct = s.acct := by
  unfold watchdog; dsimp only
  split
  · rfl
  · split
    · simp
    · split <;> simp

@[simp] theorem updCmd_acct (s : State) (p : Path) (states : List UpdState) (chk : Nat) (act : State → State) (h : (act s).acct = s.acct) :
    (updCmd s p states chk act).acct = s.acct := odCmd_acct _ _ _ _ _ _ h

@[simp] theorem intcRead_acct (s : State) (a : Nat) : (intcRead s a).2.acct = s.acct := by
  simp only [intcRead, acct_snd_ite]
  split
  · rfl
  · split
    · rfl
    · split
      · split <;> simp
      · rfl

@[simp] theorem dmCommand_acct (s : State) (v : Nat) : (dmCommand s v).acct = s.acct := by
  have hs (t : State) (b : Bool) (e : dmTransfer s v = (t, b)) : t.acct = s.acct := by simpa [e] using dmTransfer_acct s v
  unfold dmCommand
  split
  · rfl
  · split
    · simp
    · split
      · simp
      · split <;> next t e => simp [hs _ _ e]

theorem outState_next (s t : State) : outState s (.next t) = t := rfl

@[simp] theorem narrowClash_acct (l : List WAcc) (s : State) (ps : List (Nat × Nat)) : (narrowClash l s ps).acct = s.acct := by
  induction ps generalizing s with
  | nil => rfl
  | cons p r ih => simp [narrowClash, ih]

@[simp] theorem sampleRace_acct (ws : List (Nat × Nat × Nat)) (t : Nat) (s : State) : (sampleRace ws t s).acct = s.acct := by
  unfold sampleRace
  refine each_acct _ _ _ fun s c => each_acct _ _ _ fun s r => ?_
  split <;> simp

@[simp] theorem eachOp_acct (s : State) (l : State → Nat → List RunOp) (f : State → Nat → RunOp → State) (h : ∀ s c r, (f s c r).acct = s.acct) :
    (eachOp s l f).acct = s.acct := by simp [eachOp, h]

@[simp] theorem opMove_acct (s : State) (c : Nat) (r : RunOp) : (opMove s c r).acct = s.acct := by
  unfold opMove
  split
  · split
    · rfl
    · split <;> simp [outState, execSend, execRecv, execTwr]
  · rfl

@[simp] theorem replayInputs_acct (s : State) : (replayInputs s).acct = s.acct := by simp [replayInputs]

@[simp] theorem sStart_acct (s : State) : (sStart s).acct = s.acct := by simp [sStart]

@[simp] theorem sEffects_acct (s : State) : (sEffects s).acct = s.acct := by simp [sEffects]

@[simp] theorem sWork_acct (s : State) : (sWork s).acct = s.acct := by
  unfold sWork
  simp only [acct_ite]
  have he : (sEffects (eachOp (sStart s) moveOps opMove)).acct = s.acct := by simp
  split
  · simp
  · split
    · simp
    · split
      · simp
      · exact he

@[simp] theorem wakeDone_acct (s : State) (bad : List MemLoc) : (wakeDone s bad).acct = s.acct := by
  unfold wakeDone; dsimp only
  split
  · rw [setState_acct, State.mapDev_acct, raise_acct, each_acct]
    · simp
    · intro t m
      split <;> simp
  · rfl

theorem feedPut_acct_eq (s : State) (b : FeedBody) : (feedPut s b).tru.mr = s.tru.mr ∧ (feedPut s b).tru.log = s.tru.log ∧ (feedPut s b).tru.logSeq = s.tru.logSeq :=
  by
  have h := feedPut_acct s b
  simpa [State.acct, -acct_eta] using h

@[simp] theorem weirClose_acct (s : State) (w : Nat) : (weirClose s w).acct = s.acct := by
  simp [weirClose, feedPut_acct_eq]

theorem narrowOne_acct (free : Nat → Bool) (l : List WAcc) (a : NarrowAcc) (n : NarrowWr) : (narrowOne free l a n).st.acct = a.st.acct := by
  have h0 (s : State) (u : List (Nat × Nat)) (b : Bool) (o : Nat) :
      (if b then (s, u, true, false) else narrowServe free l n o s u).1.acct = s.acct := by split <;> simp
  unfold narrowOne
  split
  next s u ok0 off0 hs =>
  have hs' : s.acct = a.st.acct := by simpa [hs] using h0 a.st a.used n.lo 0
  split
  next t v ok1 off1 ht =>
  have ht' : t.acct = s.acct := by simpa [ht] using h0 s u n.hi 32
  split
  · simp [ht', hs']
  · split <;> simp [ht', hs']

@[simp] theorem narrowTurn_acct (free : Nat → Bool) (l : List WAcc) (s : State) : (narrowTurn free l s).acct = s.acct := by
  unfold narrowTurn
  split
  · rfl
  · simp only [narrowClash_acct, State.mapFab_acct]
    exact List.foldlRecOn (motive := fun a : NarrowAcc => a.st.acct = s.acct) _ _ rfl fun a ha n _ => (narrowOne_acct free l a n).trans ha

@[simp] theorem narrowEddy_acct (s : State) : (narrowEddy s).acct = s.acct := by simp [narrowEddy]

@[simp] theorem arbTurn_acct (l : List WAcc) (s : State) : (arbTurn l s).acct = s.acct := by simp [arbTurn]

theorem acct_snd_eq {α : Type} {s : State} {p : α × State} (h : p.2.acct = s.acct) {a : α} {t : State} (e : p = (a, t)) : t.acct = s.acct := by
  simpa [e] using h

@[simp] theorem sbAccess_acct (s : State) (w : Bool) : (sbAccess s w).acct = s.acct := by
  unfold sbAccess
  extract_lets z n a off
  split
  · rfl
  · split
    · simp
    · split
      · simp
      · split
        · simp
        · split
          · rw [sbNext_acct]
            split
            · exact (intcWrite_acct ..).trans (intcWrite_acct ..)
            · exact intcWrite_acct ..
          · split
            next v t e =>
            have ht := acct_snd_eq (intcRead_acct s off) e
            extract_lets u
            have hu : (if z = 3 then intcRead u (off + 4) else (dmGet u 0x3D, u)).2.acct = s.acct := by split <;> simp [u, ht]
            generalize (if z = 3 then intcRead u (off + 4) else (dmGet u 0x3D, u)) = p at hu ⊢
            rcases p with ⟨v', t'⟩
            simpa using hu

@[simp] theorem dmRead_acct (s : State) (a : Nat) : (dmRead s a).2.acct = s.acct := by unfold dmRead; split <;> simp

@[simp] theorem dmWrite_acct (s : State) (a v : Nat) : (dmWrite s a v).acct = s.acct := by
  unfold dmWrite
  split
  · simp
  · split
    · rfl
    · split <;> simp

@[simp] theorem dmiScan_acct (s : State) (v : Nat) : (dmiScan s v).acct = s.acct := by unfold dmiScan; split <;> simp

/-! ### The operations that measure -/

/-- Nothing a command or a W-cycle does reaches the waiting commands, and the log goes on accounting for the registers. -/
structure Keeps (s t : State) : Prop where
  pending : t.pending = s.pending
  meas : MeasInv s → MeasInv t

namespace Keeps

theorem refl (s : State) : Keeps s s := ⟨rfl, id⟩

theorem trans {s t u : State} (h : Keeps s t) (k : Keeps t u) : Keeps s u := ⟨k.pending.trans h.pending, k.meas ∘ h.meas⟩

theorem of_acct {s t : State} (h : t.acct = s.acct) : Keeps s t := by
  simp only [State.acct, Account.mk.injEq] at h
  obtain ⟨hp, hm, hl, hq⟩ := h
  exact ⟨hp, fun k => ⟨by rw [hl, hq]; exact k.count, by rw [hl, hq]; exact k.seqs, by rw [hm, hl, hq]; exact k.replay⟩⟩

/-- A change outside the account after a step that keeps it. -/
theorem acct {s t u : State} (h : Keeps s t) (e : u.acct = t.acct) : Keeps s u := h.trans (of_acct e)

theorem ite {c : Prop} [Decidable c] {s t u : State} (h : Keeps s t) (k : Keeps s u) : Keeps s (if c then t else u) := by split <;> assumption

theorem cond {s t : State} (b : Bool) {f : State → State} (h : Keeps s t) (k : Keeps t (f t)) : Keeps s (t.cond b f) := by
  cases b
  · exact h
  · exact h.trans k

theorem foldl {α : Type} {s t : State} {f : State → α → State} {l : List α} (h : Keeps s t) (k : ∀ u x, Keeps u (f u x)) : Keeps s (l.foldl f t) :=
  List.foldlRecOn (motive := Keeps s) l f h fun u hu x _ => hu.trans (k u x)

theorem each {α : Type} {s t : State} {f : State → α → State} {l : List α} (h : Keeps s t) (k : ∀ u x, Keeps u (f u x)) : Keeps s (t.each l f) :=
  foldl h k

end Keeps

theorem extendMR_keeps (s : State) (typ m v : Nat) (sg dg : List Byte) : Keeps s (extendMR s typ m v sg dg) := ⟨extendMR_pending .., extendMR_measInv s _ _ _ _ _⟩

theorem measure_keeps (s : State) (typ m : Nat) (dg : List Byte) : Keeps s (measure s typ m dg) := extendMR_keeps ..

theorem measureSigned_keeps (s : State) (typ m : Nat) (ks : List (List Byte)) (b sg : List Byte) : Keeps s (measureSigned s typ m ks b sg) :=
  ⟨measureSigned_pending .., measureSigned_measInv s _ _ _ _ _⟩

theorem measureDebug_keeps (s : State) (k : Nat) : Keeps s (measureDebug s k) := measure_keeps ..

theorem debugHalt_keeps (s : State) (cause : Nat) : Keeps s (debugHalt s cause) := by
  refine Keeps.trans (.of_acct ?_) (measureDebug_keeps ..)
  simp

theorem adPublish_keeps (s : State) (a : Nat) : Keeps s (adPublish s a) := by
  unfold adPublish
  extract_lets x s1
  have h1 : Keeps s s1 := .each (.refl s) fun u j => .ite (.of_acct (by simp)) (.refl u)
  split
  · next s2 s3 _ =>
    have h3 : Keeps s s3 := (h1.acct (u := s2) (by simp [s2])).trans (measure_keeps ..)
    exact h3.acct (by simp)
  · exact h1.acct (by simp)

theorem applyChange_keeps (s : State) (r : List Byte) : Keeps s (applyChange s r) := by
  have h : Keeps s (adPublish s (fieldAt r 2 2)) := adPublish_keeps ..
  unfold applyChange
  extract_lets k i a x
  iterate 4 refine .ite (.of_acct (by simp)) ?_
  exact .ite h (.ite (.of_acct (by simp)) (.of_acct (by simp)))

theorem applyUpdate_keeps (s : State) (u : List Byte) : Keeps s (applyUpdate s u) := by
  have h : Keeps s (s.cond ((byteAt u 4).getLsbD 3) fun s => applyChange s ((u.drop 56).take 8)) := .cond _ (.refl s) (applyChange_keeps ..)
  unfold applyUpdate
  exact h.acct (by simp)

theorem slotTableApply_keeps (s : State) : Keeps s (slotTableApply s) := by
  unfold slotTableApply
  extract_lets t s1 s2 s3
  have h1 : s1.acct = s.acct := by unfold s1; split <;> simp
  have h3 : Keeps s2 s3 := by
    unfold s3; split
    · exact applyUpdate_keeps ..
    · exact .refl s2
  have h3' : Keeps s s3 := .trans (.of_acct (by simp [s2, h1])) h3
  clear_value s3
  exact h3'.acct (by simp +zetaDelta)

theorem pathSwitch_keeps (s : State) : Keeps s (pathSwitch s) := by
  unfold pathSwitch
  split
  · exact .trans (.of_acct (by simp)) (measure_keeps ..)
  · exact .of_acct (by simp)

theorem measureManifest_keeps (s : State) (m : Manifest) : Keeps s (measureManifest s m) := measureSigned_keeps ..

theorem swapApply_keeps (s : State) : Keeps s (swapApply s) := by
  unfold swapApply
  split
  · exact .refl s
  · exact .trans (.of_acct (by simp)) (measure_keeps ..)

theorem swapTick_keeps (s : State) (t : Nat) : Keeps s (swapTick s t) := by
  unfold swapTick
  split
  · split
    · split
      next im _ =>
        have h : Keeps s (measureManifest (manInstall s im.man s.wts.swKeep) im.man) := .trans (.of_acct (by simp)) (measureManifest_keeps ..)
        exact h.acct (by simp)
      next => exact .refl s
    · exact .refl s
  · exact .of_acct (by split <;> simp)
  · exact .of_acct (by split <;> simp)
  · exact .refl s

theorem imageAccept_keeps (s : State) (m : Mem) : Keeps s (imageAccept s m) := by
  unfold imageAccept
  extract_lets pm im s1 s2 s3
  have h : Keeps s s3 := ((measureManifest_keeps s im.man).trans (measure_keeps ..)).trans (measure_keeps ..)
  clear_value s3
  exact h.acct (by simp +zetaDelta)

theorem swapStage_keeps (s : State) : Keeps s (swapStage s) := by
  unfold swapStage
  extract_lets m r s1 im s2 s3
  split
  · exact .of_acct (by simp [s1])
  · have h : Keeps s s2 := .of_acct (by simp [s2, s1])
    have h3 : Keeps s s3 := h.trans (measure_keeps ..)
    exact h3.acct (by simp)

theorem applyStaged_keeps (s : State) (k : StageKind) : Keeps s (applyStaged s k) := by
  cases k with
  | numctl c v => exact .of_acct (by simp [applyStaged])
  | segment u v => exact .of_acct (by simp [applyStaged])
  | bankSwitch c => exact .of_acct (by simp [applyStaged])
  | pathSwitch => exact pathSwitch_keeps s
  | swapSwitch => exact swapApply_keeps s

theorem jobBegin_keeps (s : State) : Keeps s (jobBegin s) := by
  unfold jobBegin
  extract_lets s1 s2 s3 r s4 s5 s6 s7 s8 s9 i s10
  have h7 : Keeps s s7 := .of_acct (by simp +zetaDelta)
  have h8 : Keeps s s8 := .each h7 fun u g => applyStaged_keeps u g.kind
  exact h8.acct (by simp +zetaDelta)

theorem jobStart_keeps (s : State) : Keeps s (jobStart s) := by
  unfold jobStart
  extract_lets e ch s1 s2
  have h2 : Keeps s s2 := .of_acct (by simp [s2, s1])
  exact .ite ((h2.trans (slotTableApply_keeps s2)).acct (by simp)) (.refl s)

theorem weirDebug_keeps (s : State) : Keeps s (weirDebug s) := by
  unfold weirDebug
  split
  · exact debugHalt_keeps ..
  · exact .ite (debugHalt_keeps ..) (.ite (debugHalt_keeps ..) (.refl s))

theorem stepBegin_keeps (s : State) : Keeps s (stepBegin s) := .trans (.of_acct (by simp)) (weirDebug_keeps _)

theorem weirFrom9_keeps (s : State) : Keeps s (weirFrom9 s) := by
  unfold weirFrom9
  extract_lets e ch s1 s2 s3
  have h1 : s1.acct = s.acct := by simp [s1]
  split
  · exact .trans (.of_acct (by simp [h1])) (stepBegin_keeps _)
  · exact .of_acct (by simp [s3, s2, h1])

theorem weirFrom8_keeps (s : State) : Keeps s (weirFrom8 s) := by
  unfold weirFrom8
  split
  · exact .of_acct (by simp)
  · exact weirFrom9_keeps s

theorem weirFrom7_keeps (s : State) : Keeps s (weirFrom7 s) := .ite (weirFrom8_keeps s) (.of_acct (by simp))

theorem weirResume_keeps (s : State) : Keeps s (weirResume s) := by
  unfold weirResume
  split
  · exact .refl s
  · split
    · exact weirFrom7_keeps s
    · exact weirFrom8_keeps s
    · exact weirFrom9_keeps s
    · exact .trans (.of_acct (by simp)) (stepBegin_keeps _)
    · exact .refl s

theorem stagedApply_keeps (s : State) : Keeps s (stagedApply s) := by
  unfold stagedApply
  extract_lets l s1 s2
  have h1 : Keeps s s1 := .of_acct (by simp [s1])
  have h2 : Keeps s s2 := .each h1 fun u g => by
    split
    · exact .of_acct (by simp)
    · exact (applyStaged_keeps u g.kind).acct (by simp)
  exact h2.trans (swapTick_keeps ..)

theorem weirFrom6_keeps (s : State) : Keeps s (weirFrom6 s) := by
  unfold weirFrom6
  extract_lets s1
  have h1 : s1.acct = s.acct := by simp [s1]
  split
  · exact .of_acct (by simp [h1])
  · split
    · exact .acct (.trans (.of_acct (by simp [h1])) (stagedApply_keeps (addCause (s1.mapSch fun k => { k with weirPhase := 7 }) 6 0))) (by simp)
    · exact ((Keeps.of_acct h1).trans (stagedApply_keeps _)).trans (weirFrom7_keeps _)

theorem stagedCheck_keeps (s : State) : Keeps s (stagedCheck s) := .ite ((stagedApply_keeps s).acct (by simp)) (.refl s)

theorem replayBank_keeps (s : State) (d : List Byte) : Keeps s (replayBank s d) := by
  unfold replayBank
  extract_lets n ok m
  split
  · split
    · exact .trans (.of_acct (by simp)) (pathSwitch_keeps _)
    · exact .refl s
  · exact .ite (.of_acct (by simp)) (.refl s)

theorem drainEnd_keeps (s : State) : Keeps s (drainEnd s) := by
  unfold drainEnd
  extract_lets s1 now l s2
  exact .each (.of_acct (by simp [s2, s1])) fun u g => applyStaged_keeps u g.kind

theorem replayKind_keeps (s : State) (k t : Nat) (f : State → List Byte → State) (h : ∀ u d, Keeps u (f u d)) : Keeps s (replayKind s k t f) :=
  .each (.of_acct (by simp)) fun u e => h u e.data

theorem weirEnd_keeps (s : State) : Keeps s (weirEnd s) := by
  unfold weirEnd
  split
  · exact .refl s
  next w _ =>
    split
    · extract_lets s1
      have h1 : Keeps s s1 := .of_acct (by simp [s1])
      split
      · exact h1.acct (by simp)
      next s2 s3 s4 s5 s6 s7 _ _ =>
        have h2 : Keeps s s2 := h1.acct (by simp [s2])
        have h3 : Keeps s s3 := .cond _ h2 ((replayKind_keeps s2 4 (w + 11) replayBank replayBank_keeps).acct (by simp))
        have h5 : Keeps s s5 := .cond _ (h3.acct (by simp [s4])) (replayKind_keeps s4 5 _ _ fun u _ => by
          split
          · exact applyStaged_keeps ..
          · exact .refl u)
        have h6 : Keeps s s6 := h5.trans (slotTableApply_keeps s5)
        split
        · have h7 : Keeps s s7 := .trans (h6.acct (by simp)) (drainEnd_keeps (inpStop s6 2))
          exact h7.acct (by simp)
        · exact h6.trans (weirFrom6_keeps s6)
    · exact .refl s

theorem segSettle_keeps (s : State) : Keeps s (segSettle s) :=
  .ite (stagedCheck_keeps s) (.each (.of_acct (by simp)) fun u g => applyStaged_keeps u g.kind)

theorem fwMeasure_keeps (s : State) (typ b : Nat) : Keeps s (fwMeasure s typ b) := by
  unfold fwMeasure
  extract_lets fw v q s1
  have h : Keeps s s1 := extendMR_keeps ..
  exact .ite (h.acct (by simp)) h

theorem fwStart_keeps (s : State) : Keeps s (fwStart s) := (fwMeasure_keeps s 0x10 0).acct (by simp [fwStart])

theorem cfgApply_keeps (s : State) : Keeps s (cfgApply s) := by
  unfold cfgApply
  extract_lets m so s1
  have h : Keeps s s1 := measureSigned_keeps ..
  clear_value s1
  exact h.acct (by simp +zetaDelta)

theorem reset_measInv : MeasInv State.reset := ⟨rfl, fun i e h => by simp [State.reset] at h, fun _ => rfl⟩

theorem resetDie_keeps (s : State) (seg : Nat) : Keeps s (resetDie s seg) := ⟨rfl, fun _ => measInv_congr (s := State.reset) rfl reset_measInv⟩

theorem bootStart_keeps (s : State) (seg : Nat) : Keeps s (bootStart s seg) := by
  unfold bootStart
  extract_lets s1 r s2 s3 s4 s5
  have h1 : Keeps s s1 := resetDie_keeps ..
  have h5 : Keeps s s5 := ((h1.acct (u := s3) (by simp [s3, s2, r])).trans (measure_keeps s3 0x01 0 romDigestBytes)).trans (measure_keeps ..)
  clear_value s5
  exact h5.acct (by simp +zetaDelta)

theorem dbgCode_keeps (s : State) (code cause n : Nat) : Keeps s (dbgCode s code cause n) := by
  unfold dbgCode
  split
  · exact .ite (debugHalt_keeps ..) (.refl s)
  · exact .of_acct (by simp)
  · exact .of_acct (by simp)
  · exact .of_acct (by simp)
  · exact .of_acct (by simp)
  · exact .refl s

theorem odCmd_keepsAcct (s : State) (p : Path) (obj : Nat) (stOk : Bool) (chk : Nat) (act : State → State) (h : Keeps s (act s)) :
    Keeps s (odCmd s p obj stOk chk act) := by
  unfold odCmd
  iterate 4 refine .ite (.of_acct (by simp)) ?_
  exact h.acct (by simp)

theorem odTake_keeps (s : State) (p : Path) (i : Instr) (full now : State) (hf : full.acct = s.acct) (hn : Keeps s now) :
    Keeps s (odTake s p i full now) := .ite hn (.ite (.of_acct (by simp)) (.of_acct hf))

theorem odReq_keeps (s : State) (p : Path) (obj : Nat) (i : Instr) (now : State) (h : Keeps s now) : Keeps s (odReq s p obj i now) :=
  odTake_keeps s p i _ now (by simp) h

theorem dbgCmd_keeps (s : State) (p : Path) (code : Nat) : Keeps s (dbgCmd s p code) := odCmd_keepsAcct _ _ _ _ _ _ (dbgCode_keeps ..)

theorem breakFire_keeps (s : State) (k : Nat) : Keeps s (breakFire s k) := .ite (.trans (.of_acct (by simp)) (debugHalt_keeps _ _)) (.refl s)

theorem dbgWriteTo_keeps (s : State) (t o : Nat) (bs : List Byte) : Keeps s (dbgWriteTo s t o bs) := by
  unfold dbgWriteTo
  extract_lets s1 k tt s2
  have h : Keeps s s2 := .of_acct (by simp [s2, s1])
  exact .ite h (h.trans (measureDebug_keeps s2 3))

theorem jtagSession_keeps (s : State) : Keeps s (jtagSession s) := by
  unfold jtagSession
  split
  · exact .refl s
  · extract_lets s1
    have h : Keeps s s1 := .trans (.of_acct (by simp)) (measureDebug_keeps _ 1)
    exact h.acct (by simp)

theorem cdbgScan_keeps (s : State) (v : Nat) : Keeps s (cdbgScan s v) := .trans (.of_acct (by simp)) (dbgCode_keeps ..)

theorem cmemScan_keeps (s : State) (v : Nat) : Keeps s (cmemScan s v) := by
  unfold cmemScan
  extract_lets res
  split
  next t _ => exact .ite ((dbgWriteTo_keeps s t 0 (leBytes 4 (bits v 63 32))).acct (by simp [res])) (.of_acct (by simp [res]))
  · exact .of_acct (by simp [res])

theorem pathSealCmd_keeps (s : State) (p : Path) (stOk room : Bool) (more : State → State) (h : ∀ t, Keeps t (more t)) :
    Keeps s (pathSealCmd s p stOk room more) := by
  unfold pathSealCmd
  extract_lets obj
  iterate 3 refine .ite (.of_acct (by simp)) ?_
  have hs : (pathSeal s).1.acct = s.acct := by simp
  split
  next t e =>
    have ht : Keeps s t := .of_acct (by simpa [e] using hs)
    exact .ite (.acct (ht.trans (h t)) (by simp)) (.of_acct (by simp))
  next t e =>
    have ht : Keeps s t := .of_acct (by simpa [e] using hs)
    exact ht.acct (by simp)

theorem tickHalts_keeps (s : State) : Keeps s (tickHalts s) := by
  unfold tickHalts
  refine .ite (.ite (debugHalt_keeps ..) (.ite (debugHalt_keeps ..) (.ite ?_ (.refl s)))) (.refl s)
  exact .trans (.of_acct (by simp)) (debugHalt_keeps _ 5)

theorem sAdvance_keeps (s : State) : Keeps s (sAdvance s) := by
  have hn (u : State) : (sAdvance.sNext u).acct = u.acct := by simp [sAdvance.sNext]
  unfold sAdvance
  extract_lets s1 s2
  have h : Keeps s s2 := .of_acct (by simp [s2, s1])
  split
  · exact h
  · split
    next w _ =>
      split
      · exact ((h.acct (by simp)).trans (weirEnd_keeps (boundaryAt s2 (w + 12)))).trans (tickHalts_keeps _)
      · exact h.acct (hn s2)
    · exact (h.acct (hn s2)).trans (tickHalts_keeps _)

theorem eddyTick_keeps (d : Nat) (s : State) : Keeps s (eddyTick d s) := by
  unfold eddyTick
  split
  · exact .refl s
  · extract_lets s1 s2 s3
    have h2 : Keeps s s2 := .of_acct (by simp [s2, s1])
    have h3 : Keeps s s3 := .acct (.trans (h2.acct (by simp)) (weirResume_keeps (eddyClear s2))) (by simp [s3])
    exact h3.trans (tickHalts_keeps s3)

theorem runTick_keeps (d : Nat) (s : State) : Keeps s (runTick d s) := by
  unfold runTick
  extract_lets s1
  have h1 : Keeps s s1 := .of_acct (by simp [s1])
  split
  · exact .trans (.of_acct (by simp)) (eddyTick_keeps ..)
  · split
    next l cs _ => exact .ite (.trans (.of_acct (by simp [s1])) (sAdvance_keeps _)) (.trans (.of_acct (by simp)) (eddyTick_keeps ..))
    · exact .ite (h1.trans (eddyTick_keeps ..)) h1

theorem tick_keeps (s : State) : Keeps s (tick s) := by
  unfold tick
  extract_lets d s1
  have h1 : Keeps s s1 := .of_acct (by simp [s1])
  exact .ite (h1.trans (runTick_keeps ..)) (.ite (h1.trans (eddyTick_keeps ..)) (.ite h1 (h1.acct (by simp))))

/-! ### The commands -/

/-- A command that runs: it neither faults nor is refused, and keeps the queue and the log's account. -/
def Runs (s : State) (o : Host.Outcome State Fault Refusal) : Prop := ∃ t, o = .next t ∧ Keeps s t

theorem Keeps.runs {s t : State} (h : Keeps s t) : Runs s (.next t) := ⟨t, rfl, h⟩

theorem Runs.outState {s : State} {o : Host.Outcome State Fault Refusal} (h : Runs s o) : Keeps s (outState s o) := by
  obtain ⟨t, rfl, h⟩ := h
  exact h

theorem runs_of_acct {s t : State} (h : t.acct = s.acct) : Runs s (.next t) := (Keeps.of_acct h).runs

theorem execSync_runs (c : CoreId) (s : State) : Runs s (execSync c s) := runs_of_acct (by simp)

theorem execSli_runs (c : CoreId) (s : State) : Runs s (execSli c s) := runs_of_acct (by simp)

theorem execSalu_runs (c : CoreId) (s : State) : Runs s (execSalu c s) := runs_of_acct (by simp)

theorem execSld_runs (c : CoreId) (s : State) : Runs s (execSld c s) := runs_of_acct (by simp)

theorem execSlotmask_runs (c : CoreId) (s : State) : Runs s (execSlotmask c s) := runs_of_acct (by simp)

theorem execWeir_runs (c : CoreId) (s : State) : Runs s (execWeir c s) := runs_of_acct (by simp)

theorem execBankarm_runs (c : CoreId) (s : State) : Runs s (execBankarm c s) := runs_of_acct (by simp)

theorem execQueueFreeDispatch_runs (c : CoreId) (s : State) : Runs s (execQueueFreeDispatch c s) := runs_of_acct (by simp)

theorem execEngineStart_runs (c : CoreId) (e : Fin 16) (s : State) : Runs s (execEngineStart c e s) := runs_of_acct (by simp)

theorem execOperationComplete_runs (c : CoreId) (e : Fin 16) (s : State) : Runs s (execOperationComplete c e s) := runs_of_acct (by simp)

theorem execFlagSignalEffect_runs (c : CoreId) (f : Fin 64) (s : State) : Runs s (execFlagSignalEffect c f s) := runs_of_acct (by simp)

theorem execStream_runs (c : CoreId) (a : Fin 4) (s : State) : Runs s (execStream c a s) := runs_of_acct (by simp)

theorem execStload_runs (c : CoreId) (a : Fin 4) (s : State) : Runs s (execStload c a s) := runs_of_acct (by simp)

theorem execSwap_runs (c : CoreId) (a : Fin 4) (s : State) : Runs s (execSwap c a s) := runs_of_acct (by simp)

theorem execDrain_runs (c : CoreId) (a : Fin 4) (s : State) : Runs s (execDrain c a s) := runs_of_acct (by simp)

theorem execSndload_runs (c : CoreId) (a : Fin 4) (s : State) : Runs s (execSndload c a s) := runs_of_acct (by simp)

theorem execSoundingEvaluate_runs (c : CoreId) (a : Fin 4) (s : State) : Runs s (execSoundingEvaluate c a s) := runs_of_acct (by simp)

theorem execVsetvl_runs (c : CoreId) (s : State) : Runs s (execVsetvl c s) := runs_of_acct (by split <;> simp)

theorem execVint_runs (c : CoreId) (s : State) : Runs s (execVint c s) := runs_of_acct (by simp)

theorem execVcmp_runs (c : CoreId) (s : State) : Runs s (execVcmp c s) := runs_of_acct (by simp)

theorem execVmask_runs (c : CoreId) (s : State) : Runs s (execVmask c s) := runs_of_acct (by simp)

theorem execVcvt_runs (c : CoreId) (s : State) : Runs s (execVcvt c s) := runs_of_acct (by simp)

theorem execVld_runs (c : CoreId) (s : State) : Runs s (execVld c s) := runs_of_acct (by simp)

theorem execVst_runs (c : CoreId) (s : State) : Runs s (execVst c s) := runs_of_acct (by simp)

theorem execVflt_runs (c : CoreId) (s : State) : Runs s (execVflt c s) := runs_of_acct (by simp)

theorem execVperm_runs (c : CoreId) (s : State) : Runs s (execVperm c s) := runs_of_acct (by simp)

theorem execVacc_runs (c : CoreId) (s : State) : Runs s (execVacc c s) := runs_of_acct (by simp)

theorem execVrcp_runs (c : CoreId) (s : State) : Runs s (execVrcp c s) := runs_of_acct (by simp)

theorem execVexp_runs (c : CoreId) (s : State) : Runs s (execVexp c s) := runs_of_acct (by simp)

theorem execVdiv_runs (c : CoreId) (s : State) : Runs s (execVdiv c s) := runs_of_acct (by simp)

theorem execVred_runs (c : CoreId) (s : State) : Runs s (execVred c s) := runs_of_acct (by simp)

theorem execSoftmax_runs (c : CoreId) (s : State) : Runs s (execSoftmax c s) := runs_of_acct (by simp)

theorem execRmsnorm_runs (c : CoreId) (s : State) : Runs s (execRmsnorm c s) := runs_of_acct (by simp)

theorem execLayernorm_runs (c : CoreId) (s : State) : Runs s (execLayernorm c s) := runs_of_acct (by simp)

theorem execRotary_runs (c : CoreId) (s : State) : Runs s (execRotary c s) := runs_of_acct (by simp)

theorem execUnpack_runs (c : CoreId) (s : State) : Runs s (execUnpack c s) := runs_of_acct (by simp)

theorem execSplit_runs (c : CoreId) (s : State) : Runs s (execSplit c s) := runs_of_acct (by simp)

theorem execGather_runs (c : CoreId) (s : State) : Runs s (execGather c s) := runs_of_acct (by simp)

theorem execSample_runs (c : CoreId) (s : State) : Runs s (execSample c s) := runs_of_acct (by simp)

theorem execVerify_runs (c : CoreId) (s : State) : Runs s (execVerify c s) := runs_of_acct (by simp)

theorem execCopy_runs (c : CoreId) (d : Fin 4) (s : State) : Runs s (execCopy c d s) := runs_of_acct (by simp)

theorem execFill_runs (c : CoreId) (d : Fin 4) (s : State) : Runs s (execFill c d s) := runs_of_acct (by simp)

theorem execTrd_runs (c : CoreId) (d : Fin 4) (s : State) : Runs s (execTrd c d s) := runs_of_acct (by simp)

theorem execTwr_runs (c : CoreId) (d : Fin 4) (s : State) : Runs s (execTwr c d s) := runs_of_acct (by simp)

theorem execSend_runs (c : CoreId) (d : Fin 4) (s : State) : Runs s (execSend c d s) := runs_of_acct (by simp)

theorem execRecv_runs (c : CoreId) (d : Fin 4) (s : State) : Runs s (execRecv c d s) := runs_of_acct (by simp)

theorem execReceiveComplete_runs (c : CoreId) (d : Fin 4) (s : State) : Runs s (execReceiveComplete c d s) := runs_of_acct (by split <;> simp)

theorem execInjectionSpaceFree_runs (b : Fin 136) (s : State) : Runs s (execInjectionSpaceFree b s) := runs_of_acct (by simp)

theorem execTribInputArrive_runs (q : Fin 128) (entry : List Byte) (s : State) : Runs s (execTribInputArrive q entry s) := runs_of_acct (by simp)

theorem execTribOutputSpace_runs (n : Nat) (s : State) : Runs s (execTribOutputSpace n s) := runs_of_acct (by simp)

theorem execBankConflictServed_runs (c : CoreId) (m : Nat) (s : State) : Runs s (execBankConflictServed c m s) := runs_of_acct (by simp)

theorem execEddyLimit_runs (s : State) : Runs s (execEddyLimit s) := runs_of_acct (by simp)

theorem execOxbowLimit_runs (s : State) : Runs s (execOxbowLimit s) := runs_of_acct (by simp)

theorem execWeirBegin_runs (s : State) : Runs s (execWeirBegin s) := runs_of_acct (by simp)

theorem execUncorrectableRead_runs (m : MemLoc) (persistent : Bool) (s : State) : Runs s (execUncorrectableRead m persistent s) := runs_of_acct (by simp)

theorem execReplayReady_runs (refetch : List Byte) (s : State) : Runs s (execReplayReady refetch s) := runs_of_acct (by simp)

theorem execUncorrectableOutside_runs (m : MemLoc) (refetch : List Byte) (s : State) : Runs s (execUncorrectableOutside m refetch s) := runs_of_acct (by simp)

theorem execScrubLine_runs (m : MemLoc) (corrected : Nat) (race : ScrubRace) (s : State) : Runs s (execScrubLine m corrected race s) := runs_of_acct (by simp)

theorem execScrubOverrun_runs (s : State) : Runs s (execScrubOverrun s) := runs_of_acct (by simp)

theorem execSegmentMaskWrite_runs (p : Path) (u : SegUnit) (mask : BitVec 8) (s : State) : Runs s (execSegmentMaskWrite p u mask s) := runs_of_acct (by simp)

theorem execPartitionWrite_runs (p : Path) (i : Fin 8) (v : BitVec 64) (s : State) : Runs s (execPartitionWrite p i v s) :=
  runs_of_acct (odReq_acct _ _ _ _ _ (odCmd_acct _ _ _ _ _ _ (by simp)))

theorem execFlushOndieDone_runs (s : State) : Runs s (execFlushOndieDone s) := runs_of_acct (by simp)

theorem execFlushComplete_runs (s : State) : Runs s (execFlushComplete s) := runs_of_acct (by simp)

theorem execControlMessage_runs (m : CtlMsg) (s : State) : Runs s (execControlMessage m s) := runs_of_acct (by simp)

theorem execLoad_runs (p : Path) (s : State) : Runs s (execLoad p s) := runs_of_acct (by simp)

theorem execImageWrite_runs (p : Path) (off : BitVec 32) (data : List Byte) (s : State) : Runs s (execImageWrite p off data s) := runs_of_acct (by simp)

theorem execPlacementWrite_runs (p : Path) (off : BitVec 32) (data : List Byte) (s : State) : Runs s (execPlacementWrite p off data s) := runs_of_acct (by simp)

theorem execUnload_runs (p : Path) (s : State) : Runs s (execUnload p s) := runs_of_acct (by simp)

theorem execDrainCmd_runs (p : Path) (s : State) : Runs s (execDrainCmd p s) := runs_of_acct (odReq_acct _ _ _ _ _ (devCmd_acct _ _ _ _ _ (by simp)))

theorem execKill_runs (p : Path) (s : State) : Runs s (execKill p s) := runs_of_acct (by simp)

theorem execKillWeights_runs (p : Path) (s : State) : Runs s (execKillWeights p s) := runs_of_acct (by simp)

theorem execSleep_runs (p : Path) (s : State) : Runs s (execSleep p s) := runs_of_acct (by simp)

theorem execWake_runs (p : Path) (s : State) : Runs s (execWake p s) := runs_of_acct (by simp)

theorem execWakeComplete_runs (bad : List MemLoc) (s : State) : Runs s (execWakeComplete bad s) := runs_of_acct (by simp)

theorem execSleepReqAssert_runs (s : State) : Runs s (execSleepReqAssert s) := runs_of_acct (by simp)

theorem execSleepReqRelease_runs (s : State) : Runs s (execSleepReqRelease s) := runs_of_acct (by simp)

theorem execBankWrite_runs (p : Path) (c : CoreId) (place : BankPlace) (data : List Byte) (s : State) : Runs s (execBankWrite p c place data s) :=
  runs_of_acct (by simp)

theorem execBankSeal_runs (p : Path) (c : CoreId) (s : State) : Runs s (execBankSeal p c s) := runs_of_acct (by simp)

theorem execBankSealSwitch_runs (p : Path) (c : CoreId) (s : State) : Runs s (execBankSealSwitch p c s) := runs_of_acct (by simp)

theorem execPathBankWrite_runs (p : Path) (off : BitVec 32) (data : List Byte) (s : State) : Runs s (execPathBankWrite p off data s) := runs_of_acct (by simp)

theorem execPathBankSeal_runs (p : Path) (s : State) : Runs s (execPathBankSeal p s) := runs_of_acct (by simp)

theorem execLinkFrameReceive_runs (l : LinkId) (f : Frame) (s : State) : Runs s (execLinkFrameReceive l f s) := runs_of_acct (by simp)

theorem execLinkEnable_runs (p : Path) (l : LinkId) (v : BitVec 32) (s : State) : Runs s (execLinkEnable p l v s) := runs_of_acct (by simp)

theorem execLinkDisable_runs (p : Path) (l : LinkId) (v : BitVec 32) (s : State) : Runs s (execLinkDisable p l v s) := runs_of_acct (by simp)

theorem execLinkRetrain_runs (p : Path) (l : LinkId) (v : BitVec 32) (s : State) : Runs s (execLinkRetrain p l v s) := runs_of_acct (by simp)

theorem execLinkFault_runs (l : LinkId) (bad : BitVec 8) (s : State) : Runs s (execLinkFault l bad s) := runs_of_acct (by simp)

theorem execLinkTrained_runs (l : LinkId) (bad : BitVec 8) (delay : Nat) (s : State) : Runs s (execLinkTrained l bad delay s) := runs_of_acct (by simp)

theorem execLinkTrainTimeout_runs (l : LinkId) (s : State) : Runs s (execLinkTrainTimeout l s) := runs_of_acct (by simp)

theorem execPacketArrive_runs (l : LinkId) (pk : Packet) (s : State) : Runs s (execPacketArrive l pk s) := runs_of_acct (by simp)

theorem execLocalRouteDeliver_runs (set2 : Bool) (v : Fin 8) (s : State) : Runs s (execLocalRouteDeliver set2 v s) := runs_of_acct (by simp)

theorem execReducePlaceFree_runs (s : State) : Runs s (execReducePlaceFree s) := runs_of_acct (by simp)

theorem execGateWrite_runs (p : Path) (l : LinkId) (v : BitVec 8) (s : State) : Runs s (execGateWrite p l v s) := runs_of_acct (by simp)

theorem execClassDrained_runs (l : LinkId) (tc : Fin 4) (s : State) : Runs s (execClassDrained l tc s) := runs_of_acct (by simp)

theorem execDrainTimeout_runs (l : LinkId) (tc : Fin 4) (s : State) : Runs s (execDrainTimeout l tc s) := runs_of_acct (by simp)

theorem execBeaconSend_runs (s : State) : Runs s (execBeaconSend s) := runs_of_acct (by simp)

theorem execBeaconReceive_runs (l : LinkId) (t : BitVec 64) (s : State) : Runs s (execBeaconReceive l t s) := runs_of_acct (by simp)

theorem execBeaconTimeout_runs (s : State) : Runs s (execBeaconTimeout s) := runs_of_acct (by simp)

theorem execIntakeHeader_runs (st : Fin 8) (payload : List Byte) (s : State) : Runs s (execIntakeHeader st payload s) := runs_of_acct (by simp)

theorem execIntakeData_runs (st : Fin 8) (tag : Nat) (payload : List Byte) (s : State) : Runs s (execIntakeData st tag payload s) := runs_of_acct (by simp)

theorem execTribPieceWrite_runs (data : List Byte) (s : State) : Runs s (execTribPieceWrite data s) := runs_of_acct (by simp)

theorem execPieceHashComplete_runs (i : Nat) (s : State) : Runs s (execPieceHashComplete i s) := runs_of_acct (by simp)

theorem execSourceRequest_runs (s : State) : Runs s (execSourceRequest s) := runs_of_acct (by simp)

theorem execPieceRequest_runs (payload : List Byte) (s : State) : Runs s (execPieceRequest payload s) := runs_of_acct (by simp)

theorem execRescanPiece_runs (i : Nat) (s : State) : Runs s (execRescanPiece i s) := runs_of_acct (by simp)

theorem execRescanOverrun_runs (s : State) : Runs s (execRescanOverrun s) := runs_of_acct (by simp)

theorem execSwapImageWrite_runs (p : Path) (off : BitVec 32) (data : List Byte) (s : State) : Runs s (execSwapImageWrite p off data s) := runs_of_acct (by simp)

theorem execSwapCancel_runs (p : Path) (s : State) : Runs s (execSwapCancel p s) := by
  refine runs_of_acct (odReq_acct _ _ _ _ _ (odCmd_acct _ _ _ _ _ _ ?_))
  rw [swapDrop_acct]
  split <;> simp

theorem execReleaseStepWrite_runs (p : Path) (v : BitVec 64) (s : State) : Runs s (execReleaseStepWrite p v s) := runs_of_acct (by simp)

theorem execSwapFillLimit_runs (s : State) : Runs s (execSwapFillLimit s) := runs_of_acct (by simp)

theorem execSwapReadyNotice_runs (s : State) : Runs s (execSwapReadyNotice s) := runs_of_acct (by simp)

theorem execServingRequest_runs (msg : List Byte) (s : State) : Runs s (execServingRequest msg s) := by
  refine runs_of_acct ?_
  split
  · rfl
  · split
    · extract_lets s1 r
      split <;> simp [s1]
    · simp

theorem execEndRequest_runs (msg : List Byte) (s : State) : Runs s (execEndRequest msg s) := runs_of_acct (by simp)

theorem execParkLimit_runs (sl : SlotId) (s : State) : Runs s (execParkLimit sl s) := runs_of_acct (by simp)

theorem execBudgetAdd_runs (p : Path) (v : BitVec 64) (s : State) : Runs s (execBudgetAdd p v s) := runs_of_acct (by simp)

theorem execCutStepWrite_runs (p : Path) (v : BitVec 64) (s : State) : Runs s (execCutStepWrite p v s) := runs_of_acct (by simp)

theorem execAdapterAlloc_runs (p : Path) (id : BitVec 32) (s : State) : Runs s (execAdapterAlloc p id s) := by
  refine runs_of_acct (odReq_acct _ _ _ _ _ (odCmd_acct _ _ _ _ _ _ ?_))
  split
  next t h =>
    split at h
    · exact adAlloc_acct h
    · cases h
  · simp

theorem execAdapterDataWrite_runs (p : Path) (off : BitVec 32) (data : List Byte) (s : State) : Runs s (execAdapterDataWrite p off data s) := by
  refine runs_of_acct (odReq_acct _ _ _ _ _ (odCmd_acct _ _ _ _ _ _ ?_))
  split <;> simp

theorem execAdapterDigestWrite_runs (p : Path) (digest : List Byte) (s : State) : Runs s (execAdapterDigestWrite p digest s) := runs_of_acct (by simp)

theorem execAdapterVerified_runs (a : Fin 1024) (s : State) : Runs s (execAdapterVerified a s) := runs_of_acct (by split <;> simp)

theorem execAdapterPublish_runs (p : Path) (v : BitVec 16) (s : State) : Runs s (execAdapterPublish p v s) := runs_of_acct (by simp)

theorem execAdapterWithdraw_runs (p : Path) (v : BitVec 16) (s : State) : Runs s (execAdapterWithdraw p v s) := runs_of_acct (by simp)

theorem execResetAssert_runs (resetN pwrgood : Bool) (s : State) : Runs s (execResetAssert resetN pwrgood s) := runs_of_acct (by simp)

theorem execFirmwareWrite_runs (p : Path) (off : BitVec 32) (data : List Byte) (s : State) : Runs s (execFirmwareWrite p off data s) := runs_of_acct (by simp)

theorem execConfigWrite_runs (p : Path) (off : BitVec 32) (data : List Byte) (s : State) : Runs s (execConfigWrite p off data s) := runs_of_acct (by simp)

theorem execBootComplete_runs (s : State) : Runs s (execBootComplete s) := runs_of_acct (by simp)

theorem execBootWaitTimeout_runs (s : State) : Runs s (execBootWaitTimeout s) := runs_of_acct (by simp)

theorem execOdRead_runs (p : Path) (h : Pdu) (s : State) : Runs s (execOdRead p h s) := runs_of_acct (by simp)

theorem execOdDescribe_runs (p : Path) (h : Pdu) (s : State) : Runs s (execOdDescribe p h s) := runs_of_acct (by simp)

theorem execClaim_runs (h : Fin 4) (s : State) : Runs s (execClaim h s) := runs_of_acct (by simp)

theorem execComplete_runs (h : Fin 4) (src : Fin 256) (s : State) : Runs s (execComplete h src s) := runs_of_acct (by simp)

theorem execIswset_runs (v : BitVec 32) (s : State) : Runs s (execIswset v s) := runs_of_acct (by simp)

theorem execHoldoffExpire_runs (src : Fin 256) (s : State) : Runs s (execHoldoffExpire src s) := runs_of_acct (by simp)

theorem execReferenceLost_runs (s : State) : Runs s (execReferenceLost s) := runs_of_acct (by simp)

theorem execHoldoverLong_runs (s : State) : Runs s (execHoldoverLong s) := runs_of_acct (by simp)

theorem execReferenceRestored_runs (s : State) : Runs s (execReferenceRestored s) := runs_of_acct (by simp)

theorem execMonitorSample_runs (m mv : Nat) (tempC : Int) (margin : Nat) (s : State) (h : m < 64) : Runs s (execMonitorSample m mv tempC margin s) := by
  rw [execMonitorSample, if_pos h]
  exact runs_of_acct (by simp)

theorem execDroopClear_runs (m : Nat) (s : State) (h : m < 64) : Runs s (execDroopClear m s) := by
  rw [execDroopClear, if_pos h]
  exact runs_of_acct (by simp)

theorem execFrequencyEvalIdle_runs (s : State) : Runs s (execFrequencyEvalIdle s) := by
  refine runs_of_acct ?_
  split
  · split <;> simp
  · rfl

theorem execThermalTrip_runs (asserted : Bool) (s : State) : Runs s (execThermalTrip asserted s) := by
  refine runs_of_acct ?_
  split
  · simp
  · split
    · extract_lets r s2
      have h : s2.acct = s.acct := (cond_acct _ _ _ (by simp)).trans rfl
      split <;> simp [h]
    · simp

theorem execPgWarnEdge_runs (asserted : Bool) (s : State) : Runs s (execPgWarnEdge asserted s) := runs_of_acct (by simp)

theorem execLedgerUpdate_runs (metered railMv : Nat) (s : State) : Runs s (execLedgerUpdate metered railMv s) := runs_of_acct (by simp)

theorem execMeterCalibration_runs (ok : Bool) (s : State) : Runs s (execMeterCalibration ok s) := runs_of_acct (by simp)

theorem execIdleFeed_runs (s : State) : Runs s (execIdleFeed s) := runs_of_acct (by simp)

theorem execFenceRequest_runs (p : Path) (v : BitVec 16) (s : State) : Runs s (execFenceRequest p v s) := runs_of_acct (by simp)

theorem execSpareReady_runs (cl : Fin 16) (de : Bool) (s : State) : Runs s (execSpareReady cl de s) := runs_of_acct (by simp)

theorem execRemapComplete_runs (s : State) : Runs s (execRemapComplete s) := runs_of_acct (by split <;> simp)

theorem execRemapTimeout_runs (s : State) : Runs s (execRemapTimeout s) := runs_of_acct (by simp)

theorem execRowRepairCopyDone_runs (stack : Fin 16) (tier : Fin 8) (row : Nat) (s : State) : Runs s (execRowRepairCopyDone stack tier row s) :=
  runs_of_acct (by split <;> simp)

theorem execStackFenceRequest_runs (p : Path) (v : BitVec 16) (s : State) : Runs s (execStackFenceRequest p v s) := by
  refine runs_of_acct (odReq_acct _ _ _ _ _ (odCmd_acct _ _ _ _ _ _ ?_))
  split
  · exact (cond_acct _ _ _ (by simp)).trans rfl
  · rfl

theorem execWatchdogExpire_runs (h : Fin 4) (s : State) : Runs s (execWatchdogExpire h s) := runs_of_acct (by simp)

theorem execFwUpdateWrite_runs (p : Path) (off : BitVec 32) (data : List Byte) (s : State) : Runs s (execFwUpdateWrite p off data s) := runs_of_acct (by simp)

theorem execFwUpdateCancel_runs (p : Path) (s : State) : Runs s (execFwUpdateCancel p s) := runs_of_acct (by simp)

theorem execFwUpdateSwitch_runs (p : Path) (s : State) : Runs s (execFwUpdateSwitch p s) := runs_of_acct (by simp)

theorem execFwUpdateConfirm_runs (p : Path) (s : State) : Runs s (execFwUpdateConfirm p s) := runs_of_acct (by simp)

theorem execFwTrialTimeout_runs (s : State) : Runs s (execFwTrialTimeout s) := runs_of_acct (by simp)

theorem execQuoteRequest_runs (p : Path) (nonce : List Byte) (s : State) : Runs s (execQuoteRequest p nonce s) := runs_of_acct (by simp)

theorem execQuoteSigned_runs (s : State) : Runs s (execQuoteSigned s) := runs_of_acct (by simp)

theorem execIdentSend_runs (s : State) : Runs s (execIdentSend s) := by
  refine runs_of_acct ?_
  split
  · exact feedPut_acct s (.ident (idDigest s) (steppingByte s))
  · rfl

theorem execGaugePowerUp_runs (s : State) : Runs s (execGaugePowerUp s) := runs_of_acct (by simp)

theorem execFeedRecord_runs (rec_ : List Byte) (s : State) : Runs s (execFeedRecord rec_ s) := runs_of_acct (by simp)

theorem execGaugeIntervalClose_runs (g : Nat) (selfOk : Bool) (s : State) : Runs s (execGaugeIntervalClose g selfOk s) := runs_of_acct (by simp)

theorem execGaugeCloseRequest_runs (v : BitVec 8) (g : Nat) (selfOk : Bool) (s : State) : Runs s (execGaugeCloseRequest v g selfOk s) := runs_of_acct (by simp)

theorem execStatementSigned_runs (s : State) : Runs s (execStatementSigned s) := runs_of_acct (by simp)

theorem execGaugeMirror_runs (answers : Bool) (s : State) : Runs s (execGaugeMirror answers s) := runs_of_acct (by simp)

theorem execEventRecordStore_runs (node : Fin 64) (s : State) : Runs s (execEventRecordStore node s) := runs_of_acct (by simp)

theorem execCursorWrite_runs (p : Path) (v : BitVec 64) (s : State) : Runs s (execCursorWrite p v s) := runs_of_acct (by simp)

theorem execExtest_runs (cells : BitVec 13) (s : State) : Runs s (execExtest cells s) := runs_of_acct (by simp)

theorem execIdcode_runs (s : State) : Runs s (execIdcode s) := runs_of_acct (by simp)

theorem execSamplePreload_runs (cells : BitVec 13) (s : State) : Runs s (execSamplePreload cells s) := runs_of_acct (by simp)

theorem execBypass_runs (tdi : Bool) (s : State) : Runs s (execBypass tdi s) := runs_of_acct (by simp)

theorem execGaugeSupplyLoss_runs (s : State) : Runs s (execGaugeSupplyLoss s) := runs_of_acct (by simp)

theorem execGaugeReferenceLost_runs (s : State) : Runs s (execGaugeReferenceLost s) := runs_of_acct (by simp)

theorem execGaugeReferenceRestored_runs (s : State) : Runs s (execGaugeReferenceRestored s) := runs_of_acct (by simp)

theorem execTestLogicReset_runs (s : State) : Runs s (execTestLogicReset s) := runs_of_acct (by simp)

theorem execCrossingOutOfBound_runs (x : Fin 4) (s : State) : Runs s (execCrossingOutOfBound x s) := runs_of_acct (by simp)

theorem devCmd_keepsAcct (s : State) (p : Path) (l : List DevState) (chk : Nat) (act : State → State) (h : Keeps s (act s)) :
    Keeps s (devCmd s p l chk act) := odCmd_keepsAcct _ _ _ _ _ _ h

theorem execPathBankSealSwitch_runs (p : Path) (s : State) : Runs s (execPathBankSealSwitch p s) :=
  (odReq_keeps _ _ _ _ _ (pathSealCmd_keeps _ _ _ _ _ fun t => .ite (.of_acct (by simp)) (pathSwitch_keeps t))).runs

theorem execAccept_runs (p : Path) (s : State) : Runs s (execAccept p s) := by
  refine (odReq_keeps _ _ _ _ _ (devCmd_keepsAcct _ _ _ _ _ ?_)).runs
  extract_lets m r
  split
  · exact imageAccept_keeps s m
  · exact .of_acct (by simp)

theorem execRun_runs (p : Path) (s : State) : Runs s (execRun p s) := by
  unfold execRun
  extract_lets chk
  refine (odReq_keeps _ _ _ _ _ (devCmd_keepsAcct _ _ _ _ _ ?_)).runs
  split
  · exact jobBegin_keeps s
  · exact .of_acct (by simp)

theorem execJobStart_runs (s : State) : Runs s (execJobStart s) := (jobStart_keeps s).runs

theorem execSwapStage_runs (p : Path) (s : State) : Runs s (execSwapStage p s) := (odReq_keeps _ _ _ _ _ (odCmd_keepsAcct _ _ _ _ _ _ (swapStage_keeps s))).runs

theorem execWeirEnd_runs (s : State) : Runs s (execWeirEnd s) := (weirEnd_keeps s).runs

theorem execStageAck_runs (i : Nat) (s : State) : Runs s (execStageAck i s) := by
  refine Keeps.runs ?_
  split
  · exact .refl s
  · exact .ite (.refl s) (.ite (.trans (.of_acct (by simp)) (stagedCheck_keeps _)) (.trans (.of_acct (by simp)) (applyStaged_keeps _ _)))

theorem execStagedDiscard_runs (i : Nat) (s : State) : Runs s (execStagedDiscard i s) := by
  refine Keeps.runs ?_
  split
  · exact .refl s
  next g _ =>
    split
    · exact .refl s
    · extract_lets o s1 s2
      have h1 : s1.acct = s.acct := by simp [s1]
      have h2 : s2.acct = s.acct := by unfold s2; split <;> simp [h1]
      exact .trans (.of_acct (by simp [h2])) (stagedCheck_keeps (raise s2 0x0D01 0x10 [o]))

theorem execSegmentPowerDownDone_runs (u : SegUnit) (i : Fin 8) (s : State) : Runs s (execSegmentPowerDownDone u i s) :=
  Keeps.runs (.ite (.trans (.of_acct (by simp)) (segSettle_keeps _)) (.refl s))

theorem execSegmentPowerUpDone_runs (u : SegUnit) (i : Fin 8) (s : State) : Runs s (execSegmentPowerUpDone u i s) :=
  Keeps.runs (.trans (.of_acct (by simp)) (segSettle_keeps (segAck s u i.val true)))

theorem execClockChangeDone_runs (s : State) : Runs s (execClockChangeDone s) := by
  refine Keeps.runs ?_
  split
  · exact .refl s
  · extract_lets n cs s1 s2
    exact .trans (.of_acct (by simp [s2, s1])) (weirResume_keeps (dropCause s2 8))

theorem execReleaseOfReset_runs (a : Fin 8) (s : State) : Runs s (execReleaseOfReset a s) := Keeps.runs (.ite (bootStart_keeps ..) (.refl s))

theorem execFirmwareStart_runs (p : Path) (s : State) : Runs s (execFirmwareStart p s) :=
  (odReq_keeps _ _ _ _ _ (odCmd_keepsAcct _ _ _ _ _ _ (fwStart_keeps s))).runs

theorem execConfigApply_runs (p : Path) (s : State) : Runs s (execConfigApply p s) :=
  (odReq_keeps _ _ _ _ _ (odCmd_keepsAcct _ _ _ _ _ _ (cfgApply_keeps s))).runs

theorem execFwUpdateCheck_runs (p : Path) (s : State) : Runs s (execFwUpdateCheck p s) :=
  (odReq_keeps _ _ _ _ _ (odCmd_keepsAcct _ _ _ _ _ _ ((fwMeasure_keeps s 0x11 (otherBank s)).acct (by simp)))).runs

theorem dbgCmd_runs (s : State) (p : Path) (i : Instr) (code : Nat) : Runs s (.next (odReq s p 0xA00001 i (dbgCmd s p code))) :=
  (odReq_keeps _ _ _ _ _ (dbgCmd_keeps ..)).runs

theorem execBrk_runs (k : Fin 3) (s : State) : Runs s (execBrk k s) := (breakFire_keeps ..).runs

theorem execDebugWrite_runs (p : Path) (off : BitVec 32) (data : List Byte) (s : State) : Runs s (execDebugWrite p off data s) :=
  (odReq_keeps _ _ _ _ _ (odCmd_keepsAcct _ _ _ _ _ _ (dbgWriteTo_keeps ..))).runs

theorem session_keeps (s : State) (ir : Nat) : Keeps s (jtagSession (jtagIr s ir)) := .trans (.of_acct (by simp)) (jtagSession_keeps _)

theorem execDtmcs_runs (v : BitVec 32) (s : State) : Runs s (execDtmcs v s) := ((session_keeps s 0x10).acct (by simp)).runs

theorem execDmi_runs (v : BitVec 41) (s : State) : Runs s (execDmi v s) :=
  Keeps.runs (.ite (session_keeps s 0x11) ((session_keeps s 0x11).acct (by simp)))

theorem execCdbg_runs (v : BitVec 32) (s : State) : Runs s (execCdbg v s) :=
  Keeps.runs (.ite (session_keeps s 0x18) ((session_keeps s 0x18).trans (cdbgScan_keeps _ _)))

theorem execCmem_runs (v : BitVec 64) (s : State) : Runs s (execCmem v s) :=
  Keeps.runs (.ite (session_keeps s 0x19) ((session_keeps s 0x19).trans (cmemScan_keeps _ _)))

theorem devWrite_keeps (s : State) (p : Path) (v : Nat) : Keeps s (devWrite s p v) := by
  unfold devWrite
  extract_lets o
  split
  · exact (execLoad_runs p s).outState
  · exact (execAccept_runs p s).outState
  · exact (execUnload_runs p s).outState
  · exact (execRun_runs p s).outState
  · exact (execDrainCmd_runs p s).outState
  · exact (execKill_runs p s).outState
  · exact (execKillWeights_runs p s).outState
  · exact (execSleep_runs p s).outState
  · exact (execWake_runs p s).outState
  · exact .of_acct (by simp)

/-- What a write leaves, where an object takes it, keeps the queue and the log's account. -/
def MayKeep (s : State) (o : Option State) : Prop := ∀ t ∈ o, Keeps s t

theorem mayKeep_none (s : State) : MayKeep s none := by simp [MayKeep]

theorem Keeps.mayKeep {s t : State} (h : Keeps s t) : MayKeep s (some t) := by simpa [MayKeep] using h

theorem Runs.mayKeep {s : State} {o : Host.Outcome State Fault Refusal} (h : Runs s o) : MayKeep s (some (Machine.outState s o)) := h.outState.mayKeep

theorem badCode_keeps (s : State) (p : Path) (obj : Nat) : Keeps s (badCode s p obj) := .of_acct (by simp)

theorem writeRoute_keeps (s : State) (p : Path) (i sub off : Nat) (data : List Byte) : MayKeep s (writeRoute s p i sub off data) := by
  unfold writeRoute
  extract_lets obj v o so sd c l
  clear_value v
  split
  · exact (devWrite_keeps ..).mayKeep
  · exact (execImageWrite_runs ..).mayKeep
  · exact (execPlacementWrite_runs ..).mayKeep
  · exact (execFirmwareWrite_runs ..).mayKeep
  · exact (Keeps.ite (execFirmwareStart_runs ..).outState (badCode_keeps ..)).mayKeep
  · exact (execFwUpdateWrite_runs ..).mayKeep
  · refine Keeps.mayKeep ?_
    split
    · exact (execFwUpdateCancel_runs ..).outState
    · exact (execFwUpdateCheck_runs ..).outState
    · exact (execFwUpdateSwitch_runs ..).outState
    · exact (execFwUpdateConfirm_runs ..).outState
    · exact badCode_keeps ..
  · exact (execConfigWrite_runs ..).mayKeep
  · exact (Keeps.ite (execConfigApply_runs ..).outState (badCode_keeps ..)).mayKeep
  · exact (execBankWrite_runs ..).mayKeep
  · exact (Keeps.ite (execBankSeal_runs ..).outState (.ite (execBankSealSwitch_runs ..).outState (badCode_keeps ..))).mayKeep
  · exact (execSegmentMaskWrite_runs ..).mayKeep
  · exact (execSegmentMaskWrite_runs ..).mayKeep
  · exact (execFenceRequest_runs ..).mayKeep
  · exact (execPartitionWrite_runs ..).mayKeep
  · split
    · exact (execSwapImageWrite_runs ..).mayKeep
    · split
      · exact (execReleaseStepWrite_runs ..).mayKeep
      · exact mayKeep_none s
  · exact (Keeps.ite (execSwapStage_runs ..).outState (.ite (execSwapCancel_runs ..).outState (badCode_keeps ..))).mayKeep
  · exact (execStackFenceRequest_runs ..).mayKeep
  · exact (execLinkEnable_runs ..).mayKeep
  · exact (execPathBankWrite_runs ..).mayKeep
  · exact (Keeps.ite (execPathBankSeal_runs ..).outState (.ite (execPathBankSealSwitch_runs ..).outState (badCode_keeps ..))).mayKeep
  · exact (execGateWrite_runs ..).mayKeep
  · exact (execCutStepWrite_runs ..).mayKeep
  · split
    · exact (execBudgetAdd_runs ..).mayKeep
    · exact mayKeep_none s
  · split
    · exact (execAdapterDataWrite_runs ..).mayKeep
    · exact (execAdapterDigestWrite_runs ..).mayKeep
    · exact mayKeep_none s
  · split
    · exact (execAdapterAlloc_runs ..).mayKeep
    · exact (execAdapterPublish_runs ..).mayKeep
    · exact (execAdapterWithdraw_runs ..).mayKeep
  · exact (Keeps.of_acct (by simp)).mayKeep
  · exact (execQuoteRequest_runs ..).mayKeep
  · split
    · exact (Keeps.ite (dbgCmd_keeps ..) (badCode_keeps ..)).mayKeep
    · exact mayKeep_none s
  · split
    · exact (execDebugWrite_runs ..).mayKeep
    · exact mayKeep_none s
  · exact mayKeep_none s

theorem writeObj_keeps (s : State) (p : Path) (r : ORow) (i sub off : Nat) (data : List Byte) : Keeps s (writeObj s p r i sub off data) := by
  have h := writeRoute_keeps s p i sub off (routePad r data)
  unfold writeObj
  split
  next t e => exact .ite (h t e) (.of_acct (by simp))
  · exact .of_acct (by split <;> simp)

theorem odWrite_keeps (s : State) (p : Path) (h : Pdu) (data : List Byte) : Keeps s (odWrite s p h data) := by
  unfold odWrite
  split
  · exact .refl s
  · extract_lets i sub r c ab
    refine Keeps.acct (t := if ab ≠ 0 then refuse s p (pduObj h) ab else writeObj s p r i sub h.offset.toNat data) ?_ (by simp)
    exact .ite (.of_acct (by simp)) (writeObj_keeps ..)

theorem execOdWrite_runs (p : Path) (h : Pdu) (data : List Byte) (s : State) : Runs s (execOdWrite p h data s) :=
  (odTake_keeps _ _ _ _ _ (by simp) (odWrite_keeps ..)).runs

/-! ### The obligations -/

/-- The commands that can stop the block: a sample and a droop release of a monitor that does not exist (R448). -/
def AbsentMonitor (i : Instr) (m : Nat) : Prop := 64 ≤ m ∧ (i = .droopClear m ∨ ∃ mv tc mg, i = .monitorSample m mv tc mg)

theorem execMonitorSample_result (m mv : Nat) (tc : Int) (mg : Nat) (s : State) :
    Runs s (execMonitorSample m mv tc mg s) ∨ 64 ≤ m ∧ execMonitorSample m mv tc mg s = .fault (.noSuchUnit m) := by
  by_cases h : m < 64
  · exact .inl (execMonitorSample_runs m mv tc mg s h)
  · exact .inr ⟨by omega, by rw [execMonitorSample, if_neg h]⟩

theorem execDroopClear_result (m : Nat) (s : State) :
    Runs s (execDroopClear m s) ∨ 64 ≤ m ∧ execDroopClear m s = .fault (.noSuchUnit m) := by
  by_cases h : m < 64
  · exact .inl (execDroopClear_runs m s h)
  · exact .inr ⟨by omega, by rw [execDroopClear, if_neg h]⟩

theorem exec_result (i : Instr) (s : State) : Runs s (exec i s) ∨ ∃ m, AbsentMonitor i m ∧ exec i s = .fault (.noSuchUnit m) := by
  cases i with
  | monitorSample m mv tc mg => exact (execMonitorSample_result m mv tc mg s).imp id fun h => ⟨m, ⟨h.1, .inr ⟨mv, tc, mg, rfl⟩⟩, h.2⟩
  | droopClear m => exact (execDroopClear_result m s).imp id fun h => ⟨m, ⟨h.1, .inl rfl⟩, h.2⟩
  | sync c => exact .inl (execSync_runs ..)
  | sli c => exact .inl (execSli_runs ..)
  | salu c => exact .inl (execSalu_runs ..)
  | sld c => exact .inl (execSld_runs ..)
  | slotmask c => exact .inl (execSlotmask_runs ..)
  | weir c => exact .inl (execWeir_runs ..)
  | bankarm c => exact .inl (execBankarm_runs ..)
  | queueFreeDispatch c => exact .inl (execQueueFreeDispatch_runs ..)
  | engineStart c e => exact .inl (execEngineStart_runs ..)
  | operationComplete c e => exact .inl (execOperationComplete_runs ..)
  | flagSignalEffect c f => exact .inl (execFlagSignalEffect_runs ..)
  | stream c a => exact .inl (execStream_runs ..)
  | stload c a => exact .inl (execStload_runs ..)
  | swap c a => exact .inl (execSwap_runs ..)
  | drain c a => exact .inl (execDrain_runs ..)
  | sndload c a => exact .inl (execSndload_runs ..)
  | soundingEvaluate c a => exact .inl (execSoundingEvaluate_runs ..)
  | vsetvl c => exact .inl (execVsetvl_runs ..)
  | vint c => exact .inl (execVint_runs ..)
  | vcmp c => exact .inl (execVcmp_runs ..)
  | vmask c => exact .inl (execVmask_runs ..)
  | vcvt c => exact .inl (execVcvt_runs ..)
  | vld c => exact .inl (execVld_runs ..)
  | vst c => exact .inl (execVst_runs ..)
  | vflt c => exact .inl (execVflt_runs ..)
  | vperm c => exact .inl (execVperm_runs ..)
  | vacc c => exact .inl (execVacc_runs ..)
  | vrcp c => exact .inl (execVrcp_runs ..)
  | vexp c => exact .inl (execVexp_runs ..)
  | vdiv c => exact .inl (execVdiv_runs ..)
  | vred c => exact .inl (execVred_runs ..)
  | softmax c => exact .inl (execSoftmax_runs ..)
  | rmsnorm c => exact .inl (execRmsnorm_runs ..)
  | layernorm c => exact .inl (execLayernorm_runs ..)
  | rotary c => exact .inl (execRotary_runs ..)
  | unpack c => exact .inl (execUnpack_runs ..)
  | split c => exact .inl (execSplit_runs ..)
  | gather c => exact .inl (execGather_runs ..)
  | sample c => exact .inl (execSample_runs ..)
  | verify c => exact .inl (execVerify_runs ..)
  | copy c d => exact .inl (execCopy_runs ..)
  | fill c d => exact .inl (execFill_runs ..)
  | trd c d => exact .inl (execTrd_runs ..)
  | twr c d => exact .inl (execTwr_runs ..)
  | send c d => exact .inl (execSend_runs ..)
  | recv c d => exact .inl (execRecv_runs ..)
  | receiveComplete c d => exact .inl (execReceiveComplete_runs ..)
  | injectionSpaceFree b => exact .inl (execInjectionSpaceFree_runs ..)
  | tribInputArrive q entry => exact .inl (execTribInputArrive_runs ..)
  | tribOutputSpace n => exact .inl (execTribOutputSpace_runs ..)
  | bankConflictServed c m => exact .inl (execBankConflictServed_runs ..)
  | eddyLimit => exact .inl (execEddyLimit_runs ..)
  | oxbowLimit => exact .inl (execOxbowLimit_runs ..)
  | weirBegin => exact .inl (execWeirBegin_runs ..)
  | weirEnd => exact .inl (execWeirEnd_runs ..)
  | stageAck n => exact .inl (execStageAck_runs ..)
  | stagedDiscard n => exact .inl (execStagedDiscard_runs ..)
  | uncorrectableRead m persistent => exact .inl (execUncorrectableRead_runs ..)
  | replayReady refetch => exact .inl (execReplayReady_runs ..)
  | uncorrectableOutside m refetch => exact .inl (execUncorrectableOutside_runs ..)
  | scrubLine m corrected race => exact .inl (execScrubLine_runs ..)
  | scrubOverrun => exact .inl (execScrubOverrun_runs ..)
  | segmentMaskWrite p u mask => exact .inl (execSegmentMaskWrite_runs ..)
  | segmentPowerDownDone u n => exact .inl (execSegmentPowerDownDone_runs ..)
  | segmentPowerUpDone u n => exact .inl (execSegmentPowerUpDone_runs ..)
  | partitionWrite p n v => exact .inl (execPartitionWrite_runs ..)
  | flushOndieDone => exact .inl (execFlushOndieDone_runs ..)
  | flushComplete => exact .inl (execFlushComplete_runs ..)
  | controlMessage m => exact .inl (execControlMessage_runs ..)
  | load p => exact .inl (execLoad_runs ..)
  | imageWrite p off data => exact .inl (execImageWrite_runs ..)
  | placementWrite p off data => exact .inl (execPlacementWrite_runs ..)
  | accept p => exact .inl (execAccept_runs ..)
  | unload p => exact .inl (execUnload_runs ..)
  | run p => exact .inl (execRun_runs ..)
  | jobStart => exact .inl (execJobStart_runs ..)
  | drainCmd p => exact .inl (execDrainCmd_runs ..)
  | kill p => exact .inl (execKill_runs ..)
  | killWeights p => exact .inl (execKillWeights_runs ..)
  | sleep p => exact .inl (execSleep_runs ..)
  | wake p => exact .inl (execWake_runs ..)
  | wakeComplete bad => exact .inl (execWakeComplete_runs ..)
  | sleepReqAssert => exact .inl (execSleepReqAssert_runs ..)
  | sleepReqRelease => exact .inl (execSleepReqRelease_runs ..)
  | bankWrite p c place data => exact .inl (execBankWrite_runs ..)
  | bankSeal p c => exact .inl (execBankSeal_runs ..)
  | bankSealSwitch p c => exact .inl (execBankSealSwitch_runs ..)
  | pathBankWrite p off data => exact .inl (execPathBankWrite_runs ..)
  | pathBankSeal p => exact .inl (execPathBankSeal_runs ..)
  | pathBankSealSwitch p => exact .inl (execPathBankSealSwitch_runs ..)
  | linkFrameReceive l f => exact .inl (execLinkFrameReceive_runs ..)
  | linkEnable p l v => exact .inl (execLinkEnable_runs ..)
  | linkDisable p l v => exact .inl (execLinkDisable_runs ..)
  | linkRetrain p l v => exact .inl (execLinkRetrain_runs ..)
  | linkFault l bad => exact .inl (execLinkFault_runs ..)
  | linkTrained l bad delay => exact .inl (execLinkTrained_runs ..)
  | linkTrainTimeout l => exact .inl (execLinkTrainTimeout_runs ..)
  | packetArrive l pk => exact .inl (execPacketArrive_runs ..)
  | localRouteDeliver set2 v => exact .inl (execLocalRouteDeliver_runs ..)
  | reducePlaceFree => exact .inl (execReducePlaceFree_runs ..)
  | gateWrite p l v => exact .inl (execGateWrite_runs ..)
  | classDrained l tc => exact .inl (execClassDrained_runs ..)
  | drainTimeout l tc => exact .inl (execDrainTimeout_runs ..)
  | beaconSend => exact .inl (execBeaconSend_runs ..)
  | beaconReceive l t => exact .inl (execBeaconReceive_runs ..)
  | beaconTimeout => exact .inl (execBeaconTimeout_runs ..)
  | intakeHeader st payload => exact .inl (execIntakeHeader_runs ..)
  | intakeData st tag payload => exact .inl (execIntakeData_runs ..)
  | tribPieceWrite data => exact .inl (execTribPieceWrite_runs ..)
  | pieceHashComplete n => exact .inl (execPieceHashComplete_runs ..)
  | sourceRequest => exact .inl (execSourceRequest_runs ..)
  | pieceRequest payload => exact .inl (execPieceRequest_runs ..)
  | rescanPiece n => exact .inl (execRescanPiece_runs ..)
  | rescanOverrun => exact .inl (execRescanOverrun_runs ..)
  | swapImageWrite p off data => exact .inl (execSwapImageWrite_runs ..)
  | swapStage p => exact .inl (execSwapStage_runs ..)
  | swapCancel p => exact .inl (execSwapCancel_runs ..)
  | releaseStepWrite p v => exact .inl (execReleaseStepWrite_runs ..)
  | swapFillLimit => exact .inl (execSwapFillLimit_runs ..)
  | swapReadyNotice => exact .inl (execSwapReadyNotice_runs ..)
  | servingRequest msg => exact .inl (execServingRequest_runs ..)
  | endRequest msg => exact .inl (execEndRequest_runs ..)
  | parkLimit sl => exact .inl (execParkLimit_runs ..)
  | budgetAdd p v => exact .inl (execBudgetAdd_runs ..)
  | cutStepWrite p v => exact .inl (execCutStepWrite_runs ..)
  | adapterAlloc p id => exact .inl (execAdapterAlloc_runs ..)
  | adapterDataWrite p off data => exact .inl (execAdapterDataWrite_runs ..)
  | adapterDigestWrite p digest => exact .inl (execAdapterDigestWrite_runs ..)
  | adapterVerified a => exact .inl (execAdapterVerified_runs ..)
  | adapterPublish p v => exact .inl (execAdapterPublish_runs ..)
  | adapterWithdraw p v => exact .inl (execAdapterWithdraw_runs ..)
  | releaseOfReset segaddr => exact .inl (execReleaseOfReset_runs ..)
  | resetAssert resetN pwrgood => exact .inl (execResetAssert_runs ..)
  | firmwareWrite p off data => exact .inl (execFirmwareWrite_runs ..)
  | firmwareStart p => exact .inl (execFirmwareStart_runs ..)
  | configWrite p off data => exact .inl (execConfigWrite_runs ..)
  | configApply p => exact .inl (execConfigApply_runs ..)
  | bootComplete => exact .inl (execBootComplete_runs ..)
  | bootWaitTimeout => exact .inl (execBootWaitTimeout_runs ..)
  | odRead p h => exact .inl (execOdRead_runs ..)
  | odWrite p h data => exact .inl (execOdWrite_runs ..)
  | odDescribe p h => exact .inl (execOdDescribe_runs ..)
  | claim h => exact .inl (execClaim_runs ..)
  | complete h src => exact .inl (execComplete_runs ..)
  | iswset v => exact .inl (execIswset_runs ..)
  | holdoffExpire src => exact .inl (execHoldoffExpire_runs ..)
  | referenceLost => exact .inl (execReferenceLost_runs ..)
  | holdoverLong => exact .inl (execHoldoverLong_runs ..)
  | referenceRestored => exact .inl (execReferenceRestored_runs ..)
  | frequencyEvalIdle => exact .inl (execFrequencyEvalIdle_runs ..)
  | clockChangeDone => exact .inl (execClockChangeDone_runs ..)
  | thermalTrip asserted => exact .inl (execThermalTrip_runs ..)
  | pgWarnEdge asserted => exact .inl (execPgWarnEdge_runs ..)
  | ledgerUpdate metered railMv => exact .inl (execLedgerUpdate_runs ..)
  | meterCalibration ok => exact .inl (execMeterCalibration_runs ..)
  | idleFeed => exact .inl (execIdleFeed_runs ..)
  | fenceRequest p v => exact .inl (execFenceRequest_runs ..)
  | spareReady cl de => exact .inl (execSpareReady_runs ..)
  | remapComplete => exact .inl (execRemapComplete_runs ..)
  | remapTimeout => exact .inl (execRemapTimeout_runs ..)
  | rowRepairCopyDone stack tier row => exact .inl (execRowRepairCopyDone_runs ..)
  | stackFenceRequest p v => exact .inl (execStackFenceRequest_runs ..)
  | watchdogExpire h => exact .inl (execWatchdogExpire_runs ..)
  | fwUpdateWrite p off data => exact .inl (execFwUpdateWrite_runs ..)
  | fwUpdateCancel p => exact .inl (execFwUpdateCancel_runs ..)
  | fwUpdateCheck p => exact .inl (execFwUpdateCheck_runs ..)
  | fwUpdateSwitch p => exact .inl (execFwUpdateSwitch_runs ..)
  | fwUpdateConfirm p => exact .inl (execFwUpdateConfirm_runs ..)
  | fwTrialTimeout => exact .inl (execFwTrialTimeout_runs ..)
  | quoteRequest p nonce => exact .inl (execQuoteRequest_runs ..)
  | quoteSigned => exact .inl (execQuoteSigned_runs ..)
  | identSend => exact .inl (execIdentSend_runs ..)
  | gaugePowerUp => exact .inl (execGaugePowerUp_runs ..)
  | feedRecord rec => exact .inl (execFeedRecord_runs ..)
  | gaugeIntervalClose g selfOk => exact .inl (execGaugeIntervalClose_runs ..)
  | gaugeCloseRequest v g selfOk => exact .inl (execGaugeCloseRequest_runs ..)
  | statementSigned => exact .inl (execStatementSigned_runs ..)
  | gaugeMirror answers => exact .inl (execGaugeMirror_runs ..)
  | eventRecordStore node => exact .inl (execEventRecordStore_runs ..)
  | cursorWrite p v => exact .inl (execCursorWrite_runs ..)
  | debugHalt p => exact .inl (dbgCmd_runs ..)
  | debugHaltAtWeir p => exact .inl (dbgCmd_runs ..)
  | debugResume p => exact .inl (dbgCmd_runs ..)
  | debugStep p => exact .inl (dbgCmd_runs ..)
  | debugRunToWeir p => exact .inl (dbgCmd_runs ..)
  | brk k => exact .inl (execBrk_runs ..)
  | debugWrite p off data => exact .inl (execDebugWrite_runs ..)
  | extest cells => exact .inl (execExtest_runs ..)
  | idcode => exact .inl (execIdcode_runs ..)
  | samplePreload cells => exact .inl (execSamplePreload_runs ..)
  | dtmcs v => exact .inl (execDtmcs_runs ..)
  | dmi v => exact .inl (execDmi_runs ..)
  | cdbg v => exact .inl (execCdbg_runs ..)
  | cmem v => exact .inl (execCmem_runs ..)
  | bypass tdi => exact .inl (execBypass_runs ..)
  | gaugeSupplyLoss => exact .inl (execGaugeSupplyLoss_runs ..)
  | gaugeReferenceLost => exact .inl (execGaugeReferenceLost_runs ..)
  | gaugeReferenceRestored => exact .inl (execGaugeReferenceRestored_runs ..)
  | testLogicReset => exact .inl (execTestLogicReset_runs ..)
  | crossingOutOfBound x => exact .inl (execCrossingOutOfBound_runs ..)

theorem exec_keeps (i : Instr) {s t : State} (h : exec i s = .next t) : Keeps s t := by
  obtain ⟨u, hu, hk⟩ | ⟨m, _, hf⟩ := exec_result i s
  · obtain rfl : u = t := Host.Outcome.next.inj (hu.symm.trans h)
    exact hk
  · cases hf.symm.trans h

/-- Settles O2: of every command `exec_result` says that it runs on with the queue kept, or samples or clears a monitor that does not exist. -/
theorem commandsLeaveTheQueue : Obligations.CommandsLeaveTheQueue := by
  intro i s
  refine ⟨fun t h => (exec_keeps i h).pending, fun x hx => ?_, fun x hx => ?_⟩
  · obtain ⟨u, hu, _⟩ | ⟨m, _, hf⟩ := exec_result i s
    · cases hu.symm.trans hx
    · cases hf.symm.trans hx
  · obtain ⟨u, hu, _⟩ | ⟨m, ⟨hm, hi⟩, hf⟩ := exec_result i s
    · cases hu.symm.trans hx
    · exact ⟨m, hm, Host.Outcome.fault.inj (hx.symm.trans hf), hi⟩

theorem serveWaiting_measInv {s t : State} {p : Path} (hs : MeasInv s) (h : serveWaiting s p = .next t) : MeasInv t := by
  unfold serveWaiting at h
  split at h
  · cases h; exact hs
  · split at h
    next u hu =>
      cases h
      exact (Keeps.of_acct (by simp)).meas ((exec_keeps _ hu).meas ((Keeps.of_acct (by simp)).meas hs))
    next hn => exact absurd h (hn t)

/-- Settles O3: a step is a command of either queue or a W-cycle, and each of them keeps the account (`exec_keeps`, `tick_keeps`). -/
theorem measurementLogKept : Obligations.MeasurementLogKept := by
  intro s t hs h
  unfold step at h
  split at h
  · split at h
    · cases h
      exact (tick_keeps s).meas hs
    · exact serveWaiting_measInv hs h
  next i rest _ => exact (exec_keeps i h).meas (measInv_congr (s := s) rfl hs)

/-- Settles O4: the ring is empty and `LOGSEQ` is 0. -/
theorem measurementLogAtReset : Obligations.MeasurementLogAtReset := reset_measInv

/-- Settles O1. -/
theorem stepRunsFrontCommand : Obligations.StepRunsFrontCommand := by
  intro i rest s h
  rw [step, h]

end Sys2Proof.Machine
end

section
/-! PROOFS. What reset leaves (O49) and the turns of a sequencer (O5 to O8). -/
namespace Sys2Proof.Machine

/-- Settles O49. -/
theorem resetValues : Obligations.ResetValues := by
  refine ⟨rfl, rfl, rfl, rfl, rfl, rfl, fun c => ⟨rfl, rfl, rfl, rfl⟩, fun i => rfl, fun l => ⟨rfl, rfl⟩, fun i => rfl, fun i => rfl, rfl, rfl, rfl, rfl, rfl,
    rfl, rfl, rfl, rfl, rfl, rfl, rfl, rfl⟩

/-- A state is its parts: what is left to show of a frame once the parts are compared one by one. -/
theorem State.eta (t : State) :
    State.mk t.pending t.free t.pins t.dev t.sch t.cores t.pools t.beds t.fab t.wts t.srv t.trib t.mgm t.pwr t.rep t.tru t.gau t.evr t.inp t.dbg = t := rfl

/-! ### What a turn leaves alone -/

/-- What a turn of the sequencer of core `c` leaves alone (O8). -/
structure SeqTurned (s t : State) (c : Nat) : Prop where
  others : OtherCores s t c
  rest : t = { s with cores := t.cores, evr := t.evr, free := t.free
                      sch := { s.sch with signals := t.sch.signals, sigSent := t.sch.sigSent, sigDrops := t.sch.sigDrops, haltReq := t.sch.haltReq } }
  own : ∃ k : Core, t.core c = { s.core c with
    idx := k.idx, nextS := k.nextS, held := k.held, sregs := k.sregs, sldPend := k.sldPend, sldRead := k.sldRead, weirDone := k.weirDone
    weirNext := k.weirNext, armed := k.armed, queues := k.queues, stalls := k.stalls, skips := k.skips, bounds := k.bounds }

namespace SeqTurned

theorem refl (s : State) (c : Nat) : SeqTurned s s c := ⟨fun _ _ => rfl, rfl, s.core c, rfl⟩

theorem trans {s t u : State} {c : Nat} (h : SeqTurned s t c) (k : SeqTurned t u c) : SeqTurned s u c := by
  obtain ⟨ho, hr, x, hx⟩ := h
  obtain ⟨ko, kr, y, hy⟩ := k
  refine ⟨fun n hn => (ko n hn).trans (ho n hn), kr.trans ?_, y, hy.trans (by rw [hx])⟩
  rw [hr]

/-- A turn changes nothing in the cores where it only raises events, halts, sends signals or draws free values. -/
theorem of_cores {s t : State} {c : Nat} (hc : t.cores = s.cores)
    (hr : t = { s with evr := t.evr, free := t.free, sch := { s.sch with
      signals := t.sch.signals, sigSent := t.sch.sigSent, sigDrops := t.sch.sigDrops, haltReq := t.sch.haltReq } }) : SeqTurned s t c := by
  have hk (n : Nat) : t.core n = s.core n := by simp [State.core, hc]
  exact ⟨fun n _ => hk n, hr.trans (by rw [hc]), s.core c, hk c⟩

/-- A turn writes only the sequencer's part of its core. -/
theorem mapCore {s : State} {c : Nat} {f : Core → Core} (h : ∀ x, ∃ k : Core, f x = { x with
    idx := k.idx, nextS := k.nextS, held := k.held, sregs := k.sregs, sldPend := k.sldPend, sldRead := k.sldRead, weirDone := k.weirDone
    weirNext := k.weirNext, armed := k.armed, queues := k.queues, stalls := k.stalls, skips := k.skips, bounds := k.bounds }) :
    SeqTurned s (s.mapCore c f) c := by
  refine ⟨fun n hn => State.mapCore_core_ne _ _ _ _ hn, rfl, ?_⟩
  rw [State.mapCore_core_same]
  exact h _

end SeqTurned

theorem issueOne_sch (s : State) (c e t : Nat) (pl : List Nat) (g : Nat × Nat × Nat × Nat × Nat) : (issueOne s c e t pl g).sch =
    { s.sch with signals := (issueOne s c e t pl g).sch.signals, sigSent := (issueOne s c e t pl g).sch.sigSent
                 sigDrops := (issueOne s c e t pl g).sch.sigDrops } := by
  unfold issueOne
  dsimp only
  split
  · rfl
  · split
    · simp
    · split
      · simp
      · rfl

theorem issueSignals_sch (s : State) (c e t : Nat) (pl : List Nat) (d : Desc) : (issueSignals s c e t pl d).sch =
    { s.sch with signals := (issueSignals s c e t pl d).sch.signals, sigSent := (issueSignals s c e t pl d).sch.sigSent
                 sigDrops := (issueSignals s c e t pl d).sch.sigDrops } := by
  unfold issueSignals
  exact (issueOne_sch ..).trans (by rw [issueOne_sch s])

theorem issueSignals_turned (s : State) (c e t : Nat) (pl : List Nat) (d : Desc) (k : Nat) : SeqTurned s (issueSignals s c e t pl d) k := by
  refine .of_cores (by simp) ((issueSignals_frame ..).trans ?_)
  rw [issueSignals_sch]
  simp

theorem takeFreeNat_turned (s : State) (w c : Nat) : SeqTurned s (takeFreeNat s w).2 c := .of_cores rfl rfl

theorem raiseC_turned (s : State) (id n : Nat) (l : List Nat) (c : Nat) : SeqTurned s (raiseC s id n l) c :=
  .of_cores (by simp) ((raiseC_frame ..).trans (by simp))

theorem haltNext_turned (s : State) (id c : Nat) : SeqTurned s (haltNext s id) c := .of_cores rfl rfl

theorem setSreg_turned (s : State) (c r : Nat) (v : BitVec 32) : SeqTurned s (setSreg s c r v) c := by
  unfold setSreg
  split
  · exact .refl s c
  · exact .mapCore fun x => ⟨{ x with sregs := fset x.sregs 0#32 r v }, rfl⟩

theorem undefSreg_turned (s : State) (c r : Nat) : SeqTurned s (undefSreg s c r) c := (takeFreeNat_turned s 32 c).trans (setSreg_turned ..)

theorem seqNext_turned (s : State) (c : Nat) (d : Desc) : SeqTurned s (seqNext s c d) c :=
  .mapCore fun x => ⟨{ x with idx := dNext d, held := false, nextS := s.sch.sCycle + 1 }, rfl⟩

theorem seqHold_turned (s : State) (c : Nat) : SeqTurned s (seqHold s c) c := .mapCore fun x => ⟨{ x with held := true, nextS := s.sch.sCycle + 1 }, rfl⟩

theorem seqSkip_turned (s : State) (c : Nat) (d : Desc) : SeqTurned s (seqSkip s c d) c := by
  refine .trans (t := s.mapCore c fun k => { k with skips := sat32 k.skips }) (.mapCore fun x => ⟨{ x with skips := sat32 x.skips }, rfl⟩) ?_
  unfold seqSkip
  refine .trans ?_ (seqNext_turned ..)
  cases dSkipSig d
  · exact .refl _ c
  · exact issueSignals_turned ..

theorem seqSld_turned (s : State) (c : Nat) (d : Desc) : SeqTurned s (seqSld s c d) c := by
  have hp (t : State) (p : SldPend) : SeqTurned t (t.mapCore c fun k => { k with sldPend := k.sldPend ++ [p] }) c :=
    .mapCore fun x => ⟨{ x with sldPend := x.sldPend ++ [p] }, rfl⟩
  unfold seqSld
  extract_lets pendW
  split
  · exact .refl s c
  next x _ =>
    split
    · exact .trans (.mapCore fun y => ⟨{ y with sldRead := (s.sch.sCycle + 1, x.a) }, rfl⟩) (hp _ _)
    · exact (takeFreeNat_turned s 32 c).trans (hp _ _)

theorem SeqTurned.ite {s t u : State} {c : Nat} (b : Prop) [Decidable b] (h : SeqTurned s t c) (k : SeqTurned s u c) : SeqTurned s (if b then t else u) c := by
  split <;> assumption

theorem seqSalu_turned (s : State) (c : Nat) (d : Desc) : SeqTurned s (seqSalu s c d) c := by
  unfold seqSalu
  extract_lets k b
  generalize salu (dP d 63 60) (k.sreg (dP d 41 37)) b = v
  cases v with
  | none => exact undefSreg_turned ..
  | some v => exact .ite _ (undefSreg_turned ..) (setSreg_turned ..)

theorem seqWeir_turned (s : State) (c : Nat) (d : Desc) : SeqTurned s (seqWeir s c d) c := by
  unfold seqWeir
  extract_lets pl s1
  have h : SeqTurned s s1 c := .mapCore fun x => ⟨{ x with weirDone := true, weirNext := dNext d }, rfl⟩
  exact .ite _ h (h.trans ((raiseC_turned ..).trans (haltNext_turned ..)))

theorem seqEffect_turned (s : State) (c : Nat) (d : Desc) : SeqTurned s (seqEffect s c d) c := by
  unfold seqEffect
  split
  · exact .ite _ (undefSreg_turned ..) (setSreg_turned ..)
  · exact seqSalu_turned s c d
  · exact seqSld_turned s c d
  · exact .ite _ (undefSreg_turned ..) (setSreg_turned ..)
  · exact seqWeir_turned s c d
  · exact .mapCore fun x => ⟨{ x with armed := true }, rfl⟩
  · exact .refl s c

theorem seqExec_turned (s : State) (c : Nat) (d : Desc) : SeqTurned s (seqExec s c d) c := by
  unfold seqExec
  split
  · exact ((seqEffect_turned s c d).trans (issueSignals_turned ..)).trans (seqNext_turned ..)
  · exact seqHold_turned s c

theorem seqDispatch_turned (s : State) (c : Nat) (d : Desc) : SeqTurned s (seqDispatch s c d) c := by
  unfold seqDispatch
  extract_lets k q it
  split
  · exact .trans (.mapCore fun x => ⟨{ x with stalls := sat32 x.stalls }, rfl⟩) (seqHold_turned ..)
  · exact .trans (.mapCore fun x => ⟨{ x with queues := fset x.queues [] (dEngine d) (q ++ [it]) }, rfl⟩) (seqNext_turned ..)

theorem seqTurn_turned (s : State) (c : Nat) : SeqTurned s (seqTurn s c) c := by
  unfold seqTurn
  extract_lets d
  split
  · exact seqSkip_turned s c d
  · exact (raiseC_turned ..).trans (seqSkip_turned ..)
  · exact .trans (.mapCore fun x => ⟨{ x with bounds := sat32 x.bounds }, rfl⟩)
      ((raiseC_turned ..).trans ((haltNext_turned ..).trans (seqSkip_turned ..)))
  · split
    · exact seqExec_turned s c d
    · exact seqDispatch_turned s c d

theorem seqOp_turned (s : State) (c o : Nat) : SeqTurned s (seqOp s c o) c := .ite _ (seqTurn_turned s c) (.refl s c)

/-- Settles O8: every turn is composed of writes to the sequencer's part of its core, events, halts, signals and free values. -/
theorem sequencerFrame : Obligations.SequencerFrame := by
  intro c s t i hi h
  have ht : SeqTurned s t c.val := by
    simp only [List.mem_cons, List.not_mem_nil, or_false] at hi
    obtain rfl | rfl | rfl | rfl | rfl | rfl | rfl | rfl := hi <;> cases h
    case inl => exact .ite _ (seqTurn_turned s c.val) (.refl s _)
    case inr.inr.inr.inr.inr.inr.inr => exact .ite _ (seqTurn_turned s c.val) (.refl s _)
    all_goals exact seqOp_turned ..
  exact ⟨ht.others, ht.rest, ht.own⟩

end Sys2Proof.Machine
end

section
/-! PROOFS. The results of the sequencer's operations (O5 to O7). -/
namespace Sys2Proof.Machine

theorem core_of_cores {s t : State} (h : t.cores = s.cores) (c : Nat) : t.core c = s.core c := by simp [State.core, h]

theorem dClass_eq (d : Desc) : dClass d = dOpcode d / 16 := by
  simp only [dClass, dOpcode, dF, bits]
  omega

theorem SeqTurned.sCycle {s t : State} {c : Nat} (h : SeqTurned s t c) : t.sch.sCycle = s.sch.sCycle := by rw [h.rest]

/-- The core after an executed operation of the sequencer: its effect, and the next descriptor (R91, R95). -/
theorem seqOp_core {s : State} {c q : Nat} (h : Executes s c q) (hq : q < 16) : (seqOp s c q).core c =
    { (seqEffect s c (seqDesc s c)).core c with idx := dNext (seqDesc s c), held := false, nextS := s.sch.sCycle + 1 } := by
  obtain ⟨_, ho, _, _⟩ := id h
  have hk : dClass (seqDesc s c) = 0 := by rw [dClass_eq, ho]; omega
  have hs : (issueSignals (seqEffect s c (seqDesc s c)) c 0 (s.sch.sCycle + 1) (seqPlace s c) (seqDesc s c)).sch.sCycle = s.sch.sCycle :=
    ((seqEffect_turned ..).trans (issueSignals_turned ..)).sCycle (c := c)
  rw [seqOp_executes s c q h hk, seqNext, State.mapCore_core_same, hs]
  rw [core_of_cores (s := seqEffect s c (seqDesc s c)) (by simp)]

theorem seqOp_advances {s : State} {c q : Nat} (h : Executes s c q) (hq : q < 16) : Advances s (seqOp s c q) c (seqDesc s c) := by
  simp [Advances, seqOp_core h hq]

theorem seqOp_sreg {s : State} {c q : Nat} (h : Executes s c q) (hq : q < 16) (k : Nat) :
    ((seqOp s c q).core c).sreg k = ((seqEffect s c (seqDesc s c)).core c).sreg k := by
  simp [seqOp_core h hq, Core.sreg]

theorem undefSreg_sreg (s : State) (c r k : Nat) : ((undefSreg s c r).core c).sreg k =
    if k = 0 then 0#32 else if k = r then BitVec.ofNat 32 (Config.freeNat s.free) else (s.core c).sreg k := by
  have hv : BitVec.ofNat 32 (Config.freeNat s.free % 2 ^ 32) = BitVec.ofNat 32 (Config.freeNat s.free) := by
    apply BitVec.eq_of_toNat_eq; simp
  rw [undefSreg, takeFreeNat]
  simp only [setSreg_sreg, hv]
  rfl

/-- An operation of the sequencer that writes one scalar register. -/
theorem seqOp_writesReg {s : State} {c q r : Nat} {v : BitVec 32} (h : Executes s c q) (hq : q < 16)
    (hv : ∀ k, ((seqEffect s c (seqDesc s c)).core c).sreg k = if k = 0 then 0#32 else if k = r then v else (s.core c).sreg k) :
    WritesReg s (seqOp s c q) c r v := fun k => (seqOp_sreg h hq k).trans (hv k)

theorem seqEffect_sli (s : State) (c : Nat) (d : Desc) (ho : dOpcode d = 0x01) (hr : dReserved d = false) (hp : dP d 63 37 = 0) :
    seqEffect s c d = setSreg s c (dP d 36 32) (BitVec.ofNat 32 (dP d 31 0)) := by
  simp [seqEffect, ho, seqSli, hr, hp]

theorem seqEffect_salu (s : State) (c : Nat) (d : Desc) (ho : dOpcode d = 0x02) : seqEffect s c d = seqSalu s c d := by simp [seqEffect, ho]

theorem seqEffect_sld (s : State) (c : Nat) (d : Desc) (ho : dOpcode d = 0x03) : seqEffect s c d = seqSld s c d := by simp [seqEffect, ho]

theorem seqEffect_weir (s : State) (c : Nat) (d : Desc) (ho : dOpcode d = 0x05) : seqEffect s c d = seqWeir s c d := by simp [seqEffect, ho]

theorem seqEffect_bankarm (s : State) (c : Nat) (d : Desc) (ho : dOpcode d = 0x06) : seqEffect s c d = seqBankarm s c := by simp [seqEffect, ho]

theorem seqEffect_sync (s : State) (c : Nat) (d : Desc) (ho : dOpcode d = 0x00) : seqEffect s c d = s := by simp [seqEffect, ho]

/-- What SALU computes (R91): a function past 9 gives an undefined value. -/
theorem seqSalu_sreg (s : State) (c : Nat) (d : Desc) (hr : dReserved d = false) (hp : dP d 59 48 = 0) (k : Nat) :
    ((seqSalu s c d).core c).sreg k = if k = 0 then 0#32 else if k = dP d 46 42 then
      (salu (dP d 63 60) ((s.core c).sreg (dP d 41 37)) (if dPb d 47 then BitVec.ofNat 32 (dP d 31 0) else (s.core c).sreg (dP d 36 32))).getD
        (BitVec.ofNat 32 (Config.freeNat s.free)) else (s.core c).sreg k := by
  unfold seqSalu
  extract_lets x b
  change _ = if k = 0 then 0#32 else if k = dP d 46 42 then (salu (dP d 63 60) (x.sreg (dP d 41 37)) b).getD _ else _
  cases salu (dP d 63 60) (x.sreg (dP d 41 37)) b with
  | none => exact undefSreg_sreg ..
  | some v => simp [hr, hp, setSreg_sreg]

/-- The sum of the powers of 2 that `g` names, up to `n`. -/
def maskSum (g : Nat → Bool) (n : Nat) : Nat := sumN ((List.range n).map fun i => if g i then 2 ^ i else 0)

theorem maskSum_succ (g : Nat → Bool) (n : Nat) : maskSum g (n + 1) = maskSum g n + if g n then 2 ^ n else 0 := by
  simp [maskSum, sumN, List.range_succ]

theorem maskSum_lt (g : Nat → Bool) (n : Nat) : maskSum g n < 2 ^ n := by
  induction n with
  | zero => simp [maskSum, sumN]
  | succ n ih => rw [maskSum_succ, Nat.pow_succ]; split <;> omega

theorem maskSum_testBit (g : Nat → Bool) (n j : Nat) : (maskSum g n).testBit j = (decide (j < n) && g j) := by
  induction n with
  | zero => simp [maskSum, sumN]
  | succ n ih =>
    rw [maskSum_succ]
    cases hg : g n with
    | false =>
      have : j = n → g j = false := fun h => h ▸ hg
      rw [if_neg (by simp), Nat.add_zero, ih]
      grind
    | true =>
      have : j = n → g j = true := fun h => h ▸ hg
      have hor : 2 ^ n + maskSum g n = 2 ^ n ||| maskSum g n := by simpa using Nat.two_pow_add_eq_or_of_lt (maskSum_lt g n) 1
      rw [if_pos rfl, Nat.add_comm, hor, Nat.testBit_or, ih, Nat.testBit_two_pow]
      grind

theorem bit_eq_testBit (n i : Nat) : bit n i = n.testBit i := by
  simp [bit, bits, Nat.testBit, Nat.one_and_eq_mod_two]

theorem seqEffect_slotmask (s : State) (c : Nat) (d : Desc) (ho : dOpcode d = 0x04) (hr : dReserved d = false) (h1 : dP d 63 37 = 0)
    (h2 : dP d 31 13 = 0) (h3 : dP d 7 2 = 0) :
    seqEffect s c d = setSreg s c (dP d 36 32) (BitVec.ofNat 32 (maskSum (fun j => slotIn s (32 * dP d 1 0 + j) (dP d 12 8)) 32)) := by
  simp [seqEffect, ho, seqSlotmask, hr, h1, h2, h3, maskSum]

/-- What SLD does (R91): it reads one word, and its register gets it 6 S-cycles later. -/
theorem seqSld_core (s : State) (c : Nat) (d : Desc) (x : Opnd) (hx : operand s c d 0 = some x) (he : x.ext = 1) (hr : dReserved d = false)
    (h1 : dP d 63 37 = 0) (h2 : dP d 31 0 = 0) : (seqSld s c d).core c = { s.core c with
      sldRead := (s.sch.sCycle + 1, x.a)
      sldPend := (s.core c).sldPend ++ [{ rd := dP d 36 32, value := BitVec.ofNat 32 (leNat (opRead s x 0 4)), atS := s.sch.sCycle + 6 }] } := by
  simp [seqSld, hx, he, hr, h1, h2]

/-- What a function of SALU gives (R91), with `u` where it has no meaning. -/
theorem salu_getD (f : Nat) (a b u : BitVec 32) : (salu f a b).getD u = match f with
    | 0 => a + b
    | 1 => a - b
    | 2 => a &&& b
    | 3 => a ||| b
    | 4 => a ^^^ b
    | 5 => a <<< (b.toNat % 32)
    | 6 => a >>> (b.toNat % 32)
    | 7 => a.sshiftRight (b.toNat % 32)
    | 8 => BitVec.ofNat 32 (min a.toNat b.toNat)
    | 9 => BitVec.ofNat 32 (max a.toNat b.toNat)
    | _ => u :=
  match f with
  | 0 | 1 | 2 | 3 | 4 | 5 | 6 | 7 => rfl
  | 8 => by
    simp only [salu, Option.getD_some]
    split
    next h => rw [Nat.min_eq_left h, BitVec.ofNat_toNat, BitVec.setWidth_eq]
    next h => rw [Nat.min_eq_right (by omega), BitVec.ofNat_toNat, BitVec.setWidth_eq]
  | 9 => by
    simp only [salu, Option.getD_some]
    split
    next h => rw [Nat.max_eq_right h, BitVec.ofNat_toNat, BitVec.setWidth_eq]
    next h => rw [Nat.max_eq_left (by omega), BitVec.ofNat_toNat, BitVec.setWidth_eq]
  | _ + 10 => rfl

/-- Settles O5. -/
theorem sequencerScalarResults : Obligations.SequencerScalarResults := by
  intro c s hr d a b
  refine ⟨fun h hp => ?sli, fun h hp => ?salu, fun x h hx he h1 h2 => ?sld, fun h h1 h2 h3 => ?slotmask⟩
  case sli =>
    obtain ⟨_, ho, _, _⟩ := id h
    refine ⟨_, rfl, seqOp_writesReg h (by omega) fun k => ?_, seqOp_advances h (by omega)⟩
    rw [seqEffect_sli _ _ _ ho hr hp, setSreg_sreg]
  case salu =>
    obtain ⟨_, ho, _, _⟩ := id h
    refine ⟨_, rfl, seqOp_advances h (by omega), seqOp_writesReg h (by omega) fun k => ?_⟩
    have he : seqEffect s c.val d = seqSalu s c.val d := seqEffect_salu _ _ _ ho
    rw [he, seqSalu_sreg _ _ _ hr hp, salu_getD] <;> rfl
  case sld =>
    obtain ⟨_, ho, _, _⟩ := id h
    have he' : seqEffect s c.val d = seqSld s c.val d := seqEffect_sld _ _ _ ho
    have hc := seqSld_core s c.val d x hx he hr h1 h2
    rw [← he'] at hc
    refine ⟨_, rfl, seqOp_advances h (by omega), fun k => ?_, ?_⟩
    · rw [seqOp_sreg h (by omega), hc]; rfl
    · rw [seqOp_core h (by omega), hc]
  case slotmask =>
    obtain ⟨_, ho, _, _⟩ := id h
    refine ⟨_, BitVec.ofNat 32 (maskSum (fun j => slotIn s (32 * dP d 1 0 + j) (dP d 12 8)) 32), rfl, seqOp_advances h (by omega),
      seqOp_writesReg h (by omega) fun k => ?_, fun j hj => ?_⟩
    · rw [seqEffect_slotmask _ _ _ ho hr h1 h2 h3, setSreg_sreg]
    · rw [BitVec.getLsbD_ofNat, maskSum_testBit]
      simp [hj, slotIn, bit_eq_testBit]

/-- SYNC is executed as the other operations of the sequencer are. -/
theorem execSync_executes {c : CoreId} {s : State} (h : Executes s c.val 0x00) : exec (.sync c) s = .next (seqOp s c.val 0x00) := by
  obtain ⟨hr, ho, _, _⟩ := h
  change execSync c s = _
  simp [execSync, seqOp, hr, ho]

/-- The requested halt after a turn: signals are no reason for one. -/
theorem seqOp_haltReq {s : State} {c q : Nat} (h : Executes s c q) (hq : q < 16) :
    (seqOp s c q).sch.haltReq = (seqEffect s c (seqDesc s c)).sch.haltReq := by
  obtain ⟨_, ho, _, _⟩ := id h
  have hk : dClass (seqDesc s c) = 0 := by rw [dClass_eq, ho]; omega
  rw [seqOp_executes s c q h hk, seqNext, State.mapCore_sch, issueSignals_sch]

/-- WEIR ends the core's step, and asks for a halt where its index is not the step's (R92). -/
theorem seqWeir_core (s : State) (c : Nat) (d : Desc) : (seqWeir s c d).core c = { s.core c with weirDone := true, weirNext := dNext d } := by
  unfold seqWeir
  extract_lets pl s1
  have h1 : s1.core c = { s.core c with weirDone := true, weirNext := dNext d } := by simp [s1]
  split
  · exact h1
  · exact (core_of_cores (by simp) c).trans h1

theorem seqWeir_haltReq (s : State) (c : Nat) (d : Desc) :
    (seqWeir s c d).sch.haltReq = if dP d 15 0 = stepIndex s then s.sch.haltReq else s.sch.haltReq <|> some 0x0307 := by
  have hi (f : Core → Core) : stepIndex (s.mapCore c f) = stepIndex s := by simp [stepIndex]
  unfold seqWeir
  simp only [hi]
  split <;> simp [haltNext]

/-- A descriptor of an engine class goes to its queue, or waits for a place (R96, R97). -/
theorem seqTurn_dispatches {s : State} {c : Nat} (hc : dClass (seqDesc s c) ≠ 0) (hd : seqDecide s c (seqDesc s c) = .run) :
    seqTurn s c = seqDispatch s c (seqDesc s c) := by
  simp [seqTurn, hd, hc]

theorem seqDispatch_room (s : State) (c : Nat) (d : Desc) (h : queueHeld s c (dEngine d) < 16) :
    (seqDispatch s c d).core c = { s.core c with
      queues := fset (s.core c).queues [] (dEngine d) (fget (s.core c).queues [] (dEngine d) ++
        [{ desc := d, place := (s.core c).idx, bankB := (s.core c).activeB, dispS := s.sch.sCycle }])
      idx := dNext d, held := false, nextS := s.sch.sCycle + 1 } := by
  simp [seqDispatch, Nat.not_le.mpr h, seqNext]

theorem seqDispatch_full (s : State) (c : Nat) (d : Desc) (h : ¬ queueHeld s c (dEngine d) < 16) :
    (seqDispatch s c d).core c = { s.core c with stalls := sat32 (s.core c).stalls, held := true, nextS := s.sch.sCycle + 1 } := by
  simp [seqDispatch, Nat.not_lt.mp h, seqHold]

/-- Settles O6. -/
theorem sequencerControlResults : Obligations.SequencerControlResults := by
  intro c s d
  refine ⟨fun h => ?sync, fun h => ?weir, fun h => ?bankarm, fun hr hc hd => ?dispatch⟩
  case sync =>
    obtain ⟨_, ho, _, _⟩ := id h
    refine ⟨_, execSync_executes h, seqOp_advances h (by omega), fun k => ?_⟩
    rw [seqOp_sreg h (by omega), seqEffect_sync _ _ _ ho]
  case weir =>
    obtain ⟨_, ho, _, _⟩ := id h
    have hc := seqOp_core h (by omega)
    have hh := seqOp_haltReq h (by omega)
    rw [seqEffect_weir _ _ _ ho, seqWeir_core] at hc
    rw [seqEffect_weir _ _ _ ho, seqWeir_haltReq] at hh
    refine ⟨_, rfl, seqOp_advances h (by omega), by rw [hc], by rw [hc], fun hi => ?_, fun hi hn => ?_⟩
    · exact hh.trans (if_pos hi)
    · exact hh.trans ((if_neg hi).trans (by rw [hn]; rfl))
  case bankarm =>
    obtain ⟨_, ho, _, _⟩ := id h
    have hc := seqOp_core h (by omega)
    rw [seqEffect_bankarm _ _ _ ho, seqBankarm, State.mapCore_core_same] at hc
    exact ⟨_, rfl, seqOp_advances h (by omega), by rw [hc]⟩
  case dispatch =>
    refine ⟨seqDispatch s c.val d, ?_, ?_⟩
    · change execQueueFreeDispatch c s = _
      simp [execQueueFreeDispatch, hr, hc, seqTurn_dispatches hc hd, d]
    · split
      next hq =>
        have hk := seqDispatch_room s c.val d hq
        exact ⟨⟨by rw [hk], by rw [hk], by rw [hk]⟩, by simp [hk]⟩
      next hq =>
        have hk := seqDispatch_full s c.val d hq
        exact ⟨by rw [hk], by rw [hk], by rw [hk], by rw [hk]; rfl, by rw [hk]⟩

/-- A skipped descriptor: its count, its signals if it asks for them, and the next descriptor (R83). -/
theorem seqSkip_core (s : State) (c : Nat) (d : Desc) : (seqSkip s c d).core c =
    { s.core c with skips := sat32 (s.core c).skips, idx := dNext d, held := false, nextS := s.sch.sCycle + 1 } := by
  unfold seqSkip
  extract_lets s1 s2
  have h1 : s1.core c = { s.core c with skips := sat32 (s.core c).skips } := by simp [s1]
  have h2 : SeqTurned s1 s2 c ∧ s2.cores = s1.cores := by
    unfold s2
    cases dSkipSig d
    · exact ⟨.refl s1 c, rfl⟩
    · exact ⟨issueSignals_turned .., issueSignals_cores ..⟩
  obtain ⟨ht, hc⟩ := h2
  rw [seqNext, State.mapCore_core_same, core_of_cores hc, h1, ht.sCycle]
  rfl

/-- Settles O7. -/
theorem sequencerSkipsFalsePredicate : Obligations.SequencerSkipsFalsePredicate := by
  intro c s hr hh d hv hp
  have hd : seqDecide s c.val d = .skip := by simp [seqDecide, hh, hv, hp]
  have hk := seqSkip_core s c.val d
  refine ⟨seqSkip s c.val d, ?_, ⟨by rw [hk], by rw [hk], by rw [hk]⟩, by rw [hk]; rfl, by rw [hk], by rw [hk], by rw [hk], fun k => by simp [hk, Core.sreg], fun hs => ?_⟩
  · change execSync c s = _
    simp [execSync, hr, seqTurn, hd, d]
  · simp [seqSkip, hs, seqNext]

end Sys2Proof.Machine
end

section
/-! PROOFS. Start and completion of engine operations (O9, O10). -/
namespace Sys2Proof.Machine

/-- The operation that the head `it` of queue `e` becomes when it starts. -/
def started (s : State) (c e : Nat) (it : QItem) : RunOp :=
  { eng := e, item := it, startS := s.sch.sCycle, occ := (opTiming s c it.desc (s.core c).vl).1, lat := (opTiming s c it.desc (s.core c).vl).2
    sregs := (List.range 32).map (s.core c).sreg, vl := (s.core c).vl }

theorem engStart_starts {s : State} {c e : Nat} {it : QItem} (h : qHead s c e = some it) (hr : sRun s = true) (hs : startOk s c e it = true) :
    engStart s c e = s.mapCore c fun k => { k with
      queues := fset k.queues [] e ((fget k.queues [] e).drop 1), busy := fset k.busy 0 (resourceOf it.desc) (s.sch.sCycle + (started s c e it).occ)
      lastS := fset k.lastS 0 e (s.sch.sCycle + 1), run := k.run ++ [started s c e it] } := by
  simp [engStart, h, hr, hs, started]

theorem started_sreg (s : State) (c e : Nat) (it : QItem) (k : Nat) (hk : k < 32) : (started s c e it).sreg k = (s.core c).sreg k := by
  by_cases h0 : k = 0
  · simp [h0, RunOp.sreg, Core.sreg]
  · simp [h0, RunOp.sreg, started, List.getD, hk]

/-- Settles O9. -/
theorem engineStarts : Obligations.EngineStarts := by
  intro c e s it h hr hs
  refine ⟨_, started s c.val e.val it, congrArg Host.Outcome.next (engStart_starts h hr hs), fun k hk => State.mapCore_core_ne _ _ _ _ hk, by simp,
    rfl, rfl, rfl, rfl, started_sreg s c.val e.val it, rfl, rfl, by simp, by simp, by simp, rfl⟩

theorem issueOne_none (s : State) (c e t : Nat) (pl : List Nat) (g : Nat × Nat × Nat × Nat × Nat) (h : g.1 = 0) : issueOne s c e t pl g = s := by
  simp [issueOne, h]

/-- A signal that is neither out of range nor over the limit of its link is sent (R83, R105). -/
theorem issueOne_signals (s : State) (c e t : Nat) (pl : List Nat) (g : Nat × Nat × Nat × Nat × Nat) (h : g.1 ≠ 0) (hs : g.2.2.1 < 12)
    (hr : (s.core (12 * g.2.1 + g.2.2.1)).ring = true) (hl : 12 * g.2.1 + g.2.2.1 ≠ c → fget s.sch.sigSent 0 (192 * t + c) < 4) :
    (issueOne s c e t pl g).sch.signals = s.sch.signals ++ [{ due := t + flagPath c (12 * g.2.1 + g.2.2.1), core := 12 * g.2.1 + g.2.2.1
                                                              flag := g.2.2.2.1, op := g.1, value := g.2.2.2.2, srcCore := c, srcEng := e }] := by
  have h2 : ¬ (12 ≤ g.2.2.1 ∨ (!(s.core (12 * g.2.1 + g.2.2.1)).ring) = true) := by simp [hr]; omega
  have h3 : ¬ (12 * g.2.1 + g.2.2.1 ≠ c ∧ 4 ≤ fget s.sch.sigSent 0 (192 * t + c)) := fun ⟨a, b⟩ => absurd (hl a) (by omega)
  simp only [issueOne, if_neg h, if_neg h2, if_neg h3, State.mapSch]

theorem engComplete_completes {s : State} {c e : Nat} {r : RunOp} (hr : sRun s = true) (h : (s.core c).run.find? (opEnded s e) = some r)
    (ha : dClass r.item.desc ≠ 0xA) (hb : dOpcode r.item.desc ≠ 0xB1) :
    engComplete s c e = issueSignals (s.mapCore c fun k => { k with run := dropFirst (opEnded s e) k.run }) c (1 + e) (r.startS + r.lat) (opPlace r)
      r.item.desc := by
  simp [engComplete, h, hr, opFinish, ha, hb]

/-- Settles O10. -/
theorem operationsComplete : Obligations.OperationsComplete := by
  intro c e s r hr h ha hb
  refine ⟨_, congrArg Host.Outcome.next (engComplete_completes hr h ha hb), ?_, fun k hk => ?_, fun h1 h0 hs hring hl => ?_⟩
  · rw [core_of_cores (issueSignals_cores ..)]; simp
  · rw [core_of_cores (issueSignals_cores ..)]; exact State.mapCore_core_ne _ _ _ _ hk
  · have hring' : ((s.mapCore c.val fun k => { k with run := dropFirst (opEnded s e.val) k.run }).core
        (12 * (dSig r.item.desc 0).2.1 + (dSig r.item.desc 0).2.2.1)).ring = true := by
      rw [State.mapCore_core]
      split
      next hn => rw [hn] at hring; exact hring
      · exact hring
    rw [issueSignals, issueOne_none _ _ _ _ _ _ h1, issueOne_signals _ _ _ _ _ _ h0 hs hring' hl]
    simp [flagPath, eq_comm]

end Sys2Proof.Machine
end

section
/-! PROOFS. What an engine's operation leaves unchanged: a view of the state that forgets what the operation may write, and the operations that the
view does not see. -/
namespace Sys2Proof.Machine

/-! ### Views -/

/-- The state outside the cores, without event records, free values and, where `h` is set, the requested halt. -/
def outsideView (h : Bool) (s : State) : State :=
  { s with cores := [], evr := State.reset.evr, free := 0, sch := { s.sch with haltReq := bif h then none else s.sch.haltReq } }

/-- What an operation of core `c` leaves: the state outside, the other cores, and what `g` sees of its own. -/
def engView {β : Type} (h : Bool) (g : Core → β) (c : Nat) (s : State) : State × ({k : Nat // k ≠ c} → Core) × β :=
  (outsideView h s, fun k => s.core k.val, g (s.core c))

section
variable {β : Type} {h : Bool} {g : Core → β} {c : Nat} {s t : State}

theorem engView_ext (ho : outsideView h t = outsideView h s) (hc : ∀ k, k ≠ c → t.core k = s.core k) (hg : g (t.core c) = g (s.core c)) :
    engView h g c t = engView h g c s := by
  unfold engView
  rw [ho, hg, funext fun k : {k : Nat // k ≠ c} => hc k.val k.property]

theorem engView_outside (e : engView h g c t = engView h g c s) : outsideView h t = outsideView h s := congrArg (·.1) e

theorem engView_others (e : engView h g c t = engView h g c s) : OtherCores s t c := fun k hk => congrFun (congrArg (·.2.1) e) ⟨k, hk⟩

theorem engView_own (e : engView h g c t = engView h g c s) : g (t.core c) = g (s.core c) := congrArg (·.2.2) e

/-- What is outside the cores stays, but for what the view forgets. -/
theorem engView_rest (e : engView h g c t = engView h g c s) :
    t = { s with cores := t.cores, evr := t.evr, free := t.free, sch := { s.sch with haltReq := t.sch.haltReq } } :=
  congrArg (fun z : State => { z with cores := t.cores, evr := t.evr, free := t.free, sch := { z.sch with haltReq := t.sch.haltReq } }) (engView_outside e)

theorem engView_sch (e : engView false g c t = engView false g c s) : t.sch = s.sch := by
  have hs := congrArg State.sch (engView_outside e)
  exact hs

theorem engView_frame (e : engView false g c t = engView false g c s) : t = { s with cores := t.cores, evr := t.evr, free := t.free } :=
  (engView_rest e).trans (by rw [engView_sch e])

/-- An operation that changes events and free values only. -/
theorem engView_of_cores (ho : outsideView h t = outsideView h s) (hc : t.cores = s.cores) : engView h g c t = engView h g c s :=
  engView_ext ho (fun k _ => core_of_cores hc k) (by rw [core_of_cores hc])

theorem mapCore_engView {f : Core → Core} (hf : g (f (s.core c)) = g (s.core c)) : engView h g c (s.mapCore c f) = engView h g c s :=
  engView_ext rfl (fun k hk => State.mapCore_core_ne _ _ _ _ hk) (by rw [State.mapCore_core_same, hf])

theorem engView_ite {β : Type} {v : State → β} {x : β} {p : Prop} [Decidable p] {s t : State} (hs : v s = x) (ht : v t = x) : v (if p then s else t) = x := by
  split <;> assumption

theorem each_engView {α : Type} {f : State → α → State} {l : List α} (hf : ∀ z x, engView h g c z = engView h g c s → engView h g c (f z x) = engView h g c s)
    (ht : engView h g c t = engView h g c s) : engView h g c (t.each l f) = engView h g c s :=
  State.each_keeps t (fun z => engView h g c z = engView h g c s) l f hf ht

theorem cond_engView {b : Bool} {f : State → State} (hf : engView h g c (f t) = engView h g c s) (ht : engView h g c t = engView h g c s) :
    engView h g c (t.cond b f) = engView h g c s := by
  cases b <;> assumption

theorem raise_engView (id n : Nat) (l : List Nat) : engView h g c (raise s id n l) = engView h g c s :=
  engView_of_cores (by rw [raise_frame]; rfl) (by simp)

theorem takeFree_engView (n : Nat) : engView h g c (takeFree s n).2 = engView h g c s := rfl

theorem takeFreeNat_engView (n : Nat) : engView h g c (takeFreeNat s n).2 = engView h g c s := rfl

theorem haltNext_engView (id : Nat) : engView true g c (haltNext s id) = engView true g c s := rfl

/-- The operations of every engine write the sticky flags and the list of operations, and leave the active bank. -/
structure Blind (g : Core → β) : Prop where
  sticky : ∀ x a b, g { x with sticky := a, stickySet := b } = g x
  run : ∀ x l, g { x with run := l } = g x
  bank : ∀ x y, g x = g y → x.actBank = y.actBank

theorem setSticky_engView (hg : Blind g) (f : BitVec 32) : engView h g c (setSticky s c f) = engView h g c s := by
  unfold setSticky
  exact engView_ite rfl (mapCore_engView (hg.sticky _ _ _))

theorem opDone_engView (hg : Blind g) (e o : Nat) : engView h g c (opDone s c e o) = engView h g c s := mapCore_engView (hg.run _ _)

theorem setOp_engView (hg : Blind g) (r : RunOp) (f : RunOp → RunOp) : engView h g c (setOp s c r f) = engView h g c s := mapCore_engView (hg.run _ _)

theorem withOp_engView (hg : Blind g) {e o : Nat} {f : RunOp → State → State} (hf : ∀ r, opOf s c e o = some r → engView h g c (f r s) = engView h g c s) :
    engView h g c (withOp s c e o f) = engView h g c s := by
  unfold withOp
  split
  · rfl
  next r hr => exact engView_ite ((opDone_engView hg _ _).trans (hf r hr)) rfl

theorem operand_of_engView (hg : Blind g) (e : engView h g c t = engView h g c s) (d : Desc) (i : Nat) : operand t c d i = operand s c d i := by
  simp only [operand, operandAny, hg.bank _ _ (engView_own e)]

theorem ternReport_engView (hg : Blind g) (r : RunOp) (b : Bool) : engView h g c (ternReport s c r b) = engView h g c s := by
  unfold ternReport
  refine engView_ite rfl ?_
  exact engView_ite (setSticky_engView hg _) ((setOp_engView hg _ _).trans ((raise_engView ..).trans (setSticky_engView hg _)))

theorem outlierReport_engView (hg : Blind g) (r : RunOp) (b : Bool) : engView h g c (outlierReport s c r b) = engView h g c s :=
  engView_ite ((raise_engView ..).trans (setSticky_engView hg _)) rfl

/-! ### Writes to the destination operand -/

/-- The view does not see the bytes of the scratchpad within the destination operand `o`. -/
structure PutBlind (g : Core → β) (o : Option Opnd) : Prop extends Blind g where
  put : ∀ (x : Core) m b w, (∀ i, (∀ y ∈ o, i < y.a ∨ y.a + y.bytes ≤ i) → mget m i = mget x.spad i) → g { x with spad := m, bad := b, wrote := w } = g x

theorem mset_fold_mget (f : Nat → Nat) (v : Nat → Byte) (l : List Nat) (m : Mem) (i : Nat) (h : ∀ j ∈ l, f j ≠ i) :
    mget (l.foldl (fun m j => mset m (f j) (v j)) m) i = mget m i := by
  induction l generalizing m with
  | nil => rfl
  | cons j l ih =>
    rw [List.foldl_cons, ih _ fun k hk => h k (List.mem_cons_of_mem _ hk), mget_mset, if_neg fun e => h j List.mem_cons_self e.symm]

theorem spadWrite_engView {o : Option Opnd} (hg : PutBlind g o) {a : Nat} {bs : List Byte} {y : Opnd} (ho : o = some y) (ha : y.a ≤ a)
    (hb : a + bs.length ≤ y.a + y.bytes) : engView h g c (spadWrite s c a bs).1 = engView h g c s := by
  unfold spadWrite
  extract_lets on ok x s1
  split
  · refine mapCore_engView (hg.put _ _ _ _ fun i hi => ?_)
    have := hi y ho
    rw [mget_mwrite, if_neg (by omega)]
  · refine (raise_engView ..).trans (mapCore_engView (hg.put _ _ _ _ fun i hi => mset_fold_mget _ _ _ _ _ fun j hj => ?_))
    have := hi y ho
    have := List.mem_range.1 (List.mem_filter.1 hj).1
    omega

/-- A result within the destination operand. -/
theorem opWrite_engView {o : Option Opnd} (hg : PutBlind g o) {y : Opnd} (ho : o = some y) (hl : y.loc = .spad c) {off : Nat} {bs : List Byte}
    (hb : off + bs.length ≤ y.bytes) (b : Bool) (pl : List Nat) : engView h g c (opWrite s y off bs b pl).1 = engView h g c s := by
  simp only [opWrite, hl]
  split
  · exact spadWrite_engView hg ho (by omega) (by omega)
  · rfl

theorem fxPut_engView {o : Option Opnd} (hg : PutBlind g o) (hl : ∀ y ∈ o, y.loc = .spad c) {off : Nat} {bs : List Byte}
    (hb : ∀ y ∈ o, off + bs.length ≤ y.bytes) : engView h g c (fxPut s o off bs) = engView h g c s := by
  cases o with
  | none => rfl
  | some y => exact opWrite_engView hg rfl (hl y rfl) (hb y rfl) false []

theorem opUndef_engView {o : Option Opnd} (hg : PutBlind g o) (hl : ∀ y ∈ o, y.loc = .spad c) : engView h g c (opUndef s o) = engView h g c s := by
  cases o with
  | none => rfl
  | some y => exact (opWrite_engView hg rfl (hl y rfl) (by simp) _ []).trans (takeFree_engView _)

end

end Sys2Proof.Machine
end

section
/-! PROOFS. What the operations of the matrix arrays leave unchanged. -/
namespace Sys2Proof.Machine

section
variable {β : Type} {h : Bool} {g : Core → β} {c a : Nat} {s t : State}

/-- The view does not see array `a`. -/
structure ArrBlind (g : Core → β) (a : Nat) : Prop extends Blind g where
  arr : ∀ (x : Core) (y : MxArray), g { x with arrays := fset x.arrays {} a y } = g x

theorem mapArr_engView (hg : ArrBlind g a) (f : MxArray → MxArray) : engView h g c (s.mapArr c a f) = engView h g c s := mapCore_engView (hg.arr _ _)

theorem stloadOp_engView (hg : ArrBlind g a) (r : RunOp) : engView h g c (stloadOp c a r s) = engView h g c s := by
  have hb : engView h g c (stloadBegin c a r s) = engView h g c s := cond_engView (raise_engView ..) rfl
  unfold stloadOp stloadPut
  extract_lets ready
  split
  · exact (outlierReport_engView hg.toBlind r _).trans ((mapArr_engView hg _).trans hb)
  · exact (mapArr_engView hg _).trans ((takeFree_engView _).trans hb)

theorem sndMissed_engView (hg : ArrBlind g a) : engView h g c (sndMissed s c a) = engView h g c s := (raise_engView ..).trans (mapArr_engView hg _)

theorem sndloadBegin_engView (hg : ArrBlind g a) : engView h g c (sndloadBegin c a s) = engView h g c s :=
  cond_engView ((sndMissed_engView hg).trans (mapArr_engView hg _)) rfl

theorem sndloadOp_engView (hg : ArrBlind g a) (r : RunOp) : engView h g c (sndloadOp c a r s) = engView h g c s := by
  unfold sndloadOp sndloadPut
  extract_lets d ready
  refine (mapArr_engView hg _).trans ?_
  split
  · exact sndloadBegin_engView hg
  · exact (takeFree_engView _).trans (sndloadBegin_engView hg)

theorem swapOp_engView (hg : ArrBlind g a) (r : RunOp) : engView h g c (swapOp c a r s) = engView h g c s := by
  unfold swapOp
  extract_lets d
  exact engView_ite ((mapArr_engView hg _).trans (takeFree_engView _)) (mapArr_engView hg _)

theorem streamFree_engView (hg : ArrBlind g a) (r : RunOp) (b : Bool) (i : Nat) : engView h g c (streamFree c a r b s i) = engView h g c s :=
  (mapArr_engView hg _).trans (takeFree_engView _)

theorem streamOne_engView (hg : ArrBlind g a) (src : State) (x : Tile) (r : RunOp) (i : Nat) : engView h g c (streamOne src x c a r s i) = engView h g c s := by
  unfold streamOne
  extract_lets d row y f isInt k clear tag sr old rs fl s1
  refine engView_ite (engView_ite (streamFree_engView hg r isInt i) ?_) (engView_ite (mapArr_engView hg _) rfl)
  exact (setSticky_engView hg.toBlind _).trans (mapArr_engView hg _)

theorem captureRow_engView (hg : ArrBlind g a) (src : State) (x : Tile) (r : RunOp) (i : Nat) :
    engView h g c (captureRow src x c a r s i) = engView h g c s := by
  unfold captureRow
  extract_lets d
  split
  · rfl
  · exact engView_ite (mapArr_engView hg _) rfl

theorem sampleStream_engView (hg : ArrBlind g a) (r : RunOp) (b : Bool) (l : List Nat) : engView h g c (sampleStream s c a r b l) = engView h g c s := by
  unfold sampleStream
  extract_lets x n s1 m
  have h1 : engView h g c s1 = engView h g c s := mapArr_engView hg _
  have hfree : engView h g c (captureFree c a r s1 m) = engView h g c s1 := (mapArr_engView hg _).trans rfl
  refine engView_ite rfl (engView_ite ?_ h1)
  exact engView_ite ((sndMissed_engView hg).trans h1) (engView_ite (hfree.trans h1) ((mapArr_engView hg _).trans h1))

theorem streamBegin_engView (hg : ArrBlind g a) (r : RunOp) : engView h g c (streamBegin c a r s) = engView h g c s := by
  unfold streamBegin
  extract_lets d bad valid s1 s2
  have h1 : engView h g c s1 = engView h g c s := cond_engView (raise_engView ..) rfl
  have h2 : engView h g c s2 = engView h g c s := cond_engView ((raise_engView ..).trans h1) h1
  exact engView_ite rfl ((sampleStream_engView hg r _ _).trans h2)

theorem streamOp_engView (hg : ArrBlind g a) (r : RunOp) : engView h g c (streamOp c a r s) = engView h g c s := by
  unfold streamOp
  extract_lets d x m
  refine engView_ite (each_engView (fun z i hz => ?_) (streamBegin_engView hg r)) (each_engView (fun z i hz => ?_) (streamBegin_engView hg r))
  · exact (streamFree_engView hg r _ i).trans hz
  · exact (streamOne_engView hg _ x r i).trans ((captureRow_engView hg _ x r i).trans hz)

theorem sndAlarm_engView (hg : ArrBlind g a) (e : Nat) : engView true g c (sndAlarm s c a e) = engView true g c s := by
  unfold sndAlarm
  extract_lets s1 s2 s3
  have h1 : engView true g c s2 = engView true g c s := (raise_engView ..).trans (mapArr_engView hg _)
  refine engView_ite (cond_engView ((haltNext_engView _).trans h1) h1) (engView_ite ?_ rfl)
  exact (raise_engView ..).trans (mapArr_engView hg _)

theorem sndWindow_engView (hg : ArrBlind g a) (b : Nat) : engView true g c (sndWindow s c a b) = engView true g c s := by
  unfold sndWindow
  extract_lets s1 n m s2 s3 s4
  have h1 : engView true g c s1 = engView true g c s := mapArr_engView hg _
  have h2 : engView true g c s2 = engView true g c s := (mapArr_engView hg _).trans h1
  have h4 : engView true g c s4 = engView true g c s := (raise_engView ..).trans ((mapArr_engView hg _).trans h2)
  exact engView_ite (engView_ite (cond_engView ((haltNext_engView _).trans h4) h4) h2) h1

theorem sndEvaluate_engView (hg : ArrBlind g a) (x : Capture) : engView true g c (sndEvaluate s c a x) = engView true g c s := by
  unfold sndEvaluate
  extract_lets y z s1 e b s2
  have h1 : engView true g c s1 = engView true g c s := mapArr_engView hg _
  have h2 : engView true g c s2 = engView true g c s := (mapArr_engView hg _).trans h1
  refine engView_ite ((raise_engView ..).trans ((mapArr_engView hg _).trans h1)) (engView_ite ((mapArr_engView hg _).trans h1) ?_)
  exact (sndWindow_engView hg _).trans ((sndAlarm_engView hg _).trans h2)

theorem sndDue_engView (hg : ArrBlind g a) : engView true g c (sndDue s c a) = engView true g c s := by
  unfold sndDue
  split
  · exact engView_ite (sndEvaluate_engView hg _) rfl
  · rfl

end

end Sys2Proof.Machine
end

section
/-! PROOFS. Loads and swaps of the matrix arrays (O12). -/
namespace Sys2Proof.Machine

section
variable {c a k : Nat} {s : State} {r : RunOp}

theorem mapArr_arr (f : MxArray → MxArray) (b : Nat) : ((s.mapArr c a f).core c).arr b = if b = a then f ((s.core c).arr a) else (s.core c).arr b := by
  simp [State.mapArr, Core.arr, fget_fset]

@[simp] theorem mapArr_arr_same (f : MxArray → MxArray) : ((s.mapArr c a f).core c).arr a = f ((s.core c).arr a) := by simp [mapArr_arr]

theorem arr_of_cores {t : State} (h : t.cores = s.cores) (b : Nat) : (t.core c).arr b = (s.core c).arr b := by rw [core_of_cores h]

@[simp] theorem setSticky_arr (f : BitVec 32) (b : Nat) : ((setSticky s c f).core c).arr b = (s.core c).arr b := by
  unfold setSticky
  split <;> simp [Core.arr]

@[simp] theorem opDone_arr (e o b : Nat) : ((opDone s c e o).core c).arr b = (s.core c).arr b := by simp [opDone, opDoneSt, Core.arr]

@[simp] theorem outlierReport_arr (x : Bool) (b : Nat) : ((outlierReport s c r x).core c).arr b = (s.core c).arr b := by
  unfold outlierReport
  split
  · rw [arr_of_cores (raise_cores ..), setSticky_arr]
  · rfl

/-- The view that sees the arrays but `a` of a core, and all else but the sticky flags and the list of operations. -/
def arrView (a : Nat) (k : Core) : Core × ({b : Nat // b ≠ a} → MxArray) :=
  ({ k with arrays := [], sticky := 0#32, stickySet := 0#32, run := [] }, fun b => k.arr b.val)

theorem arrView_blind (a : Nat) : ArrBlind (arrView a) a where
  sticky _ _ _ := rfl
  run _ _ := rfl
  bank x y h := congrArg (fun z : Core × ({b : Nat // b ≠ a} → MxArray) => z.1.actBank) h
  arr x y := by
    refine Prod.ext rfl (funext fun b => ?_)
    exact fget_fset_ne _ _ _ _ _ _ b.property

/-! ### The bytes of a load -/

theorem memOf_mget (bs : List Byte) (i : Nat) : mget (memOf bs) i = bs.getD i 0#8 := by
  rw [memOf, mget_mwrite]
  split
  · rfl
  next h => rw [mget_nil, List.getD_eq_default _ _ (by omega)]

/-- A tile or plane that holds the bytes of its operands. -/
structure Holds (s : State) (c f : Nat) (x y : Opnd) (p : Tile) : Prop where
  fmt : p.fmt = f
  loaded : p.loaded = true
  elems : p.elems = memOf (opRead s x 0 (planeBytes c f))
  scales : fmtBlock f = true → p.scales = memOf (opRead s y 0 (tileBlocks c f))

/-- The operands that a load of format `f` reads (R145). -/
def LoadReads (s : State) (c f : Nat) (d : Desc) (x y : Opnd) : Prop :=
  operand s c d 0 = some x ∧ planeBytes c f ≤ x.bytes ∧ (fmtBlock f = true → operand s c d 1 = some y ∧ tileBlocks c f ≤ y.bytes)

section
variable {f : Nat} {d : Desc} {x y : Opnd}

theorem opBytes_some {n : Nat} (hn : n ≤ x.bytes) : opBytes s (some x) n = some (opRead s x 0 n) := by
  unfold opBytes
  split
  next h =>
    subst h
    unfold opRead
    split <;> rfl
  · simp [hn]

theorem opBytes_elems (h : LoadReads s c f d x y) : opBytes s (operand s c d 0) (planeBytes c f) = some (opRead s x 0 (planeBytes c f)) := by
  obtain ⟨hx, hn, _⟩ := h
  rw [hx, opBytes_some hn]

theorem opBytes_scales (h : LoadReads s c f d x y) : ∃ sc, opBytes s (operand s c d 1) (if fmtBlock f then tileBlocks c f else 0) = some sc ∧
    (fmtBlock f = true → sc = opRead s y 0 (tileBlocks c f)) := by
  obtain ⟨_, _, hy⟩ := h
  cases hf : fmtBlock f with
  | false => exact ⟨[], by simp [opBytes], by simp⟩
  | true =>
    obtain ⟨ho, hn⟩ := hy hf
    exact ⟨_, by rw [if_pos rfl, ho, opBytes_some hn], fun _ => rfl⟩

theorem loadTile_holds (h : LoadReads s c f d x y) (hw : widthClass f ≠ 0) (ready : Nat) :
    ∃ p bad, loadTile s c f d ready = some (p, bad) ∧ Holds s c f x y p := by
  obtain ⟨sc, hsc, hscales⟩ := opBytes_scales h
  simp only [loadTile, if_neg hw, opBytes_elems h, hsc]
  exact ⟨_, _, rfl, rfl, rfl, rfl, fun hf => by rw [hscales hf]⟩

theorem loadPlane_holds (h : LoadReads s c f d x y) (hw : widthClass f = 8) (ready : Nat) :
    ∃ p, loadPlane s c f d ready = some p ∧ Holds s c f x y p := by
  obtain ⟨sc, hsc, hscales⟩ := opBytes_scales h
  simp only [loadPlane, hw, opBytes_elems h, hsc]
  exact ⟨_, rfl, rfl, rfl, rfl, fun hf => by rw [hscales hf]⟩

/-! ### The operations -/

theorem stloadBegin_core (k : Nat) : (stloadBegin c a r s).core k = s.core k :=
  core_of_cores (by unfold stloadBegin; cases (widthClass (dP r.item.desc 63 59) == 0) <;> simp) k

/-- A load whose operands hold its bytes fills the shadow buffer (R145, R148). -/
theorem stloadOp_arr (h : LoadReads s c (dP r.item.desc 63 59) r.item.desc x y) (hr : dReserved r.item.desc = false) (hp : dP r.item.desc 58 0 = 0)
    (hw : widthClass (dP r.item.desc 63 59) ≠ 0) : ∃ p, Holds s c (dP r.item.desc 63 59) x y p ∧
      ((stloadOp c a r s).core c).arr a = { (s.core c).arr a with shadow := p } := by
  obtain ⟨p0, b0, hl0, _⟩ := loadTile_holds h hw 0
  obtain ⟨p, b, hl, hp'⟩ := loadTile_holds h hw (r.startS + r.lat)
  refine ⟨p, hp', ?_⟩
  have hbad : stloadBad s c r = false := by simp [stloadBad, hr, hp, hl0]
  simp [stloadOp, stloadPut, hbad, hl, stloadBegin_core]

/-- What the start of a sentinel load leaves: no sample, and one more missed where one was captured (R172, R579). -/
theorem sndloadBegin_arr : ((sndloadBegin c a s).core c).arr a = { (s.core c).arr a with
    capture := none, snd := { ((s.core c).arr a).snd with
      missed := if ((s.core c).arr a).capture.isSome then sat32 ((s.core c).arr a).snd.missed else ((s.core c).arr a).snd.missed } } := by
  unfold sndloadBegin
  cases hc : ((s.core c).arr a).capture with
  | none =>
    rw [Option.isSome_none, State.cond_false]
    simp only [Bool.false_eq_true, if_false]
    rw [← hc]
  | some x =>
    rw [Option.isSome_some, State.cond_true, sndMissed, arr_of_cores (raise_cores ..)]
    simp

theorem sndloadOp_arr (h : LoadReads s c (dP r.item.desc 63 59) r.item.desc x y) (hr : dReserved r.item.desc = false) (hp : dP r.item.desc 57 0 = 0)
    (hw : widthClass (dP r.item.desc 63 59) = 8) : ∃ p, Holds s c (dP r.item.desc 63 59) x y p ∧
      ((sndloadOp c a r s).core c).arr a = (let k := ((sndloadBegin c a s).core c).arr a
        if dPb r.item.desc 58 then { k with plane1 := p } else { k with plane0 := p, plane1 := { k.plane1 with loaded := false } }) := by
  obtain ⟨p0, hl0, _⟩ := loadPlane_holds h hw 0
  obtain ⟨p, hl, hp'⟩ := loadPlane_holds h hw (r.startS + r.lat)
  refine ⟨p, hp', ?_⟩
  have hbad : sndloadBad s c r = false := by simp [sndloadBad, hr, hp, hl0]
  simp [sndloadOp, sndloadPut, hbad, hl]

end

/-- An operation of an array that has started: what it leaves is its effect, marked as performed. -/
theorem arrOp_others {f : RunOp → State → State} {e o : Nat} (hf : engView false (arrView a) c (f r s) = engView false (arrView a) c s) :
    engView false (arrView a) c (opDone (f r s) c e o) = engView false (arrView a) c s := (opDone_engView (arrView_blind a).toBlind _ _).trans hf

theorem arrView_arr {x y : Core} (h : arrView a x = arrView a y) (b : Nat) (hb : b ≠ a) : x.arr b = y.arr b :=
  congrFun (congrArg (·.2) h) ⟨b, hb⟩

end

/-- Settles O12. -/
theorem tilesLoadAndSwap : Obligations.TilesLoadAndSwap := by
  refine ⟨?loads, fun c a s r h => ?swaps⟩
  case loads =>
    intro c a s r x y d f old hr hx hn hy holds
    have hreads : LoadReads s c.val f d x y := ⟨hx, hn, hy⟩
    have hholds (p : Tile) (hp : Holds s c.val f x y p) : holds p := by
      obtain ⟨hf, hl, he, hs⟩ := hp
      exact ⟨hf, hl, fun i _ => by rw [he, memOf_mget], fun hb i _ => by rw [hs hb, memOf_mget]⟩
    refine ⟨fun h hw hp => ?stload, fun h hw hp => ?sndload⟩
    case stload =>
      obtain ⟨p, hp', ha⟩ := stloadOp_arr (a := a.val) hreads hr hp hw
      refine ⟨_, congrArg Host.Outcome.next (withOp_some s _ _ _ _ r h), ?_, ?_, ?_, engView_others (arrOp_others (stloadOp_engView (arrView_blind a.val) r))⟩
      · rw [opDone_arr, ha]; exact hholds p hp'
      · rw [opDone_arr, ha]
      · rw [opDone_arr, ha]
    case sndload =>
      obtain ⟨p, hp', ha⟩ := sndloadOp_arr (a := a.val) hreads hr hp hw
      have ho := engView_others (arrOp_others (e := a.val) (o := 0x14) (sndloadOp_engView (arrView_blind a.val) r (c := c.val) (s := s) (h := false)))
      rw [sndloadBegin_arr] at ha
      cases hb : dPb r.item.desc 58 with
      | true =>
        simp only [hb, if_true] at ha
        refine ⟨_, congrArg Host.Outcome.next (withOp_some s _ _ _ _ r h), ?_, by rw [opDone_arr, ha], by rw [opDone_arr, ha]; rfl, ho⟩
        rw [if_pos rfl, opDone_arr, ha]
        exact ⟨hholds p hp', rfl⟩
      | false =>
        simp only [hb, Bool.false_eq_true, if_false] at ha
        refine ⟨_, congrArg Host.Outcome.next (withOp_some s _ _ _ _ r h), ?_, by rw [opDone_arr, ha], by rw [opDone_arr, ha]; rfl, ho⟩
        rw [if_neg (by decide), opDone_arr, ha]
        exact ⟨hholds p hp', rfl⟩
  case swaps =>
    have hv := arrOp_others (e := a.val) (o := 0x12) (swapOp_engView (arrView_blind a.val) r (c := c.val) (s := s) (h := false))
    refine ⟨fun hl hr hp => ?_, fun hl => ?_⟩
    · have hop : swapOp c.val a.val r s = s.mapArr c.val a.val fun x => { x with active := x.shadow, shadow := x.active } := by simp [swapOp, hl, hr, hp]
      refine ⟨_, congrArg Host.Outcome.next (withOp_some s _ _ _ _ r h), by rw [opDone_arr, hop]; simp, fun b hb => arrView_arr (engView_own hv) b hb,
        engView_others hv, ?_⟩
      rw [hop]; rfl
    · have hop : swapOp c.val a.val r s = (undefTile s c.val 0).2.mapArr c.val a.val fun x => { x with active := (undefTile s c.val 0).1, shadow := x.active } := by
        simp [swapOp, hl]
      refine ⟨_, (undefTile s c.val 0).1, congrArg Host.Outcome.next (withOp_some s _ _ _ _ r h), by rw [opDone_arr, hop, mapArr_arr_same]; rfl,
        fun b hb => arrView_arr (engView_own hv) b hb, engView_others hv, ?_⟩
      rw [hop]; rfl

end Sys2Proof.Machine
end

section
/-! PROOFS. What a stream adds to the accumulators (O13). -/
namespace Sys2Proof.Machine

section
variable {c a : Nat} {s t : State} {r : RunOp}

/-- What a stream reads and writes of its array, but for samples and sums of outliers: accumulators, type tags and the active tile; and the core's
`NUMCTL`. -/
def accView (c a : Nat) (s : State) : FMap (BitVec 32) × FMap AccTag × Tile × BitVec 32 :=
  (((s.core c).arr a).acc, ((s.core c).arr a).tags, ((s.core c).arr a).active, (s.core c).numctl)

theorem mapArr_accView {f : MxArray → MxArray} (hf : ∀ x, (f x).acc = x.acc ∧ (f x).tags = x.tags ∧ (f x).active = x.active) :
    accView c a (s.mapArr c a f) = accView c a s := by
  obtain ⟨h1, h2, h3⟩ := hf ((s.core c).arr a)
  have hn : ((s.mapArr c a f).core c).numctl = (s.core c).numctl := by simp [State.mapArr]
  simp only [accView, mapArr_arr_same, h1, h2, h3, hn]

theorem accView_of_cores (h : t.cores = s.cores) : accView c a t = accView c a s := by simp only [accView, core_of_cores h]

theorem setSticky_accView (f : BitVec 32) : accView c a (setSticky s c f) = accView c a s := by
  have hn : ((setSticky s c f).core c).numctl = (s.core c).numctl := by unfold setSticky; split <;> simp
  simp only [accView, setSticky_arr, hn]

theorem sndMissed_accView : accView c a (sndMissed s c a) = accView c a s :=
  (accView_of_cores (raise_cores ..)).trans (mapArr_accView (by simp))

theorem sampleStream_accView (b : Bool) (l : List Nat) : accView c a (sampleStream s c a r b l) = accView c a s := by
  unfold sampleStream
  extract_lets x n s1 m
  have h1 : accView c a s1 = accView c a s := mapArr_accView (by simp)
  have hfree : accView c a (captureFree c a r s1 m) = accView c a s1 := by
    unfold captureFree
    extract_lets f
    exact (mapArr_accView (by simp)).trans rfl
  refine engView_ite rfl (engView_ite ?_ h1)
  exact engView_ite (sndMissed_accView.trans h1) (engView_ite (hfree.trans h1) ((mapArr_accView (by simp)).trans h1))

theorem streamBegin_accView : accView c a (streamBegin c a r s) = accView c a s := by
  unfold streamBegin
  extract_lets d bad valid s1 s2
  have hc (b : Bool) (z : State) (id : Nat) (l : List Nat) : accView c a (z.cond b fun z => raiseE z id c a l) = accView c a z := by
    cases b
    · rfl
    · exact accView_of_cores (raise_cores ..)
  exact engView_ite rfl ((sampleStream_accView _ _).trans ((hc _ s1 _ _).trans (hc _ s _ _)))

theorem captureRow_accView (src : State) (x : Tile) (i : Nat) : accView c a (captureRow src x c a r s i) = accView c a s := by
  unfold captureRow
  extract_lets d
  split
  · rfl
  · exact engView_ite (mapArr_accView (by simp)) rfl

/-! ### Rows of accumulators -/

theorem getD_map_range {α : Type} {d : α} (f : Nat → α) {n i : Nat} (h : i < n) : ((List.range n).map f).getD i d = f i := by
  simp [List.getD, h]

theorem fset_fold_fget {α : Type} [DecidableEq α] (d : α) (v : Nat → α) (b n : Nat) (m : FMap α) (j : Nat) :
    fget ((List.range n).foldl (fun m i => fset m d (b + i) (v i)) m) d j = if b ≤ j ∧ j < b + n then v (j - b) else fget m d j := by
  induction n with
  | zero => simp
  | succ n ih =>
    rw [List.range_succ, List.foldl_append, List.foldl_cons, List.foldl_nil, fget_fset, ih]
    by_cases hj : j = b + n
    · rw [if_pos hj, if_pos (by omega), hj, Nat.add_sub_cancel_left]
    · rw [if_neg hj]
      by_cases hlt : b ≤ j ∧ j < b + n
      · rw [if_pos hlt, if_pos (by omega)]
      · rw [if_neg hlt, if_neg (by omega)]

theorem setAccRow_acc (x : MxArray) (row : Nat) (vs : List Nat) (tag : AccTag) (j : Nat) : fget (setAccRow x row vs tag).acc 0#32 j =
    if 64 * row ≤ j ∧ j < 64 * row + 64 then BitVec.ofNat 32 (vs.getD (j - 64 * row) 0) else fget x.acc 0#32 j := by
  simp only [setAccRow]
  rw [fset_fold_fget 0#32 (fun n => BitVec.ofNat 32 (vs.getD n 0))]

/-- What row `i` of a stream leaves of the array `x`: `y` differs from it in row `row` only. -/
structure RowStep (row : Nat) (x y : MxArray) : Prop where
  acc : ∀ j, (j < 64 * row ∨ 64 * row + 64 ≤ j) → fget y.acc 0#32 j = fget x.acc 0#32 j
  tags : ∀ k, k ≠ row → fget y.tags .zero k = fget x.tags .zero k
  active : y.active = x.active

theorem rowStep_setAccRow (x : MxArray) (row : Nat) (vs : List Nat) (tag : AccTag) : RowStep row x (setAccRow x row vs tag) where
  acc j hj := by rw [setAccRow_acc, if_neg (by omega)]
  tags k hk := by simp only [setAccRow]; exact fget_fset_ne _ _ _ _ _ _ hk
  active := by simp only [setAccRow]

theorem rowStep_clear (x : MxArray) (row : Nat) (vs : List Nat) (tag : AccTag) : RowStep row x (setAccRow (clearOsum x row) row vs tag) :=
  have h := rowStep_setAccRow (clearOsum x row) row vs tag
  ⟨h.acc, h.tags, h.active⟩

theorem addOsum_acc (p : Tile) (x : MxArray) (row f k : Nat) (sr : SRow) : (addOsum p x row f k sr).acc = x.acc := rfl

theorem RowStep.addOsum {row : Nat} {x y : MxArray} (h : RowStep row x y) (p : Tile) (n f k : Nat) (sr : SRow) : RowStep row x (addOsum p y n f k sr) :=
  ⟨h.acc, h.tags, h.active⟩

theorem RowStep.refl (row : Nat) (x : MxArray) : RowStep row x x := ⟨fun _ _ => rfl, fun _ _ => rfl, rfl⟩

/-- One row of a stream changes the accumulators of its row only, and the core's `NUMCTL` stays. -/
theorem streamOne_step (src : State) (p : Tile) (i : Nat) :
    RowStep (dP r.item.desc 63 54 + i) ((s.core c).arr a) (((streamOne src p c a r s i).core c).arr a) ∧
      ((streamOne src p c a r s i).core c).numctl = (s.core c).numctl := by
  have hn (z : State) (f : MxArray → MxArray) : ((z.mapArr c a f).core c).numctl = (z.core c).numctl := by simp [State.mapArr]
  have hs (z : State) (f : BitVec 32) : ((setSticky z c f).core c).numctl = (z.core c).numctl := by unfold setSticky; split <;> simp
  unfold streamOne
  extract_lets d row x f isInt k clear tag sr old rs fl s1
  split
  · split
    · unfold streamFree
      rw [mapArr_arr_same, hn]
      exact ⟨rowStep_setAccRow _ _ _ _, rfl⟩
    · rw [setSticky_arr, mapArr_arr_same, hs, hn]
      refine ⟨RowStep.addOsum ?_ _ _ _ _ _, rfl⟩
      split
      · exact rowStep_clear x _ _ _
      · exact rowStep_setAccRow x _ _ _
  · split
    · rw [mapArr_arr_same, hn]
      exact ⟨rowStep_clear x _ _ _, rfl⟩
    · exact ⟨.refl _ x, rfl⟩

/-- What accumulator `n` of row `i` holds after the row, where it held `old` under the type `tag` (R156, R158). -/
def RowDone (src : State) (p : Tile) (c : Nat) (r : RunOp) (i n : Nat) (tag : AccTag) (old v : BitVec 32) : Prop :=
  let d := r.item.desc
  let f := dP d 43 39
  let k := tileK c p.fmt
  let isInt := streamInt f p.fmt
  (rowValid src c r i = true → (dPb d 38 = true ∨ tag = .zero ∨ tag = streamTag isInt) →
    v = BitVec.ofNat 32 (accumElem isInt (dPb d 37) (dWrap d) (ftzOf src c) f (streamRow src d c f k i) p k n (k / 32)
      (if dPb d 38 then 0 else old.toNat)).v) ∧
  (rowValid src c r i = false → v = if dPb d 38 then 0#32 else old)

theorem streamOne_done (src : State) (p : Tile) (i n : Nat) (hn : n < 64) (hf : (s.core c).numctl = (src.core c).numctl) :
    let row := dP r.item.desc 63 54 + i
    RowDone src p c r i n (fget ((s.core c).arr a).tags .zero row) (fget ((s.core c).arr a).acc 0#32 (64 * row + n))
      (fget (((streamOne src p c a r s i).core c).arr a).acc 0#32 (64 * row + n)) := by
  intro row
  have hin : 64 * row ≤ 64 * row + n ∧ 64 * row + n < 64 * row + 64 := by omega
  have hsub : 64 * row + n - 64 * row = n := by omega
  have hftz : ftzOf s c = ftzOf src c := by simp only [ftzOf, hf]
  refine ⟨fun hv ht => ?_, fun hv => ?_⟩
  · have ht' : ¬ ((!dPb r.item.desc 38) = true ∧ fget ((s.core c).arr a).tags .zero row ≠ .zero ∧
        fget ((s.core c).arr a).tags .zero row ≠ streamTag (streamInt (dP r.item.desc 43 39) p.fmt)) := by
      rintro ⟨h1, h2, h3⟩
      rcases ht with h | h | h
      · rw [h] at h1; cases h1
      · exact h2 h
      · exact h3 h
    unfold streamOne
    extract_lets d row' x f isInt k clear tag sr old rs fl s1
    have hold : old.getD n 0 = if dPb r.item.desc 38 then 0 else (fget ((s.core c).arr a).acc 0#32 (64 * row + n)).toNat := by
      unfold old
      split
      next => exact List.getD_replicate _ hn
      next => rw [accRow, getD_map_range _ hn]
    have hrs : (rs.map (·.v)).getD n 0 = (accumElem isInt (dPb d 37) (dWrap d) (ftzOf s c) f sr p k n (k / 32) (old.getD n 0)).v := by
      rw [List.map_map, getD_map_range _ hn]
      rfl
    rw [if_pos hv, if_neg ht', setSticky_arr, mapArr_arr_same, addOsum_acc, setAccRow_acc, if_pos hin, hsub, hrs, hold, hftz]
  · have hv' : ¬ rowValid src c r i = true := by simp [hv]
    unfold streamOne
    extract_lets d row' x f isInt k clear tag sr old rs fl s1
    rw [if_neg hv']
    split
    next h =>
      rw [mapArr_arr_same, setAccRow_acc, if_pos hin]
      rfl
    next => rfl

/-- The state after the first `n` rows of a stream. -/
def streamRows (src : State) (p : Tile) (c a : Nat) (r : RunOp) (s : State) (n : Nat) : State :=
  s.each (List.range n) fun z i => streamOne src p c a r (captureRow src p c a r z i) i

theorem streamRows_succ (src : State) (p : Tile) (n : Nat) :
    streamRows src p c a r s (n + 1) = streamOne src p c a r (captureRow src p c a r (streamRows src p c a r s n) n) n := by
  simp [streamRows, State.each, List.range_succ]

/-- After `n` rows: those rows are done, and the others are as they were. -/
theorem streamRows_done (src : State) (p : Tile) (hv : accView c a s = accView c a src) (n : Nat) :
    let base := dP r.item.desc 63 54
    let x := (src.core c).arr a
    let y := ((streamRows src p c a r s n).core c).arr a
    ((streamRows src p c a r s n).core c).numctl = (src.core c).numctl ∧ y.active = x.active ∧
    (∀ j, (j < 64 * base ∨ 64 * (base + n) ≤ j) → fget y.acc 0#32 j = fget x.acc 0#32 j) ∧
    (∀ k, (k < base ∨ base + n ≤ k) → fget y.tags .zero k = fget x.tags .zero k) ∧
    ∀ i q, i < n → q < 64 → RowDone src p c r i q (fget x.tags .zero (base + i)) (fget x.acc 0#32 (64 * (base + i) + q))
      (fget y.acc 0#32 (64 * (base + i) + q)) := by
  intro base x y
  induction n with
  | zero =>
    simp only [accView, Prod.mk.injEq] at hv
    obtain ⟨h1, h2, h3, h4⟩ := hv
    exact ⟨h4, h3, fun j _ => congrArg (fget · 0#32 j) h1, fun k _ => congrArg (fun t => fget t AccTag.zero k) h2, fun i q hi => by omega⟩
  | succ n ih =>
    obtain ⟨hnum, hact, hacc, htag, hdone⟩ := ih
    have hc := captureRow_accView (c := c) (a := a) (s := streamRows src p c a r s n) (r := r) src p n
    simp only [accView, Prod.mk.injEq] at hc
    obtain ⟨c1, c2, c3, c4⟩ := hc
    obtain ⟨⟨sacc, stag, sact⟩, snum⟩ := streamOne_step (c := c) (a := a) (s := captureRow src p c a r (streamRows src p c a r s n) n) (r := r) src p n
    rw [c1] at sacc
    rw [c2] at stag
    rw [c3] at sact
    rw [c4] at snum
    unfold y
    rw [streamRows_succ]
    refine ⟨snum.trans hnum, sact.trans hact, fun j hj => ?_, fun k hk => ?_, fun i q hi hq => ?_⟩
    · exact (sacc j (by omega)).trans (hacc j (by omega))
    · exact (stag k (by omega)).trans (htag k (by omega))
    · by_cases he : i = n
      · subst he
        have h := streamOne_done (c := c) (a := a) (s := captureRow src p c a r (streamRows src p c a r s i) i) (r := r) src p i q hq (c4.trans hnum)
        rw [c1, c2] at h
        rw [← hacc (64 * (base + i) + q) (by omega), ← htag (base + i) (by omega)]
        exact h
      · rw [sacc (64 * (base + i) + q) (by omega)]
        exact hdone i q (by omega) hq

end

/-- Settles O13: the rows of a stream are done one by one, each in accumulators of its own. -/
theorem streamAccumulates : Obligations.StreamAccumulates := by
  intro c a s r h d m base f x k isInt hrows hm hf hmode hdres hres hin
  have hgood : streamBad s c.val a.val r = false := by
    have h1 : streamRowsBad d = false := by simpa [streamRowsBad] using hrows
    have h2 : streamFmtBad d = false := by simpa [streamFmtBad] using hf
    change (streamRowsBad d || streamFmtBad d || decide (512 < m) || dP d 36 35 == 3 || dP d 28 0 != 0 || dReserved d ||
      !streamInside s c.val r k f (indices m (rowValid s c.val r))) = false
    simp [h1, h2, hm, hmode, hdres, hres, hin]
  have hop : streamOp c.val a.val r s = streamRows s x.active c.val a.val r (streamBegin c.val a.val r s) m := by simp [streamOp, hgood, streamRows, x, m, d]
  obtain ⟨_, hact, hacc, _, hdone⟩ := streamRows_done (r := r) s x.active (streamBegin_accView (c := c.val) (a := a.val) (s := s) (r := r)) m
  rw [← hop] at hact hacc hdone
  have ho := engView_others (arrOp_others (e := a.val) (o := 0x10) (streamOp_engView (arrView_blind a.val) r (c := c.val) (s := s) (h := false)))
  refine ⟨_, congrArg Host.Outcome.next (withOp_some s _ _ _ _ r h), fun i n hi hn => ?_, fun j hj => ?_, ?_, ho⟩
  · rw [opDone_arr]
    exact hdone i n hi hn
  · rw [opDone_arr]
    exact hacc j hj
  · rw [opDone_arr]
    exact hact

end Sys2Proof.Machine
end

section
/-! PROOFS. Results in the own scratchpad, row by row; the drain (O14) and the evaluation of a sample (O15). -/
namespace Sys2Proof.Machine

section
variable {c a : Nat} {s t u : State} {r : RunOp}

/-! ### Bytes side by side -/

theorem Stores.nil (h : (t.core c).spad = (s.core c).spad) (a : Nat) : Stores s t c a [] := fun i => by
  rw [if_neg (by simp only [List.length_nil]; omega), h]

theorem Stores.append {bs cs : List Byte} (h : Stores s t c a bs) (g : Stores t u c (a + bs.length) cs) : Stores s u c a (bs ++ cs) := fun i => by
  rw [g i, h i, List.length_append]
  by_cases hi : i < a + bs.length
  · rw [if_neg (by omega)]
    by_cases ha : a ≤ i
    · rw [if_pos (by omega), if_pos (by omega), List.getD_append _ _ _ _ (by omega)]
    · rw [if_neg (by omega), if_neg (by omega)]
  · by_cases hc : i < a + bs.length + cs.length
    · rw [if_pos (by omega), if_pos (by omega), List.getD_append_right _ _ _ _ (by omega), Nat.sub_add_eq]
    · rw [if_neg (by omega), if_neg (by omega), if_neg (by omega)]

theorem Stores.of_core (h : Stores t u c a bs) (hs : t.core c = s.core c) : Stores s u c a bs := fun i => by rw [h i, hs]

/-! ### The view of a result in the own scratchpad -/

/-- A core without what a write to its scratchpad and an engine's flags change. -/
def spadView (k : Core) : Core := { k with spad := [], bad := [], wrote := [], sticky := 0#32, stickySet := 0#32, run := [] }

theorem spadView_field {β : Type} (f : Core → β) (h : spadView (t.core c) = spadView (s.core c)) (hf : ∀ k, f (spadView k) = f k := by intro; rfl) :
    f (t.core c) = f (s.core c) := by rw [← hf, h, hf]

theorem outside_field {β : Type} (f : State → β) (h : outsideView false t = outsideView false s)
    (hf : ∀ z, f (outsideView false z) = f z := by intro; rfl) : f t = f s := by rw [← hf, h, hf]

theorem spadView_blind (o : Option Opnd) : PutBlind spadView o where
  sticky _ _ _ := rfl
  run _ _ := rfl
  bank _ _ h := by
    have hb := congrArg Core.actBank h
    exact hb
  put _ _ _ _ _ := rfl

theorem spadView_ftz (h : engView false spadView c t = engView false spadView c s) : ftzOf t c = ftzOf s c :=
  spadView_field (fun k => k.numctl.getLsbD 0) (engView_own h)

theorem spadView_arr (h : engView false spadView c t = engView false spadView c s) (b : Nat) : (t.core c).arr b = (s.core c).arr b :=
  spadView_field (fun k => k.arr b) (engView_own h)

theorem OwnSpad.congr {i n : Nat} (h : OwnSpad s c r i a n) (e : engView false spadView c t = engView false spadView c s) : OwnSpad t c r i a n := by
  obtain ⟨x, hx, hl, ha, hn, hp, hon⟩ := h
  have ho := engView_outside e
  have hmgm : t.mgm = s.mgm := outside_field State.mgm ho
  have hpos : corePresent t c = corePresent s c := by
    have hrep : t.rep = s.rep := outside_field State.rep ho
    simp only [corePresent, corePos, hrep]
  have hseg : segTakes t c = segTakes s c := by
    have hk : (t.core c).segMask = (s.core c).segMask ∧ (t.core c).segDown = (s.core c).segDown :=
      ⟨spadView_field Core.segMask (engView_own e), spadView_field Core.segDown (engView_own e)⟩
    simp only [segTakes, hmgm, hk.1, hk.2]
  exact ⟨x, (operand_of_engView (spadView_blind none).toBlind e _ _).trans hx, hl, ha, hn, hpos.trans hp, fun j hj => by rw [hseg]; exact hon j hj⟩

theorem OwnSpad.mono {i n m : Nat} (h : OwnSpad s c r i a n) (hm : m ≤ n) : OwnSpad s c r i a m := by
  obtain ⟨x, hx, hl, ha, hn, hp, hon⟩ := h
  exact ⟨x, hx, hl, ha, hm.trans hn, hp, fun j hj => hon j (hj.trans_le hm)⟩

/-- A result that fits stands at its place of the destination. -/
theorem fxPut_stores_at {i n o : Nat} {bs : List Byte} (h : OwnSpad s c r i a n) (hn : o + bs.length ≤ n) :
    Stores s (fxPut s (operand s c r.item.desc i) o bs) c (a + o) bs ∧
      engView false spadView c (fxPut s (operand s c r.item.desc i) o bs) = engView false spadView c s := by
  obtain ⟨x, hx, hl, rfl, hb, hp, hon⟩ := h
  refine ⟨?_, fxPut_engView (spadView_blind _) (fun y hy => ?_) fun y hy => ?_⟩
  · simp only [fxPut, hx, opWrite, hl, hp, if_true]
    exact (spadWrite_stores c _ bs (segRangeOn_of_segOn (spadBytes_segments c) fun j hj => by rw [Nat.add_assoc]; exact hon _ (by omega))).1
  · cases hx.symm.trans hy
    exact hl
  · cases hx.symm.trans hy
    omega

/-- The number of bytes of packed elements. -/
theorem packElems_length (f : Nat) (cs : List Nat) : (packElems f cs).length = fmtBytes f cs.length := by
  unfold packElems fmtBytes
  split <;> simp

/-- Rows of `len` bytes that are stored one by one stand side by side. -/
theorem stores_rows {row : Nat → List Byte} {len : Nat} {f : State → Nat → State} {m : Nat} (hlen : ∀ i, i < m → (row i).length = len)
    (hf : ∀ z i, i < m → engView false spadView c z = engView false spadView c s →
      Stores z (f z i) c (a + i * len) (row i) ∧ engView false spadView c (f z i) = engView false spadView c z) (n : Nat) (hn : n ≤ m) :
    Stores s (s.each (List.range n) f) c a ((List.range n).map row).flatten ∧
      engView false spadView c (s.each (List.range n) f) = engView false spadView c s := by
  induction n with
  | zero => exact ⟨.nil rfl a, rfl⟩
  | succ n ih =>
    obtain ⟨hs, hv⟩ := ih (by omega)
    obtain ⟨hs', hv'⟩ := hf _ n hn hv
    have hl : (((List.range n).map row).flatten).length = n * len := by
      rw [flatten_length_of (n := len) fun x hx => ?_, List.length_map, List.length_range, Nat.mul_comm]
      obtain ⟨i, hi, rfl⟩ := List.mem_map.1 hx
      exact hlen i (by have := List.mem_range.1 hi; omega)
    rw [List.range_succ, State.each, List.foldl_append, List.foldl_cons, List.foldl_nil, List.map_append, List.flatten_append]
    refine ⟨hs.append ?_, hv'.trans hv⟩
    rw [hl, List.map_singleton, List.flatten_singleton]
    exact hs'

/-! ### The drain -/

/-- The bytes of row `i` of a drain (R139, R162). -/
def drainRowBytes (s : State) (x : MxArray) (c : Nat) (d : Desc) (i : Nat) : List Byte :=
  packElems (dP d 43 39) ((List.range 64).map fun n =>
    (drainElem (ftzOf s c) (dWrap d) (dPb d 38) (dP d 43 39) (dP d 31 0) (fget x.acc 0#32 (64 * (dP d 63 54 + i) + n)).toNat
      (fget x.tags .zero (dP d 63 54 + i)) (fget x.osum xzero (64 * (dP d 63 54 + i) + n))).v)

theorem drainRowBytes_length {d : Desc} (hf : drainFmt (dP d 43 39) = true) (x : MxArray) (i : Nat) :
    (drainRowBytes s x c d i).length = drainBytes d := by
  have hle : dP d 43 39 ≤ 5 := by simpa [drainFmt] using hf
  rw [drainRowBytes, packElems_length, List.length_map, List.length_range, drainBytes, fmtBytes, if_neg (by omega), cdiv]
  omega

theorem drainOne_eq {o : Opnd} (ho : operand s c r.item.desc 3 = some o) (x : MxArray) (i : Nat) : ∃ fl, drainOne x c r s i =
    fxPut (setSticky s c fl) (operand s c r.item.desc 3) (i * drainBytes r.item.desc) (drainRowBytes s x c r.item.desc i) := by
  unfold drainOne
  extract_lets d row rs
  refine ⟨flOr rs, ?_⟩
  unfold rs
  rw [ho, drainRowBytes, List.map_map]
  rfl

theorem drainOne_stores {m i : Nat} (x : MxArray) (h : OwnSpad s c r 3 a (m * drainBytes r.item.desc)) (hf : drainFmt (dP r.item.desc 43 39) = true)
    (hi : i < m) : Stores s (drainOne x c r s i) c (a + i * drainBytes r.item.desc) (drainRowBytes s x c r.item.desc i) ∧
      engView false spadView c (drainOne x c r s i) = engView false spadView c s := by
  obtain ⟨o, ho, _⟩ := id h
  obtain ⟨fl, he⟩ := drainOne_eq ho x i
  have hv : engView false spadView c (setSticky s c fl) = engView false spadView c s := setSticky_engView (spadView_blind none).toBlind fl
  have hspad : ((setSticky s c fl).core c).spad = (s.core c).spad := by unfold setSticky; split <;> simp
  have hle : i * drainBytes r.item.desc + drainBytes r.item.desc ≤ m * drainBytes r.item.desc := by
    rw [← Nat.succ_mul]
    exact Nat.mul_le_mul_right _ hi
  rw [he, ← operand_of_engView (spadView_blind none).toBlind hv]
  obtain ⟨hst, hv'⟩ := fxPut_stores_at (bs := drainRowBytes s x c r.item.desc i) (h.congr hv) (by rwa [drainRowBytes_length hf])
  exact ⟨fun j => by rw [hst j, hspad], hv'.trans hv⟩

theorem drainRows_stores {m : Nat} (x : MxArray) (h : OwnSpad s c r 3 a (m * drainBytes r.item.desc)) (hf : drainFmt (dP r.item.desc 43 39) = true) :
    Stores s (s.each (List.range m) (drainOne x c r)) c a ((List.range m).map (drainRowBytes s x c r.item.desc)).flatten ∧
      engView false spadView c (s.each (List.range m) (drainOne x c r)) = engView false spadView c s := by
  refine stores_rows (fun i _ => drainRowBytes_length hf x i) (fun z i hi hv => ?_) m le_rfl
  obtain ⟨hst, hv'⟩ := drainOne_stores x (h.congr hv) hf hi
  refine ⟨?_, hv'⟩
  rw [drainRowBytes, spadView_ftz hv] at hst
  exact hst

/-- What zeroing the first `n` rows of a drain leaves (R163). -/
theorem drainZero_acc {d : Desc} (hd : dP d 63 54 + dP d 53 44 ≤ 1024) (n : Nat) (hn : n ≤ dP d 53 44) (j : Nat) :
    fget (((s.each (List.range n) (drainZero c a d)).core c).arr a).acc 0#32 j =
      if dPb d 37 = true ∧ 64 * dP d 63 54 ≤ j ∧ j < 64 * (dP d 63 54 + n) then 0#32 else fget ((s.core c).arr a).acc 0#32 j := by
  induction n with
  | zero => rw [if_neg (by omega)]; rfl
  | succ n ih =>
    rw [List.range_succ, State.each, List.foldl_append, List.foldl_cons, List.foldl_nil]
    have ih := ih (by omega)
    rw [State.each] at ih
    generalize (List.range n).foldl (drainZero c a d) s = z at ih ⊢
    unfold drainZero
    cases hb : dPb d 37 with
    | false => rw [hb] at ih; simpa using ih
    | true =>
      rw [Bool.true_and, decide_eq_true (by omega), State.cond_true, zeroRow, mapArr_arr_same, setAccRow_acc]
      rw [hb] at ih
      by_cases hj : 64 * (dP d 63 54 + n) ≤ j ∧ j < 64 * (dP d 63 54 + n) + 64
      · rw [if_pos hj, if_pos ⟨rfl, by omega, by omega⟩]
        rfl
      · rw [if_neg hj]
        refine ih.trans ?_
        by_cases hin : 64 * dP d 63 54 ≤ j ∧ j < 64 * (dP d 63 54 + n)
        · rw [if_pos ⟨rfl, hin⟩, if_pos ⟨rfl, by omega, by omega⟩]
        · rw [if_neg (by tauto), if_neg (by omega)]

end

/-- Settles O14: the rows of a drain stand side by side, and the rows that it clears read zero. -/
theorem drainStores : Obligations.DrainStores := by
  intro c a s r at_ h d m base df x hm hrows hm5 hf hpar hres hown
  have hbegin : drainBegin c.val a.val r s = s := by
    have h1 : streamRowsBad d = false := by simpa [streamRowsBad] using hrows
    change (if m = 0 then s else _) = s
    rw [if_neg (by omega)]
    simp only [d, df] at h1 hf
    simp [h1, hf]
  have hbad : drainBad s c.val r = false := by
    have h1 : streamRowsBad d = false := by simpa [streamRowsBad] using hrows
    obtain ⟨o, ho, -, -, hn, -⟩ := id hown
    change (streamRowsBad d || !drainFmt df || decide (512 < m) || dP d 36 32 != 0 || dReserved d || !(match operand s c.val d 3 with
      | some x => decide (m * drainBytes d ≤ x.bytes)
      | none => false)) = false
    rw [ho]
    simp [h1, hf, hm5, hpar, hres, show m * drainBytes d ≤ o.bytes from hn]
  obtain ⟨hst, hv⟩ := drainRows_stores (m := m) x hown hf
  have hz := each_engView (h := false) (g := arrView a.val) (c := c.val) (s := s.each (List.range m) (drainOne x c.val r)) (t := s.each (List.range m) (drainOne x c.val r))
    (f := drainZero c.val a.val d) (l := List.range m) (fun z i hz => cond_engView ((mapArr_engView (arrView_blind a.val) _).trans hz) hz) rfl
  have hop : drainOp c.val a.val r s = (s.each (List.range m) (drainOne x c.val r)).each (List.range m) (drainZero c.val a.val d) := by
    change (if m = 0 then s else _) = _
    rw [if_neg (by omega), hbegin, if_neg (by rw [hbad]; decide)]
  have hspad := congrArg (fun y : Core × ({b : Nat // b ≠ a.val} → MxArray) => y.1.spad) (engView_own hz)
  refine ⟨_, congrArg Host.Outcome.next (withOp_some s _ _ _ _ r h), ?_, fun j => ?_, ?_⟩
  · refine Stores.of_spad hst ?_
    rw [opDone_spad, hop]
    exact hspad
  · rw [opDone_arr, hop, drainZero_acc (d := d) hrows m le_rfl, spadView_arr hv]
  · intro k hk
    refine (engView_others (opDone_engView (h := false) (spadView_blind none).toBlind _ _) k hk).trans ?_
    rw [hop]
    exact (engView_others hz k hk).trans (engView_others hv k hk)

/-! ### The evaluation of a sample -/

section
variable {c a : Nat} {s t : State}

/-- The sample that waits and the three counts of samples. -/
def countView (c a : Nat) (s : State) : Option Capture × Nat × Nat × Nat :=
  let x := (s.core c).arr a
  (x.capture, x.snd.samples, x.snd.nonfinite, x.snd.zeroref)

theorem mapArr_countView {f : MxArray → MxArray}
    (hf : ∀ x, ((f x).capture, (f x).snd.samples, (f x).snd.nonfinite, (f x).snd.zeroref) = (x.capture, x.snd.samples, x.snd.nonfinite, x.snd.zeroref)) :
    countView c a (s.mapArr c a f) = countView c a s := by
  simp only [countView, mapArr_arr_same, hf]

theorem raise_countView (id n : Nat) (l : List Nat) : countView c a (raise s id n l) = countView c a s := by
  simp only [countView, arr_of_cores (raise_cores ..)]

theorem cond_countView {b : Bool} {f : State → State} (h : countView c a (f s) = countView c a s) : countView c a (s.cond b f) = countView c a s := by
  cases b
  · rfl
  · exact h

theorem sndAlarm_countView (e : Nat) : countView c a (sndAlarm s c a e) = countView c a s := by
  unfold sndAlarm
  extract_lets s1 s2 s3
  have h1 : countView c a s2 = countView c a s := (raise_countView ..).trans (mapArr_countView (by simp))
  exact engView_ite ((cond_countView rfl).trans h1) (engView_ite ((raise_countView ..).trans (mapArr_countView (by simp))) rfl)

theorem sndWindow_countView (b : Nat) : countView c a (sndWindow s c a b) = countView c a s := by
  unfold sndWindow
  extract_lets s1 n m s2 s3 s4
  have h1 : countView c a s1 = countView c a s := mapArr_countView (by simp)
  have h2 : countView c a s2 = countView c a s := (mapArr_countView (by simp)).trans h1
  have h4 : countView c a s4 = countView c a s := (raise_countView ..).trans ((mapArr_countView (by simp)).trans h2)
  exact engView_ite (engView_ite ((cond_countView rfl).trans h4) h2) h1

/-- A sample that is evaluated leaves the buffer and counts once (R178). -/
theorem sndEvaluate_countView (x : Capture) : let o := ((s.core c).arr a).snd
    countView c a (sndEvaluate s c a x) = (none, sat32 o.samples, o.nonfinite, o.zeroref) ∨
    countView c a (sndEvaluate s c a x) = (none, o.samples, sat32 o.nonfinite, o.zeroref) ∨
    countView c a (sndEvaluate s c a x) = (none, o.samples, o.nonfinite, sat32 o.zeroref) := by
  intro o
  unfold sndEvaluate
  extract_lets y z s1 e b s2
  split
  · exact .inr (.inl (by rw [raise_countView]; simp [countView, s1, o]))
  split
  · exact .inr (.inr (by simp [countView, s1, o]))
  · exact .inl (by rw [sndWindow_countView, sndAlarm_countView]; simp [countView, s2, s1, o])

end

/-- Settles O15. -/
theorem soundingEvaluates : Obligations.SoundingEvaluates := by
  intro c a s cap hr hc hl he
  have hdue : sndDue s c.val a.val = sndEvaluate s c.val a.val cap := by simp [sndDue, hc, hr, hl, he]
  have hv := sndDue_engView (arrView_blind a.val) (s := s) (c := c.val)
  refine ⟨_, rfl, ?_⟩
  have hcount := sndEvaluate_countView (s := s) (c := c.val) (a := a.val) cap
  rw [← hdue] at hcount
  simp only [countView, Prod.mk.injEq] at hcount ⊢
  refine ⟨?_, engView_others hv, ?_⟩
  · obtain h | h | h := hcount <;> exact h.1
  · exact hcount.imp (·.2) (.imp (·.2) (·.2))

end Sys2Proof.Machine
end

section
/-! PROOFS. What the fixed-function engines and the arrays leave unchanged (O60). -/
namespace Sys2Proof.Machine

section
variable {β : Type} {h : Bool} {g : Core → β} {c a : Nat} {s t z : State} {r : RunOp} {o : Option Opnd}

/-! ### The room that a check leaves for a result -/

theorem fits_bytes {n k : Nat} (hf : fits o n = true) (hk : k ≤ n) : ∀ y ∈ o, k ≤ y.bytes := by
  intro y hy
  cases hy
  simp only [fits, Bool.or_eq_true, beq_iff_eq, decide_eq_true_eq] at hf
  omega

theorem packRow_length (f : Nat) (cs : List Nat) : (packRow f cs).length = 4 * rowWords f cs.length := by simp [packRow]

theorem rowWords_mono (f : Nat) {n m : Nat} (hn : n ≤ m) : rowWords f n ≤ rowWords f m := by
  simp only [rowWords, cdiv]
  exact Nat.div_le_div_right (by have := Nat.mul_le_mul_right (fmtBits f) hn; omega)

theorem packRow_fits (f : Nat) {cs : List Nat} {i rows l : Nat} (hi : i < rows) (hl : cs.length ≤ l) :
    i * (4 * rowWords f l) + (packRow f cs).length ≤ rows * (4 * rowWords f l) := by
  have h1 : (i + 1) * (4 * rowWords f l) ≤ rows * (4 * rowWords f l) := Nat.mul_le_mul_right _ hi
  have h2 := rowWords_mono f hl
  rw [packRow_length]
  rw [Nat.succ_mul] at h1
  omega

theorem smRow2_length (e : Nat) (ftz : Bool) (f : Nat) {zs zo : List NR} {n : Nat} (hs : zs.length = n) (ho : zo.length = n) :
    (smRow2 e ftz f zs zo).1.length ≤ n := by
  unfold smRow2
  extract_lets x fl
  split
  · simp
  split
  · split <;> simp [hs]
  · split
    · simp [hs]
    split
    · simp [hs]
    · exact ((List.length_map _).trans ((List.length_map _).trans ho)).le

theorem smZ_length (s : State) (i : Nat) : (smZ s c r i).length = fxLen r.item.desc := by simp [smZ]

theorem nmRow3_length (e : Nat) (ftz ln : Bool) (f : Nat) (eps : NR) (xs xq xo gs bs : List Nat) : (nmRow3 e ftz ln f eps xs xq xo gs bs).length = xo.length := by
  simp [nmRow3]

theorem rpRow_length (f : Nat) (ftz layout : Bool) (pr : Nat) (p : Int) (ws xs : List Nat) : (rpRow f ftz layout pr p ws xs).length = xs.length := by
  simp [rpRow]

theorem blocks32_length_le {α : Type} (n : Nat) (l : List α) : (blocks32 n l).length ≤ n := by
  induction n generalizing l with
  | zero => simp [blocks32]
  | succ n ih =>
    unfold blocks32
    split
    · simp
    · simpa using ih _

theorem bedRead_length (s : State) (x n : Nat) : (bedRead s x n).length = n := by simp [bedRead]

theorem sampleRec_length (x y w v : Nat) : (sampleRec x y w v).length = 16 := by simp [sampleRec]

theorem sampleDraw_length (ftz greedy : Bool) (topk p n : Nat) (zs : List Nat) : (sampleDraw ftz greedy topk p n zs).1.length = 16 := by
  unfold sampleDraw
  extract_lets all
  split
  · split <;> exact sampleRec_length _ _ _ _
  · split <;> exact sampleRec_length _ _ _ _

/-! ### The units -/

/-- A result of a fixed-function engine with its flags. -/
theorem fxFlagPut_engView (hg : PutBlind g o) (hl : ∀ y ∈ o, y.loc = .spad c) (fl : BitVec 32) {k off : Nat} {bs : List Byte} {d : Desc}
    (hop : operand z c d k = o) (hb : ∀ y ∈ o, off + bs.length ≤ y.bytes) :
    engView h g c (fxPut (setSticky z c fl) (operand z c d k) off bs) = engView h g c z := by
  rw [hop]
  exact (fxPut_engView hg hl hb).trans (setSticky_engView hg.toBlind fl)

/-- The units of a fixed-function operation stay within its destination. -/
def FxDef.Within (x : FxDef) : Prop :=
  ∀ {β : Type} {g : Core → β} (c : Nat) (s : State) (r : RunOp), (∀ y ∈ operand s c r.item.desc 3, y.loc = .spad c) →
    PutBlind g (operand s c r.item.desc 3) → x.undef s c r = false → ∀ (src : Nat → State) (z : State) (i : Nat), i < x.units r →
      engView false g c z = engView false g c s → engView false g c (x.unit src c r z i) = engView false g c z

theorem FxDef.bad_of_undef {x : FxDef} (hu : x.undef s c r = false) : x.fault c r = none ∧ x.bad s c r = false := by
  simp only [FxDef.undef, Bool.or_eq_false_iff] at hu
  exact ⟨by simpa using hu.1.1, hu.2⟩

theorem softmax_within : softmaxDef.Within := by
  intro β g c s r hl hg hu src z i hi hz
  obtain ⟨-, hb⟩ := FxDef.bad_of_undef hu
  simp only [softmaxDef, Bool.or_eq_false_iff, Bool.not_eq_false'] at hb hi ⊢
  have hop := operand_of_engView hg.toBlind hz r.item.desc 3
  have hlen := smRow2_length (lanes c) (ftzOf z c) (dP r.item.desc 16 12) (smZ_length (c := c) (r := r) (src 0) i) (smZ_length (c := c) (r := r) (src 1) i)
  have hrow := packRow_fits (dP r.item.desc 16 12) hi hlen
  have h1 := fun fl : BitVec 32 => fxFlagPut_engView (h := false) hg hl fl hop (fits_bytes hb.2 (hrow.trans (Nat.mul_le_mul_left _ (Nat.le_add_right _ 8))))
  rw [hop] at h1 ⊢
  refine (fxPut_engView hg hl (fits_bytes hb.2 ?_)).trans (h1 _)
  simp only [List.length_append, leBytes_length, Nat.mul_add]
  omega

theorem norm_within (ln : Bool) : (normDef ln).Within := by
  intro β g c s r hl hg hu src z i hi hz
  obtain ⟨-, hb⟩ := FxDef.bad_of_undef hu
  simp only [normDef, Bool.or_eq_false_iff, Bool.not_eq_false'] at hb hi ⊢
  refine fxFlagPut_engView hg hl _ (operand_of_engView hg.toBlind hz _ _) (fits_bytes hb.1.2 (packRow_fits _ hi ?_))
  rw [List.length_map, nmRow3_length, List.length_map]
  exact rowCodes_length_le _

theorem rotary_within : rotaryDef.Within := by
  intro β g c s r hl hg hu src z i hi hz
  obtain ⟨-, hb⟩ := FxDef.bad_of_undef hu
  simp only [rotaryDef, Bool.or_eq_false_iff, Bool.not_eq_false'] at hb hi ⊢
  refine fxFlagPut_engView hg hl _ (operand_of_engView hg.toBlind hz _ _) (fits_bytes hb.1.1.2 (packRow_fits _ hi ?_))
  rw [List.length_map, rpRow_length]
  exact rowCodes_length_le _

theorem srcElems_of_engView (hg : Blind g) (hz : engView h g c z = engView h g c s) (r : RunOp) : srcElems z c r = srcElems s c r := by
  simp only [srcElems, srcBytes, operand_of_engView hg hz]

theorem unpack_within : unpackDef.Within := by
  intro β g c s r hl hg hu src z i hi hz
  obtain ⟨-, hb⟩ := FxDef.bad_of_undef hu
  simp only [unpackDef, Bool.or_eq_false_iff, Bool.not_eq_false'] at hb
  simp only [unpackDef]
  have h1 (b : Bool) : engView false g c (ternReport z c r b) = engView false g c z := ternReport_engView hg.toBlind r b
  have h2 (b b' : Bool) : engView false g c (outlierReport (ternReport z c r b) c r b') = engView false g c z := (outlierReport_engView hg.toBlind r b').trans (h1 b)
  refine (fxFlagPut_engView hg hl _ (operand_of_engView hg.toBlind ((h2 _ _).trans hz) _ _) (fits_bytes hb.1.2 ?_)).trans (h2 _ _)
  rw [packElems_length, List.length_map, List.length_map, List.length_range, srcElems_of_engView hg.toBlind hz, Nat.zero_add]

theorem fmtBytes_int8 (k : Nat) : fmtBytes 6 k = k := by
  simp only [fmtBytes, fmtBits, cdiv]
  simp
  omega

theorem split_within : splitDef.Within := by
  intro β g c s r hl hg hu src z i hi hz
  obtain ⟨-, hb⟩ := FxDef.bad_of_undef hu
  simp only [splitDef, Bool.or_eq_false_iff, Bool.not_eq_false'] at hb
  simp only [splitDef]
  refine fxFlagPut_engView hg hl _ (operand_of_engView hg.toBlind hz _ _) (fits_bytes hb.2 ?_)
  rw [srcElems_of_engView hg.toBlind hz, List.length_append, padTo_length, packElems_length, List.length_map, List.length_map]
  have := blocks32_length_le (cdiv (srcElems s c r) 32) ((encSource (dP r.item.desc 63 59) (ftzOf z c)
    (rowCodes (src 0) (operand (src 0) c r.item.desc 0) (dP r.item.desc 63 59) 0 0 (srcElems s c r))).map (·.1))
  rw [fmtBytes_int8]
  omega

theorem sample_within : sampleDef.Within := by
  intro β g c s r hl hg hu src z i hi hz
  obtain ⟨-, hb⟩ := FxDef.bad_of_undef hu
  have hv : dP r.item.desc 63 46 ≠ 0 := by
    intro h0
    simp [sampleDef, h0] at hi
  have hfit : fits (operand s c r.item.desc 3) 16 = true := by
    simp only [sampleDef, Bool.or_eq_false_iff, Bool.and_eq_false_iff, Bool.not_eq_false'] at hb
    exact (hb.2.resolve_left (by simpa using hv)).2
  simp only [sampleDef]
  have h1 (fl : BitVec 32) (b : Bool) : engView false g c ((setSticky z c fl).cond b fun s => raiseE s 0x0705 c r.eng (opPlace r)) = engView false g c z :=
    cond_engView ((raise_engView ..).trans (setSticky_engView hg.toBlind fl)) (setSticky_engView hg.toBlind fl)
  rw [operand_of_engView hg.toBlind ((setSticky_engView hg.toBlind _).trans hz)]
  refine (fxPut_engView hg hl (fits_bytes hfit ?_)).trans (h1 _ _)
  rw [sampleDraw_length]

/-! ### The operations -/

theorem each_mem_engView {α : Type} {f : State → α → State} {l : List α}
    (hf : ∀ z, ∀ x ∈ l, engView h g c z = engView h g c s → engView h g c (f z x) = engView h g c s) (ht : engView h g c t = engView h g c s) :
    engView h g c (t.each l f) = engView h g c s := by
  induction l generalizing t with
  | nil => exact ht
  | cons x l ih => exact ih (fun z y hy => hf z y (List.mem_cons_of_mem _ hy)) (hf t x List.mem_cons_self ht)

theorem FxDef.Within.op_engView {x : FxDef} (hx : x.Within) (hl : ∀ y ∈ operand s c r.item.desc 3, y.loc = .spad c)
    (hg : PutBlind g (operand s c r.item.desc 3)) : engView false g c (x.op c r s) = engView false g c s := by
  have hstart : engView false g c (x.start c r s) = engView false g c s := by
    unfold FxDef.start
    split
    · exact raise_engView ..
    · rfl
  unfold FxDef.op
  cases hu : x.undef s c r with
  | true => exact (opUndef_engView hg hl).trans hstart
  | false =>
    rw [if_neg (by decide)]
    refine each_mem_engView (fun z i hi hz => ?_) hstart
    exact (hx c s r hl hg hu _ z i (List.mem_range.1 hi) hz).trans hz

theorem gatherOp_engView (hl : ∀ y ∈ operand s c r.item.desc 3, y.loc = .spad c) (hg : PutBlind g (operand s c r.item.desc 3)) :
    engView false g c (gatherOp c r s) = engView false g c s := by
  have hlen (y : Opnd) (hy : y ∈ operand s c r.item.desc 3) : (operandAny s c r.item.desc 3).bytes ≤ y.bytes := by
    rw [operand] at hy
    split at hy
    · cases hy
    · cases hy
      exact le_rfl
  have hstart : engView false g c (gatherStart c r s) = engView false g c s := by
    unfold gatherStart
    split
    · exact raise_engView ..
    · exact raise_engView ..
    · rfl
  unfold gatherOp
  extract_lets d dst n
  split
  · exact opUndef_engView hg hl
  · exact fxPut_engView hg hl fun y hy => by rw [bedRead_length, Nat.zero_add]; exact hlen y hy
  · exact (fxPut_engView hg hl fun y hy => by rw [List.length_replicate, Nat.zero_add]; exact hlen y hy).trans hstart

theorem drainOp_engView (hl : ∀ y ∈ operand s c r.item.desc 3, y.loc = .spad c) (hg : PutBlind g (operand s c r.item.desc 3)) (ha : ArrBlind g a) :
    engView false g c (drainOp c a r s) = engView false g c s := by
  have hbegin : engView false g c (drainBegin c a r s) = engView false g c s := by
    unfold drainBegin
    extract_lets d s1
    have h1 : engView false g c s1 = engView false g c s := cond_engView (raise_engView ..) rfl
    exact engView_ite rfl (cond_engView ((raise_engView ..).trans h1) h1)
  unfold drainOp
  extract_lets d m x s1
  refine engView_ite rfl (each_engView (fun z i hz => cond_engView ((mapArr_engView ha _).trans hz) hz) ?_)
  unfold s1
  cases hb : drainBad s c r with
  | true => exact (opUndef_engView hg hl).trans hbegin
  | false =>
    rw [if_neg (by decide)]
    refine each_mem_engView (fun z i hi hz => ?_) hbegin
    have hop := operand_of_engView hg.toBlind hz r.item.desc 3
    simp only [drainBad, Bool.or_eq_false_iff, Bool.not_eq_false'] at hb
    obtain ⟨⟨⟨⟨⟨-, hf⟩, -⟩, -⟩, -⟩, hfit⟩ := hb
    cases ho : operand s c r.item.desc 3 with
    | none => rw [ho] at hfit; cases hfit
    | some y =>
      rw [ho] at hfit
      obtain ⟨fl, he⟩ := drainOne_eq (hop.trans ho) x i
      have hle : i * drainBytes d + drainBytes d ≤ m * drainBytes d := by
        rw [← Nat.succ_mul]
        exact Nat.mul_le_mul_right _ (List.mem_range.1 hi)
      rw [he]
      refine (fxFlagPut_engView hg hl fl hop fun w hw => ?_).trans hz
      cases ho.symm.trans hw
      rw [drainRowBytes_length hf]
      exact hle.trans (of_decide_eq_true hfit)

end

/-! ### What the frames say -/

/-- A core as an engine that stores in the destination `o` leaves it: the arrays that `p` names and the bytes outside `o` show, its flags do not. -/
def engineView (p : Nat → Prop) (o : Option Opnd) (k : Core) : Core × ({b : Nat // p b} → MxArray) × ({i : Nat // ∀ y ∈ o, i < y.a ∨ y.a + y.bytes ≤ i} → Byte) :=
  ({ k with arrays := [], spad := [], bad := [], wrote := [], sticky := 0#32, stickySet := 0#32, run := [] }, fun b => k.arr b.val, fun i => mget k.spad i.val)

section
variable {c a : Nat} {s t u : State} {p : Nat → Prop} {o : Option Opnd}

theorem engineView_putBlind : PutBlind (engineView p o) o where
  sticky _ _ _ := rfl
  run _ _ := rfl
  bank _ _ h := congrArg (fun z : Core × ({b : Nat // p b} → MxArray) × ({i : Nat // ∀ y ∈ o, i < y.a ∨ y.a + y.bytes ≤ i} → Byte) => z.1.actBank) h
  put x m b w hm := by
    refine Prod.ext rfl (Prod.ext rfl (funext fun i => ?_))
    exact hm i.val i.property

theorem engineView_arrBlind (hp : ¬ p a) : ArrBlind (engineView p o) a where
  toBlind := engineView_putBlind.toBlind
  arr x y := by
    refine Prod.ext rfl (Prod.ext (funext fun b => ?_) rfl)
    exact fget_fset_ne _ _ _ _ _ _ fun e => hp (e ▸ b.property)

/-- What an engine's operation leaves of its own core: the arrays that `p` names, the bytes outside the destination and all but results and flags. -/
structure EngineKeeps (s t : State) (c : Nat) (p : Nat → Prop) (o : Option Opnd) : Prop where
  others : OtherCores s t c
  rest : t = { s with cores := t.cores, evr := t.evr, free := t.free, srv := t.srv }
  arr : ∀ b, p b → (t.core c).arr b = (s.core c).arr b
  bytes : ∀ b, (∀ x, o = some x → b < x.a ∨ x.a + x.bytes ≤ b) → mget (t.core c).spad b = mget (s.core c).spad b
  own : ∃ k : Core, t.core c = { s.core c with
    spad := k.spad, bad := k.bad, wrote := k.wrote, arrays := k.arrays, sticky := k.sticky, stickySet := k.stickySet, run := k.run }

theorem engineKeeps_of_engView (e : engView false (engineView p o) c t = engView false (engineView p o) c s) : EngineKeeps s t c p o where
  others := engView_others e
  rest := by
    have hsrv := outside_field State.srv (engView_outside e)
    rw [hsrv]
    exact engView_frame e
  arr b hb := congrFun (congrArg (·.2.1) (engView_own e)) ⟨b, hb⟩
  bytes b hb := congrFun (congrArg (·.2.2) (engView_own e)) ⟨b, fun y hy => hb y hy⟩
  own := ⟨t.core c, congrArg (fun z : Core × ({b : Nat // p b} → MxArray) × ({i : Nat // ∀ y ∈ o, i < y.a ∨ y.a + y.bytes ≤ i} → Byte) =>
    { z.1 with spad := (t.core c).spad, bad := (t.core c).bad, wrote := (t.core c).wrote, arrays := (t.core c).arrays, sticky := (t.core c).sticky
               stickySet := (t.core c).stickySet, run := (t.core c).run }) (engView_own e)⟩

theorem EngineKeeps.of_srv {e k : Nat} {f : Serving → Serving} (h : EngineKeeps s (opDone t c e k) c p o) : EngineKeeps s (opDone (t.mapSrv f) c e k) c p o where
  others := h.others
  rest := by
    have hr := congrArg (fun z : State => z.mapSrv f) h.rest
    exact hr
  arr := h.arr
  bytes := h.bytes
  own := h.own

theorem engineKeeps_opDone {e k : Nat} (h : engView false (engineView p o) c t = engView false (engineView p o) c s) : EngineKeeps s (opDone t c e k) c p o :=
  engineKeeps_of_engView ((opDone_engView engineView_putBlind.toBlind _ _).trans h)

/-- A verify ends in its destination, an event or a commit (R247, R248). -/
theorem verifyOp_keeps {r : RunOp} (hl : ∀ y ∈ operand s c r.item.desc 3, y.loc = .spad c) (e k : Nat) :
    EngineKeeps s (opDone (verifyOp c r s) c e k) c p (operand s c r.item.desc 3) := by
  have hg : PutBlind (engineView p (operand s c r.item.desc 3)) (operand s c r.item.desc 3) := engineView_putBlind
  cases hb : verifyBad s c r with
  | true =>
    rw [verifyOp, if_pos hb]
    exact engineKeeps_opDone ((raise_engView ..).trans (opUndef_engView hg hl))
  | false =>
    rw [verifyOp_of_not_bad hb]
    simp only [verifyBad, Bool.or_eq_false_iff, Bool.not_eq_false'] at hb
    obtain ⟨⟨-, htargets⟩, hdst⟩ := hb
    rw [verifyPut_eq htargets]
    have hput : engView false (engineView p (operand s c r.item.desc 3)) c
        (fxPut s (operand s c r.item.desc 3) 0 (verifyBytes (verifyCount s c r) (verifyTargets s c r))) = engView false (engineView p (operand s c r.item.desc 3)) c s := by
      refine fxPut_engView hg hl (fits_bytes hdst ?_)
      rw [verifyBytes_length, verifyTargets_length htargets]
      omega
    generalize fxPut s (operand s c r.item.desc 3) 0 (verifyBytes (verifyCount s c r) (verifyTargets s c r)) = u at hput ⊢
    cases dPb r.item.desc 60 with
    | false => exact engineKeeps_opDone hput
    | true =>
      rw [State.cond_true]
      unfold verifyCommit
      extract_lets sl
      split
      · exact engineKeeps_opDone ((raise_engView ..).trans hput)
      · exact (engineKeeps_opDone hput).of_srv

end

theorem withOp_next {s t : State} {c e o : Nat} {r : RunOp} {f : RunOp → State → State} (h : Performs s c e o r)
    (he : Host.Outcome.next (withOp s c e o f) = (.next t : Host.Outcome State Fault Refusal)) : t = opDone (f r s) c e o :=
  (Host.Outcome.next.inj he).symm.trans (withOp_some s c e o f r h)

/-- Settles O60: an array's operation leaves what the view of its array shows, and an engine's what lies outside its destination. -/
theorem engineFrame : Obligations.EngineFrame := by
  intro c a s t
  refine ⟨?arrays, ?stores⟩
  case arrays =>
    intro i hi ht
    have hb := arrView_blind a.val
    have hv : engView true (arrView a.val) c.val t = engView true (arrView a.val) c.val s := by
      simp only [List.mem_cons, List.not_mem_nil, or_false] at hi
      obtain rfl | rfl | rfl | rfl | rfl := hi <;> cases ht
      · exact withOp_engView hb.toBlind fun r _ => stloadOp_engView hb r
      · exact withOp_engView hb.toBlind fun r _ => sndloadOp_engView hb r
      · exact withOp_engView hb.toBlind fun r _ => swapOp_engView hb r
      · exact withOp_engView hb.toBlind fun r _ => streamOp_engView hb r
      · exact sndDue_engView hb
    exact ⟨engView_others hv, engView_rest hv, arrView_arr (engView_own hv), t.core c.val, congrArg (fun y : Core × ({b : Nat // b ≠ a.val} → MxArray) =>
      { y.1 with arrays := (t.core c.val).arrays, sticky := (t.core c.val).sticky, stickySet := (t.core c.val).stickySet, run := (t.core c.val).run })
      (engView_own hv)⟩
  case stores =>
    intro p hp r h hl ht
    have hg (q : Nat → Prop) : PutBlind (engineView q (operand s c.val r.item.desc 3)) (operand s c.val r.item.desc 3) := engineView_putBlind
    have hkeeps : ∃ q, EngineKeeps s t c.val q (operand s c.val r.item.desc 3) ∧ (p.1 ≠ .verify c → t.srv = s.srv) ∧
        ∀ b, (b ≠ a.val ∨ p.1 ≠ .drain c a) → q b := by
      have hfx {e o : Nat} {f : RunOp → State → State} {i : Instr} (h : Performs s c.val e o r) (ht : exec i s = .next t)
          (hi : exec i s = .next (withOp s c.val e o f)) (hv : engView false (engineView (fun _ => True) (operand s c.val r.item.desc 3)) c.val (f r s) =
            engView false (engineView (fun _ => True) (operand s c.val r.item.desc 3)) c.val s) :
          ∃ q, EngineKeeps s t c.val q (operand s c.val r.item.desc 3) ∧ (i ≠ .verify c → t.srv = s.srv) ∧ ∀ b, (b ≠ a.val ∨ i ≠ .drain c a) → q b := by
        cases withOp_next h (hi.symm.trans ht)
        exact ⟨_, engineKeeps_opDone hv, fun _ => outside_field (t := f r s) State.srv (engView_outside hv), fun _ _ => trivial⟩
      simp only [List.mem_cons, List.not_mem_nil, or_false] at hp
      obtain rfl | rfl | rfl | rfl | rfl | rfl | rfl | rfl | rfl | rfl := hp
      · have hv := drainOp_engView (a := a.val) (g := engineView (· ≠ a.val) _) hl (hg _) (engineView_arrBlind (by simp))
        cases withOp_next h ht
        exact ⟨_, engineKeeps_opDone hv, fun _ => outside_field (t := drainOp c.val a.val r s) State.srv (engView_outside hv), by simp⟩
      · exact hfx h ht rfl (FxDef.Within.op_engView softmax_within hl (hg _))
      · exact hfx h ht rfl (FxDef.Within.op_engView (norm_within false) hl (hg _))
      · exact hfx h ht rfl (FxDef.Within.op_engView (norm_within true) hl (hg _))
      · exact hfx h ht rfl (FxDef.Within.op_engView rotary_within hl (hg _))
      · exact hfx h ht rfl (FxDef.Within.op_engView unpack_within hl (hg _))
      · exact hfx h ht rfl (FxDef.Within.op_engView split_within hl (hg _))
      · exact hfx h ht rfl (gatherOp_engView hl (hg _))
      · exact hfx h ht rfl (FxDef.Within.op_engView sample_within hl (hg _))
      · cases withOp_next h ht
        exact ⟨fun _ => True, verifyOp_keeps hl 11 0x90, fun hne => absurd rfl hne, fun _ _ => trivial⟩
    obtain ⟨q, h, hsrv, hq⟩ := hkeeps
    exact ⟨h.others, h.rest, hsrv, fun b hb => h.arr b (hq b hb), h.bytes, h.own⟩

end Sys2Proof.Machine
end

section
/-! PROOFS. Results of the fixed-function engines (O21, O22, O23). -/
namespace Sys2Proof.Machine

section
variable {c a : Nat} {s t z : State} {r : RunOp}

/-! ### Flags beside a result -/

/-- A core without its flags and its list of operations. -/
def flagView (k : Core) : Core := { k with sticky := 0#32, stickySet := 0#32, run := [] }

theorem flagView_blind : Blind flagView where
  sticky _ _ _ := rfl
  run _ _ := rfl
  bank x y h := by
    have hb := congrArg Core.actBank h
    exact hb

theorem flagView_spad (h : engView false flagView c t = engView false flagView c s) : (t.core c).spad = (s.core c).spad := by
  have hs := congrArg Core.spad (engView_own h)
  exact hs

theorem spadView_of_flagView (h : engView false flagView c t = engView false flagView c s) : engView false spadView c t = engView false spadView c s := by
  refine engView_ext (engView_outside h) (engView_others h) ?_
  have hv := congrArg spadView (engView_own h)
  exact hv

/-- A result of an engine after its flags: it stands at its place of the destination. -/
theorem fxPut_stores_flags {i n o : Nat} {bs : List Byte} (h : OwnSpad s c r i a n) (hn : o + bs.length ≤ n)
    (hz : engView false flagView c z = engView false flagView c s) :
    Stores s (fxPut z (operand z c r.item.desc i) o bs) c (a + o) bs ∧
      engView false spadView c (fxPut z (operand z c r.item.desc i) o bs) = engView false spadView c s := by
  have hv := spadView_of_flagView hz
  obtain ⟨hst, hv'⟩ := fxPut_stores_at (h.congr hv) hn
  exact ⟨fun j => by rw [hst j, flagView_spad hz], hv'.trans hv⟩

/-- An operation whose result is defined performs its units. -/
theorem FxDef.op_units {x : FxDef} (hu : x.undef s c r = false) : x.op c r s = s.each (List.range (x.units r)) (x.unit (fun _ => s) c r) := by
  obtain ⟨hf, -⟩ := FxDef.bad_of_undef hu
  simp only [FxDef.op, FxDef.start, hu, hf, Bool.false_eq_true, if_false]

theorem FxDef.undef_eq_false {x : FxDef} (hf : x.fault c r = none) (hr : dReserved r.item.desc = false) (hb : x.bad s c r = false) :
    x.undef s c r = false := by simp [FxDef.undef, hf, hr, hb]

/-! ### Rows -/

theorem rowCodes_length_inside {x : Option Opnd} {f st i n : Nat} (h : rowInside x f st i n = true) : (rowCodes s x f st i n).length = n := by
  cases x with
  | some x => simp [rowCodes]
  | none =>
    simp only [rowInside, Bool.or_false, beq_iff_eq] at h
    simp [rowCodes, h]

/-- An operation whose units are rows with their flags stores its rows. -/
theorem fxRows_store {x : FxDef} {row : Nat → List Byte} {rows len : Nat} (hu : x.undef s c r = false) (hn : x.units r = rows)
    (hown : OwnSpad s c r 3 a (rows * len)) (hlen : ∀ i, i < rows → (row i).length = len)
    (hunit : ∀ z i, i < rows → engView false spadView c z = engView false spadView c s → ∃ fl, x.unit (fun _ => s) c r z i =
      fxPut (setSticky z c fl) (operand z c r.item.desc 3) (i * len) (row i)) :
    Stores s (x.op c r s) c a ((List.range rows).map row).flatten := by
  rw [FxDef.op_units hu, hn]
  refine (stores_rows hlen (fun z i hi hv => ?_) rows le_rfl).1
  obtain ⟨fl, he⟩ := hunit z i hi hv
  have hz : engView false flagView c (setSticky z c fl) = engView false flagView c z := setSticky_engView flagView_blind fl
  have hle : i * len + (row i).length ≤ rows * len := by
    rw [hlen i hi, ← Nat.succ_mul]
    exact Nat.mul_le_mul_right _ hi
  have h := fxPut_stores_flags (hown.congr hv) hle hz
  rw [operand_of_engView flagView_blind hz] at h
  rw [he]
  exact h

theorem allInside {rows : Nat} {p : Nat → Bool} (h : ∀ i, i < rows → p i = true) : ((List.range rows).all p) = true := by
  simpa [List.all_eq_true] using h

theorem norm_stores {ln : Bool} (hres : dReserved r.item.desc = false) (hf : dP r.item.desc 21 17 ≤ 1) (hrows : fxRows r.item.desc ≤ 512)
    (ho : dP r.item.desc 16 12 ≤ 3) (hp : dP r.item.desc 4 0 ≤ 1) (h65 : dP r.item.desc 6 5 = 0)
    (hin : ∀ i, i < fxRows r.item.desc → rowInside (operand s c r.item.desc 0) (dP r.item.desc 21 17) (dP r.item.desc 47 32) i (fxLen r.item.desc) = true)
    (hown : OwnSpad s c r 3 a (fxRows r.item.desc * (4 * rowWords (dP r.item.desc 16 12) (fxLen r.item.desc))))
    (hok : ∀ k, (k = 1 ∨ (ln = true ∧ k = 2)) → fxRows r.item.desc = 0 ∨ operand s c r.item.desc k = none ∨
      rowInside (operand s c r.item.desc k) (dP r.item.desc 4 0) 0 0 (fxLen r.item.desc) = true) :
    Stores s ((normDef ln).op c r s) c a ((List.range (fxRows r.item.desc)).map fun i => packRow (dP r.item.desc 16 12)
      ((nmRow (lanes c) (ftzOf s c) ln (dP r.item.desc 16 12) (nmEps r (dP r.item.desc 11 7))
        ((rowCodes s (operand s c r.item.desc 0) (dP r.item.desc 21 17) (dP r.item.desc 47 32) i (fxLen r.item.desc)).map (widen (dP r.item.desc 21 17)))
        (nmParam s c r.item.desc 1) (if ln then nmParam s c r.item.desc 2 else [])).map (·.v))).flatten := by
  have hbad : (normDef ln).bad s c r = false := by
    simp only [normDef, allInside hin, hown.fits, h65]
    rcases Nat.eq_zero_or_pos (fxRows r.item.desc) with h0 | h0
    · simp [h0]
    · have hparam (k : Nat) (hk : k = 1 ∨ (ln = true ∧ k = 2)) :
          ((operand s c r.item.desc k).isNone || rowInside (operand s c r.item.desc k) (dP r.item.desc 4 0) 0 0 (fxLen r.item.desc)) = true := by
        rw [Bool.or_eq_true, Option.isNone_iff_eq_none]
        exact (hok k hk).resolve_left (by omega)
      cases ln with
      | false => simp [hparam 1 (.inl rfl)]
      | true => simp [hparam 1 (.inl rfl), hparam 2 (.inr ⟨rfl, rfl⟩)]
  have hfault : (normDef ln).fault c r = none := by
    simp only [normDef]
    rw [if_neg (by omega)]
  refine fxRows_store (FxDef.undef_eq_false hfault hres hbad) rfl hown (fun i hi => ?_) fun z i hi hv => ?_
  · rw [packRow_length, List.length_map, nmRow, nmRow3_length, List.length_map, rowCodes_length_inside (hin i hi)]
  · simp only [normDef, ← spadView_ftz hv]
    cases ln <;> exact ⟨_, rfl⟩

theorem rotary_stores (hres : dReserved r.item.desc = false) (hf : dP r.item.desc 21 17 ≤ 1) (hrows : fxRows r.item.desc ≤ 512)
    (hpairs : 2 * dP r.item.desc 16 7 ≤ fxLen r.item.desc)
    (hin : ∀ i, i < fxRows r.item.desc → rowInside (operand s c r.item.desc 0) (dP r.item.desc 21 17) (dP r.item.desc 47 32) i (fxLen r.item.desc) = true)
    (hown : OwnSpad s c r 3 a (fxRows r.item.desc * (4 * rowWords (dP r.item.desc 21 17) (fxLen r.item.desc))))
    (hws : fxRows r.item.desc = 0 ∨ fits (operand s c r.item.desc 1) (4 * dP r.item.desc 16 7) = true)
    (hpos : dPb r.item.desc 5 = true → fits (operand s c r.item.desc 2) (4 * fxRows r.item.desc) = true) :
    Stores s (rotaryDef.op c r s) c a ((List.range (fxRows r.item.desc)).map fun i => packRow (dP r.item.desc 21 17)
      ((rpRow (dP r.item.desc 21 17) (ftzOf s c) (dPb r.item.desc 6) (dP r.item.desc 16 7) (rpPos s c r i)
        (rowCodes s (operand s c r.item.desc 1) 0 0 0 (dP r.item.desc 16 7))
        (rowCodes s (operand s c r.item.desc 0) (dP r.item.desc 21 17) (dP r.item.desc 47 32) i (fxLen r.item.desc))).map (·.v))).flatten := by
  have hbad : rotaryDef.bad s c r = false := by
    have h1 : (decide (0 < fxRows r.item.desc) && !fits (operand s c r.item.desc 1) (4 * dP r.item.desc 16 7)) = false := by
      obtain h0 | h1 := hws
      · simp [h0]
      · simp [h1]
    have h2 : (dPb r.item.desc 5 && !fits (operand s c r.item.desc 2) (4 * fxRows r.item.desc)) = false := by
      cases h5 : dPb r.item.desc 5
      · rfl
      · simp [hpos h5]
    simp only [rotaryDef, allInside hin, hown.fits, h1, h2]
    rfl
  have hfault : rotaryDef.fault c r = none := by
    simp only [rotaryDef]
    rw [if_neg (by omega)]
  refine fxRows_store (FxDef.undef_eq_false hfault hres hbad) rfl hown (fun i hi => ?_) fun z i hi hv => ?_
  · rw [packRow_length, List.length_map, rpRow_length, rowCodes_length_inside (hin i hi)]
  · simp only [rotaryDef, ← spadView_ftz hv]
    exact ⟨_, rfl⟩

/-! ### SOFTMAX: its rows, and its sums behind them -/

/-- The scratchpad of core `c` holds `bs` at byte `a` and `cs` at byte `b` and is otherwise as it was. -/
def StoresTwo (s t : State) (c a b : Nat) (bs cs : List Byte) : Prop :=
  ∀ i, mget (t.core c).spad i = if a ≤ i ∧ i < a + bs.length then bs.getD (i - a) 0#8
    else if b ≤ i ∧ i < b + cs.length then cs.getD (i - b) 0#8 else mget (s.core c).spad i

section
variable {b : Nat} {bs cs x : List Byte} {u : State}

theorem Stores.two (h : Stores s t c a bs) (b : Nat) : StoresTwo s t c a b bs [] := fun i => by
  rw [h i]
  simp only [List.length_nil]
  rw [if_neg (show ¬ (b ≤ i ∧ i < b + 0) by omega)]

theorem StoresTwo.append_left (h : StoresTwo s t c a b bs cs) (g : Stores t u c (a + bs.length) x) (_hx : a + bs.length + x.length ≤ b) :
    StoresTwo s u c a b (bs ++ x) cs := fun i => by
  rw [g i, h i, List.length_append]
  by_cases hi : i < a + bs.length
  · rw [if_neg (by omega)]
    by_cases ha : a ≤ i
    · rw [if_pos (by omega), if_pos (by omega), List.getD_append _ _ _ _ (by omega)]
    · rw [if_neg (by omega), if_neg (show ¬ (a ≤ i ∧ i < a + (bs.length + x.length)) by omega)]
  · by_cases hc : i < a + bs.length + x.length
    · rw [if_pos (by omega), if_pos (by omega), List.getD_append_right _ _ _ _ (by omega), Nat.sub_add_eq]
    · rw [if_neg (by omega), if_neg (by omega), if_neg (show ¬ (a ≤ i ∧ i < a + (bs.length + x.length)) by omega)]

theorem StoresTwo.append_right (h : StoresTwo s t c a b bs cs) (g : Stores t u c (b + cs.length) x) (hb : a + bs.length ≤ b) :
    StoresTwo s u c a b bs (cs ++ x) := fun i => by
  rw [g i, h i, List.length_append]
  by_cases ha : a ≤ i ∧ i < a + bs.length
  · rw [if_neg (by omega), if_pos ha, if_pos ha]
  rw [if_neg ha, if_neg ha]
  by_cases hi : i < b + cs.length
  · rw [if_neg (by omega)]
    by_cases hb : b ≤ i
    · rw [if_pos (by omega), if_pos (by omega), List.getD_append _ _ _ _ (by omega)]
    · rw [if_neg (by omega), if_neg (by omega)]
  · by_cases hc : i < b + cs.length + x.length
    · rw [if_pos (by omega), if_pos (by omega), List.getD_append_right _ _ _ _ (by omega), Nat.sub_add_eq]
    · rw [if_neg (by omega), if_neg (by omega), if_neg (by omega)]

theorem StoresTwo.join (h : StoresTwo s t c a b bs cs) (hb : b = a + bs.length) : Stores s t c a (bs ++ cs) := fun i => by
  subst hb
  rw [h i, List.length_append]
  by_cases ha : a ≤ i ∧ i < a + bs.length
  · rw [if_pos ha, if_pos (by omega), List.getD_append _ _ _ _ (by omega)]
  · rw [if_neg ha]
    by_cases hc : a + bs.length ≤ i ∧ i < a + bs.length + cs.length
    · rw [if_pos hc, if_pos (by omega), List.getD_append_right _ _ _ _ (by omega), Nat.sub_add_eq]
    · rw [if_neg hc, if_neg (by omega)]

end

theorem flatten_map_length {f : Nat → List Byte} {len n : Nat} (h : ∀ i, i < n → (f i).length = len) :
    (((List.range n).map f).flatten).length = n * len := by
  rw [flatten_length_of (n := len) fun x hx => ?_, List.length_map, List.length_range, Nat.mul_comm]
  obtain ⟨i, hi, rfl⟩ := List.mem_map.1 hx
  exact h i (List.mem_range.1 hi)

/-- Rows of `len` bytes with sums of `k` bytes behind them, stored pair by pair. -/
theorem stores_pairs {row sum : Nat → List Byte} {len k m : Nat} {f : State → Nat → State} (hrow : ∀ i, i < m → (row i).length = len)
    (hsum : ∀ i, i < m → (sum i).length = k)
    (hf : ∀ z i, i < m → engView false spadView c z = engView false spadView c s → ∃ y, Stores z y c (a + i * len) (row i) ∧
      Stores y (f z i) c (a + m * len + i * k) (sum i) ∧ engView false spadView c (f z i) = engView false spadView c z) (n : Nat) (hn : n ≤ m) :
    StoresTwo s (s.each (List.range n) f) c a (a + m * len) ((List.range n).map row).flatten ((List.range n).map sum).flatten ∧
      engView false spadView c (s.each (List.range n) f) = engView false spadView c s := by
  induction n with
  | zero => exact ⟨(Stores.nil rfl a).two _, rfl⟩
  | succ n ih =>
    obtain ⟨hs, hv⟩ := ih (by omega)
    obtain ⟨y, hr, hq, hv'⟩ := hf _ n hn hv
    have hlr : (((List.range n).map row).flatten).length = n * len := flatten_map_length fun i hi => hrow i (by omega)
    have hls : (((List.range n).map sum).flatten).length = n * k := flatten_map_length fun i hi => hsum i (by omega)
    have hle : n * len + len ≤ m * len := by rw [← Nat.succ_mul]; exact Nat.mul_le_mul_right _ hn
    rw [List.range_succ, State.each, List.foldl_append, List.foldl_cons, List.foldl_nil, List.map_append, List.flatten_append, List.map_append,
      List.flatten_append, List.map_singleton, List.flatten_singleton, List.map_singleton, List.flatten_singleton]
    have h1 := hs.append_left (u := y) (x := row n) (by rw [hlr]; exact hr) (by rw [hlr, hrow n hn]; omega)
    exact ⟨h1.append_right (by rw [hls]; exact hq) (by rw [List.length_append, hlr, hrow n hn]; omega), hv'.trans hv⟩

theorem fp_nan {v : Nat} (h : fIsNan (fp v) = true) : ∃ n p, fp v = .nan n p := by
  cases hv : fp v with
  | nan n p => exact ⟨n, p, rfl⟩
  | fin => rw [hv] at h; cases h
  | inf => rw [hv] at h; cases h

theorem smRow_length (e : Nat) (ftz : Bool) {f : Nat} (hf : f ≤ 2) (zs : List NR) : (smRow e ftz f zs).1.length = zs.length := by
  obtain ⟨ff, hff⟩ : ∃ ff, fmtFloat f = some ff := by interval_cases f <;> exact ⟨_, rfl⟩
  simp only [smRow, smRow2, hff]
  split
  next v hv =>
    obtain ⟨n, p, hp⟩ := fp_nan (v := v) (by simpa using List.find?_some hv)
    rw [hp]
    exact List.length_map _
  · split
    · exact List.length_map _
    split
    · exact List.length_map _
    · rw [List.length_map, List.length_map]

/-- Row `i` of a softmax (R223, R224). -/
def smOut (s : State) (c : Nat) (r : RunOp) (i : Nat) : List Nat × Nat × Nat × Fl := smRow (lanes c) (ftzOf s c) (dP r.item.desc 16 12) (smZ s c r i)

theorem softmax_stores (hres : dReserved r.item.desc = false) (hf : dP r.item.desc 21 17 ≤ 1) (hrows : fxRows r.item.desc ≤ 512)
    (ho : dP r.item.desc 16 12 ≤ 2) (hm : dP r.item.desc 11 10 ≠ 3)
    (hin : ∀ i, i < fxRows r.item.desc → rowInside (operand s c r.item.desc 0) (dP r.item.desc 21 17) (dP r.item.desc 47 32) i (smLen r i) = true)
    (hown : OwnSpad s c r 3 a (fxRows r.item.desc * (4 * rowWords (dP r.item.desc 16 12) (fxLen r.item.desc) + 8))) :
    Stores s (softmaxDef.op c r s) c a (((List.range (fxRows r.item.desc)).map fun i => packRow (dP r.item.desc 16 12) (smOut s c r i).1).flatten ++
      ((List.range (fxRows r.item.desc)).map fun i => leBytes 4 (smOut s c r i).2.1 ++ leBytes 4 (smOut s c r i).2.2.1).flatten) := by
  have hbad : softmaxDef.bad s c r = false := by
    simp only [softmaxDef, allInside hin, hown.fits]
    rfl
  have hfault : softmaxDef.fault c r = none := by
    simp only [softmaxDef]
    rw [if_neg (by omega)]
  have hrow (i : Nat) : (packRow (dP r.item.desc 16 12) (smOut s c r i).1).length = 4 * rowWords (dP r.item.desc 16 12) (fxLen r.item.desc) := by
    rw [packRow_length, smOut, smRow_length _ _ ho, smZ_length]
  rw [FxDef.op_units (FxDef.undef_eq_false hfault hres hbad)]
  refine ((stores_pairs (fun i _ => hrow i) (k := 8) (fun i _ => by simp) (fun z i hi hv => ?_) _ le_rfl).1).join ?_
  · have hi : i < fxRows r.item.desc := hi
    have hle := packRow_fits (dP r.item.desc 16 12) hi (smRow_length (lanes c) (ftzOf s c) ho (smZ s c r i)).le
    rw [smZ_length] at hle
    have hfl (fl : BitVec 32) : engView false flagView c (setSticky z c fl) = engView false flagView c z := setSticky_engView flagView_blind fl
    have hput (fl : BitVec 32) := fxPut_stores_flags (o := i * (4 * rowWords (dP r.item.desc 16 12) (fxLen r.item.desc)))
      (bs := packRow (dP r.item.desc 16 12) (smOut s c r i).1) (hown.congr hv)
      (hle.trans (Nat.mul_le_mul_left _ (Nat.le_add_right _ 8))) (hfl fl)
    simp only [operand_of_engView flagView_blind (hfl _)] at hput
    simp only [softmaxDef, spadView_ftz hv]
    have h2 := fxPut_stores_at (o := fxRows r.item.desc * (4 * rowWords (dP r.item.desc 16 12) (fxLen r.item.desc)) + 8 * i)
      (bs := leBytes 4 (smOut s c r i).2.1 ++ leBytes 4 (smOut s c r i).2.2.1)
      ((hown.congr hv).congr (hput (smFlags &&& (smOut s c r i).2.2.2)).2) (by simp [Nat.mul_add]; omega)
    rw [operand_of_engView (spadView_blind none).toBlind (hput _).2, ← Nat.add_assoc] at h2
    refine ⟨_, (hput (smFlags &&& (smOut s c r i).2.2.2)).1, ?_, h2.2.trans (hput _).2⟩
    rw [Nat.mul_comm i 8]
    exact h2.1
  · rw [flatten_map_length fun i _ => hrow i]

end

/-- Settles O21. -/
theorem rowEngineResults : Obligations.RowEngineResults := by
  intro c s r a d l st rows f of_ ftz src opt okP hres hf hrows
  refine ⟨?softmax, ?norms, ?rotary⟩
  case softmax =>
    intro h ho hm a1 nr out hin hown
    refine ⟨_, congrArg Host.Outcome.next (withOp_some s _ _ _ _ r h), Stores.of_spad ?_ (opDone_spad _ _)⟩
    have hst := softmax_stores hres hf hrows ho hm hin hown
    simp only [out, List.map_map]
    exact hst
  case norms =>
    intro ho hp h65 hin hown hok row
    refine ⟨fun h => ?_, fun h hok2 => ?_⟩
    · refine ⟨_, congrArg Host.Outcome.next (withOp_some s _ _ _ _ r h), Stores.of_spad ?_ (opDone_spad _ _)⟩
      exact norm_stores (ln := false) hres hf hrows ho hp h65 hin hown (by rintro k (rfl | ⟨h, -⟩); exacts [hok, nomatch h])
    · refine ⟨_, congrArg Host.Outcome.next (withOp_some s _ _ _ _ r h), Stores.of_spad ?_ (opDone_spad _ _)⟩
      exact norm_stores (ln := true) hres hf hrows ho hp h65 hin hown (by rintro k (rfl | ⟨-, rfl⟩); exacts [hok, hok2])
  case rotary =>
    intro h hpairs hin hown hws hpos ws pos row
    exact ⟨_, congrArg Host.Outcome.next (withOp_some s _ _ _ _ r h),
      Stores.of_spad (rotary_stores hres hf hrows hpairs hin hown hws hpos) (opDone_spad _ _)⟩

/-! ### Conversions and samples -/

section
variable {c a : Nat} {s t z : State} {r : RunOp}

/-- An operation of one unit stores that unit's bytes. -/
theorem fxOne_stores {x : FxDef} {bs : List Byte} (hu : x.undef s c r = false) (hn : x.units r = 1) (hown : OwnSpad s c r 3 a bs.length)
    (hunit : ∃ z, engView false flagView c z = engView false flagView c s ∧ x.unit (fun _ => s) c r s 0 = fxPut z (operand z c r.item.desc 3) 0 bs) :
    Stores s (x.op c r s) c a bs := by
  obtain ⟨z, hz, he⟩ := hunit
  rw [FxDef.op_units hu, hn]
  change Stores s (x.unit (fun _ => s) c r s 0) c a bs
  rw [he]
  exact (fxPut_stores_flags hown (by omega) hz).1

section
variable {x : Opnd} {f xf n : Nat}

theorem srcElems_eq (hx : operand s c r.item.desc 0 = some x) : srcElems s c r = elemsIn (dP r.item.desc 63 59) x.bytes := by simp only [srcElems, srcBytes, hx]

/-- The elements that an unpack of `n` elements stores (R230, R231). -/
def unpackElems (s : State) (c : Nat) (r : RunOp) (x : Opnd) (n : Nat) : List Nat :=
  let d := r.item.desc
  let f := dP d 63 59
  let xf := dP d 58 54
  let e := fun i => elemCode (byteAt (opRead s x 0 x.bytes)) f i
  let scs := rowCodes s (operand s c d 1) 6 0 0 (if fmtBlock f then cdiv n 32 else 0)
  let ls := if f = 0x10 ∧ dPb d 53 then (screenOutliers (cdiv n 32) (opWords s (operand s c d 2))).1 else []
  (List.range n).map fun i =>
    if fmtBlock f then (cvtElem 0 xf (dWrap d) (ftzOf s c)
      (decBlock f (e i) (scs.getD (i / 32) 0) (fp (zbScale (ftzOf s c) f xf (fxParam r (dP d 49 45) fOne)).v) (outlierVal ls i) (ftzOf s c)).v).v
    else (cvtElem f xf (dWrap d) (ftzOf s c) (e i)).v

theorem unpackElems_length (s : State) (x : Opnd) (n : Nat) : (unpackElems s c r x n).length = n := by simp [unpackElems]

theorem unpack_unit (hx : operand s c r.item.desc 0 = some x) : ∃ b b' fl, unpackDef.unit (fun _ => s) c r s 0 =
    fxPut (setSticky (outlierReport (ternReport s c r b) c r b') c fl) (operand (outlierReport (ternReport s c r b) c r b') c r.item.desc 3) 0
      (packElems (dP r.item.desc 58 54) (unpackElems s c r x (elemsIn (dP r.item.desc 63 59) x.bytes))) := by
  have hb : srcBytes s c r = x.bytes := by simp only [srcBytes, hx]
  simp only [unpackDef, hx, srcElems_eq hx, hb]
  refine ⟨_, _, _, congrArg (fxPut _ _ 0) (congrArg (packElems _) ?_)⟩
  rw [List.map_map]
  refine List.map_congr_left fun i _ => ?_
  rw [Function.comp_apply, apply_ite NR.v, apply_ite Prod.fst]

theorem unpack_stores (hx : operand s c r.item.desc 0 = some x) (hres : dReserved r.item.desc = false)
    (hpair : unpackPair (dP r.item.desc 63 59) (dP r.item.desc 58 54) = true) (hpar : dP r.item.desc 44 0 = 0)
    (hown : OwnSpad s c r 3 a (fmtBytes (dP r.item.desc 58 54) (elemsIn (dP r.item.desc 63 59) x.bytes)))
    (hsc : fmtBlock (dP r.item.desc 63 59) = true → fits (operand s c r.item.desc 1) (cdiv (elemsIn (dP r.item.desc 63 59) x.bytes) 32) = true) :
    Stores s (unpackDef.op c r s) c a (packElems (dP r.item.desc 58 54) (unpackElems s c r x (elemsIn (dP r.item.desc 63 59) x.bytes))) := by
  have hbad : unpackDef.bad s c r = false := by
    have h1 : (fmtBlock (dP r.item.desc 63 59) && !fits (operand s c r.item.desc 1) (cdiv (elemsIn (dP r.item.desc 63 59) x.bytes) 32)) = false := by
      cases hb : fmtBlock (dP r.item.desc 63 59)
      · rfl
      · simp [hsc hb]
    simp only [unpackDef, srcElems_eq hx, hpar, hown.fits, h1]
    rfl
  have hfault : unpackDef.fault c r = none := by simp only [unpackDef, hpair, if_true]
  refine fxOne_stores (FxDef.undef_eq_false hfault hres hbad) rfl (by rwa [packElems_length, unpackElems_length]) ?_
  obtain ⟨b, b', fl, he⟩ := unpack_unit hx
  have hrep : engView false flagView c (outlierReport (ternReport s c r b) c r b') = engView false flagView c s :=
    (outlierReport_engView flagView_blind r b').trans (ternReport_engView flagView_blind r b)
  have hfl : engView false flagView c (setSticky (outlierReport (ternReport s c r b) c r b') c fl) = engView false flagView c s :=
    (setSticky_engView flagView_blind fl).trans hrep
  refine ⟨_, hfl, he.trans ?_⟩
  rw [operand_of_engView flagView_blind hfl, operand_of_engView flagView_blind hrep]

/-- The blocks of a split of `n` elements (R232). -/
def splitBlocks (s : State) (c : Nat) (r : RunOp) (x : Opnd) (n : Nat) : List Block :=
  (blocks32 (cdiv n 32) ((encSource (dP r.item.desc 63 59) (ftzOf s c) (rowCodes s (some x) (dP r.item.desc 63 59) 0 0 n)).map (·.1))).map
    (splitBlock (dPb r.item.desc 50) (dP r.item.desc 52 51))

theorem blocks32_length {α : Type} (n : Nat) (l : List α) (h : cdiv l.length 32 = n) : (blocks32 n l).length = n := by
  induction n generalizing l with
  | zero => rfl
  | succ n ih =>
    have hl : l ≠ [] := by rintro rfl; simp [cdiv] at h
    rw [blocks32, if_neg (by simpa using hl), List.length_cons, ih]
    simp only [cdiv, List.length_drop] at h ⊢
    omega

theorem splitBlocks_length (s : State) (x : Opnd) (n : Nat) : (splitBlocks s c r x n).length = cdiv n 32 := by
  rw [splitBlocks, List.length_map, blocks32_length]
  simp [encSource, rowCodes]

theorem split_stores (hx : operand s c r.item.desc 0 = some x) (hres : dReserved r.item.desc = false) (hf : dP r.item.desc 63 59 ≤ 1)
    (hpiece : pieceOk (dPb r.item.desc 50) (dP r.item.desc 52 51) (dP r.item.desc 58 54) = true) (hpar : dP r.item.desc 44 0 = 0)
    (hn : n = elemsIn (dP r.item.desc 63 59) x.bytes) (hown : OwnSpad s c r 3 a (4 * cdiv n 4 + cdiv n 32)) :
    Stores s (splitDef.op c r s) c a (padTo (4 * cdiv n 4) (packElems 6 ((splitBlocks s c r x n).map (·.codes)).flatten) ++
      packElems 6 ((splitBlocks s c r x n).map (·.scale))) := by
  subst hn
  have hbad : splitDef.bad s c r = false := by
    simp only [splitDef, srcElems_eq hx, hpar, hown.fits]
    rfl
  have hfault : splitDef.fault c r = none := by
    simp only [splitDef, hpiece]
    rw [if_neg (by simpa using hf)]
  have hlen : (padTo (4 * cdiv (elemsIn (dP r.item.desc 63 59) x.bytes) 4)
      (packElems 6 ((splitBlocks s c r x (elemsIn (dP r.item.desc 63 59) x.bytes)).map (·.codes)).flatten) ++
      packElems 6 ((splitBlocks s c r x (elemsIn (dP r.item.desc 63 59) x.bytes)).map (·.scale))).length =
      4 * cdiv (elemsIn (dP r.item.desc 63 59) x.bytes) 4 + cdiv (elemsIn (dP r.item.desc 63 59) x.bytes) 32 := by
    rw [List.length_append, padTo_length, packElems_length, List.length_map, splitBlocks_length, fmtBytes_int8]
  refine fxOne_stores (FxDef.undef_eq_false hfault hres hbad) rfl (by rwa [hlen]) ?_
  have hfl (fl : BitVec 32) : engView false flagView c (setSticky s c fl) = engView false flagView c s := setSticky_engView flagView_blind fl
  simp only [splitDef, hx, srcElems_eq hx]
  exact ⟨_, hfl _, by rw [operand_of_engView flagView_blind (hfl _)]; rfl⟩

/-! ### GATHER -/

theorem operand_some {k : Nat} (ho : operand s c r.item.desc k = some x) : operandAny s c r.item.desc k = x := by
  rw [operand] at ho
  split at ho
  · cases ho
  · exact Option.some.inj ho

theorem gatherStart_engView : engView false flagView c (gatherStart c r s) = engView false flagView c s := by
  unfold gatherStart
  split
  · exact raise_engView ..
  · exact raise_engView ..
  · rfl

/-- The bytes that a gather stores (R233, R234, R409). -/
def gatherBytes (s : State) (c : Nat) (r : RunOp) (x y : Opnd) : List Byte :=
  match gatherSlot s (dSlot r.item.desc) with
  | none => List.replicate y.bytes 0#8
  | some k =>
    if (s.adap k).state = .broken ∨ (s.adap k).gen ≠ (s.slot (dSlot r.item.desc)).agen ∨
        (regionAt (s.core c).actBank (dOperand r.item.desc 0).1).size < (dOperand r.item.desc 0).2.1 + k * dP r.item.desc 63 44 * 1024 + y.bytes then
      List.replicate y.bytes 0#8
    else bedRead s (x.a + k * dP r.item.desc 63 44 * 1024) y.bytes

theorem gather_stores {y : Opnd} (hx : operand s c r.item.desc 0 = some x) (hy : operand s c r.item.desc 3 = some y) (hres : dReserved r.item.desc = false)
    (hpar : dP r.item.desc 43 0 = 0) (hown : OwnSpad s c r 3 a y.bytes) : Stores s (gatherOp c r s) c a (gatherBytes s c r x y) := by
  have hzero {z : State} (hz : engView false flagView c z = engView false flagView c s) :
      Stores s (fxPut z (operand s c r.item.desc 3) 0 (List.replicate y.bytes 0#8)) c a (List.replicate y.bytes 0#8) := by
    rw [← operand_of_engView flagView_blind hz]
    exact (fxPut_stores_flags hown (by simp) hz).1
  have hn : (operandAny s c r.item.desc 3).bytes = y.bytes := by rw [operand_some hy]
  have hguard : ¬ (dReserved r.item.desc = true ∨ dP r.item.desc 43 0 ≠ 0) := by simp [hres, hpar]
  cases hs : gatherSlot s (dSlot r.item.desc) with
  | none =>
    have hplan : gatherPlan s c r = .zeros := by simp only [gatherPlan, hy, hs, if_neg hguard]
    simp only [gatherOp, gatherBytes, hplan, hs, hn]
    exact hzero gatherStart_engView
  | some k =>
    simp only [gatherBytes, hs]
    by_cases hb : (s.adap k).state = .broken ∨ (s.adap k).gen ≠ (s.slot (dSlot r.item.desc)).agen
    · have hplan : gatherPlan s c r = .broken k := by simp only [gatherPlan, hy, hs, if_neg hguard, if_pos hb]
      rw [if_pos (by tauto)]
      simp only [gatherOp, hplan, hn]
      exact hzero gatherStart_engView
    by_cases hp : (regionAt (s.core c).actBank (dOperand r.item.desc 0).1).size < (dOperand r.item.desc 0).2.1 + k * dP r.item.desc 63 44 * 1024 + y.bytes
    · have hplan : gatherPlan s c r = .past := by simp only [gatherPlan, hy, hs, hx, if_neg hguard, if_neg hb, if_pos hp]; rfl
      rw [if_pos (by tauto)]
      simp only [gatherOp, hplan, hn]
      exact hzero gatherStart_engView
    · have hplan : gatherPlan s c r = .data k := by simp only [gatherPlan, hy, hs, hx, if_neg hguard, if_neg hb, if_neg hp]; rfl
      have ha : gatherAddr s c r.item.desc k = x.a + k * dP r.item.desc 63 44 * 1024 := by rw [gatherAddr, operand_some hx]
      rw [if_neg (by tauto)]
      simp only [gatherOp, hplan, hn, ha]
      exact (fxPut_stores_flags hown (by simp [bedRead_length]) rfl).1

/-! ### SAMPLE -/

/-- The logits of a sample (R240, R241). -/
def sampleLogits (s : State) (c : Nat) (r : RunOp) : List Nat :=
  let z := fun x => (fpMul fFP32 (ftzOf s c) (widen (dP r.item.desc 45 41) x) (fxParam r (dP r.item.desc 28 24) fOne)).v
  (rowCodes s (operand s c r.item.desc 0) (dP r.item.desc 45 41) 0 0 (dP r.item.desc 63 46)).map fun x => if fIsNan (fp (z x)) then fNegInf else z x

/-- The draw of a sample (R242, R244, R245). -/
def sampleResult (s : State) (c : Nat) (r : RunOp) : List Byte × Fl × Bool :=
  let d := r.item.desc
  let ctr := BitVec.ofNat 64 (2 ^ 32 * (((r.sreg (dP d 18 14)).toNat + dP d 13 11) % 2 ^ 32) + 2 ^ 24 * dP d 10 3)
  sampleDraw (ftzOf s c) (dPb d 29) (dP d 40 30) (fxParam r (dP d 23 19) fOne) ((mix (slotSeed s (dSlot d)) ctr).toNat / 2 ^ 40) (sampleLogits s c r)

theorem sample_unit : ∃ fl, sampleDef.unit (fun _ => s) c r s 0 =
    fxPut ((setSticky s c fl).cond (sampleResult s c r).2.2 fun s => raiseE s 0x0705 c r.eng (opPlace r)) (operand (setSticky s c fl) c r.item.desc 3) 0
      (sampleResult s c r).1 := by
  have hz : ((rowCodes s (operand s c r.item.desc 0) (dP r.item.desc 45 41) 0 0 (dP r.item.desc 63 46)).map fun x =>
      let z := fpMul fFP32 (ftzOf s c) (widen (dP r.item.desc 45 41) x) (fxParam r (dP r.item.desc 28 24) fOne)
      if fIsNan (fp z.v) then (⟨fNegInf, z.fl ||| flNANZ⟩ : NR) else z).map (·.v) = sampleLogits s c r := by
    rw [List.map_map]
    refine List.map_congr_left fun x _ => ?_
    simp only [Function.comp_apply, apply_ite NR.v]
  simp only [sampleDef, sampleResult]
  simp only at hz
  rw [hz]
  exact ⟨_, rfl⟩

theorem sample_stores (hres : dReserved r.item.desc = false) (hf : dP r.item.desc 45 41 ≤ 1) (hk : dP r.item.desc 40 30 ≤ 1024) (hpar : dP r.item.desc 2 0 = 0)
    (hv : 0 < dP r.item.desc 63 46) (hin : rowInside (operand s c r.item.desc 0) (dP r.item.desc 45 41) 0 0 (dP r.item.desc 63 46) = true)
    (hown : OwnSpad s c r 3 a 16) : Stores s (sampleDef.op c r s) c a (sampleResult s c r).1 := by
  have hbad : sampleDef.bad s c r = false := by
    simp only [sampleDef, hpar, hin, hown.fits]
    simp
  have hfault : sampleDef.fault c r = none := by
    simp only [sampleDef]
    rw [if_neg (by omega)]
  have hone : sampleDef.units r = 1 := by
    simp only [sampleDef]
    rw [if_neg (by omega)]
  obtain ⟨fl, he⟩ := sample_unit (s := s) (c := c) (r := r)
  have hfl : engView false flagView c (setSticky s c fl) = engView false flagView c s := setSticky_engView flagView_blind fl
  have hz : engView false flagView c ((setSticky s c fl).cond (sampleResult s c r).2.2 fun s => raiseE s 0x0705 c r.eng (opPlace r)) = engView false flagView c s :=
    cond_engView ((raise_engView ..).trans hfl) hfl
  refine fxOne_stores (FxDef.undef_eq_false hfault hres hbad) hone (by rwa [sampleResult, sampleDraw_length]) ⟨_, hz, he.trans ?_⟩
  rw [operand_of_engView flagView_blind hz, operand_of_engView flagView_blind hfl]

end

end

/-- Settles O22. -/
theorem conversionEngineResults : Obligations.ConversionEngineResults := by
  intro c s r a x y d f xf ftz n hres hx
  refine ⟨?unpack, ?split, ?gather⟩
  case unpack =>
    intro h hpair hpar hown hsc e scs ls
    exact ⟨_, congrArg Host.Outcome.next (withOp_some s _ _ _ _ r h), Stores.of_spad (unpack_stores hx hres hpair hpar hown hsc) (opDone_spad _ _)⟩
  case split =>
    intro h hf hpiece hpar hown bl
    exact ⟨_, congrArg Host.Outcome.next (withOp_some s _ _ _ _ r h), Stores.of_spad (split_stores hx hres hf hpiece hpar rfl hown) (opDone_spad _ _)⟩
  case gather =>
    intro h hpar hy hown
    exact ⟨_, congrArg Host.Outcome.next (withOp_some s _ _ _ _ r h), Stores.of_spad (gather_stores hx hy hres hpar hown) (opDone_spad _ _)⟩

/-- Settles O23. -/
theorem sampleStoresRecord : Obligations.SampleStoresRecord := by
  intro c s r a h d v f ftz src z ctr hres hf hk hpar hv hin hown
  exact ⟨_, congrArg Host.Outcome.next (withOp_some s _ _ _ _ r h), Stores.of_spad (sample_stores hres hf hk hpar hv hin hown) (opDone_spad _ _)⟩

end Sys2Proof.Machine
end

section
/-! PROOFS. What the operations of the vector engine leave unchanged (O20). -/
namespace Sys2Proof.Machine

section
variable {β : Type} {h : Bool} {g : Core → β} {c : Nat} {s t z : State} {r : RunOp}

/-- The view does not see vector registers, masks, the vector length and scalar results on their way. -/
structure VecBlind (g : Core → β) : Prop extends Blind g where
  vreg : ∀ x m b, g { x with vreg := m, badX := b } = g x
  mreg : ∀ x m, g { x with mreg := m } = g x
  vl : ∀ x n k, g { x with vl := n, vlClamps := k } = g x
  scalars : ∀ x l, g { x with sldPend := l } = g x

theorem vFault_engView (a b : Bool) : engView h g c (vFault s c r a b) = engView h g c s := by
  have h1 : engView h g c (s.cond a fun s => raiseE s 0x0601 c r.eng (opPlace r)) = engView h g c s := cond_engView (raise_engView ..) rfl
  exact cond_engView ((raise_engView ..).trans h1) h1

theorem vWrite_engView (hg : VecBlind g) (src : State) (v f lo n m : Nat) (new : List Byte) :
    engView h g c (vWrite src c r v f lo n m new s) = engView h g c s := by
  unfold vWrite
  exact (ternReport_engView hg.toBlind r _).trans (mapCore_engView (hg.vreg _ _ _))

theorem mWrite_engView (hg : VecBlind g) (src : State) (d : Desc) (m lo : Nat) (bs : List Bool) : engView h g c (mWrite src c d m lo bs s) = engView h g c s :=
  mapCore_engView (hg.mreg _ _)

theorem vUndef_engView (hg : VecBlind g) (v f n : Nat) : engView h g c (vUndef s c v f n) = engView h g c s :=
  (mapCore_engView (hg.vreg _ _ _)).trans (takeFree_engView _)

theorem mUndef_engView (hg : VecBlind g) (m n : Nat) : engView h g c (mUndef s c m n) = engView h g c s :=
  (mapCore_engView (hg.mreg _ _)).trans (takeFree_engView _)

theorem engSreg_engView (hg : VecBlind g) (rd : Nat) (v : BitVec 32) : engView h g c (engSreg s c r rd v) = engView h g c s :=
  mapCore_engView (hg.scalars _ _)

theorem vMap_engView (hg : VecBlind g) (src : State) (p : VPart) (f : Nat) (k : Core → Nat → NR) : engView h g c (vMap src p c r f k s) = engView h g c s :=
  (vWrite_engView hg ..).trans (setSticky_engView hg.toBlind _)

theorem vScales_engView (hg : VecBlind g) (v lo : Nat) (sc : List Nat) : engView h g c (vScales s c v lo sc) = engView h g c s := mapCore_engView (hg.vreg _ _ _)

theorem vsetvlOp_engView (hg : VecBlind g) : engView h g c (vsetvlOp c r s) = engView h g c s := mapCore_engView (hg.vl _ _ _)

/-- An operation whose effects are on vector registers, masks and scalars. -/
structure VxDef.OnRegisters (x : VxDef) : Prop where
  undef : ∀ {β : Type} {g : Core → β}, VecBlind g → ∀ c r s, engView false g c (x.undef c r s) = engView false g c s
  part : ∀ {β : Type} {g : Core → β}, VecBlind g → ∀ src p c r s, engView false g c (x.part src p c r s) = engView false g c s

theorem VxDef.OnRegisters.op_engView {x : VxDef} (hx : x.OnRegisters) (hg : VecBlind g) : engView false g c (x.op c r s) = engView false g c s := by
  have hs : engView false g c (x.start c r s) = engView false g c s := vFault_engView _ _
  exact engView_ite ((hx.undef hg ..).trans hs) ((hx.part hg ..).trans hs)

theorem vint_onRegisters : vintDef.OnRegisters where
  undef hg _ _ _ := engView_ite ((engSreg_engView hg ..).trans (takeFreeNat_engView 32)) (vUndef_engView hg ..)
  part hg _ _ _ _ _ := engView_ite (engView_ite rfl (engView_ite (engSreg_engView hg ..) (engView_ite (engSreg_engView hg ..) rfl)))
    (engView_ite (vWrite_engView hg ..) (engView_ite (vMap_engView hg ..) (vMap_engView hg ..)))

theorem vcmp_onRegisters : vcmpDef.OnRegisters where
  undef hg _ _ _ := mUndef_engView hg ..
  part hg _ _ _ _ _ := (setSticky_engView hg.toBlind _).trans (mWrite_engView hg ..)

theorem vmask_onRegisters : vmaskDef.OnRegisters where
  undef hg _ _ _ := mUndef_engView hg ..
  part hg _ _ _ _ _ := mWrite_engView hg ..

theorem vflt_onRegisters : vfltDef.OnRegisters where
  undef hg _ _ _ := vUndef_engView hg ..
  part hg _ _ _ _ _ := by
    simp only [vfltDef]
    split
    · exact vMap_engView hg ..
    · rfl

theorem vfun_onRegisters (b : Desc → Bool) (f : Bool → Desc → FFmt → Nat → Nat → NR) : (vfunDef b f).OnRegisters where
  undef hg _ _ _ := vUndef_engView hg ..
  part hg _ _ _ _ _ := by
    simp only [vfunDef]
    split
    · exact vMap_engView hg ..
    · rfl

theorem vperm_onRegisters : vpermDef.OnRegisters where
  undef hg _ _ _ := vUndef_engView hg ..
  part hg _ _ _ _ _ := by
    simp only [vpermDef]
    exact vMap_engView hg ..

theorem fillFree_engView (l : List (Option NR)) : engView h g c (fillFree s l).2 = engView h g c s := by
  refine List.foldlRecOn l _ (motive := fun a : List NR × State => engView h g c a.2 = engView h g c s) rfl fun a ha x _ => ?_
  cases x with
  | some v => exact ha
  | none => exact (takeFreeNat_engView 32).trans ha

theorem vacc_onRegisters : vaccDef.OnRegisters where
  undef hg _ _ _ := vUndef_engView hg ..
  part hg _ _ _ _ _ := (vWrite_engView hg ..).trans ((setSticky_engView hg.toBlind _).trans (fillFree_engView _))

theorem vred_onRegisters : vredDef.OnRegisters where
  undef hg c r s := by
    refine engView_ite rfl ?_
    have h1 := vUndef_engView (h := false) (c := c) (s := s) hg (vD r.item.desc) (vredFmt r.item.desc) 1
    exact engView_ite ((engSreg_engView hg ..).trans ((takeFreeNat_engView 32).trans h1)) h1
  part hg _ _ c r s := by
    refine engView_ite rfl ?_
    have h1 (bs : List Byte) (fl : BitVec 32) :
        engView false _ c (setSticky (s.mapCore c fun k => vSetBytes k c (vD r.item.desc) 0 bs) c fl) = engView false _ c s :=
      (setSticky_engView hg.toBlind fl).trans (mapCore_engView (hg.vreg _ _ _))
    exact cond_engView ((engSreg_engView hg ..).trans (h1 _ _)) (h1 _ _)

theorem vcvt_onRegisters : vcvtDef.OnRegisters where
  undef hg _ _ _ := engView_ite ((vUndef_engView hg ..).trans (vUndef_engView hg ..)) (vUndef_engView hg ..)
  part hg _ _ c r s := by
    simp only [vcvtDef]
    have ht (b : Bool) : engView false _ c (ternReport s c r b) = engView false _ c s := ternReport_engView hg.toBlind r b
    refine engView_ite ((vScales_engView hg ..).trans ((vWrite_engView hg ..).trans (ht _))) (engView_ite ?_ ?_)
    · exact (setSticky_engView hg.toBlind _).trans ((vScales_engView hg ..).trans ((vWrite_engView hg ..).trans (ht _)))
    · exact (vWrite_engView hg ..).trans ((setSticky_engView hg.toBlind _).trans (ht _))

theorem vld_onRegisters : vldDef.OnRegisters where
  undef hg _ _ _ := vUndef_engView hg ..
  part hg _ _ _ _ _ := vWrite_engView hg ..

theorem vsetvl_onRegisters : vsetvlDef.OnRegisters where
  undef hg _ _ _ := vsetvlOp_engView hg
  part hg _ _ _ _ _ := cond_engView (vsetvlOp_engView hg) rfl

/-- An accumulator view reads the array and may clear rows of it. -/
theorem vaccOp_engView (hg : VecBlind g) (ha : ∀ a, ArrBlind g a) : engView false g c (vaccOp c r s) = engView false g c s := by
  have hs : engView false g c (vaccStart c r s) = engView false g c s := cond_engView (raise_engView ..) rfl
  exact each_engView (fun z i hz => cond_engView ((mapArr_engView (ha _) _).trans hz) hz) ((vacc_onRegisters.op_engView hg).trans hs)

/-! ### Stores -/

theorem vBytes_pos (c : Nat) : 0 < vBytes c := by
  unfold vBytes lanes
  split <;> decide

theorem vAddr_at {st k i : Nat} (hi : i < vBytes c) : vAddr c st (vBytes c * k + i) = 4 * st * k + i := by
  rw [vAddr, Nat.mul_add_div (vBytes_pos c), Nat.div_eq_of_lt hi, Nat.mul_add_mod, Nat.mod_eq_of_lt hi, Nat.add_zero]

/-- A run of bytes of register `k` lies in the destination of a store that is inside it. -/
theorem vInside_run {d : Desc} {y : Opnd} {nb k o n : Nat} (hi : vInside c d (some y) nb = true) (hn : 0 < n) (ho : o + n ≤ min (vBytes c) (nb - k * vBytes c)) :
    4 * vStride c d * k + (o + n) ≤ y.bytes := by
  have hV := vBytes_pos c
  have hpos : 0 < nb := by omega
  simp only [vInside, Bool.or_eq_true, beq_iff_eq, Bool.and_eq_true, decide_eq_true_eq] at hi
  obtain ⟨hlast, hfull⟩ := hi.resolve_left (by omega)
  by_cases hk : vBytes c * (k + 1) ≤ nb
  · obtain ⟨m, hm⟩ : ∃ m, nb / vBytes c = k + 1 + m := Nat.exists_eq_add_of_le ((Nat.le_div_iff_mul_le hV).2 (by rwa [Nat.mul_comm] at hk))
    have hle : vBytes c ≤ nb := le_trans (Nat.le_mul_of_pos_right _ (Nat.succ_pos k)) hk
    have heq : nb / vBytes c * vBytes c - 1 = vBytes c * (k + m) + (vBytes c - 1) := by
      rw [hm, Nat.mul_comm, show k + 1 + m = (k + m) + 1 by omega, Nat.mul_succ]
      omega
    have hfull := hfull.resolve_left (by omega)
    rw [heq, vAddr_at (by omega), Nat.mul_add] at hfull
    omega
  · have heq : nb - 1 = vBytes c * k + (nb - 1 - vBytes c * k) := by rw [Nat.mul_comm k] at ho; omega
    rw [Nat.mul_succ] at hk
    rw [heq, vAddr_at (by omega)] at hlast
    rw [Nat.mul_comm k] at ho
    omega

theorem runsFrom_bounds (i : Nat) (l : List Bool) : ∀ q ∈ runsFrom i l, 0 < q.2 ∧ i ≤ q.1 ∧ q.1 + q.2 ≤ i + l.length := by
  induction l generalizing i with
  | nil => simp [runsFrom]
  | cons b l ih =>
    have ih := ih (i + 1)
    intro q hq
    rw [List.length_cons]
    cases b with
    | false =>
      have := ih q hq
      omega
    | true =>
      rw [runsFrom] at hq
      split at hq
      next o n rest he =>
        rw [he] at ih
        split at hq
        · obtain rfl | hq := List.mem_cons.1 hq
          · have := ih (o, n) List.mem_cons_self
            simp only at this ⊢
            omega
          · have := ih q (List.mem_cons_of_mem _ hq)
            omega
        · obtain rfl | hq := List.mem_cons.1 hq
          · simp only
            omega
          · have := ih q hq
            omega
      next =>
        obtain rfl := List.mem_singleton.1 hq
        simp only
        omega

/-- The runs of a store lie within the bytes of their register. -/
theorem vRuns_bounds {k : Core} {d : Desc} {n i : Nat} : ∀ q ∈ vRuns k c d n i true, 0 < q.2 ∧ q.1 + q.2 ≤ vRegBytes c d n i := by
  intro q hq
  unfold vRuns at hq
  extract_lets nb w act at hq
  split at hq
  · split at hq
    · cases hq
    · obtain rfl := List.mem_singleton.1 hq
      simp only [nb] at *
      omega
  · have := runsFrom_bounds _ _ q hq
    simp only [List.length_map, List.length_range] at this
    omega

theorem vst_part_some {src : State} {p : VPart} {y : Opnd} (h : operand s c r.item.desc 3 = some y) : vstDef.part src p c r s =
    s.each ((List.range (cdiv (fmtBytes (vEfmt r.item.desc) p.hi) (vBytes c) - p.lo * width10 (vEfmt r.item.desc) / (80 * vBytes c))).map
      (· + p.lo * width10 (vEfmt r.item.desc) / (80 * vBytes c))) (vStoreReg src c r y) := by simp only [vstDef, h]

theorem vst_part_none {src : State} {p : VPart} (h : operand s c r.item.desc 3 = none) : vstDef.part src p c r s = s := by simp only [vstDef, h]

theorem vstOp_engView {g : Core → β} (hl : ∀ y ∈ operand s c r.item.desc 3, y.loc = .spad c) (hg : PutBlind g (operand s c r.item.desc 3)) :
    engView false g c (vstDef.op c r s) = engView false g c s := by
  have hs : engView false g c (vstDef.start c r s) = engView false g c s := vFault_engView _ _
  unfold VxDef.op
  cases hb : vstDef.bad s c r with
  | true =>
    change engView false g c (opUndef (vstDef.start c r s) (operand (vstDef.start c r s) c r.item.desc 3)) = _
    rw [operand_of_engView hg.toBlind hs]
    exact (opUndef_engView hg hl).trans hs
  | false =>
    rw [if_neg (by decide)]
    have hop := operand_of_engView hg.toBlind hs r.item.desc 3
    cases ho : operand s c r.item.desc 3 with
    | none =>
      rw [vst_part_none (hop.trans ho)]
      exact hs
    | some y =>
      rw [vst_part_some (hop.trans ho)]
      have hin : vInside c r.item.desc (some y) (fmtBytes (vEfmt r.item.desc) (vCount c r)) = true := by
        rw [← ho]
        simp only [VxDef.bad, vstDef, Bool.or_eq_false_iff, Bool.not_eq_false'] at hb
        exact hb.1.2
      refine each_engView (fun z i hz => ?_) hs
      unfold vStoreReg
      extract_lets d k n
      refine each_mem_engView (fun u q hq hu => ?_) hz
      obtain ⟨h0, hq⟩ := vRuns_bounds q hq
      refine (opWrite_engView hg ho (hl y ho) ?_ false []).trans hu
      rw [List.length_map, List.length_range, Nat.add_assoc]
      exact vInside_run hin h0 hq

/-! ### What the views say -/

/-- A core without the results of vector operations on registers. -/
def vecView (k : Core) : Core := { k with vreg := [], badX := [], mreg := [], vl := 0, vlClamps := 0, sldPend := [], sticky := 0#32, stickySet := 0#32, run := [] }

/-- The same without the arrays. -/
def vaccView (k : Core) : Core := { vecView k with arrays := [] }

/-- What a store with destination `o` leaves: the core but for its scratchpad, and the bytes outside `o`. -/
def vstView (o : Option Opnd) (k : Core) : Core × ({i : Nat // ∀ y ∈ o, i < y.a ∨ y.a + y.bytes ≤ i} → Byte) := (spadView k, fun i => mget k.spad i.val)

theorem vecView_blind : VecBlind vecView where
  sticky _ _ _ := rfl
  run _ _ := rfl
  bank x y h := by
    have hb := congrArg Core.actBank h
    exact hb
  vreg _ _ _ := rfl
  mreg _ _ := rfl
  vl _ _ _ := rfl
  scalars _ _ := rfl

theorem vaccView_blind : VecBlind vaccView where
  sticky _ _ _ := rfl
  run _ _ := rfl
  bank x y h := by
    have hb := congrArg Core.actBank h
    exact hb
  vreg _ _ _ := rfl
  mreg _ _ := rfl
  vl _ _ _ := rfl
  scalars _ _ := rfl

theorem vaccView_arrBlind (a : Nat) : ArrBlind vaccView a where
  toBlind := vaccView_blind.toBlind
  arr _ _ := rfl

theorem vstView_blind (o : Option Opnd) : PutBlind (vstView o) o where
  sticky _ _ _ := rfl
  run _ _ := rfl
  bank x y h := by
    have hb := congrArg (fun z : Core × ({i : Nat // ∀ y ∈ o, i < y.a ∨ y.a + y.bytes ≤ i} → Byte) => z.1.actBank) h
    exact hb
  put x m b w hm := Prod.ext rfl (funext fun i => hm i.val i.property)

end

/-- Core `x` with what a vector operation may change taken from `k`. -/
def vecPatch (k x : Core) : Core := { x with
  vreg := k.vreg, mreg := k.mreg, vl := k.vl, vlClamps := k.vlClamps, sticky := k.sticky, stickySet := k.stickySet, sldPend := k.sldPend, run := k.run
  arrays := k.arrays, spad := k.spad, bad := k.bad, badX := k.badX, wrote := k.wrote }

/-- A vector operation on registers, an accumulator view and a store, in the views of each. -/
theorem exec_vector_views {c : CoreId} {s t : State} {i : Instr}
    (hi : i ∈ [.vsetvl c, .vint c, .vcmp c, .vmask c, .vcvt c, .vld c, .vflt c, .vperm c, .vrcp c, .vexp c, .vdiv c, .vred c, .vacc c, .vst c])
    (hloc : i = .vst c → ∀ r, opOf s c.val 4 0x26 = some r → ∀ x, operand s c.val r.item.desc 3 = some x → x.loc = .spad c.val) (ht : exec i s = .next t) :
    (i ≠ .vst c ∧ engView false vecView c.val t = engView false vecView c.val s) ∨
    (i = .vacc c ∧ engView false vaccView c.val t = engView false vaccView c.val s) ∨
    (i = .vst c ∧ ∃ o, (∀ r, opOf s c.val 4 0x26 = some r → operand s c.val r.item.desc 3 = o) ∧
      engView false (vstView o) c.val t = engView false (vstView o) c.val s) := by
  have hreg {e o : Nat} {x : VxDef} (hx : x.OnRegisters) : engView false vecView c.val (withOp s c.val e o (x.op c.val)) = engView false vecView c.val s :=
    withOp_engView vecView_blind.toBlind fun r _ => hx.op_engView vecView_blind
  simp only [List.mem_cons, List.not_mem_nil, or_false] at hi
  obtain rfl | rfl | rfl | rfl | rfl | rfl | rfl | rfl | rfl | rfl | rfl | rfl | rfl | rfl := hi <;> cases ht
  · refine .inl ⟨by simp, ?_⟩
    split
    · exact engView_ite (withOp_engView vecView_blind.toBlind fun r _ => vsetvlOp_engView vecView_blind) rfl
    · rfl
  · exact .inl ⟨by simp, hreg vint_onRegisters⟩
  · exact .inl ⟨by simp, hreg vcmp_onRegisters⟩
  · exact .inl ⟨by simp, hreg vmask_onRegisters⟩
  · exact .inl ⟨by simp, hreg vcvt_onRegisters⟩
  · exact .inl ⟨by simp, hreg vld_onRegisters⟩
  · exact .inl ⟨by simp, hreg vflt_onRegisters⟩
  · exact .inl ⟨by simp, hreg vperm_onRegisters⟩
  · exact .inl ⟨by simp, hreg (vfun_onRegisters ..)⟩
  · exact .inl ⟨by simp, hreg (vfun_onRegisters ..)⟩
  · exact .inl ⟨by simp, hreg (vfun_onRegisters ..)⟩
  · exact .inl ⟨by simp, hreg vred_onRegisters⟩
  · exact .inr (.inl ⟨rfl, withOp_engView vaccView_blind.toBlind fun r _ => vaccOp_engView vaccView_blind vaccView_arrBlind⟩)
  · refine .inr (.inr ⟨rfl, ?_⟩)
    cases ho : opOf s c.val 4 0x26 with
    | none => exact ⟨none, by simp, by rw [withOp, ho]⟩
    | some r =>
      refine ⟨operand s c.val r.item.desc 3, fun q hq => by rw [Option.some.inj hq], ?_⟩
      refine withOp_engView (vstView_blind _).toBlind fun q hq => ?_
      cases Option.some.inj (ho.symm.trans hq)
      exact vstOp_engView (hloc rfl r ho) (vstView_blind _)

/-- Settles O20: each operation changes what its view does not show. -/
theorem vectorFrame : Obligations.VectorFrame := by
  intro c s t i hi hloc ht
  obtain ⟨hne, hv⟩ | ⟨rfl, hv⟩ | ⟨rfl, o, ho, hv⟩ := exec_vector_views hi hloc ht
  · have hspad := congrArg Core.spad (engView_own hv)
    have harr := congrArg Core.arrays (engView_own hv)
    have hown := congrArg (vecPatch (t.core c.val)) (engView_own hv)
    exact ⟨engView_others hv, engView_frame hv, fun r b h => absurd h hne, t.core c.val, hown,
      fun _ => hspad, fun _ => harr⟩
  · have hspad := congrArg Core.spad (engView_own hv)
    have hown := congrArg (vecPatch (t.core c.val)) (engView_own hv)
    exact ⟨engView_others hv, engView_frame hv, fun r b h => (nomatch h), t.core c.val, hown,
      fun _ => hspad, fun h => absurd rfl h⟩
  · have hown := congrArg (·.1) (engView_own hv)
    have hbytes := congrArg (·.2) (engView_own hv)
    have harr := congrArg Core.arrays hown
    have hpatch := congrArg (vecPatch (t.core c.val)) hown
    refine ⟨engView_others hv, engView_frame hv, fun r b _ hr hb => congrFun hbytes ⟨b, fun y hy => ?_⟩, t.core c.val,
      hpatch, fun h => absurd rfl h, fun _ => harr⟩
    exact hb y ((ho r hr).trans hy)

end Sys2Proof.Machine
end

section
/-! PROOFS. Elements of vector registers, bit by bit, and what a masked write of a group leaves of them. -/
namespace Sys2Proof.Machine

/-! ### Widths -/

theorem fmtBits_cases {f : Nat} (hf : f ≠ 9) : fmtBits f = 32 ∨ fmtBits f = 16 ∨ fmtBits f = 8 ∨ fmtBits f = 6 ∨ fmtBits f = 4 ∨ fmtBits f = 2 := by
  unfold fmtBits
  split_ifs <;> simp

theorem fmtBits_pos {f : Nat} (hf : f ≠ 9) : 0 < fmtBits f := by
  obtain h | h | h | h | h | h := fmtBits_cases hf <;> omega

theorem fmtBytes_eq {f : Nat} (hf : f ≠ 9) (n : Nat) : fmtBytes f n = cdiv (fmtBits f * n) 8 := by rw [fmtBytes, if_neg hf]

/-- The byte of a bit of an element that a group of `n` elements has. -/
theorem elem_byte_lt {f n i b : Nat} (hf : f ≠ 9) (hi : i < n) (hb : b < fmtBits f) : (fmtBits f * i + b) / 8 < fmtBytes f n := by
  have h1 : fmtBits f * i + fmtBits f ≤ fmtBits f * n := by rw [← Nat.mul_succ]; exact Nat.mul_le_mul_left _ hi
  rw [fmtBytes_eq hf, cdiv]
  omega

theorem elem_index {w i b : Nat} (hb : b < w) : (w * i + b) / w = i ∧ (w * i + b) % w = b := by
  rw [Nat.mul_add_div (by omega), Nat.div_eq_of_lt hb, Nat.mul_add_mod, Nat.mod_eq_of_lt hb]
  exact ⟨rfl, rfl⟩

/-! ### Bits of elements -/

/-- Bit `k` of four bytes, the least first. -/
theorem word_testBit (b0 b1 b2 b3 : Byte) {k : Nat} (hk : k < 32) :
    (b0.toNat + 256 * b1.toNat + 65536 * b2.toNat + 16777216 * b3.toNat).testBit k =
      ((if k / 8 = 0 then b0 else if k / 8 = 1 then b1 else if k / 8 = 2 then b2 else b3).getLsbD (k % 8)) := by
  have h0 := b0.isLt
  have h1 := b1.isLt
  have h2 := b2.isLt
  have he : b0.toNat + 256 * b1.toNat + 65536 * b2.toNat + 16777216 * b3.toNat = 2 ^ 8 * (2 ^ 8 * (2 ^ 8 * b3.toNat + b2.toNat) + b1.toNat) + b0.toNat := by omega
  rw [he, Nat.testBit_two_pow_mul_add _ h0]
  by_cases hk0 : k < 8
  · rw [if_pos hk0, if_pos (by omega), Nat.mod_eq_of_lt hk0]
    rfl
  rw [if_neg hk0, if_neg (by omega), Nat.testBit_two_pow_mul_add _ h1]
  by_cases hk1 : k - 8 < 8
  · rw [if_pos hk1, if_pos (by omega), show k % 8 = k - 8 by omega]
    rfl
  rw [if_neg hk1, if_neg (by omega), Nat.testBit_two_pow_mul_add _ h2]
  by_cases hk2 : k - 8 - 8 < 8
  · rw [if_pos hk2, if_pos (by omega), show k % 8 = k - 8 - 8 by omega]
    rfl
  · rw [if_neg hk2, if_neg (by omega), show k % 8 = k - 8 - 8 - 8 by omega]
    rfl

theorem ite_fourth (rd : Nat → Byte) (a : Nat) {k : Nat} (hk : k < 4) :
    (if k = 0 then rd a else if k = 1 then rd (a + 1) else if k = 2 then rd (a + 2) else rd (a + 3)) = rd (k + a) := by
  interval_cases k <;> simp [Nat.add_comm]

theorem elemCode_testBit {rd : Nat → Byte} {f : Nat} (hf : f ≠ 9) (i b : Nat) :
    (elemCode rd f i).testBit b = (decide (b < fmtBits f) && (rd ((fmtBits f * i + b) / 8)).getLsbD ((fmtBits f * i + b) % 8)) := by
  unfold elemCode
  rw [if_neg hf]
  extract_lets w lo v
  rw [Nat.testBit_mod_two_pow, Nat.testBit_div_two_pow]
  by_cases hb : b < w
  · have hlo : lo % 8 + b < 32 := by
      change fmtBits f * i % 8 + b < 32
      change b < fmtBits f at hb
      obtain h | h | h | h | h | h := fmtBits_cases hf <;> rw [h] at hb ⊢ <;> omega
    rw [word_testBit _ _ _ _ (by rwa [Nat.add_comm])]
    rw [ite_fourth rd (lo / 8) (by omega), show (b + lo % 8) / 8 + lo / 8 = (lo + b) / 8 by omega, show (b + lo % 8) % 8 = (lo + b) % 8 by omega,
      decide_eq_true hb, Bool.true_and]
  · rw [decide_eq_false hb, Bool.false_and, Bool.false_and]

theorem elemCode_lt {rd : Nat → Byte} {f : Nat} (hf : f ≠ 9) (i : Nat) : elemCode rd f i < 2 ^ fmtBits f := by
  unfold elemCode
  rw [if_neg hf]
  exact Nat.mod_lt _ (Nat.two_pow_pos _)

/-- An element is what its bits are. -/
theorem elemCode_eq_of_bits {rd : Nat → Byte} {f i v : Nat} (hf : f ≠ 9)
    (h : ∀ b, b < fmtBits f → (rd ((fmtBits f * i + b) / 8)).getLsbD ((fmtBits f * i + b) % 8) = v.testBit b) : elemCode rd f i = v % 2 ^ fmtBits f := by
  refine Nat.eq_of_testBit_eq fun b => ?_
  rw [elemCode_testBit hf, Nat.testBit_mod_two_pow]
  by_cases hb : b < fmtBits f
  · rw [h b hb]
  · simp [hb]

theorem fieldsFold_testBit {w : Nat} (hw : 0 < w) (cs : List Nat) (k : Nat) :
    (cs.foldr (fun c a => c % 2 ^ w + 2 ^ w * a) 0).testBit k = (cs.getD (k / w) 0).testBit (k % w) := by
  induction cs generalizing k with
  | nil => simp
  | cons c cs ih =>
    rw [List.foldr_cons, Nat.add_comm, Nat.testBit_two_pow_mul_add _ (Nat.mod_lt _ (Nat.two_pow_pos _))]
    by_cases hk : k < w
    · rw [if_pos hk, Nat.testBit_mod_two_pow, Nat.div_eq_of_lt hk, Nat.mod_eq_of_lt hk]
      simp [hk]
    · obtain ⟨m, rfl⟩ : ∃ m, k = m + w := ⟨k - w, by omega⟩
      rw [if_neg hk, Nat.add_sub_cancel, ih, Nat.add_div_right _ hw, Nat.add_mod_right]
      rfl

theorem leBytes_getD (n v j : Nat) (hj : j < n) : (leBytes n v).getD j 0#8 = BitVec.ofNat 8 (v / 256 ^ j) := by
  induction n generalizing v j with
  | zero => omega
  | succ n ih =>
    cases j with
    | zero => simp [leBytes]
    | succ j =>
      rw [leBytes, List.getD_cons_succ, ih _ _ (by omega), Nat.div_div_eq_div_mul, Nat.pow_succ, Nat.mul_comm]

theorem packElems_bit {f : Nat} (hf : f ≠ 9) (cs : List Nat) {j b : Nat} (hj : j < fmtBytes f cs.length) (hb : b < 8) :
    (byteAt (packElems f cs) j).getLsbD b = (cs.getD ((8 * j + b) / fmtBits f) 0).testBit ((8 * j + b) % fmtBits f) := by
  rw [fmtBytes_eq hf] at hj
  rw [byteAt, packElems, if_neg hf, leBytes_getD _ _ _ hj, BitVec.getLsbD_ofNat, show 256 = 2 ^ 8 from rfl, ← Nat.pow_mul, Nat.testBit_div_two_pow,
    fieldsFold_testBit (fmtBits_pos hf), Nat.add_comm b]
  simp [hb]

/-- An element that was packed. -/
theorem elemCode_packElems {f : Nat} (hf : f ≠ 9) (cs : List Nat) {i : Nat} (hi : i < cs.length) :
    elemCode (byteAt (packElems f cs)) f i = cs.getD i 0 % 2 ^ fmtBits f := by
  refine elemCode_eq_of_bits hf fun b hb => ?_
  rw [packElems_bit hf cs (elem_byte_lt hf hi hb) (Nat.mod_lt _ (by decide)), Nat.div_add_mod, (elem_index hb).1, (elem_index hb).2]

/-! ### Masked bytes -/

/-- A selected bit. -/
def selBit (e : Sel) (old new : Bool) : Bool :=
  match e with
  | .new => new
  | .keep => old
  | .zero => false

theorem mergeBits_bit {f : Nat} (hf : f ≠ 9) (sel : Nat → Sel) (j : Nat) (old new : Byte) {b : Nat} (hb : b < 8) :
    (mergeBits (fmtBits f) sel j old new).getLsbD b = selBit (sel ((8 * j + b) / fmtBits f)) (old.getLsbD b) (new.getLsbD b) := by
  unfold mergeBits
  split
  next hw =>
    have hidx : (8 * j + b) / fmtBits f = 8 * j / fmtBits f := by
      obtain h | h | h | h | h | h := fmtBits_cases hf <;> rw [h] at hw ⊢ <;> omega
    rw [hidx]
    cases sel (8 * j / fmtBits f) <;> simp [selBit]
  next =>
    have hm : ∀ b ∈ List.range 8, (match sel ((8 * j + b) / fmtBits f) with
        | .new => if new.getLsbD b then 2 ^ b else 0
        | .keep => if old.getLsbD b then 2 ^ b else 0
        | .zero => 0) = if selBit (sel ((8 * j + b) / fmtBits f)) (old.getLsbD b) (new.getLsbD b) then 2 ^ b else 0 := fun b _ => by
      generalize sel ((8 * j + b) / fmtBits f) = e
      cases e
      · rfl
      · rfl
      · rfl
    refine (congrArg (fun n => (BitVec.ofNat 8 (sumN n)).getLsbD b) (List.map_congr_left hm)).trans ?_
    refine (BitVec.getLsbD_ofNat ..).trans ?_
    have hs := maskSum_testBit (fun b => selBit (sel ((8 * j + b) / fmtBits f)) (old.getLsbD b) (new.getLsbD b)) 8 b
    rw [maskSum] at hs
    rw [hs]
    simp [hb]

/-! ### Registers -/

section
variable {c : Nat} {s t : State} {r : RunOp}

theorem vByte_vSetBytes {k : Core} {v o i : Nat} {bs : List Byte} (hi : vBytes c * v + i < 32 * vBytes c) :
    vByte (vSetBytes k c v o bs) c v i = if o ≤ i ∧ i < o + bs.length then bs.getD (i - o) 0#8 else vByte k c v i := by
  simp only [vByte, if_pos hi, vSetBytes, mget_mwrite, List.length_take]
  by_cases h : o ≤ i ∧ i < o + bs.length
  · rw [if_pos h, if_pos (by omega), show vBytes c * v + i - (vBytes c * v + o) = i - o by omega, List.getD_eq_getElem?_getD,
      List.getElem?_take_of_lt (by omega), List.getD_eq_getElem?_getD]
  · rw [if_neg h, if_neg (by omega)]

theorem ternReport_vreg (b : Bool) : ((ternReport s c r b).core c).vreg = (s.core c).vreg := by
  have h := congrArg Core.vreg (engView_own (ternReport_engView (h := false) (c := c) (s := s) flagView_blind r b))
  exact h

theorem setSticky_vreg (f : BitVec 32) : ((setSticky s c f).core c).vreg = (s.core c).vreg := by
  unfold setSticky
  split <;> simp

theorem vByte_of_vreg {k x : Core} (h : k.vreg = x.vreg) (v i : Nat) : vByte k c v i = vByte x c v i := by simp only [vByte, h]

theorem vElem_of_vreg {k x : Core} (h : k.vreg = x.vreg) (v f i : Nat) : vElem k c v f i = vElem x c v f i := by
  simp only [vElem, show vByte k c v = vByte x c v from funext fun j => vByte_of_vreg h v j]

/-- What a masked write of whole elements leaves in each byte of its group (R191). -/
theorem vWrite_vByte {src : State} {v f n m i : Nat} {new : List Byte} (hi : vBytes c * v + i < 32 * vBytes c) :
    vByte ((vWrite src c r v f 0 n m new s).core c) c v i = if i < new.length then
      (mergeByte f (vSel (src.core c) r.item.desc n m) i (vByte (s.core c) c v i) (byteAt new i)).1 else vByte (s.core c) c v i := by
  unfold vWrite
  extract_lets k o bs
  have ho : o = 0 := by simp [o]
  rw [vByte_of_vreg (ternReport_vreg _), State.mapCore_core_same, vByte_vSetBytes hi, ho]
  have hl : (bs.map (·.1)).length = new.length := by simp [bs]
  rw [hl]
  by_cases h : i < new.length
  · rw [if_pos (by omega), if_pos h]
    simp [bs, List.getD, h, k, ho]
  · rw [if_neg (by omega), if_neg h]

/-- The destination group of `n` elements lies in the register file. -/
def GroupIn (c v f n : Nat) : Prop := vBytes c * v + fmtBytes f n ≤ 32 * vBytes c

/-- What a masked write leaves in each element of its group: the new one where it is active, else the old one or zero (R191). -/
theorem vWrite_vElem {src : State} {v f n m i : Nat} {new : List Byte} (hf : f ≠ 9) (hin : GroupIn c v f n) (hlen : fmtBytes f n ≤ new.length) (hi : i < n) :
    vElem ((vWrite src c r v f 0 n m new s).core c) c v f i = if vActive (src.core c) r.item.desc i then elemCode (byteAt new) f i
      else if dPb r.item.desc 27 then 0 else vElem (s.core c) c v f i := by
  have hbit (b : Nat) (hb : b < fmtBits f) : (vByte ((vWrite src c r v f 0 n m new s).core c) c v ((fmtBits f * i + b) / 8)).getLsbD ((fmtBits f * i + b) % 8) =
      selBit (vSel (src.core c) r.item.desc n m i) ((vByte (s.core c) c v ((fmtBits f * i + b) / 8)).getLsbD ((fmtBits f * i + b) % 8))
        ((byteAt new ((fmtBits f * i + b) / 8)).getLsbD ((fmtBits f * i + b) % 8)) := by
    have hlt := elem_byte_lt hf hi hb
    rw [GroupIn] at hin
    rw [vWrite_vByte (by omega), if_pos (by omega), mergeByte, if_neg hf, mergeBits_bit hf _ _ _ _ (Nat.mod_lt _ (by decide)), Nat.div_add_mod, (elem_index hb).1]
  have hsel : vSel (src.core c) r.item.desc n m i = if vActive (src.core c) r.item.desc i then .new else if dPb r.item.desc 27 then .zero else .keep := by
    rw [vSel, if_neg (by omega)]
  have hcopy (rd : Nat → Byte) (h : ∀ b, b < fmtBits f → (vByte ((vWrite src c r v f 0 n m new s).core c) c v ((fmtBits f * i + b) / 8)).getLsbD
      ((fmtBits f * i + b) % 8) = (rd ((fmtBits f * i + b) / 8)).getLsbD ((fmtBits f * i + b) % 8)) :
      vElem ((vWrite src c r v f 0 n m new s).core c) c v f i = elemCode rd f i := by
    refine Nat.eq_of_testBit_eq fun b => ?_
    rw [vElem, elemCode_testBit hf, elemCode_testBit hf]
    by_cases hb : b < fmtBits f
    · rw [h b hb]
    · simp [hb]
  rw [hsel] at hbit
  by_cases ha : vActive (src.core c) r.item.desc i
  · rw [if_pos ha] at hbit ⊢
    exact hcopy _ hbit
  rw [if_neg ha] at hbit ⊢
  by_cases hz : dPb r.item.desc 27
  · rw [if_pos hz] at hbit ⊢
    rw [vElem, elemCode_eq_of_bits (v := 0) hf fun b hb => by rw [hbit b hb]; simp [selBit]]
    exact Nat.zero_mod _
  · rw [if_neg hz] at hbit ⊢
    exact hcopy _ hbit

end

end Sys2Proof.Machine
end

section
/-! PROOFS. Results of the vector engine on registers and masks (O16, O17). -/
namespace Sys2Proof.Machine

section
variable {c : Nat} {s t : State} {r : RunOp}

theorem Performs.opcode {e o : Nat} (h : Performs s c e o r) : dOpcode r.item.desc = o := by
  have hp := List.find?_some h.1
  simp only [Bool.and_eq_true, beq_iff_eq] at hp
  exact hp.1.1.2

theorem Performs.engine {e o : Nat} (h : Performs s c e o r) : r.eng = e := by
  have hp := List.find?_some h.1
  simp only [Bool.and_eq_true, beq_iff_eq] at hp
  exact hp.1.1.1

theorem vCount_eq {e o : Nat} (h : Performs s c e o r) (ho : o ≠ 0x23) : vCount c r = vElems c r.item.desc r.vl := by
  rw [vCount, h.opcode, if_neg ho]

/-! ### Groups -/

theorem groupIn_of {v f n l : Nat} (hf : f ≠ 9) (hn : fmtBits f * n ≤ l * (32 * lanes c)) (hv : v + l ≤ 32) : GroupIn c v f n := by
  have hv' : vBytes c * (v + l) ≤ vBytes c * 32 := Nat.mul_le_mul_left _ hv
  have hb : l * (32 * lanes c) = 8 * (vBytes c * l) := by rw [vBytes, ← Nat.mul_assoc]; ring
  rw [Nat.mul_add, Nat.mul_comm _ 32] at hv'
  rw [GroupIn, fmtBytes_eq hf, cdiv]
  rw [hb] at hn
  omega

theorem vElems_bits {d : Desc} {f : Nat} (hd : vEfmt d = f) (hf : f ≠ 9) (vl : Nat) : fmtBits f * vElems c d vl ≤ vGrp d * (32 * lanes c) := by
  have hpos := fmtBits_pos hf
  have hw : width10 (dP d 41 37) = 10 * fmtBits f := by
    change width10 (vEfmt d) = _
    rw [hd, width10, if_neg hf]
  have hle : vElems c d vl ≤ vGrp d * 320 * lanes c / (10 * fmtBits f) := by
    rw [vElems]
    simp only [hw]
    rw [if_neg (by omega)]
    exact Nat.min_le_right _ _
  have hmul := (Nat.le_div_iff_mul_le (by omega)).1 hle
  have h1 : vElems c d vl * (10 * fmtBits f) = 10 * (fmtBits f * vElems c d vl) := by ring
  have h2 : vGrp d * 320 * lanes c = 10 * (vGrp d * (32 * lanes c)) := by ring
  omega

theorem grpOk_le {v l : Nat} (h : grpOk v l = true) : v + l ≤ 32 := by
  simp only [grpOk, Bool.and_eq_true, decide_eq_true_eq] at h
  exact h.2

/-- The destination group of an operation whose elements have its own format. -/
theorem groupIn_own {d : Desc} {f v : Nat} (hd : vEfmt d = f) (hf : f ≠ 9) (hg : grpOk v (vGrp d) = true) (vl : Nat) : GroupIn c v f (vElems c d vl) :=
  groupIn_of hf (vElems_bits hd hf vl) (grpOk_le hg)

theorem grpsOk_mem {d : Desc} {vs : List Nat} (h : grpsOk d vs = true) {v : Nat} (hv : v ∈ vs) : grpOk v (vGrp d) = true := List.all_eq_true.1 h v hv

/-! ### Whole operations -/

/-- An operation whose checks hold performs its effect. -/
theorem VxDef.op_part {x : VxDef} (hchk : x.chk s c r = (false, false, false)) (hr : dReserved r.item.desc = false) : x.op c r s = x.part s (vWhole c r) c r s := by
  simp [VxDef.op, VxDef.bad, VxDef.start, vFault, hchk, hr]

theorem VWrites.of_vreg {u : State} {d : Desc} {f n : Nat} {g : Nat → Nat} (h : VWrites s t c d f n g) (hu : (u.core c).vreg = (t.core c).vreg) :
    VWrites s u c d f n g := fun i hi => by rw [vElem_of_vreg hu]; exact h i hi

@[simp] theorem opDone_vreg (e o : Nat) : ((opDone s c e o).core c).vreg = (s.core c).vreg := by simp [opDone, opDoneSt]

theorem vWhole_range : (vWhole c r).hi - (vWhole c r).lo = vCount c r := Nat.sub_zero _

/-- A masked write of packed elements (R191). -/
theorem vWritePacked_writes {z : State} {f n m : Nat} {cs : List Nat} {g : Nat → Nat} (hf : f ≠ 9) (hin : GroupIn c (vD r.item.desc) f n) (hl : cs.length = n)
    (hz : (z.core c).vreg = (s.core c).vreg) (hcs : ∀ i, i < n → vActive (s.core c) r.item.desc i = true → cs.getD i 0 = g i) :
    VWrites s (vWrite s c r (vD r.item.desc) f 0 n m (packElems f cs) z) c r.item.desc f n g := by
  intro i hi
  rw [vWrite_vElem hf hin (by rw [packElems_length, hl]) hi, vElem_of_vreg hz, elemCode_packElems hf _ (by rwa [hl])]
  by_cases ha : vActive (s.core c) r.item.desc i = true
  · rw [if_pos ha, if_pos ha, hcs i hi ha]
  · rw [if_neg ha, if_neg ha]

/-- An operation on each active element of a group (R191). -/
theorem vMap_writes {f n : Nat} {g : Core → Nat → NR} (hf : f ≠ 9) (hn : vCount c r = n) (hin : GroupIn c (vD r.item.desc) f n) :
    VWrites s (vMap s (vWhole c r) c r f g s) c r.item.desc f n fun i => (g (s.core c) i).v := by
  subst hn
  exact vWritePacked_writes hf hin (by simp [vWhole]) (setSticky_vreg _) fun i hi ha => by simp [vWhole, hi, ha]

end

/-! ### Integers, comparisons and masks -/

section
variable {c : Nat} {s t : State} {r : RunOp} {f n : Nat}

/-- The bytes of a group's elements that a move copies are those elements. -/
theorem elemCode_vMoved {k : Core} {v i : Nat} (hf : f ≠ 9) (hi : i < n) : elemCode (byteAt (vMoved k c v f 0 n)) f i = vElem k c v f i := by
  refine Nat.eq_of_testBit_eq fun b => ?_
  rw [vElem, elemCode_testBit hf, elemCode_testBit hf]
  by_cases hb : b < fmtBits f
  · have hlt := elem_byte_lt hf hi hb
    simp [vMoved, byteAt, hlt, hb]
  · simp [hb]

theorem vMoved_length (k : Core) (v : Nat) : (vMoved k c v f 0 n).length = fmtBytes f n := by simp [vMoved]

theorem vElem_lt (k : Core) (v : Nat) (hf : f ≠ 9) (i : Nat) : vElem k c v f i < 2 ^ fmtBits f := elemCode_lt hf i

/-- A masked copy of a group. -/
theorem vMove_writes (hf : f ≠ 9) {v : Nat} (hin : GroupIn c (vD r.item.desc) f n) :
    VWrites s (vWrite s c r (vD r.item.desc) f 0 n 0 (vMoved (s.core c) c v f 0 n) s) c r.item.desc f n fun i => vElem (s.core c) c v f i := by
  intro i hi
  rw [vWrite_vElem hf hin (vMoved_length _ _).ge hi, elemCode_vMoved hf hi, Nat.mod_eq_of_lt (vElem_lt _ _ hf i)]

theorem vint_chk (hb : (decide (0xC < vFunc r.item.desc) || if vFunc r.item.desc ≤ 0xA then
      !(vEfmt r.item.desc == 4 || vEfmt r.item.desc == 5 || vEfmt r.item.desc == 6) else fmtReserved (vEfmt r.item.desc)) = false)
    (hg : ∀ v, (v = vA r.item.desc ∧ ¬ (vFunc r.item.desc = 0xB ∧ vBsc r.item.desc)) ∨ (v = vB r.item.desc ∧ vFunc r.item.desc ≤ 0xA ∧ !vBsc r.item.desc) ∨
      (v = vD r.item.desc ∧ vFunc r.item.desc ≠ 0xC) → grpOk v (vGrp r.item.desc) = true) : vintDef.chk s c r = (false, false, false) := by
  have hgrp : grpsOk r.item.desc ((if vFunc r.item.desc = 0xB ∧ vBsc r.item.desc then [] else [vA r.item.desc]) ++
      (if vFunc r.item.desc ≤ 0xA ∧ !vBsc r.item.desc then [vB r.item.desc] else []) ++ (if vFunc r.item.desc = 0xC then [] else [vD r.item.desc])) = true := by
    refine List.all_eq_true.2 fun v hv => hg v ?_
    simp only [List.mem_append] at hv
    obtain (hv | hv) | hv := hv
    · split at hv
      · cases hv
      next h => exact .inl ⟨List.mem_singleton.1 hv, h⟩
    · split at hv
      next h => exact .inr (.inl ⟨List.mem_singleton.1 hv, h⟩)
      · cases hv
    · split at hv
      · cases hv
      next h => exact .inr (.inr ⟨List.mem_singleton.1 hv, h⟩)
  simp only [vintDef, hb, hgrp]
  rfl

theorem vint_part_arith (h : vFunc r.item.desc ≤ 0xA) (p : VPart) : vintDef.part s p c r s = vMap s p c r (vEfmt r.item.desc)
    (fun k i => vintElem (vFunc r.item.desc) (vEfmt r.item.desc) (dWrap r.item.desc) (vElem k c (vA r.item.desc) (vEfmt r.item.desc) i)
      (vOpB k c r (vEfmt r.item.desc) i)) s := by
  simp only [vintDef]
  rw [if_neg (by omega), if_neg (by omega), if_neg (by omega)]

theorem vint_part_move (h : vFunc r.item.desc = 0xB) (hb : vBsc r.item.desc = false) (p : VPart) : vintDef.part s p c r s =
    vWrite s c r (vD r.item.desc) (vEfmt r.item.desc) p.lo (vCount c r) 0 (vMoved (s.core c) c (vA r.item.desc) (vEfmt r.item.desc) p.lo p.hi) s := by
  simp [vintDef, h, hb]

theorem vint_part_splat (h : vFunc r.item.desc = 0xB) (hb : vBsc r.item.desc = true) (p : VPart) : vintDef.part s p c r s =
    vMap s p c r (vEfmt r.item.desc) (fun k i => ⟨vOpB k c r (vEfmt r.item.desc) i, flNone⟩) s := by
  simp [vintDef, h, hb]

theorem vint_part_scalar (h : vFunc r.item.desc = 0xC) (hn : 0 < vCount c r) (ha : vActive (s.core c) r.item.desc 0 = true) :
    vintDef.part s (vWhole c r) c r s = engSreg s c r (dP r.item.desc 25 21) (BitVec.ofNat 32 (vElem (s.core c) c (vA r.item.desc) (vEfmt r.item.desc) 0)) := by
  simp [vintDef, h, ha, vWhole]
  omega

/-- A fold whose step `i` changes the entry of key `b + i` only. -/
theorem foldl_fget_local {α : Type} {d : α} {b : Nat} {w : Nat → α → α} {step : FMap α → Nat → FMap α}
    (h : ∀ m i j, fget (step m i) d j = if j = b + i then w i (fget m d (b + i)) else fget m d j) (m : FMap α) (n i : Nat) :
    fget ((List.range n).foldl step m) d (b + i) = if i < n then w i (fget m d (b + i)) else fget m d (b + i) := by
  induction n with
  | zero => rfl
  | succ n ih =>
    rw [List.range_succ, List.foldl_append, List.foldl_cons, List.foldl_nil, h]
    by_cases hi : i = n
    · subst hi
      rw [if_pos rfl, if_pos (by omega), ih, if_neg (by omega)]
    · rw [if_neg (by omega), ih]
      by_cases hlt : i < n
      · rw [if_pos hlt, if_pos (by omega)]
      · rw [if_neg hlt, if_neg (by omega)]

/-- The masks after a masked write of bits (R191, R201). -/
theorem mWrite_mBit {src : State} {d : Desc} {m : Nat} {bs : List Bool} {i : Nat} (hi : i < bs.length) :
    mBit ((mWrite src c d m 0 bs s).core c) m i = if vActive (src.core c) d i then bs.getD i false
      else if dPb d 27 then false else mBit (s.core c) m i := by
  have h := foldl_fget_local (d := false) (b := 4096 * m) (w := fun i x => if vActive (src.core c) d i then bs.getD i false else if dPb d 27 then false else x)
    (step := fun r i => if vActive (src.core c) d (0 + i) then fset r false (4096 * m + 0 + i) (bs.getD i false)
      else if dPb d 27 then fset r false (4096 * m + 0 + i) false else r) (fun r i j => ?_) (s.core c).mreg bs.length i
  · rw [if_pos hi] at h
    rw [mWrite, mBit, State.mapCore_core_same]
    exact h
  · simp only [Nat.zero_add, Nat.add_zero]
    split
    · exact fget_fset ..
    split
    · exact fget_fset ..
    · split
      next h => rw [h]
      · rfl

theorem mBit_of_mreg {k x : Core} (h : k.mreg = x.mreg) (m i : Nat) : mBit k m i = mBit x m i := by simp only [mBit, h]

theorem setSticky_mreg (f : BitVec 32) : ((setSticky s c f).core c).mreg = (s.core c).mreg := by
  unfold setSticky
  split <;> simp

@[simp] theorem opDone_mreg (e o : Nat) : ((opDone s c e o).core c).mreg = (s.core c).mreg := by simp [opDone, opDoneSt]

@[simp] theorem opDone_sldPend (e o : Nat) : ((opDone s c e o).core c).sldPend = (s.core c).sldPend := by simp [opDone, opDoneSt]

@[simp] theorem opDone_vl (e o : Nat) : ((opDone s c e o).core c).vl = (s.core c).vl ∧ ((opDone s c e o).core c).vlClamps = (s.core c).vlClamps := by
  simp [opDone, opDoneSt]

theorem vcmp_part_mBit {i : Nat} (hi : i < vCount c r) : mBit ((vcmpDef.part s (vWhole c r) c r s).core c) (dP r.item.desc 61 59) i =
    if vActive (s.core c) r.item.desc i then (vcmpElem (vFunc r.item.desc) (vEfmt r.item.desc) (ftzOf s c)
      (vElem (s.core c) c (vA r.item.desc) (vEfmt r.item.desc) i) (vOpB (s.core c) c r (vEfmt r.item.desc) i)).1
    else if dPb r.item.desc 27 then false else mBit (s.core c) (dP r.item.desc 61 59) i := by
  simp only [vcmpDef]
  rw [mBit_of_mreg (setSticky_mreg _)]
  refine (mWrite_mBit (by simpa [vWhole] using hi)).trans ?_
  by_cases ha : vActive (s.core c) r.item.desc i
  · simp [ha, vWhole, hi]
  · rw [if_neg ha, if_neg ha]

theorem vmask_part_mBit {i : Nat} (hi : i < vCount c r) : mBit ((vmaskDef.part s (vWhole c r) c r s).core c) (dP r.item.desc 61 59) i =
    if vActive (s.core c) r.item.desc i then vmaskBit (vFunc r.item.desc) (mBit (s.core c) (dP r.item.desc 56 54) i) (mBit (s.core c) (dP r.item.desc 51 49) i)
    else if dPb r.item.desc 27 then false else mBit (s.core c) (dP r.item.desc 61 59) i := by
  simp only [vmaskDef]
  refine (mWrite_mBit (by simpa [vWhole] using hi)).trans ?_
  by_cases ha : vActive (s.core c) r.item.desc i
  · simp [ha, vWhole, hi]
  · rw [if_neg ha, if_neg ha]

end

/-- Settles O16. -/
theorem vectorIntegerResults : Obligations.VectorIntegerResults := by
  intro c s r d k f n src hres
  refine ⟨?vsetvl, ?arith, ?move, ?scalar, ?cmp, ?mask⟩
  case vsetvl =>
    intro h hlat
    have hex : exec (.vsetvl c) s = .next (withOp s c.val 4 0x20 (vsetvlOp c.val)) := by
      change execVsetvl c s = _
      simp only [execVsetvl, h.1, if_pos hlat]
    refine ⟨_, hex.trans (congrArg Host.Outcome.next (withOp_some s _ _ _ _ r h)), ?_, ?_⟩
    · rw [(opDone_vl _ _).1, vsetvlOp, State.mapCore_core_same]
    · rw [(opDone_vl _ _).2, vsetvlOp, State.mapCore_core_same]
      change (if 32 * lanes c.val < src then sat32 k.vlClamps else k.vlClamps) = _
      rcases Nat.lt_or_ge (32 * lanes c.val) src with h1 | h1
      · rw [if_pos h1, if_neg (Nat.not_le.2 h1)]
        rfl
      · rw [if_neg (Nat.not_lt.2 h1), if_pos h1]
  case arith =>
    intro h hfn hf hg
    have hf9 : f ≠ 9 := by rintro h9; rw [h9] at hf; simp at hf
    have hchk : vintDef.chk s c.val r = (false, false, false) := by
      refine vint_chk ?_ fun v hv => ?_
      · have hfn : vFunc r.item.desc ≤ 0xA := hfn
        rw [if_pos hfn, decide_eq_false (by omega)]
        obtain h4 | h5 | h6 := (by simpa using hf : f = 4 ∨ f = 5 ∨ f = 6) <;> simp [f, d] at * <;> simp [*]
      · refine grpsOk_mem hg ?_
        simp only [d]
        rcases hv with ⟨rfl, -⟩ | ⟨rfl, -, hb⟩ | ⟨rfl, -⟩
        · simp
        · simp at hb
          simp [hb]
        · simp
    refine ⟨_, congrArg Host.Outcome.next (withOp_some s _ _ _ _ r h), VWrites.of_vreg ?_ (opDone_vreg _ _)⟩
    rw [VxDef.op_part hchk hres, vint_part_arith hfn]
    exact vMap_writes hf9 (vCount_eq h (by decide)) (groupIn_own rfl hf9 (grpsOk_mem hg (by simp [d])) _)
  case move =>
    intro h hfn hres' hf9 hg
    have hfn' : vFunc r.item.desc = 0xB := hfn
    have hchk : vintDef.chk s c.val r = (false, false, false) := by
      refine vint_chk ?_ fun v hv => grpsOk_mem hg ?_
      · rw [hfn', if_neg (by decide)]
        exact hres'
      · simp only [d]
        rcases hv with ⟨rfl, hb⟩ | ⟨-, hle, -⟩ | ⟨rfl, -⟩
        · simp [hfn'] at hb
          simp [hb]
        · omega
        · simp
    have hin : GroupIn c.val (vD r.item.desc) f n := groupIn_own rfl hf9 (grpsOk_mem hg (by simp [d])) _
    refine ⟨_, congrArg Host.Outcome.next (withOp_some s _ _ _ _ r h), VWrites.of_vreg ?_ (opDone_vreg _ _)⟩
    rw [VxDef.op_part hchk hres]
    cases hb : vBsc d with
    | true =>
      rw [vint_part_splat hfn hb]
      exact vMap_writes hf9 (vCount_eq h (by decide)) hin
    | false =>
      rw [vint_part_move hfn hb]
      have hw := vMove_writes (s := s) (r := r) hf9 (v := vA r.item.desc) hin
      have hn : vCount c.val r = n := vCount_eq h (by decide)
      simp only [vWhole, hn]
      exact hw
  case scalar =>
    intro h hfn hres' hg hn ha
    have hfn' : vFunc r.item.desc = 0xC := hfn
    have hcount : vCount c.val r = n := vCount_eq h (by decide)
    have hchk : vintDef.chk s c.val r = (false, false, false) := by
      refine vint_chk ?_ fun v hv => grpsOk_mem hg ?_
      · rw [hfn', if_neg (by decide)]
        exact hres'
      · rcases hv with ⟨rfl, hb⟩ | ⟨-, hle, -⟩ | ⟨-, hne⟩
        · simp [d]
        · omega
        · exact absurd hfn' hne
    refine ⟨_, congrArg Host.Outcome.next (withOp_some s _ _ _ _ r h), ?_⟩
    rw [opDone_sldPend, VxDef.op_part hchk hres, vint_part_scalar hfn (by rw [hcount]; exact hn) ha, engSreg, State.mapCore_core_same, h.engine]
  case cmp =>
    intro h hfn hf h63 hg
    have hgrp : grpsOk r.item.desc ([vA r.item.desc] ++ if vBsc r.item.desc then [] else [vB r.item.desc]) = true := hg
    have hchk : vcmpDef.chk s c.val r = (false, false, false) := by
      have h5 : decide (5 < vFunc r.item.desc) = false := decide_eq_false (Nat.not_lt.2 hfn)
      have hc : cmpFmt (vEfmt r.item.desc) = true := hf
      have h6 : dP r.item.desc 63 62 = 0 := h63
      simp only [vcmpDef, h5, hc, h6, hgrp]
      rfl
    refine ⟨_, congrArg Host.Outcome.next (withOp_some s _ _ _ _ r h), fun i hi => ?_⟩
    rw [mBit_of_mreg (opDone_mreg _ _), VxDef.op_part hchk hres]
    exact vcmp_part_mBit (by rw [vCount_eq h (by decide)]; exact hi)
  case mask =>
    intro h hfn h63 h58 h53 hvl
    have hchk : vmaskDef.chk s c.val r = (false, false, false) := by
      have h7 : decide (7 < vFunc r.item.desc) = false := decide_eq_false (Nat.not_lt.2 hfn)
      simp only [d] at h63 h58 h53
      simp [vmaskDef, h7, h63, h58, h53]
    refine ⟨_, congrArg Host.Outcome.next (withOp_some s _ _ _ _ r h), fun i hi => ?_⟩
    have hcount : vCount c.val r = r.vl := by rw [vCount, if_pos h.opcode]
    rw [mBit_of_mreg (opDone_mreg _ _), VxDef.op_part hchk hres, vmask_part_mBit (by rwa [hcount])]
    refine congrArg (fun b => if vActive k d i then b else if dPb d 27 then false else mBit k (dP d 61 59) i) ?_
    change vmaskBit (vFunc d) (mBit k (dP d 56 54) i) (mBit k (dP d 51 49) i) = _
    generalize vFunc d = fn at hfn ⊢
    interval_cases fn <;> rfl

/-! ### Floating point -/

section
variable {c : Nat} {s : State} {r : RunOp} {ff : FFmt}

theorem vflt_part (hf : fmtFloat (vEfmt r.item.desc) = some ff) (p : VPart) : vfltDef.part s p c r s = vMap s p c r (vEfmt r.item.desc)
    (fun k i => vfltElem (vFunc r.item.desc) ff (ftzOf s c) (vElem k c (vA r.item.desc) (vEfmt r.item.desc) i) (vOpB k c r (vEfmt r.item.desc) i)
      (vElem k c (vC r.item.desc) (vEfmt r.item.desc) i)) s := by simp only [vfltDef, hf]

theorem vfun_part {b : Desc → Bool} {g : Bool → Desc → FFmt → Nat → Nat → NR} (hf : fmtFloat (vEfmt r.item.desc) = some ff) (p : VPart) :
    (vfunDef b g).part s p c r s = vMap s p c r (vEfmt r.item.desc)
      (fun k i => g (ftzOf s c) r.item.desc ff (vElem k c (vA r.item.desc) (vEfmt r.item.desc) i) (vOpB k c r (vEfmt r.item.desc) i)) s := by
  simp only [vfunDef, hf]

theorem vflt_chk (hfn : vFunc r.item.desc ≤ 9) (hf : vEfmt r.item.desc ≤ 3) (hg : grpsOk r.item.desc ([vA r.item.desc, vD r.item.desc] ++
    (if vFunc r.item.desc ≤ 7 ∧ !vBsc r.item.desc then [vB r.item.desc] else []) ++
    if 3 ≤ vFunc r.item.desc ∧ vFunc r.item.desc ≤ 5 then [vC r.item.desc] else []) = true) : vfltDef.chk s c r = (false, false, false) := by
  simp only [vfltDef, decide_eq_false (Nat.not_lt.2 hfn), decide_eq_false (Nat.not_lt.2 hf), hg]
  rfl

theorem vfun_chk {b : Desc → Bool} {g : Bool → Desc → FFmt → Nat → Nat → NR} (hfn : vFunc r.item.desc ≤ 1) (hf : vEfmt r.item.desc ≤ 1)
    (hg : grpsOk r.item.desc ([vA r.item.desc, vD r.item.desc] ++ if b r.item.desc ∧ !vBsc r.item.desc then [vB r.item.desc] else []) = true) :
    (vfunDef b g).chk s c r = (false, false, false) := by
  simp only [vfunDef, decide_eq_false (Nat.not_lt.2 hfn), decide_eq_false (Nat.not_lt.2 hf), hg]
  rfl

/-- A function of one or two operands, element by element (R202). -/
theorem vfun_writes {b : Desc → Bool} {g : Bool → Desc → FFmt → Nat → Nat → NR} {e o : Nat} (h : Performs s c e o r) (ho : o ≠ 0x23)
    (hff : fmtFloat (vEfmt r.item.desc) = some ff) (hres : dReserved r.item.desc = false) (hfn : vFunc r.item.desc ≤ 1) (hf : vEfmt r.item.desc ≤ 1)
    (hg : grpsOk r.item.desc ([vA r.item.desc, vD r.item.desc] ++ if b r.item.desc ∧ !vBsc r.item.desc then [vB r.item.desc] else []) = true) :
    VWrites s (opDone ((vfunDef b g).op c r s) c e o) c r.item.desc (vEfmt r.item.desc) (vElems c r.item.desc r.vl) fun i =>
      (g (ftzOf s c) r.item.desc ff (vElem (s.core c) c (vA r.item.desc) (vEfmt r.item.desc) i) (vOpB (s.core c) c r (vEfmt r.item.desc) i)).v := by
  refine VWrites.of_vreg ?_ (opDone_vreg _ _)
  rw [VxDef.op_part (vfun_chk hfn hf hg) hres, vfun_part hff]
  exact vMap_writes (by omega) (vCount_eq h ho) (groupIn_own rfl (by omega) (grpsOk_mem hg (by simp)) _)

end

/-- Settles O17. -/
theorem vectorFloatResults : Obligations.VectorFloatResults := by
  intro c s r ff d k f n ftz A B hres hff
  refine ⟨?flt, ?rcp, ?exp, ?div⟩
  case flt =>
    intro h hfn hf hg
    refine ⟨_, congrArg Host.Outcome.next (withOp_some s _ _ _ _ r h), VWrites.of_vreg ?_ (opDone_vreg _ _)⟩
    rw [VxDef.op_part (vflt_chk hfn hf hg) hres, vflt_part hff]
    have hf9 : vEfmt r.item.desc ≠ 9 := by have : vEfmt r.item.desc ≤ 3 := hf; omega
    have hw := vMap_writes (s := s) (r := r) (c := c.val) (g := fun k i => vfltElem (vFunc r.item.desc) ff (ftzOf s c.val) (vElem k c.val (vA r.item.desc) (vEfmt r.item.desc) i)
      (vOpB k c.val r (vEfmt r.item.desc) i) (vElem k c.val (vC r.item.desc) (vEfmt r.item.desc) i)) hf9 (vCount_eq h (by decide)) (groupIn_own rfl hf9 (grpsOk_mem hg (by simp [d])) _)
    have he : ∀ fn, (fun i => let C := vElem k c.val (vC d) f i
        (match fn with
          | 0 => fpAdd ff ftz (A i) (B i)
          | 1 => fpSub ff ftz (A i) (B i)
          | 2 => fpMul ff ftz (A i) (B i)
          | 3 => fpFma ff ftz (A i) (B i) C
          | 6 => fpMinMax ff ftz false (A i) (B i)
          | 7 => fpMinMax ff ftz true (A i) (B i)
          | _ => vfltElem fn ff ftz (A i) (B i) C).v) = fun i => (vfltElem fn ff ftz (A i) (B i) (vElem k c.val (vC d) f i)).v := by
      intro fn
      funext i
      split <;> rfl
    exact (he (vFunc d)).symm ▸ hw
  case rcp =>
    intro h hfn hf hg
    exact ⟨_, congrArg Host.Outcome.next (withOp_some s _ _ _ _ r h), vfun_writes h (by decide) hff hres hfn hf (by simpa using hg)⟩
  case exp =>
    intro h hfn hf hg
    exact ⟨_, congrArg Host.Outcome.next (withOp_some s _ _ _ _ r h), vfun_writes h (by decide) hff hres hfn hf (by simpa using hg)⟩
  case div =>
    intro h hfn hf hg
    exact ⟨_, congrArg Host.Outcome.next (withOp_some s _ _ _ _ r h), vfun_writes h (by decide) hff hres hfn hf (by simpa using hg)⟩

end Sys2Proof.Machine
end

section
/-! PROOFS. Permutes, conversions, loads, accumulator views and reductions of the vector engine (O18). -/
namespace Sys2Proof.Machine

section
variable {c : Nat} {s t : State} {r : RunOp} {f n : Nat}

/-! ### Permutes -/

theorem vperm_part (p : VPart) : vpermDef.part s p c r s = vMap s p c r (vEfmt r.item.desc) (fun k i =>
    match permIdx (vFunc r.item.desc) (r.sreg (dP r.item.desc 25 21)).toNat (32 * lanes c / fmtBits (vEfmt r.item.desc))
      (i % (32 * lanes c / fmtBits (vEfmt r.item.desc))) (vOpB k c r (vEfmt r.item.desc) i) with
    | some j => ⟨vElem k c (vA r.item.desc) (vEfmt r.item.desc) (i / (32 * lanes c / fmtBits (vEfmt r.item.desc)) * (32 * lanes c / fmtBits (vEfmt r.item.desc)) + j), flNone⟩
    | none => ⟨0, flNone⟩) s := rfl

theorem vperm_chk (hfn : vFunc r.item.desc ≤ 4) (hf : cmpFmt (vEfmt r.item.desc) = true) (hg : grpsOk r.item.desc ([vA r.item.desc, vD r.item.desc] ++
    if vFunc r.item.desc = 1 ∧ !vBsc r.item.desc then [vB r.item.desc] else []) = true) : vpermDef.chk s c r = (false, false, false) := by
  simp only [vpermDef, decide_eq_false (Nat.not_lt.2 hfn), hf, hg]
  rfl

/-! ### Conversions of elements -/

theorem vcvt_part_elements (hf : fmtBlock (vEfmt r.item.desc) = false) (hx : fmtBlock (vXfmt r.item.desc) = false) (hx9 : vXfmt r.item.desc ≠ 9) :
    ∃ b fl cs, vcvtDef.part s (vWhole c r) c r s = vWrite s c r (vD r.item.desc) (vXfmt r.item.desc) 0 (vCount c r) 0 (packElems (vXfmt r.item.desc) cs)
        (setSticky (ternReport s c r b) c fl) ∧ cs.length = vCount c r ∧
      ∀ i, i < vCount c r → vActive (s.core c) r.item.desc i = true → cs.getD i 0 =
        (cvtElem (vEfmt r.item.desc) (vXfmt r.item.desc) (dWrap r.item.desc) (ftzOf s c) (vElem (s.core c) c (vA r.item.desc) (vEfmt r.item.desc) i)).v := by
  simp only [vcvtDef, hf, hx, hx9, if_false, Bool.false_eq_true, false_and]
  refine ⟨_, _, _, rfl, by simp [vWhole], fun i hi ha => ?_⟩
  simp [vWhole, hi, ha, vcvtSrc, hf]

theorem vcvt_chk (hf : fmtReserved (vEfmt r.item.desc) = false) (hx : fmtReserved (vXfmt r.item.desc) = false) (hbf : fmtBlock (vEfmt r.item.desc) = false)
    (hbx : fmtBlock (vXfmt r.item.desc) = false) (hfn : vFunc r.item.desc = 0) (hA : grpOk (vA r.item.desc) (vGrp r.item.desc) = true)
    (hD : grpOk (vD r.item.desc) (vGrpOf r.item.desc (width10 (vXfmt r.item.desc))) = true) : vcvtDef.chk s c r = (false, false, false) := by
  have h11 : vXfmt r.item.desc ≠ 0x11 := by rintro h; rw [h] at hbx; cases hbx
  have h12 : vXfmt r.item.desc ≠ 0x12 := by rintro h; rw [h] at hbx; cases hbx
  simp [vcvtDef, hf, hx, hbf, hbx, hfn, hA, hD, h11, h12]

theorem width10_pos (f : Nat) : 0 < width10 f := by
  unfold width10
  split
  · decide
  next h => exact Nat.mul_pos (by decide) (fmtBits_pos h)

theorem le_pow2Up {n : Nat} (h : pow2Up n ≤ 8) : n ≤ pow2Up n := by
  unfold pow2Up at *
  split_ifs at * <;> omega

theorem le_cdiv_mul (a : Nat) {b : Nat} (hb : 0 < b) : a ≤ cdiv a b * b := by
  have h := Nat.div_add_mod (a + b - 1) b
  have hm := Nat.mod_lt (a + b - 1) hb
  rw [cdiv, Nat.mul_comm]
  omega

/-- Enough registers for elements of another width (R192). -/
theorem groupIn_other {d : Desc} {x vl : Nat} (hx : x ≠ 9) (hg : grpOk (vD d) (vGrpOf d (width10 x)) = true) : GroupIn c (vD d) x (vElems c d vl) := by
  have hle := grpOk_le hg
  have h8 : vGrpOf d (width10 x) ≤ 8 := by
    simp only [grpOk, Bool.and_eq_true, decide_eq_true_eq] at hg
    exact hg.1.2
  refine groupIn_of hx ?_ hle
  have he : 0 < width10 (dP d 41 37) := width10_pos _
  have hq : vGrpOf d (width10 x) = pow2Up (cdiv (vGrp d * width10 x) (width10 (dP d 41 37))) := by
    rw [vGrpOf]
    exact if_neg (by omega)
  rw [hq] at h8 ⊢
  have hql := le_pow2Up h8
  have hqe := le_cdiv_mul (vGrp d * width10 x) he
  have hn : vElems c d vl * width10 (dP d 41 37) ≤ vGrp d * 320 * lanes c := by
    rw [vElems, if_neg (by omega)]
    exact (Nat.le_div_iff_mul_le he).1 (Nat.min_le_right _ _)
  have hx10 : width10 x = 10 * fmtBits x := if_neg hx
  generalize cdiv (vGrp d * width10 x) (width10 (dP d 41 37)) = q at hql hqe ⊢
  have hkey : vGrp d * (vElems c d vl * width10 x) ≤ vGrp d * (q * (320 * lanes c)) := calc
    vGrp d * (vElems c d vl * width10 x) = vElems c d vl * (vGrp d * width10 x) := by ring
    _ ≤ vElems c d vl * (q * width10 (dP d 41 37)) := Nat.mul_le_mul_left _ hqe
    _ = q * (vElems c d vl * width10 (dP d 41 37)) := by ring
    _ ≤ q * (vGrp d * 320 * lanes c) := Nat.mul_le_mul_left _ hn
    _ = vGrp d * (q * (320 * lanes c)) := by ring
  have hle' := Nat.le_of_mul_le_mul_left hkey (Nat.two_pow_pos _)
  have hl : q * (32 * lanes c) ≤ pow2Up q * (32 * lanes c) := Nat.mul_le_mul_right _ hql
  have h1 : vElems c d vl * width10 x = 10 * (fmtBits x * vElems c d vl) := by rw [hx10]; ring
  have h2 : q * (320 * lanes c) = 10 * (q * (32 * lanes c)) := by ring
  omega

/-! ### Loads -/

theorem opRead_length (s : State) (x : Opnd) (o n : Nat) : (opRead s x o n).length = n := by
  unfold opRead
  split <;> simp [spadRead, poolRead, bedRead]

theorem vMemBytes_length {d : Desc} {x : Opnd} {nb : Nat} : (vMemBytes s c d (some x) nb).length = nb := by
  have hV := vBytes_pos c
  have hpart (m : Nat) : (((List.range m).flatMap fun g => opRead s x (4 * vStride c d * g) (min (vBytes c) (nb - g * vBytes c))).length) = min (m * vBytes c) nb := by
    induction m with
    | zero => simp
    | succ m ih =>
      rw [List.range_succ, List.flatMap_append, List.length_append, ih, List.flatMap_singleton, opRead_length, Nat.succ_mul]
      omega
  rw [vMemBytes, hpart]
  exact Nat.min_eq_right (le_cdiv_mul nb hV)

theorem vMemBytes_length_inside {d : Desc} {o : Option Opnd} {nb : Nat} (h : vInside c d o nb = true) : (vMemBytes s c d o nb).length = nb := by
  cases o with
  | some x => exact vMemBytes_length
  | none =>
    simp only [vInside, Bool.or_false, beq_iff_eq] at h
    exact h.symm

theorem vld_chk (hf : fmtReserved (vEfmt r.item.desc) = false) (hg : grpsOk r.item.desc [vD r.item.desc] = true)
    (hin : vInside c r.item.desc (operand s c r.item.desc 0) (fmtBytes (vEfmt r.item.desc) (vCount c r)) = true) : vldDef.chk s c r = (false, false, false) := by
  simp only [vldDef, hf, hg, hin]
  rfl

/-- A write without a mask puts every byte of its group (R191, R208). -/
theorem vWrite_unmasked {src : State} {v i : Nat} {new : List Byte} (hf : f ≠ 9) (hin : GroupIn c v f n) (hlen : new.length = fmtBytes f n) (hi : i < fmtBytes f n)
    (hm : dPb r.item.desc 28 = false) : vByte ((vWrite src c r v f 0 n (cdiv (8 * fmtBytes f n) (fmtBits f)) new s).core c) c v i = byteAt new i := by
  have hpos := fmtBits_pos hf
  rw [GroupIn] at hin
  rw [vWrite_vByte (by omega), if_pos (by omega), mergeByte, if_neg hf]
  refine BitVec.eq_of_getLsbD_eq fun b hb => ?_
  rw [mergeBits_bit hf _ _ _ _ hb]
  have hsel : vSel (src.core c) r.item.desc n (cdiv (8 * fmtBytes f n) (fmtBits f)) ((8 * i + b) / fmtBits f) = .new := by
    have hlt : (8 * i + b) / fmtBits f < cdiv (8 * fmtBytes f n) (fmtBits f) := by
      refine (Nat.div_lt_iff_lt_mul hpos).2 ?_
      have := le_cdiv_mul (8 * fmtBytes f n) hpos
      omega
    have hact (j : Nat) : vActive (src.core c) r.item.desc j = true := by simp [vActive, hm]
    simp only [vSel, if_pos hlt, hact, if_true, ite_self]
  rw [hsel]
  rfl

theorem vld_part (p : VPart) : vldDef.part s p c r s = vWrite s c r (vD r.item.desc) (vEfmt r.item.desc) p.lo (vCount c r)
    (if vEfmt r.item.desc = 9 then 5 * cdiv (vCount c r) 5 else cdiv (8 * fmtBytes (vEfmt r.item.desc) (vCount c r)) (max 1 (fmtBits (vEfmt r.item.desc))))
    ((vMemBytes s c r.item.desc (operand s c r.item.desc 0) (fmtBytes (vEfmt r.item.desc) p.hi)).drop (p.lo * width10 (vEfmt r.item.desc) / 80)) s := rfl

/-! ### Accumulator views -/

theorem fillFree_some (l : List NR) : fillFree s (l.map some) = (l, s) := by
  have h (acc : List NR) : (l.map some).foldl (fun (a : List NR × State) x => match x with
      | some v => (a.1 ++ [v], a.2)
      | none =>
        let (v, s) := takeFreeNat a.2 32
        (a.1 ++ [⟨v, flNone⟩], s)) (acc, s) = (acc ++ l, s) := by
    induction l generalizing acc with
    | nil => simp
    | cons x l ih =>
      rw [List.map_cons, List.foldl_cons]
      refine (ih _).trans ?_
      simp
  exact h []

/-- An accumulator view whose elements are defined (R210). -/
theorem vacc_part {v : Nat → NR} (hv : ∀ i, i < vCount c r → vActive (s.core c) r.item.desc i = true →
    vaccElem ((s.core c).arr (vaccArr r.item.desc)) (vEfmt r.item.desc) (vaccOutl r.item.desc) (ftzOf s c) (vaccRow r.item.desc + i / 64) (i % 64) = some (v i)) :
    ∃ fl cs, vaccDef.part s (vWhole c r) c r s = vWrite s c r (vD r.item.desc) (vEfmt r.item.desc) 0 (vCount c r) 0 (packElems (vEfmt r.item.desc) cs)
        (setSticky s c fl) ∧ cs.length = vCount c r ∧ ∀ i, i < vCount c r → vActive (s.core c) r.item.desc i = true → cs.getD i 0 = (v i).v := by
  have hl : ((List.range (vCount c r)).map fun i => if vActive (s.core c) r.item.desc i then
        vaccElem ((s.core c).arr (vaccArr r.item.desc)) (vEfmt r.item.desc) (vaccOutl r.item.desc) (ftzOf s c) (vaccRow r.item.desc + i / 64) (i % 64)
      else some ⟨0, flNone⟩) = ((List.range (vCount c r)).map fun i => if vActive (s.core c) r.item.desc i then v i else ⟨0, flNone⟩).map some := by
    rw [List.map_map]
    refine List.map_congr_left fun i hi => ?_
    by_cases ha : vActive (s.core c) r.item.desc i = true
    · rw [if_pos ha, hv i (List.mem_range.1 hi) ha, Function.comp_apply, if_pos ha]
    · rw [if_neg ha, Function.comp_apply, if_neg ha]
  simp only [vaccDef, vWhole, Nat.sub_zero, Nat.zero_add, hl, fillFree_some]
  exact ⟨_, _, rfl, by simp, fun i hi ha => by simp [hi, ha]⟩

theorem vaccZero_vreg (j : Nat) : ((vaccZero c r s j).core c).vreg = (s.core c).vreg := by
  unfold vaccZero
  extract_lets d
  generalize (vaccZeros d && _) = b
  cases b
  · rfl
  · simp [zeroRow, State.mapArr]

theorem vaccZeros_vreg (l : List Nat) : ((s.each l (vaccZero c r)).core c).vreg = (s.core c).vreg :=
  State.each_keeps s (fun z => (z.core c).vreg = (s.core c).vreg) l _ (fun _ j hz => (vaccZero_vreg j).trans hz) rfl

theorem vaccStart_core : (vaccStart c r s).cores = s.cores := by
  unfold vaccStart
  extract_lets d n
  generalize (decide (arraysOf c ≤ vaccArr d) || _) = b
  cases b
  · rfl
  · exact raise_cores ..

/-! ### Reductions -/

/-- The value of a reduction of the whole group (R212). -/
def vredResult (s : State) (c : Nat) (r : RunOp) : NR :=
  vredVal (vFunc r.item.desc) (vEfmt r.item.desc) (dWrap r.item.desc) (ftzOf s c)
    (regsTouched c (vCount c r) (width10 (vEfmt r.item.desc)) * lanes c * 32 / fmtBits (vEfmt r.item.desc))
    ((List.range (vCount c r)).map fun i => if vActive (s.core c) r.item.desc i then some (vElem (s.core c) c (vA r.item.desc) (vEfmt r.item.desc) i) else none)

theorem vred_part (hn : 0 < vCount c r) : vredDef.part s (vWhole c r) c r s =
    (setSticky (s.mapCore c fun k => vSetBytes k c (vD r.item.desc) 0 (packElems (vredFmt r.item.desc) [(vredResult s c r).v])) c (vredResult s c r).fl).cond
      (dPb r.item.desc 20) fun z => engSreg z c r (dP r.item.desc 25 21) (BitVec.ofNat 32 (vredResult s c r).v) := by
  have h : ¬ ((!(vWhole c r).last) = true ∨ vCount c r = 0) := by simp [vWhole]; omega
  simp only [vredDef, vredResult]
  rw [if_neg h]

theorem setSticky_sldPend (f : BitVec 32) : ((setSticky s c f).core c).sldPend = (s.core c).sldPend := by
  unfold setSticky
  split <;> simp

theorem vGrpOf_pos (d : Desc) (w : Nat) : 1 ≤ vGrpOf d w := by
  have hp (n : Nat) : 1 ≤ pow2Up n := by
    unfold pow2Up
    split_ifs <;> omega
  unfold vGrpOf
  extract_lets e
  split
  · exact le_rfl
  · exact hp _

/-- The first element of a group that holds one packed element. -/
theorem vElem_vSetBytes_packed {k : Core} {v x : Nat} (hf : f ≠ 9) (hin : GroupIn c v f 1) :
    vElem (vSetBytes k c v 0 (packElems f [x])) c v f 0 = x % 2 ^ fmtBits f := by
  have hlen : (packElems f [x]).length = fmtBytes f 1 := packElems_length f [x]
  refine (elemCode_eq_of_bits hf fun b hb => ?_)
  have hlt := elem_byte_lt hf (Nat.zero_lt_one) hb
  have hp := packElems_bit hf [x] (by rw [List.length_singleton]; exact hlt) (Nat.mod_lt (fmtBits f * 0 + b) (by decide))
  rw [Nat.div_add_mod, (elem_index hb).1, (elem_index hb).2] at hp
  rw [GroupIn] at hin
  rw [vByte_vSetBytes (by omega), if_pos (by omega), Nat.sub_zero]
  exact hp

end

/-- Settles O18. -/
theorem vectorMoveResults : Obligations.VectorMoveResults := by
  intro c s r d k f n p hres
  refine ⟨?perm, ?cvt, ?ld, ?acc, ?red⟩
  case perm =>
    intro h hfn hf hg
    have hf9 : vEfmt r.item.desc ≠ 9 := by
      have : vEfmt r.item.desc ≤ 6 := of_decide_eq_true hf
      omega
    refine ⟨_, congrArg Host.Outcome.next (withOp_some s _ _ _ _ r h), VWrites.of_vreg ?_ (opDone_vreg _ _)⟩
    rw [VxDef.op_part (vperm_chk hfn hf hg) hres, vperm_part]
    intro i hi
    refine (vMap_writes hf9 (vCount_eq h (by decide)) (groupIn_own rfl hf9 (grpsOk_mem hg (by simp [d])) _) i hi).trans ?_
    refine congrArg (fun x => if vActive k d i then x % 2 ^ fmtBits f else if dPb d 27 then 0 else vElem k c.val (vD d) f i) ?_
    change NR.v (match permIdx (vFunc d) (r.sreg (dP d 25 21)).toNat p (i % p) (vOpB k c.val r f i) with
      | some j => ⟨vElem k c.val (vA d) f (i / p * p + j), flNone⟩
      | none => ⟨0, flNone⟩) = _
    beta_reduce
    cases permIdx (vFunc d) (r.sreg (dP d 25 21)).toNat p (i % p) (vOpB k c.val r f i) <;> rfl
  case cvt =>
    intro h hf hx hbf hbx hx9 hfn hA hD
    obtain ⟨b, fl, cs, hpart, hlen, hcs⟩ := vcvt_part_elements (s := s) (c := c.val) (r := r) hbf hbx hx9
    refine ⟨_, congrArg Host.Outcome.next (withOp_some s _ _ _ _ r h), VWrites.of_vreg ?_ (opDone_vreg _ _)⟩
    rw [VxDef.op_part (vcvt_chk hf hx hbf hbx hfn hA hD) hres, hpart]
    rw [vCount_eq h (by decide)] at hlen hcs ⊢
    exact vWritePacked_writes hx9 (groupIn_other hx9 hD) hlen ((setSticky_vreg _).trans (ternReport_vreg _)) hcs
  case ld =>
    intro h hf hf9 hg hin
    have hn : vCount c.val r = n := vCount_eq h (by decide)
    have hgrp : GroupIn c.val (vD r.item.desc) f n := groupIn_own rfl hf9 (grpsOk_mem hg (by simp [d])) _
    have hlen := vMemBytes_length_inside (s := s) hin
    have hchk : vldDef.chk s c.val r = (false, false, false) := vld_chk hf hg (by rw [hn]; exact hin)
    have hmax : max 1 (fmtBits f) = fmtBits f := Nat.max_eq_right (fmtBits_pos hf9)
    have hpart : vldDef.op c.val r s = vWrite s c.val r (vD r.item.desc) f 0 n (cdiv (8 * fmtBytes f n) (fmtBits f))
        (vMemBytes s c.val d (operand s c.val d 0) (fmtBytes f n)) s := by
      rw [VxDef.op_part hchk hres, vld_part, hn, if_neg hf9, hmax]
      simp only [vWhole, hn, Nat.zero_mul, Nat.zero_div, List.drop_zero]
      rfl
    refine ⟨_, congrArg Host.Outcome.next (withOp_some s _ _ _ _ r h), ?_⟩
    rw [hpart]
    cases hm : dPb d 28 with
    | true =>
      rw [if_pos rfl]
      refine VWrites.of_vreg (fun i hi => ?_) (opDone_vreg _ _)
      rw [vWrite_vElem hf9 hgrp hlen.ge hi, Nat.mod_eq_of_lt (elemCode_lt hf9 i)]
    | false =>
      rw [if_neg (by decide)]
      intro i hi
      rw [vByte_of_vreg (opDone_vreg _ _)]
      exact vWrite_unmasked hf9 hgrp hlen hi hm
  case acc =>
    intro v h hf h10 harr hg hv
    have hn : vCount c.val r = n := vCount_eq h (by decide)
    have hf9 : f ≠ 9 := by rintro h9; rw [h9] at hf; simp at hf
    have hcore : (vaccStart c.val r s).core c.val = s.core c.val := core_of_cores vaccStart_core _
    have hchk : vaccDef.chk (vaccStart c.val r s) c.val r = (false, false, false) := by
      have h1 : (vEfmt r.item.desc == 0 || (vEfmt r.item.desc == 4 && !vaccOutl r.item.desc)) = true := by
        obtain h0 | ⟨h4, hb⟩ := hf
        · rw [show vEfmt r.item.desc = 0 from h0]; rfl
        · rw [show vEfmt r.item.desc = 4 from h4, show vaccOutl r.item.desc = false from hb]; rfl
      have h2 : bits (vImm r.item.desc) 1 0 = 0 := h10
      have h3 : decide (arraysOf c.val ≤ vaccArr r.item.desc) = false := decide_eq_false (Nat.not_le.2 harr)
      have h4 : grpsOk r.item.desc [vD r.item.desc] = true := hg
      simp only [vaccDef, h1, h2, h3, h4]
      rfl
    obtain ⟨fl, cs, hpart, hlen, hcs⟩ := vacc_part (s := vaccStart c.val r s) (c := c.val) (r := r) (v := v) fun i hi ha => by
      rw [hcore] at ha ⊢
      rw [show ftzOf (vaccStart c.val r s) c.val = ftzOf s c.val by simp only [ftzOf, hcore]]
      exact hv i (by rwa [hn] at hi) ha
    refine ⟨_, congrArg Host.Outcome.next (withOp_some s _ _ _ _ r h), VWrites.of_vreg ?_ ((opDone_vreg _ _).trans (vaccZeros_vreg _))⟩
    rw [VxDef.op_part hchk hres, hpart]
    rw [hn] at hlen hcs ⊢
    have hw := vWritePacked_writes (s := vaccStart c.val r s) (m := 0) hf9 (groupIn_own rfl hf9 (grpsOk_mem hg (by simp [d])) _) hlen (setSticky_vreg fl) hcs
    simp only [VWrites, hcore] at hw
    exact hw
  case red =>
    intro h hfn hf hgA hgD hn
    have hcount : vCount c.val r = n := vCount_eq h (by decide)
    have hx9 : vredFmt r.item.desc ≠ 9 := by
      have : vEfmt r.item.desc ≤ 6 := of_decide_eq_true hf
      unfold vredFmt
      split <;> omega
    have hchk : vredDef.chk s c.val r = (false, false, false) := by
      have h2 : decide (2 < vFunc r.item.desc) = false := decide_eq_false (Nat.not_lt.2 hfn)
      have h3 : cmpFmt (vEfmt r.item.desc) = true := hf
      have h4 : grpsOk r.item.desc [vA r.item.desc] = true := hgA
      have h5 : grpOk (vD r.item.desc) (if vFunc r.item.desc = 0 then vGrpOf r.item.desc 320 else vGrp r.item.desc) = true := hgD
      simp only [vredDef, h2, h3, h4, h5]
      rfl
    have hgrp : GroupIn c.val (vD r.item.desc) (vredFmt r.item.desc) 1 := by
      refine groupIn_of hx9 ?_ (grpOk_le hgD)
      have h32 : fmtBits (vredFmt r.item.desc) ≤ 32 := by obtain h | h | h | h | h | h := fmtBits_cases hx9 <;> omega
      have hl : 1 ≤ if vFunc d = 0 then vGrpOf d 320 else vGrp d := by
        split
        · exact vGrpOf_pos _ _
        · exact Nat.two_pow_pos _
      have hlanes : 1 ≤ lanes c.val := by unfold lanes; split <;> decide
      have h1 := Nat.mul_le_mul hl (Nat.mul_le_mul_left 32 hlanes)
      omega
    have hval : vredResult s c.val r = vredVal (vFunc d) f (dWrap d) (ftzOf s c.val) (regsTouched c.val n (width10 f) * lanes c.val * 32 / fmtBits f)
        ((List.range n).map fun i => if vActive k d i then some (vElem k c.val (vA d) f i) else none) := by rw [vredResult, hcount]
    have hset : ((vredDef.op c.val r s).core c.val).vreg =
          (vSetBytes k c.val (vD d) 0 (packElems (vredFmt d) [(vredResult s c.val r).v])).vreg ∧
        (dPb d 20 = true → ((vredDef.op c.val r s).core c.val).sldPend = k.sldPend ++
          [{ rd := dP d 25 21, value := BitVec.ofNat 32 (vredResult s c.val r).v, atS := r.startS + r.lat, eng := 5 }]) := by
      rw [VxDef.op_part hchk hres, vred_part (by rw [hcount]; exact hn)]
      have hz := setSticky_vreg (c := c.val) (s := s.mapCore c.val fun k => vSetBytes k c.val (vD r.item.desc) 0 (packElems (vredFmt r.item.desc) [(vredResult s c.val r).v]))
        (vredResult s c.val r).fl
      have hp := setSticky_sldPend (c := c.val) (s := s.mapCore c.val fun k => vSetBytes k c.val (vD r.item.desc) 0 (packElems (vredFmt r.item.desc) [(vredResult s c.val r).v]))
        (vredResult s c.val r).fl
      rw [State.mapCore_core_same] at hz hp
      cases hb : dPb r.item.desc 20 with
      | false => exact ⟨hz, fun h => (nomatch h)⟩
      | true =>
        refine ⟨?_, fun _ => ?_⟩
        · rw [State.cond_true, engSreg, State.mapCore_core_same]
          exact hz
        · rw [State.cond_true, engSreg, State.mapCore_core_same, h.engine]
          exact congrArg (· ++ _) hp
    refine ⟨_, congrArg Host.Outcome.next (withOp_some s _ _ _ _ r h), ?_⟩
    rw [← hval]
    refine ⟨?_, fun hb => by rw [opDone_sldPend]; exact hset.2 hb⟩
    rw [vElem_of_vreg ((opDone_vreg _ _).trans hset.1)]
    exact vElem_vSetBytes_packed hx9 hgrp

end Sys2Proof.Machine
end

section
/-! PROOFS. The vector store (O19). -/
namespace Sys2Proof.Machine

/-! ### Bytes put one after another -/

/-- A memory, as a function, after bytes have been put at their addresses, one after another. -/
def putAll (addr : Nat → Nat) (val : Nat → Byte) (l : List Nat) (m : Nat → Byte) : Nat → Byte := l.foldl (fun m i => Function.update m (addr i) (val i)) m

section
variable {addr : Nat → Nat} {val : Nat → Byte} {m : Nat → Byte}

theorem putAll_append (l k : List Nat) : putAll addr val (l ++ k) m = putAll addr val k (putAll addr val l m) := List.foldl_append ..

theorem putAll_other {l : List Nat} {b : Nat} (h : ∀ i ∈ l, b ≠ addr i) : putAll addr val l m b = m b := by
  induction l generalizing m with
  | nil => rfl
  | cons i l ih =>
    rw [putAll, List.foldl_cons]
    refine (ih fun j hj => h j (List.mem_cons_of_mem _ hj)).trans ?_
    exact Function.update_of_ne (h i List.mem_cons_self) _ _

/-- Of two bytes put at one address the later stands. -/
theorem putAll_last {l : List Nat} (hs : l.Pairwise (· < ·)) {i : Nat} (hi : i ∈ l) (h : ∀ j ∈ l, i < j → addr j ≠ addr i) :
    putAll addr val l m (addr i) = val i := by
  induction l generalizing m with
  | nil => cases hi
  | cons k l ih =>
    obtain ⟨hk, hl⟩ := List.pairwise_cons.1 hs
    rw [putAll, List.foldl_cons]
    obtain rfl | hi := List.mem_cons.1 hi
    · refine (putAll_other fun j hj => ?_).trans (Function.update_self ..)
      exact (h j (List.mem_cons_of_mem _ hj) (hk j hj)).symm
    · exact ih hl hi fun j hj => h j (List.mem_cons_of_mem _ hj)

/-- Bytes put at consecutive addresses. -/
theorem putAll_run {p a : Nat} (n : Nat) (hn : ∀ i, i < n → addr (p + i) = a + i) (b : Nat) :
    putAll addr val ((List.range n).map (p + ·)) m b = if a ≤ b ∧ b < a + n then val (p + (b - a)) else m b := by
  induction n with
  | zero => rw [if_neg (by omega)]; rfl
  | succ n ih =>
    rw [List.range_succ, List.map_append, putAll_append, List.map_singleton, putAll, List.foldl_cons, List.foldl_nil, hn n (by omega)]
    by_cases hb : b = a + n
    · rw [hb, Function.update_self, if_pos (by omega), Nat.add_sub_cancel_left]
    · rw [Function.update_of_ne hb, ih fun i hi => hn i (by omega)]
      by_cases hin : a ≤ b ∧ b < a + n
      · rw [if_pos hin, if_pos (by omega)]
      · rw [if_neg hin, if_neg (by omega)]

end

/-! ### The runs of a store -/

/-- The places of runs. -/
def runPlaces (l : List (Nat × Nat)) : List Nat := l.flatMap fun q => (List.range q.2).map (q.1 + ·)

theorem runPlaces_cons (o n : Nat) (l : List (Nat × Nat)) : runPlaces ((o, n) :: l) = (List.range n).map (o + ·) ++ runPlaces l := rfl

/-- The runs of a list of marks cover the marked places, in order. -/
theorem runPlaces_runsFrom (i : Nat) (l : List Bool) : runPlaces (runsFrom i l) = ((List.range l.length).filter fun j => l.getD j false).map (i + ·) := by
  induction l generalizing i with
  | nil => rfl
  | cons b l ih =>
    have hrange : ((List.range (b :: l).length).filter fun j => (b :: l).getD j false).map (i + ·) =
        (if b then [i] else []) ++ ((List.range l.length).filter fun j => l.getD j false).map (i + 1 + ·) := by
      rw [List.length_cons, List.range_succ_eq_map, List.filter_cons, List.filter_map]
      have hshift (x : List Nat) : (x.map Nat.succ).map (i + ·) = x.map (i + 1 + ·) := by
        rw [List.map_map]
        exact List.map_congr_left fun j _ => by simp only [Function.comp_apply]; omega
      cases b
      · exact hshift _
      · exact congrArg (i :: ·) (hshift _)
    rw [hrange, ← ih (i + 1)]
    cases b with
    | false => rfl
    | true =>
      rw [runsFrom]
      split
      next o n q he =>
        rw [he]
        split
        next ho =>
          rw [runPlaces_cons, runPlaces_cons, ho, List.range_succ_eq_map, List.map_cons, List.map_map, if_pos rfl]
          simp only [List.cons_append, List.nil_append, Nat.add_zero]
          refine congrArg (i :: ·) (congrArg (· ++ _) (List.map_congr_left fun j _ => ?_))
          simp only [Function.comp_apply]
          omega
        · rfl
      next he =>
        rw [he]
        rfl

section
variable {c : Nat} {s t z : State} {r : RunOp} {d : Desc} {k : Core} {f n : Nat}

/-- A store puts byte `i` of its group: all without a mask or where inactive elements become zeros, else the bytes of active elements (R191, R208). -/
def vPuts (k : Core) (d : Desc) (i : Nat) : Bool := !dPb d 28 || dPb d 27 || vActive k d (8 * i / fmtBits (vEfmt d))

/-- The bytes of a group of elements of whole bytes belong to one element each. -/
theorem byte_element {b : Nat} (hw : 8 ≤ fmtBits f) (hb : b < fmtBytes f n) : let w := width10 f
    (List.range (cdiv (80 * (b + 1)) w - 80 * b / w)) = [0] ∧ 80 * b / w = 8 * b / fmtBits f ∧ 8 * b / fmtBits f < n := by
  have hf9 : f ≠ 9 := by rintro rfl; exact absurd hw (by decide)
  intro w
  have hw10 : w = 10 * fmtBits f := if_neg hf9
  rw [fmtBytes_eq hf9, cdiv] at hb
  rw [hw10]
  obtain h | h | h | h | h | h := fmtBits_cases hf9 <;> rw [h] at hw hb ⊢
  · have h1 : cdiv (80 * (b + 1)) (10 * 32) - 80 * b / (10 * 32) = 1 := by rw [cdiv]; omega
    exact ⟨by rw [h1]; rfl, by omega, by omega⟩
  · have h1 : cdiv (80 * (b + 1)) (10 * 16) - 80 * b / (10 * 16) = 1 := by rw [cdiv]; omega
    exact ⟨by rw [h1]; rfl, by omega, by omega⟩
  · have h1 : cdiv (80 * (b + 1)) (10 * 8) - 80 * b / (10 * 8) = 1 := by rw [cdiv]; omega
    exact ⟨by rw [h1]; rfl, by omega, by omega⟩
  · omega
  · omega
  · omega

/-- The places that the runs of register `g` cover are those of the bytes that the store puts. -/
theorem runPlaces_vRuns (hw : dPb d 28 = true → 8 ≤ fmtBits (vEfmt d)) (g : Nat) :
    runPlaces (vRuns k c d n g true) = (List.range (vRegBytes c d n g)).filter fun o => vPuts k d (g * vBytes c + o) := by
  unfold vRuns
  extract_lets nb w act
  split
  next h =>
    have hall : ((List.range nb).filter fun o => vPuts k d (g * vBytes c + o)) = List.range nb := by
      refine List.filter_eq_self.2 fun o _ => ?_
      obtain h | ⟨-, h⟩ := h
      · rw [vPuts, h, Bool.true_or, Bool.true_or]
      · simp [vPuts, h]
    rw [hall]
    split
    next h0 => rw [h0]; rfl
    · simp [runPlaces]
  next h =>
    have hm : dPb d 28 = true ∧ dPb d 27 = false := by
      simp only [true_and, not_or] at h
      exact ⟨by simpa using h.1, by simpa using h.2⟩
    rw [if_pos rfl, runPlaces_runsFrom, List.length_map, List.length_range]
    have hid (x : List Nat) : x.map (0 + ·) = x := by simp
    rw [hid]
    refine List.filter_congr fun o ho => ?_
    have ho := List.mem_range.1 ho
    have hnb : nb = min (vBytes c) (fmtBytes (vEfmt d) n - g * vBytes c) := rfl
    obtain ⟨h1, h2, h3⟩ := byte_element (n := n) (hw hm.1) (show g * vBytes c + o < fmtBytes (vEfmt d) n by omega)
    rw [getD_map_range _ ho]
    simp only [act, w]
    rw [h1]
    simp [h2, h3, vPuts, hm.1, hm.2]

/-- The bytes of the first `m` registers of a group of `nb` bytes. -/
theorem flatMap_registers (v nb : Nat) (m : Nat) : ((List.range m).flatMap fun g => (List.range (min v (nb - g * v))).map (g * v + ·)) = List.range (min (m * v) nb) := by
  induction m with
  | zero => simp
  | succ m ih =>
    rw [List.range_succ, List.flatMap_append, ih, List.flatMap_singleton]
    by_cases h : m * v ≤ nb
    · rw [show min ((m + 1) * v) nb = min (m * v) nb + min v (nb - m * v) by rw [Nat.succ_mul]; omega, List.range_add, Nat.min_eq_left h]
    · rw [show nb - m * v = 0 by omega, show min ((m + 1) * v) nb = min (m * v) nb by rw [Nat.succ_mul]; omega]
      simp

/-- The bytes that a store puts, in order. -/
def vPlaces (k : Core) (d : Desc) (nb : Nat) : List Nat := (List.range nb).filter fun i => vPuts k d i

theorem flatMap_vRuns (hw : dPb d 28 = true → 8 ≤ fmtBits (vEfmt d)) : ((List.range (cdiv (fmtBytes (vEfmt d) n) (vBytes c))).flatMap fun g =>
    (runPlaces (vRuns k c d n g true)).map (g * vBytes c + ·)) = vPlaces k d (fmtBytes (vEfmt d) n) := by
  have hreg := flatMap_registers (vBytes c) (fmtBytes (vEfmt d) n) (cdiv (fmtBytes (vEfmt d) n) (vBytes c))
  rw [Nat.min_eq_right (le_cdiv_mul _ (vBytes_pos c))] at hreg
  rw [vPlaces, ← hreg, List.filter_flatMap]
  refine List.flatMap_congr fun g _ => ?_
  rw [runPlaces_vRuns hw, List.filter_map]
  rfl

/-! ### The store as one sequence -/

/-- The scratchpad of a core as a function. -/
def spadAt (s : State) (c : Nat) : Nat → Byte := fun b => mget (s.core c).spad b

theorem each_putAll {α : Type} {addr : Nat → Nat} {val : Nat → Byte} {pos : α → List Nat} {h : State → α → State} {l : List α}
    (hh : ∀ z, ∀ x ∈ l, engView false spadView c z = engView false spadView c s →
      engView false spadView c (h z x) = engView false spadView c s ∧ spadAt (h z x) c = putAll addr val (pos x) (spadAt z c))
    (ht : engView false spadView c t = engView false spadView c s) :
    engView false spadView c (t.each l h) = engView false spadView c s ∧ spadAt (t.each l h) c = putAll addr val (l.flatMap pos) (spadAt t c) := by
  induction l generalizing t with
  | nil => exact ⟨ht, rfl⟩
  | cons x l ih =>
    obtain ⟨hv, hs⟩ := hh t x List.mem_cons_self ht
    obtain ⟨hv', hs'⟩ := ih (fun z y hy => hh z y (List.mem_cons_of_mem _ hy)) hv
    refine ⟨hv', hs'.trans ?_⟩
    rw [hs, List.flatMap_cons, putAll_append]

/-- The byte that a store puts for byte `i` of its group (R208). -/
def vStoreByte (k : Core) (c : Nat) (d : Desc) (i : Nat) : Byte := if vActive k d (8 * i / max 1 (fmtBits (vEfmt d))) then vByte k c (vA d) i else 0#8

theorem vStoreReg_putAll {x : Opnd} {at_ g : Nat} {src : State} (ho : operand s c r.item.desc 3 = some x) (hown : OwnSpad s c r 3 at_ x.bytes)
    (hin : vInside c r.item.desc (some x) (fmtBytes (vEfmt r.item.desc) (vCount c r)) = true) (hz : engView false spadView c z = engView false spadView c s) :
    engView false spadView c (vStoreReg src c r x z g) = engView false spadView c s ∧ spadAt (vStoreReg src c r x z g) c =
      putAll (fun i => at_ + vAddr c (vStride c r.item.desc) i) (vStoreByte (src.core c) c r.item.desc)
        ((runPlaces (vRuns (src.core c) c r.item.desc (vCount c r) g true)).map (g * vBytes c + ·)) (spadAt z c) := by
  unfold vStoreReg
  extract_lets d k n
  have h := each_putAll (s := s) (t := z) (c := c) (addr := fun i => at_ + vAddr c (vStride c d) i) (val := vStoreByte k c d)
    (pos := fun q : Nat × Nat => (List.range q.2).map (g * vBytes c + q.1 + ·)) (l := vRuns k c d n g true)
    (h := fun z q => (opWrite z x (4 * vStride c d * g + q.1) ((List.range q.2).map fun i =>
      if vActive k d (8 * (g * vBytes c + q.1 + i) / max 1 (fmtBits (vEfmt d))) then vByte k c (vA d) (g * vBytes c + q.1 + i) else 0#8) false).1)
    (fun u q hq hu => ?_) hz
  · refine ⟨h.1, h.2.trans (congrArg (putAll _ _ · _) ?_)⟩
    rw [runPlaces, List.map_flatMap]
    refine List.flatMap_congr fun q _ => ?_
    rw [List.map_map]
    exact List.map_congr_left fun j _ => by simp only [Function.comp_apply]; omega
  · obtain ⟨h0, hlen⟩ := vRuns_bounds q hq
    have hfit := vInside_run hin h0 hlen
    have hou := (operand_of_engView (spadView_blind none).toBlind hu r.item.desc 3).trans ho
    have hst := fxPut_stores_at (o := 4 * vStride c d * g + q.1) (bs := (List.range q.2).map fun i =>
      if vActive k d (8 * (g * vBytes c + q.1 + i) / max 1 (fmtBits (vEfmt d))) then vByte k c (vA d) (g * vBytes c + q.1 + i) else 0#8)
      (hown.congr hu) (by rw [List.length_map, List.length_range]; simp only [d] at *; omega)
    rw [hou] at hst
    refine ⟨hst.2.trans hu, funext fun b => ?_⟩
    have hq : q.1 + q.2 ≤ vBytes c := hlen.trans (Nat.min_le_left _ _)
    rw [putAll_run (a := at_ + (4 * vStride c d * g + q.1)) q.2 fun i hi => ?_]
    · refine (hst.1 b).trans ?_
      rw [List.length_map, List.length_range]
      by_cases hb : at_ + (4 * vStride c d * g + q.1) ≤ b ∧ b < at_ + (4 * vStride c d * g + q.1) + q.2
      · rw [if_pos hb, if_pos hb, getD_map_range _ (by omega)]
        rfl
      · rw [if_neg hb, if_neg hb]
        rfl
    · rw [show g * vBytes c + q.1 + i = vBytes c * g + (q.1 + i) by rw [Nat.mul_comm]; omega, vAddr_at (by omega)]
      omega

theorem vst_chk {x : Opnd} (hf : fmtReserved (vEfmt r.item.desc) = false) (hw : dPb r.item.desc 28 = true → 8 ≤ fmtBits (vEfmt r.item.desc))
    (hg : grpsOk r.item.desc [vA r.item.desc] = true) (ho : operand s c r.item.desc 3 = some x)
    (hin : vInside c r.item.desc (some x) (fmtBytes (vEfmt r.item.desc) (vCount c r)) = true) : vstDef.chk s c r = (false, false, false) := by
  have hm : (dPb r.item.desc 28 && decide (fmtBits (vEfmt r.item.desc) < 8)) = false := by
    cases h : dPb r.item.desc 28
    · rfl
    · simpa using hw h
  simp only [vstDef, hf, hm, hg, ho, hin]
  rfl

/-- A store puts the bytes of its group one after another (R191, R208). -/
theorem vstOp_putAll {x : Opnd} {at_ : Nat} (hres : dReserved r.item.desc = false) (hf : fmtReserved (vEfmt r.item.desc) = false)
    (hw : dPb r.item.desc 28 = true → 8 ≤ fmtBits (vEfmt r.item.desc)) (hg : grpsOk r.item.desc [vA r.item.desc] = true)
    (ho : operand s c r.item.desc 3 = some x) (hown : OwnSpad s c r 3 at_ x.bytes)
    (hin : vInside c r.item.desc (some x) (fmtBytes (vEfmt r.item.desc) (vCount c r)) = true) :
    engView false spadView c (vstDef.op c r s) = engView false spadView c s ∧ spadAt (vstDef.op c r s) c =
      putAll (fun i => at_ + vAddr c (vStride c r.item.desc) i) (vStoreByte (s.core c) c r.item.desc)
        (vPlaces (s.core c) r.item.desc (fmtBytes (vEfmt r.item.desc) (vCount c r))) (spadAt s c) := by
  rw [VxDef.op_part (vst_chk hf hw hg ho hin) hres, vst_part_some ho]
  simp only [vWhole, Nat.zero_mul, Nat.zero_div, Nat.sub_zero, Nat.add_zero, List.map_id']
  have h := each_putAll (fun z g _ hz => vStoreReg_putAll (src := s) (g := g) ho hown hin hz) (rfl : engView false spadView c s = _)
    (l := List.range (cdiv (fmtBytes (vEfmt r.item.desc) (vCount c r)) (vBytes c)))
  rw [flatMap_vRuns hw] at h
  exact h

end

/-- Settles O19: the bytes are put in the order of their numbers. -/
theorem vectorStoreResults : Obligations.VectorStoreResults := by
  intro c s r at_ x h d k f nb st hres hf hw hg ho ha hin hown
  have hn : fmtBytes f (vCount c.val r) = nb := congrArg (fmtBytes f) (vCount_eq h (by decide))
  obtain ⟨hv, hput⟩ := vstOp_putAll hres hf hw hg ho hown (by rw [hn]; exact hin)
  rw [hn] at hput
  have hspad (b : Nat) : mget ((opDone (vstDef.op c.val r s) c.val 4 0x26).core c.val).spad b =
      putAll (fun i => at_ + vAddr c.val st i) (vStoreByte k c.val d) (vPlaces k d nb) (spadAt s c.val) b := by
    rw [opDone_spad]
    exact congrFun hput b
  refine ⟨_, congrArg Host.Outcome.next (withOp_some s _ _ _ _ r h), ?_⟩
  intro active puts
  have hact (i : Nat) : vActive k d (8 * i / max 1 (fmtBits f)) = true ↔ active i := by
    cases hb : dPb d 28 with
    | false => exact iff_of_true (by rw [vActive, hb]; rfl) (.inl hb)
    | true =>
      rw [Nat.max_eq_right ((by omega : 1 ≤ 8).trans (hw hb))]
      exact (or_iff_right (hb.symm ▸ Bool.noConfusion)).symm
  have hputs (i : Nat) : i ∈ vPlaces k d nb ↔ puts i := by
    rw [vPlaces, List.mem_filter, List.mem_range]
    refine and_congr_right fun _ => ?_
    simp [vPuts, active, f, or_comm, or_assoc]
  refine ⟨fun i hp hlast => ?_, fun b hb => ?_, ?_, ?_⟩
  · have hb := (hspad _).trans (putAll_last (List.pairwise_lt_range.filter _) ((hputs i).2 hp) fun j hj hij he =>
      hlast j hij ((hputs j).1 hj) (Nat.add_left_cancel he))
    exact ⟨fun ha => hb.trans (if_pos ((hact i).2 ha)), fun ha => hb.trans (if_neg (mt (hact i).1 ha))⟩
  · exact (hspad b).trans (putAll_other fun i hi => hb i ((hputs i).1 hi))
  · exact (opDone_vreg ..).trans (spadView_field Core.vreg (engView_own hv))
  · exact engView_others ((opDone_engView (spadView_blind none).toBlind ..).trans hv)

end Sys2Proof.Machine
end

section
/-! PROOFS. Copies and fills (O25). -/
namespace Sys2Proof.Machine

/-! ### What a write of an operand leaves -/

/-- A core without what a write to its memories changes. -/
def Core.bare (k : Core) : Core := { k with spad := [], bankA := [], bankB := [], bad := [], badX := [], wrote := [], inact := .empty, byOd := false }

/-- A pool without what a write to its memory changes. -/
def Pool.bare (p : Pool) : Pool := { p with mem := [], bad := [], wrote := [] }

/-- The state without its memories: where a write goes, and which bytes a read shows, depends on it alone. -/
def bareMems (s : State) : State × (Nat → Core) × (Nat → Pool) :=
  ({ s with cores := [], pools := [], beds := { s.beds with mem := [], bad := [] } }, fun c => (s.core c).bare, fun p => (s.pool p).bare)

section
variable {s t u : State} {x y : Opnd} {o n : Nat} {bs : List Byte} {l : Loc}

theorem bareMems_corePresent (h : bareMems t = bareMems s) (c : Nat) : corePresent t c = corePresent s c :=
  congrArg (fun p : State × (Nat → Core) × (Nat → Pool) => corePresent p.1 c) h

theorem bareMems_core {α : Type} (f : Core → α) (hf : ∀ k : Core, f k.bare = f k) (h : bareMems t = bareMems s) (c : Nat) : f (t.core c) = f (s.core c) := by
  have hc := congrFun (congrArg (·.2.1) h) c
  rw [← hf (t.core c), ← hf (s.core c)]
  exact congrArg f hc

theorem bareMems_segTakes (h : bareMems t = bareMems s) (c : Nat) : segTakes t c = segTakes s c := by
  have e := congrArg (fun p : State × (Nat → Core) × (Nat → Pool) => segTakes { p.1 with cores := [(c, p.2.1 c)] } c) h
  simpa [segTakes, bareMems, State.core, fget, Core.bare] using e

theorem bareMems_segTakesPool (h : bareMems t = bareMems s) (p : Nat) : segTakesPool t p = segTakesPool s p := by
  have e := congrArg (fun q : State × (Nat → Core) × (Nat → Pool) => segTakesPool { q.1 with pools := [(p, q.2.2 p)] } p) h
  simpa [segTakesPool, bareMems, State.pool, fget, Pool.bare] using e

theorem bareMems_poolMask (h : bareMems t = bareMems s) (p : Nat) : (t.pool p).segMask = (s.pool p).segMask := by
  have e := congrArg (fun q : State × (Nat → Core) × (Nat → Pool) => (q.2.2 p).segMask) h
  exact e

theorem bareMems_mapCore {c : Nat} {f : Core → Core} (hf : (f (s.core c)).bare = (s.core c).bare) : bareMems (s.mapCore c f) = bareMems s := by
  have hc : (fun d => ((s.mapCore c f).core d).bare) = fun d => (s.core d).bare := funext fun d => by
    rw [State.mapCore_core]
    split
    · next e => rw [e, hf]
    · rfl
  exact congrArg (fun g : Nat → Core => ((bareMems s).1, g, (bareMems s).2.2)) hc

theorem bareMems_mapPool {p : Nat} {f : Pool → Pool} (hf : (f (s.pool p)).bare = (s.pool p).bare) : bareMems (s.mapPool p f) = bareMems s := by
  have hp : (fun d => ((s.mapPool p f).pool d).bare) = fun d => (s.pool d).bare := funext fun d => by
    rw [State.mapPool_pool]
    split
    · next e => rw [e, hf]
    · rfl
  exact congrArg (fun g : Nat → Pool => ((bareMems s).1, (bareMems s).2.1, g)) hp

theorem DestOn.congr (hd : DestOn s y n) (h : bareMems t = bareMems s) : DestOn t y n := by
  unfold DestOn at *
  split at hd
  · simpa only [bareMems_corePresent h, bareMems_segTakes h] using hd
  · simpa only [bareMems_segTakesPool h] using hd
  · trivial
  · simpa only [bareMems_corePresent h, bareMems_core Core.ring (fun _ => rfl) h] using hd
  · exact hd

theorem bareMems_bankNow (h : bareMems t = bareMems s) (y : Opnd) : bankNow t y = bankNow s y := by
  unfold bankNow
  split
  · rw [bareMems_core Core.activeB (fun _ => rfl) h]
  · rfl

/-! ### Reads -/

theorem partFind_congr (h : bareMems t = bareMems s) (i : Nat) : partFind t i = partFind s i := by
  have hp (u : State) : partOf (bareMems u).1 = partOf u := rfl
  have hb (u : State) : partFind (bareMems u).1 i = partFind u i := by rw [partFind, partFind, hp]
  rw [← hb t, ← hb s, h]

theorem kvVisible_congr (h : bareMems t = bareMems s) : kvVisible t = kvVisible s := by
  have hb (u : State) : kvVisible (bareMems u).1 = kvVisible u := rfl
  rw [← hb t, ← hb s, h]

/-- A read depends on the bytes that it reads and on nothing else of the memories. -/
theorem opRead_congr (h : bareMems t = bareMems s) (hm : ∀ j, j < n → mget (locMem t x.loc) (x.a + o + j) = mget (locMem s x.loc) (x.a + o + j)) :
    opRead t x o n = opRead s x o n := by
  unfold opRead
  cases hl : x.loc with
  | spad c =>
    rw [hl] at hm
    refine List.map_congr_left fun j hj => ?_
    rw [bareMems_core Core.segMask (fun _ => rfl) h, show mget (t.core c).spad _ = _ from hm j (List.mem_range.1 hj)]
    rfl
  | pool p =>
    rw [hl] at hm
    refine List.map_congr_left fun j hj => ?_
    rw [bareMems_poolMask h, show mget (t.pool p).mem _ = _ from hm j (List.mem_range.1 hj)]
    rfl
  | beds =>
    rw [hl] at hm
    have hbyte (j : Nat) (hj : j < n) : mget t.beds.mem (x.a + o + j) = mget s.beds.mem (x.a + o + j) := hm j hj
    have hoff : t.rep.stackOff = s.rep.stackOff := congrArg (fun p : State × (Nat → Core) × (Nat → Pool) => p.1.rep.stackOff) h
    refine List.map_congr_left fun j hj => ?_
    simp only [partFind_congr h, kvVisible_congr h, hoff, hbyte j (List.mem_range.1 hj)]
  | _ => rfl

/-! ### Writes -/

/-- Bytes are put at an address of one memory, and of the chip nothing else changes but the marks of that memory. -/
structure Puts (s t : State) (l : Loc) (a : Nat) (bs : List Byte) : Prop where
  bytes : ∀ b, mget (locMem t l) b = if a ≤ b ∧ b < a + bs.length then bs.getD (b - a) 0#8 else mget (locMem s l) b
  others : ∀ m, m ≠ l → locMem t m = locMem s m
  bare : bareMems t = bareMems s

theorem locMem_congr (h : ∀ c, (t.core c).spad = (s.core c).spad ∧ (t.core c).inBank = (s.core c).inBank) (hp : ∀ p, (t.pool p).mem = (s.pool p).mem)
    (hb : t.beds.mem = s.beds.mem) (m : Loc) : locMem t m = locMem s m := by
  cases m with
  | spad c => exact (h c).1
  | bank c => exact (h c).2
  | pool p => exact hp p
  | beds => exact hb
  | _ => rfl

theorem spadWrite_puts (c a : Nat) (h : segRangeOn (segTakes s c) (spadBytes c) a bs.length = true) : Puts s (spadWrite s c a bs).1 (.spad c) a bs := by
  unfold spadWrite
  simp only [h, if_true]
  refine ⟨fun b => ?_, fun m hm => ?_, bareMems_mapCore rfl⟩
  · show mget (State.core _ c).spad b = _
    rw [State.mapCore_core_same]
    exact mget_mwrite ..
  · cases m with
    | spad d => exact congrArg Core.spad (State.mapCore_core_ne _ _ _ _ fun e => hm (e ▸ rfl))
    | bank d =>
      show (State.core _ d).inBank = (s.core d).inBank
      rw [State.mapCore_core]
      split
      · next e => rw [e]; rfl
      · rfl
    | _ => rfl

theorem poolWrite_puts (p a : Nat) (h : segRangeOn (segTakesPool s p) poolBytes a bs.length = true) : Puts s (poolWrite s p a bs).1 (.pool p) a bs := by
  unfold poolWrite
  simp only [h, if_true]
  refine ⟨fun b => ?_, fun m hm => ?_, bareMems_mapPool rfl⟩
  · show mget (State.pool _ p).mem b = _
    rw [State.mapPool_pool_same]
    exact mget_mwrite ..
  · cases m with
    | pool d => exact congrArg Pool.mem (State.mapPool_pool_ne _ _ _ _ fun e => hm (e ▸ rfl))
    | _ => rfl

theorem bankWriteTo_puts (c a : Nat) (b : Bool) : Puts s (bankWriteTo s c a bs b) (.bank c) a bs := by
  refine ⟨(bankWriteTo_wrote c a bs b).1, fun m hm => ?_, bareMems_mapCore ?_⟩
  · cases m with
    | spad d =>
      show (State.core _ d).spad = (s.core d).spad
      unfold bankWriteTo
      rw [State.mapCore_core]
      split
      · next e =>
        rw [e]
        unfold Core.mapIn
        split <;> rfl
      · rfl
    | bank d => exact congrArg Core.inBank (State.mapCore_core_ne _ _ _ _ fun e => hm (e ▸ rfl))
    | _ => rfl
  · unfold Core.mapIn
    split <;> rfl

theorem bedWrite_puts (a : Nat) : Puts s (bedWrite s a bs) .beds a bs := by
  refine ⟨fun b => mget_mwrite .., fun m hm => ?_, rfl⟩
  cases m with
  | beds => exact absurd rfl hm
  | _ => rfl

/-- A write inside an operand whose place takes it (R75, R76). -/
theorem opWrite_puts (hd : DestOn s y n) (hn : ∀ j, j < bs.length → o + j < n) (pl : List Nat) : Puts s (opWrite s y o bs (bankNow s y) pl).1 y.loc (y.a + o) bs := by
  unfold DestOn at hd
  unfold opWrite bankNow
  cases hl : y.loc with
  | spad c =>
    rw [hl] at hd
    obtain ⟨hp, hon⟩ := hd
    simp only [hp, if_true]
    exact spadWrite_puts c _ (segRangeOn_of_segOn (spadBytes_segments c) fun j hj => by rw [Nat.add_assoc]; exact hon _ (hn j hj))
  | pool p =>
    rw [hl] at hd
    exact poolWrite_puts p _ (segRangeOn_of_segOn (by decide) fun j hj => by rw [Nat.add_assoc]; exact hd _ (hn j hj))
  | beds => exact bedWrite_puts _
  | bank c =>
    rw [hl] at hd
    obtain ⟨hp, hr⟩ := hd
    have hne : ((s.core c).activeB = !(s.core c).activeB) = False := by simp
    simp only [hp, hr, hne, Bool.not_true, Bool.false_eq_true, or_self, if_false]
    exact bankWriteTo_puts c _ _
  | _ => rw [hl] at hd; exact hd.elim

/-! ### Copies -/

/-- What a copy of the first rows leaves (R235): the last row that covers a byte of the destination gives it. -/
structure Copies (s t : State) (x y : Opnd) (len ss ds rows : Nat) : Prop where
  bare : bareMems t = bareMems s
  row : ∀ i j, i < rows → j < len → (∀ h, i < h → h < rows → 64 * ds * i + j < 64 * ds * h ∨ 64 * ds * h + len ≤ 64 * ds * i + j) →
    mget (locMem t y.loc) (y.a + 64 * ds * i + j) = (opRead s x (64 * ss * i) len).getD j 0#8
  outside : ∀ b, (∀ i, i < rows → b < y.a + 64 * ds * i ∨ y.a + 64 * ds * i + len ≤ b) → mget (locMem t y.loc) b = mget (locMem s y.loc) b
  others : ∀ l, l ≠ y.loc → locMem t l = locMem s l

variable {len ss ds rows : Nat}

theorem Copies.step (h : Copies s t x y len ss ds rows) (hd : DestOn s y y.bytes) (hin : copyInside y (rows + 1) len ds = true)
    (ho : copyOverlap x y (rows + 1) len ss ds = false) (pl : List Nat) :
    Copies s (opWrite t y (64 * ds * rows) (opRead t x (64 * ss * rows) len) (bankNow s y) pl).1 x y len ss ds (rows + 1) := by
  have hread : opRead t x (64 * ss * rows) len = opRead s x (64 * ss * rows) len := opRead_congr h.bare fun j hj => by
    by_cases hl : x.loc = y.loc
    · rw [hl]
      refine h.outside _ fun i hi => ?_
      have hni : ¬ (x.a + 64 * ss * rows < y.a + 64 * ds * i + len ∧ y.a + 64 * ds * i < x.a + 64 * ss * rows + len) := by
        simp only [copyOverlap, hl, decide_true, Bool.true_and, Bool.and_eq_false_iff, decide_eq_false_iff_not, List.any_eq_false, List.mem_range,
          List.any_eq_true, decide_eq_true_eq, not_exists, not_and] at ho
        intro hc
        exact (ho.resolve_left (by omega)) rows (by omega) i (by omega) hc.1 hc.2
      omega
    · rw [h.others _ hl]
  have hput : Puts t (opWrite t y (64 * ds * rows) (opRead t x (64 * ss * rows) len) (bankNow s y) pl).1 y.loc (y.a + 64 * ds * rows)
      (opRead s x (64 * ss * rows) len) := by
    rw [← bareMems_bankNow h.bare y, ← hread]
    refine opWrite_puts (hd.congr h.bare) (fun j hj => ?_) pl
    rw [opRead_length] at hj
    simp only [copyInside, Bool.or_eq_true, beq_iff_eq, decide_eq_true_eq, Nat.add_sub_cancel] at hin
    omega
  have hbyte (b : Nat) := hput.bytes b
  simp only [opRead_length] at hbyte
  refine ⟨hput.bare.trans h.bare, fun i j hi hj hlast => ?_, fun b hb => ?_, fun l hl => (hput.others l hl).trans (h.others l hl)⟩
  · obtain rfl | hi := (Nat.lt_succ_iff.1 hi).eq_or_lt
    · rw [hbyte, if_pos (by omega), show y.a + 64 * ds * i + j - (y.a + 64 * ds * i) = j by omega]
    · rw [hbyte, if_neg (by have := hlast rows hi (by omega); omega)]
      exact h.row i j hi hj fun k hik hk => hlast k hik (by omega)
  · rw [hbyte, if_neg (by have := hb rows (by omega); omega)]
    exact h.outside b fun i hi => hb i (by omega)

theorem copyRows_copies (hd : DestOn s y y.bytes) (hin : copyInside y rows len ds = true) (ho : copyOverlap x y rows len ss ds = false) (pl : List Nat) :
    Copies s (copyRows x y len ss ds (bankNow s y) pl s rows).1 x y len ss ds rows := by
  induction rows with
  | zero => exact ⟨rfl, fun i j hi => absurd hi (by omega), fun _ _ => rfl, fun _ _ => rfl⟩
  | succ rows ih =>
    have hin' : copyInside y rows len ds = true := by
      simp only [copyInside, Bool.or_eq_true, beq_iff_eq, decide_eq_true_eq, Nat.add_sub_cancel] at hin ⊢
      have := Nat.mul_le_mul_left (64 * ds) (Nat.sub_le rows 1)
      omega
    have ho' : copyOverlap x y rows len ss ds = false := by
      simp only [copyOverlap, Bool.and_eq_false_iff, List.any_eq_false, List.mem_range] at ho ⊢
      refine ho.imp_right fun ho i hi hany => ho i (by omega) ?_
      obtain ⟨j, hj, hc⟩ := List.any_eq_true.1 hany
      exact List.any_eq_true.2 ⟨j, List.mem_range.2 (by have := List.mem_range.1 hj; omega), hc⟩
    have hs := (ih hin' ho').step hd hin ho pl
    rw [copyRows, List.range_succ, List.foldl_append]
    exact hs

end

/-! ### The obligation -/

section
variable {s : State} {c e : Nat} {r : RunOp} {o : Nat} {y : Opnd} {m : Loc} {f : RunOp → State → State × Nat}

/-- A transfer performed is its effect and the mark of its completion. -/
theorem withDma_some (h : Performs s c e o r) : withDma s c e o f = opDoneSt (f r s).1 c e o (f r s).2 := by
  obtain ⟨hop, hrun⟩ := h
  simp only [withDma, hop, hrun, if_true]

theorem opDoneSt_locMem (n : Nat) (l : Loc) : locMem (opDoneSt s c e o n) l = locMem s l := by
  refine locMem_congr (s := s) (t := opDoneSt s c e o n) (fun d => ?_) (fun _ => rfl) rfl l
  unfold opDoneSt
  rw [State.mapCore_core]
  split
  · next h => exact h ▸ ⟨rfl, rfl⟩
  · exact ⟨rfl, rfl⟩

end

/-- Settles O25. -/
theorem transferResults : Obligations.TransferResults := by
  intro c dm s r d rows len ss ds x y hres hd
  refine ⟨fun h hpair hlen hx hy ho => ?_, fun h hpar h0 hext => ?_⟩
  · have hbad : copyBad s c.val d = false := by
      simp only [copyBad, hres, Bool.false_or, Bool.or_eq_false_iff, bne_eq_false_iff_eq, Bool.not_eq_false']
      exact ⟨⟨⟨hlen, hx⟩, hy⟩, ho⟩
    have hop : copyOp c.val r s = copyRows x y len ss ds (bankNow s y) (opPlace r) s rows := by
      simp only [copyOp, show copyPair (operandAny s c.val r.item.desc 0) (operandAny s c.val r.item.desc 3) = true from hpair,
        show copyBad s c.val r.item.desc = false from hbad]
      rfl
    have hc := copyRows_copies hd hy ho (opPlace r)
    rw [← hop] at hc
    refine ⟨_, congrArg Host.Outcome.next (withDma_some h), ?_⟩
    simp only [opDoneSt_locMem]
    exact ⟨hc.row, hc.outside, hc.others⟩
  · have hy : operand s c.val r.item.desc 3 = some y := if_neg hext
    have hbad : fillBad r.item.desc = false := by
      simp only [fillBad, Bool.or_eq_false_iff, bne_eq_false_iff_eq]
      exact ⟨⟨hres, hpar⟩, h0⟩
    have hop : fillOp c.val r s = opWrite s y 0 (fillBytes r 0 y.bytes) (bankNow s y) (opPlace r) := by
      simp only [fillOp, hy, hbad]
      rfl
    have hn : (fillBytes r 0 y.bytes).length = y.bytes := by simp [fillBytes]
    have hp := opWrite_puts hd (o := 0) (bs := fillBytes r 0 y.bytes) (by rw [hn]; omega) (opPlace r)
    rw [← hop] at hp
    have hbyte (b : Nat) := hp.bytes b
    simp only [hn, Nat.add_zero] at hbyte
    refine ⟨_, congrArg Host.Outcome.next (withDma_some h), ?_⟩
    simp only [opDoneSt_locMem]
    refine ⟨fun i hi => ?_, fun b hb => (hbyte b).trans (if_neg (by omega)), hp.others⟩
    rw [hbyte, if_pos (by omega), Nat.add_sub_cancel_left, fillBytes, getD_map_range _ hi, Nat.zero_add]
    rfl

end Sys2Proof.Machine
end

section
/-! PROOFS. Queue operations and the tributary queues (O26, O27). -/
namespace Sys2Proof.Machine

section
variable {s t : State} {c e n src : Nat} {r : RunOp} {d : Desc} {x : Opnd}

/-! ### Holds -/

theorem holdFor_hasCause : hasCause (holdFor s n src (some none)) n = true := by
  rw [show holdFor s n src (some none) = addCause s n src from rfl]
  unfold addCause hasCause
  split
  · next h =>
    obtain ⟨x, hx, hc⟩ := List.any_eq_true.1 h
    exact List.any_eq_true.2 ⟨x, hx, (Bool.and_eq_true_iff.1 hc).1⟩
  · simp [State.mapSch]

/-- Once what a cause waits for has come, no cause of its kind and source is without an end. -/
theorem endCause_ended {w : Nat} : ∀ x ∈ (endCause s n src w).sch.causes, x.no = n → x.src = src → x.untilW ≠ none := by
  intro x hx hn hs
  obtain ⟨y, -, rfl⟩ := List.mem_map.1 hx
  by_cases h : y.no = n ∧ y.src = src ∧ y.untilW = none
  · rw [if_pos h]
    exact Option.some_ne_none _
  · rw [if_neg h] at hn hs ⊢
    exact fun hu => h ⟨hn, hs, hu⟩

/-! ### The operation in its engine -/

theorem find?_mapFirst {α : Type} {p : α → Bool} {f : α → α} (hp : ∀ x, p (f x) = p x) (l : List α) : (mapFirst p f l).find? p = (l.find? p).map f := by
  induction l with
  | nil => rfl
  | cons x l ih =>
    by_cases h : p x = true
    · rw [mapFirst, if_pos h, List.find?_cons_of_pos ((hp x).trans h), List.find?_cons_of_pos h]
      rfl
    · rw [mapFirst, if_neg h, List.find?_cons_of_neg h, List.find?_cons_of_neg h, ih]

/-- The operation after a change of its progress. -/
theorem opNow_setOp {o : Nat} (h : opOf s c e o = some r) {f : RunOp → RunOp} (hf : ∀ x, sameOp r (f x) = sameOp r x) (hc : t.cores = (setOp s c r f).cores) :
    ∃ y, opNow t c r = f y := by
  have hmem : r ∈ (s.core c).run := List.mem_of_find?_eq_some h
  obtain ⟨y, hy⟩ := Option.isSome_iff_exists.1 (List.find?_isSome.2 ⟨r, hmem, show sameOp r r = true by simp [sameOp]⟩)
  refine ⟨y, ?_⟩
  have hrun : (t.core c).run = mapFirst (sameOp r) f (s.core c).run := by
    rw [State.core, hc]
    exact congrArg Core.run (State.mapCore_core_same ..)
  rw [opNow, hrun, find?_mapFirst hf, hy]
  rfl

theorem withQueue_some {o : Nat} {f : State → Nat → Nat → RunOp → State} (h : Performs s c e o r) : withQueue s c e o f = f s c e r := by
  obtain ⟨hop, hrun⟩ := h
  simp only [withQueue, hop, hrun, if_true]

/-! ### TRD -/

variable {q i : Nat} {b : List Byte}

/-- In S-cycle t + i entry i is the only one that is due (R239). -/
theorem trdGo_one (hs : s.sch.sCycle = r.startS + i) (he : (fget s.trib.inQ [] q)[fget s.trib.used 0 q]? = some b)
    (hat : (fget s.trib.inAt [] q).getD (fget s.trib.used 0 q) 0 ≤ s.sch.wCycle) (got : List Byte) (n : Nat) :
    trdGo q r s i got (n + 1) =
      ({ s with trib := { s.trib with used := fset s.trib.used 0 q (fget s.trib.used 0 q + 1) } }, i + 1, got ++ b, none) := by
  obtain ⟨hlt, rfl⟩ := List.getElem?_eq_some_iff.1 he
  rw [trdGo, if_neg (by omega), List.drop_eq_getElem_cons hlt, show lateBy s _ = none from if_neg (by omega)]
  cases n with
  | zero => rfl
  | succ n => exact if_pos (show s.sch.sCycle < r.startS + (i + 1) by omega)

theorem trdGo_absent (hs : s.sch.sCycle = r.startS + i) (he : (fget s.trib.inQ [] q).length ≤ fget s.trib.used 0 q) (got : List Byte) (n : Nat) :
    trdGo q r s i got (n + 1) = (s, i, got, some none) := by
  rw [trdGo, if_neg (by omega), List.drop_eq_nil_of_le he]

theorem trdEnds_some (hq : (operandAny s c d 0).loc = .inQ q) (hx : (operandAny s c d 3).typ = 1) : trdEnds s c d = some (q, operandAny s c d 3) := by
  have hn : qNum (some (operandAny s c d 0)) false = some q := by
    cases h : operandAny s c d 0
    rw [h] at hq
    cases hq
    rfl
  simp only [trdEnds, hn, qSpadOk, hx, beq_self_eq_true, if_true]

theorem qBad_eq_false {k : Nat} (hres : dReserved d = false) (h0 : dP d 63 0 = 0) (ho : (dOperand d k).2.1 = 0) (hb : 64 * n ≤ x.bytes) :
    qBad d (some x) k n = false := by
  simp [qBad, hres, h0, ho, fits, hb]

/-- The operation with what it has read so far. -/
def trdGot (k : Nat) (got : List Byte) (r : RunOp) : RunOp := { r with prog := k, got := got }

theorem DestOn.of_spad {y : Opnd} (hd : DestOn s y n) (hl : y.loc = .spad c) (hrep : t.rep = s.rep) (hmgm : t.mgm = s.mgm)
    (hmask : (t.core c).segMask = (s.core c).segMask) (hdown : (t.core c).segDown = (s.core c).segDown) : DestOn t y n := by
  unfold DestOn at *
  rw [hl] at hd ⊢
  have hp : corePresent t c = corePresent s c := by rw [corePresent, corePresent, corePos, corePos, hrep]
  have ht : segTakes t c = segTakes s c := by rw [segTakes, segTakes, hmask, hdown, hmgm]
  simpa only [hp, ht] using hd

theorem fxPut_puts {y : Opnd} {o : Nat} {bs : List Byte} (hd : DestOn s y n) (hl : y.loc = .spad c) (hn : ∀ j, j < bs.length → o + j < n) :
    Puts s (fxPut s (some y) o bs) (.spad c) (y.a + o) bs := by
  have h := opWrite_puts hd hn []
  rw [hl, show bankNow s y = false by rw [bankNow, hl]] at h
  exact h

theorem fxPut_nil {y : Opnd} {o : Nat} (hd : DestOn s y n) (hl : y.loc = .spad c) : ((fxPut s (some y) o []).core c).spad = (s.core c).spad := by
  unfold DestOn at hd
  rw [hl] at hd
  simp only [fxPut, opWrite, hl, hd.1, if_true]
  rw [spadWrite, show segRangeOn _ _ _ ([] : List Byte).length = true by simp [segRangeOn]]
  simp only [if_true]
  rw [State.mapCore_core_same]
  rfl

/-- A state in which an operation has read entries, and nothing else that a store depends on has changed. -/
structure TrdReads (s t : State) (c : Nat) (r : RunOp) (f : RunOp → RunOp) : Prop where
  cores : t.cores = (setOp s c r f).cores
  rep : t.rep = s.rep
  mgm : t.mgm = s.mgm

theorem TrdReads.core {f : RunOp → RunOp} (h : TrdReads s t c r f) : t.core c = { s.core c with run := mapFirst (sameOp r) f (s.core c).run } := by
  rw [State.core, h.cores]
  exact State.mapCore_core_same ..

theorem TrdReads.now {k o : Nat} {got : List Byte} (h : TrdReads s t c r (trdGot k got)) (hop : opOf s c e o = some r) :
    (opNow t c r).prog = k ∧ (opNow t c r).got = got := by
  obtain ⟨y, hy⟩ := opNow_setOp (f := trdGot k got) hop (fun _ => rfl) h.cores
  exact hy ▸ ⟨rfl, rfl⟩

theorem TrdReads.dest {f : RunOp → RunOp} {y : Opnd} (h : TrdReads s t c r f) (hd : DestOn s y n) (hl : y.loc = .spad c) : DestOn t y n :=
  hd.of_spad hl h.rep h.mgm (by rw [h.core]) (by rw [h.core])

theorem TrdReads.stores {f : RunOp → RunOp} {y : Opnd} {o : Nat} {bs : List Byte} (h : TrdReads s t c r f) (hd : DestOn s y n) (hl : y.loc = .spad c)
    (hn : ∀ j, j < bs.length → o + j < n) : Stores s (fxPut t (some y) o bs) c (y.a + o) bs ∧ (fxPut t (some y) o bs).trib = t.trib := by
  have hp := fxPut_puts (h.dest hd hl) hl hn
  refine ⟨fun j => (hp.bytes j).trans ?_, ?_⟩
  · show (if _ then _ else mget (t.core c).spad j) = _
    rw [h.core]
  · exact congrArg (fun v : State × (Nat → Core) × (Nat → Pool) => v.1.trib) hp.bare

/-- The record of an input changes nothing that an operation reads. -/
theorem trdRecord_keeps (q n t : Nat) (bs : List Byte) : (trdRecord s q n t bs).cores = s.cores ∧ (trdRecord s q n t bs).rep = s.rep ∧
    (trdRecord s q n t bs).mgm = s.mgm ∧ (trdRecord s q n t bs).trib = s.trib := by
  unfold trdRecord
  split <;> simp

/-- What a queue operation does with the entry of its S-cycle (R239). -/
theorem trdNeed_one (hs : s.sch.sCycle = r.startS + r.prog) (hrep : s.inp.replaying = false) (hq : q < 0x7C) (hi : r.prog < (operandAny s c r.item.desc 0).ext)
    (he : (fget s.trib.inQ [] q)[fget s.trib.used 0 q]? = some b) (hat : (fget s.trib.inAt [] q).getD (fget s.trib.used 0 q) 0 ≤ s.sch.wCycle) :
    TrdReads s (trdNeed s c r q) c r (trdGot (r.prog + 1) (r.got ++ b)) ∧
      (trdNeed s c r q).trib = { s.trib with used := fset s.trib.used 0 q (fget s.trib.used 0 q + 1) } := by
  obtain ⟨n, hn⟩ : ∃ n, (operandAny s c r.item.desc 0).ext - r.prog = n + 1 := ⟨_, (Nat.sub_add_cancel (Nat.sub_pos_of_lt hi)).symm⟩
  unfold trdNeed
  rw [if_neg (by omega), if_neg (by rw [hrep]; simp; omega), hn, trdGo_one hs he hat]
  dsimp only [Option.isSome_none]
  rw [if_neg Bool.false_ne_true]
  split
  · obtain ⟨hcores, hrep, hmgm, htrib⟩ := trdRecord_keeps _ _ _ _
    exact ⟨⟨hcores, hrep, hmgm⟩, htrib⟩
  · exact ⟨⟨rfl, rfl, rfl⟩, rfl⟩

theorem trdNeed_absent (hs : s.sch.sCycle = r.startS + r.prog) (hrep : s.inp.replaying = false) (hq : q < 0x7C)
    (hi : r.prog < (operandAny s c r.item.desc 0).ext) (he : (fget s.trib.inQ [] q).length ≤ fget s.trib.used 0 q) :
    trdNeed s c r q = holdFor (setOp s c r (trdGot r.prog r.got)) 3 q (some none) := by
  obtain ⟨n, hn⟩ : ∃ n, (operandAny s c r.item.desc 0).ext - r.prog = n + 1 := ⟨_, (Nat.sub_add_cancel (Nat.sub_pos_of_lt hi)).symm⟩
  unfold trdNeed
  rw [if_neg (by omega), if_neg (by rw [hrep]; simp; omega), hn, trdGo_absent hs he]
  rfl

theorem trdOp_one (hop : opOf s c e 0xC0 = some r) (hs : s.sch.sCycle = r.startS + r.prog) (hrep : s.inp.replaying = false) (hq : q < 0x7C)
    (hi : r.prog < (operandAny s c r.item.desc 0).ext) (hends : trdEnds s c r.item.desc = some (q, operandAny s c r.item.desc 3))
    (hbad : qBad r.item.desc (some (operandAny s c r.item.desc 3)) 0 (operandAny s c r.item.desc 0).ext = false)
    (hd : DestOn s (operandAny s c r.item.desc 3) (operandAny s c r.item.desc 3).bytes) (hl : (operandAny s c r.item.desc 3).loc = .spad c)
    (hfit : 64 * (operandAny s c r.item.desc 0).ext ≤ (operandAny s c r.item.desc 3).bytes)
    (he : (fget s.trib.inQ [] q)[fget s.trib.used 0 q]? = some b) (hb : b.length = 64)
    (hat : (fget s.trib.inAt [] q).getD (fget s.trib.used 0 q) 0 ≤ s.sch.wCycle) :
    Stores s (trdOp s c e r) c ((operandAny s c r.item.desc 3).a + 64 * r.prog) b ∧
      (trdOp s c e r).trib = { s.trib with used := fset s.trib.used 0 q (fget s.trib.used 0 q + 1) } := by
  obtain ⟨hread, htrib⟩ := trdNeed_one hs hrep hq hi he hat
  obtain ⟨hprog, hgot⟩ := hread.now hop
  obtain ⟨hst, htr⟩ := hread.stores (o := 64 * r.prog) (bs := b) hd hl fun j hj => by omega
  have hdrop : (opNow (trdNeed s c r q) c r).got.drop r.got.length = b := by
    rw [hgot]
    exact List.drop_left
  simp only [trdOp, hends, hbad, hdrop, Bool.false_eq_true, if_false]
  split
  · refine ⟨fun j => ?_, htr.trans htrib⟩
    rw [opDone_spad]
    exact hst j
  · exact ⟨hst, htr.trans htrib⟩

theorem trdOp_absent (hop : opOf s c e 0xC0 = some r) (hs : s.sch.sCycle = r.startS + r.prog) (hrep : s.inp.replaying = false) (hq : q < 0x7C)
    (hi : r.prog < (operandAny s c r.item.desc 0).ext) (hends : trdEnds s c r.item.desc = some (q, operandAny s c r.item.desc 3))
    (hbad : qBad r.item.desc (some (operandAny s c r.item.desc 3)) 0 (operandAny s c r.item.desc 0).ext = false)
    (hd : DestOn s (operandAny s c r.item.desc 3) (operandAny s c r.item.desc 3).bytes) (hl : (operandAny s c r.item.desc 3).loc = .spad c)
    (he : (fget s.trib.inQ [] q).length ≤ fget s.trib.used 0 q) :
    hasCause (trdOp s c e r) 3 = true ∧ ((trdOp s c e r).core c).spad = (s.core c).spad ∧ (trdOp s c e r).trib = s.trib := by
  have hneed := trdNeed_absent hs hrep hq hi he
  have hread : TrdReads s (trdNeed s c r q) c r (trdGot r.prog r.got) := by
    rw [hneed]
    exact ⟨by simp, by simp [setOp], by simp [setOp]⟩
  obtain ⟨hprog, hgot⟩ := hread.now hop
  have hdrop : (opNow (trdNeed s c r q) c r).got.drop r.got.length = [] := by
    rw [hgot]
    exact List.drop_length
  have hput := fxPut_puts (o := 64 * r.prog) (bs := []) (hread.dest hd hl) hl fun j hj => absurd hj (Nat.not_lt_zero j)
  have hsch := congrArg (fun v : State × (Nat → Core) × (Nat → Pool) => v.1.sch) hput.bare
  have htrib := congrArg (fun v : State × (Nat → Core) × (Nat → Pool) => v.1.trib) hput.bare
  simp only [trdOp, hends, hbad, hdrop, Bool.false_eq_true, if_false]
  rw [if_neg (fun h => absurd h.1 (by omega))]
  refine ⟨?_, ?_, ?_⟩
  · exact (congrArg (fun k : Sched => k.causes.any fun x => x.no == 3) hsch).trans (by rw [hneed]; exact holdFor_hasCause)
  · rw [fxPut_nil (hread.dest hd hl) hl, hread.core]
  · exact Eq.trans (b := (trdNeed s c r q).trib) htrib (by rw [hneed, holdFor_trib]; rfl)

/-! ### TWR -/

theorem twrPut_eq (hq : q < 0x7C) (hb : b.length = 64) :
    twrPut s q b = { s with trib := { s.trib with outStep := s.trib.outStep ++ [(q, b)], outRoom := s.trib.outRoom - 1 } } := by
  have hp : padTo 64 b = b := by simp [padTo, hb]
  rw [twrPut, if_neg (by omega), hp]

theorem twrGo_one {en : State → Nat → List Byte} (hs : s.sch.sCycle = r.startS + i) (hq : q < 0x7C) (hroom : 0 < s.trib.outRoom)
    (hat : s.trib.roomAt ≤ s.sch.wCycle) (hb : (en s i).length = 64) (n : Nat) : twrGo q en r s i (n + 1) = (twrPut s q (en s i), i + 1, none) := by
  rw [twrGo, if_neg (by omega), if_neg (by omega), if_neg (by simp [lateBy, hat]), twrPut_eq hq hb]
  cases n with
  | zero => rfl
  | succ n => exact if_pos (show s.sch.sCycle < r.startS + (i + 1) by omega)

theorem twrGo_full {en : State → Nat → List Byte} (hs : s.sch.sCycle = r.startS + i) (hq : q < 0x7C) (hroom : s.trib.outRoom = 0) (n : Nat) :
    twrGo q en r s i (n + 1) = (s, i, some none) := by
  rw [twrGo, if_neg (by omega), if_pos ⟨hq, hroom⟩]

/-- What a queue write without a refusal does with the entries that are due. -/
theorem twrOp_eq {k : Nat} {w : Option (Option Nat)} (hq : (operandAny s c r.item.desc 3).loc = .outQ q) (hx : (operandAny s c r.item.desc 0).typ = 1)
    (hbad : qBad r.item.desc (some (operandAny s c r.item.desc 0)) 3 (operandAny s c r.item.desc 3).ext = false)
    (hgo : twrGo q (fun z i => opRead z (operandAny s c r.item.desc 0) (64 * i) 64) r s r.prog ((operandAny s c r.item.desc 3).ext - r.prog) = (t, k, w)) :
    let u := opMap t c e 0xC1 fun r => { r with prog := k, got := [] }
    twrOp s c e r = if w.isSome then holdFor u 4 0 w else if k = (operandAny s c r.item.desc 3).ext then opDone u c e 0xC1 else u := by
  have hn : qNum (some (operandAny s c r.item.desc 3)) true = some q := by
    cases h : operandAny s c r.item.desc 3
    rw [h] at hq
    cases hq
    rfl
  simp only [twrOp, hn, hbad, qSpadOk, hx, beq_self_eq_true, Bool.not_true, Bool.false_eq_true, if_false, false_and, hgo]

end

/-- Settles O26. -/
theorem queueOperationResults : Obligations.QueueOperationResults := by
  intro c dm s r x q d i hs hres h0 hx hl hrep hq
  refine ⟨fun h hy hsrc ho hi hfit hd => ?_, fun h hy hdst ho hi hfit => ?_⟩
  · obtain rfl := hy
    have hends := trdEnds_some hsrc hx
    have hbad := qBad_eq_false hres h0 ho hfit
    refine ⟨fun b he hb hat => ⟨_, congrArg Host.Outcome.next (withQueue_some h), ?_⟩, fun he => ⟨_, congrArg Host.Outcome.next (withQueue_some h), ?_⟩⟩
    · obtain ⟨hst, htrib⟩ := trdOp_one (e := 12 + dm.val) h.1 hs hrep hq hi hends hbad hd hl hfit he hb hat
      refine ⟨hst, ?_, ?_⟩ <;> rw [htrib]
      exact fget_fset_same ..
    · exact trdOp_absent h.1 hs hrep hq hi hends hbad hd hl he
  · obtain rfl := hy
    have hbad := qBad_eq_false hres h0 ho hfit
    obtain ⟨n, hn⟩ : ∃ n, (operandAny s c.val d 3).ext - i = n + 1 := ⟨_, (Nat.sub_add_cancel (Nat.sub_pos_of_lt hi)).symm⟩
    refine ⟨fun hroom hat => ?_, fun hroom => ?_⟩ <;> refine ⟨_, congrArg Host.Outcome.next (withQueue_some h), ?_⟩
    · have hb := opRead_length (s := s) (operandAny s c.val d 0) (64 * i) 64
      have hgo := twrGo_one (en := fun z i => opRead z (operandAny s c.val d 0) (64 * i) 64) hs hq hroom hat hb n
      rw [← hn, twrPut_eq hq hb] at hgo
      rw [twrOp_eq hdst hx hbad hgo]
      simp only [Option.isSome_none, Bool.false_eq_true, if_false]
      split <;> exact ⟨rfl, rfl, rfl⟩
    · have hgo := twrGo_full (en := fun z i => opRead z (operandAny s c.val d 0) (64 * i) 64) hs hq hroom n
      rw [← hn] at hgo
      rw [twrOp_eq hdst hx hbad hgo]
      rw [if_pos (show (some none : Option (Option Nat)).isSome = true from rfl)]
      exact ⟨holdFor_hasCause, holdFor_trib ..⟩

/-- Settles O27. -/
theorem tributaryQueuesMove : Obligations.TributaryQueuesMove := by
  intro s
  refine ⟨fun q e hq hserved => ⟨_, rfl, ?_⟩, fun n h0 hn => ⟨_, rfl, ?_⟩⟩
  · rw [if_neg (by simp [hserved]; omega)]
    exact ⟨fget_fset_same .., fget_fset_same .., fun h hne => fget_fset_ne s.trib.inQ [] [] q.val h _ hne, endCause_ended⟩
  · simp only [Nat.min_eq_left hn]
    rw [if_neg (by omega)]
    exact ⟨rfl, rfl, rfl, endCause_ended⟩

end Sys2Proof.Machine
end

section
/-! PROOFS. Fabric sends and receives (O28). -/
namespace Sys2Proof.Machine

section
variable {s t : State} {c e n src : Nat} {r : RunOp} {d : Desc} {x : Opnd}

/-! ### What a hand-over leaves -/

/-- An injected packet changes the fabric, or is dropped with an event record. -/
theorem inject_keeps {set2 : Bool} {p : Packet} (h : (inject s set2 p).1 = some t) : t.sch = s.sch ∧ t.cores = s.cores := by
  simp only [inject] at h
  split_ifs at h <;> cases h <;> simp [dropAtLink]

theorem chipReplay_eq_false (h : s.inp.replaying = false) : chipReplay s = false := by rw [chipReplay, h, Bool.false_and]

/-- A packet handed to the router. -/
def handed (t : State) (p : Packet) : State := t.mapSch fun k => { k with handed := k.handed + 1, outDig := k.outDig ++ packetBytes p }

theorem handOff_some {p : Packet} {b : Nat} (hd : s.sch.discard = 0) (hr : s.inp.replaying = false) (h : inject s false p = (some t, b))
    (hat : fget s.fab.injAt 0 b ≤ s.sch.wCycle) : handOff s p = (some (handed t p), b, none) := by
  have hl : lateBy s (fget s.fab.injAt 0 b) = none := if_neg (by omega)
  simp only [handOff, hd, chipReplay_eq_false hr, h, hl, lt_irrefl, if_false, Bool.false_eq_true]
  rfl

theorem handOff_none {p : Packet} {b : Nat} (hd : s.sch.discard = 0) (hr : s.inp.replaying = false) (h : inject s false p = (none, b)) :
    handOff s p = (none, b, none) := by
  simp only [handOff, hd, chipReplay_eq_false hr, h, lt_irrefl, if_false, Bool.false_eq_true]

theorem holdFor_handed (h : Option (Option Nat)) : (holdFor s n src h).sch.handed = s.sch.handed := by
  unfold holdFor addCause addCauseUntil
  split
  · rfl
  all_goals split <;> rfl

/-! ### SEND -/

variable {pk : Nat → Packet} {i b : Nat}

theorem sendGo_one (hs : s.sch.sCycle = r.startS + i) (h : handOff s (pk i) = (some t, b, none)) (ht : t.sch.sCycle = s.sch.sCycle) (n : Nat) :
    sendGo r pk s i (n + 1) = (t, i + 1, none) := by
  rw [sendGo, if_neg (by omega), h]
  cases n with
  | zero => rfl
  | succ n => exact if_pos (by omega)

theorem sendGo_full (hs : s.sch.sCycle = r.startS + i) (h : handOff s (pk i) = (none, b, none)) (n : Nat) :
    sendGo r pk s i (n + 1) = (s, i, some (b, none)) := by
  rw [sendGo, if_neg (by omega), h]

/-- The packets of a send. -/
def sendPackets (s : State) (d : Desc) (x : Opnd) : Nat → Packet :=
  sendPacket d (pathAt (pathBank s) (dP d 63 52)) (hselHalf s (dP d 41 40)) (opRead s x 0 x.bytes)

/-- A send of `n` packets after a hand-over that stopped before packet `k`. -/
def sendAfter (c e n : Nat) (t : State) (k : Nat) (w : Option (Nat × Option Nat)) : State :=
  let u := opMap t c e 0xB0 fun r => { r with prog := k }
  match w with
  | some (b, h) => holdFor u 2 b (some h)
  | none => if k = n then opDone u c e 0xB0 else u

/-- A send without a refusal hands over the packets that are due. -/
theorem sendOp_eq {k : Nat} {w : Option (Nat × Option Nat)} (hres : dReserved r.item.desc = false) (h0 : dP r.item.desc 24 0 = 0)
    (ho : operand s c r.item.desc 0 = some x) (hx : x.typ = 1) (hl : x.loc = .spad c)
    (hv : pathValid (pathAt (pathBank s) (dP r.item.desc 63 52)) = true) (hn : dP r.item.desc 39 29 + cdiv x.bytes 64 ≤ 2048) (hbad : r.bad = false)
    (hgo : sendGo r (sendPackets s r.item.desc x) s r.prog (cdiv x.bytes 64 - r.prog) = (t, k, w)) :
    sendOp s c e r = sendAfter c e (cdiv x.bytes 64) t k w := by
  unfold sendOp
  extract_lets d fin en bad
  split
  · next h => exact absurd (ho.symm.trans h) (Option.some_ne_none x)
  next y hy =>
  obtain rfl := Option.some.inj (ho.symm.trans hy)
  extract_lets n own
  have hown : own = true := by simp only [own, hl, hx, beq_self_eq_true]
  have hok : ¬ ((!pathValid en) = true ∨ 2048 < dP d 39 29 + n) := by
    rintro (h | h)
    · rw [show pathValid en = true from hv] at h
      cases h
    · exact absurd hn (Nat.not_le.2 h)
  rw [if_neg (by rw [hown]; exact Bool.false_ne_true), if_neg hok]
  have hnot : bad = false := by
    simp only [bad, hbad, show dReserved d = false from hres, show dP d 24 0 = 0 from h0, bne_self_eq_false, Bool.or_false]
  rw [hnot]
  split
  next fb z hz =>
  obtain ⟨rfl, rfl⟩ := Prod.mk.inj hz
  extract_lets bs
  split
  next u j blk hu =>
  obtain ⟨rfl, hw⟩ := Prod.mk.inj (hu.symm.trans hgo)
  obtain ⟨rfl, rfl⟩ := Prod.mk.inj hw
  rfl

/-- Two changes of the oldest operation of an engine are one. -/
theorem mapFirst_mapFirst {α : Type} {p : α → Bool} {f g h : α → α} {y : α} {l : List α} (hy : l.find? p = some y) (hp : p (f y) = true)
    (hh : h y = g (f y)) : mapFirst p g (mapFirst p f l) = mapFirst p h l := by
  induction l with
  | nil => cases hy
  | cons z l ih =>
    by_cases hz : p z = true
    · rw [List.find?_cons_of_pos hz] at hy
      cases hy
      simp only [mapFirst, hz, hp, hh, if_true]
    · rw [List.find?_cons_of_neg hz] at hy
      simp only [mapFirst, hz, if_false, Bool.false_eq_true, ih hy]

/-- The mark of completion of a send whose last packet has been handed over. -/
theorem sendDone_run {k : Nat} (hop : opOf s c e 0xB0 = some r) (ht : t.cores = s.cores) (hk : k = r.prog + 1) :
    ((opDone (opMap t c e 0xB0 fun r => { r with prog := k }) c e 0xB0).core c).run =
      mapFirst (fun r => r.eng == e && dOpcode r.item.desc == 0xB0 && !r.done && r.ticks == 0) (fun r => { r with prog := r.prog + 1, done := true })
        (s.core c).run := by
  have hc : t.core c = s.core c := by rw [State.core, State.core, ht]
  have hp := List.find?_some hop
  rw [opDone, opDoneSt, State.mapCore_core_same, opMap, State.mapCore_core_same, hc]
  exact mapFirst_mapFirst (y := r) hop hp (by simp only [hk, Nat.max_zero])

/-! ### RECV -/

/-- What serving takes from a window stays in the serving part of the chip. -/
theorem recvServe_keeps (k : Nat) : (recvServe s k c).sch = s.sch ∧ (recvServe s k c).fab = s.fab := by
  have hpark (u : State) (i : Nat) : (parkOne u i).sch = u.sch ∧ (parkOne u i).fab = u.fab := by
    unfold parkOne
    dsimp only
    split_ifs <;> exact ⟨rfl, rfl⟩
  have heach {α : Type} (u : State) (l : List α) (f : State → α → State) (hf : ∀ v x, (f v x).sch = v.sch ∧ (f v x).fab = v.fab) :
      (u.each l f).sch = u.sch ∧ (u.each l f).fab = u.fab :=
    State.each_keeps u (fun v => v.sch = u.sch ∧ v.fab = u.fab) l f (fun v x h => ⟨(hf v x).1.trans h.1, (hf v x).2.trans h.2⟩) ⟨rfl, rfl⟩
  have hscan (u : State) : (parkScan u).sch = u.sch ∧ (parkScan u).fab = u.fab := by
    unfold parkScan
    split
    · exact heach u _ _ hpark
    · exact ⟨rfl, rfl⟩
  unfold recvServe
  dsimp only
  split_ifs
  · unfold takeUpdate
    dsimp only
    split <;> simp [raiseV]
  · unfold takeReport
    dsimp only
    split
    · obtain ⟨hsch, hfab⟩ := hscan _
      refine ⟨hsch.trans ?_, hfab.trans ?_⟩
      · exact (heach _ _ _ fun v i => by split <;> exact ⟨rfl, rfl⟩).1
      · exact (heach _ _ _ fun v i => by split <;> exact ⟨rfl, rfl⟩).2
    · exact ⟨rfl, rfl⟩
  · exact ⟨rfl, rfl⟩

/-- A receive that completes takes its packets, and no cause ends with it. -/
theorem recvComplete_takes : (recvComplete s c e r).sch = s.sch ∧
    (recvHalf s r, dP r.item.desc 51 40) ∈ (recvComplete s c e r).fab.takes.map (fun x => (x.1, x.2.1)) := by
  have hin (u : State) (n : Nat) (bs : List Byte) : (recvComplete.inpAddChip u n bs).sch = u.sch ∧ (recvComplete.inpAddChip u n bs).fab = u.fab := by
    unfold recvComplete.inpAddChip
    split <;> simp
  unfold recvComplete
  extract_lets k n more ps u v w z
  have hw : w.sch = s.sch ∧ w.fab.takes = u.fab.takes ++ [(k, n, ps.length)] := by
    obtain ⟨hsch, hfab⟩ := recvServe_keeps (s := v) (c := c) k
    exact ⟨hsch.trans (hin ..).1, congrArg Fabric.takes hfab⟩
  have hz : z.sch = s.sch ∧ z.fab = w.fab := by
    simp only [z]
    split <;> simp [hw.1]
  refine ⟨hz.1, ?_⟩
  show (k, n) ∈ z.fab.takes.map _
  rw [hz.2, hw.2, List.map_append]
  exact List.mem_append_right _ List.mem_cons_self

theorem recvHalf_congr (h : t.sch = s.sch) : recvHalf t r = recvHalf s r := by rw [recvHalf, recvHalf, hselHalf, hselHalf, h]

/-- What a receive does once its S-cycle has passed (R326). -/
theorem recvOp_waits (hbad : recvBad s c r = false) (hs : r.startS < s.sch.sCycle) (hrep : s.inp.replaying = false) (hn : 0 < dP r.item.desc 51 40) :
    ∃ u : State, u.sch = s.sch ∧ u.fab = s.fab ∧ recvOp s c e r =
      if halfCount s (recvHalf s r) < dP r.item.desc 51 40 then addCause u 1 (4 * c + e % 4)
      else match lateBy s (fget s.fab.halfAt 0 (recvHalf s r)) with
        | some w => addCauseUntil u 1 (4 * c + e % 4) w
        | none => recvComplete u c e r := by
  have hreplay : recvReplay s r = s := by rw [recvReplay, chipReplay_eq_false hrep]; rfl
  refine ⟨if r.prog = 0 then opMap s c e 0xB1 fun r => { r with prog := 1 } else s, ?_, ?_, ?_⟩
  · split <;> rfl
  · split <;> rfl
  · simp only [recvOp, hbad, hreplay]
    rw [if_neg Bool.false_ne_true, if_neg (by omega)]
    have hlive (u : State) (hu : u.inp.replaying = false) : ¬ (chipReplay u = true ∨ dP r.item.desc 51 40 = 0) := by
      rw [chipReplay_eq_false hu]
      rintro (h | h)
      · cases h
      · omega
    split
    · exact if_neg (hlive _ hrep)
    · exact if_neg (hlive _ hrep)

theorem addCause_hasCause : hasCause (addCause s n src) n = true := holdFor_hasCause

end

/-- Settles O28. -/
theorem sendAndReceiveResults : Obligations.SendAndReceiveResults := by
  intro c dm s r d e hres
  refine ⟨fun x u b h h0 ho hx hl hv hn hs hi hd hrep hbad hin hat => ⟨_, congrArg Host.Outcome.next (withQueue_some h), ?_⟩,
    fun x b h h0 ho hx hl hv hn hs hi hd hrep hbad hin => ⟨_, congrArg Host.Outcome.next (withQueue_some h), ?_⟩,
    fun h hbad hs hrep hn => ⟨fun hle hat => ⟨_, congrArg Host.Outcome.next (withQueue_some h), ?_⟩,
      fun hlt => ⟨_, congrArg Host.Outcome.next (withQueue_some h), ?_⟩⟩,
    fun hop hjob hprog hle => ?_⟩
  · obtain ⟨hsch, hcores⟩ := inject_keeps (congrArg Prod.fst hin)
    obtain ⟨n, hk⟩ : ∃ n, cdiv x.bytes 64 - r.prog = n + 1 := ⟨_, (Nat.sub_add_cancel (Nat.sub_pos_of_lt hi)).symm⟩
    have hgo := sendGo_one (pk := sendPackets s d x) hs (handOff_some hd hrep hin hat) (Eq.trans (b := u.sch.sCycle) rfl (by rw [hsch])) n
    rw [← hk] at hgo
    rw [sendOp_eq hres h0 ho hx hl hv hn hbad hgo]
    simp only [sendAfter]
    refine ⟨?_, ?_, ?_, fun hlast => ?_⟩
    · split <;> rfl
    · refine Eq.trans (b := u.sch.handed + 1) ?_ (by rw [hsch])
      split <;> rfl
    · refine Eq.trans (b := u.sch.causes) ?_ (by rw [hsch])
      split <;> rfl
    · rw [if_pos hlast]
      exact sendDone_run h.1 hcores rfl
  · obtain ⟨n, hk⟩ : ∃ n, cdiv x.bytes 64 - r.prog = n + 1 := ⟨_, (Nat.sub_add_cancel (Nat.sub_pos_of_lt hi)).symm⟩
    have hgo := sendGo_full (pk := sendPackets s d x) hs (handOff_none hd hrep hin) n
    rw [← hk] at hgo
    rw [sendOp_eq hres h0 ho hx hl hv hn hbad hgo]
    exact ⟨holdFor_hasCause, holdFor_fab .., holdFor_handed ..⟩
  · obtain ⟨u, hsch, hfab, hop⟩ := recvOp_waits (e := e) hbad hs hrep hn
    rw [if_neg (Nat.not_lt.2 hle), show lateBy s _ = none from if_neg (by omega)] at hop
    rw [hop]
    obtain ⟨hc, ht⟩ := recvComplete_takes (s := u) (c := c.val) (e := e) (r := r)
    rw [recvHalf_congr hsch] at ht
    exact ⟨by rw [hc, hsch], ht⟩
  · obtain ⟨u, hsch, hfab, hop⟩ := recvOp_waits (e := e) hbad hs hrep hn
    rw [if_pos hlt] at hop
    rw [hop]
    exact ⟨addCause_hasCause, congrArg Fabric.takes ((addCause_fab ..).trans hfab)⟩
  · have hdue : (decide (r.prog = 1) || s.sch.causes.any fun x => x.no == 1 && x.src == 4 * c.val + dm.val) = true := by simp [hprog]
    have hexec : exec (.receiveComplete c dm) s = .next (endCause (recvComplete s c.val e r) 1 (4 * c.val + dm.val) 4) := by
      show execReceiveComplete c dm s = _
      rw [execReceiveComplete, show opOf s c.val (12 + dm.val) 0xB1 = some r from hop]
      exact congrArg Host.Outcome.next (if_pos ⟨hjob, hdue, hle⟩)
    exact ⟨_, hexec, (recvComplete_takes (s := s) (c := c.val) (e := e) (r := r)).2, endCause_ended⟩

end Sys2Proof.Machine
end

section
/-! PROOFS. Staged changes (O31). -/
namespace Sys2Proof.Machine

section
variable {s : State} {i : Nat} {g : Staged}

theorem stagedCheck_of_phase (h : s.sch.weirPhase ≠ 7) : stagedCheck s = s := if_neg fun hc => h hc.2.1

/-- A Weir's wait for staged changes ends once each that is due is acknowledged (R439). -/
theorem stagedCheck_ends (hst : stagesNow s = true) (h7 : s.sch.weirPhase = 7) (hw : stagedWaits s = false) :
    ∀ x ∈ (stagedCheck s).sch.causes, x.no = 6 → x.src = 0 → x.untilW ≠ none := by
  unfold stagedCheck
  split
  · exact endCause_ended
  · next h =>
    intro x hx hn _ hu
    refine h ⟨.inl hst, h7, List.any_eq_true.2 ⟨x, hx, ?_⟩, by simp [hw]⟩
    simp [hn, hu]

/-- The change `i` noted as acknowledged. -/
def ackNoted (s : State) (i : Nat) (g : Staged) : State :=
  { s with mgm := { s.mgm with staged := s.mgm.staged.set i { g with acked := true, ackS := s.sch.sCycle } } }

theorem ackNoted_waits (hg : s.mgm.staged[i]? = some g) (h : ∀ j h, s.mgm.staged[j]? = some h → j ≠ i → h.weir < s.sch.stepNo → h.acked = true) :
    stagedWaits (ackNoted s i g) = false := by
  refine List.any_eq_false.2 fun x hx => ?_
  obtain ⟨j, hj⟩ := List.mem_iff_getElem?.1 hx
  by_cases hji : i = j
  · rw [← hji, show (ackNoted s i g).mgm.staged = s.mgm.staged.set i _ from rfl, List.getElem?_set_self (List.getElem?_eq_some_iff.1 hg).1] at hj
    cases hj
    simp
  · rw [show (ackNoted s i g).mgm.staged = s.mgm.staged.set i _ from rfl, List.getElem?_set_ne hji] at hj
    rw [Bool.and_eq_true, Bool.not_eq_true']
    rintro ⟨hdue, hack⟩
    rw [h j x hj (Ne.symm hji) (of_decide_eq_true hdue)] at hack
    cases hack

theorem stageAck_waits (hg : s.mgm.staged[i]? = some g) (hw : segWaits s g.kind = true) : exec (.stageAck i) s = .next s := by
  show execStageAck i s = _
  simp only [execStageAck, hg, hw, Bool.or_true, if_true]

section
variable (hg : s.mgm.staged[i]? = some g) (hsent : g.sent = true)
include hg hsent

/-- An acknowledgement that must wait for the Weir is noted (R438). -/
theorem stageAck_noted (hw : segWaits s g.kind = false) (h : stagesNow s = true ∨ s.dev.state = .halted ∨ ∃ c, g.kind = .bankSwitch c) :
    exec (.stageAck i) s = .next (stagedCheck (ackNoted s i g)) := by
  show execStageAck i s = _
  rw [execStageAck, hg]
  refine congrArg Host.Outcome.next ((if_neg (by simp [hsent, hw])).trans (if_pos ?_))
  obtain h | h | ⟨c, h⟩ := h <;> simp [h]

/-- An acknowledgement outside RUNNING, DRAINING and HALTED puts the change into effect. -/
theorem stageAck_applies (hw : segWaits s g.kind = false) (hst : stagesNow s = false) (hd : s.dev.state ≠ .halted) (hb : ∀ c, g.kind ≠ .bankSwitch c) :
    exec (.stageAck i) s = .next (applyStaged (s.mapMgm fun m => { m with staged := m.staged.eraseIdx i }) g.kind) := by
  show execStageAck i s = _
  rw [execStageAck, hg]
  refine congrArg Host.Outcome.next ((if_neg (by simp [hsent, hw])).trans (if_neg ?_))
  cases hk : g.kind with
  | bankSwitch c => exact absurd hk (hb c)
  | _ => simp [hst, hd]

end

theorem segSet_mask {u : SegUnit} {v : BitVec 8} : segMaskOf (segSet s u v) u = v := by
  cases u with
  | core c => exact congrArg Core.segMask (State.mapCore_core_same ..)
  | pool p => exact congrArg Pool.segMask (State.mapPool_pool_same ..)

theorem segDownEnd_mask {u : SegUnit} {m : BitVec 8} : segMaskOf (segDownEnd s u m) u = segMaskOf s u := by
  cases u with
  | core c => exact (congrArg Core.segMask (State.mapCore_core_same s c.val _)).trans rfl
  | pool p => exact (congrArg Pool.segMask (State.mapPool_pool_same s p.val _)).trans rfl

theorem pathSwitch_valid (h : s.fab.pathIn = .valid) : (pathSwitch s).fab.pathAct = (!s.fab.pathAct) ∧ (pathSwitch s).fab.pathIn = .spent := by
  rw [pathSwitch, if_pos h]
  exact ⟨by simp, by simp⟩

/-- A change that is given up leaves its number, a count and an event record (R439). -/
theorem stagedDiscard_late (hg : s.mgm.staged[i]? = some g) (hsent : g.sent = true) (hack : g.acked = false) (h7 : s.sch.weirPhase ≠ 7)
    (hat : g.atW + 100000 ≤ s.fab.ftime) : ∃ evr, exec (.stagedDiscard i) s = .next { s with evr := evr, mgm := { s.mgm with
      staged := s.mgm.staged.eraseIdx i, lastDisc := stageObj g.kind, discards := sat32 s.mgm.discards } } := by
  have hexec : exec (.stagedDiscard i) s = execStagedDiscard i s := rfl
  rw [hexec, execStagedDiscard, hg]
  dsimp only
  rw [if_neg (by simp [hack, hsent, State.now, hat])]
  cases g.kind with
  | segment u v =>
    rw [stagedCheck_of_phase (by simpa using h7), raise_frame (raise ..), raise_frame]
    exact ⟨_, rfl⟩
  | _ =>
    rw [stagedCheck_of_phase (by simpa using h7), raise_frame]
    exact ⟨_, rfl⟩

end

/-- Settles O31. -/
theorem stagedChangesSettle : Obligations.StagedChangesSettle := by
  intro i g s hg hsent
  refine ⟨stageAck_waits hg, fun hw hst h7 => ?_, fun hw hst h7 hall => ⟨_, stageAck_noted hg hsent hw (.inl hst), ?_⟩, fun hw hh h7 => ?_,
    fun hw hst hh => ?_, fun hlt => ?_, fun hack h7 hat => ?_⟩
  · rw [stageAck_noted hg hsent hw (.inl hst), stagedCheck_of_phase (show (ackNoted s i g).sch.weirPhase ≠ 7 from h7)]
    rfl
  · exact stagedCheck_ends hst h7 (ackNoted_waits hg hall)
  · rw [stageAck_noted hg hsent hw (.inr (.inl hh)), stagedCheck_of_phase (show (ackNoted s i g).sch.weirPhase ≠ 7 from h7)]
    rfl
  · by_cases hb : ∃ c, g.kind = .bankSwitch c
    · obtain ⟨c, hc⟩ := hb
      refine ⟨_, stageAck_noted hg hsent hw (.inr (.inr ⟨c, hc⟩)), fun _ _ h => ?_, fun _ _ h => ?_, fun h => ?_, fun d hd h7 => ?_⟩
      · cases hc.symm.trans h
      · cases hc.symm.trans h
      · cases hc.symm.trans h
      · rw [stagedCheck_of_phase (show (ackNoted s i g).sch.weirPhase ≠ 7 from h7)]
        exact ⟨rfl, rfl⟩
    · have happ := stageAck_applies hg hsent hw hst hh fun c hc => hb ⟨c, hc⟩
      refine ⟨_, happ, fun c v h => ?_, fun u v h => ?_, fun h hv => ?_, fun c h => absurd ⟨c, h⟩ hb⟩ <;> rw [h]
      · exact ⟨congrArg Core.numctl (State.mapCore_core_same ..), rfl⟩
      · refine ⟨segDownEnd_mask.trans segSet_mask, ?_⟩
        cases u <;> rfl
      · exact pathSwitch_valid hv
  · show execStagedDiscard i s = _
    simp only [execStagedDiscard, hg]
    exact congrArg Host.Outcome.next (if_pos (.inr (.inr hlt)))
  · obtain ⟨evr, hex⟩ := stagedDiscard_late hg hsent hack h7 hat
    exact ⟨_, hex, rfl, rfl, fun c => ⟨rfl, rfl, rfl⟩⟩

end Sys2Proof.Machine
end

section
/-! PROOFS. Segments of memory are switched on and off (O32). -/
namespace Sys2Proof.Machine

section
variable {s t : State} {p : Path} {o : Nat} {st : Bool} {chk : Nat} {act : State → State} {i : Instr}

/-! ### Dictionary commands -/

theorem odReq_done (h : Takes s p o) (hst : st = true) (hchk : chk = 0) : odReq s p o i (odCmd s p o st chk act) = okResp (act s) p o := by
  rw [odReq, odTake_served _ _ _ _ _ h.1, odCmd_done _ _ _ _ _ _ h hst hchk]

theorem odReq_refused (h : Takes s p o) (hst : st = true) (hchk : chk ≠ 0) : odReq s p o i (odCmd s p o st chk act) = refuse s p o chk := by
  rw [odReq, odTake_served _ _ _ _ _ h.1, odCmd_refused _ _ _ _ _ _ h hst hchk]

end

section
variable {s t : State} {u : SegUnit} {v : BitVec 8} {g : Staged}

/-! ### Segments switched on read zero -/

/-- A memory after the segments of a list have been zeroed. -/
theorem mget_zeroed (on : Nat → Bool) (z : Nat) (m : Mem) (n a : Nat) :
    mget ((List.range n).foldl (fun m i => if on i then mzero m (z * i) (z * (i + 1)) else m) m) a =
      if on (a / z) = true ∧ a < z * n then 0#8 else mget m a := by
  induction n with
  | zero => exact (if_neg fun h => absurd h.2 (Nat.not_lt_zero a)).symm
  | succ n ih =>
    have hseg : z * n ≤ a ∧ a < z * (n + 1) → a / z = n := fun h => Nat.div_eq_of_lt_le (by rw [Nat.mul_comm]; exact h.1) (by rw [Nat.mul_comm]; exact h.2)
    have hnext : z * (n + 1) = z * n + z := Nat.mul_succ z n
    rw [List.range_succ, List.foldl_append, List.foldl_cons, List.foldl_nil]
    by_cases ha : z * n ≤ a ∧ a < z * (n + 1)
    · rw [hseg ha]
      cases hon : on n with
      | true => rw [if_pos rfl, mget_mzero, if_pos ha, if_pos ⟨rfl, ha.2⟩]
      | false =>
        rw [if_neg Bool.false_ne_true, ih, hseg ha, if_neg (by omega), if_neg (fun h => Bool.false_ne_true h.1)]
    · have hz : mget (if on n = true then mzero ((List.range n).foldl (fun m i => if on i then mzero m (z * i) (z * (i + 1)) else m) m) (z * n) (z * (n + 1))
          else (List.range n).foldl (fun m i => if on i then mzero m (z * i) (z * (i + 1)) else m) m) a =
          mget ((List.range n).foldl (fun m i => if on i then mzero m (z * i) (z * (i + 1)) else m) m) a := by
        split
        · rw [mget_mzero, if_neg ha]
        · rfl
      rw [hz, ih]
      exact if_congr (and_congr_right fun _ => by omega) rfl rfl

theorem segOf_eq {size a : Nat} (h : 8 ∣ size) : segOf size a = a / (size / 8) := by
  obtain ⟨z, rfl⟩ := h
  rw [segOf, Nat.mul_div_cancel_left _ (by decide), Nat.mul_comm a 8, Nat.mul_div_mul_left _ _ (by decide)]

/-- A memory after a change of its segment mask (R280). -/
theorem mget_segSet {size a : Nat} (h8 : 8 ∣ size) (ha : a < size) (old : BitVec 8) (m : Mem) :
    mget ((List.range 8).foldl (fun m i => if v.getLsbD i && !old.getLsbD i then mzero m (size / 8 * i) (size / 8 * (i + 1)) else m) m) a =
      if v.getLsbD (segOf size a) && !old.getLsbD (segOf size a) then 0#8 else mget m a := by
  rw [mget_zeroed (fun i => v.getLsbD i && !old.getLsbD i), segOf_eq h8]
  refine if_congr (and_iff_left ?_) rfl rfl
  rw [Nat.div_mul_cancel h8]
  exact ha

/-! ### Acknowledgements of segments -/

/-- A staged change of the unit that segment `i` acknowledges. -/
def segMine (s : State) (u : SegUnit) (i : Nat) (up : Bool) (g : Staged) : Bool :=
  g.sent && !g.acked && (segKind u g.kind).any fun v => v.getLsbD i == up && (segMaskOf s u).getLsbD i != up

/-- Whether segment `i` is the last of a change to acknowledge. -/
def segLast (s : State) (u : SegUnit) (i : Nat) (g : Staged) : Bool :=
  (segKind u g.kind).any fun v => (segMaskOf s u ^^^ v) &&& ~~~(g.acks ||| 1#8 <<< i) == 0#8

/-- A staged change with the acknowledgement of segment `i`. -/
def segNoted (s : State) (u : SegUnit) (i : Nat) (g : Staged) : Staged :=
  { g with acks := g.acks ||| 1#8 <<< i, acked := segLast s u i g, ackS := s.sch.sCycle }

/-- The state with other staged changes. -/
def withStaged (s : State) (l : List Staged) : State := { s with mgm := { s.mgm with staged := l } }

theorem segAck_eq (i : Nat) (up : Bool) : segAck s u i up = withStaged s (mapFirst (segMine s u i up) (segNoted s u i) s.mgm.staged) := by
  have hmine : (fun g : Staged => g.sent && !g.acked && match segKind u g.kind with
      | some v => v.getLsbD i == up && (segMaskOf s u).getLsbD i != up
      | none => false) = segMine s u i up := by
    funext g
    unfold segMine
    cases segKind u g.kind <;> rfl
  unfold segAck
  rw [← hmine]
  rfl

/-- Outside RUNNING, DRAINING and HALTED the one change of a segment mask takes effect with the last acknowledgement (R437, R441). -/
theorem segSettle_one (hst : stagesNow s = false) (hh : s.dev.state ≠ .halted) (hg : s.mgm.staged = [g]) (hk : g.kind = .segment u v) :
    segSettle s = if g.acked then segDownEnd (segSet (withStaged s []) u v) u 255 else s := by
  have hlive : ¬ (stagesNow s || s.dev.state == .halted) = true := by simp [hst, hh]
  rw [segSettle, if_neg hlive]
  cases hack : g.acked with
  | true =>
    simp only [hg, hk, hack, List.filter_cons, List.filter_nil, Bool.and_true, Bool.not_true, Bool.false_eq_true, if_true, if_false, State.mapMgm,
      State.each, List.foldl_cons, List.foldl_nil]
    rfl
  | false =>
    simp only [hg, hk, hack, List.filter_cons, List.filter_nil, Bool.false_and, Bool.not_false, Bool.false_eq_true, if_true, if_false, State.mapMgm,
      State.each, List.foldl_nil]
    rw [← hg]

theorem segSettle_live (h : stagesNow s = true ∨ s.dev.state = .halted) (h7 : s.sch.weirPhase ≠ 7) : segSettle s = s := by
  rw [segSettle, if_pos (by obtain h | h := h <;> simp [h]), stagedCheck_of_phase h7]

theorem segDownEnd_frame (m : BitVec 8) : segDownEnd s u m = { s with cores := (segDownEnd s u m).cores, pools := (segDownEnd s u m).pools } := by
  cases u <;> rfl

theorem segSet_frame : segSet s u v = { s with cores := (segSet s u v).cores, pools := (segSet s u v).pools } := by
  cases u <;> rfl

/-- A change that finds room is staged, not yet acknowledged (R438). -/
theorem stage_put {k : StageKind} (hroom : stageRoom s k = true) :
    (∃ g ∈ (stage s k).mgm.staged, g.kind = k ∧ g.acked = false ∧ (g.sent = !stageHeld k) ∧ g.weir = stageWeir s) ∧
      stage s k = { s with mgm := { s.mgm with staged := (stage s k).mgm.staged } } := by
  unfold stage
  simp only [State.mapMgm]
  split
  · next h =>
    obtain ⟨x, hx, ho⟩ := List.any_eq_true.1 h
    refine ⟨⟨_, List.mem_map.2 ⟨x, hx, if_pos (by simpa using ho)⟩, rfl, rfl, rfl, rfl⟩, rfl⟩
  · next h =>
    have hlen : s.mgm.staged.length < 32 := by
      simp only [stageRoom, Bool.or_eq_true, decide_eq_true_eq] at hroom
      exact hroom.resolve_right h
    rw [if_pos hlen]
    exact ⟨⟨_, List.mem_append_right _ List.mem_cons_self, rfl, rfl, rfl, rfl⟩, rfl⟩

theorem stage_segment (hroom : stageRoom s (.segment u v) = true) :
    (∃ g ∈ (stage s (.segment u v)).mgm.staged, g.kind = .segment u v ∧ g.acked = false ∧ g.sent = false ∧ g.weir = stageWeir s) ∧
      stage s (.segment u v) = { s with mgm := { s.mgm with staged := (stage s (.segment u v)).mgm.staged } } := stage_put hroom

/-- An acknowledgement depends on the masks and the staged changes alone. -/
theorem segAck_segDownEnd (i : Nat) (m : BitVec 8) : segAck (segDownEnd s u m) u i false =
    withStaged (segDownEnd s u m) (mapFirst (segMine s u i false) (segNoted s u i) s.mgm.staged) := by
  have hmine : segMine (segDownEnd s u m) u i false = segMine s u i false := by
    funext g
    rw [segMine, segMine, segDownEnd_mask]
  have hnoted : segNoted (segDownEnd s u m) u i = segNoted s u i := by
    funext g
    rw [segNoted, segNoted, segLast, segLast, segDownEnd_mask, segDownEnd_frame]
  rw [segAck_eq, hmine, hnoted, segDownEnd_frame]

/-! ### The commands of a segment -/

variable {i : Fin 8}

theorem powerDownDone_live (hf : segInFlight s u i.val = 0) (h : stagesNow s = true ∨ s.dev.state = .halted) (h7 : s.sch.weirPhase ≠ 7) :
    exec (.segmentPowerDownDone u i) s =
      .next (withStaged (segDownEnd s u (1#8 <<< i.val)) (mapFirst (segMine s u i.val false) (segNoted s u i.val) s.mgm.staged)) := by
  refine congrArg Host.Outcome.next ((if_pos hf).trans ?_)
  rw [segAck_segDownEnd]
  refine segSettle_live ?_ ?_ <;> rw [segDownEnd_frame]
  · exact h
  · exact h7

theorem powerUpDone_live (h : stagesNow s = true ∨ s.dev.state = .halted) (h7 : s.sch.weirPhase ≠ 7) :
    exec (.segmentPowerUpDone u i) s = .next (withStaged s (mapFirst (segMine s u i.val true) (segNoted s u i.val) s.mgm.staged)) := by
  refine congrArg Host.Outcome.next ?_
  rw [segAck_eq]
  exact segSettle_live h h7

section
variable (hst : stagesNow s = false) (hh : s.dev.state ≠ .halted) (hg : s.mgm.staged = [g]) (hk : g.kind = .segment u v)
include hst hh hg hk

theorem powerUpDone_one (hmine : segMine s u i.val true g = true) : ∃ t, exec (.segmentPowerUpDone u i) s = .next t ∧
    if segLast s u i.val g then segMaskOf t u = v ∧ t.mgm.staged = []
    else t.mgm.staged = mapFirst (segMine s u i.val true) (segNoted s u i.val) s.mgm.staged ∧ t.cores = s.cores ∧ t.pools = s.pools := by
  refine ⟨_, rfl, ?_⟩
  have hone : mapFirst (segMine s u i.val true) (segNoted s u i.val) s.mgm.staged = [segNoted s u i.val g] := by
    rw [hg, mapFirst, if_pos hmine]
  rw [segAck_eq, hone, segSettle_one (s := withStaged s [segNoted s u i.val g]) (g := segNoted s u i.val g) hst hh rfl hk]
  cases h : segLast s u i.val g with
  | true =>
    simp only [segNoted, h, if_true]
    refine ⟨segDownEnd_mask.trans segSet_mask, ?_⟩
    rw [segDownEnd_frame, segSet_frame]
    rfl
  | false =>
    simp only [segNoted, h, Bool.false_eq_true, if_false]
    exact ⟨rfl, rfl, rfl⟩

theorem powerDownDone_one (hmine : segMine s u i.val false g = true) (hf : segInFlight s u i.val = 0) : ∃ t, exec (.segmentPowerDownDone u i) s = .next t ∧
    if segLast s u i.val g then segMaskOf t u = v ∧ t.mgm.staged = []
    else segMaskOf t u = segMaskOf s u ∧ t.mgm.staged = mapFirst (segMine s u i.val false) (segNoted s u i.val) s.mgm.staged := by
  refine ⟨_, congrArg Host.Outcome.next (if_pos hf), ?_⟩
  have hone : mapFirst (segMine s u i.val false) (segNoted s u i.val) s.mgm.staged = [segNoted s u i.val g] := by
    rw [hg, mapFirst, if_pos hmine]
  rw [segAck_segDownEnd, hone, 
    segSettle_one (s := withStaged (segDownEnd s u _) [segNoted s u i.val g]) (g := segNoted s u i.val g) (by rw [segDownEnd_frame]; exact hst)
      (by rw [segDownEnd_frame]; exact hh) rfl hk]
  cases h : segLast s u i.val g with
  | true =>
    simp only [segNoted, h, if_true]
    refine ⟨segDownEnd_mask.trans segSet_mask, ?_⟩
    rw [segDownEnd_frame, segSet_frame]
    rfl
  | false =>
    simp only [segNoted, h, Bool.false_eq_true, if_false]
    exact ⟨segDownEnd_mask, rfl⟩

end

end

/-- Settles O32. -/
theorem segmentsPowered : Obligations.SegmentsPowered := by
  intro p u mask s off on
  have hused (h : ∀ i, i < 8 → off i = true → segUsed s u i = false) :
      (!((List.range 8).filter fun i => (segMaskOf s u).getLsbD i && !mask.getLsbD i).any fun i => segUsed s u i) = true := by
    rw [Bool.not_eq_true', List.any_eq_false]
    intro i hi
    obtain ⟨hi8, ho⟩ := List.mem_filter.1 hi
    rw [h i (List.mem_range.1 hi8) ho]
    exact Bool.false_ne_true
  refine ⟨fun h hst hoff => ?_, fun h hst hrep hoff hroom => ?_, fun i h hrep hi hoff huse => ?_, fun i hne => ?_, fun i => ⟨fun hf h h7 => ?_, fun h h7 => ?_,
    fun g v hst hh hg hk hack => ⟨powerUpDone_one hst hh hg hk, powerDownDone_one hst hh hg hk⟩⟩⟩
  · have hex : exec (.segmentMaskWrite p u mask) s = .next (okResp (segSet s u mask) p (segObj u)) := by
      refine congrArg Host.Outcome.next ((odReq_done h (by rw [hst]; rfl) (firstAbort_zero _ ?_)).trans ?_)
      · exact List.forall_mem_cons.2 ⟨hused hoff, List.forall_mem_cons.2 ⟨by simp [hst], by simp⟩⟩
      · rw [hst]
        rfl
    refine ⟨_, hex, okResp_granted .., segSet_mask, ?_, ?_, ?_⟩
    · rintro c rfl a ha
      show mget ((segSet s (.core c) mask).core c.val).spad a = _
      simp only [segSet, State.mapCore_core_same]
      exact mget_segSet (spadBytes_segments c.val) ha (s.core c.val).segMask (s.core c.val).spad
    · rintro c rfl a ha
      show mget ((segSet s (.pool c) mask).pool c.val).mem a = _
      simp only [segSet, State.mapPool_pool_same]
      exact mget_segSet (by decide) ha (s.pool c.val).segMask (s.pool c.val).mem
    · rw [segSet_frame]
      rfl
  · have hex : exec (.segmentMaskWrite p u mask) s = .next (okResp (stage s (.segment u mask)) p (segObj u)) := by
      refine congrArg Host.Outcome.next ((odReq_done h (by rw [hrep, Bool.and_false]; rfl) (firstAbort_zero _ ?_)).trans ?_)
      · exact List.forall_mem_cons.2 ⟨hused hoff, List.forall_mem_cons.2 ⟨by simp [hroom], by simp⟩⟩
      · rw [if_pos hst]
    obtain ⟨hmem, hframe⟩ := stage_segment hroom
    refine ⟨_, hex, okResp_granted .., hmem, ?_⟩
    rw [hframe]
    rfl
  · have hex : exec (.segmentMaskWrite p u mask) s = .next (refuse s p (segObj u) abINUSE) := by
      have hany : ((List.range 8).filter fun i => (segMaskOf s u).getLsbD i && !mask.getLsbD i).any (fun i => segUsed s u i) = true :=
        List.any_eq_true.2 ⟨i, List.mem_filter.2 ⟨List.mem_range.2 hi, hoff⟩, huse⟩
      have hchk (l : List (Bool × Nat)) : firstAbort ((!((List.range 8).filter fun i => (segMaskOf s u).getLsbD i && !mask.getLsbD i).any
          (fun i => segUsed s u i), abINUSE) :: l) = abINUSE := by rw [hany]; rfl
      refine congrArg Host.Outcome.next ((odReq_refused h ?_ ?_).trans ?_)
      · cases hst : stagesNow s
        · rfl
        · rw [hrep hst]
          rfl
      · rw [hchk]
        decide
      · rw [hchk]
    exact ⟨_, hex, refuse_denied .., refuse_cores .., refuse_pools ..⟩
  · exact congrArg Host.Outcome.next (if_neg hne)
  · refine ⟨_, powerDownDone_live hf h h7, ?_, ?_, ?_⟩
    · rw [segDownEnd_frame]
      rfl
    · rintro c rfl
      have hcore := State.mapCore_core_same s c.val fun k => { k with segDown := k.segDown &&& ~~~(1#8 <<< i.val) }
      exact ⟨(congrArg Core.segDown hcore).trans rfl, (congrArg Core.spad hcore).trans rfl⟩
    · rintro c rfl
      show ((segDownEnd s (.pool c) _).pool c.val).segDown = _
      simp only [segDownEnd, State.mapPool_pool_same]
  · exact powerUpDone_live h h7

end Sys2Proof.Machine
end

section
/-! PROOFS. What a packet that is sent leaves: it changes links, injection buffers and what waits for them, counters, the causes of Eddies and event records, and
nothing else. -/
namespace Sys2Proof.Machine

/-- The fabric without its links, injection buffers, what waits for them and its drop counter. -/
def netRest (f : Fabric) : Fabric := { f with links := [], waiting := [], inj := [], inj2 := [], injAt := [], injIn := [], arrDrops := 0 }

/-- The state without what packets that are sent change. -/
def netView (s : State) : State := { s with fab := netRest s.fab, sch := { s.sch with causes := [] }, evr := {} }

section
variable {s : State}

theorem mapFab_netView {f : Fabric → Fabric} (h : netRest (f s.fab) = netRest s.fab) : netView (s.mapFab f) = netView s :=
  congrArg (fun x : Fabric => ({ s with fab := x, sch := { s.sch with causes := [] }, evr := {} } : State)) h

@[simp] theorem mapLink_netView (l : Nat) (f : Link → Link) : netView (s.mapLink l f) = netView s := rfl

@[simp] theorem endCause_netView (n src d : Nat) : netView (endCause s n src d) = netView s := rfl

@[simp] theorem raise_netView (id n : Nat) (l : List Nat) : netView (raise s id n l) = netView s := by
  rw [raise_frame]
  rfl

@[simp] theorem dropArr_netView (l : List Nat) : netView (dropArr s l) = netView s := (raise_netView ..).trans (mapFab_netView rfl)

@[simp] theorem dropAtLink_netView (l : Nat) : netView (dropAtLink s l) = netView s := by simp [dropAtLink]

theorem cond_netView {b : Bool} {f : State → State} (h : netView (f s) = netView s) : netView (s.cond b f) = netView s :=
  State.cond_keeps s (fun t => netView t = netView s) b f (fun _ => h) rfl

@[simp] theorem rxDrop_netView (o : Nat) (fl : BitVec 128) : netView (rxDrop s o fl) = netView s := by
  unfold rxDrop
  split <;> rfl

@[simp] theorem injFreed_netView (had : Bool) (b : Nat) : netView (injFreed had s b) = netView s := by
  unfold injFreed
  split
  · cases had <;> rfl
  · rfl

@[simp] theorem srcStamp_netView (l v src : Nat) (p : Packet) : netView (srcStamp s l v src p) = netView s := by
  unfold srcStamp
  split <;> rfl

@[simp] theorem srcGone_netView (l v src n : Nat) : netView (srcGone s l v src n) = netView s := by
  unfold srcGone
  dsimp only
  split
  · rfl
  · split <;> rfl

@[simp] theorem sendFlit_netView (l v : Nat) (fresh : Bool) : netView (sendFlit s l v fresh).1 = netView s := by
  unfold sendFlit
  split
  · rfl
  · split
    · rfl
    · refine (cond_netView (injFreed_netView _ _)).trans ((srcGone_netView _ _ _ _).trans ((cond_netView (rxDrop_netView _ _)).trans ?_))
      refine (mapLink_netView _ _).trans ?_
      split
      · exact srcStamp_netView ..
      · rfl

theorem fillFrame_netView (l n : Nat) (acc : List (Nat × BitVec 128)) : netView (fillFrame s l acc n).1 = netView s := by
  induction n generalizing s acc with
  | zero => rfl
  | succ n ih =>
    unfold fillFrame
    split
    · rfl
    · exact (ih _).trans (sendFlit_netView ..)

theorem pumpGo_netView (l n : Nat) : netView (pumpGo s l n) = netView s := by
  induction n generalizing s with
  | zero => rfl
  | succ n ih =>
    unfold pumpGo
    dsimp only
    split
    · rfl
    · exact ih.trans ((mapLink_netView _ _).trans (fillFrame_netView ..))

@[simp] theorem pump_netView (l : Nat) : netView (pump s l) = netView s := by
  unfold pump
  split
  · exact pumpGo_netView ..
  · rfl

@[simp] theorem forward_netView (l : Nat) (p : Packet) : netView (forward s l p) = netView s := by
  unfold forward
  split <;> simp

theorem inject_netView {t : State} {set2 : Bool} {p : Packet} (h : (inject s set2 p).1 = some t) : netView t = netView s := by
  simp only [inject] at h
  split_ifs at h <;> cases h
  · exact dropAtLink_netView _
  · exact mapFab_netView rfl
  · exact mapFab_netView rfl

@[simp] theorem injRefill_netView : netView (injRefill s) = netView s := by
  unfold injRefill
  refine List.foldlRecOn (motive := fun t : State => netView t = netView s) _ _ rfl fun t h p _ => ?_
  split
  · next u hu => exact (inject_netView hu).trans h
  · exact h

@[simp] theorem injOwn_netView (o : Nat) (p : Packet) : netView (injOwn s o p) = netView s := injRefill_netView.trans rfl

@[simp] theorem serviceSend_netView (path tc q tag : Nat) (bs : List Byte) : netView (serviceSend s path tc q tag bs) = netView s := by
  unfold serviceSend
  dsimp only
  split
  · simp
  · split <;> simp

@[simp] theorem askSource_netView (m : Manifest) (k i n : Nat) : netView (askSource s m k i n) = netView s := serviceSend_netView ..

end
end Sys2Proof.Machine
end

section
/-! PROOFS. Uncorrectable errors and replays (O33). -/
namespace Sys2Proof.Machine

section
variable {s t : State} {m : MemLoc} {per : Bool} {r : Replay} {d : List Byte}

/-! ### Records -/

/-- What a record says and how it is held depends on the records, the schedule and the time alone. -/
theorem raise_evr_now (he : t.evr = s.evr) (hs : t.sch = s.sch) (hnow : t.now = s.now) (id n : Nat) (l : List Nat) :
    (raise t id n l).evr = (raise s id n l).evr := by
  have hscyc : evScyc t id = evScyc s id := by rw [evScyc, evScyc, hs]
  unfold raise holdRec
  rw [hscyc, hnow, hs, he]
  dsimp only
  split
  · simp only [he]
  · split
    · simp only [countDrop, he]
    · simp only [countDrop, he]

theorem raise_evr_congr (he : t.evr = s.evr) (hs : t.sch = s.sch) (hf : t.fab = s.fab) (id n : Nat) (l : List Nat) :
    (raise t id n l).evr = (raise s id n l).evr := raise_evr_now he hs (congrArg Fabric.ftime hf) id n l

/-! ### The mark of an uncorrectable error -/

theorem markBad_frame : markBad s m per =
    { s with cores := (markBad s m per).cores, pools := (markBad s m per).pools, beds := (markBad s m per).beds } := by cases m <;> rfl

theorem markBad_dev : (markBad s m per).dev = s.dev := by rw [markBad_frame]

theorem markBad_sch : (markBad s m per).sch = s.sch := by rw [markBad_frame]

theorem markBad_rep : (markBad s m per).rep = s.rep := by rw [markBad_frame]

theorem markBad_evr : (markBad s m per).evr = s.evr := by rw [markBad_frame]

theorem markBad_fab : (markBad s m per).fab = s.fab := by rw [markBad_frame]

theorem rowOf_congr (h : t.rep = s.rep) (l : Nat) : rowOf t l = rowOf s l := by
  unfold rowOf
  rw [h]

theorem memNode_congr (h : t.rep = s.rep) (m : MemLoc) : memNode t m = memNode s m := by
  cases m <;> simp only [memNode, rowOf_congr h]

theorem memItems_congr (h : t.rep = s.rep) (m : MemLoc) : memItems t m = memItems s m := by
  cases m <;> simp only [memItems, rowOf_congr h]

/-- The record of an error is the one that the state before its mark would make. -/
theorem raise_markBad_evr (id : Nat) :
    (raise (markBad s m per) id (memNode (markBad s m per) m) (memItems (markBad s m per) m)).evr = (raise s id (memNode s m) (memItems s m)).evr := by
  rw [memNode_congr markBad_rep, memItems_congr markBad_rep]
  exact raise_evr_congr markBad_evr markBad_sch markBad_fab _ _ _

/-! ### The machine check (R270, R271) -/

theorem machineCheck_first (hj : s.sch.job = true) (hst : stagesNow s = true) (h0 : s.sch.replayed = false) (hr : s.sch.replay = none) :
    machineCheck s m per = addCause ((raise (markBad s m per) 0x0802 (memNode (markBad s m per) m) (memItems (markBad s m per) m)).mapSch fun k =>
      { k with replay := some { loc := m, persistent := per, atW := k.wCycle } }) 11 0 := by
  rw [machineCheck, if_neg (by simp [hj, hst])]
  exact if_neg (by simp [markBad_sch, h0, hr])

theorem machineCheck_second (hj : s.sch.job = true) (hst : stagesNow s = true) (h : s.sch.replayed = true ∨ s.sch.replay ≠ none) :
    machineCheck s m per = fatal (markBad s m per) 0x0803 (memNode (markBad s m per) m) (memItems (markBad s m per) m) := by
  rw [machineCheck, if_neg (by simp [hj, hst])]
  exact if_pos (by rw [markBad_sch, Option.isSome_iff_ne_none]; exact h)

theorem addCause_replay (n src : Nat) : (addCause s n src).sch.replay = s.sch.replay := by
  unfold addCause
  split <;> rfl

theorem stagesNow_iff : stagesNow s = true ↔ s.dev.state = .running ∨ s.dev.state = .draining := by simp [stagesNow]

/-! ### The restart of a step (R274) -/

theorem restartStep_core {c : Nat} {k : CoreCopy} (h : s.sch.copies = [(c, k)]) : (restartStep s r).core c = restoreCore s.sch.base k (s.core c) := by
  unfold restartStep
  rw [h]
  exact State.mapCore_core_same ..

/-- What a restart leaves beside the cores and the pools. -/
theorem restartStep_rest : (restartStep s r).free = s.sch.freeAt ∧ (restartStep s r).sch.sCycle = s.sch.base ∧ (restartStep s r).sch.replayed = true ∧
    (restartStep s r).sch.replay = none ∧ (restartStep s r).sch.discard = s.sch.handed ∧ (restartStep s r).sch.signals = [] ∧
    (restartStep s r).sch.replayCount = sat32 s.sch.replayCount ∧ hasCause (restartStep s r) 11 = false ∧ (restartStep s r).trib.outStep = [] ∧
    (restartStep s r).trib.used = [] ∧ (restartStep s r).fab.takes = [] := by
  have hsch : (s.each s.sch.copies fun z p => z.mapCore p.1 (restoreCore s.sch.base p.2)).sch = s.sch :=
    State.each_keeps s (fun u => u.sch = s.sch) _ _ (fun _ _ h => h) rfl
  unfold restartStep
  dsimp only [dropCause, State.mapSch, State.mapFab, State.mapSrv]
  rw [hsch]
  refine ⟨rfl, rfl, rfl, rfl, rfl, rfl, rfl, ?_, rfl, rfl, rfl⟩
  refine List.any_eq_false.2 fun x hx hno => ?_
  obtain ⟨-, hne⟩ := List.mem_filter.1 hx
  exact absurd hno (by simpa using hne)

theorem replayReady_transient (hr : s.sch.replay = some r) (hp : r.persistent = false) :
    exec (.replayReady d) s = .next (if s.sch.wCycle < r.atW + 64 then s else restartStep s r) := by
  show Host.Outcome.next (replayReady s d) = _
  rw [replayReady, hr]
  exact congrArg Host.Outcome.next (if_pos (by rw [hp]; rfl))

/-! ### Errors found outside the schedule (R276) -/

theorem outsideDo_done {i : Instr} {f : State → State} (h : CycleFree s i) : outsideDo s i f = f s := by
  unfold outsideDo
  split
  · rfl
  · next q n wr hj =>
    obtain ⟨hheld, hbehind⟩ := h q n wr hj
    rw [hheld, hbehind]
    rfl

theorem outsideDo_waits {i : Instr} {f : State → State} {q : Nat} {wr : Bool} (hj : outsideJob s i = some (q, m, wr)) (hheld : cycleHeld (wideNow s) s m wr = true) :
    outsideDo s i f = { s with beds := { s.beds with waiting := s.beds.waiting ++ [i] } } := by
  rw [outsideDo, hj]
  exact if_pos (by rw [hheld]; rfl)

theorem uncorrectableOutside_eq (hoff : s.dev.state ≠ .off) (h : CycleFree s (.uncorrectableOutside m d)) :
    exec (.uncorrectableOutside m d) s = .next (outsideError s m d) :=
  congrArg Host.Outcome.next ((if_neg hoff).trans (outsideDo_done h))

/-! ### An error in the beds -/

/-- What the answer to an error in the beds leaves unchanged. -/
def errorView (s : State) : FMap Core × FMap Pool × FMap Nat := (s.cores, s.pools, s.beds.uncorr)

theorem errorView_of_netView (h : netView t = netView s) : errorView t = errorView s := by
  have e := congrArg (fun u : State => (u.cores, u.pools, u.beds.uncorr)) h
  exact e

@[simp] theorem raise_errorView (id n : Nat) (l : List Nat) : errorView (raise s id n l) = errorView s := errorView_of_netView (raise_netView ..)

@[simp] theorem lineZero_errorView (l : Nat) : errorView (lineZero s l) = errorView s := rfl

theorem logWrite_errorView (o : Nat) (bs : List Byte) : errorView (logWrite s o bs) = errorView s := by
  unfold logWrite
  split <;> rfl

theorem inpAdd_errorView (k y : Nat) (bs : List Byte) : errorView (inpAdd s k y bs) = errorView s := by
  unfold inpAdd
  split
  · extract_lets e n room
    split
    · refine (raise_errorView ..).trans ?_
      unfold inpStop
      split
      · exact logWrite_errorView ..
      · rfl
    · rfl
  · rfl

theorem refetchAsk_errorView (k : Nat) : errorView (refetchAsk s k) = errorView s := by
  unfold refetchAsk
  split
  · exact (errorView_of_netView (askSource_netView ..)).trans rfl
  · rfl

theorem refetchAdd_errorView (l : Nat) : errorView (refetchAdd s l) = errorView s := by
  unfold refetchAdd
  split
  · rfl
  · split
    · exact raise_errorView ..
    · dsimp only
      split
      · exact refetchAsk_errorView _
      · rfl

theorem refetchForget_errorView (l : Nat) : errorView (refetchForget s l) = errorView s := by
  unfold refetchForget
  split
  · unfold refetchDrop
    dsimp only
    split
    · exact refetchAsk_errorView _
    · rfl
  · rfl

theorem rowRepair_errorView (l : Nat) (p : Bool) : errorView (rowRepair s l p) = errorView s := by
  unfold rowRepair
  dsimp only
  split
  · split
    · rfl
    · exact raise_errorView ..
  · cases p
    · rfl
    · exact raise_errorView ..

theorem lineRecover_errorView (l : Nat) : errorView (lineRecover s l d).1 = errorView s := by
  have hstate (u : State) (i : Nat) (v : PieceState) (f : Weights → Weights) : errorView (setPiece (u.mapWts f) i v) = errorView u := rfl
  have hadap (u : State) (i : Nat) (f : Adapter → Adapter) : errorView (u.mapAdap i f) = errorView u := rfl
  have hcond (b : Bool) (u : State) (f : State → State) (h : errorView (f u) = errorView u) : errorView (u.cond b f) = errorView u :=
    State.cond_keeps u (fun t => errorView t = errorView u) b f (fun _ => h) rfl
  unfold lineRecover
  dsimp only
  split
  case h_1 | h_2 =>
    split_ifs
    · rfl
    · rfl
    · rfl
    · exact (refetchForget_errorView _).trans ((raise_errorView ..).trans rfl)
    · rfl
  case h_3 =>
    split
    · exact (raise_errorView ..).trans ((inpAdd_errorView ..).trans rfl)
    · exact (raise_errorView ..).trans ((inpAdd_errorView ..).trans rfl)
  case h_4 => exact (raise_errorView ..).trans ((hcond _ _ _ rfl).trans rfl)
  case h_5 => exact (inpAdd_errorView ..).trans rfl
  case h_6 => rfl

theorem outsideError_beds (l : Nat) : errorView (outsideError s (.beds l) d) = errorView (markBad s (.beds l) true) := by
  have hrec : errorView (lineRecover (rowRepair (raise (markBad s (.beds l) true) 0x0804 (memNode (markBad s (.beds l) true) (.beds l))
      (memItems (markBad s (.beds l) true) (.beds l))) l true) l d).1 = errorView (markBad s (.beds l) true) :=
    (lineRecover_errorView ..).trans ((rowRepair_errorView ..).trans (raise_errorView ..))
  unfold outsideError
  dsimp only
  split
  · exact hrec
  · exact (refetchAdd_errorView ..).trans hrec

end

/-- Settles O33. -/
theorem memoryErrorsServed : Obligations.MemoryErrorsServed := by
  intro s
  refine ⟨fun m per hj hst h0 hr => ?_, fun m per hj hst h => ?_, fun r d hr hp hlt => ?_, fun r d hr hp hle => ?_, fun hoff =>
    ⟨fun c g d => ⟨_, uncorrectableOutside_eq hoff (fun _ _ _ h => nomatch h), ?_⟩, fun cl g d => ⟨_, uncorrectableOutside_eq hoff (fun _ _ _ h => nomatch h), ?_⟩,
      fun l d hheld => ?_, fun l d hfree => ⟨_, uncorrectableOutside_eq hoff hfree, ?_⟩⟩⟩
  · refine ⟨_, congrArg Host.Outcome.next (machineCheck_first hj hst h0 hr), addCause_hasCause, ?_, by simp [markBad_dev], ?_⟩
    · rw [addCause_replay]
      simp [markBad_sch]
    · rw [addCause_evr]
      exact raise_markBad_evr 0x0802
  · refine ⟨_, congrArg Host.Outcome.next (machineCheck_second hj hst h), ?_⟩
    obtain ⟨hhalt, hid⟩ := fatal_state (s := markBad s m per) 0x0803 (memNode (markBad s m per) m) (memItems (markBad s m per) m)
      (by rw [markBad_dev]; exact stagesNow_iff.1 hst)
    exact ⟨hhalt, hid, (fatal_sch ..).trans markBad_sch⟩
  · rw [replayReady_transient hr hp, if_pos hlt]
  · refine ⟨restartStep s r, by rw [replayReady_transient hr hp, if_neg (Nat.not_lt.2 hle)], ?_⟩
    obtain ⟨h1, h2, h3, h4, h5, h6, h7, h8, h9, h10, h11⟩ := restartStep_rest (s := s) (r := r)
    refine ⟨h1, h2, h3, h4, h5, h6, h7, h8, h9, h10, h11, fun c k hcopies => ?_⟩
    rw [restartStep_core hcopies]
    exact ⟨rfl, rfl, rfl, rfl, rfl, rfl, rfl, rfl⟩
  · have hcores : (outsideError s (.spad c g) d).cores = (markBad s (.spad c g) true).cores := raise_cores ..
    refine ⟨raise_markBad_evr 0x0804, (core_of_cores hcores c.val).trans ?_, fun k hk => (core_of_cores hcores k).trans ?_, ?_⟩
    · exact (State.mapCore_core_same s c.val _).trans rfl
    · exact State.mapCore_core_ne s c.val k _ hk
    · rw [hcores]
      exact raise_frame (markBad s (.spad c g) true) 0x0804 _ _
  · have hpools : (outsideError s (.pool cl g) d).pools = (markBad s (.pool cl g) true).pools := raise_pools ..
    refine ⟨raise_markBad_evr 0x0804, ?_, ?_⟩
    · rw [State.pool, hpools]
      exact (State.mapPool_pool_same s cl.val _).trans rfl
    · rw [hpools]
      exact raise_frame (markBad s (.pool cl g) true) 0x0804 _ _
  · refine congrArg Host.Outcome.next ((if_neg hoff).trans (outsideDo_waits rfl hheld))
  · have hv := outsideError_beds (s := s) (d := d) l
    have hu := congrArg (fun v : FMap Core × FMap Pool × FMap Nat => fget v.2.2 0 (rowOf s l).1) hv
    exact ⟨hu.trans (fget_fset_same ..), congrArg (·.1) hv, congrArg (·.2.1) hv⟩

end Sys2Proof.Machine
end

section
/-! PROOFS. Scrubbing and partitions (O34). -/
namespace Sys2Proof.Machine

section
variable {s t : State} {m : MemLoc} {d : List Byte}

/-! ### Corrected errors -/

/-- A change of the values of a table that a reader does not see. -/
theorem fget_map_congr {α β : Type} {f : α → α} {g : α → β} (h : ∀ x, g (f x) = g x) (l : FMap α) (e : α) (k : Nat) :
    g (fget (l.map fun p => (p.1, f p.2)) e k) = g (fget l e k) := by
  induction l with
  | nil => rfl
  | cons p l ih =>
    simp only [List.map_cons, fget]
    split
    · exact h p.2
    · exact ih

theorem fenceDo_cores (cl : Nat) (de : Bool) (pos : Nat) : (fenceDo s cl de pos).cores = s.cores := by
  unfold fenceDo
  dsimp only
  split
  · exact raise_cores ..
  · split
    · rfl
    · split
      · exact haltNext_cores ..
      · unfold slotAbsent
        dsimp only
        split <;> exact raise_cores ..

theorem autoFence_cores (c : Nat) : (autoFence s c).cores = s.cores := by
  unfold autoFence
  extract_lets k pos de p
  split
  · exact fenceDo_cores ..
  · rfl

/-- What counting corrected errors and scrubbing leave of a core's memory. -/
def scrubView (k : Core) : Mem × FMap Bool × Nat := (k.spad, k.bad, k.corr)

theorem hourCount_scrubView (c n k : Nat) : scrubView ((hourCount s c n).core k) = scrubView (s.core k) := by
  unfold hourCount
  rw [core_of_cores (autoFence_cores c), State.mapCore_core]
  have hreset (u : State) (hu : u.cores = s.cores ∨ u.cores = s.cores.map fun p => (p.1, { p.2 with corrHour := 0 })) (j : Nat) :
      scrubView (u.core j) = scrubView (s.core j) := by
    obtain hu | hu := hu
    · rw [core_of_cores hu]
    · rw [State.core, hu]
      exact fget_map_congr (f := fun k : Core => { k with corrHour := 0 }) (fun _ => rfl) s.cores {} j
  split
  · next hk =>
    subst hk
    refine Eq.trans rfl (hreset _ ?_ k)
    split
    · exact .inr rfl
    · exact .inl rfl
  · refine hreset _ ?_ k
    split
    · exact .inr rfl
    · exact .inl rfl

theorem cond_cores {b : Bool} {f : State → State} (h : (f s).cores = s.cores) : (s.cond b f).cores = s.cores :=
  State.cond_keeps s (fun t => t.cores = s.cores) b f (fun _ => h) rfl

/-- Corrected errors of a scratchpad are counted (R287), and its content stays. -/
theorem countCorr_spad {c : CoreId} {g n : Nat} (hn : 0 < n) (k : Nat) : scrubView ((countCorr s (.spad c g) n).core k) =
    if k = c.val then ((s.core k).spad, (s.core k).bad, min ((s.core k).corr + n) 0xFFFFFFFF) else scrubView (s.core k) := by
  unfold countCorr
  rw [if_neg (by omega)]
  refine (hourCount_scrubView ..).trans ((congrArg scrubView (core_of_cores (cond_cores (raise_cores ..)) k)).trans ?_)
  rw [State.mapCore_core]
  split
  · next h => rw [h]; rfl
  · rfl

theorem scrubLine_spad {c : CoreId} {g n : Nat} {x : ScrubRace} (hf : CycleFree s (.scrubLine (.spad c g) n x)) (hr : scrubRuns s = true)
    (hb : fget (s.core c.val).bad false g = false) : exec (.scrubLine (.spad c g) n x) s = .next ((countCorr s (.spad c g) n).mapCore c.val fun k =>
      { k with scrub := k.scrub.step g (spadBytes c.val / 8) s.now }) := by
  refine congrArg Host.Outcome.next ((outsideDo_done hf).trans ?_)
  simp only [scrubOne, hr, isBad, hb, Bool.not_true, Bool.false_eq_true, if_false]

/-! ### Scrubbing of the beds -/

/-- What counting corrected errors leaves of the beds: all but the counts. -/
def bedView (s : State) : Beds × Option Nat × Nat := ({ s.beds with lineCorr := [] }, s.rep.stackMap, s.now)

theorem raise_bedView (id n : Nat) (l : List Nat) : bedView (raise s id n l) = bedView s := by
  rw [raise_frame]
  rfl

theorem rowRepair_bedView (l : Nat) : bedView (rowRepair s l false) = bedView s := by
  unfold rowRepair
  dsimp only
  split
  · split
    · rfl
    · exact (raise_bedView ..).trans rfl
  · rfl

theorem rowCount_bedView (l n : Nat) : bedView (rowCount s l n) = bedView s := by
  unfold rowCount
  dsimp only
  split
  · exact (rowRepair_bedView l).trans rfl
  · rfl

/-- Corrected errors of a line of the beds are counted (R287), and its content stays. -/
theorem countCorr_beds {l n : Nat} (hn : 0 < n) : bedView (countCorr s (.beds l) n) = bedView (s.mapBeds fun b =>
    { b with corr := fset b.corr 0 (rowOf s l).1 (min (fget s.beds.corr 0 (rowOf s l).1 + n) 0xFFFFFFFF) }) := by
  unfold countCorr
  rw [if_neg (by omega)]
  exact (rowCount_bedView ..).trans (State.cond_keeps _ (fun t => bedView t = bedView _) _ _ (fun _ => raise_bedView ..) rfl)

theorem countCorr_mem {l n : Nat} : (countCorr s (.beds l) n).beds.mem = s.beds.mem := by
  obtain rfl | hn := Nat.eq_zero_or_pos n
  · rfl
  · have hv := congrArg (fun v : Beds × Option Nat × Nat => v.1.mem) (countCorr_beds (s := s) (l := l) hn)
    exact hv

theorem countCorr_stackMap {l n : Nat} : (bedView (countCorr s (.beds l) n)).2.1 = s.rep.stackMap := by
  obtain rfl | hn := Nat.eq_zero_or_pos n
  · rfl
  · exact congrArg (·.2.1) (countCorr_beds hn)

theorem rowOf_of_bedView (h : (bedView t).2.1 = s.rep.stackMap) (l : Nat) : rowOf t l = rowOf s l := by
  unfold rowOf
  rw [show t.rep.stackMap = s.rep.stackMap from h]

theorem scrubLine_beds {l n : Nat} {x : ScrubRace} (hf : CycleFree s (.scrubLine (.beds l) n x)) (hr : scrubRuns s = true) (hd : scrubDue s l = true)
    (hb : fget s.beds.bad false l = false) : exec (.scrubLine (.beds l) n x) s = .next (scrubStep (countCorr s (.beds l) n) l) := by
  refine congrArg Host.Outcome.next ((outsideDo_done hf).trans ?_)
  simp only [scrubOne, hr, hd, isBad, hb, Bool.not_true, Bool.false_eq_true, if_false, if_true]

/-- The scrub goes on to the next row of its stack (R278). -/
theorem scrubStep_next (l : Nat) : fget (scrubStep s l).beds.scrubNext 0 (rowOf s l).1 =
    if 1048576 ≤ (rowOf s l).2.1 * 131072 + (rowOf s l).2.2 + 1 then 0 else (rowOf s l).2.1 * 131072 + (rowOf s l).2.2 + 1 := by
  unfold scrubStep
  simp only [decide_eq_true_eq]
  exact fget_fset_same ..

/-! ### Passes that take too long (R279) -/

/-- A core whose pass is marked as late where it is over its period. -/
def lateCore (s : State) (k : Core) : Core := { k with scrub := { k.scrub with late := k.scrub.late || scrubOver s k.scrub.since } }

/-- A pool whose pass is marked as late where it is over its period. -/
def latePool (s : State) (k : Pool) : Pool := { k with scrub := { k.scrub with late := k.scrub.late || scrubOver s k.scrub.since } }

/-- The state without the cores, the pools and the event records. -/
def passView (s : State) : State := { s with cores := [], pools := [], evr := {} }

theorem scrubOver_congr (h : passView t = passView s) : scrubOver t = scrubOver s := by
  have e := congrArg (fun u : State => scrubOver u) h
  exact e

theorem raise_passView (id n : Nat) (l : List Nat) : passView (raise s id n l) = passView s := by
  rw [raise_frame]
  rfl

theorem overCore_passView (c : CoreId) : passView (overCore s c) = passView s := by
  unfold overCore
  extract_lets x
  split
  · rfl
  · exact (raise_passView ..).trans rfl

theorem overCore_core (c : CoreId) (k : Nat) : (overCore s c).core k = if k = c.val then lateCore s (s.core k) else s.core k := by
  unfold overCore
  extract_lets x
  split
  · next h =>
    split
    · next hk =>
      subst hk
      have hlate : ((s.core c.val).scrub.late || scrubOver s (s.core c.val).scrub.since) = (s.core c.val).scrub.late := by
        obtain h | h := h <;> simp_all [x]
      rw [lateCore, hlate]
    · rfl
  · next h =>
    rw [core_of_cores (raise_cores ..), State.mapCore_core]
    split
    · next hk =>
      subst hk
      have hover : ((s.core c.val).scrub.late || scrubOver s (s.core c.val).scrub.since) = true := by simp_all [x]
      rw [lateCore, hover]
    · rfl

theorem overCore_pool (c : CoreId) : (overCore s c).pools = s.pools := by
  unfold overCore
  extract_lets x
  split
  · rfl
  · exact raise_pools ..

theorem lateCore_twice (h : scrubOver t = scrubOver s) (k : Core) : lateCore t (lateCore s k) = lateCore s k := by
  simp only [lateCore, h, Bool.or_assoc, Bool.or_self]

theorem latePool_twice (h : scrubOver t = scrubOver s) (k : Pool) : latePool t (latePool s k) = latePool s k := by
  simp only [latePool, h, Bool.or_assoc, Bool.or_self]

theorem eachCore_late (l : List CoreId) : passView (s.each l overCore) = passView s ∧ (s.each l overCore).pools = s.pools ∧
    ∀ c : CoreId, (s.each l overCore).core c.val = if c ∈ l then lateCore s (s.core c.val) else s.core c.val := by
  induction l generalizing s with
  | nil => exact ⟨rfl, rfl, fun c => (if_neg List.not_mem_nil).symm⟩
  | cons x l ih =>
    obtain ⟨hv, hp, hc⟩ := ih (s := overCore s x)
    have hx := overCore_passView (s := s) x
    refine ⟨hv.trans hx, hp.trans (overCore_pool x), fun c => (hc c).trans ?_⟩
    have hlate (k : Core) : lateCore (overCore s x) k = lateCore s k := by rw [lateCore, lateCore, scrubOver_congr hx]
    rw [overCore_core, hlate]
    by_cases hcx : c = x
    · subst hcx
      rw [if_pos rfl, if_pos List.mem_cons_self, lateCore_twice rfl, ite_self]
    · rw [if_neg (fun h => hcx (Fin.ext h))]
      exact if_congr (by simp [hcx]) rfl rfl

theorem overPool_passView (p : Fin 16) : passView (overPool s p) = passView s := by
  unfold overPool
  extract_lets x
  split
  · rfl
  · exact (raise_passView ..).trans rfl

theorem overPool_cores (p : Fin 16) : (overPool s p).cores = s.cores := by
  unfold overPool
  extract_lets x
  split
  · rfl
  · exact raise_cores ..

theorem overPool_pool (p : Fin 16) (k : Nat) : (overPool s p).pool k = if k = p.val then latePool s (s.pool k) else s.pool k := by
  unfold overPool
  extract_lets x
  split
  · next h =>
    split
    · next hk =>
      subst hk
      have hlate : ((s.pool p.val).scrub.late || scrubOver s (s.pool p.val).scrub.since) = (s.pool p.val).scrub.late := by
        obtain h | h := h <;> simp_all [x]
      rw [latePool, hlate]
    · rfl
  · next h =>
    rw [State.pool, raise_pools]
    refine (State.mapPool_pool ..).trans ?_
    split
    · next hk =>
      subst hk
      have hover : ((s.pool p.val).scrub.late || scrubOver s (s.pool p.val).scrub.since) = true := by simp_all [x]
      rw [latePool, hover]
    · rfl

theorem eachPool_late (l : List (Fin 16)) : passView (s.each l overPool) = passView s ∧ (s.each l overPool).cores = s.cores ∧
    ∀ p : Fin 16, (s.each l overPool).pool p.val = if p ∈ l then latePool s (s.pool p.val) else s.pool p.val := by
  induction l generalizing s with
  | nil => exact ⟨rfl, rfl, fun c => (if_neg List.not_mem_nil).symm⟩
  | cons x l ih =>
    obtain ⟨hv, hc, hp⟩ := ih (s := overPool s x)
    have hx := overPool_passView (s := s) x
    refine ⟨hv.trans hx, hc.trans (overPool_cores x), fun p => (hp p).trans ?_⟩
    have hlate (k : Pool) : latePool (overPool s x) k = latePool s k := by rw [latePool, latePool, scrubOver_congr hx]
    rw [overPool_pool, hlate]
    by_cases hpx : p = x
    · subst hpx
      rw [if_pos rfl, if_pos List.mem_cons_self, latePool_twice rfl, ite_self]
    · rw [if_neg (fun h => hpx (Fin.ext h))]
      exact if_congr (by simp [hpx]) rfl rfl

theorem overBeds_eq : ∃ evr, overBeds s = { s with evr := evr, beds := { s.beds with scrubLate := s.beds.scrubLate || scrubOver s s.beds.scrubSince } } := by
  unfold overBeds
  split
  · next h =>
    have hlate : (s.beds.scrubLate || scrubOver s s.beds.scrubSince) = s.beds.scrubLate := by obtain h | h := h <;> simp_all
    rw [hlate]
    exact ⟨s.evr, rfl⟩
  · next h =>
    have hover : (s.beds.scrubLate || scrubOver s s.beds.scrubSince) = true := by simp_all
    rw [hover]
    exact ⟨_, raise_frame ..⟩

/-- Each pass that takes longer than its period is marked (R279). -/
theorem scrubOverrun_late : passView (scrubOverrun s) = passView { s with beds := { s.beds with scrubLate := s.beds.scrubLate || scrubOver s s.beds.scrubSince } } ∧
    (∀ c : CoreId, (scrubOverrun s).core c.val = lateCore s (s.core c.val)) ∧ ∀ p : Fin 16, (scrubOverrun s).pool p.val = latePool s (s.pool p.val) := by
  obtain ⟨evr, hb⟩ := overBeds_eq (s := s)
  obtain ⟨hv, hp, hc⟩ := eachCore_late (s := overBeds s) (List.finRange 192)
  obtain ⟨hv', hc', hp'⟩ := eachPool_late (s := (overBeds s).each (List.finRange 192) overCore) (List.finRange 16)
  have hover : scrubOver (overBeds s) = scrubOver s := by rw [hb]; rfl
  refine ⟨hv'.trans (hv.trans (by rw [hb]; rfl)), fun c => ?_, fun p => ?_⟩
  · refine (core_of_cores hc' _).trans ((hc c).trans ((if_pos (List.mem_finRange c)).trans ?_))
    rw [lateCore, lateCore, hover, hb]
    rfl
  · refine (hp' p).trans ((if_pos (List.mem_finRange p)).trans ?_)
    rw [State.pool, hp, latePool, latePool, scrubOver_congr hv, hover, hb]
    rfl

/-- Where no pass of a core or a pool is to be marked, that of the beds alone is looked at. -/
theorem scrubOverrun_beds (hc : ∀ c : CoreId, (s.core c.val).scrub.late = true ∨ scrubOver s (s.core c.val).scrub.since = false)
    (hp : ∀ p : Fin 16, (s.pool p.val).scrub.late = true ∨ scrubOver s (s.pool p.val).scrub.since = false) : scrubOverrun s = overBeds s := by
  obtain ⟨evr, hb⟩ := overBeds_eq (s := s)
  have hcore (l : List CoreId) : (overBeds s).each l overCore = overBeds s := by
    refine State.each_keeps (overBeds s) (fun t => t = overBeds s) l overCore (fun t c h => ?_) rfl
    rw [h, overCore]
    refine if_pos ?_
    rw [hb]
    exact (hc c).imp_right fun h => congrArg Bool.not h
  have hpool (l : List (Fin 16)) : (overBeds s).each l overPool = overBeds s := by
    refine State.each_keeps (overBeds s) (fun t => t = overBeds s) l overPool (fun t p h => ?_) rfl
    rw [h, overPool]
    refine if_pos ?_
    rw [hb]
    exact (hp p).imp_right fun h => congrArg Bool.not h
  rw [scrubOverrun, hcore, hpool]

theorem scrubView_mapCore {c : Nat} {f : Core → Core} (hf : ∀ k, scrubView (f k) = scrubView k) (k : Nat) :
    scrubView ((s.mapCore c f).core k) = scrubView (s.core k) := by
  rw [State.mapCore_core]
  split
  · next h => rw [hf, h]
  · rfl

theorem passView_beds (h : passView t = passView s) : t.beds = s.beds := by
  have e := congrArg State.beds h
  exact e

theorem passView_frame (h : passView t = passView s) :
    t = { s with cores := t.cores, pools := t.pools, evr := t.evr } := by
  have e := congrArg (fun u : State => { u with cores := t.cores, pools := t.pools, evr := t.evr }) h
  exact e

end

/-- Settles O34. -/
theorem scrubAndPartitions : Obligations.ScrubAndPartitions := by
  intro s
  refine ⟨fun c g n x hf hr hb hn => ⟨_, scrubLine_spad hf hr hb, ?_, fun k => ?_⟩, fun l n x hf hr hd hb => ⟨_, scrubLine_beds hf hr hd hb, ?_, ?_, ?_⟩,
    fun m n x r wr hj hheld => congrArg Host.Outcome.next (outsideDo_waits hj hheld), ⟨fun hr => ?_, fun hc hp hr => ⟨fun h => ?_, fun hl ho hm hw => ?_⟩⟩,
    fun p i v h hst hv => ⟨fun hbad => ?_, fun hbad => ?_⟩⟩
  · have hv := (scrubView_mapCore (s := countCorr s (.spad c g) n) (c := c.val) (f := fun k =>
      { k with scrub := k.scrub.step g (spadBytes c.val / 8) s.now }) (fun _ => rfl) c.val).trans (countCorr_spad hn c.val)
    rw [if_pos rfl] at hv
    exact congrArg (·.2.2) hv
  · have hv := (scrubView_mapCore (s := countCorr s (.spad c g) n) (c := c.val) (f := fun k =>
      { k with scrub := k.scrub.step g (spadBytes c.val / 8) s.now }) (fun _ => rfl) k).trans (countCorr_spad hn k)
    split at hv
    · exact ⟨congrArg (·.1) hv, congrArg (·.2.1) hv⟩
    · exact ⟨congrArg (·.1) hv, congrArg (·.2.1) hv⟩
  · exact countCorr_mem
  · intro hn
    have hv := congrArg (fun v : Beds × Option Nat × Nat => fget v.1.corr 0 (rowOf s l).1) (countCorr_beds (s := s) (l := l) hn)
    exact hv.trans (fget_fset_same ..)
  · have hrow := rowOf_of_bedView (countCorr_stackMap (s := s) (l := l) (n := n)) l
    have hnext := scrubStep_next (s := countCorr s (.beds l) n) l
    rw [hrow] at hnext
    have hdue : fget s.beds.scrubNext 0 (rowOf s l).1 = (rowOf s l).2.1 * 131072 + (rowOf s l).2.2 := by
      simp only [scrubDue, Bool.and_eq_true, beq_iff_eq] at hd
      exact hd.2
    rw [hdue]
    exact hnext
  · obtain ⟨hv, hc, hp⟩ := scrubOverrun_late (s := s)
    have hbeds : (scrubOverrun s).beds = { s.beds with scrubLate := s.beds.scrubLate || scrubOver s s.beds.scrubSince } :=
      passView_beds hv
    refine ⟨_, congrArg Host.Outcome.next (if_pos hr), ?_, hbeds, hc, hp⟩
    have ht := passView_frame hv
    rw [hbeds]
    exact ht
  · refine congrArg Host.Outcome.next ((if_pos hr).trans ((scrubOverrun_beds hc hp).trans (if_pos ?_)))
    exact h.imp_right fun h => by rw [show scrubOver s s.beds.scrubSince = false from h]; rfl
  · refine congrArg Host.Outcome.next ((if_pos hr).trans ((scrubOverrun_beds hc hp).trans ?_))
    have hk : ((List.range 16).find? fun k => s.rep.stackMap != some k && !s.beds.scrubWrap.contains k).getD 0 = 0 := by
      rw [hm, hw]
      rfl
    have hline : scrubLineOf s 0 = 16 * fget s.beds.scrubNext 0 0 := by
      rw [scrubLineOf, hm]
      rfl
    rw [overBeds, if_neg (by rw [hl, show scrubOver s s.beds.scrubSince = true from ho]; simp)]
    dsimp only
    rw [hk, hline, raise_frame]
    rw [raise_evr_congr (s := s) (t := s.mapBeds fun b => { b with scrubLate := true }) rfl rfl rfl]
    rfl
  · have hex : exec (.partitionWrite p i v) s = .next (okResp ((s.mapBeds fun b => { b with parts := fset b.parts 0#64 i.val (partClamp v) }).cond
        (decide (8192 < bits v.toNat 45 32)) fun s => clamped s (0x300000 + i.val + 1)) p (0x300000 + i.val + 1)) := by
      refine congrArg Host.Outcome.next (odReq_done h (by rw [hst]; rfl) (firstAbort_zero _ ?_))
      refine List.forall_mem_cons.2 ⟨decide_eq_true hv, List.forall_mem_cons.2 ⟨?_, by simp⟩⟩
      exact congrArg Bool.not hbad
    refine ⟨_, hex, okResp_granted .., ?_⟩
    cases decide (8192 < bits v.toNat 45 32) with
    | false => exact ⟨fun j => fget_fset .., rfl⟩
    | true =>
      rw [State.cond, if_pos rfl, clamped_frame]
      exact ⟨fun j => fget_fset .., rfl⟩
  · have hchk : firstAbort [(decide (bits v.toNat 63 60 < 7), abBADVALUE), (!partBad s i.val (partClamp v), abINCONS)] = abINCONS := by
      rw [decide_eq_true hv, show partBad s i.val (partClamp v) = true from hbad]
      rfl
    have hex : exec (.partitionWrite p i v) s = .next (refuse s p (0x300000 + i.val + 1) abINCONS) := by
      refine congrArg Host.Outcome.next ((odReq_refused h (by rw [hst]; rfl) ?_).trans ?_)
      · rw [hchk]
        decide
      · rw [hchk]
    exact ⟨_, hex, refuse_denied .., refuse_beds ..⟩

end Sys2Proof.Machine
end

section
/-! PROOFS. Device commands and images (O35, O36). -/
namespace Sys2Proof.Machine

section
variable {s t : State} {p : Path} {l : List DevState} {chk : Nat} {act : State → State} {i : Instr}

/-! ### Device commands -/

theorem devCmd_done (h : Takes s p 0x180002) (hb : s.dev.busy = false) (hl : s.dev.state ∈ l) (hc : chk = 0) :
    odReq s p 0x180002 i (devCmd s p l chk act) = okResp (act s) p 0x180002 :=
  odReq_done h (by rw [hb, List.contains_iff_mem.2 hl]; rfl) hc

/-- What a refusal leaves (R430): the answer, the counters of refusals and the event. -/
theorem refuse_eq (o ab : Nat) : refuse s p o ab = { s with evr := (raise s 0x0D02 0x10 [o, ab]).evr, mgm := { s.mgm with
    resp := s.mgm.resp ++ [{ path := p, typ := 0x382, index := o / 256, sub := o % 256, abort := ab }], refusals := sat32 s.mgm.refusals
    lastAbort := ab, lastRef := o } } := by
  have he := raise_evr_congr (s := s) (t := s.mapMgm fun m => { m with refusals := sat32 m.refusals, lastAbort := ab, lastRef := o }) rfl rfl rfl 0x0D02 0x10
    [o, ab]
  rw [refuse, raise_frame, he]
  rfl

theorem devCmd_wrongState (hs : served s p = true) (ho : ownerOk s p = true) (h : s.dev.busy = true ∨ s.dev.state ∉ l) :
    odReq s p 0x180002 i (devCmd s p l chk act) = refuse s p 0x180002 abSTATE := by
  have hst : (stateServes s 0x180002 && (!s.dev.busy && l.contains s.dev.state)) = false := by
    obtain h | h := h
    · rw [h, Bool.not_true, Bool.false_and, Bool.and_false]
    · rw [Bool.eq_false_iff.2 fun hc => h (List.contains_iff_mem.1 hc), Bool.and_false, Bool.and_false]
  rw [odReq, odTake_served _ _ _ _ _ hs, devCmd, odCmd_wrongState _ _ _ _ _ _ hs ho hst]

/-! ### Changes of the device state -/

/-- The device record without its state and what a sleep notes. -/
def Dev.kept (d : Dev) : Dev := { d with state := .off, saved := 0, sleepFrom := 0 }

theorem setState0_kept (n : DevState) : (setState0 s n).dev.kept = s.dev.kept := by
  unfold setState0
  dsimp only
  split
  · rfl
  · split
    · rfl
    · rw [raise_dev]
      rfl

theorem enterSleep_kept : (enterSleep s).dev.kept = s.dev.kept := by
  unfold enterSleep
  dsimp only
  rw [raise_dev]
  exact Eq.trans rfl (setState0_kept .slackwater)

theorem setState_kept (n : DevState) : (setState s n).dev.kept = s.dev.kept := by
  unfold setState
  dsimp only
  split
  · exact enterSleep_kept.trans (setState0_kept n)
  · exact setState0_kept n

theorem setState0_busy (n : DevState) : (setState0 s n).dev.busy = s.dev.busy := by
  have h := congrArg Dev.busy (setState0_kept (s := s) n)
  exact h

/-- The state that an entry of STANDBY or READY ends in (R435). -/
theorem setState_entered {n : DevState} (hn : n = .standby ∨ n = .ready) (hb : s.dev.busy = false) : (setState s n).dev.state = entered s n := by
  rw [setState_state, setState0_busy, hb, entered]
  refine if_congr ?_ rfl rfl
  simp [hn]

/-- Another state is entered as it is. -/
theorem setState_plain {n : DevState} (h : n ≠ .standby) (h' : n ≠ .ready) : setState s n = setState0 s n := if_neg (by tauto)

/-- A change to a state that is neither OFF nor one from which the state left is noted (R435). -/
theorem setState0_of_ne {n : DevState} (h : n ≠ s.dev.state) (hn : n ≠ .off) (hh : n ≠ .halted) (hs : n ≠ .slackwater) :
    setState0 s n = { s with dev := { s.dev with state := n }, evr := (raise s 0x0D04 0x10 [stateCode s.dev.state, stateCode n]).evr } := by
  have hd : (s.mapDev fun d => { d with state := n, saved := if n = .halted ∨ n = .slackwater then stateCode s.dev.state else d.saved }) =
      { s with dev := { s.dev with state := n } } := by rw [State.mapDev, if_neg (by tauto)]
  unfold setState0
  dsimp only
  rw [if_neg h, if_neg hn, hd, raise_frame]
  have he := raise_evr_congr (s := s) (t := { s with dev := { s.dev with state := n } }) rfl rfl rfl 0x0D04 0x10 [stateCode s.dev.state, stateCode n]
  exact congrArg (fun e => { s with dev := { s.dev with state := n }, evr := e }) he

/-! ### Pending lines -/

/-- The state without the interrupt sources and the harts. -/
def lineView (s : State) : State := { s with mgm := { s.mgm with src := [], harts := [] } }

theorem wfiWake_lineView (h : Nat) : lineView (wfiWake s h) = lineView s := by
  unfold wfiWake
  split <;> rfl

theorem pend_lineView (n : Nat) : lineView (pend s n) = lineView s := by
  have hwakes (u : State) : lineView (wfiWakes u) = lineView u :=
    List.foldlRecOn (motive := fun v : State => lineView v = lineView u) _ _ rfl fun v h n _ => (wfiWake_lineView n).trans h
  unfold pend
  dsimp only
  split
  · exact (hwakes _).trans rfl
  · rfl

theorem lineView_frame (h : lineView t = lineView s) : t = { s with mgm := { s.mgm with src := t.mgm.src, harts := t.mgm.harts } } := by
  have e := congrArg (fun u : State => { u with mgm := { u.mgm with src := t.mgm.src, harts := t.mgm.harts } }) h
  exact e

theorem pendLine_eq (g n : Nat) : pendLine s g n = { s with mgm := { s.mgm with src := (pendLine s g n).mgm.src, harts := (pendLine s g n).mgm.harts } } :=
  lineView_frame (pend_lineView _)

/-! ### Unloading -/

/-- What each changed value of a table and its default have, each value has. -/
theorem fget_map_of {α β : Type} {f : α → β} {P : β → Prop} {e : β} (he : P e) (h : ∀ x, P (f x)) (l : FMap α) (k : Nat) :
    P (fget (l.map fun p => (p.1, f p.2)) e k) := by
  induction l with
  | nil => exact he
  | cons p l ih =>
    simp only [List.map_cons, fget]
    split
    · exact h p.2
    · exact ih

theorem imageDrop_core (c : Nat) : ((imageDrop s).core c).ring = false ∧ ((imageDrop s).core c).bankA = [] ∧ ((imageDrop s).core c).bankB = [] ∧
    ((imageDrop s).core c).spad = (s.core c).spad :=
  have h := fget_map_of (f := coreUnload) (P := fun k => k.ring = false ∧ k.bankA = [] ∧ k.bankB = []) ⟨rfl, rfl, rfl⟩ (fun _ => ⟨rfl, rfl, rfl⟩) s.cores c
  ⟨h.1, h.2.1, h.2.2, fget_map_congr (f := coreUnload) (g := Core.spad) (fun _ => rfl) s.cores {} c⟩

/-- What an entry of STANDBY leaves of the device record and the cores. -/
theorem toStandby_keeps : (toStandby s).cores = s.cores ∧ (toStandby s).dev.kept = s.dev.kept ∧
    (s.dev.busy = false → (toStandby s).dev.state = entered s .standby) := by
  have hset (u : State) (hcores : u.cores = s.cores) (hdev : u.dev = s.dev) (hpins : u.pins = s.pins) :
      (setState u .standby).cores = s.cores ∧ (setState u .standby).dev.kept = s.dev.kept ∧
        (s.dev.busy = false → (setState u .standby).dev.state = entered s .standby) := by
    refine ⟨(setState_cores ..).trans hcores, (setState_kept _).trans (by rw [hdev]), fun hb => ?_⟩
    rw [setState_entered (.inl rfl) (by rw [hdev]; exact hb), entered, entered, hpins]
  unfold toStandby
  dsimp only
  split
  · exact hset _ rfl rfl rfl
  · exact hset _ rfl rfl rfl

/-! ### Acceptance -/

theorem imageRefuse_keeps (r : Nat) (hb : s.dev.busy = false) : (imageRefuse s r).cores = (imageDrop s).cores ∧
    (imageRefuse s r).dev.state = entered s .standby ∧ (imageRefuse s r).dev.loadRes = r ∧ (imageRefuse s r).dev.img = none ∧
    (imageRefuse s r).dev.image = [] ∧ (imageRefuse s r).dev.place = [] := by
  unfold imageRefuse
  extract_lets u
  obtain ⟨hcores, hkept, hstate⟩ := toStandby_keeps (s := raise u 0x0203 0x10 [r])
  rw [raise_dev] at hkept hstate
  refine ⟨hcores.trans (raise_cores ..), (hstate hb).trans ?_, ?_, ?_, ?_, ?_⟩
  · rw [entered, entered, raise_pins]
    rfl
  · exact congrArg Dev.loadRes hkept
  · exact congrArg Dev.img hkept
  · exact congrArg Dev.image hkept
  · exact congrArg Dev.place hkept

/-- A core with an accepted image: bank A active, the other empty, at its first place (R68). -/
def Core.Fresh (k : Core) : Prop := k.activeB = false ∧ k.inact = .empty ∧ k.idx = 0

theorem eachAccept_core (m : Mem) (cs l : List Nat) (c : Nat) :
    let u := s.each l fun s i => s.mapCore (cs.getD i 0) (coreAccept m i)
    (u.core c).ring = ((s.core c).ring || decide (c ∈ l.map (cs.getD · 0))) ∧ (c ∈ l.map (cs.getD · 0) ∨ (s.core c).Fresh → (u.core c).Fresh) := by
  induction l generalizing s with
  | nil => exact ⟨(Bool.or_false _).symm, fun h => h.resolve_left List.not_mem_nil⟩
  | cons i l ih =>
    obtain ⟨hring, hfresh⟩ := ih (s := s.mapCore (cs.getD i 0) (coreAccept m i))
    rw [State.mapCore_core] at hring hfresh
    refine ⟨hring.trans ?_, fun h => hfresh ?_⟩
    · by_cases hc : c = cs.getD i 0
      · rw [if_pos hc, ← hc]
        simp [coreAccept, hc]
      · rw [if_neg hc, List.map_cons]
        simp only [List.mem_cons, hc, false_or]
    · by_cases hc : c = cs.getD i 0
      · rw [if_pos hc]
        exact .inr ⟨rfl, rfl, rfl⟩
      · rw [if_neg hc]
        exact h.imp_left fun h => (List.mem_cons.1 h).resolve_left hc

theorem mem_map_getD (cs : List Nat) (c : Nat) : c ∈ (List.range cs.length).map (cs.getD · 0) ↔ c ∈ cs := by
  constructor
  · intro h
    obtain ⟨i, hi, rfl⟩ := List.mem_map.1 h
    rw [List.getD_eq_getElem _ _ (List.mem_range.1 hi)]
    exact List.getElem_mem _
  · intro h
    obtain ⟨i, hi, rfl⟩ := List.mem_iff_getElem.1 h
    exact List.mem_map.2 ⟨i, List.mem_range.2 hi, List.getD_eq_getElem _ _ hi⟩

theorem hashInPlace_frame : hashInPlace s = { s with wts := (hashInPlace s).wts } :=
  State.each_keeps s (fun t => t = { s with wts := t.wts }) _ _ (fun t i h => by
    split
    · rw [h]
      rfl
    · exact h) rfl

theorem measureManifest_frame (m : Manifest) : measureManifest s m = { s with tru := (measureManifest s m).tru, evr := (measureManifest s m).evr } :=
  measureSigned_frame ..

/-- The last part of an acceptance: the reduce halves emptied, the manifest installed and hashed in place, READY entered. -/
theorem acceptEnd_keeps (f : Fabric → Fabric) (m : Manifest) (l : List Nat) (hf : ∀ x, (f x).halves = []) :
    let t := setState (raise (hashInPlace (manInstall (s.mapFab f) m [])) 0x0204 0x10 l) .ready
    t.cores = s.cores ∧ t.dev.kept = s.dev.kept ∧ (s.dev.busy = false → t.dev.state = entered s .ready) ∧ t.fab.halves = [] := by
  intro t
  have hh := hashInPlace_frame (s := manInstall (s.mapFab f) m [])
  refine ⟨?_, ?_, fun hb => ?_, ?_⟩
  · rw [setState_cores, raise_cores, hh]
    rfl
  · rw [setState_kept, raise_dev, hh]
    rfl
  · rw [setState_entered (.inr rfl) (by rw [raise_dev, hh]; exact hb), entered, entered, raise_pins, hh]
    rfl
  · rw [setState_fab, raise_fab, hh]
    exact hf _

/-- What the measurements of an acceptance leave alone. -/
theorem acceptMeasured_frame (m : Manifest) (x y : List Byte) :
    let t := measure (measure (measureManifest s m) 0x30 3 x) 0x40 4 y
    t.dev = s.dev ∧ t.pins = s.pins ∧ t.cores = s.cores := by
  dsimp only
  rw [measure_dev, measure_dev, measure_pins, measure_pins, measure_cores, measure_cores, measureManifest_frame]
  exact ⟨rfl, rfl, rfl⟩

/-- With every ring put off, no core is in the ring. -/
theorem ringsOff_core (c : Nat) : (State.core { s with cores := s.cores.map fun (p : Nat × Core) => (p.1, { p.2 with ring := false }) } c).ring = false :=
  fget_map_of (f := fun k : Core => { k with ring := false }) (P := fun k => k.ring = false) rfl (fun _ => rfl) s.cores c

theorem imgKeep_cores (m : Mem) : (imgKeep s m).cores = imgCores m := by rw [imgKeep]

/-- What an acceptance leaves (R57, R68, R434). -/
theorem imageAccept_keeps_image (m : Mem) (hb : s.dev.busy = false) : (imageAccept s m).dev.state = entered s .ready ∧
    (imageAccept s m).dev.img = some (imgKeep s m) ∧ (imageAccept s m).dev.lat = mnat m 8 2 ∧ (imageAccept s m).dev.loadRes = 0 ∧
    (∀ c, ((imageAccept s m).core c).ring = decide (c ∈ imgCores m)) ∧ (∀ c, c ∈ imgCores m → ((imageAccept s m).core c).Fresh) ∧
    (imageAccept s m).fab.halves = [] := by
  rw [← imgKeep_cores (s := s) m]
  unfold imageAccept
  extract_lets pm im a b c d e f g h
  have hlat : im.lat = mnat m 8 2 := rfl
  rw [show imgKeep s m = im from rfl]
  clear_value im pm
  obtain ⟨hcdev, hcpins, -⟩ : c.dev = s.dev ∧ c.pins = s.pins ∧ c.cores = s.cores := acceptMeasured_frame im.man _ _
  clear_value c
  obtain ⟨hfdev, hfpins⟩ : f.dev = d.dev ∧ f.pins = s.pins := State.each_keeps e (fun t => t.dev = d.dev ∧ t.pins = s.pins) _ _ (fun t i h => h) ⟨rfl, hcpins⟩
  have hno (k : Nat) : (e.core k).ring = false := ringsOff_core k
  have hmem (k : Nat) : k ∈ (List.range im.cores.length).map (im.cores.getD · 0) ↔ k ∈ im.cores := mem_map_getD im.cores k
  have hring (k : Nat) : (f.core k).ring = decide (k ∈ im.cores) := by
    refine (eachAccept_core (s := e) pm im.cores (List.range im.cores.length) k).1.trans ?_
    rw [hno, Bool.false_or]
    exact decide_eq_decide.2 (hmem k)
  have hfresh (k : Nat) (hk : k ∈ im.cores) : (f.core k).Fresh :=
    (eachAccept_core (s := e) pm im.cores (List.range im.cores.length) k).2 (.inl ((hmem k).2 hk))
  have hbusy : d.dev.busy = false := (congrArg Dev.busy hcdev).trans hb
  have him : d.dev.img = some im ∧ d.dev.lat = mnat m 8 2 ∧ d.dev.loadRes = 0 := ⟨rfl, hlat, rfl⟩
  clear_value f
  clear_value d
  obtain ⟨hcores, hkept, hstate, hhalves⟩ := acceptEnd_keeps (s := f) (fun x => { x with halves := [], taken := [], takes := [], groupMax := 0 })
    im.man [im.lat, im.role] fun _ => rfl
  have hend := core_of_cores hcores
  rw [hfdev] at hkept hstate
  refine ⟨(hstate hbusy).trans ?_, (congrArg Dev.img hkept).trans him.1, (congrArg Dev.lat hkept).trans him.2.1, (congrArg Dev.loadRes hkept).trans him.2.2,
    fun k => (congrArg Core.ring (hend k)).trans (hring k), fun k hk => ?_, hhalves⟩
  · rw [entered, entered, hfpins]
  · rw [Core.Fresh, hend k]
    exact hfresh k hk

end

/-- Settles O36. -/
theorem deviceCommandsByState : Obligations.DeviceCommandsByState := by
  intro p s i l hmem hs ho h
  have hex : exec i s = .next (refuse s p 0x180002 abSTATE) := by
    simp only [List.mem_cons, Prod.mk.injEq, List.not_mem_nil, or_false] at hmem
    obtain ⟨rfl, rfl⟩ | ⟨rfl, rfl⟩ | ⟨rfl, rfl⟩ | ⟨rfl, rfl⟩ | ⟨rfl, rfl⟩ | ⟨rfl, rfl⟩ | ⟨rfl, rfl⟩ | ⟨rfl, rfl⟩ | ⟨rfl, rfl⟩ := hmem
    all_goals exact congrArg Host.Outcome.next (devCmd_wrongState hs ho h)
  refine ⟨_, hex, refuse_denied .., ?_⟩
  rw [refuse_eq]
  rfl

theorem execAccept_eq (h : Takes s p 0x180002) (hst : s.dev.state = .loading) (hb : s.dev.busy = false) (m : Mem) (r : Nat)
    (hm : m = imgView s.dev.image) (hr : r = acceptCheck s m s.dev.imgLen false) :
    exec (.accept p) s = .next (okResp (if r = 0 then imageAccept s m else imageRefuse s r) p 0x180002) := by
  subst hr hm
  exact congrArg Host.Outcome.next (devCmd_done h hb (by simp [hst]) rfl)

/-- Settles O35. -/
theorem imagesLoad : Obligations.ImagesLoad := by
  intro p s hb
  refine ⟨fun h hst => ?_, fun off bs h hst => ?_, fun off bs h hst => ?_, fun h hst => ?_, fun h hst => ?_⟩
  · have hact : setState (s.mapDev fun d => { d with image := [], imgLen := 0, place := [], placeW := [] }) .loading =
        { s with dev := { s.dev with state := .loading, image := [], imgLen := 0, place := [], placeW := [] }, evr := (raise s 0x0D04 0x10 [2, 3]).evr } := by
      have he := raise_evr_congr (s := s) (t := s.mapDev fun d => { d with image := [], imgLen := 0, place := [], placeW := [] }) rfl rfl rfl 0x0D04 0x10 [2, 3]
      rw [setState_plain DevState.noConfusion DevState.noConfusion, setState0_of_ne (by rw [State.mapDev, hst]; decide) (by decide) (by decide) (by decide)]
      simp only [State.mapDev, hst, stateCode] at he ⊢
      rw [he]
    refine ⟨_, congrArg Host.Outcome.next ((devCmd_done h hb (by simp [hst]) rfl).trans (congrArg (okResp · p 0x180002) hact)), okResp_granted .., rfl, rfl⟩
  · refine ⟨_, congrArg Host.Outcome.next (odReq_done h (by rw [hst]; rfl) rfl), okResp_granted .., ?_, ?_, ?_⟩
    · rw [pendLine_eq]
      exact fun a => mget_mwrite ..
    · rw [pendLine_eq]
      rfl
    · rw [pendLine_eq]
      rfl
  · refine ⟨_, congrArg Host.Outcome.next (odReq_done h (by rw [hst]; rfl) rfl), okResp_granted .., ?_, ?_⟩
    · rw [pendLine_eq]
      exact fun a => mget_mwrite ..
    · rw [pendLine_eq]
      rfl
  · intro m r
    have hex : exec (.accept p) s = .next (okResp (if r = 0 then imageAccept s m else imageRefuse s r) p 0x180002) :=
      execAccept_eq h hst hb m r rfl rfl
    clear_value r m
    refine ⟨_, hex, okResp_granted .., fun hr => ?_, fun hr => ?_⟩
    · obtain ⟨hstate, himg, hlat, hres, hring, hfresh, hhalves⟩ := imageAccept_keeps_image m hb
      rw [if_pos hr]
      generalize imageAccept s m = u at *
      exact ⟨hstate, himg, hlat, hres, hring, hfresh, hhalves⟩
    · obtain ⟨hcores, hstate, hres, himg, hcode, hplace⟩ := imageRefuse_keeps r hb
      rw [if_neg hr]
      generalize imageRefuse s r = u at *
      refine ⟨hstate, hres, himg, hcode, hplace, fun c => ?_⟩
      obtain ⟨hring, ha, hb', -⟩ := imageDrop_core (s := s) c
      rw [← core_of_cores hcores c] at hring ha hb'
      exact ⟨hring, ha, hb'⟩
  · obtain ⟨hcores, hkept, hstate⟩ := toStandby_keeps (s := imageDrop s)
    refine ⟨_, congrArg Host.Outcome.next (devCmd_done h hb (by simpa using hst) rfl), okResp_granted .., hstate hb, congrArg Dev.img hkept,
      congrArg Dev.image hkept, congrArg Dev.place hkept, fun c => ?_⟩
    have hc := imageDrop_core (s := s) c
    rw [← core_of_cores hcores c] at hc
    exact hc

end Sys2Proof.Machine
end

section
/-! PROOFS. The slot table of a step changes the serving record, the beds, the measurements, the input log and event records, and nothing else (R384). -/
namespace Sys2Proof.Machine

/-- The state without the serving record and what a change of the slot table also reaches. -/
def serveView (s : State) : State := { s with srv := {}, beds := {}, evr := {}, tru := {}, inp := {} }

section
variable {s : State}

@[simp] theorem mapSrv_serveView (f : Serving → Serving) : serveView (s.mapSrv f) = serveView s := rfl

@[simp] theorem mapSlot_serveView (i : Nat) (f : Slot → Slot) : serveView (s.mapSlot i f) = serveView s := rfl

@[simp] theorem mapCmt_serveView (i : Nat) (f : CommitSt → CommitSt) : serveView (s.mapCmt i f) = serveView s := rfl

@[simp] theorem mapAdap_serveView (a : Nat) (f : Adapter → Adapter) : serveView (s.mapAdap a f) = serveView s := rfl

@[simp] theorem mapBeds_serveView (f : Beds → Beds) : serveView (s.mapBeds f) = serveView s := rfl

@[simp] theorem measure_serveView (typ m : Nat) (d : List Byte) : serveView (measure s typ m d) = serveView s := rfl

theorem each_serveView {α : Type} {l : List α} {f : State → α → State} (h : ∀ u x, serveView (f u x) = serveView u) : serveView (s.each l f) = serveView s :=
  State.each_keeps s (fun t => serveView t = serveView s) l f (fun u x hu => (h u x).trans hu) rfl

theorem cond_serveView {b : Bool} {f : State → State} (h : serveView (f s) = serveView s) : serveView (s.cond b f) = serveView s :=
  State.cond_keeps s (fun t => serveView t = serveView s) b f (fun _ => h) rfl

theorem ite_serveView {c : Prop} [Decidable c] {t u : State} (ht : serveView t = serveView s) (hu : serveView u = serveView s) :
    serveView (if c then t else u) = serveView s := by split <;> assumption

@[simp] theorem raise_serveView (id n : Nat) (l : List Nat) : serveView (raise s id n l) = serveView s := by
  rw [raise_frame]
  rfl

@[simp] theorem raiseV_serveView (id : Nat) (l : List Nat) : serveView (raiseV s id l) = serveView s := raise_serveView ..

@[simp] theorem inpAdd_serveView (k y : Nat) (d : List Byte) : serveView (inpAdd s k y d) = serveView s := by
  rw [inpAdd_frame]
  rfl

theorem respEnded_serveView (i st : Nat) : serveView (respEnded s i st) = serveView s := by
  unfold respEnded
  exact ite_serveView rfl rfl

theorem slotEnd_serveView (i st : Nat) : serveView (slotEnd s i st) = serveView s := (respEnded_serveView i st).trans rfl

theorem applyNibble_serveView (i n : Nat) : serveView (applyNibble s i n) = serveView s := by
  unfold applyNibble
  refine ite_serveView rfl ?_
  split
  · rfl
  · exact raiseV_serveView ..
  · exact ite_serveView (slotEnd_serveView ..) rfl
  · exact ite_serveView (slotEnd_serveView ..) rfl

theorem applyReport_serveView (bs : List Byte) : serveView (applyReport s bs) = serveView s := each_serveView fun _ _ => applyNibble_serveView ..

@[simp] theorem unpin_serveView (a : Nat) : serveView (unpin s a) = serveView s := by
  unfold unpin
  exact ite_serveView rfl rfl

theorem slotTimed_serveView (i : Nat) : serveView (slotTimed s i) = serveView s := by
  unfold slotTimed
  dsimp only
  split
  · exact ite_serveView (by simp) rfl
  · exact ite_serveView rfl rfl
  · exact ite_serveView (by simp) rfl
  · rfl

theorem adPublish_serveView (a : Nat) : serveView (adPublish s a) = serveView s := by
  unfold adPublish
  extract_lets x s1
  have h1 : serveView s1 = serveView s := each_serveView fun _ _ => ite_serveView rfl rfl
  refine ite_serveView ?_ ?_
  · exact (inpAdd_serveView ..).trans ((measure_serveView ..).trans ((mapAdap_serveView ..).trans h1))
  · exact (raiseV_serveView ..).trans ((mapAdap_serveView ..).trans h1)

theorem applyChange_serveView (r : List Byte) : serveView (applyChange s r) = serveView s := by
  unfold applyChange
  refine ite_serveView (ite_serveView rfl rfl) (ite_serveView (ite_serveView rfl rfl) (ite_serveView ?_ (ite_serveView rfl (ite_serveView ?_ ?_))))
  · exact ite_serveView (slotEnd_serveView ..) (ite_serveView (raiseV_serveView ..) rfl)
  · exact adPublish_serveView _
  · exact ite_serveView (ite_serveView rfl rfl) (raiseV_serveView ..)

theorem applyAdmit_serveView (r : List Byte) : serveView (applyAdmit s r) = serveView s := by
  unfold applyAdmit
  exact ite_serveView (raiseV_serveView ..) (ite_serveView rfl rfl)

theorem applyUpdate_serveView (u : List Byte) : serveView (applyUpdate s u) = serveView s := by
  unfold applyUpdate
  refine (cond_serveView (applyAdmit_serveView _)).trans ((cond_serveView (mapSrv_serveView _)).trans ((cond_serveView (mapSrv_serveView _)).trans ?_))
  exact (cond_serveView (each_serveView fun _ _ => ite_serveView (slotEnd_serveView ..) rfl)).trans (cond_serveView (applyChange_serveView _))

theorem slotTableApply_serveView : serveView (slotTableApply s) = serveView s := by
  unfold slotTableApply
  extract_lets t s1 s2 s3 s4 s5 s6
  have h1 : serveView s1 = serveView s := by
    unfold s1
    split
    · exact applyReport_serveView _
    · rfl
  have h2 : serveView s2 = serveView s := (each_serveView fun _ _ => slotTimed_serveView _).trans h1
  have h3 : serveView s3 = serveView s := by
    unfold s3
    split
    · exact (applyUpdate_serveView _).trans h2
    · exact h2
  have h4 : serveView s4 = serveView s := (each_serveView fun _ _ => ite_serveView (mapAdap_serveView ..) rfl).trans h3
  have h5 : serveView s5 = serveView s := (each_serveView fun _ _ => ite_serveView (mapSlot_serveView ..) rfl).trans h4
  have h6 : serveView s6 = serveView s := (each_serveView fun _ _ => ite_serveView (mapCmt_serveView ..) rfl).trans h5
  exact (mapSrv_serveView _).trans ((mapSrv_serveView _).trans ((mapBeds_serveView _).trans h6))

end
end Sys2Proof.Machine
end

section
/-! PROOFS. The start and the drain of a job (O37). -/
namespace Sys2Proof.Machine

section
variable {s t : State} {p : Path}

/-- What a job finds of a core when it starts (R11, R84, R132). -/
def Core.Begun (k : Core) : Prop := k.flags = [] ∧ k.sticky = 0#32 ∧ k.vl = 0 ∧ k.vreg = [] ∧ k.arrays = [] ∧
  (k.skips, k.bounds, k.stalls, k.refused, k.oxbow) = (0, 0, 0, 0, 0) ∧ k.queues = [] ∧ k.run = []

/-- What a job finds when it starts and the changes still staged leave (R11). -/
structure Begun (t : State) : Prop where
  job : t.sch.job = false
  wait : t.sch.jobWait = true
  zero : (t.sch.sCycle, t.sch.wCycle, t.sch.eddyW, t.sch.stepNo) = (0, 0, 0, 0)
  causes : t.sch.causes = []
  slots : t.srv.slots = []
  cores : ∀ c, (t.core c).Begun

namespace Begun

theorem congr (h : Begun s) (hsch : t.sch = s.sch := by simp) (hsrv : t.srv = s.srv := by simp) (hcores : t.cores = s.cores := by simp) : Begun t where
  job := by rw [hsch]; exact h.job
  wait := by rw [hsch]; exact h.wait
  zero := by rw [hsch]; exact h.zero
  causes := by rw [hsch]; exact h.causes
  slots := by rw [hsrv]; exact h.slots
  cores c := by rw [core_of_cores hcores]; exact h.cores c

theorem mapCore (h : Begun s) (c : Nat) {f : Core → Core} (hf : ∀ k : Core, k.Begun → (f k).Begun) : Begun (s.mapCore c f) where
  job := h.job
  wait := h.wait
  zero := h.zero
  causes := h.causes
  slots := h.slots
  cores c' := by
    rw [State.mapCore_core]
    split
    · exact hf _ (h.cores c)
    · exact h.cores c'

theorem bankSwitch (h : Begun s) (c : Nat) : Begun (bankSwitch s c) := by
  unfold Machine.bankSwitch
  extract_lets k s1
  split
  · exact (h.mapCore c (f := fun k => { k with activeB := !k.activeB, inact := .spent, armed := false, idx := 0, byOd := k.byOdAct, byOdAct := k.byOd })
      fun k hk => hk).congr (raiseAt_sch ..) (raiseAt_srv ..) (raiseAt_cores ..)
  · exact (h.mapCore c (f := fun k => { k with armed := false }) fun k hk => hk).congr (raiseAt_sch ..) (raiseAt_srv ..) (raiseAt_cores ..)

theorem pathSwitch (h : Begun s) : Begun (pathSwitch s) := by
  unfold Machine.pathSwitch
  split
  · exact h.congr
  · exact h.congr

theorem swapApply (h : Begun s) : Begun (swapApply s) := by
  unfold Machine.swapApply
  split
  · exact h
  · next im _ =>
    have hs : Begun (s.each im.cores Machine.bankSwitch) := State.each_keeps s Begun _ _ (fun u c hu => hu.bankSwitch c) h
    exact hs.congr

theorem applyStaged (h : Begun s) (k : StageKind) : Begun (applyStaged s k) := by
  cases k with
  | numctl c v => exact h.mapCore c (f := fun k => { k with numctl := v }) fun k hk => hk
  | segment u v =>
    cases u with
    | core c =>
      refine mapCore ?_ c.val (f := fun k => { k with segDown := k.segDown &&& ~~~255 }) fun k hk => hk
      unfold segSet
      exact h.mapCore c.val fun k hk => hk
    | pool cl => exact h.congr rfl rfl rfl
  | bankSwitch c => exact h.bankSwitch c
  | pathSwitch => exact h.pathSwitch
  | swapSwitch => exact h.swapApply

theorem replayStart (h : Begun s) : Begun (replayStart s) := by
  unfold Machine.replayStart
  split
  · exact h.congr rfl rfl rfl
  · exact h

theorem inpStart (h : Begun s) : Begun (inpStart s) := by
  unfold Machine.inpStart
  split
  · exact h.congr rfl rfl rfl
  · split
    · exact h.congr
    · exact h.congr

end Begun

theorem replayStart_mgm : (replayStart s).mgm = s.mgm := by
  unfold replayStart
  split <;> rfl

theorem inpStart_mgm : (inpStart s).mgm = s.mgm := by
  unfold inpStart
  split
  · rfl
  · split <;> simp

theorem setState0_running : (setState0 s .running).dev.state = .running := by
  unfold setState0
  dsimp only
  split
  · next h => exact h.symm
  · rw [if_neg (by decide), raise_dev]
    rfl

/-- What RUN leaves in READY (R11, R27, R84, R132). -/
theorem jobBegin_begun : Begun (jobBegin s) ∧ (jobBegin s).dev.state = .running ∧ (jobBegin s).mgm.staged = [] := by
  unfold jobBegin
  extract_lets s1 s2 s3 r s4 s5 s6 s7 s8 s9 i s10 s11
  have h7 : Begun s7 := by
    refine ⟨rfl, rfl, rfl, rfl, rfl, fun c => ?_⟩
    exact fget_map_of (f := coreStart) (P := Core.Begun) ⟨rfl, rfl, rfl, rfl, rfl, rfl, rfl, rfl⟩ (fun _ => ⟨rfl, rfl, rfl, rfl, rfl, rfl, rfl, rfl⟩) s3.cores c
  have h8 : Begun s8 := State.each_keeps s7 Begun _ _ (fun u g hu => hu.applyStaged g.kind) h7
  have h11 : Begun s11 ∧ s11.mgm = s10.mgm := by
    have hi : Begun s10 := h8.congr rfl rfl rfl
    unfold s11
    split
    · exact ⟨hi.replayStart, replayStart_mgm⟩
    · exact ⟨hi.inpStart, inpStart_mgm⟩
  rw [setState_plain DevState.noConfusion DevState.noConfusion]
  refine ⟨h11.1.congr (setState0_sch _ _) (setState0_srv _ _) (setState0_cores _ _), setState0_running, ?_⟩
  rw [setState0_mgm, h11.2]
  rfl

theorem serveView_sch (h : serveView t = serveView s) : t.sch = s.sch := by
  have e := congrArg State.sch h
  exact e

theorem serveView_pwr (h : serveView t = serveView s) : t.pwr = s.pwr := by
  have e := congrArg State.pwr h
  exact e

theorem serveView_dev (h : serveView t = serveView s) : t.dev = s.dev := by
  have e := congrArg State.dev h
  exact e

/-- The first S-cycle of a step leaves the job, the clock of S-cycles, the power record and the device record. -/
theorem stepStart_keeps : (stepStart s).sch.job = s.sch.job ∧ (stepStart s).sch.jobWait = s.sch.jobWait ∧ (stepStart s).sch.sCycle = s.sch.sCycle ∧
    (stepStart s).pwr = s.pwr ∧ (stepStart s).dev = s.dev := ⟨rfl, rfl, rfl, rfl, rfl⟩

/-- What the start of step 0 leaves (R27, R472, R473). -/
theorem jobStart_admitted (hst : s.dev.state = .running) (hw : s.sch.jobWait = true)
    (ha : admits s (charge s (stepEntry s 0).energy (stepEntry s 0).len) = true) : (jobStart s).sch.job = true ∧ (jobStart s).sch.jobWait = false ∧
    (jobStart s).sch.sCycle = s.sch.sCycle ∧ (jobStart s).pwr = { s.pwr with charge := charge s (stepEntry s 0).energy (stepEntry s 0).len, stepE := 0 } ∧
    (jobStart s).dev = s.dev := by
  unfold jobStart
  extract_lets e ch s1 s2
  rw [if_pos ⟨hst, hw, ha⟩]
  have hv := slotTableApply_serveView (s := s2)
  have hsch : (slotTableApply s2).sch = s2.sch := serveView_sch hv
  have hpwr : (slotTableApply s2).pwr = s2.pwr := serveView_pwr hv
  have hdev : (slotTableApply s2).dev = s2.dev := serveView_dev hv
  generalize slotTableApply s2 = u at *
  obtain ⟨hj, hw', hc, hp, hd⟩ := stepStart_keeps (s := u)
  rw [hsch] at hj hw' hc
  exact ⟨hj, hw', hc, hp.trans hpwr, hd.trans hdev⟩

/-- The state without the serving record and event records. -/
def answerView (s : State) : State := { s with srv := {}, evr := {} }

theorem answerView_frame (h : answerView t = answerView s) : t = { s with srv := t.srv, evr := t.evr } := by
  have e := congrArg (fun u : State => { u with srv := t.srv, evr := t.evr }) h
  exact e

theorem respRefused_answerView (r st : Nat) : answerView (respRefused s r st) = answerView s := by
  unfold respRefused raiseV
  rw [raise_frame]
  rfl

/-- What is answered to each waiting request when a job drains (R84). -/
def drainAnswer (r : Req) : List Byte := padTo 64 (leBytes 2 0x202 ++ leBytes 2 0 ++ leBytes 4 r.reqid ++ leBytes 1 0x44)

theorem eachRefused_out (l : List Req) : (s.each l fun s r => respRefused s r.reqid 0x44).srv.out = s.srv.out ++ l.map drainAnswer := by
  induction l generalizing s with
  | nil => exact (List.append_nil _).symm
  | cons r l ih =>
    refine (ih (s := respRefused s r.reqid 0x44)).trans ?_
    have h : (respRefused s r.reqid 0x44).srv.out = s.srv.out ++ [drainAnswer r] := by
      unfold respRefused raiseV
      rw [raise_srv]
      rfl
    rw [h, List.append_assoc]
    rfl

theorem eachRefused_answerView (l : List Req) : answerView (s.each l fun s r => respRefused s r.reqid 0x44) = answerView s :=
  State.each_keeps s (fun t => answerView t = answerView s) _ _ (fun _ _ h => (respRefused_answerView ..).trans h) rfl

theorem setState0_answerView (n : DevState) : answerView (setState0 s n) = { answerView s with dev := (setState0 s n).dev } := by
  rw [setState0_frame]
  rfl

end

/-- Settles O37. -/
theorem jobsStart : Obligations.JobsStart := by
  intro p s
  refine ⟨fun h hb hst hv hr => ?_, fun h hb hst hv => ?_, fun h hb hst => ?_, ?_, fun h hb hst => ?_⟩
  · obtain ⟨hbegun, hrun, hstaged⟩ := jobBegin_begun (s := s)
    have hchk : firstAbort [(allValid s, abNOTREADY), (s.inp.replayOn != 1 || replayOk s, abINCONS)] = 0 :=
      firstAbort_zero _ (by simp [hv, hr])
    have hex : exec (.run p) s = .next (okResp (jobBegin s) p 0x180002) :=
      congrArg Host.Outcome.next ((devCmd_done h hb (by simp [hst]) ((if_pos hst).trans hchk)).trans (congrArg (okResp · p 0x180002) (if_pos hst)))
    generalize jobBegin s = t at *
    exact ⟨_, hex, okResp_granted .., hrun, hbegun.job, hbegun.wait, hbegun.zero, hbegun.causes, hbegun.slots, hstaged, hbegun.cores⟩
  · have hchk : (if s.dev.state = .ready then firstAbort [(allValid s, abNOTREADY), (s.inp.replayOn != 1 || replayOk s, abINCONS)] else 0) = abNOTREADY := by
      rw [if_pos hst, hv]
      rfl
    have hex : exec (.run p) s = .next (refuse s p 0x180002 abNOTREADY) := by
      refine congrArg Host.Outcome.next ((odReq_refused h (by simp [hb, hst]) ?_).trans (congrArg (refuse s p 0x180002) hchk))
      rw [hchk]
      decide
    exact ⟨_, hex, refuse_denied .., refuse_dev .., refuse_sch ..⟩
  · have hact : (if s.dev.state = .ready then jobBegin s else setState s .running) = { s with
        dev := { s.dev with state := .running }, evr := (raise s 0x0D04 0x10 [6, 5]).evr } := by
      rw [if_neg (by rw [hst]; decide), setState_plain DevState.noConfusion DevState.noConfusion, setState0_of_ne (by rw [hst]; decide) (by decide) (by decide) (by decide), hst]
      rfl
    have hchk : (if s.dev.state = .ready then firstAbort [(allValid s, abNOTREADY), (s.inp.replayOn != 1 || replayOk s, abINCONS)] else 0) = 0 :=
      if_neg (by rw [hst]; decide)
    exact ⟨_, congrArg Host.Outcome.next ((devCmd_done h hb (by simp [hst]) hchk).trans (congrArg (okResp · p 0x180002) hact)), okResp_granted .., rfl⟩
  · intro ch hst hw
    refine ⟨fun ha => ⟨_, rfl, jobStart_admitted hst hw ha⟩, fun ha => congrArg Host.Outcome.next (if_neg fun h => ?_)⟩
    exact absurd h.2.2 (by rw [ha]; exact Bool.false_ne_true)
  · have hout := eachRefused_out (s := s) s.srv.store
    have hview := eachRefused_answerView (s := s) s.srv.store
    have hex : exec (.drainCmd p) s = .next (okResp (setState (State.mapSrv (s.each s.srv.store fun s r => respRefused s r.reqid 0x44) fun v =>
        { v with store := [] }) .draining) p 0x180002) := congrArg Host.Outcome.next (devCmd_done h hb (by simp [hst]) rfl)
    generalize s.each s.srv.store (fun s r => respRefused s r.reqid 0x44) = u at *
    have hu := answerView_frame hview
    have hstu : u.dev.state = .running := by
      rw [hu]
      exact hst
    rw [setState_plain DevState.noConfusion DevState.noConfusion, setState0_of_ne (by rw [State.mapSrv, hstu]; decide) (by decide) (by decide)
      (by decide)] at hex
    refine ⟨_, hex, okResp_granted .., rfl, rfl, hout, ?_⟩
    rw [hu]
    rfl

end Sys2Proof.Machine
end

section
/-! PROOFS. The kill and its Flush (O38). -/
namespace Sys2Proof.Machine

section
variable {s t : State} {p : Path}

/-- What relates the default to itself and each value to its change relates each value of a table to that of the changed table. -/
theorem fget_map_rel {α β : Type} {f : α → β} {R : α → β → Prop} {d : α} {e : β} (he : R d e) (h : ∀ x, R x (f x)) (l : FMap α) (k : Nat) :
    R (fget l d k) (fget (l.map fun p => (p.1, f p.2)) e k) := by
  induction l with
  | nil => exact he
  | cons p l ih =>
    simp only [List.map_cons, fget]
    split
    · exact h p.2
    · exact ih

/-! ### The kill -/

/-- What a kill empties of the beds' record and leaves of the rest (R284). -/
theorem killStart_keeps (w : Bool) : let t := killStart s w
    t.dev = { s.dev with busy := true } ∧ t.beds.flush = 1 ∧ t.beds.flushW = w ∧ t.sch.job = false ∧ t.sch.jobWait = false ∧ t.sch.causes = [] ∧
    t.mgm.staged = [] ∧ t.trib.inQ = [] ∧ t.trib.outQ = [] ∧ t.wts.pstate = [] ∧ t.wts.man = none ∧ t.wts.swState = .idle ∧ t.srv.slots = [] ∧
    ∀ c, (t.core c).run = [] ∧ (t.core c).queues = [] := by
  have hdev := inpStop_dev s 2
  have hcores := inpStop_cores s 2
  unfold killStart
  generalize inpStop s 2 = u at *
  refine ⟨congrArg (fun d => { d with busy := true }) hdev, rfl, rfl, rfl, rfl, rfl, rfl, rfl, rfl, rfl, rfl, rfl, rfl, fun c => ?_⟩
  exact fget_map_of (f := fun k : Core => { k with run := [], queues := [], held := false, armed := false, sldPend := [] })
    (P := fun k => k.run = [] ∧ k.queues = []) (e := {}) ⟨rfl, rfl⟩ (fun _ => ⟨rfl, rfl⟩) u.cores c

/-! ### The on-die part -/

/-- What the on-die part of a Flush leaves of a core (R285). -/
def Core.Flushed (k k' : Core) : Prop := k'.spad = [] ∧ k'.bankA = [] ∧ k'.bankB = [] ∧ k'.sregs = [] ∧ k'.flags = [] ∧
  k'.vreg = [] ∧ k'.mreg = [] ∧ k'.vl = 0 ∧ ∀ a, (k'.arr a).acc = [] ∧ (a < 4 → (k'.arr a).snd = (k.arr a).snd)

theorem fget_four {α : Type} [DecidableEq α] (e : α) (g : Nat → α) (a : Nat) :
    fget ([0, 1, 2, 3].foldl (fun m a => fset m e a (g a)) []) e a = if a < 4 then g a else e := by
  simp only [List.foldl, fget_fset]
  by_cases h : a < 4
  · have hcase : a = 0 ∨ a = 1 ∨ a = 2 ∨ a = 3 := by omega
    obtain rfl | rfl | rfl | rfl := hcase <;> rfl
  · rw [if_neg h, if_neg (by omega), if_neg (by omega), if_neg (by omega), if_neg (by omega)]
    rfl

theorem coreFlush_flushed (k : Core) : k.Flushed (coreFlush k) := by
  refine ⟨rfl, rfl, rfl, rfl, rfl, rfl, rfl, rfl, fun a => ?_⟩
  have h : (coreFlush k).arr a = if a < 4 then { snd := (k.arr a).snd } else {} :=
    fget_four ({} : MxArray) (fun a => ({ snd := (k.arr a).snd } : MxArray)) a
  rw [h]
  by_cases ha : a < 4
  · rw [if_pos ha]
    exact ⟨rfl, fun _ => rfl⟩
  · rw [if_neg ha]
    exact ⟨rfl, fun h => absurd h ha⟩

theorem flushOndie_keeps (hf : s.beds.flush = 1) (hb : s.dev.busy = true) : let t := flushOndie s
    t.beds = { s.beds with flush := 2, flushOn := (s.fab.ftime - s.beds.flushSince) / 1000 } ∧ (∀ c, (s.core c).Flushed (t.core c)) ∧
    (∀ cl, (t.pool cl).mem = []) ∧ t = { s with cores := t.cores, pools := t.pools, beds := t.beds } := by
  dsimp only
  unfold flushOndie
  rw [if_pos ⟨hf, hb⟩]
  refine ⟨rfl, fun c => ?_, fun cl => ?_, rfl⟩
  · exact fget_map_rel ⟨rfl, rfl, rfl, rfl, rfl, rfl, rfl, rfl, fun a => ⟨rfl, fun _ => rfl⟩⟩ coreFlush_flushed s.cores c
  · exact fget_map_of (f := fun k : Pool => { k with mem := [], bad := [], wrote := [] }) (P := fun k => k.mem = []) (e := {}) rfl (fun _ => rfl) s.pools cl

/-! ### The beds' part -/

/-- Where a Flush of the partitions of the types `ts` zeroes the beds (R286). -/
def Flushes (ts : List Nat) (p : Nat × Nat × Nat) (a : Nat) : Prop := partUsed p = true ∧ p.1 ∈ ts ∧ p.2.1 ≤ a ∧ a < p.2.1 + p.2.2

/-- One partition's part of a Flush. -/
def flushPart (ts : List Nat) (s : State) (p : Nat × Nat × Nat) : State :=
  if partUsed p && ts.contains p.1 then s.mapBeds fun b => { b with
    mem := mzero b.mem p.2.1 (p.2.1 + p.2.2), bad := clearBad b.bad 1024 p.2.1 p.2.2 } else s

/-- The state without the content of the beds and the granules marked bad in them. -/
def contentView (s : State) : State := { s with beds := { s.beds with mem := [], bad := [] } }

theorem flushPart_contentView (ts : List Nat) (q : Nat × Nat × Nat) : contentView (flushPart ts s q) = contentView s := by
  unfold flushPart
  split <;> rfl

theorem flushPart_mget (ts : List Nat) (q : Nat × Nat × Nat) (a : Nat) :
    (Flushes ts q a → mget (flushPart ts s q).beds.mem a = 0#8) ∧ (¬ Flushes ts q a → mget (flushPart ts s q).beds.mem a = mget s.beds.mem a) := by
  unfold flushPart Flushes
  by_cases h : partUsed q && ts.contains q.1
  · have h' : partUsed q = true ∧ q.1 ∈ ts := by simpa using h
    rw [if_pos h]
    have hz : mget ((s.mapBeds fun b => { b with mem := mzero b.mem q.2.1 (q.2.1 + q.2.2), bad := clearBad b.bad 1024 q.2.1 q.2.2 }).beds.mem) a =
        if q.2.1 ≤ a ∧ a < q.2.1 + q.2.2 then 0#8 else mget s.beds.mem a := mget_mzero ..
    rw [hz]
    exact ⟨fun hm => if_pos ⟨hm.2.2.1, hm.2.2.2⟩, fun hm => if_neg fun hin => hm ⟨h'.1, h'.2, hin⟩⟩
  · have h' : ¬ (partUsed q = true ∧ q.1 ∈ ts) := by simpa using h
    rw [if_neg h]
    exact ⟨fun hm => absurd ⟨hm.1, hm.2.1⟩ h', fun _ => rfl⟩

theorem eachFlush_mget (ts : List Nat) (l : List (Nat × Nat × Nat)) (a : Nat) :
    ((∃ q ∈ l, Flushes ts q a) → mget (s.each l (flushPart ts)).beds.mem a = 0#8) ∧
      ((¬ ∃ q ∈ l, Flushes ts q a) → mget (s.each l (flushPart ts)).beds.mem a = mget s.beds.mem a) := by
  induction l generalizing s with
  | nil => exact ⟨fun ⟨q, hq, _⟩ => absurd hq List.not_mem_nil, fun _ => rfl⟩
  | cons q l ih =>
    obtain ⟨hz, hk⟩ := ih (s := flushPart ts s q)
    obtain ⟨hz1, hk1⟩ := flushPart_mget (s := s) ts q a
    constructor
    · rintro ⟨r, hr, hf⟩
      by_cases hl : ∃ r ∈ l, Flushes ts r a
      · exact hz hl
      · refine (hk hl).trans (hz1 ?_)
        obtain rfl | hr := List.mem_cons.1 hr
        · exact hf
        · exact absurd ⟨r, hr, hf⟩ hl
    · intro hno
      refine (hk fun ⟨r, hr, hf⟩ => hno ⟨r, List.mem_cons_of_mem q hr, hf⟩).trans (hk1 fun hf => hno ⟨q, List.mem_cons_self, hf⟩)

theorem flushBeds_eq : flushBeds s = s.each ((List.range 8).map (partOf s)) (flushPart (if s.beds.flushW then [1, 2, 3, 4, 5] else [3, 4, 5])) := rfl

theorem flushBeds_contentView : contentView (flushBeds s) = contentView s := by
  rw [flushBeds_eq]
  exact State.each_keeps s (fun t => contentView t = contentView s) _ _ (fun _ _ h => (flushPart_contentView ..).trans h) rfl

/-- The state without what a remap that is applied changes of the repairs, and without event records. -/
def remapView (s : State) : State := { s with rep := { s.rep with pend := [], map := [], fenced := [], remaps := 0 }, evr := {} }

theorem remapApply_remapView (r : Remap) : remapView (remapApply s r) = remapView s := by
  unfold remapApply
  extract_lets s1 s2 s3
  have h2 : remapView s2 = remapView s := by
    unfold s2
    split <;> rfl
  rw [raise_frame]
  exact h2

theorem eachRemap_remapView (l : List Remap) : remapView (s.each l remapApply) = remapView s :=
  State.each_keeps s (fun t => remapView t = remapView s) _ _ (fun _ _ h => (remapApply_remapView _).trans h) rfl

theorem toStandby_none (h : s.rep.stackReq = none) : toStandby s = setState s .standby := by
  unfold toStandby
  rw [h]

/-- What the end of a Flush leaves (R286). -/
theorem flushDone_keeps (hf : s.beds.flush = 2) (hb : s.dev.busy = true) (hr : s.rep.stackReq = none) : let t := flushDone s
    t.beds.flush = 3 ∧ t.beds.mem = (flushBeds s).beds.mem ∧ t.dev.busy = false ∧ t.dev.state = entered s .standby ∧ t.dev.img = none ∧
    t.dev.image = [] ∧ t.srv.adapters = [] := by
  dsimp only
  unfold flushDone
  rw [if_pos ⟨hf, hb⟩]
  extract_lets s1 s2 s3 s4 s5 s6
  have h1 : s1.rep = s.rep ∧ s1.pins = s.pins ∧ s1.dev = s.dev := by
    have hv := flushBeds_contentView (s := s)
    have e := congrArg (fun u : State => (u.rep, u.pins, u.dev)) hv
    simpa [contentView] using e
  have hmem1 : s1.beds.mem = (flushBeds s).beds.mem := rfl
  clear_value s1
  have h2 : s2.beds.flush = 3 ∧ s2.beds.mem = s1.beds.mem ∧ s2.rep = s1.rep ∧ s2.pins = s1.pins := ⟨rfl, rfl, rfl, rfl⟩
  clear_value s2
  have h3 : s3.beds = s2.beds ∧ s3.rep = s2.rep ∧ s3.pins = s2.pins := ⟨raise_beds .., raise_rep .., raise_pins ..⟩
  clear_value s3
  have h5 : s5.beds = s3.beds ∧ s5.rep = s3.rep ∧ s5.pins = s3.pins ∧ s5.dev.img = none ∧ s5.dev.image = [] ∧ s5.srv.adapters = [] :=
    ⟨rfl, rfl, rfl, rfl, rfl, rfl⟩
  clear_value s5
  have h6 : s6.beds = s5.beds ∧ s6.rep.stackReq = s5.rep.stackReq ∧ s6.pins = s5.pins ∧ s6.dev = s5.dev ∧ s6.srv = s5.srv := by
    have e := congrArg (fun u : State => (u.beds, u.rep.stackReq, u.pins, u.dev, u.srv)) (eachRemap_remapView (s := s5) s5.rep.pend)
    simpa [remapView] using e
  clear_value s6
  obtain ⟨hrep1, hpins1, -⟩ := h1
  obtain ⟨hflush2, hmem2, hrep2, hpins2⟩ := h2
  obtain ⟨hbeds3, hrep3, hpins3⟩ := h3
  obtain ⟨hbeds5, hrep5, hpins5, himg5, himage5, had5⟩ := h5
  obtain ⟨hbeds6, hreq6, hpins6, hdev6, hsrv6⟩ := h6
  have hreq : s6.rep.stackReq = none := by rw [hreq6, hrep5, hrep3, hrep2, hrep1, hr]
  have hpins : s6.pins = s.pins := by rw [hpins6, hpins5, hpins3, hpins2, hpins1]
  have hbeds : s6.beds = s2.beds := by rw [hbeds6, hbeds5, hbeds3]
  have hkept := setState_kept (s := s6.mapDev fun d => { d with busy := false }) .standby
  have hin (x : State) (hx : s6.mapDev (fun d => { d with busy := false }) = x) : entered x .standby = entered s .standby := by
    rw [entered, entered, ← hpins, ← hx]
    rfl
  rw [toStandby_none (s := s6.mapDev fun d => { d with busy := false }) hreq]
  refine ⟨?_, ?_, congrArg Dev.busy hkept, (setState_entered (.inl rfl) rfl).trans (hin _ rfl), (congrArg Dev.img hkept).trans ?_,
    (congrArg Dev.image hkept).trans ?_, ?_⟩
  · rw [setState_beds]
    exact (congrArg Beds.flush hbeds).trans hflush2
  · rw [setState_beds]
    exact (congrArg Beds.mem hbeds).trans (hmem2.trans hmem1)
  · exact (congrArg Dev.img hdev6).trans himg5
  · exact (congrArg Dev.image hdev6).trans himage5
  · rw [setState_srv]
    exact (congrArg Serving.adapters hsrv6).trans had5

end

/-- Settles O38. -/
theorem killFlushes : Obligations.KillFlushes := by
  intro p s
  refine ⟨fun w h hb hst => ?_, fun hf hb => ?_, fun hf hb hr => ?_⟩
  · have hex : exec (if w then .killWeights p else .kill p) s = .next (okResp (killStart s w) p 0x180002) := by
      cases w
      · exact congrArg Host.Outcome.next (devCmd_done h hb hst rfl)
      · exact congrArg Host.Outcome.next (devCmd_done h hb hst rfl)
    obtain ⟨hdev, hrest⟩ := killStart_keeps (s := s) w
    generalize killStart s w = t at *
    exact ⟨_, hex, okResp_granted .., hdev, hrest⟩
  · obtain ⟨hbeds, hcores, hpools, hframe⟩ := flushOndie_keeps hf hb
    refine ⟨_, rfl, ?_, ?_, ?_, hcores, hpools, hframe⟩
    all_goals rw [hbeds]
  · obtain ⟨hflush, hmem, hbusy, hstate, himg, himage, had⟩ := flushDone_keeps hf hb hr
    have hgone (a : Nat) : (∃ i, i < 8 ∧ partUsed (partOf s i) = true ∧ (partOf s i).2.1 ≤ a ∧ a < (partOf s i).2.1 + (partOf s i).2.2 ∧
        ((partOf s i).1 ∈ [3, 4, 5] ∨ s.beds.flushW = true ∧ (partOf s i).1 ∈ [1, 2])) ↔
        ∃ q ∈ (List.range 8).map (partOf s), Flushes (if s.beds.flushW then [1, 2, 3, 4, 5] else [3, 4, 5]) q a := by
      have htypes (n : Nat) : (n ∈ [3, 4, 5] ∨ s.beds.flushW = true ∧ n ∈ [1, 2]) ↔ n ∈ if s.beds.flushW then [1, 2, 3, 4, 5] else [3, 4, 5] := by
        cases s.beds.flushW <;> simp
        omega
      simp only [htypes, List.mem_map, List.mem_range, Flushes, exists_exists_and_eq_and]
      exact exists_congr fun i => by tauto
    refine ⟨_, rfl, hflush, hbusy, hstate, himg, himage, had, fun a ha => ?_, fun a ha => ?_⟩
    · rw [hmem]
      exact (eachFlush_mget _ _ a).1 ((hgone a).1 ha)
    · rw [hmem]
      exact (eachFlush_mget _ _ a).2 fun hq => ha ((hgone a).2 hq)

end Sys2Proof.Machine
end

section
/-! PROOFS. Slackwater (O39). -/
namespace Sys2Proof.Machine

section
variable {s t : State} {p : Path}

/-! ### Entry -/

/-- What an entry of Slackwater leaves (R435, R477). -/
theorem enterSleep_keeps (h : s.dev.state ≠ .slackwater) : (enterSleep s).dev.state = .slackwater ∧ (enterSleep s).dev.saved = stateCode s.dev.state ∧
    (enterSleep s).pwr = { s.pwr with sleepE := 0, sleepAt := s.fab.ftime, sleepN := min (s.pwr.sleepN + 1) 0xFFFFFFFF } := by
  unfold enterSleep
  extract_lets from_ s1 s2 s3
  have h1 : s1.dev.state = .slackwater ∧ s1.dev.saved = stateCode s.dev.state ∧ s1.pwr = s.pwr ∧ s1.fab = s.fab := by
    refine ⟨?_, ?_, setState0_pwr .., setState0_fab ..⟩
    all_goals
      unfold s1 setState0
      dsimp only
      rw [if_neg h.symm, if_neg (by decide), raise_dev]
      rfl
  clear_value s1
  obtain ⟨hstate, hsaved, hpwr, hfab⟩ := h1
  rw [raise_dev, raise_pwr]
  refine ⟨hstate, hsaved, ?_⟩
  show { s1.pwr with sleepE := 0, sleepAt := s1.fab.ftime, sleepN := min (s1.pwr.sleepN + 1) 0xFFFFFFFF } = _
  rw [hpwr, hfab]

/-! ### The wake -/

/-- What a wake keeps of a core (R478). -/
def Core.Woken (k k' : Core) : Prop := k'.spad = k.spad ∧ k'.bankA = k.bankA ∧ k'.bankB = k.bankB ∧ ∀ a, a < 4 → (k'.arr a).acc = (k.arr a).acc

/-- What a wake keeps of an array. -/
def MxArray.woken (x : MxArray) : MxArray := { bad := x.bad, acc := x.acc, tags := x.tags, osum := x.osum, snd := x.snd }

theorem coreWake_woken (k : Core) : k.Woken (coreWake k) := by
  refine ⟨rfl, rfl, rfl, fun a ha => ?_⟩
  have h : (coreWake k).arr a = if a < 4 then (k.arr a).woken else {} := fget_four ({} : MxArray) (fun a => (k.arr a).woken) a
  rw [h, if_pos ha]
  rfl

theorem setState_wakeUs (n : DevState) : (setState s n).pwr.wakeUs = s.pwr.wakeUs := by
  unfold setState
  dsimp only
  split
  · unfold enterSleep
    rw [raise_pwr]
    show (setState0 (setState0 s n) .slackwater).pwr.wakeUs = _
    rw [setState0_pwr, setState0_pwr]
  · rw [setState0_pwr]

theorem wakeDone_keeps (hst : s.dev.state = .slackwater) (hb : s.dev.busy = true) : let t := wakeDone s []
    t.dev.busy = false ∧ t.dev.state = entered s (if s.dev.saved = 4 then .ready else .standby) ∧ t.pwr.wakeUs = (s.fab.ftime - s.pwr.wakeAt) / 1000 ∧
    t.pools = s.pools ∧ t.beds = s.beds ∧ ∀ c, (s.core c).Woken (t.core c) := by
  dsimp only
  unfold wakeDone
  rw [if_pos ⟨hst, hb⟩]
  extract_lets f us slept s1 s2 s3 s4 s5
  have h3 : s3.dev = s.dev ∧ s3.pwr.wakeUs = (s.fab.ftime - s.pwr.wakeAt) / 1000 ∧ s3.pools = s.pools ∧ s3.beds = s.beds ∧ s3.pins = s.pins :=
    ⟨rfl, rfl, rfl, rfl, rfl⟩
  have hcore (c : Nat) : (s.core c).Woken (s3.core c) := fget_map_rel ⟨rfl, rfl, rfl, fun _ _ => rfl⟩ coreWake_woken s.cores c
  clear_value s3
  obtain ⟨hdev, hwake, hpools, hbeds, hpins⟩ := h3
  have h5 : s5.dev.busy = false ∧ s5.dev.saved = s.dev.saved ∧ s5.pwr = s3.pwr ∧ s5.pools = s3.pools ∧ s5.beds = s3.beds ∧ s5.cores = s3.cores ∧
      s5.pins = s3.pins := by
    refine ⟨rfl, ?_, raise_pwr .., raise_pools .., raise_beds .., raise_cores .., raise_pins ..⟩
    exact (congrArg Dev.saved (raise_dev ..)).trans (congrArg Dev.saved hdev)
  clear_value s5
  obtain ⟨hbusy5, hsaved5, hpwr5, hpools5, hbeds5, hcores5, hpins5⟩ := h5
  rw [hsaved5]
  have hn : (if s.dev.saved = 4 then DevState.ready else .standby) = .standby ∨ (if s.dev.saved = 4 then DevState.ready else .standby) = .ready := by
    split
    · exact .inr rfl
    · exact .inl rfl
  refine ⟨?_, ?_, ?_, ?_, ?_, fun c => ?_⟩
  · have h := congrArg Dev.busy (setState_kept (s := s5) (if s.dev.saved = 4 then .ready else .standby))
    exact h.trans hbusy5
  · rw [setState_entered hn hbusy5, entered, entered, hpins5, hpins]
  · rw [setState_wakeUs, hpwr5, hwake]
  · rw [setState_pools, hpools5, hpools]
  · rw [setState_beds, hbeds5, hbeds]
  · rw [core_of_cores ((setState_cores ..).trans hcores5)]
    exact hcore c

/-! ### The board's level -/

/-- The line of the board's level, pended or not, changes the interrupt sources and the harts at most. -/
theorem ite_pendLine_lineView (c : Prop) [Decidable c] (g n : Nat) : lineView (if c then s else pendLine s g n) = lineView s ∧
    lineView (if c then pendLine s g n else s) = lineView s := by
  split
  · exact ⟨rfl, pend_lineView _⟩
  · exact ⟨pend_lineView _, rfl⟩

theorem lineView_dev (h : lineView t = lineView s) : t.dev = s.dev ∧ t.pins = s.pins := by
  rw [lineView_frame h]
  exact ⟨rfl, rfl⟩

/-- Where the level finds the device able to sleep, it sleeps (R566). -/
theorem sleepIfIdle_keeps {b : Bool} (hb : b = true ↔ s.dev.busy = false ∧ (s.dev.state = .standby ∨ s.dev.state = .ready)) :
    let t := if b then enterSleep s else s
    t.dev.state = (if s.dev.busy = false ∧ (s.dev.state = .standby ∨ s.dev.state = .ready) then .slackwater else s.dev.state) ∧
      t = { s with dev := t.dev, pwr := t.pwr, evr := t.evr } := by
  intro t
  cases b with
  | false =>
    rw [if_neg fun h => Bool.false_ne_true (hb.2 h)]
    exact ⟨rfl, rfl⟩
  | true =>
    have h := hb.1 rfl
    rw [if_pos h]
    refine ⟨(enterSleep_keeps ?_).1, enterSleep_frame s⟩
    obtain hst | hst := h.2 <;> rw [hst] <;> decide

theorem sleepReqAssert_keeps : ∃ t, exec .sleepReqAssert s = .next t ∧ t.pins = { s.pins with sleepReq := true } ∧
    t.dev.state = (if s.dev.busy = false ∧ (s.dev.state = .standby ∨ s.dev.state = .ready) then .slackwater else s.dev.state) ∧
    t = { s with pins := t.pins, dev := t.dev, pwr := t.pwr, evr := t.evr, mgm := { s.mgm with src := t.mgm.src, harts := t.mgm.harts } } := by
  by_cases hoff : s.dev.state = .off
  · refine ⟨_, congrArg Host.Outcome.next (if_pos hoff), rfl, ?_, rfl⟩
    rw [if_neg (by simp [hoff])]
  · obtain ⟨u, hu⟩ : ∃ u, u = if s.pins.sleepReq then { s with pins := { s.pins with sleepReq := true } } else
      pendLine { s with pins := { s.pins with sleepReq := true } } 13 4 := ⟨_, rfl⟩
    have hview : lineView u = lineView { s with pins := { s.pins with sleepReq := true } } := by
      rw [hu]
      exact (ite_pendLine_lineView _ 13 4).1
    obtain ⟨hdev, hpins⟩ := lineView_dev hview
    have hframe := lineView_frame hview
    obtain ⟨hstate, hrest⟩ := sleepIfIdle_keeps (s := u) (b := decide ((s.dev.state = .standby ∨ s.dev.state = .ready) ∧ (!s.dev.busy) = true))
      (by rw [decide_eq_true_iff, hdev, Bool.not_eq_true', and_comm])
    rw [hdev] at hstate
    have hex : exec .sleepReqAssert s = .next (if (decide ((s.dev.state = .standby ∨ s.dev.state = .ready) ∧ (!s.dev.busy) = true)) = true
        then enterSleep u else u) := by
      rw [hu]
      simp only [decide_eq_true_iff]
      exact congrArg Host.Outcome.next (if_neg hoff)
    generalize (if (decide ((s.dev.state = .standby ∨ s.dev.state = .ready) ∧ (!s.dev.busy) = true)) = true then enterSleep u else u) = t at *
    refine ⟨t, hex, ?_, hstate, ?_⟩
    · rw [hrest]
      exact hpins
    · rw [hrest, hframe]

theorem sleepReqRelease_keeps : ∃ t, exec .sleepReqRelease s = .next t ∧ t.pins = { s.pins with sleepReq := false } ∧ t.dev.state = s.dev.state ∧
    t.dev.busy = (s.dev.busy || (s.dev.state == .slackwater && s.pins.sleepReq)) ∧
    t = { s with pins := t.pins, dev := { s.dev with busy := t.dev.busy }, pwr := { s.pwr with wakeAt := t.pwr.wakeAt }
                 mgm := { s.mgm with src := t.mgm.src, harts := t.mgm.harts } } := by
  by_cases hoff : s.dev.state = .off
  · refine ⟨_, congrArg Host.Outcome.next (if_pos hoff), rfl, rfl, ?_, rfl⟩
    rw [hoff]
    exact (Bool.or_false _).symm
  · obtain ⟨u, hu⟩ : ∃ u, u = if s.pins.sleepReq then pendLine { s with pins := { s.pins with sleepReq := false } } 13 5 else
      { s with pins := { s.pins with sleepReq := false } } := ⟨_, rfl⟩
    have hview : lineView u = lineView { s with pins := { s.pins with sleepReq := false } } := by
      rw [hu]
      exact (ite_pendLine_lineView _ 13 5).2
    have hframe := lineView_frame hview
    have hex : exec .sleepReqRelease s = .next (if s.dev.state = .slackwater ∧ (!s.dev.busy) = true ∧ s.pins.sleepReq = true then wakeBegin u else u) := by
      rw [hu]
      exact congrArg Host.Outcome.next (if_neg hoff)
    by_cases hw : s.dev.state = .slackwater ∧ (!s.dev.busy) = true ∧ s.pins.sleepReq = true
    · rw [if_pos hw] at hex
      refine ⟨_, hex, ?_, ?_, ?_, ?_⟩
      · rw [hframe]
        rfl
      · rw [hframe]
        rfl
      · rw [hw.1, hw.2.2]
        exact (Bool.or_true _).symm
      · rw [hframe]
        rfl
    · rw [if_neg hw] at hex
      refine ⟨_, hex, ?_, ?_, ?_, ?_⟩
      · rw [hframe]
      · rw [hframe]
      · rw [hframe]
        show s.dev.busy = _
        cases hb : s.dev.busy
        · rw [hb] at hw
          have hand : (s.dev.state == .slackwater && s.pins.sleepReq) = false :=
            Bool.eq_false_iff.2 fun h => hw (by simpa using h)
          rw [hand]
          rfl
        · rfl
      · rw [hframe]

end

/-- Settles O39. -/
theorem slackwaterEntersAndWakes : Obligations.SlackwaterEntersAndWakes := by
  intro p s
  refine ⟨fun h hb hst => ?_, fun h hb hst => ?_, fun hst hb => ?_, ?_, ?_⟩
  · have hne : s.dev.state ≠ .slackwater := by
      obtain hst | hst := hst <;> rw [hst] <;> decide
    obtain ⟨hstate, hsaved, hpwr⟩ := enterSleep_keeps hne
    have hframe := enterSleep_frame s
    have hex : exec (.sleep p) s = .next (okResp (enterSleep s) p 0x180002) := congrArg Host.Outcome.next (devCmd_done h hb (by simpa using hst) rfl)
    refine ⟨_, hex, okResp_granted .., hstate, hsaved, hpwr, ?_⟩
    rw [hframe]
    rfl
  · exact ⟨_, congrArg Host.Outcome.next (devCmd_done h hb (by simp [hst]) rfl), okResp_granted .., rfl⟩
  · obtain ⟨hbusy, hstate, hwake, hpools, hbeds, hcores⟩ := wakeDone_keeps hst hb
    exact ⟨_, rfl, hbusy, hstate, hwake, hpools, hbeds, hcores⟩
  · exact sleepReqAssert_keeps
  · exact sleepReqRelease_keeps

end Sys2Proof.Machine
end

section
/-! PROOFS. Descriptor banks and path tables (O40). -/
namespace Sys2Proof.Machine

section
variable {s t : State} {p : Path} {c : CoreId} {o : Nat}

theorem takes_of_state (hst : s.dev.state = .ready ∨ s.dev.state = .running ∨ s.dev.state = .draining) (hs : served s p = true) (ho : ownerOk s p = true) :
    Takes s p o ∧ bankState s = true ∧ pathState s = true := by
  have h : stateServes s o = true ∧ bankState s = true ∧ pathState s = true := by
    unfold stateServes bankState pathState
    obtain h | h | h := hst <;> rw [h] <;> exact ⟨rfl, rfl, rfl⟩
  exact ⟨⟨hs, ho, h.1⟩, h.2⟩

/-- A change of one core leaves the other cores. -/
theorem mapCore_others (c : Nat) (f : Core → Core) : OtherCores s (s.mapCore c f) c := fun k hk => by rw [State.mapCore_core, if_neg hk]

theorem OtherCores.congr {c : Nat} {u : State} (h : OtherCores s t c) (he : u.cores = t.cores) : OtherCores s u c :=
  fun k hk => (core_of_cores he k).trans (h k hk)

/-- Who is served, and who owns the dictionary, the device record and the management record say (R423, R428). -/
theorem served_congr (hdev : t.dev = s.dev) (hmgm : t.mgm = s.mgm) : served t p = served s p ∧ ownerOk t p = ownerOk s p := by
  unfold served ownerOk pathUp dictHart waitsOn State.hart
  rw [hdev, hmgm]
  exact ⟨rfl, rfl⟩

/-! ### Banks -/

theorem bankWriteTo_core (off : Nat) (bs : List Byte) : let k := s.core c.val
    let k' := (bankWriteTo s c.val off bs true).core c.val
    Wrote k.inBank k'.inBank off bs ∧ k'.actBank = k.actBank ∧ k'.inact = .filling ∧ k'.byOd = true := by
  dsimp only
  unfold bankWriteTo
  rw [State.mapCore_core_same]
  generalize s.core c.val = k
  unfold Core.inBank Core.actBank Core.mapIn Wrote
  cases hb : k.activeB
  · exact ⟨fun a => by simp [mget_mwrite], by simp, rfl, rfl⟩
  · exact ⟨fun a => by simp [mget_mwrite], by simp, rfl, rfl⟩

theorem bankSealCmd_good {stOk room : Bool} {more : State → State} (h : Takes s p (0x203300 + c.val + 1)) (hst : stOk = true) (hroom : room = true)
    (hg : (s.core c.val).inact ≠ .empty ∧ bankSealOk s c.val (s.core c.val).inBank = true) (i : Instr) :
    odReq s p (0x203300 + c.val + 1) i (bankSealCmd s p c.val stOk room more) =
      okResp (more (s.mapCore c.val fun k => { k with inact := .valid })) p (0x203300 + c.val + 1) := by
  obtain ⟨hs, ho, hv⟩ := h
  have hseal : sealBank s c.val [] = (s.mapCore c.val fun k => { k with inact := .valid }, true) := if_pos hg
  rw [odReq, odTake_served _ _ _ _ _ hs, bankSealCmd]
  simp only [hs, ho, hv, hst, hroom, hseal, Bool.not_true, Bool.and_true, Bool.false_eq_true, if_false, if_true]

theorem bankSealCmd_bad {stOk room : Bool} {more : State → State} (h : Takes s p (0x203300 + c.val + 1)) (hst : stOk = true)
    (hg : ¬ ((s.core c.val).inact ≠ .empty ∧ bankSealOk s c.val (s.core c.val).inBank = true)) (i : Instr) :
    odReq s p (0x203300 + c.val + 1) i (bankSealCmd s p c.val stOk room more) = refuse (raiseC s 0x030A c.val []) p (0x203300 + c.val + 1) abCHECK := by
  obtain ⟨hs, ho, hv⟩ := h
  have hseal : sealBank s c.val [] = (raiseC s 0x030A c.val [], false) := if_neg hg
  rw [odReq, odTake_served _ _ _ _ _ hs, bankSealCmd]
  simp only [hs, ho, hv, hst, hseal, Bool.not_true, Bool.and_true, Bool.false_eq_true, if_false]

/-! ### Path tables -/

theorem pathSealCmd_good {stOk room : Bool} {more : State → State} (h : Takes s p 0x402100) (hst : stOk = true) (hroom : room = true)
    (hg : s.fab.pathIn ≠ .empty ∧ pathSealOk (pathInBank s) = true) (i : Instr) :
    odReq s p 0x402100 i (pathSealCmd s p stOk room more) = okResp (more (s.mapFab fun f => { f with pathIn := .valid })) p 0x402100 := by
  obtain ⟨hs, ho, hv⟩ := h
  have hseal : pathSeal s = (s.mapFab fun f => { f with pathIn := .valid }, true) := if_pos hg
  rw [odReq, odTake_served _ _ _ _ _ hs, pathSealCmd]
  simp only [hs, ho, hv, hst, hroom, hseal, Bool.not_true, Bool.and_true, Bool.false_eq_true, if_false, if_true]

theorem pathSealCmd_bad {stOk room : Bool} {more : State → State} (h : Takes s p 0x402100) (hst : stOk = true)
    (hg : ¬ (s.fab.pathIn ≠ .empty ∧ pathSealOk (pathInBank s) = true)) (i : Instr) :
    odReq s p 0x402100 i (pathSealCmd s p stOk room more) = refuse (raise s 0x0A0A 0x15 []) p 0x402100 abCHECK := by
  obtain ⟨hs, ho, hv⟩ := h
  have hseal : pathSeal s = (raise s 0x0A0A 0x15 [], false) := if_neg hg
  rw [odReq, odTake_served _ _ _ _ _ hs, pathSealCmd]
  simp only [hs, ho, hv, hst, hseal, Bool.not_true, Bool.and_true, Bool.false_eq_true, if_false]

/-- What a measurement makes of its own register (R508). -/
theorem measure_mr (typ m : Nat) (d : List Byte) : fget (measure s typ m d).tru.mr (List.replicate 64 0#8) m =
    shake64 (fget s.tru.mr (List.replicate 64 0#8) m ++ leBytes 2 typ ++ leBytes 1 0 ++ padTo 32 [] ++ padTo 64 d) :=
  (fget_fset ..).trans (if_pos rfl)

/-- What the switch of a valid path table leaves (R339, R340). -/
theorem pathSwitch_valid_fab (h : s.fab.pathIn = .valid) : (pathSwitch s).fab = { s.fab with pathAct := !s.fab.pathAct, pathIn := .spent } ∧
    fget (pathSwitch s).tru.mr (List.replicate 64 0#8) 4 = shake64 (fget s.tru.mr (List.replicate 64 0#8) 4 ++ leBytes 2 0x41 ++ leBytes 1 0 ++
      padTo 32 [] ++ padTo 64 (shake64 (mread (pathInBank s) 0 65536))) := by
  have hbank : pathBank (raise (s.mapFab fun f => { f with pathAct := !f.pathAct, pathIn := .spent }) 0x0A09 0x15 []) = pathInBank s := by
    rw [pathBank, raise_fab, pathInBank]
    cases hact : s.fab.pathAct <;> simp [State.mapFab, hact]
  have e : pathSwitch s = measure (raise (s.mapFab fun f => { f with pathAct := !f.pathAct, pathIn := .spent }) 0x0A09 0x15 []) 0x41 4
      (shake64 (mread (pathInBank s) 0 65536)) := by
    unfold pathSwitch
    rw [if_pos h, ← hbank]
  rw [e]
  refine ⟨?_, ?_⟩
  · rw [measure_fab, raise_fab]
    rfl
  · rw [measure_mr, raise_tru]
    rfl

theorem pathWrite_keeps (off : Nat) (bs : List Byte) : let t := s.mapFab fun f =>
      if f.pathAct then { f with pathA := mwrite f.pathA off bs, pathIn := .filling } else { f with pathB := mwrite f.pathB off bs, pathIn := .filling }
    Wrote (pathInBank s) (pathInBank t) off bs ∧ pathBank t = pathBank s ∧ t.fab.pathIn = .filling := by
  unfold Wrote pathInBank pathBank State.mapFab
  cases hact : s.fab.pathAct
  · exact ⟨fun a => by simp [mget_mwrite, hact], by simp [hact], by simp [hact]⟩
  · exact ⟨fun a => by simp [mget_mwrite, hact], by simp [hact], by simp [hact]⟩

theorem stagesNow_replaying (h : stagesNow s = true → s.inp.replaying = false) : (!(stagesNow s && s.inp.replaying)) = true := by
  cases hn : stagesNow s
  · rfl
  · rw [h hn]
    rfl

theorem stage_bankSwitch_keeps {u : State} (h : stageRoom u (.bankSwitch c.val) = true) : (stage u (.bankSwitch c.val)).cores = u.cores ∧
    ∃ g ∈ (stage u (.bankSwitch c.val)).mgm.staged, g.kind = .bankSwitch c.val ∧ g.acked = false ∧ g.sent = true := by
  obtain ⟨⟨g, hg, hkind, hack, hsent, -⟩, hframe⟩ := stage_put h
  exact ⟨by rw [hframe], g, hg, hkind, hack, hsent⟩

end

/-- Settles O40. -/
theorem banksSeal : Obligations.BanksSeal := by
  intro p c s hst hs ho k good pgood
  have htakes (o : Nat) : Takes s p o := (takes_of_state hst hs ho).1
  obtain ⟨-, hbank, hpath⟩ := takes_of_state (o := 0) hst hs ho
  refine ⟨fun off bs hrep hlen => ⟨?_, ?_⟩, fun hg => ?_, fun hg => ?_, fun hg hrep hroom => ?_, fun off bs hlen => ?_, fun hg => ?_, fun hg => ?_,
    fun hg hready => ?_, fun hg hready hrep hroom => ?_⟩
  · have hlate : (served s p && ownerOk s p && stateServes s (0x203200 + c.val + 1) && bankState s && !(stagesNow s && s.inp.replaying) &&
        firstAbort [(decide (off.toNat + bs.length ≤ bankBytes), abPASTEND)] == 0) = true := by
      rw [hs, ho, (htakes _).2.2, hbank, stagesNow_replaying hrep, firstAbort_zero _ (List.forall_mem_cons.2 ⟨decide_eq_true hlen, List.forall_mem_nil _⟩)]
      rfl
    have hex : exec (.bankWrite p c ⟨k.activeB, off⟩ bs) s = .next (refuse (raiseC (s.mapCore c.val fun k => { k with refused := sat32 k.refused })
        0x0309 c.val []) p (0x203200 + c.val + 1) abSTATE) := by
      refine congrArg Host.Outcome.next ((odTake_served _ _ _ _ _ hs).trans ((if_neg (by simp [k])).trans ?_))
      rw [hlate]
      have hsame := served_congr (p := p) (s := s) (t := raiseC (s.mapCore c.val fun k => { k with refused := sat32 k.refused }) 0x0309 c.val []) (raiseC_dev ..)
        (raiseC_mgm ..)
      exact odCmd_wrongState _ _ _ _ _ _ (hsame.1.trans hs) (hsame.2.trans ho) (Bool.and_false _)
    refine ⟨_, hex, refuse_denied .., ?_, ?_⟩
    · intro c' hc'
      rw [core_of_cores ((refuse_cores ..).trans (raiseC_cores ..))]
      exact mapCore_others _ _ c' hc'
    · rw [core_of_cores ((refuse_cores ..).trans (raiseC_cores ..)), State.mapCore_core_same]
      rfl
  · have hex : exec (.bankWrite p c ⟨!k.activeB, off⟩ bs) s = .next (okResp (bankWriteTo s c.val off.toNat bs true) p (0x203200 + c.val + 1)) := by
      refine congrArg Host.Outcome.next ((congrArg (odReq s p _ _) (if_pos (by simp [k]))).trans (odReq_done (htakes _) ?_ ?_))
      · rw [hbank, stagesNow_replaying hrep]
        rfl
      · exact firstAbort_zero _ (List.forall_mem_cons.2 ⟨decide_eq_true hlen, List.forall_mem_nil _⟩)
    obtain ⟨hwrote, hact, hin, hby⟩ := bankWriteTo_core (s := s) (c := c) off.toNat bs
    exact ⟨_, hex, okResp_granted .., hwrote, hact, hin, hby, (mapCore_others c.val _ : OtherCores s (bankWriteTo s c.val off.toNat bs true) c.val).congr rfl⟩
  · have hcores := okResp_cores (s.mapCore c.val fun k => { k with inact := .valid }) p (0x203300 + c.val + 1)
    exact ⟨_, congrArg Host.Outcome.next (bankSealCmd_good (htakes _) rfl rfl hg _), okResp_granted ..,
      (core_of_cores hcores _).trans (State.mapCore_core_same ..), (mapCore_others _ _).congr hcores⟩
  · refine ⟨_, congrArg Host.Outcome.next (bankSealCmd_bad (htakes _) rfl hg _), refuse_denied .., ?_⟩
    rw [refuse_cores, raiseC_cores]
  · have hex := bankSealCmd_good (more := fun s => stage s (.bankSwitch c.val)) (htakes _) (stagesNow_replaying hrep) hroom hg (.bankSealSwitch p c)
    obtain ⟨hcores, hg⟩ := stage_bankSwitch_keeps (c := c) (u := s.mapCore c.val fun k => { k with inact := .valid }) hroom
    refine ⟨_, congrArg Host.Outcome.next hex, okResp_granted .., ?_, fun c' hc' => ?_, hg⟩
    · exact (core_of_cores hcores _).trans (State.mapCore_core_same ..)
    · exact (core_of_cores hcores _).trans (mapCore_others _ _ c' hc')
  · obtain ⟨hwrote, hact, hin⟩ := pathWrite_keeps (s := s) off.toNat bs
    exact ⟨_, congrArg Host.Outcome.next (odReq_done (htakes _) hpath
      (firstAbort_zero _ (List.forall_mem_cons.2 ⟨decide_eq_true hlen, List.forall_mem_nil _⟩))), okResp_granted .., hwrote, hact, hin⟩
  · exact ⟨_, congrArg Host.Outcome.next (pathSealCmd_good (htakes _) rfl rfl hg _), okResp_granted .., rfl⟩
  · refine ⟨_, congrArg Host.Outcome.next (pathSealCmd_bad (htakes _) rfl hg _), refuse_denied .., ?_⟩
    rw [refuse_fab, raise_fab]
  · have hno : stagesNow s = false := by
      rw [stagesNow, hready]
      rfl
    have hex := pathSealCmd_good (more := fun s => if stagesNow s then stage s .pathSwitch else pathSwitch s) (room := !stagesNow s || stageRoom s .pathSwitch)
      (htakes _) (stagesNow_replaying (s := s) fun h => by rw [hno] at h; exact absurd h Bool.false_ne_true) (by rw [hno]; rfl) hg (.pathBankSealSwitch p)
    have hmore : (if stagesNow (s.mapFab fun f => { f with pathIn := .valid }) then stage (s.mapFab fun f => { f with pathIn := .valid }) .pathSwitch
        else pathSwitch (s.mapFab fun f => { f with pathIn := .valid })) = pathSwitch (s.mapFab fun f => { f with pathIn := .valid }) :=
      if_neg (Bool.eq_false_iff.1 hno)
    obtain ⟨hfab, hmr⟩ := pathSwitch_valid_fab (s := s.mapFab fun f => { f with pathIn := .valid }) rfl
    exact ⟨_, congrArg Host.Outcome.next (hex.trans (congrArg (okResp · p 0x402100) hmore)), okResp_granted .., hfab, hmr⟩
  · have hyes : stagesNow s = true := by
      unfold stagesNow
      obtain h | h | h := hst
      · exact absurd h hready
      · rw [h]; rfl
      · rw [h]; rfl
    have hex := pathSealCmd_good (more := fun s => if stagesNow s then stage s .pathSwitch else pathSwitch s) (room := !stagesNow s || stageRoom s .pathSwitch)
      (htakes _) (stagesNow_replaying (s := s) fun _ => hrep) (by rw [hroom, Bool.or_true]) hg (.pathBankSealSwitch p)
    have hmore : (if stagesNow (s.mapFab fun f => { f with pathIn := .valid }) then stage (s.mapFab fun f => { f with pathIn := .valid }) .pathSwitch
        else pathSwitch (s.mapFab fun f => { f with pathIn := .valid })) = stage (s.mapFab fun f => { f with pathIn := .valid }) .pathSwitch := if_pos hyes
    obtain ⟨⟨g, hgm, hkind, hack, hsent, -⟩, hframe⟩ := stage_put (s := s.mapFab fun f => { f with pathIn := .valid }) (k := .pathSwitch) hroom
    exact ⟨_, congrArg Host.Outcome.next (hex.trans (congrArg (okResp · p 0x402100) hmore)), okResp_granted .., congrArg State.fab hframe, g, hgm, hkind, hack, hsent⟩

end Sys2Proof.Machine
end

section
/-! PROOFS. Swaps (O46). -/
namespace Sys2Proof.Machine

section
variable {s t : State} {p : Path} {o : Nat}

/-- A write that the state of its object does not serve is refused (R430). -/
theorem odReq_wrongState {st : Bool} {chk : Nat} {act : State → State} {i : Instr} (h : Takes s p o) (hst : st = false) :
    odReq s p o i (odCmd s p o st chk act) = refuse s p o abSTATE := by
  obtain ⟨hs, ho, -⟩ := h
  rw [odReq, odTake_served _ _ _ _ _ hs, odCmd_wrongState _ _ _ _ _ _ hs ho (by rw [hst, Bool.and_false])]

/-- An event record depends on the recorder, the schedule and the fabric alone. -/
theorem raise_eq (hevr : t.evr = s.evr) (hsch : t.sch = s.sch) (hfab : t.fab = s.fab) (id n : Nat) (l : List Nat) :
    raise t id n l = { t with evr := (raise s id n l).evr } := by
  rw [raise_frame, raise_evr_congr hevr hsch hfab]

/-- The check of a write with one condition. -/
theorem firstAbort_one_pos {b : Prop} [Decidable b] {n : Nat} (h : b) : firstAbort [(decide b, n)] = 0 :=
  firstAbort_zero _ (List.forall_mem_cons.2 ⟨decide_eq_true h, List.forall_mem_nil _⟩)

theorem firstAbort_one_neg {b : Prop} [Decidable b] {n : Nat} (h : ¬ b) : firstAbort [(decide b, n)] = n := by
  rw [decide_eq_false h]
  rfl

theorem coreSwap_keeps (m : Mem) (i : Nat) (k : Core) : (coreSwap m i k).inact = .valid ∧ (coreSwap m i k).actBank = k.actBank := by
  unfold coreSwap Core.mapIn Core.actBank
  cases h : k.activeB <;> simp

theorem eachSwap_core (m : Mem) (cs l : List Nat) (c : Nat) :
    let u := s.each l fun s i => s.mapCore (cs.getD i 0) (coreSwap m i)
    (u.core c).actBank = (s.core c).actBank ∧ (c ∈ l.map (cs.getD · 0) ∨ (s.core c).inact = .valid → (u.core c).inact = .valid) := by
  induction l generalizing s with
  | nil => exact ⟨rfl, fun h => h.resolve_left List.not_mem_nil⟩
  | cons i l ih =>
    obtain ⟨hact, hvalid⟩ := ih (s := s.mapCore (cs.getD i 0) (coreSwap m i))
    rw [State.mapCore_core] at hact hvalid
    by_cases hc : c = cs.getD i 0
    · rw [if_pos hc] at hact hvalid
      exact ⟨hact.trans ((coreSwap_keeps m i _).2.trans (congrArg (fun d => (s.core d).actBank) hc.symm)), fun _ => hvalid (.inr (coreSwap_keeps m i _).1)⟩
    · rw [if_neg hc] at hact hvalid
      exact ⟨hact, fun h => hvalid (h.imp_left fun h => (List.mem_cons.1 h).resolve_left hc)⟩

theorem eachEmpty_core (l : List Nat) (c : Nat) (h : c ∈ l ∨ (s.core c).inact = .empty) :
    ((s.each l fun s c => s.mapCore c fun k => { k with inact := .empty }).core c).inact = .empty := by
  induction l generalizing s with
  | nil => exact h.resolve_left List.not_mem_nil
  | cons d l ih =>
    refine ih ?_
    rw [State.mapCore_core]
    by_cases hc : c = d
    · rw [if_pos hc]
      exact .inr rfl
    · rw [if_neg hc]
      exact h.imp_left fun h => (List.mem_cons.1 h).resolve_left hc

/-- What staging a swap leaves (R369, R370). -/
theorem swapStage_keeps_image (m : Mem) (r : Nat) (hm : imgView s.wts.swImg = m) (hr : acceptCheck s m s.wts.swLen true = r) : let t := swapStage s
    t.wts.swRes = r ∧
    (r = 0 → t.wts.swState = .staged ∧ t.wts.swMan = some (imgKeep s m) ∧ t.wts.swNotes = 0 ∧
      ∀ c, c ∈ imgCores m → (t.core c).inact = .valid ∧ (t.core c).actBank = (s.core c).actBank) ∧
    (r ≠ 0 → t.wts.swState = s.wts.swState ∧ t.cores = s.cores ∧ t.evr = (raise s 0x0203 0x10 [r, s.sch.stepNo]).evr) := by
  dsimp only
  unfold swapStage
  extract_lets m' r' s1 im s2 s3
  have hm' : m = m' := hm.symm
  have hr' : r = r' := ((congrArg (acceptCheck s · s.wts.swLen true) hm).trans hr).symm
  clear_value m' r'
  subst hm' hr'
  have h1 : s1.wts = { s.wts with swRes := r } ∧ s1.cores = s.cores ∧ s1.evr = s.evr ∧ s1.sch = s.sch ∧ s1.fab = s.fab := ⟨rfl, rfl, rfl, rfl, rfl⟩
  have him : im = imgKeep s m := rfl
  clear_value im s1
  obtain ⟨hwts, hcores, hevr, hsch, hfab⟩ := h1
  have hcs : im.cores = imgCores m := (congrArg Image.cores him).trans (imgKeep_cores m)
  by_cases h0 : r = 0
  · rw [if_neg (not_not_intro h0)]
    have hw : s2.wts = s1.wts := State.each_keeps s1 (fun t => t.wts = s1.wts) _ _ (fun t i h => h) rfl
    have hcore (c : Nat) (hc : c ∈ imgCores m) : (s2.core c).inact = .valid ∧ (s2.core c).actBank = (s.core c).actBank := by
      obtain ⟨hact, hvalid⟩ := eachSwap_core (s := s1) m im.cores (List.range im.cores.length) c
      refine ⟨hvalid (.inl ((mem_map_getD im.cores c).2 (by rw [hcs]; exact hc))), hact.trans ?_⟩
      rw [core_of_cores hcores]
    clear_value s2
    refine ⟨?_, fun _ => ⟨rfl, congrArg some him, rfl, hcore⟩, fun h => absurd h0 h⟩
    exact (congrArg Weights.swRes (hw.trans hwts) : s2.wts.swRes = r)
  · rw [if_pos h0]
    refine ⟨?_, fun h => absurd h h0, fun _ => ⟨?_, ?_, ?_⟩⟩
    · rw [raise_wts, hwts]
    · rw [raise_wts, hwts]
    · rw [raise_cores, hcores]
    · rw [hsch]
      exact raise_evr_congr hevr hsch hfab ..

theorem swapNotice_keeps (he : entryRole s = true) : let t := swapNotice s
    t.wts.swNotes = s.wts.swNotes + 1 ∧ t.wts.swOpen = (s.wts.swOpen || s.wts.swNotes + 1 == s.wts.swExp) ∧ t = { s with wts := t.wts, evr := t.evr } := by
  dsimp only
  unfold swapNotice
  rw [if_neg (by rw [he]; exact Bool.false_ne_true)]
  extract_lets s1
  by_cases hn : s1.wts.swNotes = s1.wts.swExp
  · rw [if_pos hn, raise_frame]
    refine ⟨rfl, ?_, rfl⟩
    have hn : s.wts.swNotes + 1 = s.wts.swExp := hn
    rw [hn, beq_self_eq_true, Bool.or_true]
    rfl
  · rw [if_neg hn]
    refine ⟨rfl, ?_, rfl⟩
    have hn : s.wts.swNotes + 1 ≠ s.wts.swExp := hn
    rw [beq_eq_false_iff_ne.2 hn, Bool.or_false]
    rfl

end

/-- Settles O46. -/
theorem swapsProceed : Obligations.SwapsProceed := by
  intro p s
  refine ⟨fun off bs h hst => ?_, fun h hst hidle => ?_, fun h hst => ?_, fun h hst => ?_, fun v h => ⟨fun hv => ?_, fun hv => ?_⟩, fun h => ?_, fun hst hl h => ?_,
    fun he => ?_, fun he => ?_⟩
  · exact ⟨_, congrArg Host.Outcome.next (odReq_done h (by rw [hst]; rfl) rfl), okResp_granted .., fun a => mget_mwrite .., rfl⟩
  · intro m r
    obtain ⟨hres, hok, hno⟩ := swapStage_keeps_image (s := s) m r rfl rfl
    have hgate : (s.dev.state == .running && (s.wts.swState == .idle || s.wts.swState == .done)) = true := by
      rw [hst]
      obtain h | h := hidle <;> rw [h] <;> rfl
    have hex : exec (.swapStage p) s = .next (okResp (swapStage s) p 0x307100) := congrArg Host.Outcome.next (odReq_done h hgate rfl)
    clear_value r m
    generalize swapStage s = t at *
    exact ⟨_, hex, okResp_granted .., hres, hok, hno⟩
  · have hgate : (s.wts.swState == .staged || s.wts.swState == .armed) = true := by
      obtain h | h := hst <;> rw [h] <;> rfl
    refine ⟨_, congrArg Host.Outcome.next (odReq_done h hgate rfl), okResp_granted .., rfl, rfl, fun im him c hc => ?_⟩
    rw [him]
    exact eachEmpty_core _ c (.inl hc)
  · have hgate : (s.wts.swState == .staged || s.wts.swState == .armed) = false := by
      cases hs : s.wts.swState <;> simp [hs] at hst ⊢
    exact ⟨_, congrArg Host.Outcome.next (odReq_wrongState h hgate), refuse_denied .., refuse_wts ..⟩
  · exact ⟨_, congrArg Host.Outcome.next (odReq_done h rfl (firstAbort_one_pos hv)), okResp_granted .., rfl⟩
  · have hv' := firstAbort_one_neg (n := abTOOLATE) (Nat.not_lt.2 hv)
    have hex : exec (.releaseStepWrite p v) s = .next (refuse s p 0x307003 abTOOLATE) :=
      congrArg Host.Outcome.next ((odReq_refused h rfl (by rw [hv']; decide)).trans (congrArg (refuse s p 0x307003) hv'))
    exact ⟨_, hex, refuse_denied .., refuse_wts ..⟩
  · exact congrArg Host.Outcome.next (if_neg fun hc => absurd hc.2.2 (Nat.not_le.2 h))
  · refine congrArg Host.Outcome.next ((if_pos ⟨hst, by rw [hl]; rfl, h⟩).trans ?_)
    exact raise_eq (s := s) (t := s.mapWts fun w => { w with swLate := true }) rfl rfl rfl ..
  · refine ⟨_, rfl, swapNotice_keeps he⟩
  · exact congrArg Host.Outcome.next (if_pos (by rw [he]; rfl))

end Sys2Proof.Machine
end

section
/-! PROOFS. Interrupt sources that pend, and serving requests (O47). -/
namespace Sys2Proof.Machine

section
variable {s t : State} {p : Path}

/-! ### Pending sources (R445) -/

theorem wfiWakes_isrc (j : Nat) : (wfiWakes s).isrc j = s.isrc j :=
  List.foldlRecOn (motive := fun v : State => v.isrc j = s.isrc j) _ _ rfl fun v h n _ => by
    unfold wfiWake
    split <;> exact h

/-- A source that pends is pending; no other changes (R445). -/
theorem pend_isrc {n : Nat} (hn : n < 240) : ((pend s n).isrc n).pending = true ∧ ∀ j, j ≠ n → (pend s n).isrc j = s.isrc j := by
  unfold pend
  extract_lets x held
  rw [if_pos hn]
  refine ⟨?_, fun j hj => ?_⟩
  · rw [wfiWakes_isrc, State.mapSrc_isrc_same]
    split
    · assumption
    · split <;> rfl
  · rw [wfiWakes_isrc, State.mapSrc_isrc_ne _ _ _ _ hj]

theorem pendLine_isrc {g n : Nat} (hn : 16 * g + n < 240) : ((pendLine s g n).isrc (16 * g + n)).pending = true ∧
    ∀ j, j ≠ 16 * g + n → (pendLine s g n).isrc j = s.isrc j := pend_isrc hn

/-! ### Requests -/

theorem raiseV_evr_congr (hevr : t.evr = s.evr) (hsch : t.sch = s.sch) (hfab : t.fab = s.fab) (id : Nat) (l : List Nat) :
    (raiseV t id l).evr = (raise s id 0x11 (l ++ [s.sch.stepNo])).evr := by
  rw [raiseV, hsch]
  exact raise_evr_congr hevr hsch hfab ..

theorem raiseV_eq (hevr : t.evr = s.evr) (hsch : t.sch = s.sch) (hfab : t.fab = s.fab) (id : Nat) (l : List Nat) :
    raiseV t id l = { t with evr := (raise s id 0x11 (l ++ [s.sch.stepNo])).evr } := by
  have h : raiseV t id l = raise t id 0x11 (l ++ [s.sch.stepNo]) := by rw [raiseV, hsch]
  rw [h]
  exact raise_eq hevr hsch hfab ..

/-- What the refusal of a request leaves (R393). -/
theorem respRefused_keeps (r st : Nat) : (respRefused s r st).srv = { s.srv with
      out := s.srv.out ++ [padTo 64 (leBytes 2 0x202 ++ leBytes 2 0 ++ leBytes 4 r ++ leBytes 1 st)], refN := min (s.srv.refN + 1) 0xFFFFFFFF } ∧
    (respRefused s r st).evr = (raise s 0x0C01 0x11 [r, st, s.sch.stepNo]).evr := by
  unfold respRefused
  dsimp only
  constructor
  · rw [raiseV, raise_srv]
    rfl
  · rw [raiseV_evr_congr (s := s)] <;> rfl

/-- Whether a request is refused does not depend on the interrupt sources, the harts and the count of requests. -/
theorem reqRefusal_lineView (f : Serving → Serving) (hf : ∀ v, f v = { v with reqN := (f v).reqN }) (h : lineView t = lineView (s.mapSrv f)) (m : List Byte) :
    reqOf t m = reqOf s m ∧ ∀ r, reqRefusal t m r = reqRefusal s m r := by
  rw [lineView_frame h, State.mapSrv, hf]
  exact ⟨rfl, fun _ => rfl⟩

/-- A request as it is found when it has come: its source pending and counted (R383). -/
def reqTaken (s : State) : State := pendLine (s.mapSrv fun v => { v with reqN := sat32 v.reqN }) 1 6

theorem reqTaken_keeps (m : List Byte) : ((reqTaken s).isrc 22).pending = true ∧ (∀ j, j ≠ 22 → (reqTaken s).isrc j = s.isrc j) ∧
    reqTaken s = { s with srv := { s.srv with reqN := min (s.srv.reqN + 1) 0xFFFFFFFF },
                          mgm := { s.mgm with src := (reqTaken s).mgm.src, harts := (reqTaken s).mgm.harts } } ∧
    reqOf (reqTaken s) m = reqOf s m ∧ ∀ r, reqRefusal (reqTaken s) m r = reqRefusal s m r := by
  obtain ⟨hp, ho⟩ := pendLine_isrc (s := s.mapSrv fun v => { v with reqN := sat32 v.reqN }) (g := 1) (n := 6) (by decide)
  obtain ⟨hreq, href⟩ := reqRefusal_lineView (s := s) (t := reqTaken s) (fun v => { v with reqN := sat32 v.reqN }) (fun _ => rfl) (pend_lineView _) m
  exact ⟨hp, ho, pendLine_eq (s := s.mapSrv fun v => { v with reqN := sat32 v.reqN }) 1 6, hreq, href⟩

theorem execServingRequest_eq {m : List Byte} (hs : msgServed s = true) (hm : fieldAt m 0 2 = 0x101) : exec (.servingRequest m) s =
    .next (match reqRefusal s m (reqOf s m) with
      | some st => respRefused (reqTaken s) (reqOf s m).reqid st
      | none => (reqTaken s).mapSrv fun v => { v with store := v.store ++ [reqOf s m] }) := by
  obtain ⟨-, -, -, hreq, href⟩ := reqTaken_keeps (s := s) m
  have hex : exec (.servingRequest m) s = .next (match reqRefusal (reqTaken s) m (reqOf (reqTaken s) m) with
      | some st => respRefused (reqTaken s) (reqOf (reqTaken s) m).reqid st
      | none => (reqTaken s).mapSrv fun v => { v with store := v.store ++ [reqOf (reqTaken s) m] }) :=
    congrArg Host.Outcome.next ((if_neg (by rw [hs]; exact Bool.false_ne_true)).trans (if_pos hm))
  rw [hex, hreq, href]

end

/-- Settles O47. -/
theorem requestsServed : Obligations.RequestsServed := by
  intro s hs
  refine ⟨fun m hm => ⟨fun hr => ?_, fun st hr => ?_⟩, fun m he hm => ?_, fun m he hm => ⟨fun r q hst hid => ?_, fun hst hi hlive hstart hahead hstat => ?_⟩,
    fun i he hp hlim hahead => ?_, fun i hp => ?_⟩
  · have hex : exec (.servingRequest m) s = .next ((reqTaken s).mapSrv fun v => { v with store := v.store ++ [reqOf s m] }) := by
      rw [execServingRequest_eq hs hm, hr]
    obtain ⟨hpend, hother, hframe, -, -⟩ := reqTaken_keeps (s := s) m
    generalize reqTaken s = u at *
    refine ⟨_, hex, hpend, hother, ?_⟩
    rw [hframe]
    rfl
  · have hex : exec (.servingRequest m) s = .next (respRefused (reqTaken s) (reqOf s m).reqid st) := by
      rw [execServingRequest_eq hs hm, hr]
    obtain ⟨-, -, hframe, -, -⟩ := reqTaken_keeps (s := s) m
    generalize reqTaken s = u at *
    refine ⟨_, hex, ?_⟩
    rw [hframe]
    obtain ⟨hsrv, hevr⟩ := respRefused_keeps (s := { s with
      srv := { s.srv with reqN := min (s.srv.reqN + 1) 0xFFFFFFFF }, mgm := { s.mgm with src := u.mgm.src, harts := u.mgm.harts } }) (reqOf s m).reqid st
    rw [hsrv]
    refine ⟨rfl, rfl, rfl, rfl, hevr.trans ?_⟩
    rw [raise_evr_congr (s := s)] <;> rfl
  · exact if_pos (by rw [he]; rfl)
  · have hgate : ¬ ((!msgServed s) = true ∨ (!entryRole s) = true) := by
      rw [hs, he]
      simp
    refine congrArg Host.Outcome.next ((if_neg hgate).trans ((if_neg (not_not_intro hm)).trans ((if_pos ?_).trans ?_)))
    · rw [hst]
      simp [hid]
    · have hdrop : dropFirst (fun r => r.reqid == fieldAt m 4 4) s.srv.store = q := by
        rw [hst]
        simp [dropFirst, hid]
      exact congrArg (fun l => { s with srv := { s.srv with store := l } }) hdrop
  · have hgate : ¬ ((!msgServed s) = true ∨ (!entryRole s) = true) := by
      rw [hs, he]
      simp
    refine congrArg Host.Outcome.next ((if_neg hgate).trans ((if_neg (not_not_intro hm)).trans ((if_neg ?_).trans ((if_neg ?_).trans ((if_neg ?_).trans ?_)))))
    · rw [hst]
      simp
    · simp [hi, hlive, hstart]
    · simp [hahead]
    · have hcode : (if [2, 4, 5, 6, 7].contains (byteAt m 16).toNat then (byteAt m 16).toNat else 2) = (byteAt m 16).toNat :=
        if_pos (List.contains_iff_mem.2 hstat)
      rw [hcode]
      rfl
  · refine congrArg Host.Outcome.next ((if_pos ⟨he, hp, hlim, by rw [hahead]; rfl⟩).trans ?_)
    rw [raiseV_eq (s := s)] <;> rfl
  · exact congrArg Host.Outcome.next (if_neg fun h => hp h.2.1)

end Sys2Proof.Machine
end

section
/-! PROOFS. Budgets, the cut step and adapters (O48). -/
namespace Sys2Proof.Machine

section
variable {s t : State} {p : Path} {o : Nat}

/-- The state without the queue of changes of the slot table. -/
def changesView (s : State) : State := { s with srv := { s.srv with changes := [] } }

theorem changesView_frame (h : changesView t = changesView s) : t = { s with srv := { s.srv with changes := t.srv.changes } } := by
  have e := congrArg (fun u : State => { u with srv := { u.srv with changes := t.srv.changes } }) h
  exact e

theorem parkOne_changesView (i : Nat) : changesView (parkOne s i) = changesView s := by
  unfold parkOne
  dsimp only
  split
  · rfl
  · split
    · rfl
    · split <;> rfl

theorem parkScan_changesView : changesView (parkScan s) = changesView s := by
  unfold parkScan
  split
  · exact State.each_keeps s (fun t => changesView t = changesView s) _ _ (fun _ _ h => (parkOne_changesView _).trans h) rfl
  · rfl

/-- A refusal for the first condition that fails (R430). -/
theorem odReq_fails {l : List (Bool × Nat)} {n : Nat} {act : State → State} {i : Instr} (h : Takes s p o) (hl : firstAbort l = n) (hn : n ≠ 0) :
    odReq s p o i (odCmd s p o true (firstAbort l) act) = refuse s p o n := by
  subst hl
  exact odReq_refused h rfl hn

/-- A request for a number that the slots of adapters have room for (R408). -/
theorem adapterAlloc_found {id : BitVec 32} {a : Nat} (h : Takes s p 0x532001) (he : entryRole s = true) (hw : s.srv.adWait = []) (ha : adFree s = some a) :
    exec (.adapterAlloc p id) s = .next (okResp (queueChange (s.mapSrv fun v =>
      { v with adGen := fset v.adGen 0 id.toNat ((fget v.adGen 0 id.toNat + 1) % 256) }) (leBytes 1 4 ++
        leBytes 1 ((fget s.srv.adGen 0 id.toNat + 1) % 256) ++ leBytes 2 a ++ leBytes 4 id.toNat)) p 0x532001) := by
  refine congrArg Host.Outcome.next ((odReq_done h rfl (by rw [he]; rfl)).trans (congrArg (okResp · p 0x532001) ?_))
  have halloc : (if s.srv.adWait.isEmpty then adAlloc s id.toNat else none) = adAlloc s id.toNat := if_pos (by rw [hw]; rfl)
  rw [halloc, adAlloc, ha]
  rfl

/-- A request for a number that finds no room waits (R408). -/
theorem adapterAlloc_waits {id : BitVec 32} (h : Takes s p 0x532001) (he : entryRole s = true) (ha : adFree s = none) :
    exec (.adapterAlloc p id) s = .next (okResp (raiseV (s.mapSrv fun v => { v with adWait := v.adWait ++ [id.toNat] }) 0x0C04 [id.toNat]) p 0x532001) := by
  refine congrArg Host.Outcome.next ((odReq_done h rfl (by rw [he]; rfl)).trans (congrArg (okResp · p 0x532001) ?_))
  have halloc : (if s.srv.adWait.isEmpty then adAlloc s id.toNat else none) = none := by
    rw [adAlloc, ha]
    split <;> rfl
  rw [halloc]

end

/-- Settles O48. -/
theorem budgetsCutsAndAdapters : Obligations.BudgetsCutsAndAdapters := by
  intro p s
  refine ⟨fun v h => ?_, fun v h he => ⟨fun hv => ?_, fun h0 hv => ?_⟩, fun i hi h he => ?_, fun id h he => ⟨fun a hw ha => ?_, fun ha => ?_⟩,
    fun off bs b h hst hb hlen => ?_, fun dg h hlen hst => ?_, fun a dg hd hst hb => ?_, fun v he hv => ⟨fun h hst => ?_, fun h hst => ?_, fun h hst => ?_⟩⟩
  · have hex : exec (.budgetAdd p v) s = .next (okResp (parkScan (s.mapSrv fun x =>
        { x with budgets := fset x.budgets 0 x.tenSel (fget x.budgets 0 x.tenSel + v.toInt) })) p 0x521003) := congrArg Host.Outcome.next (odReq_done h rfl rfl)
    have hframe := changesView_frame (parkScan_changesView (s := s.mapSrv fun x =>
      { x with budgets := fset x.budgets 0 x.tenSel (fget x.budgets 0 x.tenSel + v.toInt) }))
    refine ⟨_, hex, okResp_granted .., fun k => ?_, ?_, ?_⟩
    · rw [hframe]
      refine (fget_fset ..).trans ?_
      unfold budget
      split
      · next hk => rw [hk]
      · exact (Int.add_zero _).symm
    · rw [hframe]
      rfl
    · rw [hframe]
      rfl
  · exact ⟨_, congrArg Host.Outcome.next (odReq_done h rfl (by rw [he, firstAbort_pass]; exact firstAbort_one_pos hv)), okResp_granted .., rfl⟩
  · have hno : ¬ (v.toNat = 0 ∨ s.sch.stepNo + 3 ≤ v.toNat) := by omega
    exact ⟨_, congrArg Host.Outcome.next (odReq_fails h (n := abTOOLATE) (by rw [he, firstAbort_pass]; exact firstAbort_one_neg hno) (by decide)),
      refuse_denied .., refuse_srv ..⟩
  · have hno : ∃ act chk, exec i.1 s = .next (odReq s p i.2 i.1 (odCmd s p i.2 true (firstAbort ((entryRole s, abNOTAVAIL) :: chk)) act)) := by
      simp only [List.mem_cons, List.not_mem_nil, or_false] at hi
      obtain rfl | rfl | rfl | rfl := hi <;> exact ⟨_, _, rfl⟩
    obtain ⟨act, chk, hex⟩ := hno
    rw [odReq_fails h (n := abNOTAVAIL) (by rw [he]; rfl) (by decide)] at hex
    exact ⟨_, hex, refuse_denied .., refuse_srv ..⟩
  · exact ⟨_, adapterAlloc_found h he hw ha, okResp_granted .., (fget_fset ..).trans (if_pos rfl), rfl, rfl⟩
  · refine ⟨_, adapterAlloc_waits h he ha, okResp_granted .., ?_, ?_⟩
    · rw [okResp_srv, raiseV, raise_srv]
      rfl
    · rw [okResp_evr, raiseV_evr_congr (s := s)] <;> rfl
  · have hex : exec (.adapterDataWrite p off bs) s = .next (okResp (bedWrite s (b + off.toNat) bs) p 0x531006) := by
      refine congrArg Host.Outcome.next ((odReq_done h rfl ?_).trans (congrArg (okResp · p 0x531006) ?_))
      · rw [hb, decide_eq_true hst]
        exact firstAbort_one_pos hlen
      · rw [hb]
    exact ⟨_, hex, okResp_granted .., fun a => bedWrite_mget .., rfl⟩
  · refine ⟨_, congrArg Host.Outcome.next (odReq_done h rfl ?_), okResp_granted .., ?_, rfl⟩
    · rw [decide_eq_true hlen]
      exact firstAbort_one_pos hst
    · exact State.mapAdap_adap_same s s.srv.adSel fun x => { x with dig := some dg }
  · have hex : exec (.adapterVerified a) s = .next (s.mapAdap a.val fun y => { y with
        dig := none, state := if sha3 (adData s a.val) = dg then .verified else .filling }) := by
      refine congrArg Host.Outcome.next ?_
      rw [hd]
      exact if_pos ⟨hst, by rw [hb]; rfl⟩
    refine ⟨_, hex, ?_, ?_, fun k hk => State.mapAdap_adap_ne _ _ _ _ hk, rfl⟩
    · rw [State.mapAdap_adap_same]
    · rw [State.mapAdap_adap_same]
  · exact ⟨_, congrArg Host.Outcome.next (odReq_done h rfl (by rw [he, decide_eq_true hv]; exact firstAbort_one_pos hst)), okResp_granted .., rfl⟩
  · exact ⟨_, congrArg Host.Outcome.next (odReq_fails h (n := abCHECK) (by rw [he, decide_eq_true hv]; exact firstAbort_one_neg hst) (by decide)),
      refuse_denied .., refuse_srv ..⟩
  · exact ⟨_, congrArg Host.Outcome.next (odReq_done h rfl (by rw [he, decide_eq_true hv]; exact firstAbort_one_pos hst)), okResp_granted .., rfl⟩

end Sys2Proof.Machine
end

section
/-! PROOFS. The order in which a write is refused (O52). -/
namespace Sys2Proof.Machine

section
variable {s t : State} {p : Path} {o : Nat}

theorem firstAbort_one (b : Prop) [Decidable b] (n : Nat) : firstAbort [(decide b, n)] = if b then 0 else n := by
  split
  · next h => exact firstAbort_one_pos h
  · next h => exact firstAbort_one_neg h

/-- The code a write is refused with, 0 where it is granted: the owner, the device state, then its own condition (R430). -/
def writeAbort (s : State) (p : Path) (o : Nat) (st : Bool) (chk : Nat) : Nat :=
  if ownerOk s p = false then abNOTOWNER else if (stateServes s o && st) = false then abSTATE else chk

theorem odReq_writeAbort {st : Bool} {chk : Nat} {act : State → State} {i : Instr} (hs : served s p = true) :
    (writeAbort s p o st chk = 0 → odReq s p o i (odCmd s p o st chk act) = okResp (act s) p o) ∧
      (writeAbort s p o st chk ≠ 0 → odReq s p o i (odCmd s p o st chk act) = refuse s p o (writeAbort s p o st chk)) := by
  unfold writeAbort
  rw [odReq, odTake_served _ _ _ _ _ hs]
  by_cases ho : ownerOk s p = true
  · rw [if_neg (by simp [ho])]
    by_cases hst : (stateServes s o && st) = true
    · rw [if_neg (by simp [hst])]
      obtain ⟨hv, hst⟩ := Bool.and_eq_true_iff.1 hst
      exact ⟨fun h => odCmd_done _ _ _ _ _ _ ⟨hs, ho, hv⟩ hst h, fun h => odCmd_refused _ _ _ _ _ _ ⟨hs, ho, hv⟩ hst h⟩
    · have hst : (stateServes s o && st) = false := Bool.eq_false_iff.2 hst
      rw [if_pos hst]
      exact ⟨fun h => absurd h (by decide), fun _ => odCmd_wrongState _ _ _ _ _ _ hs ho hst⟩
  · have ho : ownerOk s p = false := Bool.eq_false_iff.2 ho
    rw [if_pos ho]
    exact ⟨fun h => absurd h (by decide), fun _ => odCmd_notOwner _ _ _ _ _ _ hs ho⟩

end

/-- Settles O52. -/
theorem refusalsInOrder : Obligations.RefusalsInOrder := by
  intro p s off bs i obj ok ab hs hmem
  have hcmd : ∃ st chk act, exec i s = .next (odReq s p obj i (odCmd s p obj st chk act)) ∧ st = ok ∧ chk = ab := by
    simp only [List.mem_cons, Prod.mk.injEq, List.not_mem_nil, or_false] at hmem
    obtain ⟨rfl, rfl, rfl, rfl⟩ | ⟨rfl, rfl, rfl, rfl⟩ | ⟨rfl, rfl, rfl, rfl⟩ | ⟨rfl, rfl, rfl, rfl⟩ := hmem
    · exact ⟨_, _, _, rfl, rfl, firstAbort_one _ _⟩
    · exact ⟨_, _, _, rfl, rfl, firstAbort_one _ _⟩
    · refine ⟨_, _, _, rfl, ?_, ?_⟩
      · cases s.dev.state <;> rfl
      · refine if_congr Iff.rfl ?_ rfl
        rw [firstAbort, firstAbort, firstAbort]
        simp [abNOTREADY, abINCONS]
    · refine ⟨_, _, _, rfl, rfl, ?_⟩
      rw [firstAbort, firstAbort_one]
      simp [abNOTAVAIL, abTOOLATE]
  obtain ⟨st, chk, act, hex, rfl, rfl⟩ := hcmd
  obtain ⟨hdone, hrefused⟩ := odReq_writeAbort (o := obj) (st := st) (chk := chk) (act := act) (i := i) hs
  by_cases h : writeAbort s p obj st chk = 0
  · rw [hdone h] at hex
    exact ⟨_, hex, fun _ => okResp_granted .., fun hn => absurd h hn⟩
  · rw [hrefused h] at hex
    refine ⟨_, hex, fun hz => absurd hz h, fun _ => ⟨refuse_denied .., ?_⟩⟩
    rw [refuse_eq]
    rfl

end Sys2Proof.Machine
end

section
/-! PROOFS. Reset and boot (O50). -/
namespace Sys2Proof.Machine

section
variable {s t : State} {p : Path} {o : Nat}

/-! ### The measurement log -/

theorem tru_of_acct (h : t.acct = s.acct) : t.tru.mr = s.tru.mr ∧ t.tru.log = s.tru.log ∧ t.tru.logSeq = s.tru.logSeq := by
  have h' : (⟨t.pending, t.tru.mr, t.tru.log, t.tru.logSeq⟩ : Account) = ⟨s.pending, s.tru.mr, s.tru.log, s.tru.logSeq⟩ := h
  obtain ⟨-, hmr, hlog, hseq⟩ := Account.mk.inj h'
  exact ⟨hmr, hlog, hseq⟩

/-- An extension adds one entry, the last of the log (R508, R510). -/
theorem extendMR_log (typ m v : Nat) (sg dg : List Byte) : (extendMR s typ m v sg dg).tru.logSeq = s.tru.logSeq + 1 ∧
    (extendMR s typ m v sg dg).tru.log.getLast? = some { typ := typ, mr := m, verdict := v, seq := s.tru.logSeq, time := s.now, signer := padTo 32 sg, digest := padTo 64 dg } := by
  refine ⟨rfl, ?_⟩
  unfold extendMR
  dsimp only
  rw [List.getLast?_drop, if_neg (by rw [List.length_append, List.length_singleton]; omega)]
  exact List.getLast?_concat

theorem extendMR_log_short (typ m v : Nat) (sg dg : List Byte) (h : s.tru.log.length < 16384) : (extendMR s typ m v sg dg).tru.log = s.tru.log ++
    [{ typ := typ, mr := m, verdict := v, seq := s.tru.logSeq, time := s.now, signer := padTo 32 sg, digest := padTo 64 dg }] := by
  unfold extendMR
  dsimp only
  rw [Nat.sub_eq_zero_of_le h, List.drop_zero]

theorem measureSigned_log (typ m : Nat) (ks : List (List Byte)) (b sg : List Byte) : (measureSigned s typ m ks b sg).tru.logSeq = s.tru.logSeq + 1 ∧
    ((measureSigned s typ m ks b sg).tru.log.getLast?.map fun e => (e.typ, e.mr)) = some (typ, m) := by
  have h (u : State) (hu : u.tru = (extendMR s typ m (verdictOf ks b sg).1 (verdictOf ks b sg).2 (shake64 b)).tru) :
      u.tru.logSeq = s.tru.logSeq + 1 ∧ (u.tru.log.getLast?.map fun e => (e.typ, e.mr)) = some (typ, m) := by
    rw [hu, (extendMR_log ..).2]
    exact ⟨(extendMR_log ..).1, rfl⟩
  unfold measureSigned
  dsimp only
  split
  · exact h _ (raise_tru ..)
  · exact h _ rfl

/-! ### The thermal input -/

/-- The state without the frequency, the power record and event records. -/
def tripView (s : State) : State := { s with pwr := {}, fab := { s.fab with frac := 0 }, evr := {} }

theorem tripView_frame (h : tripView t = tripView s) : t = { s with pwr := t.pwr, fab := { s.fab with frac := t.fab.frac }, evr := t.evr } := by
  have e := congrArg (fun u : State => { u with pwr := t.pwr, fab := { u.fab with frac := t.fab.frac }, evr := t.evr }) h
  exact e

/-- With no job running, a thermal trip changes the frequency and notes itself (R464). -/
theorem thermalTrip_tripView (l : List Nat) (h : ¬ (s.dev.state = .running ∨ s.dev.state = .draining)) : tripView (thermalTrip s l) = tripView s := by
  have hfatal : fatal s 0x0E07 0x12 l = raise s 0x0E07 0x12 l := freeze_idle _ _ (by rw [raise_dev]; exact h)
  unfold thermalTrip freqDrop freqSet
  rw [hfatal, raise_frame]
  dsimp only
  split
  · rfl
  · rw [raise_frame]
    rfl

/-! ### Release of reset -/

theorem feedPut_seed (b : FeedBody) : (feedPut s b).tru.seed = s.tru.seed := by
  unfold feedPut
  dsimp only
  split <;> rfl

/-- The die as a release of reset finds it, its identity read and the ROM measured (R417, R508). -/
def bootMeasured (s : State) (seg : Nat) : State :=
  let a := { resetDie s seg with tru := { (resetDie s seg).tru with seed := pufSeed 0 } }
  let b := a.mapMgm fun m => { m with mac := macOf (idDigest a) }
  let c := measure b 0x01 0 romDigestBytes
  measure c 0x02 0 (idKeyBytes c)

theorem bootStart_eq (seg : Nat) : bootStart s seg =
    (setState (feedPut (bootMeasured s seg) (.ident (idDigest (bootMeasured s seg)) (steppingByte (bootMeasured s seg)))) .boot).cond
      (setState (feedPut (bootMeasured s seg) (.ident (idDigest (bootMeasured s seg)) (steppingByte (bootMeasured s seg)))) .boot).pins.thermIn
      fun s => thermalTrip s [64] := rfl

/-- The die as a release of reset finds it, its identity read (R417). -/
def bootSeeded (s : State) (seg : Nat) : State :=
  let a := { resetDie s seg with tru := { (resetDie s seg).tru with seed := pufSeed 0 } }
  a.mapMgm fun m => { m with mac := macOf (idDigest a) }

theorem bootSeeded_keeps (seg : Nat) : let t := bootSeeded s seg
    t.dev = { State.reset.dev with b0 := s.dev.b0, phase := 2 } ∧ t.pins = { s.pins with resetN := true, pwrgood := true, segaddr := seg, tempCrit := false } ∧
    t.mgm = { State.reset.mgm with node := 2 * seg + 1, gaugeNode := 2 * seg + 2, mac := macOf (idDigest t) } ∧ t.tru.logSeq = 0 ∧ t.tru.log = [] ∧
    t.gau = { s.gau with mirror := [], mirrorAt := 0, mirrorLate := false } ∧ t.cores = [] ∧ t.sch = State.reset.sch := by
  unfold bootSeeded
  generalize pufSeed 0 = seed
  exact ⟨rfl, rfl, rfl, rfl, rfl, rfl, rfl, rfl⟩

theorem bootMeasured_eq (seg : Nat) : bootMeasured s seg =
    measure (measure (bootSeeded s seg) 0x01 0 romDigestBytes) 0x02 0 (idKeyBytes (bootSeeded s seg)) := rfl

/-- Two measurements after another, and what they leave alone. -/
theorem measureTwice_keeps (x y : List Byte) (h : s.tru.log = []) (hs : s.tru.logSeq = 0) : let t := measure (measure s 0x01 0 x) 0x02 0 y
    t.dev = s.dev ∧ t.pins = s.pins ∧ t.mgm = s.mgm ∧ t.gau = s.gau ∧ t.cores = s.cores ∧ t.sch = s.sch ∧ t.tru.seed = s.tru.seed ∧ t.tru.logSeq = 2 ∧
    (t.tru.log.map fun e => (e.typ, e.mr, e.seq)) = [(0x01, 0, 0), (0x02, 0, 1)] := by
  have h1 := extendMR_log_short (s := s) 0x01 0 0 [] x (by rw [h]; decide)
  have h2 := extendMR_log_short (s := measure s 0x01 0 x) 0x02 0 0 [] y (by rw [measure, h1, h, List.nil_append, List.length_singleton]; decide)
  refine ⟨rfl, rfl, rfl, rfl, rfl, rfl, rfl, ?_, ?_⟩
  · exact congrArg (· + 1 + 1) hs
  · rw [measure, h2, measure, h1, h]
    simp [extendMR, hs]

theorem bootMeasured_keeps (seg : Nat) : let t := bootMeasured s seg
    t.dev = { State.reset.dev with b0 := s.dev.b0, phase := 2 } ∧ t.pins = { s.pins with resetN := true, pwrgood := true, segaddr := seg, tempCrit := false } ∧
    t.mgm = { State.reset.mgm with node := 2 * seg + 1, gaugeNode := 2 * seg + 2, mac := macOf (idDigest t) } ∧ t.tru.logSeq = 2 ∧
    (t.tru.log.map fun e => (e.typ, e.mr, e.seq)) = [(0x01, 0, 0), (0x02, 0, 1)] ∧
    t.gau = { s.gau with mirror := [], mirrorAt := 0, mirrorLate := false } ∧ t.cores = [] ∧ t.sch = State.reset.sch := by
  dsimp only
  rw [bootMeasured_eq]
  obtain ⟨hdev, hpins, hmgm, hseq, hlog, hgau, hcores, hsch⟩ := bootSeeded_keeps (s := s) seg
  generalize bootSeeded s seg = u at *
  obtain ⟨hdev', hpins', hmgm', hgau', hcores', hsch', hseed, hseq', hlog'⟩ := measureTwice_keeps romDigestBytes (idKeyBytes u) hlog hseq
  have hid : idDigest (measure (measure u 0x01 0 romDigestBytes) 0x02 0 (idKeyBytes u)) = idDigest u :=
    congrArg (fun x => shake32 (idPub x)) hseed
  rw [hdev', hpins', hmgm', hgau', hcores', hsch', hid]
  exact ⟨hdev, hpins, hmgm, hseq', hlog', hgau, hcores, hsch⟩

theorem bootMeasured_mr (seg : Nat) : (bootMeasured s seg).tru.mr = logReplay (bootMeasured s seg).tru.log := by
  have h0 : MeasInv { resetDie s seg with tru := { (resetDie s seg).tru with seed := pufSeed 0 } } :=
    ⟨reset_measInv.count, reset_measInv.seqs, reset_measInv.replay⟩
  have h1 : MeasInv (bootMeasured s seg) := measure_measInv _ _ _ _ (measure_measInv _ _ _ _ ⟨h0.count, h0.seqs, h0.replay⟩)
  exact h1.replay (by rw [(bootMeasured_keeps seg).2.2.2.1]; decide)

/-- What a release of reset leaves (R417, R418, R508, R509, R560, R563). -/
theorem bootStart_leaves (seg : Nat) : let t := bootStart s seg
    t.dev.state = .boot ∧ t.dev.phase = 2 ∧ t.pins = { s.pins with resetN := true, pwrgood := true, segaddr := seg, tempCrit := false } ∧
    t.mgm.node = 2 * seg + 1 ∧ t.mgm.gaugeNode = 2 * seg + 2 ∧ t.mgm.mac = 2#8 :: (idDigest t).take 5 ∧ t.tru.logSeq = 2 ∧
    t.tru.mr = logReplay t.tru.log ∧ (t.tru.log.map fun e => (e.typ, e.mr, e.seq)) = [(0x01, 0, 0), (0x02, 0, 1)] ∧
    t.gau = { s.gau with mirror := [], mirrorAt := 0, mirrorLate := false } ∧ t.dev.b0 = s.dev.b0 ∧ t.cores = [] ∧ t.sch = State.reset.sch := by
  dsimp only
  rw [bootStart_eq]
  obtain ⟨hdev, hpins, hmgm, hseq, hlog, hgau, hcores, hsch⟩ := bootMeasured_keeps (s := s) seg
  have hmr := bootMeasured_mr (s := s) seg
  generalize bootMeasured s seg = u at *
  obtain ⟨v, hv⟩ : ∃ v, v = feedPut u (.ident (idDigest u) (steppingByte u)) := ⟨_, rfl⟩
  have hput : v = { u with tru := v.tru } := by
    rw [hv]
    exact feedPut_frame ..
  have hacct : v.acct = u.acct := by rw [hv, feedPut_acct]
  have hseed : v.tru.seed = u.tru.seed := by rw [hv, feedPut_seed]
  rw [← hv]
  clear hv
  have hdev' : v.dev = u.dev := by rw [hput]
  have hset : setState v .boot = { v with dev := { v.dev with state := .boot }, evr := (raise v 0x0D04 0x10 [stateCode v.dev.state, stateCode .boot]).evr } := by
    rw [setState_plain DevState.noConfusion DevState.noConfusion]
    exact setState0_of_ne (by rw [hdev', hdev]; exact DevState.noConfusion) (by decide) (by decide) (by decide)
  have hboot : (setState v .boot).dev.state = .boot := by rw [hset]
  have hend : tripView ((setState v .boot).cond (setState v .boot).pins.thermIn fun s => thermalTrip s [64]) = tripView (setState v .boot) :=
    State.cond_keeps _ (fun t => tripView t = tripView (setState v .boot)) _ _ (fun _ => thermalTrip_tripView _ (by rw [hboot]; decide)) rfl
  generalize (setState v .boot).cond (setState v .boot).pins.thermIn (fun s => thermalTrip s [64]) = w at *
  rw [hset] at hend
  have hw := tripView_frame hend
  have htru : w.tru = v.tru := by rw [hw]
  obtain ⟨hmr', hlog', hseq'⟩ := tru_of_acct hacct
  have hid : idDigest w = idDigest u := congrArg (fun x => shake32 (idPub x)) ((congrArg Trust.seed htru).trans hseed)
  refine ⟨?_, ?_, ?_, ?_, ?_, ?_, ?_, ?_, ?_, ?_, ?_, ?_, ?_⟩
  · rw [hw]
  · rw [hw, hput, hdev]
  · rw [hw, hput, hpins]
  · rw [hw, hput, hmgm]
  · rw [hw, hput, hmgm]
  · rw [hid, hw, hput, hmgm]
    rfl
  · rw [htru, hseq', hseq]
  · rw [htru, hmr', hlog', hmr]
  · rw [htru, hlog', hlog]
  · rw [hw, hput, hgau]
  · rw [hw, hput, hdev]
  · rw [hw, hput, hcores]
  · rw [hw, hput, hsch]

/-! ### Loss of reset, and the last phase of boot -/

theorem setState0_off : setState0 s .off = { s with dev := { s.dev with state := .off } } := by
  unfold setState0
  dsimp only
  split
  · next h => exact congrArg (fun x => { s with dev := { s.dev with state := x } }) h.symm
  · rw [if_pos rfl]
    rfl

/-- The power record without what a sleep notes. -/
def Power.awake (x : Power) : Power := { x with sleepE := 0, sleepAt := 0, sleepN := 0 }

theorem setState_awake (n : DevState) : (setState s n).pwr.awake = s.pwr.awake := by
  unfold setState
  dsimp only
  split
  · unfold enterSleep
    rw [raise_pwr]
    show (setState0 (setState0 s n) .slackwater).pwr.awake = _
    rw [setState0_pwr, setState0_pwr]
  · rw [setState0_pwr]

theorem toStandby_awake : (toStandby s).pwr.awake = s.pwr.awake := by
  unfold toStandby
  dsimp only
  split
  · exact (setState_awake _).trans rfl
  · exact setState_awake _

/-- What the end of boot leaves (R418, R472). -/
theorem bootDone_leaves (hst : s.dev.state = .boot) (hph : s.dev.phase = 4) (hb : s.dev.busy = false) : let t := bootDone s
    t.dev.state = entered s .standby ∧ t.dev.phase = 5 ∧ t.pwr.credit = s.pwr.cap ∧ t.pwr.crossBad = 0#4 ∧ t.pwr.calOk = true := by
  dsimp only
  unfold bootDone
  rw [if_pos ⟨hst, hph⟩]
  extract_lets s1 s2
  have h2 : s2.dev = { s.dev with phase := 5 } ∧ s2.pins = s.pins ∧ s2.pwr = { s.pwr with crossBad := 0#4, calOk := true, credit := s.pwr.cap } :=
    ⟨rfl, rfl, rfl⟩
  clear_value s2
  obtain ⟨hdev, hpins, hpwr⟩ := h2
  obtain ⟨-, hkept, hstate⟩ := toStandby_keeps (s := s2)
  have hpwr' := toStandby_awake (s := s2)
  rw [hdev] at hkept hstate
  rw [hpwr] at hpwr'
  refine ⟨(hstate hb).trans ?_, congrArg Dev.phase hkept, congrArg Power.credit hpwr', congrArg Power.crossBad hpwr', congrArg Power.calOk hpwr'⟩
  rw [entered, entered, hpins]

/-! ### The configuration -/

theorem cfgApply_leaves : let t := cfgApply s
    t.dev.phase = 4 ∧ t.beds.mem = [] ∧ (∀ c, (t.core c).spad = []) ∧ (∀ cl, (t.pool cl).mem = []) ∧ t.tru.logSeq = s.tru.logSeq + 1 ∧
    (t.tru.log.getLast?.map fun e => (e.typ, e.mr)) = some (0x20, 2) := by
  dsimp only
  unfold cfgApply
  extract_lets m so s1 rs s2 s3 s4 s5
  obtain ⟨hseq, hlog⟩ := measureSigned_log (s := s) 0x20 2 (signerKeys s) (mread m 0 so) (mread m so 29792)
  have h3 : s3.acct = s1.acct := by
    unfold s3 s2
    rw [ringDatelines_acct, each_acct _ _ _ fun _ _ => applyRecord_acct .., mapCores0_acct, applyRepairs_acct]
  obtain ⟨-, hlog3, hseq3⟩ := tru_of_acct h3
  replace hseq : s1.tru.logSeq = s.tru.logSeq + 1 := hseq
  replace hlog : (s1.tru.log.getLast?.map fun e => (e.typ, e.mr)) = some (0x20, 2) := hlog
  clear_value s3 s1
  refine ⟨rfl, rfl, fun c => ?_, fun cl => ?_, ?_, ?_⟩
  · exact fget_map_of (f := coreFlush) (P := fun k => k.spad = []) (e := {}) rfl (fun _ => rfl) s3.cores c
  · exact fget_map_of (f := fun k : Pool => { k with mem := [], bad := [], wrote := [] }) (P := fun k => k.mem = []) (e := {}) rfl (fun _ => rfl) s3.pools cl
  · exact hseq3.trans hseq
  · exact (congrArg (fun l : List LogEntry => l.getLast?.map fun e => (e.typ, e.mr)) hlog3).trans hlog

theorem fwMeasure_log (typ b : Nat) : (fwMeasure s typ b).tru.logSeq = s.tru.logSeq + 1 ∧
    ((fwMeasure s typ b).tru.log.getLast?.map fun e => (e.typ, e.mr, e.digest)) = some (typ, 1, padTo 64 (shake64 (fwBytes s b))) := by
  have h (u : State) (hu : u.tru = (extendMR s typ 1 (verdictOf romKeyList (fwBytes s b) []).1 (verdictOf romKeyList (fwBytes s b) []).2
      (shake64 (fwBytes s b))).tru) :
      u.tru.logSeq = s.tru.logSeq + 1 ∧ (u.tru.log.getLast?.map fun e => (e.typ, e.mr, e.digest)) = some (typ, 1, padTo 64 (shake64 (fwBytes s b))) := by
    rw [hu, (extendMR_log ..).2]
    exact ⟨(extendMR_log ..).1, rfl⟩
  unfold fwMeasure
  dsimp only
  split
  · exact h _ (raise_tru ..)
  · exact h _ rfl

theorem fwMeasure_frame (typ b : Nat) : fwMeasure s typ b = { s with tru := (fwMeasure s typ b).tru, evr := (fwMeasure s typ b).evr } := by
  unfold fwMeasure
  dsimp only
  split
  · rw [raise_frame]
    rfl
  · rfl

/-- What a write of firmware leaves of the banks (R419). -/
theorem fwWrite_leaves (b off : Nat) (bs : List Byte) : Wrote (fget s.dev.fw [] b) (fget (fwWrite s b off bs).dev.fw [] b) off bs ∧
    (∀ k, k ≠ b → fget (fwWrite s b off bs).dev.fw [] k = fget s.dev.fw [] k) ∧
    fwWrite s b off bs = { s with dev := { s.dev with fw := (fwWrite s b off bs).dev.fw, fwLen := (fwWrite s b off bs).dev.fwLen } } := by
  refine ⟨fun a => ?_, fun k hk => fget_fset_ne _ _ _ _ _ _ hk, rfl⟩
  have h : fget (fwWrite s b off bs).dev.fw [] b = mwrite (fget s.dev.fw [] b) off bs := fget_fset_same ..
  rw [h, mget_mwrite]

end

/-- Settles O50. -/
theorem resetAndBoot : Obligations.ResetAndBoot := by
  intro s
  refine ⟨fun seg hst => ?_, fun seg hst => ?_, fun a b hab => ?_, ?_, fun hst hph hb => ?_, fun hst hph hl h => ?_, fun p hst =>
    ⟨fun off bs h hlen => ?_, fun h hph => ⟨fun hok => ?_, fun hok => ?_⟩, fun off bs h => ?_, fun h hph => ⟨fun hok => ?_, fun hok => ?_⟩⟩⟩
  · have h := bootStart_leaves (s := s) seg.val
    have hex : exec (.releaseOfReset seg) s = .next (bootStart s seg.val) := congrArg Host.Outcome.next (if_pos hst)
    generalize bootStart s seg.val = t at *
    obtain ⟨h1, h2, h3, h4, h5, h6, h7, h8, h9, h10, h11, h12, h13⟩ := h
    exact ⟨t, hex, h1, h2, h3, h4, h5, h6, h7, h8, h9, h10, h11, h12, h13⟩
  · exact congrArg Host.Outcome.next (if_neg hst)
  · have hno : ¬ (a = true ∧ b = true) := fun h => by rw [h.1, h.2] at hab; exact absurd hab (by decide)
    refine ⟨_, congrArg Host.Outcome.next (if_neg hno), ?_, rfl, ?_⟩
    · rw [toOff, setState0_off]
    · rw [toOff, setState0_off]
  · exact congrArg Host.Outcome.next (if_pos ⟨rfl, rfl⟩)
  · exact ⟨_, rfl, bootDone_leaves hst hph hb⟩
  · refine congrArg Host.Outcome.next ((if_pos ⟨hst, by omega, by omega, by rw [hl]; rfl, h⟩).trans ?_)
    exact raise_eq (s := s) (t := s.mapDev fun d => { d with bootLate := true }) rfl rfl rfl ..
  · obtain ⟨hw, ho, hframe⟩ := fwWrite_leaves (s := s) 0 off.toNat bs
    refine ⟨_, congrArg Host.Outcome.next (odReq_done h (by rw [hst]; rfl) (firstAbort_one_pos hlen)), okResp_granted .., hw, ho 1 (by decide), ?_⟩
    rw [hframe]
    rfl
  · have hex : exec (.firmwareStart p) s = .next (okResp (fwStart s) p 0x182100) :=
      congrArg Host.Outcome.next (odReq_done h (by rw [hst, hph]; rfl) (by rw [hok]; rfl))
    obtain ⟨hseq, hlog⟩ := fwMeasure_log (s := s) 0x10 0
    refine ⟨_, hex, okResp_granted .., rfl, rfl, hseq, ?_, rfl⟩
    have e := congrArg (Option.map fun x : Nat × Nat × List Byte => (x.1, x.2.1)) hlog
    rw [Option.map_map] at e
    exact e
  · refine ⟨_, congrArg Host.Outcome.next ((odReq_refused h (by rw [hst, hph]; rfl) (by rw [hok]; decide)).trans (congrArg (refuse s p 0x182100) (by rw [hok]; rfl))),
      refuse_denied _ _ _ abCHECK, refuse_dev .., refuse_tru ..⟩
  · exact ⟨_, congrArg Host.Outcome.next (odReq_done h (by rw [hst]; rfl) rfl), okResp_granted .., fun a => mget_mwrite .., rfl⟩
  · have hex : exec (.configApply p) s = .next (okResp (cfgApply s) p 0x183100) :=
      congrArg Host.Outcome.next (odReq_done h (by rw [hst, hph]; rfl) (by rw [hok]; rfl))
    have hleaves := cfgApply_leaves (s := s)
    generalize cfgApply s = t at *
    exact ⟨_, hex, okResp_granted .., hleaves⟩
  · refine ⟨_, congrArg Host.Outcome.next ((odReq_refused h (by rw [hst, hph]; rfl) (by rw [hok]; decide)).trans (congrArg (refuse s p 0x183100) (by rw [hok]; rfl))),
      refuse_denied _ _ _ abCHECK, refuse_dev .., refuse_tru ..⟩

end Sys2Proof.Machine
end

section
/-! PROOFS. Firmware updates (O51). -/
namespace Sys2Proof.Machine

section
variable {s t : State} {p : Path} {b : Nat}

theorem mapHart_hart (i k : Nat) (f : Hart → Hart) : (s.mapHart i f).hart k = if k = i then f (s.hart i) else s.hart k := by
  split
  · next h => rw [h, State.mapHart_hart_same]
  · next h => rw [State.mapHart_hart_ne _ _ _ _ h]

/-- The state without the management record. -/
def mgmView (s : State) : State := { s with mgm := {} }

theorem mgmView_frame (h : mgmView t = mgmView s) : t = { s with mgm := t.mgm } := by
  have e := congrArg (fun u : State => { u with mgm := t.mgm }) h
  exact e

theorem each_mgmView {α : Type} {l : List α} {f : State → α → State} (h : ∀ u x, mgmView (f u x) = mgmView u) : mgmView (s.each l f) = mgmView s :=
  State.each_keeps s (fun t => mgmView t = mgmView s) l f (fun u x hu => (h u x).trans hu) rfl

theorem sourcesMove_hart (l : List Nat) (h : Nat) (to_ : Option Nat) (k : Nat) : (sourcesMove s l h to_).hart k = s.hart k ∧
    mgmView (sourcesMove s l h to_) = mgmView s := by
  unfold sourcesMove
  extract_lets s1 mv
  have h1 : s1.hart k = s.hart k ∧ mgmView s1 = mgmView s :=
    State.each_keeps s (fun t => t.hart k = s.hart k ∧ mgmView t = mgmView s) _ _ (fun _ _ h => h) ⟨rfl, rfl⟩
  exact h1

theorem handOver_mgmView (q : Nat × Option Nat) : mgmView (handOver b s q) = mgmView s := by
  unfold handOver
  split
  · rfl
  · exact (sourcesMove_hart _ _ _ 0).2

/-- A hart that hands its role over, or with no standby hart runs the bank itself (R501). -/
theorem handOver_hart (q : Nat × Option Nat) (k : Nat) : (handOver b s q).hart k = match q.2 with
    | none => if k = q.1 then { s.hart q.1 with bankRun := b } else s.hart k
    | some j => if k = j then { (s.mapHart q.1 fun x => { x with role := 3, claimed := [] }).hart j with role := (s.hart q.1).role, bankRun := b }
      else if k = q.1 then { s.hart q.1 with role := 3, claimed := [] } else s.hart k := by
  obtain ⟨i, o⟩ := q
  cases o with
  | none => exact mapHart_hart ..
  | some j => exact (sourcesMove_hart ..).1.trans ((mapHart_hart ..).trans (if_congr Iff.rfl rfl (mapHart_hart ..)))

theorem handOvers_mgmView (l l' : List Nat) : mgmView (handOvers s b l l') = mgmView s := each_mgmView fun _ _ => handOver_mgmView _

/-- Only harts that hand over or take a role change. -/
theorem handOvers_hart_ne (l l' : List Nat) {k : Nat} (h : k ∉ l) (h' : k ∉ l') : (handOvers s b l l').hart k = s.hart k := by
  refine List.foldlRecOn (motive := fun t : State => t.hart k = s.hart k) _ _ rfl fun t ht q hq => ?_
  obtain ⟨⟨i, n⟩, hin, rfl⟩ := List.mem_map.1 hq
  have hi : k ≠ i := fun e => h (e ▸ (List.mem_zipIdx' hin).2 ▸ List.getElem_mem _)
  rw [handOver_hart]
  dsimp only
  split
  · rw [if_neg hi, ht]
  · next j hj =>
    have hkj : k ≠ j := fun e => h' (e ▸ List.mem_of_getElem? hj)
    rw [if_neg hkj, if_neg hi, ht]

/-- With no standby hart each hart that runs firmware keeps its role and runs the bank (R501). -/
theorem handOvers_none (l : List Nat) (k : Nat) : ((handOvers s b l []).hart k).role = (s.hart k).role ∧
    (k ∈ l → ((handOvers s b l []).hart k).bankRun = b) := by
  have hkeep (u : State) (i : Nat) : ((handOver b u (i, none)).hart k).role = (u.hart k).role ∧
      (k = i ∨ (u.hart k).bankRun = b → ((handOver b u (i, none)).hart k).bankRun = b) := by
    rw [handOver_hart]
    dsimp only
    split
    · next h => exact ⟨by rw [h], fun _ => rfl⟩
    · next h => exact ⟨rfl, fun hk => hk.resolve_left h⟩
  have hall (l : List (Nat × Option Nat)) (hl : ∀ q ∈ l, q.2 = none) (u : State) : ((u.each l (handOver b)).hart k).role = (u.hart k).role ∧
      ((k ∈ l.map (·.1)) ∨ (u.hart k).bankRun = b → ((u.each l (handOver b)).hart k).bankRun = b) := by
    induction l generalizing u with
    | nil => exact ⟨rfl, fun h => h.resolve_left List.not_mem_nil⟩
    | cons q l ih =>
      obtain ⟨i, o⟩ := q
      obtain rfl : o = none := hl (i, o) List.mem_cons_self
      obtain ⟨hrole, hrun⟩ := ih (fun q hq => hl q (List.mem_cons_of_mem _ hq)) (handOver b u (i, none))
      refine ⟨hrole.trans (hkeep u i).1, fun h => hrun ?_⟩
      obtain h | h := h
      · obtain h | h := List.mem_cons.1 h
        · exact .inr ((hkeep u i).2 (.inl h))
        · exact .inl h
      · exact .inr ((hkeep u i).2 (.inr h))
  obtain ⟨hrole, hrun⟩ := hall (l.zipIdx.map fun q => (q.1, ([] : List Nat)[q.2]?)) (fun q hq => by
    obtain ⟨x, -, rfl⟩ := List.mem_map.1 hq
    rfl) s
  refine ⟨hrole, fun hk => hrun (.inl ?_)⟩
  rw [List.map_map]
  have e : (List.map ((fun x : Nat × Option Nat => x.1) ∘ fun q : Nat × Nat => (q.1, ([] : List Nat)[q.2]?)) l.zipIdx) = l := List.zipIdx_map_fst ..
  rw [e]
  exact hk

theorem mem_activeHarts {h : Nat} : h ∈ activeHarts s ↔ h < 4 ∧ (s.hart h).role < 3 := by
  have h4 : h ∈ [0, 1, 2, 3] ↔ h < 4 := by
    simp only [List.mem_cons, List.not_mem_nil, or_false]
    omega
  simp only [activeHarts, List.mem_append, List.mem_filter, h4, Bool.or_eq_true, beq_iff_eq, ← and_or_left]
  exact and_congr_right fun _ => by omega

theorem mem_standbyHarts {h : Nat} : h ∈ standbyHarts s ↔ h < 4 ∧ (s.hart h).role = 3 := by
  have h4 : h ∈ [0, 1, 2, 3] ↔ h < 4 := by
    simp only [List.mem_cons, List.not_mem_nil, or_false]
    omega
  rw [standbyHarts, List.mem_filter, h4, beq_iff_eq]

/-- The two harts that run firmware hand over to the two standby harts (R501). -/
theorem handOvers_pair (h0 : (s.hart 0).role = 0) (h1 : (s.hart 1).role = 1) (h2 : (s.hart 2).role = 3) (h3 : (s.hart 3).role = 3) :
    let t := handOvers s b (activeHarts s) (standbyHarts s)
    (t.hart 0).role = 3 ∧ (t.hart 1).role = 3 ∧ ((t.hart 2).role, (t.hart 2).bankRun) = (0, b) ∧ ((t.hart 3).role, (t.hart 3).bankRun) = (1, b) := by
  have ha : activeHarts s = [0, 1] := by simp [activeHarts, h0, h1, h2, h3]
  have hs : standbyHarts s = [2, 3] := by simp [standbyHarts, h0, h1, h2, h3]
  rw [ha, hs]
  have e : handOvers s b [0, 1] [2, 3] = handOver b (handOver b s (0, some 2)) (1, some 3) := rfl
  rw [e]
  simp only [handOver_hart, h0]
  simp [mapHart_hart, handOver_hart, h1]

/-- What the switch to the bank under trial leaves (R501). -/
def trialBegun (s : State) (b : Nat) : State :=
  let v := handOvers s b (activeHarts s) (standbyHarts s)
  let v := { v with tru := { v.tru with signers := firmwareKeys (fwBytes v b) } }
  raise (v.mapMgm fun m => { m with upd := .trial, updAt := v.now }) 0x0F09 0x10 [b]

theorem trialBegun_keeps : (trialBegun s b).mgm.upd = .trial ∧ (trialBegun s b).mgm.updAt = s.fab.ftime ∧ (trialBegun s b).dev = s.dev ∧
    (∀ h, (trialBegun s b).hart h = (handOvers s b (activeHarts s) (standbyHarts s)).hart h) ∧ (trialBegun s b).evr = (raise s 0x0F09 0x10 [b]).evr := by
  have hview := mgmView_frame (handOvers_mgmView (s := s) (b := b) (activeHarts s) (standbyHarts s))
  unfold trialBegun
  generalize handOvers s b (activeHarts s) (standbyHarts s) = v at *
  dsimp only
  refine ⟨?_, ?_, ?_, fun h => ?_, ?_⟩
  · rw [raise_mgm]
    rfl
  · rw [raise_mgm]
    rw [hview]
    rfl
  · rw [raise_dev, hview]
    rfl
  · rw [State.hart, raise_mgm]
    rfl
  · rw [raise_evr_congr (s := s)]
    all_goals rw [hview]; rfl

/-- The harts that stood by run the bank a trial confirms. -/
theorem eachBank_hart (l : List Nat) (k : Nat) : let t := s.each l fun s i => s.mapHart i fun x => { x with bankRun := b }
    (t.hart k).role = (s.hart k).role ∧ (t.hart k).bankRun = if k ∈ l then b else (s.hart k).bankRun := by
  induction l generalizing s with
  | nil => exact ⟨rfl, (if_neg List.not_mem_nil).symm⟩
  | cons i l ih =>
    obtain ⟨hrole, hrun⟩ := ih (s := s.mapHart i fun x => { x with bankRun := b })
    rw [mapHart_hart] at hrole hrun
    refine ⟨hrole.trans ?_, hrun.trans ?_⟩
    · split
      · next h => rw [h]
      · rfl
    · by_cases hl : k ∈ l
      · rw [if_pos hl, if_pos (List.mem_cons_of_mem i hl)]
      · rw [if_neg hl]
        by_cases hi : k = i
        · rw [if_pos hi, if_pos (hi ▸ List.mem_cons_self)]
        · rw [if_neg hi, if_neg (by simp [hi, hl])]

theorem eachBank_frame (l : List Nat) : let t := s.each l fun s i => s.mapHart i fun x => { x with bankRun := b }
    t = { s with mgm := { s.mgm with harts := t.mgm.harts } } :=
  State.each_keeps s (fun t => t = { s with mgm := { s.mgm with harts := t.mgm.harts } }) _ _ (fun t i h => by
    rw [h]
    rfl) rfl

/-- What a trial that is confirmed leaves (R501). -/
theorem trialKeep_leaves : let t := trialKeep s
    t.dev = { s.dev with fwRun := otherBank s } ∧ t = { s with dev := t.dev, mgm := { s.mgm with upd := .idle, harts := t.mgm.harts } } ∧
    ∀ k, (t.hart k).role = (s.hart k).role ∧ (t.hart k).bankRun = if k ∈ standbyHarts s then otherBank s else (s.hart k).bankRun := by
  dsimp only
  unfold trialKeep
  extract_lets b' u
  have hb : b' = otherBank s := rfl
  have hframe : u = { s with mgm := { s.mgm with harts := u.mgm.harts } } := eachBank_frame (standbyHarts s)
  have hhart (k : Nat) : (u.hart k).role = (s.hart k).role ∧ (u.hart k).bankRun = if k ∈ standbyHarts s then b' else (s.hart k).bankRun :=
    eachBank_hart (standbyHarts s) k
  clear_value u b'
  subst hb
  refine ⟨?_, ?_, hhart⟩
  · rw [hframe]
    rfl
  · rw [hframe]
    rfl

end

/-- Settles O51. -/
theorem firmwareUpdates : Obligations.FirmwareUpdates := by
  intro p s hboot b
  have hgate (l : List UpdState) (hl : s.mgm.upd ∈ l) : (s.dev.state != .boot && l.contains s.mgm.upd) = true := by
    rw [List.contains_iff_mem.2 hl, Bool.and_true]
    exact bne_iff_ne.2 hboot
  refine ⟨fun off bs h hupd hlen => ?_, fun h hupd => ?_, fun h hupd => ⟨fun hok => ?_, fun hok => ?_⟩, fun h hupd => ?_, fun h hupd => ?_, fun hupd hat => ?_,
    fun h => ?_, fun h => ?_⟩
  · have hex : exec (.fwUpdateWrite p off bs) s = .next (okResp ((fwWrite (if s.mgm.upd = .idle then
        s.mapDev fun d => { d with fw := fset d.fw [] b [], fwLen := fset d.fwLen 0 b 0 } else s) b off.toNat bs).mapMgm fun m =>
        { m with upd := .filling }) p 0x182300) :=
      congrArg Host.Outcome.next (odReq_done h (by obtain hu | hu := hupd <;> rw [hu] <;> simp [hboot]) (firstAbort_one_pos hlen))
    have hfw (k : Nat) : fget (if s.mgm.upd = .idle then s.mapDev fun d => { d with fw := fset d.fw [] b [], fwLen := fset d.fwLen 0 b 0 } else s).dev.fw [] k =
        if k = b ∧ s.mgm.upd = .idle then [] else fget s.dev.fw [] k := by
      by_cases hi : s.mgm.upd = .idle
      · rw [if_pos hi]
        refine (fget_fset ..).trans ?_
        simp [hi]
      · rw [if_neg hi, if_neg fun h => hi h.2]
    obtain ⟨hw, ho, -⟩ := fwWrite_leaves (s := if s.mgm.upd = .idle then s.mapDev fun d => { d with fw := fset d.fw [] b [], fwLen := fset d.fwLen 0 b 0 } else s)
      b off.toNat bs
    rw [hfw] at hw
    simp only [true_and] at hw
    exact ⟨_, hex, okResp_granted .., rfl, hw, fun k hk => (ho k hk).trans ((hfw k).trans (if_neg fun h => hk h.1))⟩
  · refine ⟨_, congrArg Host.Outcome.next (odReq_done h (hgate _ (by simpa using hupd)) rfl), okResp_granted .., rfl, fget_fset_same .., fun k hk => fget_fset_ne _ _ _ _ _ _ hk⟩
  · refine ⟨_, congrArg Host.Outcome.next (odReq_done h (hgate _ (by simp [hupd])) (by rw [hok]; rfl)), okResp_granted .., rfl, (fwMeasure_log (s := s) 0x11 b).2⟩
  · refine ⟨_, congrArg Host.Outcome.next ((odReq_refused h (hgate _ (by simp [hupd])) (by rw [hok]; decide)).trans (congrArg (refuse s p 0x182400) (by rw [hok]; rfl))),
      refuse_denied _ _ _ abCHECK, ?_, refuse_tru ..⟩
    rw [refuse_eq]
    exact hupd
  · have hex : exec (.fwUpdateSwitch p) s = .next (okResp (trialBegun s b) p 0x182400) :=
      congrArg Host.Outcome.next (odReq_done h (hgate _ (by simp [hupd])) rfl)
    obtain ⟨hup, hat, hdev, hhart, hevr⟩ := trialBegun_keeps (s := s) (b := b)
    generalize trialBegun s b = t at *
    refine ⟨_, hex, okResp_granted .., hup, hat, hdev, fun k hk hr => ?_, fun h0 h1 h2 h3 => ?_, fun hno k hk => ?_, hevr⟩
    · refine (congrArg Hart.role ((hhart k).trans (handOvers_hart_ne _ _ ?_ ?_))).trans hr
      · exact fun hm => by have := (mem_activeHarts.1 hm).2; omega
      · exact fun hm => by have := (mem_standbyHarts.1 hm).2; omega
    · have hp := handOvers_pair (b := b) h0 h1 h2 h3
      dsimp only at hp
      rw [← hhart, ← hhart, ← hhart, ← hhart] at hp
      exact hp
    · have hs : standbyHarts s = [] := List.eq_nil_iff_forall_not_mem.2 fun j hj => hno j (mem_standbyHarts.1 hj).1 (mem_standbyHarts.1 hj).2
      obtain ⟨hrole, hrun⟩ := handOvers_none (s := s) (b := b) (activeHarts s) k
      rw [hs] at hhart
      rw [← hhart] at hrole hrun
      exact ⟨hrole, fun h3 => hrun (mem_activeHarts.2 ⟨hk, h3⟩)⟩
  · exact ⟨_, congrArg Host.Outcome.next (odReq_done h (hgate _ (by simp [hupd])) rfl), okResp_granted .., rfl, rfl⟩
  · have hex : exec .fwTrialTimeout s = .next (trialKeep s) := congrArg Host.Outcome.next (if_pos ⟨hupd, hat⟩)
    obtain ⟨hdev, hframe, hhart⟩ := trialKeep_leaves (s := s)
    generalize trialKeep s = t at *
    refine ⟨t, hex, hdev, hframe, fun k hk => ⟨(hhart k).1, (hhart k).2.trans (if_congr ?_ rfl rfl)⟩⟩
    exact mem_standbyHarts.trans ⟨fun h => h.2, fun h => ⟨hk, h⟩⟩
  · exact congrArg Host.Outcome.next (if_neg fun hc => absurd hc.2 (Nat.not_le.2 h))
  · exact congrArg Host.Outcome.next (if_neg fun hc => h hc.1)

end Sys2Proof.Machine
end

section
/-! PROOFS. Events and interrupts (O54). -/
namespace Sys2Proof.Machine

section
variable {s t : State} {p : Path}

/-! ### The best source (R446) -/

/-- The best of the sources below `n`. -/
def bestBelow (s : State) (h n : Nat) : Option Nat :=
  (List.range n).foldl (fun b i =>
    if deliverable s h i then (match b with
      | none => some i
      | some j => if (s.isrc j).prio < (s.isrc i).prio then some i else b) else b) none

theorem bestBelow_succ (h n : Nat) : bestBelow s h (n + 1) = if deliverable s h n then (match bestBelow s h n with
    | none => some n
    | some j => if (s.isrc j).prio < (s.isrc n).prio then some n else bestBelow s h n) else bestBelow s h n := by
  rw [bestBelow, List.range_succ, List.foldl_append]
  rfl

theorem bestBelow_spec (h n : Nat) : (bestBelow s h n = none → ∀ j, j < n → deliverable s h j = false) ∧
    ∀ i, bestBelow s h n = some i → i < n ∧ deliverable s h i = true ∧ ∀ j, j < n → deliverable s h j = true →
      (s.isrc j).prio ≤ (s.isrc i).prio ∧ ((s.isrc j).prio = (s.isrc i).prio → i ≤ j) := by
  induction n with
  | zero => exact ⟨fun _ j hj => absurd hj (Nat.not_lt_zero _), fun i hi => by cases hi⟩
  | succ n ih =>
    obtain ⟨hnone, hsome⟩ := ih
    rw [bestBelow_succ]
    have hup {j : Nat} (hj : j < n + 1) : j < n ∨ j = n := Nat.lt_succ_iff_lt_or_eq.1 hj
    by_cases hd : deliverable s h n = true
    · rw [if_pos hd]
      cases hb : bestBelow s h n with
      | none =>
        refine ⟨fun h => absurd h (Option.some_ne_none n), fun i hi => ?_⟩
        obtain rfl : n = i := Option.some.inj hi
        refine ⟨Nat.lt_succ_self n, hd, fun j hj hdj => ?_⟩
        obtain hj | rfl := hup hj
        · rw [hnone hb j hj] at hdj
          exact absurd hdj Bool.false_ne_true
        · exact ⟨le_rfl, fun _ => le_rfl⟩
      | some k =>
        obtain ⟨hk, hdk, hbest⟩ := hsome k hb
        dsimp only
        by_cases hp : (s.isrc k).prio < (s.isrc n).prio
        · rw [if_pos hp]
          refine ⟨fun h => absurd h (Option.some_ne_none n), fun i hi => ?_⟩
          obtain rfl : n = i := Option.some.inj hi
          refine ⟨Nat.lt_succ_self n, hd, fun j hj hdj => ?_⟩
          obtain hj | rfl := hup hj
          · have := (hbest j hj hdj).1
            exact ⟨by omega, fun h => by omega⟩
          · exact ⟨le_rfl, fun _ => le_rfl⟩
        · rw [if_neg hp]
          refine ⟨fun h => absurd h (Option.some_ne_none k), fun i hi => ?_⟩
          obtain rfl : k = i := Option.some.inj hi
          refine ⟨Nat.lt_succ_of_lt hk, hdk, fun j hj hdj => ?_⟩
          obtain hj | rfl := hup hj
          · exact hbest j hj hdj
          · exact ⟨by omega, fun _ => by omega⟩
    · rw [if_neg hd]
      refine ⟨fun h j hj => ?_, fun i hi => ⟨Nat.lt_succ_of_lt (hsome i hi).1, (hsome i hi).2.1, fun j hj hdj => ?_⟩⟩
      · obtain hj | rfl := hup hj
        · exact hnone h j hj
        · exact Bool.eq_false_iff.2 hd
      · obtain hj | rfl := hup hj
        · exact (hsome i hi).2.2 j hj hdj
        · exact absurd hdj hd

theorem bestSrc_eq (h : Nat) : bestSrc s h = bestBelow s h 256 := rfl

/-! ### Harts and sources -/

theorem wfiWakes_keeps : (∀ j, (wfiWakes s).isrc j = s.isrc j) ∧ (∀ k, ((wfiWakes s).hart k).claimed = (s.hart k).claimed) ∧
    wfiWakes s = { s with mgm := { s.mgm with harts := (wfiWakes s).mgm.harts } } := by
  refine List.foldlRecOn (motive := fun v : State => (∀ j, v.isrc j = s.isrc j) ∧ (∀ k, (v.hart k).claimed = (s.hart k).claimed) ∧
    v = { s with mgm := { s.mgm with harts := v.mgm.harts } }) _ _ ⟨fun _ => rfl, fun _ => rfl, rfl⟩ fun v h n _ => ?_
  obtain ⟨hsrc, hclaimed, hframe⟩ := h
  unfold wfiWake
  split
  · refine ⟨hsrc, fun k => ?_, ?_⟩
    · rw [mapHart_hart]
      split
      · next hk => rw [hk, hclaimed]
      · exact hclaimed k
    · rw [hframe]
      rfl
  · exact ⟨hsrc, hclaimed, hframe⟩

/-- What a claim of a source leaves (R446). -/
theorem claimOn_some {h i : Nat} (hb : bestSrc s h = some i) : let t := claimOn s h
    t.isrc i = { s.isrc i with pending := false, active := true } ∧ (t.hart h).claimRd = BitVec.ofNat 9 (256 + i) ∧
    (t.hart h).claimed = (s.hart h).claimed ++ [i] ∧ (∀ j, j ≠ i → t.isrc j = s.isrc j) ∧ (∀ k, k ≠ h → t.hart k = s.hart k) ∧
    t = { s with mgm := { s.mgm with src := t.mgm.src, harts := t.mgm.harts } } := by
  have e : claimOn s h = (s.mapSrc i fun x => { x with pending := false, active := true }).mapHart h fun x =>
      { x with claimed := x.claimed ++ [i], claimRd := BitVec.ofNat 9 (256 + i) } := by
    unfold claimOn
    rw [hb]
  dsimp only
  rw [e]
  refine ⟨State.mapSrc_isrc_same s i fun x => { x with pending := false, active := true }, ?_, ?_,
    fun j hj => State.mapSrc_isrc_ne s i j (fun x => { x with pending := false, active := true }) hj, fun k hk => State.mapHart_hart_ne _ _ _ _ hk, rfl⟩
  · rw [State.mapHart_hart_same]
  · rw [State.mapHart_hart_same]
    rfl

theorem claimOn_none {h : Nat} (hb : bestSrc s h = none) : claimOn s h = s.mapHart h fun x => { x with claimRd := 0#9, wfi := true } := by
  unfold claimOn
  rw [hb]

/-- What a completion leaves (R447). -/
theorem completeOn_claimed {h i : Nat} (hi : i ∈ (s.hart h).claimed) : let t := completeOn s h i
    t.isrc i = { s.isrc i with active := false, heldOff := false } ∧ (t.hart h).claimed = (s.hart h).claimed.erase i ∧
    fget t.mgm.lastComp 0 (i / 16) = s.fab.ftime + 1 ∧ t.evr = s.evr := by
  dsimp only
  unfold completeOn
  rw [if_pos (List.contains_iff_mem.2 hi)]
  extract_lets s1 s2
  obtain ⟨hsrc, hclaimed, hframe⟩ := wfiWakes_keeps (s := s2.mapMgm fun m => { m with lastComp := fset m.lastComp 0 (i / 16) (s2.now + 1) })
  refine ⟨(hsrc i).trans (State.mapSrc_isrc_same s i fun x => { x with active := false, heldOff := false }), (hclaimed h).trans ?_, ?_, ?_⟩
  · exact (congrArg Hart.claimed (State.mapHart_hart_same s1 h fun x => { x with claimed := x.claimed.erase i })).trans rfl
  · rw [hframe]
    exact fget_fset_same ..
  · rw [hframe]
    rfl

/-- What a source that pends leaves (R445). -/
theorem pend_leaves {n : Nat} (hn : n < 240) (hp : (s.isrc n).pending = false) (ha : (s.isrc n).active = false) (hh : holdOn s (n / 16) = false) :
    (pend s n).isrc n = { s.isrc n with pending := true, heldOff := false } ∧ (∀ j, j ≠ n → (pend s n).isrc j = s.isrc j) ∧
    pend s n = { s with mgm := { s.mgm with src := (pend s n).mgm.src, harts := (pend s n).mgm.harts } } := by
  refine ⟨?_, (pend_isrc hn).2, lineView_frame (pend_lineView _)⟩
  unfold pend
  extract_lets x held
  rw [if_pos hn, wfiWakes_isrc, State.mapSrc_isrc_same, if_neg (by rw [hp]; exact Bool.false_ne_true), if_neg (by rw [ha]; exact Bool.false_ne_true)]
  have hheld : held = false := hh
  rw [hheld]

/-- `ISWSET` with one bit set pends that line of group 14 (R448). -/
theorem iswset_one {i : Nat} (h4 : 4 ≤ i) (h16 : i < 16) : iswset s (BitVec.ofNat 32 (2 ^ i)).toNat = pend s (224 + i) := by
  have hv : (BitVec.ofNat 32 (2 ^ i)).toNat = 2 ^ i := by
    rw [BitVec.toNat_ofNat]
    exact Nat.mod_eq_of_lt (Nat.pow_lt_pow_right (by decide) (by omega))
  have hbits : indices 16 (fun j => decide (4 ≤ j) && bit (2 ^ i) j) = [i] := by
    interval_cases i <;> decide
  rw [hv, iswset, hbits]
  rfl

/-! ### Event records (R531, R532, R533) -/

theorem nextHeld_severe {l q : List EvRec} {r : EvRec} (hl : ∀ x ∈ l, x.sev ≠ 3) (hr : r.sev = 3) : nextHeld (l ++ r :: q) = some (r, l ++ q) := by
  have hfind : (l ++ r :: q).find? (fun r => r.sev == 3) = some r := by
    rw [List.find?_append, List.find?_eq_none.2 (by simpa using hl), Option.none_or, List.find?_cons_of_pos (by simp [hr])]
  have hdrop : dropFirstSev 3 (l ++ r :: q) = l ++ q := by
    clear hfind
    induction l with
    | nil => exact if_pos hr
    | cons x l ih =>
      refine (if_neg (hl x List.mem_cons_self)).trans ?_
      exact congrArg (x :: ·) (ih fun y hy => hl y (List.mem_cons_of_mem x hy))
  unfold nextHeld
  rw [hfind]
  exact congrArg (fun q => some (r, q)) hdrop

theorem nextHeld_oldest {q : List EvRec} {r : EvRec} (hr : r.sev ≠ 3) (hq : ∀ x ∈ q, x.sev ≠ 3) : nextHeld (r :: q) = some (r, q) := by
  unfold nextHeld
  rw [List.find?_eq_none.2 (by simpa using ⟨hr, hq⟩)]

theorem nextHeld_next {l q : List EvRec} {r : EvRec} (hl : ∀ x ∈ l, x.sev ≠ 3) (hr : r.sev = 3 ∨ (l = [] ∧ ∀ x ∈ q, x.sev ≠ 3)) :
    nextHeld (l ++ r :: q) = some (r, l ++ q) := by
  by_cases h3 : r.sev = 3
  · exact nextHeld_severe hl h3
  · obtain ⟨rfl, hq⟩ := hr.resolve_left h3
    exact nextHeld_oldest h3 hq

/-- A record that is stored is numbered, and the line of its group pends (R532). -/
theorem storePut_keeps (r : EvRec) : (storePut s r).evr = { s.evr with store := s.evr.store ++ [{ r with seq := s.evr.next }], next := s.evr.next + 1 } ∧
    (r.id / 256 = 0x0D → r.sev < 4 → ((storePut s r).isrc r.sev).pending = true) := by
  unfold storePut
  extract_lets x e s1 s2
  have h2 : s2.evr = s1.evr ∧ (r.id / 256 = 0x0D → r.sev < 4 → (s2.isrc r.sev).pending = true) := by
    refine ⟨?_, fun hid hs => ?_⟩
    · unfold s2
      rw [pendLine_eq]
    · have hg : evGroup (r.id / 256) = 0 := by rw [hid]; rfl
      have hn : 16 * evGroup (r.id / 256) + r.sev = r.sev := by rw [hg]; omega
      have h := (pendLine_isrc (s := s1) (g := evGroup (r.id / 256)) (n := r.sev) (by omega)).1
      rw [hn] at h
      exact h
  split
  · exact h2
  · exact h2

theorem freeOldest_none {v : Nat} {l : List EvRec} (h : ∀ x ∈ l, v < x.sev) : freeOldest v l = none := by
  induction l with
  | nil => rfl
  | cons x l ih =>
    refine (if_neg (Nat.not_le.2 (h x List.mem_cons_self))).trans ?_
    rw [ih fun y hy => h y (List.mem_cons_of_mem x hy)]
    rfl

theorem freeOldest_first {v : Nat} {o : EvRec} {l : List EvRec} (h : o.sev ≤ v) : freeOldest v (o :: l) = some (o, l) := if_pos h

/-- What a record leaves of the store (R532). -/
theorem storeRec_keeps (r : EvRec) :
    (storeRec s r).evr.held = s.evr.held ∧
    (s.evr.store.length < 16384 → (storeRec s r).evr.store = s.evr.store ++ [{ r with seq := s.evr.next }] ∧ (storeRec s r).evr.next = s.evr.next + 1 ∧
      (storeRec s r).evr.overs = s.evr.overs ∧ (storeRec s r).evr.drops = s.evr.drops ∧
      (r.id / 256 = 0x0D → r.sev < 4 → ((storeRec s r).isrc r.sev).pending = true)) ∧
    (∀ o st, s.evr.store = o :: st → 16384 ≤ s.evr.store.length → o.sev ≤ r.sev → (storeRec s r).evr.store = st ++ [{ r with seq := s.evr.next }] ∧
      fget (storeRec s r).evr.overs 0 o.sev = min (fget s.evr.overs 0 o.sev + 1) 0xFFFFFFFF ∧ (storeRec s r).evr.drops = s.evr.drops) ∧
    (16384 ≤ s.evr.store.length → (∀ x ∈ s.evr.store, r.sev < x.sev) → (storeRec s r).evr.store = s.evr.store ∧ (storeRec s r).evr.next = s.evr.next ∧
      fget (storeRec s r).evr.drops 0 r.sev = min (fget s.evr.drops 0 r.sev + 1) 0xFFFFFFFF) := by
  refine ⟨?_, fun hlen => ?_, fun o st hst hlen ho => ?_, fun hlen hall => ?_⟩
  · unfold storeRec
    split
    · rw [(storePut_keeps r).1]
    · split
      · rw [(storePut_keeps r).1]
      · rfl
  · have e : storeRec s r = storePut s r := if_pos hlen
    obtain ⟨hevr, hpend⟩ := storePut_keeps (s := s) r
    rw [e, hevr]
    exact ⟨rfl, rfl, rfl, rfl, hpend⟩
  · have e : storeRec s r = storePut { s with evr := { s.evr with store := st, overs := fmod s.evr.overs 0 o.sev sat32 } } r := by
      unfold storeRec
      rw [if_neg (show ¬ s.evr.store.length < storeMax from Nat.not_lt.2 hlen), hst, freeOldest_first ho]
    rw [e, (storePut_keeps r).1]
    exact ⟨rfl, (fget_fmod ..).trans (if_pos rfl), rfl⟩
  · have e : storeRec s r = countDrop s r.sev := by
      unfold storeRec
      rw [if_neg (show ¬ s.evr.store.length < storeMax from Nat.not_lt.2 hlen), freeOldest_none hall]
    rw [e]
    exact ⟨rfl, rfl, (fget_fmod ..).trans (if_pos rfl)⟩

/-! ### The window of a cursor (R534) -/

/-- The bytes of a latched window but for its lowest number. -/
def windowOf (s : State) (k cur first : Nat) : List Byte :=
  leBytes 4 (fget s.evr.wseq 0 k + 1) ++ leBytes 2 ((s.evr.store.filter fun r => decide (cur ≤ r.seq)).take 63).length ++ leBytes 2 0 ++ leBytes 8 first ++
    leBytes 8 s.evr.next ++ leBytes 8 cur ++ (((s.evr.store.filter fun r => decide (cur ≤ r.seq)).take 63).map recBytes).flatten

theorem latch_evr (k cur : Nat) : ∃ first, (latch s k cur).evr =
    { s.evr with wseq := fset s.evr.wseq 0 k ((fget s.evr.wseq 0 k + 1) % 2 ^ 32), window := fset s.evr.window [] k (windowOf s k cur first), cursor := fset s.evr.cursor 0 k cur } := by
  unfold latch
  by_cases h : s.evr.store.isEmpty = true
  · rw [if_pos h]
    exact ⟨_, rfl⟩
  · rw [if_neg h]
    exact ⟨_, rfl⟩

theorem windowOf_fields (k cur first : Nat) : let w := windowOf s k cur first
    fieldAt w 0 4 = (fget s.evr.wseq 0 k + 1) % 2 ^ 32 ∧ fieldAt w 4 2 = min 63 (s.evr.store.filter fun r => decide (cur ≤ r.seq)).length ∧
    fieldAt w 16 8 = s.evr.next % 2 ^ 64 ∧ fieldAt w 24 8 = cur % 2 ^ 64 := by
  unfold windowOf
  generalize s.evr.store.filter (fun r => decide (cur ≤ r.seq)) = l
  generalize ((l.take 63).map recBytes).flatten = tail
  dsimp only
  simp only [List.append_assoc]
  have hskip (a b o n : Nat) (q : List Byte) : fieldAt (leBytes a b ++ q) (a + o) n = fieldAt q o n := by
    have h := fieldAt_append_right (leBytes a b) q o n
    rwa [leBytes_length] at h
  refine ⟨fieldAt_leBytes 4 _ _, ?_, ?_, ?_⟩
  · rw [hskip 4 _ 0 2, fieldAt_leBytes, List.length_take]
    exact Nat.mod_eq_of_lt (by have := Nat.min_le_left 63 l.length; omega)
  · rw [hskip 4 _ 12 8, hskip 2 _ 10 8, hskip 2 _ 8 8, hskip 8 _ 0 8, fieldAt_leBytes]
    norm_num
  · rw [hskip 4 _ 20 8, hskip 2 _ 18 8, hskip 2 _ 16 8, hskip 8 _ 8 8, hskip 8 _ 0 8, fieldAt_leBytes]
    norm_num

end

/-- Settles O54. -/
theorem eventsAndInterrupts : Obligations.EventsAndInterrupts := by
  intro s hoff
  have hruns (h : Nat) (hr : (s.hart h).role < 4) : hartRuns s h = true := by
    rw [hartRuns, decide_eq_true hr, Bool.and_true]
    exact bne_iff_ne.2 hoff
  have hpow : powered s = true := bne_iff_ne.2 hoff
  refine ⟨fun h i hr hb => ?_, fun h hr hb => ?_, fun h i hr hi => ?_, fun h i hr hi => ?_, fun i h4 h16 hp ha hh => ?_, fun i hl hw hh => ?_, fun i hw => ?_,
    fun n l q r hheld hl hr => ?_, fun n hheld => ?_, fun p v h => ?_⟩
  · obtain ⟨hsrc, hrd, hcl, hother, hharts, hframe⟩ := claimOn_some hb
    obtain ⟨-, hdel, hbest⟩ := (bestBelow_spec (s := s) h.val 256).2 i hb
    refine ⟨_, congrArg Host.Outcome.next (if_pos (hruns h.val hr)), hsrc, hrd, hcl, hother, hharts, hdel, fun j hj h256 => hbest j h256 hj, hframe⟩
  · refine ⟨_, congrArg Host.Outcome.next ((if_pos (hruns h.val hr)).trans (claimOn_none hb)), ?_, rfl⟩
    rw [State.mapHart_hart_same]
  · exact ⟨_, congrArg Host.Outcome.next (if_pos (hruns h.val hr)), completeOn_claimed hi⟩
  · refine congrArg Host.Outcome.next ((if_pos (hruns h.val hr)).trans ((if_neg ?_).trans (raise_frame ..)))
    rw [List.contains_iff_mem]
    exact hi
  · have hdiv : (224 + i) / 16 = 14 := by omega
    have hex : exec (.iswset (BitVec.ofNat 32 (2 ^ i))) s = .next (pend s (224 + i)) := congrArg Host.Outcome.next ((if_neg hoff).trans (iswset_one h4 h16))
    refine ⟨_, hex, pend_leaves (by omega) hp ha ?_⟩
    rw [hdiv, holdOn, hh]
    rfl
  · exact congrArg Host.Outcome.next (if_pos (decide_eq_true ⟨hh, hl, hw⟩))
  · have hno : holdOn s (i.val / 16) = false := decide_eq_false fun h => by
      have := h.2.2
      rw [State.now] at this
      omega
    obtain ⟨hsrc, -, hframe⟩ := wfiWakes_keeps (s := s.mapSrc i.val fun x => { x with heldOff := false })
    refine ⟨_, congrArg Host.Outcome.next (if_neg (by rw [hno]; exact Bool.false_ne_true)), (hsrc _).trans (State.mapSrc_isrc_same ..),
      fun j hj => (hsrc j).trans (State.mapSrc_isrc_ne _ _ _ _ hj), ?_⟩
    rw [hframe]
    rfl
  · have hnext : nextHeld (fget s.evr.held [] n.val) = some (r, l ++ q) := by rw [hheld, nextHeld_next hl hr]
    have hex : exec (.eventRecordStore n) s = .next (storeRec { s with evr := { s.evr with held := fset s.evr.held [] n.val (l ++ q) } } r) := by
      refine congrArg Host.Outcome.next ((if_pos hpow).trans ?_)
      unfold storeFrom
      rw [hnext]
    obtain ⟨hkeep, hroom, hfull, hdrop⟩ := storeRec_keeps (s := { s with evr := { s.evr with held := fset s.evr.held [] n.val (l ++ q) } }) r
    refine ⟨_, hex, ?_, fun m hm => ?_, hroom, hfull, hdrop⟩
    · rw [hkeep]
      exact fget_fset_same ..
    · rw [hkeep]
      exact fget_fset_ne _ _ _ _ _ _ hm
  · refine congrArg Host.Outcome.next ((if_pos hpow).trans ?_)
    unfold storeFrom
    rw [hheld]
    rfl
  · obtain ⟨first, hevr⟩ := latch_evr (s := s) (curKey p) v.toNat
    obtain ⟨hseq, hn, hnext, hcur⟩ := windowOf_fields (s := s) (curKey p) v.toNat first
    have hex : exec (.cursorWrite p v) s = .next (okResp (latch s (curKey p) v.toNat) p (0x701000 + curKey p)) := congrArg Host.Outcome.next (odReq_done h rfl rfl)
    have hw : fget (okResp (latch s (curKey p) v.toNat) p (0x701000 + curKey p)).evr.window [] (curKey p) = windowOf s (curKey p) v.toNat first := by
      rw [okResp_evr, hevr]
      exact fget_fset_same ..
    refine ⟨_, hex, okResp_granted .., ?_, ?_, ?_, ?_, ?_, fun k hk => ?_, ?_, ?_⟩
    · rw [okResp_evr, hevr]
      exact fget_fset_same ..
    · rw [hw, hseq]
    · rw [hw, hn]
    · rw [hw, hnext]
    · rw [hw, hcur]
      exact Nat.mod_eq_of_lt v.isLt
    · rw [okResp_evr, hevr]
      exact fget_fset_ne _ _ _ _ _ _ hk
    · rw [okResp_evr, hevr]
    · rw [okResp_evr, hevr]

end Sys2Proof.Machine
end

section
/-! PROOFS. Clocks, monitors and energy (O55). -/
namespace Sys2Proof.Machine

section
variable {s t : State}

/-! ### The frequency -/

theorem freqSet_eq (f : Nat) : freqSet s f = { s with
    fab := { s.fab with frac := s.fab.frac * f / max 1 s.pwr.freq },
    pwr := { s.pwr with freq := f, newFreq := none, changes := sat32 s.pwr.changes, crossBad := 0#4 },
    evr := (raise s 0x0E04 0x12 [s.pwr.freq, f, if f = s.pwr.target then 0 else 1]).evr } := by
  unfold freqSet
  dsimp only
  rw [raise_frame s]
  rfl

theorem freqDrop_freq : (freqDrop s).pwr.freq = 900 := by
  unfold freqDrop
  split
  · assumption
  · rw [freqSet_eq]

theorem freqDrop_frame : freqDrop s = { s with fab := (freqDrop s).fab, pwr := (freqDrop s).pwr, evr := (freqDrop s).evr } := by
  unfold freqDrop
  split
  · rfl
  · rw [freqSet_eq]

theorem freqDrop_pwr : (freqDrop s).pwr.mons = s.pwr.mons ∧ (freqDrop s).pwr.tripped = s.pwr.tripped := by
  unfold freqDrop
  split
  · exact ⟨rfl, rfl⟩
  · rw [freqSet_eq]
    exact ⟨rfl, rfl⟩

/-- With no monitor that has measured, the droop allowance is the clock's upper bound. -/
theorem minAllow_unmeasured (h : ∀ m, (s.mon m).valid = false) : minAllow s = 1800 := by
  refine List.foldlRecOn (motive := fun a : Nat => a = 1800) _ _ rfl fun a ha m _ => ?_
  rw [h m]
  exact ha

theorem heldLow_free (ht : s.pwr.tripped = false) (hl : s.pwr.lowHeld = false) : heldLow s = false := by
  rw [heldLow, ht, hl]
  rfl

/-- With nothing against it the frequency is the target (R460, R464). -/
theorem freqNext_target (hm : ∀ m, (s.mon m).valid = false) (ht : s.pwr.tripped = false) (hl : s.pwr.lowHeld = false) (hh : s.pwr.minHist = [])
    (h900 : 900 ≤ s.pwr.target) (h1800 : s.pwr.target ≤ 1800) : freqNext s = if s.pwr.target = s.pwr.freq then none else some s.pwr.target := by
  have hf : freqF s = s.pwr.target := by
    rw [freqF, heldLow_free ht hl, if_neg Bool.false_ne_true, minAllow_unmeasured hm]
    omega
  have hp : min (freqF s) (histMin s / 25 * 25) = s.pwr.target := by
    rw [hf, histMin, hh, List.foldl_nil, minAllow_unmeasured hm]
    omega
  unfold freqNext
  dsimp only
  rw [hp, hf]
  split
  · rw [if_neg (by omega)]
  · split
    · rw [if_neg (by omega)]
    · rw [if_pos (by omega)]

theorem freqNext_tripped (ht : s.pwr.tripped = true) (h : 900 < s.pwr.freq) : freqNext s = some 900 := by
  have hf : freqF s = 900 := if_pos (by rw [heldLow, ht]; rfl)
  unfold freqNext
  dsimp only
  rw [hf, if_pos h]

/-! ### Trips -/

/-- The monitors and the cores. -/
def monView (s : State) : FMap Monitor × FMap Core := (s.pwr.mons, s.cores)

theorem monView_mon (h : monView t = monView s) (k : Nat) : t.mon k = s.mon k := congrArg (fun v : FMap Monitor × FMap Core => fget v.1 {} k) h

theorem monView_cores (h : monView t = monView s) : t.cores = s.cores := congrArg Prod.snd h

theorem raise_monView (id n : Nat) (l : List Nat) : monView (raise s id n l) = monView s := by
  rw [raise_frame]
  rfl

theorem fatal_monView (id n : Nat) (l : List Nat) : monView (fatal s id n l) = monView s := by
  rw [fatal_frame]
  rfl

theorem freqDrop_monView : monView (freqDrop s) = monView s := by
  refine Prod.ext freqDrop_pwr.1 ?_
  rw [freqDrop_frame]
  rfl

theorem thermalTrip_monView (l : List Nat) : monView (thermalTrip s l) = monView s := freqDrop_monView.trans (fatal_monView ..)

theorem thermalRelease_monView : monView (thermalRelease s) = monView s := by
  unfold thermalRelease
  dsimp only
  split <;> rfl

theorem lowCheck_monView : monView (lowCheck s) = monView s := by
  unfold lowCheck
  split
  · split
    · rfl
    · exact freqDrop_monView.trans (fatal_monView ..)
  · rfl

/-- What a thermal trip leaves (R464). -/
theorem thermalTrip_leaves (l : List Nat) : (thermalTrip s l).pwr.tripped = true ∧ (thermalTrip s l).pwr.freq = 900 ∧
    (thermalTrip s l).dev = (fatal s 0x0E07 0x12 l).dev ∧
    thermalTrip s l = { s with
      dev := (thermalTrip s l).dev, beds := (thermalTrip s l).beds, inp := (thermalTrip s l).inp, fab := (thermalTrip s l).fab, pwr := (thermalTrip s l).pwr, evr := (thermalTrip s l).evr } := by
  unfold thermalTrip
  extract_lets u
  refine ⟨freqDrop_pwr.2, freqDrop_freq, ?_, ?_⟩
  · rw [freqDrop_frame]
    rfl
  · rw [freqDrop_frame]
    unfold u
    rw [fatal_frame]
    rfl

/-! ### A monitor's sample (R465, R466, R469) -/

/-- The state as a sample leaves it once its trip has been looked at. -/
def sampleTrip (s : State) (m mv : Nat) : State :=
  if !(s.mon m).trip ∧ mv < s.pwr.tripMv then droopTrip s m
  else if (s.mon m).trip ∧ s.pwr.tripMv + s.pwr.hystMv < mv then droopClear s m else s

theorem droopCause_frame (m : Nat) : droopCause s m = { s with sch := (droopCause s m).sch } := by
  unfold droopCause
  split
  · rw [addCause_frame]
  · rfl

theorem droopTrip_frame (m : Nat) : droopTrip s m = { s.mapMon m fun x => { x with trip := true, tripAt := s.now + 1 } with
    sch := (droopTrip s m).sch, evr := (droopTrip s m).evr } := by
  unfold droopTrip
  rw [droopCause_frame, raise_frame]

/-- What the trip of a sample leaves of its monitor, of the others and of the rest (R465). -/
theorem sampleTrip_leaves (m mv : Nat) : ((sampleTrip s m mv).mon m).trip =
      (if mv < s.pwr.tripMv then true else if s.pwr.tripMv + s.pwr.hystMv < mv then false else (s.mon m).trip) ∧
    (s.pwr.tripMv ≤ mv → ((sampleTrip s m mv).mon m).tripAt = (s.mon m).tripAt) ∧ (∀ k, k ≠ m → (sampleTrip s m mv).mon k = s.mon k) ∧
    (sampleTrip s m mv).cores = s.cores ∧ (sampleTrip s m mv).pwr.throttle = s.pwr.throttle := by
  unfold sampleTrip
  split
  · next h =>
    rw [droopTrip_frame]
    refine ⟨?_, fun hmv => absurd h.2 (Nat.not_lt.2 hmv), fun k hk => State.mapMon_mon_ne _ m k (fun x => { x with trip := true, tripAt := s.now + 1 }) hk, rfl, rfl⟩
    rw [if_pos h.2]
    exact congrArg Monitor.trip (State.mapMon_mon_same (s := s) m fun x => { x with trip := true, tripAt := s.now + 1 })
  · next h =>
    have hold : mv < s.pwr.tripMv → (s.mon m).trip = true := fun hmv => by
      by_contra ht
      exact h ⟨by rw [Bool.eq_false_iff.2 ht]; rfl, hmv⟩
    split
    · next h2 =>
      have hmon : (droopClear s m).mon m = { s.mon m with trip := false } := State.mapMon_mon_same (s := s) m fun x => { x with trip := false }
      refine ⟨?_, fun _ => by rw [hmon], fun k hk => State.mapMon_mon_ne _ m k (fun x => { x with trip := false }) hk, rfl, rfl⟩
      rw [hmon, if_neg (by omega), if_pos h2.2]
    · next h2 =>
      refine ⟨?_, fun _ => rfl, fun _ _ => rfl, rfl, rfl⟩
      split
      · next hmv => exact hold hmv
      · split
        · next hmv => exact Bool.eq_false_iff.2 fun ht => h2 ⟨ht, hmv⟩
        · rfl

/-- The monitor as a sample leaves it. -/
def sampled (s : State) (m mv : Nat) (tempC : Int) (margin : Nat) (x : Monitor) : Monitor :=
  { x with vloc := min mv 1023, temp := min 255 (tempC + 40).toNat, hot := decide ((s.pwr.throttle : Int) ≤ tempC), allow := allowOf s m tempC margin, valid := true }

theorem monSample_monView (m mv : Nat) (tempC : Int) (margin : Nat) :
    monView (monSample s m mv tempC margin) = monView ((sampleTrip s m mv).mapMon m (sampled (sampleTrip s m mv) m mv tempC margin)) := by
  unfold monSample
  extract_lets old s1 hot s2 s3 crit s4 s5
  have h3 : monView s3 = monView s2 := State.cond_keeps s2 (fun t => monView t = monView s2) _ _ (fun _ => raise_monView ..) rfl
  have h4 : monView s4 = monView s3 := State.cond_keeps s3 (fun t => monView t = monView s3) _ _ (fun _ => rfl) rfl
  have h5 : monView s5 = monView s4 := State.cond_keeps s4 (fun t => monView t = monView s4) _ _ (fun _ => thermalTrip_monView _) rfl
  have h : monView (histNote (lowCheck (thermalRelease s5))) = monView s2 := calc
    monView (histNote (lowCheck (thermalRelease s5))) = monView (lowCheck (thermalRelease s5)) := rfl
    _ = monView s5 := lowCheck_monView.trans thermalRelease_monView
    _ = monView s2 := h5.trans (h4.trans h3)
  exact h

theorem allowOf_untripped {m margin : Nat} {tempC : Int} (h : (s.mon m).tripAt = 0) :
    allowOf s m tempC margin = min 127 (margin / 25) - (tempC - s.pwr.throttle).toNat := by
  unfold allowOf
  dsimp only
  rw [h, if_neg (fun h => absurd h.1 (Nat.lt_irrefl 0)), Nat.sub_zero]

/-! ### Causes that end -/

theorem droopClear_causes {m : Nat} :
    (∀ c ∈ s.sch.causes, (c.no ≠ 10 ∨ c.src ≠ m) → c ∈ (droopClear s m).sch.causes) ∧
    ∀ c ∈ s.sch.causes, c.no = 10 → c.src = m → c.untilW = none → { c with untilW := some (max (s.sch.wCycle + 4) (c.sinceW + 64)) } ∈ (droopClear s m).sch.causes := by
  refine ⟨fun c hc h => List.mem_map.2 ⟨c, hc, if_neg fun ⟨hno, hsrc, _⟩ => ?_⟩, fun c hc hno hsrc hu => List.mem_map.2 ⟨c, hc, if_pos ⟨hno, hsrc, hu⟩⟩⟩
  exact h.elim (absurd hno) (absurd hsrc)

theorem endCause_mem {n src d : Nat} {c : Cause} (hc : c ∈ s.sch.causes) (hno : c.no = n) (hsrc : c.src = src) (hu : c.untilW = none) :
    { c with untilW := some (s.sch.wCycle + d) } ∈ (endCause s n src d).sch.causes := List.mem_map.2 ⟨c, hc, if_pos ⟨hno, hsrc, hu⟩⟩

theorem hasCause_of_mem {c : Cause} {n : Nat} (hc : c ∈ s.sch.causes) (hno : c.no = n) : hasCause s n = true :=
  List.any_eq_true.2 ⟨c, hc, beq_iff_eq.2 hno⟩

/-! ### The Weir goes on (R472, R473) -/

/-- The frequency and the clocks of W-cycles and S-cycles. -/
def clockView (s : State) : Nat × Nat × Nat := (s.pwr.freq, s.sch.wCycle, s.sch.sCycle)

theorem addCause_clockView (n src : Nat) : clockView (addCause s n src) = clockView s := by
  unfold addCause
  split <;> rfl

theorem addCause_hasOther {n src m : Nat} (h : m ≠ n) : hasCause (addCause s n src) m = hasCause s m := by
  unfold addCause
  split
  · rfl
  · have hn : (n == m) = false := beq_eq_false_iff_ne.2 (Ne.symm h)
    unfold hasCause State.mapSch
    dsimp only
    rw [List.any_append, List.any_cons, hn, List.any_nil, Bool.or_false, Bool.or_false]

theorem debugHalt_entered (c : Nat) : (debugHalt s c).sch = (addCause s 12 0).sch ∧ (debugHalt s c).pwr = s.pwr := by
  refine ⟨?_, by rw [debugHalt_frame]⟩
  unfold debugHalt
  extract_lets id s1 s2 d s3 s4 s5
  have h5 : s5.sch = s4.sch := raise_sch ..
  have h3 : s3.sch = s.sch := setState0_sch ..
  have h4 : s4.sch = (addCause s 12 0).sch := by
    unfold s4 addCause
    rw [h3]
    split
    · exact h3
    · exact congrArg (fun k : Sched => ({ k with causes := k.causes ++ [{ no := 12, src := 0, sinceW := k.wCycle }] } : Sched)) h3
  exact h5.trans h4

/-- A halt of the debug module as a step begins leaves the clocks, and enters no cause but its own. -/
theorem weirDebug_clockView : clockView (weirDebug s) = clockView s ∧ hasCause (weirDebug s) 8 = hasCause s 8 := by
  have h (c : Nat) : clockView (debugHalt s c) = clockView s ∧ hasCause (debugHalt s c) 8 = hasCause s 8 := by
    obtain ⟨hsch, hpwr⟩ := debugHalt_entered (s := s) c
    refine ⟨?_, ?_⟩
    · have hp : (addCause s 12 0).pwr = s.pwr := by rw [addCause_frame]
      have e : clockView (debugHalt s c) = clockView (addCause s 12 0) := by
        unfold clockView
        rw [hsch, hpwr, hp]
      exact e.trans (addCause_clockView 12 0)
    · unfold hasCause
      rw [hsch]
      exact addCause_hasOther (by decide)
  unfold weirDebug
  split
  · exact h _
  · split
    · exact h 3
    · split
      · exact h 4
      · exact ⟨rfl, rfl⟩

theorem stepBegin_clockView : clockView (stepBegin s) = clockView s ∧ hasCause (stepBegin s) 8 = hasCause s 8 := by
  unfold stepBegin
  extract_lets s1 s2
  have h2 : s2.sch = s1.sch ∧ s2.pwr = s1.pwr := State.each_keeps s1 (fun t => t.sch = s1.sch ∧ t.pwr = s1.pwr) _ _ (fun t c h => h) ⟨rfl, rfl⟩
  obtain ⟨hclock, hcause⟩ := weirDebug_clockView (s := stepStart s2)
  have hv : clockView (stepStart s2) = clockView s := by
    have e : clockView (stepStart s2) = (s2.pwr.freq, s2.sch.wCycle, s2.sch.sCycle) := rfl
    rw [e, h2.1, h2.2]
    rfl
  have hc : hasCause (stepStart s2) 8 = hasCause s 8 := by
    have e : hasCause (stepStart s2) 8 = s2.sch.causes.any fun c => c.no == 8 := rfl
    rw [e, h2.1]
    rfl
  exact ⟨hclock.trans hv, hcause.trans hc⟩

theorem weirFrom9_clockView : clockView (weirFrom9 s) = clockView s ∧ hasCause (weirFrom9 s) 8 = hasCause s 8 := by
  unfold weirFrom9
  extract_lets e ch s1 s2 s3
  split
  · exact stepBegin_clockView
  · have hs : s2.sch = s1.sch := by
      unfold s2
      rw [raise_frame]
    have hp : s2.pwr = s1.pwr := by
      unfold s2
      rw [raise_frame]
    refine ⟨(addCause_clockView 9 0).trans ?_, (addCause_hasOther (by decide)).trans ?_⟩
    · have e : clockView (s3.mapSch fun k => { k with weirPhase := 10 }) = (s2.pwr.freq, s2.sch.wCycle, s2.sch.sCycle) := rfl
      rw [e, hs, hp]
      rfl
    · have e : hasCause (s3.mapSch fun k => { k with weirPhase := 10 }) 8 = s2.sch.causes.any fun c => c.no == 8 := rfl
      rw [e, hs]
      rfl

theorem weirFrom8_clockView : clockView (weirFrom8 s) = clockView s := by
  unfold weirFrom8
  split
  · exact addCause_clockView 8 0
  · exact weirFrom9_clockView.1

theorem weirFrom7_clockView : clockView (weirFrom7 s) = clockView s := by
  unfold weirFrom7
  split
  · exact weirFrom8_clockView
  · exact addCause_clockView 7 0

theorem weirResume_clockView : clockView (weirResume s) = clockView s := by
  unfold weirResume
  split
  · rfl
  · split
    · exact weirFrom7_clockView
    · exact weirFrom8_clockView
    · exact weirFrom9_clockView.1
    · exact stepBegin_clockView.1
    · rfl

theorem weirResume_hasCause (h : s.sch.weirPhase = 9) : hasCause (weirResume s) 8 = hasCause s 8 := by
  unfold weirResume
  split
  · rfl
  · rw [h]
    exact weirFrom9_clockView.2

/-! ### The idle feed (R506) -/

theorem feedMerge_idle (half : Bool) (e : Nat) (l : List FeedRec) : feedMerge half (.idle e) l = none := by
  induction l with
  | nil => rfl
  | cons r q ih =>
    unfold feedMerge
    rw [ih]
    cases r.body <;> rfl

theorem feedPut_idle (e : Nat) :
    feedPut s (.idle e) = { s with tru := { s.tru with feed := s.tru.feed ++ [{ seq := s.tru.feedSeq, body := .idle e }], feedSeq := s.tru.feedSeq + 1 } } := by
  unfold feedPut
  dsimp only
  rw [feedMerge_idle]

/-! ### The ledger (R468) -/

theorem allCool_iff : allCool s = true ↔ ∀ m, m < 64 → (s.mon m).valid = true → (s.mon m).temp + 10 ≤ s.pwr.crit + 40 := by
  unfold allCool
  rw [List.all_eq_true]
  refine ⟨fun h m hm hv => ?_, fun h m hm => ?_⟩
  · have := h m (List.mem_range.2 hm)
    rw [hv] at this
    exact of_decide_eq_true this
  · by_cases hv : (s.mon m).valid = true
    · rw [hv]
      exact decide_eq_true (h m (List.mem_range.1 hm) hv)
    · rw [Bool.eq_false_iff.2 hv]
      rfl

/-! ### A change of frequency (R463) and the thermal input (R464) -/

/-- The state as the frequency changes, before the Weir goes on. -/
def clockDropped (s : State) (f : Nat) : State :=
  dropCause ((freqSet s f).mapSch fun k => { k with
    wCycle := k.wCycle + cdiv ((s.now - s.pwr.changeAt) * f) 1000, eddyW := k.eddyW + cdiv ((s.now - s.pwr.changeAt) * f) 1000,
    perCause := (uniq (s.sch.causes.map (·.no))).foldl (fun m c => fset m 0 c (fget m 0 c + cdiv ((s.now - s.pwr.changeAt) * f) 1000)) k.perCause }) 8

theorem clockDropped_leaves (f : Nat) :
    clockView (clockDropped s f) = (f, s.sch.wCycle + ((s.fab.ftime - s.pwr.changeAt) * f + 999) / 1000, s.sch.sCycle) ∧
    (clockDropped s f).sch.weirPhase = s.sch.weirPhase ∧ hasCause (clockDropped s f) 8 = false := by
  unfold clockDropped
  refine ⟨?_, ?_, ?_⟩
  · rw [freqSet_eq]
    rfl
  · rw [freqSet_eq]
    rfl
  · rw [dropCause_hasCause, bne_self_eq_false, Bool.and_false]

theorem clockChanged_leaves (f : Nat) :
    clockView (weirResume (clockDropped s f)) = (f, s.sch.wCycle + ((s.fab.ftime - s.pwr.changeAt) * f + 999) / 1000, s.sch.sCycle) ∧
    (s.sch.weirPhase = 9 → hasCause (weirResume (clockDropped s f)) 8 = false) := by
  obtain ⟨hclock, hphase, hcause⟩ := clockDropped_leaves (s := s) f
  exact ⟨weirResume_clockView.trans hclock, fun h => (weirResume_hasCause (hphase.trans h)).trans hcause⟩

/-- The state as the thermal input has gone up, its interrupt source pending. -/
def thermIn (s : State) : State :=
  if !s.pins.thermIn then pendLine { s with pins := { s.pins with thermIn := true } } 13 6 else { s with pins := { s.pins with thermIn := true } }

theorem thermIn_eq : thermIn s = { s with pins := { s.pins with thermIn := true }, mgm := (thermIn s).mgm } := by
  unfold thermIn
  split
  · rw [pendLine_frame]
  · rfl

theorem thermIn_isrc : (s.pins.thermIn = false → ((thermIn s).isrc 214).pending = true) ∧ ∀ j, j ≠ 214 → (thermIn s).isrc j = s.isrc j := by
  obtain ⟨hpend, hother⟩ := pendLine_isrc (s := { s with pins := { s.pins with thermIn := true } }) (g := 13) (n := 6) (by decide)
  unfold thermIn
  refine ⟨fun h => ?_, fun j hj => ?_⟩
  · rw [h]
    exact hpend
  · split
    · exact hother j hj
    · rfl

theorem thermalRelease_leaves : (thermalRelease s).pins.thermIn = s.pins.thermIn ∧ (thermalRelease s).pwr.freq = s.pwr.freq ∧
    (allCool s = true → s.pins.thermIn = false → (thermalRelease s).pwr.tripped = false ∧ (thermalRelease s).pins.tempCrit = false) ∧
    (allCool s = false → (thermalRelease s).pwr.tripped = s.pwr.tripped ∧ (thermalRelease s).pins.tempCrit = s.pins.tempCrit) := by
  unfold thermalRelease
  dsimp only
  refine ⟨?_, ?_, fun hc hp => ?_, fun hc => ?_⟩
  · split <;> rfl
  · split <;> rfl
  · rw [hc, hp, if_pos ⟨rfl, rfl⟩]
    exact ⟨rfl, Bool.and_false _⟩
  · rw [hc, if_neg fun h => Bool.false_ne_true h.1]
    exact ⟨rfl, Bool.and_true _⟩

theorem stagesNow_of (hrun : s.dev.state ≠ .running) (hdrain : s.dev.state ≠ .draining) : stagesNow s = false := by
  unfold stagesNow
  cases h : s.dev.state <;> simp_all

end

/-- Settles O55. -/
theorem clocksAndPower : Obligations.ClocksAndPower := by
  intro s hoff
  have hpow : powered s = true := bne_iff_ne.2 hoff
  refine ⟨fun m mv tempC margin => ⟨fun hm => ?_, fun hm => if_neg (Nat.not_lt.2 hm)⟩,
    fun m => ⟨fun hm ht => ?_, fun hm ht => ?_, fun hm => if_neg (Nat.not_lt.2 hm)⟩,
    fun hidle => ⟨fun ht hf => ?_, fun hm ht hl hh h900 h1800 => ⟨fun hne => ?_, fun heq => ?_⟩⟩, fun hrun => ?_, fun f hf => ?_, fun hf => ?_, fun ht => ?_, ?_,
    fun b => ⟨fun hb => ?_, fun hb => ?_⟩, fun m mv => ?_, congrArg Host.Outcome.next (if_pos hpow), ?_, fun hrun hdrain hat => ?_, fun x => ?_⟩
  · obtain ⟨htrip, htripAt, hother, hcores, hthr⟩ := sampleTrip_leaves (s := s) m mv
    have hv := monSample_monView (s := s) m mv tempC margin
    generalize sampleTrip s m mv = u at *
    have hmon : (monSample s m mv tempC margin).mon m = sampled u m mv tempC margin (u.mon m) :=
      (monView_mon hv m).trans (State.mapMon_mon_same (s := u) m (sampled u m mv tempC margin))
    have hex : exec (.monitorSample m mv tempC margin) s = .next (monSample s m mv tempC margin) :=
      (if_pos hm).trans (congrArg Host.Outcome.next (if_pos hpow))
    refine ⟨_, hex, by rw [hmon]; rfl, by rw [hmon]; rfl, by rw [hmon]; rfl, by rw [hmon]; exact htrip, fun hmv hat => ?_, fun k hk => ?_,
      (monView_cores hv).trans hcores⟩
    · rw [hmon, ← hthr]
      exact allowOf_untripped ((htripAt hmv).trans hat)
    · exact (monView_mon hv k).trans ((State.mapMon_mon_ne u m k (sampled u m mv tempC margin) hk).trans (hother k hk))
  · obtain ⟨hkeep, hend⟩ := droopClear_causes (s := s) (m := m)
    exact ⟨_, (if_pos hm).trans (congrArg Host.Outcome.next (if_pos ht)), State.mapMon_mon_same (s := s) m fun x => { x with trip := false },
      fun k hk => State.mapMon_mon_ne _ m k (fun x => { x with trip := false }) hk, hkeep, hend⟩
  · exact (if_pos hm).trans (congrArg Host.Outcome.next (if_neg (by rw [ht]; exact Bool.false_ne_true)))
  · refine ⟨freqSet s 900, congrArg Host.Outcome.next ((if_pos hidle).trans ?_), by rw [freqSet_eq]⟩
    rw [freqNext_tripped ht hf]
  · refine congrArg Host.Outcome.next ((if_pos hidle).trans ?_)
    rw [freqNext_target hm ht hl hh h900 h1800, if_neg hne]
    dsimp only
    rw [freqSet_eq, if_pos rfl]
    rfl
  · refine congrArg Host.Outcome.next ((if_pos hidle).trans ?_)
    rw [freqNext_target hm ht hl hh h900 h1800, if_pos heq]
  · refine congrArg Host.Outcome.next (if_neg ?_)
    rw [hrun]
    decide
  · have hex : exec .clockChangeDone s = .next (weirResume (clockDropped s f)) := by
      unfold exec
      unfold execClockChangeDone
      rw [hf]
      rfl
    obtain ⟨hclock, hcause⟩ := clockChanged_leaves (s := s) f
    exact ⟨_, hex, congrArg Prod.fst hclock, congrArg (fun v : Nat × Nat × Nat => v.2.1) hclock, congrArg (fun v : Nat × Nat × Nat => v.2.2) hclock, hcause⟩
  · unfold exec
    unfold execClockChangeDone
    rw [hf]
  · have hex : exec (.thermalTrip true) s = .next (thermalTrip (thermIn s) [64]) := congrArg Host.Outcome.next
      ((if_neg (by rw [show powered { s with pins := { s.pins with thermIn := true } } = true from hpow]; decide)).trans ((if_pos rfl).trans (if_neg (by
        rw [show ({ s with pins := { s.pins with thermIn := true } } : State).cond (!s.pins.thermIn) (fun s => pendLine s 13 6) = thermIn s from rfl, thermIn_eq]
        dsimp only
        rw [ht]
        exact Bool.false_ne_true))))
    obtain ⟨htrip, hfreq, hdev, hframe⟩ := thermalTrip_leaves (s := thermIn s) [64]
    have hmgm : (thermalTrip (thermIn s) [64]).mgm = (thermIn s).mgm := by rw [hframe]
    obtain ⟨hpend, hother⟩ := thermIn_isrc (s := s)
    refine ⟨_, hex, htrip, hfreq, ?_, ?_, fun h => ?_, fun j hj => ?_, fun h => ?_⟩
    · rw [hframe, thermIn_eq]
    · rw [hframe, thermIn_eq]
    · rw [State.isrc, hmgm]
      exact hpend h
    · rw [State.isrc, hmgm]
      exact hother j hj
    · rw [hdev]
      refine fatal_state _ _ _ _ ?_
      rw [thermIn_eq]
      exact h
  · have hex : exec (.thermalTrip false) s = .next (thermalRelease { s with pins := { s.pins with thermIn := false } }) := congrArg Host.Outcome.next
      ((if_neg (by rw [show powered { s with pins := { s.pins with thermIn := false } } = true from hpow]; decide)).trans (if_neg Bool.false_ne_true))
    have hcool : allCool { s with pins := { s.pins with thermIn := false } } = allCool s := rfl
    obtain ⟨hin, hfreq, hyes, hno⟩ := thermalRelease_leaves (s := { s with pins := { s.pins with thermIn := false } })
    rw [hcool] at hyes hno
    refine ⟨_, hex, hin, hfreq, fun h => hyes (allCool_iff.2 h) rfl, fun ⟨m, hm, hv, htemp⟩ => hno (Bool.eq_false_iff.2 fun h => ?_)⟩
    have := allCool_iff.1 h m hm hv
    omega
  · have hevr : (raise { s with pins := { s.pins with pgWarn := b } } 0x0E0A 0x12 [if b then 1 else 0]) =
        { s with pins := { s.pins with pgWarn := b }, evr := (raise s 0x0E0A 0x12 [if b then 1 else 0]).evr } := by
      rw [raise_eq (s := s)] <;> rfl
    have hex : exec (.pgWarnEdge b) s = .next (pendLine (raise { s with pins := { s.pins with pgWarn := b } } 0x0E0A 0x12 [if b then 1 else 0]) 13 7) :=
      congrArg Host.Outcome.next (if_pos ⟨hpow, hb⟩)
    rw [hevr] at hex
    obtain ⟨hpend, hother⟩ := pendLine_isrc (s := { s with pins := { s.pins with pgWarn := b }, evr := (raise s 0x0E0A 0x12 [if b then 1 else 0]).evr })
      (g := 13) (n := 7) (by decide)
    refine ⟨_, hex, ?_, ?_, hpend, hother, ?_⟩ <;> rw [pendLine_eq]
  · refine congrArg Host.Outcome.next ((if_neg fun h => h.2 hb).trans ?_)
    rw [← hb]
  · have hex : exec (.ledgerUpdate m mv) s = .next (if hasCause (ledgerAdd s m mv) 9 ∧ admits (ledgerAdd s m mv) (ledgerAdd s m mv).pwr.need then
        endCause (ledgerAdd s m mv) 9 0 4 else ledgerAdd s m mv) := congrArg Host.Outcome.next (if_pos hpow)
    have hp : (if hasCause (ledgerAdd s m mv) 9 ∧ admits (ledgerAdd s m mv) (ledgerAdd s m mv).pwr.need then
        endCause (ledgerAdd s m mv) 9 0 4 else ledgerAdd s m mv).pwr = (ledgerAdd s m mv).pwr := by split <;> rfl
    refine ⟨_, hex, ?_, ?_, ?_, ?_, fun c hc hno hsrc hu hadm => ?_, fun hadm => ?_⟩
    · rw [hp]
      rfl
    · rw [hp]
      rfl
    · rw [hp]
      rfl
    · rw [hp]
      rfl
    · rw [hp] at hadm
      rw [Nat.cast_min] at hadm
      rw [if_pos ⟨hasCause_of_mem hc hno, decide_eq_true hadm⟩]
      exact endCause_mem (s := ledgerAdd s m mv) hc hno hsrc hu
    · rw [hp, Nat.cast_min] at hadm
      have hno : ¬ (hasCause (ledgerAdd s m mv) 9 = true ∧ admits (ledgerAdd s m mv) (ledgerAdd s m mv).pwr.need = true) := fun h => by
        have := of_decide_eq_true h.2
        exact absurd hadm (Int.not_lt.2 this)
      rw [if_neg hno]
      rfl
  · refine congrArg Host.Outcome.next ((if_pos hpow).trans ?_)
    dsimp only
    rw [if_neg Bool.false_ne_true, raise_eq (s := s)] <;> rfl
  · have hs : stagesNow s = false := stagesNow_of hrun hdrain
    refine congrArg Host.Outcome.next ((if_pos ⟨hpow, by rw [hs]; rfl, hat⟩).trans ?_)
    rw [feedPut_idle]
    rfl
  · refine congrArg Host.Outcome.next ((if_pos hpow).trans ?_)
    rw [raise_eq (s := s)] <;> rfl

end Sys2Proof.Machine
end

section
/-! PROOFS. Quotes, the feed and the statements of the Gauge (O57). -/
namespace Sys2Proof.Machine

section
variable {s t : State} {g : Gauge}

/-! ### Quotes (R513, R514) -/

theorem padTo_of_length {n : Nat} {l : List Byte} (h : l.length = n) : padTo n l = l := by
  rw [padTo, List.take_of_length_le h.le, h, Nat.sub_self, List.replicate_zero, List.append_nil]

/-- A quote carries its nonce (R514). -/
theorem quoteBody_nonce {nonce : List Byte} (h : nonce.length = 32) : ((quoteBody s nonce).drop 16).take 32 = nonce := by
  have hhead : (leBytes 4 0x51544F51 ++ leBytes 2 1 ++ leBytes 2 0xD009 ++ leBytes 1 (steppingByte s) ++ leBytes 1 (stateCode s.dev.state) ++
      leBytes 2 s.dev.lat ++ leBytes 4 0).length = 16 := by
    simp only [List.length_append, leBytes_length]
  unfold quoteBody
  rw [padTo_of_length h]
  simp only [List.append_assoc] at hhead ⊢
  generalize leBytes 4 0x51544F51 = a1 at *
  generalize leBytes 2 1 = a2 at *
  generalize leBytes 2 0xD009 = a3 at *
  generalize leBytes 1 (steppingByte s) = a4 at *
  generalize leBytes 1 (stateCode s.dev.state) = a5 at *
  generalize leBytes 2 s.dev.lat = a6 at *
  generalize leBytes 4 0 = a7 at *
  have hsplit (q : List Byte) : a1 ++ (a2 ++ (a3 ++ (a4 ++ (a5 ++ (a6 ++ (a7 ++ q)))))) = (a1 ++ (a2 ++ (a3 ++ (a4 ++ (a5 ++ (a6 ++ a7)))))) ++ q := by
    simp only [List.append_assoc]
  rw [hsplit, List.drop_left' hhead, List.take_left' h]

/-- What the signature of a quote leaves (R513, R516). -/
theorem quoteSign_leaves (h : s.tru.quoteSt = 1) : let t := quoteSign s
    t.tru.quoteSt = 2 ∧ t.tru.quote.take s.tru.quoteSnap.length = s.tru.quoteSnap ∧ t.tru.quote.length = s.tru.quoteSnap.length + 49856 ∧
    t.tru.quotes = sat32 s.tru.quotes ∧ t.tru.mr = s.tru.mr ∧ t.tru.log = s.tru.log ∧ t.evr = (raise s 0x1002 0x13 [t.tru.quotes]).evr := by
  have e : quoteSign s = { s with
      tru := { s.tru with quoteSt := 2, quote := s.tru.quoteSnap ++ slhSign slhF (attestKey s.tru.seed) s.tru.quoteSnap, quotes := sat32 s.tru.quotes }
      evr := (raise s 0x1002 0x13 [sat32 s.tru.quotes]).evr } := by
    unfold quoteSign
    rw [if_pos h]
    dsimp only
    rw [raise_eq (s := s)] <;> rfl
  dsimp only
  rw [e]
  refine ⟨rfl, List.take_left, ?_, rfl, rfl, rfl, rfl⟩
  rw [List.length_append, slhSign_length, slhLen_values.1]

theorem quoteSign_none (h : s.tru.quoteSt ≠ 1) : quoteSign s = s := if_neg h

/-! ### The feed (R519, R521, R522, R523) -/

theorem feedMerge_ident (half : Bool) (d : List Byte) (b : Nat) (l : List FeedRec) : feedMerge half (.ident d b) l = none := by
  induction l with
  | nil => rfl
  | cons r q ih =>
    unfold feedMerge
    rw [ih]
    cases r.body <;> rfl

theorem feedPut_ident (d : List Byte) (b : Nat) :
    feedPut s (.ident d b) = { s with tru := { s.tru with feed := s.tru.feed ++ [{ seq := s.tru.feedSeq, body := .ident d b }], feedSeq := s.tru.feedSeq + 1 } } := by
  unfold feedPut
  dsimp only
  rw [feedMerge_ident]

/-- The Gauge as it takes a record of the feed. -/
def feedInto (g : Gauge) (bs : List Byte) : Gauge :=
  if feedOk bs then feedCount (feedSeqCheck g (fieldAt bs 0 4) (fieldAt bs 4 1)) (fieldAt bs 4 1) ((bs.drop 8).take (fieldAt bs 6 2))
  else { g with badcrc := g.badcrc + 1, badE := sat32 g.badE }

theorem feedTake_gau (bs : List Byte) : (feedTake s bs).gau = if s.gau.on then feedInto s.gau bs else s.gau := by
  unfold feedTake
  extract_lets q u
  have hu : u.gau = s.gau := by
    unfold u
    split <;> rfl
  clear_value u
  rw [← hu]
  cases u.gau.on <;> rfl

theorem feedSeqCheck_keeps (q typ : Nat) : let h := feedSeqCheck g q typ
    h.ledger = g.ledger ∧ h.steps = g.steps ∧ h.tok = g.tok ∧ h.tokSum = g.tokSum ∧
    (typ ≠ 1 → h.seqExp = (q + 1) % 2 ^ 32 ∧ h.gaps = g.gaps + (q - g.seqExp)) := by
  unfold feedSeqCheck
  by_cases h : typ = 1 ∧ q = 0
  · rw [if_pos h]
    exact ⟨rfl, rfl, rfl, rfl, fun ht => absurd h.1 ht⟩
  · rw [if_neg h]
    exact ⟨rfl, rfl, rfl, rfl, fun _ => ⟨rfl, rfl⟩⟩

theorem feedInto_bad {bs : List Byte} (h : feedOk bs = false) : feedInto g bs = { g with badcrc := g.badcrc + 1, badE := sat32 g.badE } :=
  if_neg (by rw [h]; exact Bool.false_ne_true)

theorem feedInto_ok {bs : List Byte} {typ : Nat} (h : feedOk bs = true) (ht : fieldAt bs 4 1 = typ) :
    feedInto g bs = feedCount (feedSeqCheck g (fieldAt bs 0 4) typ) typ ((bs.drop 8).take (fieldAt bs 6 2)) := by
  rw [feedInto, if_pos h, ht]

theorem feedCount_idle (p : List Byte) : feedCount g 3 p = { g with ledger := g.ledger + fieldAt p 0 8 } := rfl

theorem feedCount_step (p : List Byte) : feedCount g 2 p =
    { g with ledger := g.ledger + fieldAt p 8 8, steps := g.steps ++ [(fieldAt p 8 8, (List.range 128).map fun i => fieldAt p (20 + 2 * i) 2)] } := rfl

/-- A commit of one pair adds its tokens (R522). -/
theorem feedCount_commit {p : List Byte} (h : fieldAt p 8 2 = 1) : feedCount g 4 p = { g with
    tok := fset g.tok 0 (fieldAt p 12 2) (fget g.tok 0 (fieldAt p 12 2) + fieldAt p 16 4),
    tokSum := fset g.tokSum 0 (fieldAt p 12 2) (fget g.tokSum 0 (fieldAt p 12 2) + fieldAt p 16 4) } := by
  show (List.range (fieldAt p 8 2)).foldl _ g = _
  rw [h]
  rfl

theorem fget_fset_add (m : FMap Nat) (i n k : Nat) : fget (fset m 0 i (fget m 0 i + n)) 0 k = fget m 0 k + if k = i then n else 0 := by
  by_cases h : k = i
  · rw [h, fget_fset_same, if_pos rfl]
  · rw [fget_fset_ne _ _ _ _ _ _ h, if_neg h, Nat.add_zero]

theorem feedIdle_leaves (q : Nat) (p : List Byte) : let h := feedCount (feedSeqCheck g q 3) 3 p
    h.ledger = g.ledger + fieldAt p 0 8 ∧ h.seqExp = (q + 1) % 2 ^ 32 ∧ h.gaps = g.gaps + (q - g.seqExp) ∧ h.tok = g.tok ∧ h.steps = g.steps := by
  obtain ⟨hled, hsteps, htok, -, hseq⟩ := feedSeqCheck_keeps (g := g) q 3
  obtain ⟨hexp, hgaps⟩ := hseq (by decide)
  generalize feedSeqCheck g q 3 = k at *
  dsimp only
  rw [feedCount_idle]
  refine ⟨?_, hexp, hgaps, htok, hsteps⟩
  rw [hled]

theorem feedStep_leaves (q : Nat) (p : List Byte) : let h := feedCount (feedSeqCheck g q 2) 2 p
    h.ledger = g.ledger + fieldAt p 8 8 ∧ h.steps = g.steps ++ [(fieldAt p 8 8, (List.range 128).map fun i => fieldAt p (20 + 2 * i) 2)] := by
  obtain ⟨hled, hsteps, -⟩ := feedSeqCheck_keeps (g := g) q 2
  generalize feedSeqCheck g q 2 = k at *
  dsimp only
  rw [feedCount_step]
  refine ⟨?_, ?_⟩
  · rw [hled]
  · rw [hsteps]

theorem feedCommit_leaves (q : Nat) {p : List Byte} (hone : fieldAt p 8 2 = 1) : let h := feedCount (feedSeqCheck g q 4) 4 p
    (∀ k, fget h.tok 0 k = fget g.tok 0 k + if k = fieldAt p 12 2 then fieldAt p 16 4 else 0) ∧
    (∀ k, fget h.tokSum 0 k = fget g.tokSum 0 k + if k = fieldAt p 12 2 then fieldAt p 16 4 else 0) ∧ h.ledger = g.ledger := by
  obtain ⟨hled, -, htok, hsum, -⟩ := feedSeqCheck_keeps (g := g) q 4
  generalize feedSeqCheck g q 4 = k at *
  dsimp only
  rw [feedCount_commit hone]
  refine ⟨fun k => (fget_fset_add ..).trans ?_, fun k => (fget_fset_add ..).trans ?_, hled⟩
  · rw [htok]
  · rw [hsum]

/-! ### Energy of a tenant (R523) -/

theorem lcm_foldl_dvd (l : List Nat) (a n : Nat) (h : n ∣ a ∨ ∃ i ∈ l, n = i + 1) : n ∣ l.foldl (fun a i => Nat.lcm a (i + 1)) a := by
  induction l generalizing a with
  | nil => exact h.resolve_right fun ⟨i, hi, _⟩ => absurd hi List.not_mem_nil
  | cons x l ih =>
    refine ih _ ?_
    obtain h | ⟨i, hi, hn⟩ := h
    · exact .inl (h.trans (Nat.dvd_lcm_left a (x + 1)))
    · obtain rfl | hi := List.mem_cons.1 hi
      · exact .inl (hn ▸ Nat.dvd_lcm_right a (i + 1))
      · exact .inr ⟨i, hi, hn⟩

theorem lcm_foldl_pos (l : List Nat) (a : Nat) (h : 0 < a) : 0 < l.foldl (fun a i => Nat.lcm a (i + 1)) a := by
  induction l generalizing a with
  | nil => exact h
  | cons x l ih => exact ih _ (Nat.lcm_pos h (Nat.succ_pos x))

theorem dvd_occLcm {n : Nat} (h1 : 1 ≤ n) (h128 : n ≤ 128) : n ∣ occLcm :=
  lcm_foldl_dvd _ _ _ (.inr ⟨n - 1, List.mem_range.2 (by omega), by omega⟩)

theorem occLcm_pos : 0 < occLcm := lcm_foldl_pos _ _ (Nat.one_pos)

/-- A tenant's energy of one step is its share of the step's occupied slots (R523). -/
theorem tenantNrg_one {e n k : Nat} {ts : List Nat} (hsteps : g.steps = [(e, ts)]) (hl : g.ledger = e) (he : 0 < e) (hts : ts.length ≤ 128)
    (hocc : ∃ u ∈ ts, u ≠ 0xFFFF) : tenantNrg g n k = n * (ts.filter fun u => u == k).length / (ts.filter fun u => u != 0xFFFF).length := by
  have hpos : 0 < occOf ts := by
    obtain ⟨u, hu, hne⟩ := hocc
    exact List.length_pos_of_mem (List.mem_filter.2 ⟨hu, bne_iff_ne.2 hne⟩)
  have hle : occOf ts ≤ 128 := (List.length_filter_le _ _).trans hts
  obtain ⟨q, hq⟩ := dvd_occLcm hpos hle
  have hqpos : 0 < q := Nat.pos_of_mul_pos_left (hq ▸ occLcm_pos)
  have hw : tenantW g k = e * (ts.filter fun u => u == k).length * q := by
    unfold tenantW
    rw [hsteps]
    simp only [List.map_cons, List.map_nil, sumN, List.foldl_cons, List.foldl_nil, Nat.zero_add]
    rw [if_neg hpos.ne', hq, Nat.mul_div_cancel_left _ hpos]
  rw [tenantNrg, hl, if_neg he.ne', hw, hq]
  show _ = n * (ts.filter fun u => u == k).length / occOf ts
  calc n * (e * (ts.filter fun u => u == k).length * q) / (e * (occOf ts * q))
      = (e * q) * (n * (ts.filter fun u => u == k).length) / ((e * q) * occOf ts) := by congr 1 <;> ring
    _ = n * (ts.filter fun u => u == k).length / occOf ts := Nat.mul_div_mul_left _ _ (Nat.mul_pos he hqpos)

/-! ### Statements (R524, R526) -/

theorem fieldAt_skip {p : List Byte} {k : Nat} (h : p.length = k) (q : List Byte) (o n : Nat) : fieldAt (p ++ q) (k + o) n = fieldAt q o n := by
  subst h
  exact fieldAt_append_right p q o n

/-- The energy and the flags of a statement, at their places (R524). -/
theorem statementBody_fields (flags e tend : Nat) (ns : FMap Nat) : fieldAt (statementBody g flags e tend ns) 112 8 = e % 2 ^ 64 ∧
    fieldAt (statementBody g flags e tend ns) 6 2 = flags % 2 ^ 16 := by
  unfold statementBody
  extract_lets ts spent
  generalize (ts.map _).flatten = tail
  generalize e - spent = rest
  simp only [List.append_assoc]
  refine ⟨?_, ?_⟩
  · rw [fieldAt_skip (leBytes_length 4 _) _ 108, fieldAt_skip (leBytes_length 2 _) _ 106, fieldAt_skip (leBytes_length 2 _) _ 104,
      fieldAt_skip (padTo_length 16 _) _ 88, fieldAt_skip (leBytes_length 8 _) _ 80, fieldAt_skip (leBytes_length 8 _) _ 72,
      fieldAt_skip (leBytes_length 8 _) _ 64, fieldAt_skip (padTo_length 32 _) _ 32, fieldAt_skip List.length_replicate _ 0, fieldAt_leBytes]
    norm_num
  · rw [fieldAt_skip (leBytes_length 4 _) _ 2, fieldAt_skip (leBytes_length 2 _) _ 0, fieldAt_leBytes]
    norm_num

/-- What the close of an interval leaves (R524). -/
theorem intervalClose_leaves (e tend : Nat) (request selfOk : Bool) : ∃ x, (intervalClose g e tend request selfOk).toSign = g.toSign ++ [x] ∧ x.seq = g.seq ∧
    fieldAt x.body 112 8 = e % 2 ^ 64 ∧ (request = true → (fieldAt x.body 6 2).testBit 1 = true) ∧
    intervalClose g e tend request selfOk = { g with
      toSign := g.toSign ++ [x], seq := g.seq + 1, nrgSum := (intervalClose g e tend request selfOk).nrgSum, tok := [], steps := [], ledger := 0, gaps := 0, badcrc := 0, tstart := tend
      flags := (intervalClose g e tend request selfOk).flags } := by
  refine ⟨_, rfl, rfl, (statementBody_fields ..).1, fun hr => ?_, rfl⟩
  rw [(statementBody_fields ..).2, hr, Nat.testBit_mod_two_pow, Nat.testBit_or, Nat.testBit_or, if_pos rfl, show Nat.testBit 2 1 = true from rfl]
  simp

/-- The Gauge once it has been asked to close its interval. -/
def closeAsked (x : Gauge) (v : BitVec 8) (e : Nat) (selfOk : Bool) : Gauge :=
  let ab := firstAbort [(v == 1#8, abBADVALUE), (x.seq == 0 || decide (x.tstart + 1000 ≤ x.time), abNOTAVAIL)]
  let x := if ab = 0 then intervalClose x e x.time true selfOk else x
  { x with resp := x.resp ++ [{ path := .segment, typ := 0x382, index := 0x9030, abort := ab }] }

theorem closeAsked_done {v : BitVec 8} {e : Nat} {selfOk : Bool} (hv : v = 1#8) (h : g.seq = 0 ∨ g.tstart + 1000 ≤ g.time) :
    closeAsked g v e selfOk = { intervalClose g e g.time true selfOk with
      resp := g.resp ++ [{ path := .segment, typ := 0x382, index := 0x9030 }] } := by
  have hb : (g.seq == 0 || decide (g.tstart + 1000 ≤ g.time)) = true := by
    rw [Bool.or_eq_true, beq_iff_eq, decide_eq_true_iff]
    exact h
  unfold closeAsked
  rw [hv, hb]
  rfl

theorem closeAsked_badValue {v : BitVec 8} {e : Nat} {selfOk : Bool} (hv : v ≠ 1#8) :
    closeAsked g v e selfOk = { g with resp := g.resp ++ [{ path := .segment, typ := 0x382, index := 0x9030, abort := 0x06090030 }] } := by
  unfold closeAsked
  rw [beq_eq_false_iff_ne.2 hv]
  rfl

theorem closeAsked_early {v : BitVec 8} {e : Nat} {selfOk : Bool} (hv : v = 1#8) (hq : 0 < g.seq) (h : g.time < g.tstart + 1000) :
    closeAsked g v e selfOk = { g with resp := g.resp ++ [{ path := .segment, typ := 0x382, index := 0x9030, abort := 0x08000023 }] } := by
  have hb : (g.seq == 0 || decide (g.tstart + 1000 ≤ g.time)) = false := by
    rw [Bool.or_eq_false_iff, beq_eq_false_iff_ne, decide_eq_false_iff_not]
    exact ⟨hq.ne', Nat.not_le.2 h⟩
  unfold closeAsked
  rw [hv, hb]
  rfl

/-- What the signature of a statement leaves (R526). -/
theorem statementSign_leaves {x : Statement} {r : List Statement} (h : g.toSign = x :: r) (hlen : 80 ≤ x.body.length) : let k := statementSign g
    k.toSign = r ∧ k.last = x.seq ∧ fget k.places [] (x.seq % 32 + 1) = k.prev ∧ k.prev.take 80 = x.body.take 80 ∧
    (∀ j, j ≠ x.seq % 32 + 1 → fget k.places [] j = fget g.places [] j) ∧ k.seq = g.seq := by
  unfold statementSign
  rw [h]
  dsimp only
  refine ⟨rfl, rfl, fget_fset_same .., ?_, fun j hj => fget_fset_ne _ _ _ _ _ _ hj, rfl⟩
  rw [List.append_assoc, List.append_assoc, List.take_left' (by rw [List.length_take]; omega)]

/-! ### The mirror (R527) -/

theorem mirrorCopy_leaves : (mirrorCopy s).gau = { s.gau with mirror := gaugeObjs s.gau, mirrorAt := s.now, mirrorLate := false } ∧ (mirrorCopy s).tru = s.tru := by
  unfold mirrorCopy
  extract_lets old new u fresh
  refine State.each_keeps u (fun t => t.gau = u.gau ∧ t.tru = u.tru) _ _ (fun t p h => ?_) ⟨rfl, rfl⟩
  obtain ⟨hg, ht⟩ := h
  split
  · exact ⟨hg, ht⟩
  · rw [raise_frame]
    exact ⟨hg, ht⟩

end

/-- Settles O57. -/
theorem quotesAndStatements : Obligations.QuotesAndStatements := by
  intro s
  have hpow (h : s.dev.state ≠ .off) : powered s = true := bne_iff_ne.2 h
  have hgau (h : s.gau.on = true) (f : Gauge → Gauge) : (if s.gau.on then s.mapGau f else s) = { s with gau := f s.gau } := if_pos h
  refine ⟨fun p nonce h hlen => ⟨fun hst => ?_, fun hst => ?_⟩, fun hoff hst => ⟨_, congrArg Host.Outcome.next (if_pos (hpow hoff)), quoteSign_leaves hst⟩, fun hst => ?_,
    fun hat => ?_, fun hoff hat => ?_, fun hon => ?_, fun hon => congrArg Host.Outcome.next (if_pos hon), fun bs hon => ?_, fun bs hon => ?_,
    fun e g ts k hsteps hl he hts hocc hk => tenantNrg_one hsteps hl he hts hocc, fun g ok ht => ?_, fun g ok hon ht => ?_,
    fun v g ok hon => ?_, fun hon => ⟨fun x r hx hlen => ?_, fun hx => ?_⟩,
    fun hoff hboot => ⟨fun hon => ?_, fun hat hlate => ?_, fun hat => ?_⟩, fun hon => ?_, fun hon => ?_, fun hon => ?_, rfl⟩
  · have hb : (s.tru.quoteSt != 1) = true := bne_iff_ne.2 hst
    have he : firstAbort [(decide (nonce.length ≤ 32), abPASTEND), (nonce.length == 32, abBADLEN), (s.tru.quoteSt != 1, abNOTAVAIL)] = 0 := by
      rw [hlen, hb]
      rfl
    have hex : exec (.quoteRequest p nonce) s = .next (okResp (quoteStart s nonce) p 0x802000) := congrArg Host.Outcome.next (odReq_done h rfl he)
    refine ⟨_, hex, okResp_granted .., ?_, ?_, rfl⟩
    · rw [okResp_tru]
      rfl
    · rw [okResp_tru]
      exact quoteBody_nonce hlen
  · have hb : (s.tru.quoteSt != 1) = false := by rw [hst]; rfl
    have he : firstAbort [(decide (nonce.length ≤ 32), abPASTEND), (nonce.length == 32, abBADLEN), (s.tru.quoteSt != 1, abNOTAVAIL)] = abNOTAVAIL := by
      rw [hlen, hb]
      rfl
    exact ⟨_, congrArg Host.Outcome.next (odReq_fails h he (by decide)), refuse_denied .., refuse_tru ..⟩
  · refine congrArg Host.Outcome.next ?_
    split
    · exact quoteSign_none hst
    · rfl
  · exact congrArg Host.Outcome.next (if_neg fun h => absurd h.2 (Nat.not_le.2 hat))
  · refine congrArg Host.Outcome.next ((if_pos ⟨hpow hoff, hat⟩).trans ?_)
    rw [feedPut_ident]
    rfl
  · exact ⟨_, congrArg Host.Outcome.next (if_neg (by rw [hon]; exact Bool.false_ne_true)), rfl, rfl, rfl, rfl, rfl, rfl, rfl, rfl, rfl, rfl, rfl⟩
  · have hg : (feedTake s bs).gau = feedInto s.gau bs := (feedTake_gau bs).trans (if_pos hon)
    refine ⟨fun hbad => ⟨_, rfl, hg.trans (feedInto_bad hbad)⟩, fun hok ht => ⟨_, rfl, ?_⟩, fun hok ht => ⟨_, rfl, ?_⟩, fun hok ht hone => ⟨_, rfl, ?_⟩⟩
    · rw [hg, feedInto_ok hok ht]
      exact feedIdle_leaves ..
    · rw [hg, feedInto_ok hok ht]
      exact feedStep_leaves ..
    · rw [hg, feedInto_ok hok ht]
      exact feedCommit_leaves _ hone
  · exact ⟨_, rfl, (feedTake_gau bs).trans (if_neg (by rw [hon]; exact Bool.false_ne_true))⟩
  · have hc : closeRegular s.gau g ok = s.gau := if_neg (Nat.not_le.2 ht)
    refine congrArg Host.Outcome.next ?_
    split
    · rw [State.mapGau, hc]
    · rfl
  · have hc : closeRegular s.gau g ok = intervalClose s.gau g (s.gau.tstart + 60000) false ok := if_pos ht
    obtain ⟨x, hsign, hseq, he, -, hall⟩ := intervalClose_leaves (g := s.gau) g (s.gau.tstart + 60000) false ok
    have hex : exec (.gaugeIntervalClose g ok) s = .next { s with gau := intervalClose s.gau g (s.gau.tstart + 60000) false ok } :=
      congrArg Host.Outcome.next ((hgau hon _).trans (by rw [hc]))
    refine ⟨_, x, hex, hsign, hseq, he, ?_⟩
    generalize intervalClose s.gau g (s.gau.tstart + 60000) false ok = y at *
    rw [hall]
    exact ⟨rfl, rfl, rfl, rfl, rfl, rfl, rfl, rfl, rfl⟩
  · have hex : exec (.gaugeCloseRequest v g ok) s = .next { s with gau := closeAsked s.gau v g ok } := congrArg Host.Outcome.next (if_neg (by rw [hon]; decide))
    refine ⟨fun hv ht => ?_, fun hv => ?_, fun hv hq ht => ?_⟩
    · obtain ⟨x, hsign, hseq, -, hbit, hall⟩ := intervalClose_leaves (g := s.gau) g s.gau.time true ok
      rw [closeAsked_done hv ht] at hex
      refine ⟨_, x, hex, hsign, hseq, hbit rfl, ?_⟩
      generalize intervalClose s.gau g s.gau.time true ok = y at *
      rw [hall]
      exact ⟨rfl, rfl, rfl⟩
    · rw [hex, closeAsked_badValue hv]
    · rw [hex, closeAsked_early hv hq ht]
  · exact ⟨_, congrArg Host.Outcome.next (hgau hon _), statementSign_leaves hx hlen⟩
  · refine congrArg Host.Outcome.next ((hgau hon _).trans ?_)
    unfold statementSign
    rw [hx]
  · exact ⟨_, congrArg Host.Outcome.next ((if_neg fun h => h.elim hoff hboot).trans (if_pos ⟨rfl, hon⟩)), mirrorCopy_leaves⟩
  · refine congrArg Host.Outcome.next ((if_neg fun h => h.elim hoff hboot).trans ((if_neg fun h => Bool.false_ne_true h.1).trans ((if_pos ⟨hat, by rw [hlate]; rfl⟩).trans ?_)))
    rw [raise_eq (s := s)] <;> rfl
  · exact congrArg Host.Outcome.next ((if_neg fun h => h.elim hoff hboot).trans ((if_neg fun h => Bool.false_ne_true h.1).trans
      (if_neg fun h => absurd h.1 (Nat.not_le.2 hat))))
  · exact ⟨_, congrArg Host.Outcome.next (if_pos hon), rfl, rfl, rfl, rfl, rfl, rfl, rfl, rfl⟩
  · exact congrArg Host.Outcome.next (if_neg (by rw [hon]; exact Bool.false_ne_true))
  · refine congrArg Host.Outcome.next ?_
    unfold State.mapGau
    dsimp only
    rw [if_pos hon]

end Sys2Proof.Machine
end

section
/-! PROOFS. Debug access and scan (O58). -/
namespace Sys2Proof.Machine

section
variable {s t : State} {p : Path}

/-! ### Halts and resumption (R544, R545) -/

theorem measureDebug_log (k : Nat) : (measureDebug s k).tru.logSeq = s.tru.logSeq + 1 ∧
    ((measureDebug s k).tru.log.getLast?.map fun e => (e.typ, e.mr)) = some (0x70, 7) := by
  unfold measureDebug measure
  obtain ⟨hseq, hlast⟩ := extendMR_log (s := s) 0x70 7 0 [] (leBytes 2 k)
  rw [hlast]
  exact ⟨hseq, rfl⟩

theorem addCause_entered (n src : Nat) : hasCause (addCause s n src) n = true := (addCause_causes s n src).choose_spec.2

theorem setState0_halted (h : s.dev.state ≠ .halted) :
    (setState0 s .halted).dev = { s.dev with state := .halted, saved := stateCode s.dev.state } := by
  unfold setState0
  dsimp only
  rw [if_neg (Ne.symm h), if_neg DevState.noConfusion, raise_dev]
  rfl

/-- The device and the debug record as a halt of the debug module leaves them. -/
theorem debugHalt_records (c : Nat) (h : s.dev.state ≠ .halted) :
    (debugHalt s c).dev = { s.dev with haltId := 0x1106, dbgHalt := true, state := .halted, saved := stateCode s.dev.state } ∧
    (debugHalt s c).dbg = { s.dbg with cause := c, haltS := none, haltWeir := none } := by
  unfold debugHalt
  extract_lets id s1 s2 d s3 s4 s5
  have h5 : s5.dev = s3.dev ∧ s5.dbg = s3.dbg := by
    have hr : s5.dev = s4.dev ∧ s5.dbg = s4.dbg := ⟨raise_dev .., raise_dbg ..⟩
    have ha : s4.dev = s3.dev ∧ s4.dbg = s3.dbg := ⟨addCause_dev .., addCause_dbg ..⟩
    exact ⟨hr.1.trans ha.1, hr.2.trans ha.2⟩
  have hd3 : s3.dev = { s.dev with haltId := 0x1106, dbgHalt := true, state := .halted, saved := stateCode s.dev.state } := setState0_halted (s := s1) h
  have hb3 : s3.dbg = { s.dbg with cause := c, haltS := none, haltWeir := none } :=
    congrArg (fun x : Debug => ({ x with cause := c, haltS := none, haltWeir := none } : Debug)) (setState0_dbg s1 .halted)
  clear_value s5
  exact ⟨h5.1.trans hd3, h5.2.trans hb3⟩

theorem debugHalt_log (c : Nat) : ((debugHalt s c).tru.log.getLast?.map fun e => (e.typ, e.mr)) = some (0x70, 7) := by
  unfold debugHalt
  exact (measureDebug_log 2).2

theorem debugHalt_hasCause (c : Nat) : hasCause (debugHalt s c) 12 = true := by
  unfold hasCause
  rw [(debugHalt_entered c).1]
  exact addCause_entered 12 0

/-- What a halt of the debug module leaves (R544). -/
theorem debugHalt_leaves (c : Nat) (h : s.dev.state ≠ .halted) : let t := debugHalt s c
    t.dev.state = .halted ∧ t.dev.saved = stateCode s.dev.state ∧ t.dev.dbgHalt = true ∧ t.dbg.cause = c ∧ t.dbg.ir = s.dbg.ir ∧ hasCause t 12 = true ∧
    t.cores = s.cores ∧ t.sch.sCycle = s.sch.sCycle ∧ (t.tru.log.getLast?.map fun e => (e.typ, e.mr)) = some (0x70, 7) := by
  obtain ⟨hdev, hdbg⟩ := debugHalt_records (s := s) c h
  have hcycle : (debugHalt s c).sch.sCycle = s.sch.sCycle := by rw [debugHalt_sch]
  refine ⟨?_, ?_, ?_, ?_, ?_, debugHalt_hasCause c, debugHalt_cores .., hcycle, debugHalt_log c⟩
  · rw [hdev]
  · rw [hdev]
  · rw [hdev]
  · rw [hdbg]
  · rw [hdbg]

/-- What a resumption leaves (R544). -/
theorem dbgResume_leaves : let t := dbgResume s
    t.dev.state = (if s.dev.saved = 6 then .draining else .running) ∧ t.dev.dbgHalt = false ∧ t.dbg = s.dbg ∧ t.sch.sCycle = s.sch.sCycle ∧
    ∀ c ∈ s.sch.causes, c.no = 12 → c.src = 0 → c.untilW = none → { c with untilW := some (s.sch.wCycle + 4) } ∈ t.sch.causes := by
  have e : dbgResume s = endCause ((setState0 s (if s.dev.saved = 6 then .draining else .running)).mapDev fun d => { d with dbgHalt := false }) 12 0 4 := rfl
  have hstate := setState0_state s (if s.dev.saved = 6 then .draining else .running)
  have hdbg := setState0_dbg s (if s.dev.saved = 6 then .draining else .running)
  have hsch := setState0_sch s (if s.dev.saved = 6 then .draining else .running)
  rw [e]
  generalize setState0 s (if s.dev.saved = 6 then .draining else .running) = n at *
  have hcycle : n.sch.sCycle = s.sch.sCycle := by rw [hsch]
  refine ⟨hstate, rfl, hdbg, hcycle, fun c hc hno hsrc hu => ?_⟩
  rw [← hsch] at hc ⊢
  exact endCause_mem (s := n.mapDev fun d => { d with dbgHalt := false }) hc hno hsrc hu

theorem dbgLive_running (h : dbgLive s = true) : s.dev.busy = false ∧ (s.dev.state = .running ∨ s.dev.state = .draining) := by
  unfold dbgLive at h
  rw [Bool.and_eq_true, Bool.or_eq_true, beq_iff_eq, beq_iff_eq, Bool.not_eq_true'] at h
  exact h

theorem dbgLive_not_halted (h : dbgLive s = true) : s.dev.state ≠ .halted := by
  obtain h | h := (dbgLive_running h).2 <;> rw [h] <;> decide

theorem dbgHeld_halted (h : dbgHeld s = true) : s.dev.state = .halted := by
  unfold dbgHeld at h
  rw [Bool.and_eq_true, Bool.and_eq_true, beq_iff_eq] at h
  exact h.1.2

theorem dbgLive_of (hr : sRun s = true) (hb : s.dev.busy = false) : dbgLive s = true := by
  unfold sRun at hr
  rw [Bool.and_eq_true, Bool.and_eq_true] at hr
  unfold dbgLive
  rw [hb, hr.1.2]
  rfl

/-! ### A write of debug data (R546, R547) -/

/-- A scalar with byte `j` replaced. -/
def bytePut (w : BitVec 32) (j : Nat) (v : Byte) : BitVec 32 :=
  BitVec.ofNat 32 (w.toNat - bits w.toNat (8 * j + 7) (8 * j) * 2 ^ (8 * j) + v.toNat * 2 ^ (8 * j))

theorem bits_eq (n hi lo : Nat) : bits n hi lo = n / 2 ^ lo % 2 ^ (hi + 1 - lo) := by
  rw [bits, Nat.shiftRight_eq_div_pow]

theorem dbgPut_scalar {c r j : Nat} {v : Byte} {k : Core} (h0 : 0 < r) (h32 : r < 32) (hj : j < 4) :
    dbgPut 4 c (4 * r + j) v k = { k with sregs := fset k.sregs 0#32 r (bytePut (fget k.sregs 0#32 r) j v) } := by
  have hdiv : (4 * r + j) / 4 = r := by omega
  have hmod : (4 * r + j) % 4 = j := by omega
  have hin : 4 ≤ 4 * r + j ∧ 4 * r + j < 128 := by omega
  have e : dbgPut 4 c (4 * r + j) v k = if 4 ≤ 4 * r + j ∧ 4 * r + j < 128 then
      { k with sregs := fset k.sregs 0#32 ((4 * r + j) / 4) (bytePut (fget k.sregs 0#32 ((4 * r + j) / 4)) ((4 * r + j) % 4) v) } else k := rfl
  rw [e, if_pos hin, hdiv, hmod]

/-- A scalar whose four bytes are replaced is their value. -/
theorem bytePut_all (w : BitVec 32) (b0 b1 b2 b3 : Byte) :
    bytePut (bytePut (bytePut (bytePut w 0 b0) 1 b1) 2 b2) 3 b3 = BitVec.ofNat 32 (leNat [b0, b1, b2, b3]) := by
  have hput (w : BitVec 32) (j : Nat) (v : Byte) : (bytePut w j v).toNat =
      (w.toNat - w.toNat / 2 ^ (8 * j) % 256 * 2 ^ (8 * j) + v.toNat * 2 ^ (8 * j)) % 2 ^ 32 := by
    rw [bytePut, BitVec.toNat_ofNat, bits_eq, show 8 * j + 7 + 1 - 8 * j = 8 by omega]
    rfl
  apply BitVec.eq_of_toNat_eq
  rw [hput, hput, hput, hput, BitVec.toNat_ofNat]
  have hw := w.isLt
  have h0 := b0.isLt
  have h1 := b1.isLt
  have h2 := b2.isLt
  have h3 := b3.isLt
  simp only [leNat]
  generalize w.toNat = n at *
  generalize b0.toNat = n0 at *
  generalize b1.toNat = n1 at *
  generalize b2.toNat = n2 at *
  generalize b3.toNat = n3 at *
  norm_num
  omega

/-- The four bytes of a scalar are put in its place. -/
theorem dbgPut_word {c r : Nat} {bs : List Byte} (k : Core) (h0 : 0 < r) (h32 : r < 32) (hlen : bs.length = 4) :
    ((List.range bs.length).foldl (fun (k : Core) i => dbgPut 4 c (4 * r + i) (byteAt bs i) k) k).sregs =
      fset (fset (fset (fset k.sregs 0#32 r (bytePut (fget k.sregs 0#32 r) 0 (byteAt bs 0))) 0#32 r
        (bytePut (bytePut (fget k.sregs 0#32 r) 0 (byteAt bs 0)) 1 (byteAt bs 1))) 0#32 r
        (bytePut (bytePut (bytePut (fget k.sregs 0#32 r) 0 (byteAt bs 0)) 1 (byteAt bs 1)) 2 (byteAt bs 2))) 0#32 r (BitVec.ofNat 32 (leNat bs)) := by
  obtain ⟨b0, b1, b2, b3, rfl⟩ := List.length_eq_four.1 hlen
  show (dbgPut 4 c (4 * r + 3) b3 (dbgPut 4 c (4 * r + 2) b2 (dbgPut 4 c (4 * r + 1) b1 (dbgPut 4 c (4 * r + 0) b0 k)))).sregs = _
  rw [dbgPut_scalar h0 h32 (by decide : 0 < 4), dbgPut_scalar h0 h32 (by decide : 1 < 4), dbgPut_scalar h0 h32 (by decide : 2 < 4),
    dbgPut_scalar h0 h32 (by decide : 3 < 4)]
  dsimp only
  rw [fget_fset_same, fget_fset_same, fget_fset_same, bytePut_all]
  rfl

/-- The target that names scalar `r` of the core in slot `sl` of cluster `cl`. -/
theorem target_scalar {cl sl r : Nat} (hcl : cl < 16) (hsl : sl < 12) (h32 : r < 32) : let a := (BitVec.ofNat 64 (4 * 2 ^ 60 + cl * 2 ^ 56 + sl * 2 ^ 52 + 4 * r)).toNat
    tgKind a = 4 ∧ tgCore a = 12 * cl + sl ∧ tgAddr a = 4 * r ∧ tgBase a = 4 * r ∧ targetOk a = true := by
  have ha : (BitVec.ofNat 64 (4 * 2 ^ 60 + cl * 2 ^ 56 + sl * 2 ^ 52 + 4 * r)).toNat = 4 * 2 ^ 60 + cl * 2 ^ 56 + sl * 2 ^ 52 + 4 * r := by
    rw [BitVec.toNat_ofNat]
    exact Nat.mod_eq_of_lt (by omega)
  dsimp only
  rw [ha]
  have hkind : tgKind (4 * 2 ^ 60 + cl * 2 ^ 56 + sl * 2 ^ 52 + 4 * r) = 4 := by
    rw [tgKind, bits_eq]
    omega
  have hslot : tgSlot (4 * 2 ^ 60 + cl * 2 ^ 56 + sl * 2 ^ 52 + 4 * r) = sl := by
    rw [tgSlot, bits_eq]
    omega
  have hclu : tgCl (4 * 2 ^ 60 + cl * 2 ^ 56 + sl * 2 ^ 52 + 4 * r) = cl := by
    rw [tgCl, bits_eq]
    omega
  have haddr : tgAddr (4 * 2 ^ 60 + cl * 2 ^ 56 + sl * 2 ^ 52 + 4 * r) = 4 * r := by
    rw [tgAddr, bits_eq]
    omega
  refine ⟨hkind, by rw [tgCore, hclu, hslot], haddr, by rw [tgBase, hkind, if_neg (by decide), haddr], ?_⟩
  rw [targetOk, hkind, hslot, decide_eq_true hsl]
  rfl

theorem dbgStore_tru (a o : Nat) (bs : List Byte) : (dbgStore s a o bs).tru = s.tru := by
  unfold dbgStore
  split
  · rw [spadWrite_frame]
  · rw [poolWrite_frame]
  · rfl

/-- A write of debug data stores its bytes and is measured, unless one since the last measurement has been (R546, R547). -/
theorem dbgWriteTo_eq (a o : Nat) (bs : List Byte) : ∃ u : State, u.cores = (dbgStore s a o bs).cores ∧ u.tru = s.tru ∧
    dbgWriteTo s a o bs = if u.tru.dbgSince then u else measureDebug u 3 := by
  unfold dbgWriteTo
  extract_lets s1 k tt s2
  have hcores : s2.cores = s1.cores := inpAdd_cores ..
  have htru : s2.tru = s1.tru := inpAdd_tru ..
  have hcores1 : s1.cores = (dbgStore s a o bs).cores := raise_cores ..
  have htru1 : s1.tru = (dbgStore s a o bs).tru := raise_tru ..
  exact ⟨s2, hcores.trans hcores1, htru.trans (htru1.trans (dbgStore_tru ..)), rfl⟩

/-- A write of debug data to a scalar: what it leaves of the cores and of the measurements (R546, R547). -/
theorem dbgWriteTo_scalar {a c r : Nat} {bs : List Byte} (hk : tgKind a = 4) (hc : tgCore a = c) (hb : tgBase a = 4 * r) (h0 : 0 < r) (h32 : r < 32)
    (hlen : bs.length = 4) : let t := dbgWriteTo s a 0 bs
    (∀ k, (t.core c).sreg k = if k = r then BitVec.ofNat 32 (leNat bs) else (s.core c).sreg k) ∧ OtherCores s t c ∧
    (s.tru.dbgSince = false → t.tru.dbgSince = true ∧ t.tru.logSeq = s.tru.logSeq + 1 ∧ (t.tru.log.getLast?.map fun e => (e.typ, e.mr)) = some (0x70, 7)) ∧
    (s.tru.dbgSince = true → t.tru = s.tru) := by
  have hstore : dbgStore s a 0 bs = s.mapCore c fun k => (List.range bs.length).foldl (fun (k : Core) i => dbgPut 4 c (4 * r + i) (byteAt bs i) k) k := by
    unfold dbgStore
    rw [hk, hc, hb]
    rfl
  obtain ⟨u, hcores, htru, e⟩ := dbgWriteTo_eq (s := s) a 0 bs
  have hall : (dbgWriteTo s a 0 bs).cores = (dbgStore s a 0 bs).cores := by
    rw [e]
    split
    · exact hcores
    · exact hcores
  refine ⟨fun i => ?_, OtherCores.congr ?_ hall, fun hd => ?_, fun hd => ?_⟩
  · have hcore : (dbgWriteTo s a 0 bs).core c = (List.range bs.length).foldl (fun (k : Core) i => dbgPut 4 c (4 * r + i) (byteAt bs i) k) (s.core c) := by
      rw [State.core, hall, hstore]
      exact State.mapCore_core_same ..
    rw [hcore, Core.sreg, Core.sreg, dbgPut_word _ h0 h32 hlen]
    by_cases hi : i = r
    · rw [if_pos hi, hi, if_neg h0.ne', fget_fset_same]
    · rw [if_neg hi, fget_fset_ne _ _ _ _ _ _ hi, fget_fset_ne _ _ _ _ _ _ hi, fget_fset_ne _ _ _ _ _ _ hi, fget_fset_ne _ _ _ _ _ _ hi]
  · rw [hstore]
    exact mapCore_others c _
  · rw [e, htru, hd, if_neg Bool.false_ne_true]
    obtain ⟨hseq, hlast⟩ := measureDebug_log (s := u) 3
    exact ⟨rfl, hseq.trans (by rw [htru]), hlast⟩
  · rw [e, htru, hd, if_pos rfl, htru]

/-! ### Scan instructions (R548, R549, R550) -/

theorem jtagIr_eq (h : s.dbg.drive = false) (code : Nat) : jtagIr s code = { s with dbg := { s.dbg with ir := code } } := by
  unfold jtagIr
  rw [h, if_neg Bool.false_ne_true]
  exact congrArg (fun d => { s with dbg := { s.dbg with ir := code, drive := d } }) h.symm

/-- The level of the cells of RESET_N and PWRGOOD (R573). -/
theorem cellLevels_inputs (x : Nat) : (BitVec.ofNat 64 (cellLevels s x).toNat).getLsbD 0 = s.pins.resetN ∧
    (BitVec.ofNat 64 (cellLevels s x).toNat).getLsbD 1 = s.pins.pwrgood := by
  have hb (b : Bool) (i : Nat) : (if b then 2 ^ i else 0) = 2 ^ i * b.toNat := by cases b <;> simp
  unfold cellLevels
  dsimp only
  rw [hb, hb, hb, hb, hb, hb]
  generalize (!s.pins.pgWarn).toNat = a
  generalize (!s.pins.sleepReq).toNat = b
  generalize (!s.pins.thermIn).toNat = c
  generalize (!s.pins.tempCrit).toNat = d
  generalize s.pins.segaddr % 8 = e
  have hr := s.pins.resetN.toNat_lt
  have hp := s.pins.pwrgood.toNat_lt
  rw [BitVec.getLsbD_ofNat, BitVec.getLsbD_ofNat, BitVec.toNat_ofNat, Nat.testBit_eq_decide_div_mod_eq, Nat.testBit_eq_decide_div_mod_eq]
  refine ⟨?_, ?_⟩
  · cases hv : s.pins.resetN
    · rw [hv] at hr
      simp
      omega
    · simp
      omega
  · cases hv : s.pins.pwrgood
    · simp
      omega
    · simp
      omega

/-- What the boundary cells drive (R549). -/
theorem extest_leaves (cells : BitVec 13) : let u := (captureCells (jtagIr s 0)).mapDbg fun d => { d with bscan := cells, drive := true }
    ({ u with pins := { u.pins with tempCrit := !cells.getLsbD 5 } } : State).pins = { s.pins with tempCrit := !cells.getLsbD 5 } ∧ u.dev = s.dev := by
  unfold jtagIr
  cases h : s.dbg.drive <;> exact ⟨rfl, rfl⟩

theorem jtagSession_open (h : s.dbg.session = true) : jtagSession s = s := if_pos (.inl h)

/-- What the beginning of a debug session leaves (R550). -/
theorem jtagSession_begins (h : s.dbg.session = false) (hoff : s.dev.state ≠ .off) : let t := jtagSession s
    t.dbg = { s.dbg with session := true } ∧ (t.isrc 196).pending = true ∧ t.evr = (raise s 0x1108 0x13 []).evr ∧
    (t.tru.log.getLast?.map fun e => (e.typ, e.mr)) = some (0x70, 7) := by
  have e : jtagSession s = raise (pendLine (measureDebug (s.mapDbg fun d => { d with session := true }) 1) 12 4) 0x1108 0x13 [] :=
    if_neg fun h' => h'.elim (by rw [h]; exact Bool.false_ne_true) hoff
  have hlog := (measureDebug_log (s := s.mapDbg fun d => { d with session := true }) 1).2
  have hsame : (measureDebug (s.mapDbg fun d => { d with session := true }) 1).dbg = { s.dbg with session := true } ∧
      (measureDebug (s.mapDbg fun d => { d with session := true }) 1).evr = s.evr ∧ (measureDebug (s.mapDbg fun d => { d with session := true }) 1).sch = s.sch ∧
      (measureDebug (s.mapDbg fun d => { d with session := true }) 1).fab = s.fab := ⟨rfl, rfl, rfl, rfl⟩
  generalize measureDebug (s.mapDbg fun d => { d with session := true }) 1 = u at *
  obtain ⟨hdbg, hevr, hsch, hfab⟩ := hsame
  obtain ⟨hp, -⟩ := pendLine_isrc (s := u) (g := 12) (n := 4) (by decide)
  have hpl : (pendLine u 12 4).dbg = u.dbg ∧ (pendLine u 12 4).tru = u.tru ∧ (pendLine u 12 4).evr = u.evr ∧ (pendLine u 12 4).sch = u.sch ∧
      (pendLine u 12 4).fab = u.fab := by
    rw [pendLine_eq]
    exact ⟨rfl, rfl, rfl, rfl, rfl⟩
  generalize pendLine u 12 4 = w at *
  obtain ⟨hd, ht, he, hs, hf⟩ := hpl
  rw [e, raise_eq (s := s) (he.trans hevr) (hs.trans hsch) (hf.trans hfab)]
  exact ⟨hd.trans hdbg, hp, rfl, by rw [← hlog, ← ht]⟩

theorem dmiScan_write {v : Nat} (h : bits v 1 0 = 2) : ∃ dr, dmiScan s v =
    dmSet (dmSet (dmWrite (s.mapDbg fun d => { d with dr := dr }) (bits v 40 34) (bits v 33 2)) 128 (bits v 33 2)) 129 (bits v 40 34) := by
  refine ⟨BitVec.ofNat 64 (dmGet s 129 * 2 ^ 34 + dmGet s 128 * 4), ?_⟩
  unfold dmiScan
  rw [h]
  rfl

/-- A write of the first data register of the debug module (R551). -/
theorem dmiScan_data {v : Nat} {d : BitVec 32} (h : (dmGet s 0x10).testBit 0 = true) (ha : bits v 40 34 = 4) (hd : bits v 33 2 = d.toNat) (hop : bits v 1 0 = 2) :
    fget (dmiScan s v).dbg.dmi 0#32 4 = d ∧ dmiScan s v = { s with dbg := (dmiScan s v).dbg } := by
  have hact : bit (dmGet s 0x10) 0 = true := by
    rw [bit, bits_eq, beq_iff_eq]
    rw [Nat.testBit_zero, decide_eq_true_iff] at h
    omega
  have hw (u : State) (hu : dmGet u 0x10 = dmGet s 0x10) : dmWrite u 4 d.toNat = dmSet u 4 d.toNat := by
    unfold dmWrite
    rw [if_neg (by decide), hu, hact]
    rfl
  obtain ⟨dr, e⟩ := dmiScan_write (s := s) hop
  have hset (x : Debug) (a n : Nat) : dmSet { s with dbg := x } a n = { s with dbg := { x with dmi := fset x.dmi 0#32 a (BitVec.ofNat 32 n) } } := rfl
  rw [e, ha, hd, hw (s.mapDbg fun x => { x with dr := dr }) rfl, State.mapDbg, hset, hset, hset]
  refine ⟨?_, rfl⟩
  dsimp only
  rw [fget_fset_ne _ _ _ _ _ _ (by decide), fget_fset_ne _ _ _ _ _ _ (by decide), fget_fset_same]
  exact (BitVec.ofNat_toNat ..).trans (BitVec.setWidth_eq d)

/-- A scan that writes data register 0 names it, its value and the operation. -/
theorem dmiData_bits (d : BitVec 32) : let v := (BitVec.ofNat 41 (4 * 2 ^ 34 + d.toNat * 4 + 2)).toNat
    bits v 40 34 = 4 ∧ bits v 33 2 = d.toNat ∧ bits v 1 0 = 2 := by
  have hd := d.isLt
  have hv : (BitVec.ofNat 41 (4 * 2 ^ 34 + d.toNat * 4 + 2)).toNat = 4 * 2 ^ 34 + d.toNat * 4 + 2 := by
    rw [BitVec.toNat_ofNat]
    exact Nat.mod_eq_of_lt (by omega)
  dsimp only
  rw [hv, bits_eq, bits_eq, bits_eq]
  refine ⟨?_, ?_, ?_⟩ <;> omega

theorem cdbgScan_eq (v : Nat) : ∃ dr n, cdbgScan s v = dbgCode (s.mapDbg fun d => { d with dr := dr }) (bits v 31 29) 6 n :=
  ⟨BitVec.ofNat 64 ((if s.dev.dbgHalt ∧ s.dev.state = .halted then 2 ^ 31 else 0) + s.dbg.cause * 65536),
    if bits v 19 0 = 0 then s.dbg.steps else bits v 19 0, rfl⟩

theorem cdbgScan_halt {v : Nat} (hop : bits v 31 29 = 1) (h : dbgLive s = true) :
    ∃ u : State, u.dev = s.dev ∧ u.dbg.ir = s.dbg.ir ∧ cdbgScan s v = debugHalt u 6 := by
  obtain ⟨dr, n, e⟩ := cdbgScan_eq (s := s) v
  rw [hop] at e
  exact ⟨s.mapDbg fun d => { d with dr := dr }, rfl, rfl, e.trans (if_pos h)⟩

theorem cmemScan_eq {v : Nat} (hok : cmemOk s v = true) (h : bit v 31 = false) : ∃ x, x = leNat (dbgRead s (cmemTarget v) 0 4) * 2 ^ 32 + 2 ^ 31 ∧
    cmemScan s v = s.mapDbg fun d => { d with cmem := BitVec.ofNat 64 x, dr := d.cmem } :=
  ⟨_, rfl, (if_pos hok).trans (if_neg (by rw [h]; exact Bool.false_ne_true))⟩

theorem dbgRead_ir (i a : Nat) : dbgRead { s with dbg := { s.dbg with ir := i } } a 0 4 = dbgRead s a 0 4 := rfl

theorem cmemScan_ir {v : Nat} {i : Nat} (hok : cmemOk s v = true) (h : bit v 31 = false) :
    ∃ x, x = leNat (dbgRead s (cmemTarget v) 0 4) * 2 ^ 32 + 2 ^ 31 ∧ cmemScan { s with dbg := { s.dbg with ir := i } } v =
      { s with dbg := { s.dbg with ir := i, cmem := BitVec.ofNat 64 x, dr := s.dbg.cmem } } := by
  obtain ⟨x, hx, e⟩ := cmemScan_eq (s := { s with dbg := { s.dbg with ir := i } }) hok h
  exact ⟨x, dbgRead_ir (s := s) i (cmemTarget v) ▸ hx, e⟩

/-- A read by CMEM leaves its result for the next scan (R548). -/
theorem cmemScan_read {v : Nat} {i : Nat} (hok : cmemOk s v = true) (h : bit v 31 = false) :
    cmemScan { s with dbg := { s.dbg with ir := i } } v =
      { s with dbg := { s.dbg with ir := i, cmem := BitVec.ofNat 64 (leNat (dbgRead s (cmemTarget v) 0 4) * 2 ^ 32 + 2 ^ 31), dr := s.dbg.cmem } } := by
  obtain ⟨x, hx, e⟩ := cmemScan_ir (i := i) hok h
  rw [← hx]
  exact e

theorem cmemScan_refused {v : Nat} {i : Nat} (hok : cmemOk s v = false) :
    cmemScan { s with dbg := { s.dbg with ir := i } } v = { s with dbg := { s.dbg with ir := i, cmem := BitVec.ofNat 64 (2 ^ 30), dr := s.dbg.cmem } } := by
  unfold cmemScan
  rw [show cmemOk { s with dbg := { s.dbg with ir := i } } v = cmemOk s v from rfl, hok]
  rfl

end

/-- Settles O58. -/
theorem debugAndScan : Obligations.DebugAndScan := by
  intro s
  refine ⟨fun p h => ⟨fun hl => ?_, fun hl => ?_, fun hl => ?_, fun hh => ?_, fun hh => ?_⟩, fun k => ⟨fun hr hb hd => ?_, fun hd => ?_⟩,
    fun p bs c r h hb => ?_, fun cells => ⟨fun hoff hr => ?_, fun hoff hd => ?_, fun hd => ?_⟩,
    fun hd => ⟨?_, fun tdi => ?_, ?_, fun v hoff hsn => ?_, fun hoff hsn => ⟨fun v => ?_, fun d hact => ?_, fun hl => ?_, fun v => ⟨fun hok h31 => ?_, fun hok => ?_⟩⟩⟩⟩
  · have hex : exec (.debugHalt p) s = .next (okResp (debugHalt s 1) p 0xA00001) := congrArg Host.Outcome.next ((odReq_done h hl rfl).trans (by
      rw [show dbgCode s 1 1 s.dbg.steps = debugHalt s 1 from if_pos hl]))
    obtain ⟨hst, hsaved, hhalt, hcause, -, h12, hcores, hcycle, hlog⟩ := debugHalt_leaves (s := s) 1 (dbgLive_not_halted hl)
    generalize debugHalt s 1 = u at *
    exact ⟨_, hex, okResp_granted .., hst, hsaved, hhalt, hcause, h12, hcores, hcycle, hlog⟩
  · have hex : exec (.debugHaltAtWeir p) s = .next (okResp (dbgAtWeir s 1) p 0xA00001) := congrArg Host.Outcome.next ((odReq_done h hl rfl).trans (by
      rw [show dbgCode s 2 1 s.dbg.steps = dbgAtWeir s 1 from if_pos hl]))
    exact ⟨_, hex, okResp_granted .., rfl⟩
  · intro i hi
    have hr {i : Instr} {code : Nat} (hc : code ≤ 2) : odReq s p 0xA00001 i (dbgCmd s p code) = refuse s p 0xA00001 abSTATE := odReq_wrongState h (by rw [if_pos hc, hl])
    have hex : exec i s = .next (refuse s p 0xA00001 abSTATE) := by
      obtain rfl | hi := List.mem_cons.1 hi
      · exact congrArg Host.Outcome.next (hr (by decide))
      · obtain rfl := List.mem_singleton.1 hi
        exact congrArg Host.Outcome.next (hr (by decide))
    exact ⟨_, hex, refuse_denied .., refuse_dev .., refuse_dbg ..⟩
  · intro i hi
    obtain ⟨hst, hhalt, hdbg, hcycle, hcauses⟩ := dbgResume_leaves (s := s)
    have hex : exec i s = .next (okResp { dbgResume s with dbg := { (dbgResume s).dbg with
        haltS := if i = .debugStep p then some (s.sch.sCycle + s.dbg.steps) else (dbgResume s).dbg.haltS,
        haltWeir := if i = .debugRunToWeir p then some 2 else (dbgResume s).dbg.haltWeir } } p 0xA00001) := by
      obtain rfl | hi := List.mem_cons.1 hi
      · refine congrArg Host.Outcome.next ((odReq_done h hh rfl).trans ?_)
        rw [show dbgCode s 3 1 s.dbg.steps = dbgResume s from if_pos hh]
        simp only [reduceCtorEq, ↓reduceIte]
      · obtain rfl | hi := List.mem_cons.1 hi
        · refine congrArg Host.Outcome.next ((odReq_done h hh rfl).trans ?_)
          rw [show dbgCode s 4 1 s.dbg.steps = dbgStep s s.dbg.steps from if_pos hh]
          simp only [reduceCtorEq, ↓reduceIte]
          rfl
        · obtain rfl := List.mem_singleton.1 hi
          refine congrArg Host.Outcome.next ((odReq_done h hh rfl).trans ?_)
          rw [show dbgCode s 5 1 s.dbg.steps = dbgAtWeir (dbgResume s) 2 from if_pos hh]
          simp only [reduceCtorEq, ↓reduceIte]
          rfl
    rw [hdbg] at hex
    generalize dbgResume s = u at *
    exact ⟨_, hex, okResp_granted .., hst, hhalt, hcauses, rfl⟩
  · intro i hi
    have hr {i : Instr} {code : Nat} (hc : ¬ code ≤ 2) : odReq s p 0xA00001 i (dbgCmd s p code) = refuse s p 0xA00001 abSTATE := odReq_wrongState h (by rw [if_neg hc, hh])
    have hex : exec i s = .next (refuse s p 0xA00001 abSTATE) := by
      obtain rfl | hi := List.mem_cons.1 hi
      · exact congrArg Host.Outcome.next (hr (by decide))
      · obtain rfl | hi := List.mem_cons.1 hi
        · exact congrArg Host.Outcome.next (hr (by decide))
        · obtain rfl := List.mem_singleton.1 hi
          exact congrArg Host.Outcome.next (hr (by decide))
    exact ⟨_, hex, refuse_denied .., refuse_dev .., refuse_dbg ..⟩
  · have hl := dbgLive_of hr hb
    have hex : exec (.brk k) s = .next (debugHalt (s.mapDbg fun d => { d with brkIdHit := false }) (3 + k.val)) :=
      congrArg Host.Outcome.next (if_pos (by rw [hl, hr, hd]; rfl))
    obtain ⟨hst, -, -, hcause, -, h12, hcores, -⟩ := debugHalt_leaves (s := s.mapDbg fun d => { d with brkIdHit := false }) (3 + k.val) (dbgLive_not_halted hl)
    exact ⟨_, hex, hst, hcause, h12, hcores⟩
  · exact congrArg Host.Outcome.next (if_neg (by rw [hd, Bool.and_false]; exact Bool.false_ne_true))
  · intro a ha hc h0 h32 hlen
    have hcl : c / 12 < 16 := by omega
    obtain ⟨hkind, hcore, -, hbase, hok⟩ := target_scalar (r := r) hcl (Nat.mod_lt c (by decide)) h32
    have hcr : 12 * (c / 12) + c % 12 = c := Nat.div_add_mod c 12
    rw [hcr] at hcore
    rw [← ha] at hkind hcore hbase hok
    have hchk : firstAbort [(decide ((0#32).toNat + bs.length ≤ 65536), abPASTEND), (targetOk s.dbg.target.toNat, abINCONS), (!s.dev.busy, abNOTAVAIL)] = 0 := by
      rw [hok, hb, hlen]
      rfl
    refine ⟨fun hst => ?_, fun hst => ?_⟩
    · have hex : exec (.debugWrite p 0#32 bs) s = .next (okResp (dbgWriteTo s s.dbg.target.toNat 0 bs) p 0xA01002) :=
        congrArg Host.Outcome.next (odReq_done h (beq_iff_eq.2 hst) hchk)
      obtain ⟨hsreg, hothers, hnew, hold⟩ := dbgWriteTo_scalar (s := s) hkind hcore hbase h0 h32 hlen
      generalize dbgWriteTo s s.dbg.target.toNat 0 bs = u at *
      exact ⟨_, hex, okResp_granted .., hsreg, hothers, hnew, hold⟩
    · have hex : exec (.debugWrite p 0#32 bs) s = .next (refuse s p 0xA01002 abSTATE) :=
        congrArg Host.Outcome.next (odReq_wrongState h (beq_eq_false_iff_ne.2 hst))
      exact ⟨_, hex, refuse_denied .., refuse_cores .., refuse_tru ..⟩
  · exact ⟨_, congrArg Host.Outcome.next (if_pos ⟨hoff, by rw [hr]; rfl⟩), rfl, rfl, rfl, extest_leaves cells⟩
  · refine congrArg Host.Outcome.next ((if_neg fun h => hoff h.1).trans ?_)
    rw [jtagIr_eq hd]
    rfl
  · have hex : exec (.samplePreload cells) s = .next ((captureCells (jtagIr s 2)).mapDbg fun d => { d with bscan := cells }) := rfl
    rw [jtagIr_eq hd] at hex
    obtain ⟨h0, h1⟩ := cellLevels_inputs (s := s) (takeFreeNat s 4).1
    exact ⟨_, hex, rfl, rfl, rfl, h0, h1⟩
  · refine congrArg Host.Outcome.next ?_
    rw [jtagIr_eq hd]
    rfl
  · refine congrArg Host.Outcome.next ?_
    rw [jtagIr_eq hd]
    rfl
  · refine congrArg Host.Outcome.next ?_
    rw [jtagIr_eq hd]
    rfl
  · have hex : exec (.dtmcs v) s = .next ((jtagSession { s with dbg := { s.dbg with ir := 0x10 } }).mapDbg fun d => { d with
        dr := d.dtmcs.setWidth 64, dmi := if v.getLsbD 17 then fdel (fdel d.dmi 128) 129 else d.dmi }) := by
      rw [← jtagIr_eq hd]
      rfl
    obtain ⟨hdbg, hp, hevr, hlog⟩ := jtagSession_begins (s := { s with dbg := { s.dbg with ir := 0x10 } }) hsn hoff
    generalize jtagSession { s with dbg := { s.dbg with ir := 0x10 } } = u at *
    refine ⟨_, hex, congrArg Debug.session hdbg, congrArg (fun d => d.dtmcs.setWidth 64) hdbg, hp, hevr.trans ?_, hlog⟩
    exact raise_evr_congr (s := s) (t := { s with dbg := { s.dbg with ir := 0x10 } }) rfl rfl rfl ..
  · have hex : exec (.dtmcs v) s = .next ((jtagSession { s with dbg := { s.dbg with ir := 0x10 } }).mapDbg fun d => { d with
        dr := d.dtmcs.setWidth 64, dmi := if v.getLsbD 17 then fdel (fdel d.dmi 128) 129 else d.dmi }) := by
      rw [← jtagIr_eq hd]
      rfl
    rw [jtagSession_open (s := { s with dbg := { s.dbg with ir := 0x10 } }) hsn] at hex
    exact ⟨_, hex, rfl, rfl⟩
  · have hex : exec (.dmi (BitVec.ofNat 41 (4 * 2 ^ 34 + d.toNat * 4 + 2))) s =
        .next (dmiScan { s with dbg := { s.dbg with ir := 0x11 } } (BitVec.ofNat 41 (4 * 2 ^ 34 + d.toNat * 4 + 2)).toNat) := by
      unfold exec execDmi
      dsimp only
      rw [jtagIr_eq hd, jtagSession_open (s := { s with dbg := { s.dbg with ir := 0x11 } }) hsn, if_neg hoff]
    obtain ⟨ha, hv, hop⟩ := dmiData_bits d
    generalize BitVec.ofNat 41 (4 * 2 ^ 34 + d.toNat * 4 + 2) = v at *
    obtain ⟨hdata, hframe⟩ := dmiScan_data (s := { s with dbg := { s.dbg with ir := 0x11 } }) hact ha hv hop
    exact ⟨_, hex, hdata, hframe⟩
  · have hex : exec (.cdbg (BitVec.ofNat 32 (2 ^ 29))) s = .next (cdbgScan { s with dbg := { s.dbg with ir := 0x18 } } (2 ^ 29)) := by
      unfold exec execCdbg
      dsimp only
      rw [jtagIr_eq hd, jtagSession_open (s := { s with dbg := { s.dbg with ir := 0x18 } }) hsn, if_neg hoff]
      rfl
    obtain ⟨u, hu, hir, e⟩ := cdbgScan_halt (s := { s with dbg := { s.dbg with ir := 0x18 } }) (show bits (2 ^ 29) 31 29 = 1 by decide) hl
    obtain ⟨hst, -, -, hcause, hir', -⟩ := debugHalt_leaves (s := u) 6 (by rw [hu]; exact dbgLive_not_halted hl)
    rw [e] at hex
    exact ⟨_, hex, hst, hcause, hir'.trans hir⟩
  · have hex : exec (.cmem v) s = .next (cmemScan { s with dbg := { s.dbg with ir := 0x19 } } v.toNat) := by
      unfold exec execCmem
      dsimp only
      rw [jtagIr_eq hd, jtagSession_open (s := { s with dbg := { s.dbg with ir := 0x19 } }) hsn, if_neg hoff]
    rw [cmemScan_read hok (by rw [bit_eq_testBit]; exact h31)] at hex
    exact ⟨_, hex, rfl, rfl, rfl⟩
  · have hex : exec (.cmem v) s = .next (cmemScan { s with dbg := { s.dbg with ir := 0x19 } } v.toNat) := by
      unfold exec execCmem
      dsimp only
      rw [jtagIr_eq hd, jtagSession_open (s := { s with dbg := { s.dbg with ir := 0x19 } }) hsn, if_neg hoff]
    rw [cmemScan_refused hok] at hex
    exact ⟨_, hex, rfl, rfl, rfl⟩

end Sys2Proof.Machine
end

section
/-! PROOFS. Fences, remaps, repairs and the watchdog (O56). -/
namespace Sys2Proof.Machine

section
variable {s t : State} {p : Path} {r : Remap}

/-! ### Positions (R481, R485) -/

theorem posFenced_of (k : Nat) {key : Nat} (h : t.rep.fenced = fset s.rep.fenced false key true) : posFenced t k = if k = key then true else posFenced s k := by
  rw [posFenced, h]
  exact fget_fset ..

theorem corePos_of {c n : Nat} (h : t.rep.map = fset s.rep.map (posOf0 c) c n) : corePos t c = n ∧ ∀ k, k ≠ c → corePos t k = corePos s k := by
  refine ⟨?_, fun k hk => ?_⟩
  · rw [corePos, h]
    exact fget_fset_same ..
  · rw [corePos, h]
    exact fget_fset_ne _ _ _ _ _ _ hk

theorem fenceRefused_iff {cl pos : Nat} {de : Bool} : fenceRefused s cl de pos = true ↔
    (if de then 9 else 5) ≤ pos ∨ posFenced s (posKey cl de pos) = true ∨ ∃ r ∈ s.rep.pend, r.cl = cl ∧ r.de = de := by
  unfold fenceRefused posExists
  rw [Bool.or_eq_true, Bool.or_eq_true, Bool.not_eq_true', decide_eq_false_iff_not, Nat.not_lt, List.any_eq_true, or_assoc]
  simp only [Bool.and_eq_true, beq_iff_eq]

/-- What a position that leaves its slot absent leaves of the repairs (R489). -/
theorem slotAbsent_some {c : Nat} (h : posCarries s r.cl r.de r.pos = some c) : slotAbsent s r = { s with
    rep := { s.rep with pend := s.rep.pend.filter fun x => x != r, map := fset s.rep.map (posOf0 c) c 255,
                        fenced := fset s.rep.fenced false (posKey r.cl r.de r.pos) true },
    evr := (raise s 0x0F02 0x10 [r.cl, r.pos]).evr } := by
  have hp : posCarries (pendDrop s r) r.cl r.de r.pos = some c := h
  unfold slotAbsent
  dsimp only
  rw [hp]
  dsimp only
  rw [raise_eq (s := s)] <;> rfl

/-- What a remap that is applied leaves of the repairs (R486). -/
theorem remapApply_eq : ∃ m, remapApply s r = { s with
    rep := { s.rep with pend := s.rep.pend.filter fun x => x != r, map := m, fenced := fset s.rep.fenced false (posKey r.cl r.de r.pos) true,
                        remaps := sat32 s.rep.remaps },
    evr := (raise s 0x0F01 0x10 [r.cl, r.pos]).evr } ∧
    ∀ c, posCarries s r.cl r.de r.pos = some c → m = fset s.rep.map (posOf0 c) c ((if r.de then 5 else 0) + sparePos r.de) := by
  have hp : posCarries (pendDrop s r) r.cl r.de r.pos = posCarries s r.cl r.de r.pos := rfl
  unfold remapApply
  dsimp only
  rw [hp]
  cases hc : posCarries s r.cl r.de r.pos with
  | none =>
    refine ⟨s.rep.map, ?_, fun c h => absurd h (Option.some_ne_none c).symm⟩
    dsimp only
    rw [raise_eq (s := s)] <;> rfl
  | some c =>
    refine ⟨_, ?_, fun c' h => by rw [← Option.some.inj h]⟩
    dsimp only
    rw [raise_eq (s := s)] <;> rfl

/-! ### The request (R481, R488, R489) -/

theorem fenceDo_none {cl pos : Nat} {de : Bool} (h : posCarries s cl de pos = none) : fenceDo s cl de pos = { s with
    rep := { s.rep with fenced := fset s.rep.fenced false (posKey cl de pos) true }, evr := (raise s 0x0F03 0x10 [cl, pos]).evr } := by
  unfold fenceDo
  dsimp only
  rw [h, Option.isNone_none, if_pos rfl, raise_eq (s := s)] <;> rfl

theorem fenceDo_spare {cl pos : Nat} {de : Bool} (h : posCarries s cl de pos ≠ none) (hs : spareFree s cl de = true) :
    fenceDo s cl de pos = { s with rep := { s.rep with pend := s.rep.pend ++ [{ cl := cl, de := de, pos := pos }] } } := by
  unfold fenceDo
  dsimp only
  rw [if_neg (by rwa [Option.isNone_iff_eq_none]), if_pos hs]

theorem fenceDo_noSpare {cl pos : Nat} {de : Bool} (h : posCarries s cl de pos ≠ none) (hs : spareFree s cl de = false) : fenceDo s cl de pos =
    if stagesNow s then haltNext { s with rep := { s.rep with pend := s.rep.pend ++ [{ cl := cl, de := de, pos := pos, noSpare := true, weir := stageWeir s }] } } 0x0F02
    else slotAbsent s { cl := cl, de := de, pos := pos } := by
  unfold fenceDo
  dsimp only
  rw [if_neg (by rwa [Option.isNone_iff_eq_none]), if_neg (by rw [hs]; exact Bool.false_ne_true)]

/-- The fields of a fence request. -/
theorem fence_fields (v : BitVec 16) : bits v.toNat 15 12 = v.toNat / 4096 ∧ bit v.toNat 11 = v.getLsbD 11 ∧ bits v.toNat 10 7 = v.toNat / 128 % 16 := by
  have hv := v.isLt
  refine ⟨?_, bit_eq_testBit _ _, ?_⟩
  · rw [bits_eq]
    omega
  · rw [bits_eq]
    rfl

theorem fenceRequest_done {v : BitVec 16} (h : Takes s p 0x210200)
    (hgood : ¬ fenceRefused s (v.toNat / 4096) (v.getLsbD 11) (v.toNat / 128 % 16) = true) :
    exec (.fenceRequest p v) s = .next (okResp (fenceDo s (v.toNat / 4096) (v.getLsbD 11) (v.toNat / 128 % 16)) p 0x210200) := by
  obtain ⟨hcl, hde, hpos⟩ := fence_fields v
  refine congrArg Host.Outcome.next ((odReq_done h rfl ?_).trans ?_)
  · rw [hcl, hde, hpos, Bool.eq_false_iff.2 hgood]
    rfl
  · rw [hcl, hde, hpos]

theorem fenceRequest_refused {v : BitVec 16} (h : Takes s p 0x210200)
    (hbad : fenceRefused s (v.toNat / 4096) (v.getLsbD 11) (v.toNat / 128 % 16) = true) :
    exec (.fenceRequest p v) s = .next (refuse s p 0x210200 abINCONS) := by
  obtain ⟨hcl, hde, hpos⟩ := fence_fields v
  refine congrArg Host.Outcome.next (odReq_fails h ?_ (by decide))
  rw [hcl, hde, hpos, hbad]
  rfl

theorem spareReady_one {cl : Nat} {de : Bool} (hpend : s.rep.pend = [r]) (hcl : r.cl = cl) (hde : r.de = de) (harm : r.armed = false) (hno : r.noSpare = false) :
    spareReady s cl de = if stagesNow s then
      { s with rep := { s.rep with pend := s.rep.pend.map fun x => if x = r then { x with armed := true, weir := stageWeir s } else x } }
    else remapApply s r := by
  have hfind : s.rep.pend.find? (fun r => r.cl == cl && r.de == de && !r.armed && !r.noSpare) = some r := by
    rw [hpend, List.find?_cons_of_pos]
    rw [hcl, hde, harm, hno, beq_self_eq_true, beq_self_eq_true]
    rfl
  unfold spareReady
  rw [hfind]

theorem remapsDue_eq (hp : t.rep.pend = s.rep.pend) (hs : t.sch = s.sch) : remapsDue t = remapsDue s := by
  rw [remapsDue, remapsDue, hp, hs]

theorem remapComplete_one {c : Cause} (hfind : s.sch.causes.find? (fun c => c.no == 7 && c.untilW == none) = some c) (hdue : remapsDue s = [r]) :
    exec .remapComplete s =
      .next (endCause (remapApply { s with rep := { s.rep with remapW := (s.sch.wCycle - c.sinceW) % 2 ^ 32 } } r) 7 0 4) := by
  unfold exec execRemapComplete
  rw [hfind]
  have hone (n : Nat) : endCause (State.each { s with rep := { s.rep with remapW := n } }
      (remapsDue { s with rep := { s.rep with remapW := n } }) remapApply) 7 0 4 = endCause (remapApply { s with rep := { s.rep with remapW := n } } r) 7 0 4 := by
    rw [remapsDue_eq (s := s) (t := { s with rep := { s.rep with remapW := n } }) rfl rfl, hdue]
    rfl
  exact congrArg Host.Outcome.next (hone _)

/-- What a remap that is complete leaves (R486). -/
theorem remapDone_leaves (r : Remap) (w : Nat) : let t := remapApply { s with rep := { s.rep with remapW := w } } r
    t.sch = s.sch ∧ t.rep.remapW = w ∧ t.rep.remaps = sat32 s.rep.remaps ∧ r ∉ t.rep.pend ∧
    t.rep.fenced = fset s.rep.fenced false (posKey r.cl r.de r.pos) true ∧ t.cores = s.cores := by
  obtain ⟨m, e, -⟩ := remapApply_eq (s := { s with rep := { s.rep with remapW := w } }) (r := r)
  dsimp only
  rw [e]
  refine ⟨rfl, rfl, rfl, fun hr => ?_, rfl, rfl⟩
  have := (List.mem_filter.1 hr).2
  rw [bne_self_eq_false] at this
  exact Bool.false_ne_true this

/-! ### Row repairs (R492, R494) -/

theorem raise_rowMade_hint {k : Nat} (hk : k < 16) (l : List Nat) : raise s 0x0F04 (0x20 + k) l = raise s 0x0F04 0x10 l := by
  have hsrc : evSrc 0x0F04 (0x20 + k) l = evSrc 0x0F04 0x10 l := by
    rw [evSrc, evSrc, show (0x20 + k) / 64 = 0x10 / 64 by omega]
  unfold raise
  rw [hsrc]
  rfl

/-- What the end of a row's copy leaves (R494). -/
theorem rowMade_leaves {f : RowFix} (hf : f.stack < 16) : let t := rowMade s f
    t.rep.rows = s.rep.rows ∧ (s.rep.log.length < 8192 → t.rep.log.length = s.rep.log.length + 1 ∧ t.rep.unlogged = s.rep.unlogged) ∧
    (8192 ≤ s.rep.log.length → t.rep.log = s.rep.log ∧ t.rep.unlogged = sat32 s.rep.unlogged) ∧
    t.evr = (raise s 0x0F04 0x10 [f.stack, f.tier, f.row]).evr := by
  have e : rowMade s f = { s with rep := { s.rep with
      log := if s.rep.log.length < 8192 then s.rep.log ++ [rowEntry f] else s.rep.log,
      unlogged := if s.rep.log.length < 8192 then s.rep.unlogged else sat32 s.rep.unlogged }, evr := (raise s 0x0F04 0x10 [f.stack, f.tier, f.row]).evr } := by
    unfold rowMade
    dsimp only
    rw [raise_rowMade_hint hf, raise_eq (s := s)] <;> rfl
  dsimp only
  rw [e]
  refine ⟨rfl, fun h => ?_, fun h => ?_, rfl⟩
  · rw [if_pos h, if_pos h, List.length_append, List.length_singleton]
    exact ⟨rfl, rfl⟩
  · rw [if_neg (Nat.not_lt.2 h), if_neg (Nat.not_lt.2 h)]
    exact ⟨rfl, rfl⟩

theorem rowRepair_one {stack : Fin 16} {tier : Fin 8} {row : Nat} {f : RowFix} {q : List RowFix} (hrows : s.rep.rows = f :: q) (hst : f.stack = stack.val)
    (hti : f.tier = tier.val) (hro : f.row = row) (hcop : f.copied = false) : exec (.rowRepairCopyDone stack tier row) s =
      .next (rowMade { s with rep := { s.rep with rows := { f with copied := true } :: q } } f) := by
  have hhit : (fun r : RowFix => r.stack == stack.val && r.tier == tier.val && r.row == row && !r.copied) f = true := by
    dsimp only
    rw [hst, hti, hro, hcop, beq_self_eq_true, beq_self_eq_true, beq_self_eq_true]
    rfl
  have hfind : (f :: q).find? (fun r : RowFix => r.stack == stack.val && r.tier == tier.val && r.row == row && !r.copied) = some f :=
    List.find?_cons_of_pos (p := fun r : RowFix => r.stack == stack.val && r.tier == tier.val && r.row == row && !r.copied) hhit
  have hmap : mapFirst (fun r : RowFix => r.stack == stack.val && r.tier == tier.val && r.row == row && !r.copied) (fun r => { r with copied := true }) (f :: q) =
      { f with copied := true } :: q := if_pos hhit
  unfold exec execRowRepairCopyDone
  dsimp only
  rw [hrows, hfind]
  dsimp only
  rw [hmap]

/-! ### The watchdog (R499) -/

theorem pendLine_role (g n k : Nat) : ((pendLine s g n).hart k).role = (s.hart k).role := by
  have hw (u : State) : ((wfiWakes u).hart k).role = (u.hart k).role := by
    refine List.foldlRecOn (motive := fun v : State => (v.hart k).role = (u.hart k).role) _ _ rfl fun v h n _ => ?_
    unfold wfiWake
    split
    · rw [mapHart_hart]
      split
      · next hk => rw [← h, hk]
      · exact h
    · exact h
  unfold pendLine pend
  extract_lets x held
  split
  · exact hw _
  · rfl

/-- The first standby hart takes the role of a hart that fails (R499). -/
theorem hartFail_standby {h j : Nat} (hr : (s.hart h).role < 3) (hj : j < 4) (h3 : (s.hart j).role = 3) (hfirst : ∀ k, k < j → (s.hart k).role ≠ 3) :
    hartFail s h = ((s.mapHart h fun x => { x with role := 4, claimed := [] }).mapHart j fun x => { x with role := (s.hart h).role }, some j) := by
  have hne : j ≠ h := fun e => by
    rw [e] at h3
    omega
  have hfind : [0, 1, 2, 3].find? (fun i => ((s.mapHart h fun x => { x with role := 4, claimed := [] }).hart i).role == 3) = some j := by
    rw [show [0, 1, 2, 3] = List.range 4 from rfl, List.find?_range_eq_some]
    refine ⟨?_, List.mem_range.2 hj, fun k hk => ?_⟩
    · rw [State.mapHart_hart_ne _ _ _ _ hne, h3]
      rfl
    · rw [mapHart_hart]
      split
      · rfl
      · rw [beq_eq_false_iff_ne.2 (hfirst k hk)]
        rfl
  unfold hartFail
  dsimp only
  rw [if_neg (Nat.not_le.2 hr), hfind]

/-- With no other hart in service nobody takes the role. -/
theorem hartFail_alone {h : Nat} (hr : (s.hart h).role < 3) (hall : ∀ k, k < 4 → k ≠ h → (s.hart k).role = 4) :
    hartFail s h = (s.mapHart h fun x => { x with role := 4, claimed := [] }, none) := by
  have hrole (k : Nat) (hk : k ∈ [0, 1, 2, 3]) : ((s.mapHart h fun x => { x with role := 4, claimed := [] }).hart k).role = 4 := by
    rw [mapHart_hart]
    split
    · rfl
    · next hne => exact hall k (List.mem_range.1 (show k ∈ List.range 4 from hk)) hne
  unfold hartFail
  dsimp only
  rw [if_neg (Nat.not_le.2 hr), List.find?_eq_none.2 fun k hk => by rw [hrole k hk]; decide, List.find?_eq_none.2 fun k hk => by rw [hrole k hk]; decide]

/-- A hart that fails is out, its claims are gone, and the rest of the die stays (R499). -/
theorem hartFail_out {h : Nat} (hr : (s.hart h).role < 3) : (((hartFail s h).1.hart h).role = 4 ∧ ((hartFail s h).1.hart h).claimed = []) ∧
    (hartFail s h).1.dev = s.dev ∧ (hartFail s h).1.mgm.dictOn = s.mgm.dictOn := by
  have hout : ((s.mapHart h fun x => { x with role := 4, claimed := [] }).hart h).role = 4 ∧ ((s.mapHart h fun x => { x with role := 4, claimed := [] }).hart h).claimed = [] := by
    rw [State.mapHart_hart_same]
    exact ⟨rfl, rfl⟩
  unfold hartFail
  extract_lets r0 u
  rw [if_neg (Nat.not_le.2 hr)]
  have hkeep {i : Nat} {f : Hart → Hart} (hi : (u.hart i).role ≠ 4) : (u.mapHart i f).hart h = u.hart h :=
    State.mapHart_hart_ne _ _ _ _ fun e => hi (e ▸ hout.1)
  split
  · next i hi =>
    have h3 : (u.hart i).role = 3 := beq_iff_eq.1 (List.find?_some (p := fun i => (u.hart i).role == 3) hi)
    dsimp only
    rw [hkeep (by rw [h3]; decide)]
    exact ⟨hout, rfl, rfl⟩
  · split
    · next i hi =>
      have h3 : (u.hart i).role < 3 := of_decide_eq_true (List.find?_some (p := fun i => decide ((u.hart i).role < 3)) hi)
      dsimp only
      rw [hkeep (by omega)]
      exact ⟨hout, rfl, rfl⟩
    · exact ⟨hout, rfl, rfl⟩

theorem sourcesMove_dictOn (l : List Nat) (h : Nat) (o : Option Nat) : (sourcesMove s l h o).mgm.dictOn = s.mgm.dictOn ∧ (sourcesMove s l h o).dev = s.dev := by
  unfold sourcesMove
  extract_lets u mv
  have hu : u.mgm.dictOn = s.mgm.dictOn ∧ u.dev = s.dev :=
    State.each_keeps s (fun t => t.mgm.dictOn = s.mgm.dictOn ∧ t.dev = s.dev) _ _ (fun _ _ h => h) ⟨rfl, rfl⟩
  exact hu

/-- What a hart that hangs leaves (R499). -/
theorem watchdog_eq {h : Nat} (hr : (s.hart h).role < 3) (hh : (s.hart h).halted = false) (hu : s.mgm.upd = .idle) : ∃ u : State,
    (∀ k, (u.hart k).role = (s.hart k).role) ∧ u.mgm.dictOn = s.mgm.dictOn ∧ u.dev = s.dev ∧ (∀ k, ((watchdog s h).hart k) = (hartFail u h).1.hart k) ∧
    (watchdog s h).dev = (hartFail u h).1.dev ∧ (watchdog s h).mgm.dictOn = ((hartFail u h).2.isSome && (hartFail u h).1.mgm.dictOn) := by
  have e : watchdog s h = (match (hartFail (pendLine (raise s 0x0D06 0x10 [h]) 0 8) h).2 with
      | some j => raise (sourcesMove (hartFail (pendLine (raise s 0x0D06 0x10 [h]) 0 8) h).1 (s.hart h).claimed h (hartFail (pendLine (raise s 0x0D06 0x10 [h]) 0 8) h).2) 0x0F07 0x10 [h, j]
      | none => raise ((sourcesMove (hartFail (pendLine (raise s 0x0D06 0x10 [h]) 0 8) h).1 (s.hart h).claimed h (hartFail (pendLine (raise s 0x0D06 0x10 [h]) 0 8) h).2).mapMgm
          fun m => { m with dictOn := false }) 0x0F08 0x10 [h]) := by
    have hupd : (pendLine (raise s 0x0D06 0x10 [h]) 0 8).mgm.upd = .idle := by
      rw [pendLine_eq, raise_frame]
      exact hu
    unfold watchdog
    dsimp only
    rw [if_neg (fun hc => hc.elim (fun hc => absurd hr (Nat.not_lt.2 hc)) (by rw [hh]; exact Bool.false_ne_true)), hupd, if_neg (fun hc => UpdState.noConfusion hc.1)] <;> rfl
  refine ⟨pendLine (raise s 0x0D06 0x10 [h]) 0 8, fun k => ?_, ?_, ?_, ?_⟩
  · rw [pendLine_role, State.hart, raise_mgm]
    rfl
  · rw [pendLine_eq, raise_frame]
  · rw [pendLine_eq, raise_frame]
  · rw [e]
    generalize hartFail (pendLine (raise s 0x0D06 0x10 [h]) 0 8) h = q
    obtain ⟨w, o⟩ := q
    have hk (k : Nat) := (sourcesMove_hart (s := w) (s.hart h).claimed h o k).1
    obtain ⟨hon, hdev⟩ := sourcesMove_dictOn (s := w) (s.hart h).claimed h o
    generalize sourcesMove w (s.hart h).claimed h o = x at *
    cases o with
    | none =>
      dsimp only
      rw [raise_frame]
      exact ⟨hk, hdev, rfl⟩
    | some j =>
      dsimp only
      rw [raise_frame]
      exact ⟨hk, hdev, hon⟩

end

/-- Settles O56. -/
theorem fencesAndRemaps : Obligations.FencesAndRemaps := by
  intro s
  refine ⟨fun p v h => ?_, fun cl de => ⟨fun r hpend hcl hde harm hno => ⟨fun hrun => ?_, fun hready c hc => ?_⟩, fun hpend => ?_⟩,
    fun r w hcauses hdue => ⟨?_, fun hearly => ?_, fun hlate => ?_⟩, fun h7 => ⟨?_, ?_⟩, fun stack tier row f q hrows hst hti hro hcop => ?_, fun stack tier row hrows => ?_,
    fun p v h => ?_, fun h hrun hupd hrole hhalt => ?_, fun h hrole => ?_⟩
  · intro cl de pos run bad
    refine ⟨fun hbad => ?_, fun hgood hc => ?_, fun hgood hc hs => ?_, fun hgood hs c hc => ?_⟩
    · exact ⟨_, fenceRequest_refused h (fenceRefused_iff.2 hbad), refuse_denied .., refuse_rep ..⟩
    · have hex := fenceRequest_done h fun hr => hgood (fenceRefused_iff.1 hr)
      rw [fenceDo_none hc] at hex
      exact ⟨_, hex, okResp_granted .., fun k => posFenced_of k rfl, rfl, rfl, rfl⟩
    · have hex := fenceRequest_done h fun hr => hgood (fenceRefused_iff.1 hr)
      rw [fenceDo_spare hc hs] at hex
      exact ⟨_, hex, okResp_granted .., rfl⟩
    · have hex := fenceRequest_done h fun hr => hgood (fenceRefused_iff.1 hr)
      rw [fenceDo_noSpare (fun h0 => Option.some_ne_none c (hc.symm.trans h0)) hs] at hex
      refine ⟨fun hrun => ?_, fun hrun => ?_⟩
      · rw [if_pos (stagesNow_iff.2 hrun)] at hex
        exact ⟨_, hex, okResp_granted .., rfl, rfl, rfl⟩
      · rw [if_neg fun hn => hrun (stagesNow_iff.1 hn), slotAbsent_some (r := { cl := cl, de := de, pos := pos }) hc] at hex
        obtain ⟨h255, hother⟩ := corePos_of (s := s) (t := okResp { s with
          rep := { s.rep with pend := s.rep.pend.filter fun x => x != { cl := cl, de := de, pos := pos }, map := fset s.rep.map (posOf0 c) c 255,
                              fenced := fset s.rep.fenced false (posKey cl de pos) true },
          evr := (raise s 0x0F02 0x10 [cl, pos]).evr } p 0x210200) (c := c) (n := 255) rfl
        exact ⟨_, hex, okResp_granted .., h255, fun k _ hk => hother k hk, (posFenced_of _ rfl).trans (if_pos rfl), rfl⟩
  · refine congrArg Host.Outcome.next ?_
    rw [spareReady_one hpend hcl hde harm hno, if_pos (stagesNow_iff.2 hrun), hpend]
    show _ = { s with rep := { s.rep with pend := [_] } }
    rw [List.map_cons, if_pos rfl, List.map_nil]
  · have hst : stagesNow s = false := stagesNow_of (by rw [hready]; decide) (by rw [hready]; decide)
    have hex : exec (.spareReady cl de) s = .next (remapApply s r) := congrArg Host.Outcome.next
      ((spareReady_one hpend hcl hde harm hno).trans (if_neg (by rw [hst]; exact Bool.false_ne_true)))
    obtain ⟨m, e, hm⟩ := remapApply_eq (s := s) (r := r)
    rw [e, hm c hc] at hex
    refine ⟨_, hex, ?_, (corePos_of rfl).1.trans ?_, fun k _ hk => (corePos_of rfl).2 k hk, (posFenced_of _ rfl).trans (if_pos rfl), rfl, rfl, rfl⟩
    · rw [hpend]
      exact List.filter_eq_nil_iff.2 fun x hx => by rw [List.mem_singleton.1 hx, bne_self_eq_false]; exact Bool.false_ne_true
    · rw [hde]
      cases de <;> rfl
  · refine congrArg Host.Outcome.next ?_
    rw [spareReady, hpend]
    rfl
  · obtain ⟨hsch, hw, hn, hpend, hfen, hcores⟩ := remapDone_leaves (s := s) r ((s.sch.wCycle - w) % 2 ^ 32)
    have hfind : s.sch.causes.find? (fun c => c.no == 7 && c.untilW == none) = some { no := 7, src := 0, sinceW := w, untilW := none } := by
      rw [hcauses]
      rfl
    have hex := remapComplete_one hfind hdue
    generalize (s.sch.wCycle - w) % 2 ^ 32 = n at *
    generalize remapApply { s with rep := { s.rep with remapW := n } } r = u at *
    refine ⟨_, hex, ?_, hw, hn, hpend, (posFenced_of _ hfen).trans (if_pos rfl), hcores⟩
    unfold endCause State.mapSch
    dsimp only
    rw [hsch, hcauses]
    rfl
  · refine congrArg Host.Outcome.next (if_neg ?_)
    rw [hcauses]
    simp only [List.any_cons, List.any_nil, Bool.or_false, Bool.and_eq_true, decide_eq_true_eq]
    omega
  · have hex : exec .remapTimeout s = .next (dropCause { fatal s 0x0F0B 0x10 ([r].flatMap fun r => [r.cl, r.pos]) with
        rep := { s.rep with pend := s.rep.pend.filter fun x => !([r] : List Remap).contains x } } 7) := by
      refine congrArg Host.Outcome.next ((if_pos ?_).trans ?_)
      · rw [hcauses]
        simp only [List.any_cons, List.any_nil, Bool.or_false, Bool.and_eq_true, decide_eq_true_eq]
        exact ⟨⟨rfl, rfl⟩, hlate⟩
      · dsimp only
        rw [hdue, fatal_rep]
    refine ⟨_, hex, ?_, fun hr => ?_, rfl, rfl, rfl, fun hrun => fatal_state _ _ _ _ hrun⟩
    · show List.filter _ (fatal s 0x0F0B 0x10 _).sch.causes = []
      rw [fatal_sch, hcauses]
      rfl
    · have := (List.mem_filter.1 hr).2
      rw [List.contains_iff_mem.2 (List.mem_singleton_self r)] at this
      exact Bool.false_ne_true this
  · unfold exec execRemapComplete
    rw [List.find?_eq_none.2 fun c hc h => by
      rw [Bool.and_eq_true, beq_iff_eq] at h
      exact Bool.false_ne_true (h7.symm.trans (hasCause_of_mem hc h.1))]
  · refine congrArg Host.Outcome.next (if_neg fun h => ?_)
    obtain ⟨c, hc, h⟩ := List.any_eq_true.1 h
    rw [Bool.and_eq_true, Bool.and_eq_true, beq_iff_eq] at h
    exact Bool.false_ne_true (h7.symm.trans (hasCause_of_mem hc h.1.1))
  · have hex := rowRepair_one (s := s) hrows hst hti hro hcop
    obtain ⟨hr, hlog, hfull, hevr⟩ := rowMade_leaves (s := { s with rep := { s.rep with rows := { f with copied := true } :: q } }) (f := f) (by rw [hst]; exact stack.isLt)
    exact ⟨_, hex, hr, hlog, hfull, hevr.trans ((raise_evr_congr (s := s) (t := { s with rep := { s.rep with rows := { f with copied := true } :: q } }) rfl rfl rfl ..).trans
      (by rw [hst, hti, hro]))⟩
  · refine congrArg Host.Outcome.next ?_
    rw [hrows]
    rfl
  · have hk : bits v.toNat 3 0 = v.toNat % 16 := by
      rw [bits_eq, Nat.pow_zero, Nat.div_one]
      rfl
    intro run
    refine ⟨fun hv hm hq => ?_, fun hv hbusy => ?_⟩
    · have hchk : firstAbort [(!v.getLsbD 15 || (s.rep.stackMap.isNone && s.rep.stackReq.isNone), abINCONS)] = 0 := by
        rw [hm, hq]
        exact firstAbort_zero _ (List.forall_mem_cons.2 ⟨Bool.or_true _, List.forall_mem_nil _⟩)
      have hex : exec (.stackFenceRequest p v) s = .next (okResp (({ s with rep := { s.rep with stackReq := some (v.toNat % 16 + if stagesNow s then 16 else 0) } } : State).cond
          (stagesNow s) fun s => haltNext s 0x0F06) p 0x309400) := by
        refine congrArg Host.Outcome.next ((odReq_done h rfl hchk).trans ?_)
        rw [if_pos hv, hk]
      by_cases hrun : run
      · rw [stagesNow_iff.2 hrun] at hex
        exact ⟨_, hex, okResp_granted .., fun _ => ⟨rfl, rfl⟩, fun hn => absurd hrun hn, rfl⟩
      · rw [Bool.eq_false_iff.2 fun hs => hrun (stagesNow_iff.1 hs)] at hex
        exact ⟨_, hex, okResp_granted .., fun hr => absurd hr hrun, fun _ => ⟨rfl, rfl⟩, rfl⟩
    · have hnone : (s.rep.stackMap.isNone && s.rep.stackReq.isNone) = false := by
        rw [Bool.and_eq_false_iff]
        exact hbusy.imp (fun h => Option.isNone_eq_false_iff.2 (Option.isSome_iff_ne_none.2 h)) fun h => Option.isNone_eq_false_iff.2 (Option.isSome_iff_ne_none.2 h)
      refine ⟨_, congrArg Host.Outcome.next (odReq_fails h (n := abINCONS) ?_ (by decide)), refuse_denied .., refuse_rep ..⟩
      rw [hv, hnone]
      rfl
  · have hex : exec (.watchdogExpire h) s = .next (watchdog s h.val) := congrArg Host.Outcome.next (if_neg (by rw [hrun]; decide))
    obtain ⟨u, hroles, hon, hdev, hharts, hd, hdict⟩ := watchdog_eq hrole hhalt hupd
    have hru : (u.hart h.val).role < 3 := (hroles h.val).symm ▸ hrole
    obtain ⟨⟨h4, hcl⟩, hfdev, hfon⟩ := hartFail_out hru
    refine ⟨_, hex, by rw [hharts, h4], by rw [hharts, hcl], fun j hj h3 hfirst => ?_, fun hall => ?_, (hd.trans hfdev).trans hdev⟩
    · have hf := hartFail_standby hru hj ((hroles j).trans h3) fun k hk => (hroles k).symm ▸ hfirst k hk
      rw [hharts, hdict, hfon, hon, hf]
      refine ⟨?_, rfl⟩
      rw [State.mapHart_hart_same]
      exact hroles h.val
    · rw [hdict, hartFail_alone hru fun k hk hne => (hroles k).trans (hall k hk hne)]
      rfl
  · refine congrArg Host.Outcome.next ?_
    split
    · rfl
    · exact if_pos (.inl hrole)

end Sys2Proof.Machine
end

section
/-! PROOFS. Pieces and their verification (O44). -/
namespace Sys2Proof.Machine

section
variable {s t : State} {st i : Nat}

/-! ### Pieces and streams -/

theorem pieceState_of {v : PieceState} (h : t.wts.pstate = fset s.wts.pstate .none i v) (j : Nat) : pieceState t j = if j = i then v else pieceState s j := by
  rw [pieceState, h]
  exact fget_fset ..

theorem setPiece_pieceState (v : PieceState) (j : Nat) : pieceState (setPiece s i v) j = if j = i then v else pieceState s j := pieceState_of rfl j

/-- A value other than the default is read whatever default the reader takes. -/
theorem fget_fset_present {α : Type} [DecidableEq α] (m : FMap α) (d e : α) (k : Nat) {v : α} (hv : v ≠ d) : fget (fset m d k v) e k = v := by
  induction m with
  | nil =>
    rw [fset, if_neg hv, fget, if_pos rfl]
  | cons p r ih =>
    obtain ⟨a, w⟩ := p
    unfold fset
    rw [if_neg hv]
    split
    · exact if_pos rfl
    · next hk =>
      split
      · exact if_pos rfl
      · rw [fget, if_neg hk, ih]

theorem find_fdel {α : Type} (m : FMap α) (k : Nat) : (fdel m k).find? (fun p => p.1 == k) = none := by
  refine List.find?_eq_none.2 fun p hp h => ?_
  have := (List.mem_filter.1 hp).2
  rw [bne, h] at this
  exact Bool.false_ne_true this

theorem abandon_none (h : (s.wts.streams.find? fun p => p.1 == st) = none) : abandon s st = s := by
  unfold abandon
  rw [h]

theorem abandon_some {o : OpenPiece} (h : (s.wts.streams.find? fun p => p.1 == st) = some (st, o)) :
    abandon s st = (setPiece s o.piece .bad).mapWts fun w => { w with streams := fdel w.streams st } := by
  unfold abandon
  rw [h]

theorem refetchTakes_none (h : s.wts.refetch = []) (head : Bool) (bs : List Byte) : refetchTakes s st head bs = false := by
  unfold refetchTakes
  rw [h]

theorem refetchCut_none (h : s.wts.refetch = []) : refetchCut s st = s := by
  unfold refetchCut
  rw [refetchTakes_none h]
  rfl

theorem fabricTakes_of (hb : s.dev.busy = false) (hs : s.dev.state = .ready ∨ s.dev.state = .running ∨ s.dev.state = .draining) : fabricTakes s = true := by
  unfold fabricTakes
  rw [hb]
  obtain h | h | h := hs <;> rw [h] <;> rfl

theorem msgServed_on (h : msgServed s = true) : s.dev.state ≠ .off ∧ s.dev.state ≠ .boot := by
  unfold msgServed at h
  rw [Bool.and_eq_true, bne_iff_ne, bne_iff_ne] at h
  exact h

/-! ### Intake (R354, R356, R357) -/

theorem intakeHeader_eq {v : Fin 8} {h : List Byte} (ht : fabricTakes s = true) (hr : s.wts.refetch = []) (hf : CycleFree s (.intakeHeader v h)) :
    exec (.intakeHeader v h) s = .next (intakeHead s v.val h) := by
  refine congrArg Host.Outcome.next ((if_pos ht).trans ?_)
  rw [intakeHeader, refetchTakes_none hr, if_neg Bool.false_ne_true]
  exact outsideDo_done hf

theorem intakeData_eq {v : Fin 8} {tag : Nat} {bs : List Byte} (ht : fabricTakes s = true) (hr : s.wts.refetch = []) (hf : CycleFree s (.intakeData v tag bs)) :
    exec (.intakeData v tag bs) s = .next (intakeBody s v.val tag bs) := by
  refine congrArg Host.Outcome.next ((if_pos ht).trans ?_)
  rw [intakeData, refetchTakes_none hr, if_neg Bool.false_ne_true]
  exact outsideDo_done hf

theorem intakeHead_piece {h : List Byte} (hr : s.wts.refetch = []) (hst : (s.wts.streams.find? fun x => x.1 == st) = none) (hok : intakeOk h = true)
    (h9 : byteAt h 9 = 0#8) (hp : intakePiece s h = some i) : intakeHead s st h = { s with wts := { s.wts with
      pstate := fset s.wts.pstate .none i .filling, streams := fset s.wts.streams { piece := bedPieces, next := 0 } st { piece := i, next := 0 } } } := by
  unfold intakeHead
  rw [abandon_none hst, refetchCut_none hr]
  dsimp only
  rw [hok, h9, hp]
  rfl

theorem intakeHead_bad {h : List Byte} (hr : s.wts.refetch = []) (hst : (s.wts.streams.find? fun x => x.1 == st) = none) (hok : intakeOk h = false) :
    intakeHead s st h = intakeDrop s := by
  unfold intakeHead
  rw [abandon_none hst, refetchCut_none hr]
  dsimp only
  rw [hok]
  rfl

theorem intakeBody_next {o : OpenPiece} {bs : List Byte} (hst : (s.wts.streams.find? fun x => x.1 == st) = some (st, o)) (ho : pieceOpen s o.piece = true) :
    intakeBody s st o.next bs = if o.next + 1 = 1024 then (bedWrite s (pieceBytes * o.piece + 64 * o.next) (padTo 64 bs)).mapWts fun w => { w with
        streams := fdel w.streams st, hashing := w.hashing.filter (fun j => j != o.piece) ++ [o.piece] }
      else (bedWrite s (pieceBytes * o.piece + 64 * o.next) (padTo 64 bs)).mapWts fun w => { w with
        streams := fset w.streams { piece := bedPieces, next := 0 } st { o with next := o.next + 1 } } := by
  unfold intakeBody
  rw [hst]
  dsimp only
  rw [ho]
  exact if_neg fun h => h rfl

theorem intakeBody_gap {o : OpenPiece} {tag : Nat} {bs : List Byte} (hst : (s.wts.streams.find? fun x => x.1 == st) = some (st, o)) (hne : tag ≠ o.next) :
    intakeBody s st tag bs = intakeDrop ((setPiece s o.piece .bad).mapWts fun w => { w with streams := fdel w.streams st }) := by
  unfold intakeBody
  rw [hst]
  dsimp only
  rw [if_pos hne, abandon_some hst]

theorem bedWrite_wrote (a : Nat) (bs : List Byte) : Wrote s.beds.mem (bedWrite s a bs).beds.mem a bs := fun _ => mget_mwrite ..

/-! ### Whole pieces (R356) -/

theorem tribPieceWrite_eq {d : List Byte} (hm : msgServed s = true) (hf : CycleFree s (.tribPieceWrite d))
    (hr : (intakeOk (d.take 16) && byteAt (d.take 16) 9 == 0#8 && d.length == 16 + pieceBytes && s.wts.relay.getLsbD 15) = false) :
    exec (.tribPieceWrite d) s = .next (tribPiece s d) := by
  have hd : outsideDo s (.tribPieceWrite d) (fun s => tribPiece s d) = tribPiece s d := outsideDo_done hf
  refine congrArg Host.Outcome.next ((if_neg (by rw [hm]; decide)).trans ?_)
  rw [hr, hd]
  rfl

theorem byteAt_take {d : List Byte} {n k : Nat} (h : k < n) : byteAt (d.take n) k = byteAt d k := by
  rw [byteAt, byteAt, List.getD_eq_getElem?_getD, List.getD_eq_getElem?_getD, List.getElem?_take_of_lt h]

theorem tribPiece_good {d : List Byte} (hok : intakeOk (d.take 16) = true) (h9 : byteAt d 9 = 0#8) (hlen : d.length = 16 + 65536)
    (hp : intakePiece s (d.take 16) = some i) : tribPiece s d = (bedWrite (setPiece s i .filling) (pieceBytes * i) (d.drop 16)).mapWts fun w => { w with
      hashing := w.hashing.filter (fun j => j != i) ++ [i] } := by
  unfold tribPiece
  dsimp only
  rw [if_neg (fun h => h.elim (by rw [hok]; decide) fun h => h.elim (fun h => h ((byteAt_take (by decide)).trans h9)) fun h => h hlen), hp]

theorem tribPiece_length {d : List Byte} (hlen : d.length ≠ 16 + 65536) : tribPiece s d = intakeDrop s := if_pos (.inr (.inr hlen))

/-! ### The hash (R358) -/

theorem hashDone_valid (h : s.wts.hashing.contains i = true) (hm : pieceMatches s i = true) :
    hashDone s i = pieceCame (setPiece (s.mapWts fun w => { w with hashing := w.hashing.filter fun j => j != i }) i .valid) i := by
  unfold hashDone
  rw [if_pos h]
  exact if_pos hm

theorem hashDone_bad (h : s.wts.hashing.contains i = true) (hm : pieceMatches s i = false) : hashDone s i = { s with
    wts := { s.wts with hashing := s.wts.hashing.filter fun j => j != i, pstate := fset s.wts.pstate .none i .bad, arrFail := sat32 s.wts.arrFail },
    evr := (raise s 0x0B01 0x10 [i]).evr } := by
  have hn : ¬ pieceMatches (s.mapWts fun w => { w with hashing := w.hashing.filter fun j => j != i }) i = true := by
    rw [show pieceMatches (s.mapWts fun w => { w with hashing := w.hashing.filter fun j => j != i }) i = pieceMatches s i from rfl, hm]
    exact Bool.false_ne_true
  unfold hashDone
  rw [if_pos h]
  dsimp only
  rw [if_neg hn, raise_eq (s := s)] <;> rfl

theorem not_mem_filter_ne (l : List Nat) (i : Nat) : i ∉ l.filter fun j => j != i := fun h => by
  have := (List.mem_filter.1 h).2
  rw [bne_self_eq_false] at this
  exact Bool.false_ne_true this

end

/-- Settles O44. -/
theorem piecesAreVerified : Obligations.PiecesAreVerified := by
  intro s
  refine ⟨fun v hb hs hr => ?_, fun hm => ⟨fun d i hf hok h9 hlen hp hrel => ?_, fun d hf hlen => ?_⟩, fun i h => ⟨fun hm => ?_, fun hm => ?_⟩,
    fun i h habs => ⟨fun hm => ?_, fun hm => ?_⟩⟩
  · have ht := fabricTakes_of hb hs
    refine ⟨fun h i hf hst hok h9 hp hi => ?_, fun h hf hst hok => ?_, fun o bs hf hst ho => ?_, fun o tag bs hf hst hne => ?_⟩
    · have hex := intakeHeader_eq ht hr hf
      rw [intakeHead_piece hr hst hok h9 hp] at hex
      refine ⟨_, hex, (pieceState_of rfl i).trans (if_pos rfl), fun d => fget_fset_present _ _ _ _ fun e => ?_, fun j hj => (pieceState_of rfl j).trans (if_neg hj), rfl⟩
      exact absurd (congrArg OpenPiece.piece e) (Nat.ne_of_lt hi)
    · rw [intakeHeader_eq ht hr hf, intakeHead_bad hr hst hok]
      rfl
    · have hex := intakeData_eq ht hr hf
      rw [intakeBody_next hst ho] at hex
      by_cases hn : o.next + 1 = 1024
      · rw [if_pos hn] at hex
        exact ⟨_, hex, bedWrite_wrote _ _, fun _ => ⟨List.mem_append_right _ (List.mem_singleton_self _), find_fdel _ _⟩, fun h => absurd hn h, rfl, rfl⟩
      · rw [if_neg hn] at hex
        exact ⟨_, hex, bedWrite_wrote _ _, fun h => absurd h hn,
          fun _ => ⟨rfl, fun d => fget_fset_present _ _ _ _ fun e => absurd (congrArg OpenPiece.next e) (Nat.succ_ne_zero _)⟩, rfl, rfl⟩
    · have hex := intakeData_eq ht hr hf
      rw [intakeBody_gap hst hne] at hex
      exact ⟨_, hex, (pieceState_of rfl _).trans (if_pos rfl), rfl, rfl⟩
  · have hex := tribPieceWrite_eq hm hf (by rw [hrel, Bool.and_false])
    rw [tribPiece_good hok h9 hlen hp] at hex
    exact ⟨_, hex, bedWrite_wrote (s := setPiece s i .filling) _ _, (pieceState_of rfl i).trans (if_pos rfl), List.mem_append_right _ (List.mem_singleton_self _)⟩
  · rw [tribPieceWrite_eq hm hf (by rw [beq_eq_false_iff_ne.2 (show d.length ≠ 16 + pieceBytes from hlen), Bool.and_false, Bool.false_and]), tribPiece_length hlen]
    rfl
  · exact ⟨_, congrArg Host.Outcome.next (hashDone_valid h hm), (pieceState_of rfl i).trans (if_pos rfl), not_mem_filter_ne _ _, rfl⟩
  · exact ⟨_, congrArg Host.Outcome.next (hashDone_bad h hm), (pieceState_of rfl i).trans (if_pos rfl), not_mem_filter_ne _ _, rfl, rfl⟩
  · have he : hashDone s i = setPiece s i .valid := (if_neg (by rw [h]; exact Bool.false_ne_true)).trans (if_pos ⟨habs, hm⟩)
    exact ⟨_, congrArg Host.Outcome.next he, (setPiece_pieceState _ _).trans (if_pos rfl), fun j hj => (setPiece_pieceState _ _).trans (if_neg hj)⟩
  · exact congrArg Host.Outcome.next ((if_neg (by rw [h]; exact Bool.false_ne_true)).trans (if_neg fun hc => Bool.false_ne_true (hm.symm.trans hc.2)))

end Sys2Proof.Machine
end

section
/-! PROOFS. What a link sends of the one buffer that has packets for it (R309, R335, R337). -/
namespace Sys2Proof.Machine

section
variable {s t : State} {l v src n u : Nat} {ps r : List Packet} {p : Packet}

/-! ### A link whose packets stand in one buffer -/

/-- The buffers of link `l` hold nothing but `ps`, which stand in buffer `src` for output VC `v`. -/
structure Alone (s : State) (l v src : Nat) (ps : List Packet) : Prop where
  first : ∀ u, u < 8 → fget s.fab.inj [] (8 * l + u) = if src = 0 ∧ u = v then ps else []
  second : ∀ u, u < 8 → fget s.fab.inj2 [] (8 * l + u) = if src = 1 ∧ u = v then ps else []
  load : (s.link l).outQ = if src = 2 then ps else []
  vc : src = 2 → ∀ p ∈ ps, hVcNo p = v
  held : (s.fab.waiting = [] ∧ (3 ≤ src → ps = [])) ∨ ∃ w q, s.fab.waiting = [w] ∧ src = w.origin + 3 ∧ w.origin < 128 ∧ w.origin / 8 ≠ l ∧ w.told = true ∧
    route s w.pkt = (q, some l) ∧ hVcNo q = v ∧ ps = [q]

/-- Link `l` is sending `ps` of buffer `src` on output VC `v`, with `n` flits of the first packet gone. -/
structure Sending (s : State) (l v src : Nat) (ps : List Packet) (n : Nat) : Prop where
  alone : Alone s l v src ps
  tx : (s.link l).tx = if n = 0 then [] else [(v, (src, n))]
  mid : n ≠ 0 → ps ≠ []
  lt : n < 5
  vlt : v < 8
  clear : (s.link l).peerXoff.getLsbD v = false

theorem route_congr (h : ∀ i, (t.link i).dateline = (s.link i).dateline) (p : Packet) : route t p = route s p := by
  unfold route
  rw [funext h]

theorem Alone.congr (h : Alone s l v src ps) (h1 : ∀ u, u < 8 → fget t.fab.inj [] (8 * l + u) = fget s.fab.inj [] (8 * l + u))
    (h2 : ∀ u, u < 8 → fget t.fab.inj2 [] (8 * l + u) = fget s.fab.inj2 [] (8 * l + u)) (ho : (t.link l).outQ = (s.link l).outQ)
    (hw : t.fab.waiting = s.fab.waiting) (hd : ∀ i, (t.link i).dateline = (s.link i).dateline) : Alone t l v src ps := by
  obtain ⟨hf, hs, hq, hv, hh⟩ := h
  refine ⟨fun u hu => (h1 u hu).trans (hf u hu), fun u hu => (h2 u hu).trans (hs u hu), ho.trans hq, hv, ?_⟩
  rw [hw]
  refine hh.imp_right fun ⟨w, q, hw, hsrc, ho, hl, ht, hr, hc, hp⟩ => ⟨w, q, hw, hsrc, ho, hl, ht, (route_congr hd _).trans hr, hc, hp⟩

theorem find_eq_head {α : Type} {f : α → Bool} {l : List α} (h : ∀ x ∈ l, f x = true) : l.find? f = l.head? := by
  cases l with
  | nil => rfl
  | cons x l => rw [List.find?_cons_of_pos (h x List.mem_cons_self), List.head?_cons]

theorem srcPacket_held (o : Nat) : srcPacket s l u (o + 3) = match s.fab.waiting.find? (fun w => w.origin == o) with
    | some w => if w.told ∧ (route s w.pkt).2 = some l ∧ hVcNo (route s w.pkt).1 = u then some (route s w.pkt).1 else none
    | none => none := rfl

/-- What the buffers offer to the output VCs of the link. -/
theorem Alone.offers (h : Alone s l v src ps) (hu : u < 8) (x : Nat) : srcPacket s l u x = if x = src ∧ u = v then ps.head? else none := by
  obtain ⟨hf, hs, hq, hv, hh⟩ := h
  match x with
  | 0 =>
    unfold srcPacket
    rw [hf u hu]
    by_cases hc : src = 0 ∧ u = v
    · rw [if_pos hc, if_pos ⟨hc.1.symm, hc.2⟩]
    · rw [if_neg hc, if_neg fun h => hc ⟨h.1.symm, h.2⟩]
      rfl
  | 1 =>
    unfold srcPacket
    rw [hs u hu]
    by_cases hc : src = 1 ∧ u = v
    · rw [if_pos hc, if_pos ⟨hc.1.symm, hc.2⟩]
    · rw [if_neg hc, if_neg fun h => hc ⟨h.1.symm, h.2⟩]
      rfl
  | 2 =>
    unfold srcPacket
    rw [hq]
    by_cases h2 : src = 2
    · rw [if_pos h2]
      by_cases huv : u = v
      · rw [if_pos ⟨h2.symm, huv⟩]
        exact find_eq_head fun p hp => beq_iff_eq.2 ((hv h2 p hp).trans huv.symm)
      · rw [if_neg fun h => huv h.2]
        exact List.find?_eq_none.2 fun p hp h => huv ((beq_iff_eq.1 h).symm.trans (hv h2 p hp))
    · rw [if_neg h2, if_neg fun h => h2 h.1.symm]
      rfl
  | o + 3 =>
    rw [srcPacket_held]
    obtain ⟨hw, hps⟩ | ⟨w, q, hw, hsrc, ho, hl, ht, hr, hc, rfl⟩ := hh
    · rw [hw]
      by_cases h3 : o + 3 = src ∧ u = v
      · rw [if_pos h3, hps (by omega)]
        rfl
      · rw [if_neg h3]
        rfl
    · rw [hw]
      by_cases hwo : w.origin = o
      · rw [List.find?_cons_of_pos (p := fun w : HeldPkt => w.origin == o) (beq_iff_eq.2 hwo)]
        dsimp only
        rw [hr, ht, hc]
        by_cases huv : u = v
        · rw [if_pos ⟨rfl, rfl, huv.symm⟩, if_pos ⟨by omega, huv⟩]
          rfl
        · rw [if_neg fun h => huv h.2.2.symm, if_neg fun h => huv h.2]
      · rw [List.find?_cons_of_neg (p := fun w : HeldPkt => w.origin == o) (fun h => hwo (beq_iff_eq.1 h)), if_neg (by omega)]
        rfl

theorem Alone.mem_srcList (h : Alone s l v src (p :: r)) : src ∈ srcList s := by
  obtain ⟨-, hps⟩ | ⟨w, q, hw, hsrc, ho, -⟩ := h.held
  · have h3 : ¬ 3 ≤ src := fun h => List.cons_ne_nil _ _ (hps h)
    refine List.mem_append_left _ ?_
    simp only [List.mem_cons, List.not_mem_nil, or_false]
    omega
  · refine List.mem_append_right _ ?_
    rw [hw, hsrc]
    simp [uniq, ho]

/-- A list whose elements are all one value gives that value, whichever is taken. -/
theorem find_or_head {α : Type} {f : α → Bool} {l : List α} {x : α} (hm : x ∈ l) (h : ∀ y ∈ l, y = x) : (l.find? f).or l.head? = some x := by
  cases hf : l.find? f with
  | some y => exact congrArg some (h y (List.mem_of_find?_eq_some hf))
  | none =>
    cases l with
    | nil => exact absurd hm List.not_mem_nil
    | cons y l => exact congrArg some (h y List.mem_cons_self)

/-- Only the VC of the packets is claimed. -/
theorem Sending.claims (h : Sending s l v src ps n) (hu : u < 8) : claimOf s l u = if u = v ∧ ps ≠ [] then some (src, n) else none := by
  have hopen (hc : (s.link l).tx.find? (fun p => p.1 == u) = none) (hn : n = 0 ∨ u ≠ v) : claimOf s l u = if u = v ∧ ps ≠ [] then some (src, n) else none := by
    unfold claimOf
    rw [hc]
    dsimp only
    by_cases huv : u = v ∧ ps ≠ []
    · obtain ⟨huv, hps⟩ := huv
      obtain ⟨p, r, rfl⟩ := List.exists_cons_of_ne_nil hps
      have hall (x : Nat) : (srcPacket s l u x).isSome = true ↔ x = src := by
        rw [h.alone.offers hu x]
        by_cases hx : x = src
        · rw [if_pos ⟨hx, huv⟩]
          exact ⟨fun _ => hx, fun _ => rfl⟩
        · rw [if_neg fun h => hx h.1]
          exact ⟨fun h => absurd h Bool.false_ne_true, fun h => absurd h hx⟩
      rw [if_pos ⟨huv, hps⟩, find_or_head (x := src) (List.mem_filter.2 ⟨h.alone.mem_srcList, (hall src).2 rfl⟩) fun y hy => (hall y).1 (List.mem_filter.1 hy).2,
        hn.resolve_right fun h => h huv]
      rfl
    · have hnil : (srcList s).filter (fun x => (srcPacket s l u x).isSome) = [] := by
        refine List.filter_eq_nil_iff.2 fun x _ => ?_
        rw [h.alone.offers hu x]
        split
        · next hx =>
          have hps : ps = [] := by
            by_contra hne
            exact huv ⟨hx.2, hne⟩
          rw [hps]
          exact Bool.false_ne_true
        · exact Bool.false_ne_true
      rw [hnil, if_neg huv]
      rfl
  by_cases hn : n = 0
  · refine hopen ?_ (.inl hn)
    rw [h.tx, if_pos hn]
    rfl
  · by_cases huv : u = v
    · unfold claimOf
      rw [h.tx, if_neg hn, huv, List.find?_cons_of_pos (p := fun p : Nat × Nat × Nat => p.1 == v) (beq_self_eq_true v), if_pos ⟨rfl, h.mid hn⟩]
    · refine hopen ?_ (.inr huv)
      rw [h.tx, if_neg hn, List.find?_cons_of_neg (p := fun p : Nat × Nat × Nat => p.1 == u) (fun h => huv (beq_iff_eq.1 h).symm)]
      rfl

theorem Sending.ready (h : Sending s l v src ps n) (hu : u < 8) : vcReady s l u = decide (u = v ∧ ps ≠ []) := by
  unfold vcReady
  rw [h.claims hu]
  by_cases hc : u = v ∧ ps ≠ []
  · rw [if_pos hc, hc.1, h.clear, decide_eq_true ⟨rfl, hc.2⟩]
    rfl
  · rw [if_neg hc, decide_eq_false hc]
    exact Bool.and_false _

theorem Sending.classPick (h : Sending s l v src ps n) {c : Nat} (hc : c < 4) : classVc s l c = if c = v / 2 ∧ ps ≠ [] then some v else none := by
  have hv := h.vlt
  unfold classVc
  by_cases hp : ps = []
  · rw [if_neg fun h => h.2 hp]
    refine List.find?_eq_none.2 fun x hx => ?_
    rw [h.ready (by simp only [List.mem_cons, List.not_mem_nil, or_false] at hx; omega), decide_eq_true_iff]
    exact fun h => h.2 hp
  · by_cases hcv : c = v / 2
    · rw [if_pos ⟨hcv, hp⟩]
      by_cases hodd : 2 * c + 1 = v
      · rw [List.find?_cons_of_pos (by rw [h.ready (by omega)]; exact decide_eq_true ⟨hodd, hp⟩), hodd]
      · rw [List.find?_cons_of_neg (by rw [h.ready (by omega), decide_eq_true_iff]; exact fun h => hodd h.1),
          List.find?_cons_of_pos (by rw [h.ready (by omega)]; exact decide_eq_true ⟨by omega, hp⟩), show 2 * c = v by omega]
    · rw [if_neg fun h => hcv h.1]
      refine List.find?_eq_none.2 fun x hx => ?_
      have hx : x = 2 * c + 1 ∨ x = 2 * c := by simpa only [List.mem_cons, List.not_mem_nil, or_false] using hx
      rw [h.ready (by omega), decide_eq_true_iff]
      exact fun h => hcv (by omega)

/-- The VC of the packets goes next (R337). -/
theorem Sending.picks (h : Sending s l v src (p :: r) n) : ∃ fresh, pickVc s l = some (v, fresh) := by
  have hv := h.vlt
  have hnone {c : Nat} (hc : c < 4) (hne : c ≠ v / 2) : classVc s l c = none := (h.classPick hc).trans (if_neg fun h => hne h.1)
  have hsome : classVc s l (v / 2) = some v := (h.classPick (by omega)).trans (if_pos ⟨rfl, List.cons_ne_nil _ _⟩)
  have hfind (q : List Nat) (hq : ∀ x ∈ q, x < 4) : q.findSome? (classVc s l) = if v / 2 ∈ q then some v else none := by
    induction q with
    | nil => rfl
    | cons x q ih =>
      rw [List.findSome?_cons]
      by_cases hx : x = v / 2
      · rw [hx, hsome, if_pos List.mem_cons_self]
      · rw [hnone (hq x List.mem_cons_self) hx]
        dsimp only
        rw [ih fun y hy => hq y (List.mem_cons_of_mem _ hy)]
        exact if_congr (by rw [List.mem_cons]; exact ⟨.inr, fun h => h.resolve_left (Ne.symm hx)⟩) rfl rfl
  unfold pickVc
  dsimp only
  by_cases h0 : v / 2 = 0
  · rw [← h0, hsome]
    exact ⟨false, rfl⟩
  · rw [hnone (by decide) (Ne.symm h0)]
    dsimp only
    have hin : v / 2 ∈ [1, 2, 3] := by
      simp only [List.mem_cons, List.not_mem_nil, or_false]
      omega
    rw [hfind _ fun x hx => by have := (List.mem_filter.1 hx).1; simp only [List.mem_cons, List.not_mem_nil, or_false] at this; omega]
    split
    · next w hw =>
      split at hw
      · exact ⟨false, by rw [← Option.some.inj hw]⟩
      · cases hw
    · rw [hfind _ (by decide), if_pos hin]
      exact ⟨true, rfl⟩

theorem Sending.picks_none (h : Sending s l v src [] n) : pickVc s l = none := by
  have hnone {c : Nat} (hc : c < 4) : classVc s l c = none := (h.classPick hc).trans (if_neg fun h => h.2 rfl)
  have hfind (q : List Nat) (hq : ∀ x ∈ q, x < 4) : q.findSome? (classVc s l) = none := List.findSome?_eq_none_iff.2 fun x hx => hnone (hq x hx)
  unfold pickVc
  dsimp only
  rw [hnone (by decide), hfind _ fun x hx => by have := (List.mem_filter.1 hx).1; simp only [List.mem_cons, List.not_mem_nil, or_false] at this; omega,
    hfind _ (by decide)]
  rfl

/-! ### A flit that leaves -/

/-- A link without what its arbitration remembers and its queue. -/
def Link.flowRest (k : Link) : Link := { k with rr := [], wrr := [], tx := [], outQ := [] }

/-- What flits that leave link `l` from buffer `src` change. -/
structure Flow (s t : State) (l v src : Nat) : Prop where
  frame : t = { s with fab := { s.fab with links := t.fab.links, inj := t.fab.inj, inj2 := t.fab.inj2, waiting := t.fab.waiting, injAt := t.fab.injAt }
                       sch := { s.sch with causes := t.sch.causes } }
  self : (t.link l).flowRest = (s.link l).flowRest
  others : src < 3 → ∀ h, h ≠ l → t.link h = s.link h
  dateline : ∀ h, (t.link h).dateline = (s.link h).dateline
  inj : ∀ b, (src = 0 → b ≠ 8 * l + v) → fget t.fab.inj [] b = fget s.fab.inj [] b
  inj2 : ∀ b, (src = 1 → b ≠ 8 * l + v) → fget t.fab.inj2 [] b = fget s.fab.inj2 [] b
  causes : src ≠ 0 → t.sch = s.sch

theorem Flow.refl (s : State) : Flow s s l v src := ⟨rfl, rfl, fun _ _ _ => rfl, fun _ => rfl, fun _ _ => rfl, fun _ _ => rfl, fun _ => rfl⟩

theorem Flow.trans {w : State} (h : Flow s t l v src) (h' : Flow t w l v src) : Flow s w l v src := by
  refine ⟨?_, h'.self.trans h.self, fun h3 i hi => (h'.others h3 i hi).trans (h.others h3 i hi), fun i => (h'.dateline i).trans (h.dateline i),
    fun b hb => (h'.inj b hb).trans (h.inj b hb), fun b hb => (h'.inj2 b hb).trans (h.inj2 b hb), fun h0 => (h'.causes h0).trans (h.causes h0)⟩
  rw [h'.frame, h.frame]

theorem link_mapLink_rest {f : Link → Link} (hf : ∀ k, (f k).flowRest = k.flowRest) (i : Nat) : ((s.mapLink l f).link i).flowRest = (s.link i).flowRest := by
  rw [State.mapLink_link]
  split
  · next h => rw [h, hf]
  · rfl

/-- A change of what a link's arbitration remembers is a flow. -/
theorem Flow.mapLink {f : Link → Link} (hf : ∀ k, (f k).flowRest = k.flowRest) : Flow s (s.mapLink l f) l v src := by
  refine ⟨rfl, link_mapLink_rest hf l, fun _ i hi => State.mapLink_link_ne _ _ _ _ hi, fun i => ?_, fun _ _ => rfl, fun _ _ => rfl, fun _ => rfl⟩
  have h := congrArg Link.dateline (link_mapLink_rest (s := s) (l := l) hf i)
  exact h

theorem Flow.rxDrop {o : Nat} (fl : BitVec 128) (ho : o / 8 ≠ l) : Flow s (rxDrop s o fl) l v (o + 3) := by
  unfold Machine.rxDrop
  split
  · refine ⟨rfl, ?_, fun h => absurd h (by omega), fun i => ?_, fun _ _ => rfl, fun _ _ => rfl, fun _ => rfl⟩
    · rw [State.mapLink_link_ne _ _ _ _ (Ne.symm ho)]
    · rw [State.mapLink_link]
      split
      · next h => rw [h]
      · rfl
  · exact .refl s

theorem rxDrop_keeps (o : Nat) (fl : BitVec 128) : (∀ i, (Machine.rxDrop s o fl).link i = s.link i ∨ i = o / 8) ∧ (Machine.rxDrop s o fl).fab.waiting = s.fab.waiting := by
  unfold Machine.rxDrop
  split
  · refine ⟨fun i => ?_, rfl⟩
    by_cases hi : i = o / 8
    · exact .inr hi
    · exact .inl (State.mapLink_link_ne _ _ _ _ hi)
  · exact ⟨fun _ => .inl rfl, rfl⟩

theorem injFreed_keeps (had : Bool) (b : Nat) : (injFreed had s b).fab = { s.fab with injAt := (injFreed had s b).fab.injAt } ∧
    injFreed had s b = { s with fab := (injFreed had s b).fab, sch := { s.sch with causes := (injFreed had s b).sch.causes } } := by
  unfold injFreed
  split
  · cases had <;> exact ⟨rfl, rfl⟩
  · exact ⟨rfl, rfl⟩

theorem Flow.injFreed (had : Bool) (b : Nat) : Flow s (injFreed had s b) l v 0 := by
  obtain ⟨hfab, hall⟩ := injFreed_keeps (s := s) had b
  have hlink (i : Nat) : (Machine.injFreed had s b).link i = s.link i := by rw [State.link, hfab]; rfl
  refine ⟨?_, congrArg _ (hlink l), fun _ i _ => hlink i, fun i => congrArg _ (hlink i), fun i _ => by rw [hfab], fun i _ => by rw [hfab], fun h => absurd rfl h⟩
  rw [hall, hfab]

theorem Flow.popFirst (q : List Packet) : Flow s (s.mapFab fun f => { f with inj := fset f.inj [] (8 * l + v) q }) l v 0 :=
  ⟨rfl, rfl, fun _ _ _ => rfl, fun _ => rfl, fun _ hb => fget_fset_ne _ _ _ _ _ _ (hb rfl), fun _ _ => rfl, fun _ => rfl⟩

theorem Flow.setSecond (q : List Packet) : Flow s (s.mapFab fun f => { f with inj2 := fset f.inj2 [] (8 * l + v) q }) l v 1 :=
  ⟨rfl, rfl, fun _ _ _ => rfl, fun _ => rfl, fun _ _ => rfl, fun _ hb => fget_fset_ne _ _ _ _ _ _ (hb rfl), fun _ => rfl⟩

theorem Flow.setWaiting (f : List HeldPkt → List HeldPkt) : Flow s (s.mapFab fun x => { x with waiting := f x.waiting }) l v src :=
  ⟨rfl, rfl, fun _ _ _ => rfl, fun _ => rfl, fun _ _ => rfl, fun _ _ => rfl, fun _ => rfl⟩

theorem Flow.peerXoff (h : Flow s t l v src) : (t.link l).peerXoff = (s.link l).peerXoff := by
  have e := congrArg Link.peerXoff h.self
  exact e

/-- What a stamp leaves where the packet bears it already. -/
theorem srcStamp_keeps (h : Alone s l v src (p :: r)) (hv : v < 8) : Flow s (srcStamp s l v src p) l v src ∧ Alone (srcStamp s l v src p) l v src (p :: r) ∧
    ∀ i, (srcStamp s l v src p).link i = s.link i := by
  unfold srcStamp
  split
  · next h1 =>
    subst h1
    refine ⟨.setSecond _, h.congr (fun _ _ => rfl) (fun u hu => ?_) rfl rfl (fun _ => rfl), fun _ => rfl⟩
    have hq : fget s.fab.inj2 [] (8 * l + v) = p :: r := (h.second v hv).trans (if_pos ⟨rfl, rfl⟩)
    show fget (fset s.fab.inj2 [] (8 * l + v) (p :: (fget s.fab.inj2 [] (8 * l + v)).drop 1)) [] (8 * l + u) = _
    rw [fget_fset]
    split
    · next hb => rw [hb, hq, List.drop_one, List.tail_cons]
    · rfl
  · exact ⟨.refl s, h, fun _ => rfl⟩

/-- The output VC is free again. -/
def txDone (s : State) (l v : Nat) : State := s.mapLink l fun k => { k with tx := k.tx.filter fun p => p.1 != v }

theorem txDone_keeps (h : Alone s l v src ps) : Flow s (txDone s l v) l v src ∧ Alone (txDone s l v) l v src ps ∧
    ((txDone s l v).link l).tx = (s.link l).tx.filter fun p => p.1 != v := by
  have hf : Flow s (txDone s l v) l v src := .mapLink fun _ => rfl
  have hl : (txDone s l v).link l = { s.link l with tx := (s.link l).tx.filter fun p => p.1 != v } := State.mapLink_link_same ..
  refine ⟨hf, h.congr (fun _ _ => rfl) (fun _ _ => rfl) (by rw [hl]) rfl hf.dateline, by rw [hl]⟩

theorem dropFirst_head {α : Type} {f : α → Bool} {x : α} {l : List α} (h : f x = true) : dropFirst f (x :: l) = l := if_pos h

/-- The packet whose fifth flit leaves is gone (R335). -/
theorem srcGone_last (h : Alone s l v src (p :: r)) (hv : v < 8) : Flow s (srcGone s l v src 5) l v src ∧ Alone (srcGone s l v src 5) l v src r ∧
    ((srcGone s l v src 5).link l).tx = (s.link l).tx.filter fun p => p.1 != v := by
  obtain ⟨hkf, hk, htx⟩ := txDone_keeps h
  have hkey {u : Nat} : 8 * l + u = 8 * l + v ↔ u = v := Nat.add_left_cancel_iff
  match src with
  | 0 =>
    have e : srcGone s l v 0 5 = (txDone s l v).mapFab fun f => { f with inj := fset f.inj [] (8 * l + v) ((fget f.inj [] (8 * l + v)).drop 1) } := rfl
    rw [e]
    generalize txDone s l v = k at *
    have hq : fget k.fab.inj [] (8 * l + v) = p :: r := (hk.first v hv).trans (if_pos ⟨rfl, rfl⟩)
    refine ⟨hkf.trans (.popFirst _), ⟨fun u hu => ?_, hk.second, hk.load, fun h2 => absurd h2 (by decide),
      hk.held.imp (And.imp_right fun _ h3 => absurd h3 (by decide)) fun ⟨w, q, _, hw, _⟩ => absurd hw (by omega)⟩, htx⟩
    refine (fget_fset ..).trans ?_
    rw [hq, List.drop_one, List.tail_cons]
    by_cases hu' : u = v
    · rw [if_pos (hkey.2 hu'), if_pos ⟨rfl, hu'⟩]
    · rw [if_neg fun h => hu' (hkey.1 h), if_neg fun h => hu' h.2, hk.first u hu, if_neg fun h => hu' h.2]
  | 1 =>
    have e : srcGone s l v 1 5 = (txDone s l v).mapFab fun f => { f with inj2 := fset f.inj2 [] (8 * l + v) ((fget f.inj2 [] (8 * l + v)).drop 1) } := rfl
    rw [e]
    generalize txDone s l v = k at *
    have hq : fget k.fab.inj2 [] (8 * l + v) = p :: r := (hk.second v hv).trans (if_pos ⟨rfl, rfl⟩)
    refine ⟨hkf.trans (.setSecond _), ⟨hk.first, fun u hu => ?_, hk.load, fun h2 => absurd h2 (by decide),
      hk.held.imp (And.imp_right fun _ h3 => absurd h3 (by decide)) fun ⟨w, q, _, hw, _⟩ => absurd hw (by omega)⟩, htx⟩
    refine (fget_fset ..).trans ?_
    rw [hq, List.drop_one, List.tail_cons]
    by_cases hu' : u = v
    · rw [if_pos (hkey.2 hu'), if_pos ⟨rfl, hu'⟩]
    · rw [if_neg fun h => hu' (hkey.1 h), if_neg fun h => hu' h.2, hk.second u hu, if_neg fun h => hu' h.2]
  | 2 =>
    have e : srcGone s l v 2 5 = (txDone s l v).mapLink l fun k => { k with outQ := dropFirst (fun p => hVcNo p == v) k.outQ } := rfl
    rw [e]
    generalize txDone s l v = k at *
    have hq : (k.link l).outQ = p :: r := hk.load.trans (if_pos rfl)
    have hf : Flow k (k.mapLink l fun k => { k with outQ := dropFirst (fun p => hVcNo p == v) k.outQ }) l v 2 := .mapLink fun _ => rfl
    have hl : (k.mapLink l fun k => { k with outQ := dropFirst (fun p => hVcNo p == v) k.outQ }).link l = { k.link l with outQ := r } := by
      rw [State.mapLink_link_same, hq, dropFirst_head (f := fun p => hVcNo p == v) (beq_iff_eq.2 (hk.vc rfl p List.mem_cons_self))]
    refine ⟨hkf.trans hf, ⟨hk.first, hk.second, ?_, fun _ q hq => hk.vc rfl q (List.mem_cons_of_mem p hq),
      hk.held.imp (And.imp_right fun _ h3 => absurd h3 (by decide)) fun ⟨w, q, _, hw, _⟩ => absurd hw (by omega)⟩, ?_⟩
    · rw [hl]
      rfl
    · rw [hl]
      exact htx
  | o + 3 =>
    have e : srcGone s l v (o + 3) 5 = (txDone s l v).mapFab fun f => { f with waiting := dropFirst (fun w => w.origin == o) f.waiting } := rfl
    rw [e]
    generalize txDone s l v = k at *
    obtain ⟨-, hps⟩ | ⟨w, q, hw, hsrc, -, -, -, -, -, hpq⟩ := hk.held
    · exact absurd (hps (by omega)) (List.cons_ne_nil _ _)
    · obtain ⟨-, rfl⟩ := List.cons.inj hpq
      refine ⟨hkf.trans (.setWaiting _), ⟨fun u hu => (hk.first u hu).trans ?_, fun u hu => (hk.second u hu).trans ?_,
        hk.load.trans ?_, fun h2 => absurd h2 (by omega), .inl ⟨?_, fun _ => rfl⟩⟩, htx⟩
      · rw [if_neg (by omega), if_neg (by omega)]
      · rw [if_neg (by omega), if_neg (by omega)]
      · rw [if_neg (by omega), if_neg (by omega)]
      · show dropFirst _ k.fab.waiting = []
        rw [hw, dropFirst_head (f := fun w : HeldPkt => w.origin == o) (beq_iff_eq.2 (by omega))]

theorem srcGone_part (h : Alone s l v src ps) (hn : n < 5) : Flow s (srcGone s l v src n) l v src ∧ Alone (srcGone s l v src n) l v src ps ∧
    ((srcGone s l v src n).link l).tx = (v, (src, n)) :: (s.link l).tx.filter fun p => p.1 != v := by
  have e : srcGone s l v src n = s.mapLink l fun k => { k with tx := (v, (src, n)) :: k.tx.filter fun p => p.1 != v } := by
    unfold srcGone
    simp only [if_neg (Nat.ne_of_lt hn), if_pos hn]
  rw [e]
  have hl : (s.mapLink l fun k => { k with tx := (v, (src, n)) :: k.tx.filter fun p => p.1 != v }).link l =
      { s.link l with tx := (v, (src, n)) :: (s.link l).tx.filter fun p => p.1 != v } := State.mapLink_link_same ..
  have hf : Flow s (s.mapLink l fun k => { k with tx := (v, (src, n)) :: k.tx.filter fun p => p.1 != v }) l v src := .mapLink fun _ => rfl
  exact ⟨hf, h.congr (fun _ _ => rfl) (fun _ _ => rfl) (by rw [hl]) rfl hf.dateline, by rw [hl]⟩

/-- What a state that keeps the buffers of the link says of them. -/
theorem Flow.mapLink_alone {f : Link → Link} (hf : ∀ k, (f k).flowRest = k.flowRest) (hq : ∀ k, (f k).outQ = k.outQ) (ht : ∀ k, (f k).tx = k.tx) (h : Alone s l v src ps) :
    Flow s (s.mapLink l f) l v src ∧ Alone (s.mapLink l f) l v src ps ∧ ((s.mapLink l f).link l).tx = (s.link l).tx := by
  have hfl : Flow s (s.mapLink l f) l v src := .mapLink hf
  have hl := State.mapLink_link_same s l f
  exact ⟨hfl, h.congr (fun _ _ => rfl) (fun _ _ => rfl) (by rw [hl, hq]) rfl hfl.dateline, by rw [hl, ht]⟩

/-- The flits of a packet on its way leave their input VC (R335). -/
theorem rxDrop_alone (h : Alone s l v src (p :: r)) (fl : BitVec 128) : Flow s (s.cond (decide (3 ≤ src)) fun s => Machine.rxDrop s (src - 3) fl) l v src ∧
    Alone (s.cond (decide (3 ≤ src)) fun s => Machine.rxDrop s (src - 3) fl) l v src (p :: r) ∧
    ((s.cond (decide (3 ≤ src)) fun s => Machine.rxDrop s (src - 3) fl).link l).tx = (s.link l).tx := by
  by_cases h3 : 3 ≤ src
  · rw [decide_eq_true h3, State.cond_true]
    obtain ⟨o, rfl⟩ : ∃ o, src = o + 3 := ⟨src - 3, by omega⟩
    rw [Nat.add_sub_cancel]
    have ho : o / 8 ≠ l := by
      obtain ⟨-, hps⟩ | ⟨w, q, hw, hsrc, ho, hl, -⟩ := h.held
      · exact absurd (hps h3) (List.cons_ne_nil _ _)
      · rw [Nat.add_right_cancel hsrc]
        exact hl
    have hf : Flow s (Machine.rxDrop s o fl) l v (o + 3) := .rxDrop fl ho
    obtain ⟨hlink, hwait⟩ := rxDrop_keeps (s := s) o fl
    have hl : (Machine.rxDrop s o fl).link l = s.link l := (hlink l).resolve_right fun h => ho h.symm
    exact ⟨hf, h.congr (fun u _ => hf.inj _ fun h => absurd h (by omega)) (fun u _ => hf.inj2 _ fun h => absurd h (by omega)) (by rw [hl]) hwait hf.dateline, by rw [hl]⟩
  · rw [decide_eq_false h3, State.cond_false]
    exact ⟨.refl s, h, rfl⟩

theorem injFreed_alone (h : Alone s l v src ps) (had : Bool) (b : Nat) : Flow s (s.cond (src == 0) fun s => Machine.injFreed had s b) l v src ∧
    Alone (s.cond (src == 0) fun s => Machine.injFreed had s b) l v src ps ∧ ((s.cond (src == 0) fun s => Machine.injFreed had s b).link l).tx = (s.link l).tx := by
  by_cases h0 : src = 0
  · subst h0
    rw [beq_self_eq_true, State.cond_true]
    have hf : Flow s (Machine.injFreed had s b) l v 0 := .injFreed had b
    obtain ⟨hfab, -⟩ := injFreed_keeps (s := s) had b
    have hlink (i : Nat) : (Machine.injFreed had s b).link i = s.link i := by rw [State.link, hfab]; rfl
    exact ⟨hf, h.congr (fun _ _ => by rw [hfab]) (fun _ _ => by rw [hfab]) (by rw [hlink]) (by rw [hfab]) hf.dateline, by rw [hlink]⟩
  · rw [beq_false_of_ne h0, State.cond_false]
    exact ⟨.refl s, h, rfl⟩

theorem Sending.tx_rest (h : Sending s l v src ps n) : ((s.link l).tx.filter fun p => p.1 != v) = [] := by
  rw [h.tx]
  split
  · rfl
  · exact List.filter_cons_of_neg (by simp)

/-- A flit of the packet leaves (R335). -/
theorem Sending.sends (h : Sending s l v src (p :: r) n) (hs : stampHead s src p = p) (fresh : Bool) : ∃ t,
    sendFlit s l v fresh = (t, (packetFlits p).getD n 0#128) ∧ Flow s t l v src ∧ Sending t l v src (if n = 4 then r else p :: r) (if n = 4 then 0 else n + 1) := by
  have hclaim : claimOf s l v = some (src, n) := (h.claims h.vlt).trans (if_pos ⟨rfl, List.cons_ne_nil _ _⟩)
  have hoff : srcPacket s l v src = some p := (h.alone.offers h.vlt src).trans (if_pos ⟨rfl, rfl⟩)
  unfold sendFlit
  rw [hclaim]
  dsimp only
  rw [hoff]
  dsimp only
  rw [hs, ite_self]
  obtain ⟨f1, a1, t1⟩ : Flow s (if n = 0 then srcStamp s l v src p else s) l v src ∧ Alone (if n = 0 then srcStamp s l v src p else s) l v src (p :: r) ∧
      ((if n = 0 then srcStamp s l v src p else s).link l).tx = (s.link l).tx := by
    split
    · obtain ⟨f1, a1, l1⟩ := srcStamp_keeps h.alone h.vlt
      exact ⟨f1, a1, by rw [l1]⟩
    · exact ⟨.refl s, h.alone, rfl⟩
  generalize (if n = 0 then srcStamp s l v src p else s) = s1 at *
  have h2 (f : Link → Link) (hf : ∀ k, (f k).flowRest = k.flowRest) (hq : ∀ k, (f k).outQ = k.outQ) (ht : ∀ k, (f k).tx = k.tx) := Flow.mapLink_alone hf hq ht a1
  refine ⟨_, rfl, ?_⟩
  generalize hm : s1.mapLink l _ = s2
  obtain ⟨f2, a2, t2⟩ : Flow s1 s2 l v src ∧ Alone s2 l v src (p :: r) ∧ (s2.link l).tx = (s1.link l).tx := by
    rw [← hm]
    exact h2 _ (fun _ => rfl) (fun _ => rfl) (fun _ => rfl)
  clear hm h2
  generalize hm : s2.cond (decide (3 ≤ src)) _ = s3
  obtain ⟨f3, a3, t3⟩ : Flow s2 s3 l v src ∧ Alone s3 l v src (p :: r) ∧ (s3.link l).tx = (s2.link l).tx := by
    rw [← hm]
    exact rxDrop_alone a2 _
  clear hm
  have ht : ((s3.link l).tx.filter fun p => p.1 != v) = [] := by
    rw [t3, t2, t1]
    exact h.tx_rest
  obtain ⟨f4, a4, t4⟩ : Flow s3 (srcGone s3 l v src (n + 1)) l v src ∧ Alone (srcGone s3 l v src (n + 1)) l v src (if n = 4 then r else p :: r) ∧
      ((srcGone s3 l v src (n + 1)).link l).tx = if (if n = 4 then 0 else n + 1) = 0 then [] else [(v, (src, if n = 4 then 0 else n + 1))] := by
    by_cases h4 : n = 4
    · subst h4
      obtain ⟨f, a, e⟩ := srcGone_last a3 h.vlt
      exact ⟨f, a, e.trans ht⟩
    · have := h.lt
      obtain ⟨f, a, e⟩ := srcGone_part (n := n + 1) a3 (by omega)
      rw [if_neg h4, if_neg h4, if_neg (Nat.succ_ne_zero n)]
      exact ⟨f, a, e.trans (by rw [ht])⟩
  generalize srcGone s3 l v src (n + 1) = s4 at *
  obtain ⟨f5, a5, t5⟩ := injFreed_alone a4 (injRoom s false (8 * l + v)) (8 * l + v)
  have hf := (((f1.trans f2).trans f3).trans f4).trans f5
  refine ⟨hf, a5, t5.trans t4, fun h0 => ?_, ?_, h.vlt, by rw [hf.peerXoff]; exact h.clear⟩
  · split at h0
    · exact absurd rfl h0
    · next h4 =>
      rw [if_neg h4]
      exact List.cons_ne_nil _ _
  · have := h.lt
    split <;> omega

end

end Sys2Proof.Machine
end

section
/-! PROOFS. The frames a link sends of the one buffer that has packets for it (R308, R309, R335). -/
namespace Sys2Proof.Machine

section
variable {s t : State} {l v src n : Nat} {ps : List Packet} {p : Packet}

/-! ### A frame -/

theorem length_packetFlits (p : Packet) : (packetFlits p).length = 5 := rfl

theorem length_flatMap_packetFlits (ps : List Packet) : (ps.flatMap packetFlits).length = 5 * ps.length := by
  induction ps with
  | nil => rfl
  | cons p ps ih =>
    rw [List.flatMap_cons, List.length_append, ih, length_packetFlits, List.length_cons]
    omega

/-- The flits left of the first packet begin with the next one. -/
theorem drop_flits_cons (p : Packet) (ps : List Packet) (h : n < 5) : ((p :: ps).flatMap packetFlits).drop n = (packetFlits p).getD n 0#128 ::
    ((if n = 4 then ps else p :: ps).flatMap packetFlits).drop (if n = 4 then 0 else n + 1) := by
  have hl : n < (packetFlits p).length := h
  rw [List.flatMap_cons, List.drop_append_of_le_length (Nat.le_of_lt hl), List.drop_eq_getElem_cons hl, List.getD_eq_getElem _ _ hl, List.cons_append]
  refine congrArg _ ?_
  split
  · next h4 =>
    rw [h4, List.drop_of_length_le (Nat.le_refl 5)]
    rfl
  · next h4 =>
    rw [List.flatMap_cons, List.drop_append_of_le_length (show n + 1 ≤ 5 by omega)]

theorem foldr_vcs_lt (fl : List (Nat × BitVec 128)) : fl.foldr (fun p n => p.1 % 8 + 8 * n) 0 < 2 ^ (3 * fl.length) := by
  induction fl with
  | nil => decide
  | cons p fl ih =>
    rw [List.foldr_cons, List.length_cons, show 3 * (fl.length + 1) = 3 * fl.length + 3 by omega, Nat.pow_add]
    omega

theorem ctl_count {a b c x k m : Nat} (hk : k < 32) (hm : m < 2 ^ 90) (hc : c = 2 ^ 103 ∨ c = 0) :
    bits (BitVec.ofNat 128 (a * 2 ^ 116 + b * 2 ^ 104 + c + x * 2 ^ 95 + k * 2 ^ 90 + m)).toNat 94 90 = k := by
  rw [BitVec.toNat_ofNat, bits_eq]
  obtain rfl | rfl := hc <;> omega

/-- The flits of a frame are those it was made of (R309). -/
theorem frameFlits_frameWith (k : Link) (fl : List (Nat × BitVec 128)) (h : fl.length ≤ 16) : frameFlits (frameWith k fl) = fl.map (·.2) := by
  have hv : fl.foldr (fun p n => p.1 % 8 + 8 * n) 0 < 2 ^ 48 := Nat.lt_of_lt_of_le (foldr_vcs_lt fl) (Nat.pow_le_pow_right (by decide) (by omega))
  have hbits : bits (frameWith k fl).ctl.toNat 94 90 = fl.length := by
    unfold frameWith
    generalize fl.foldr (fun p n => p.1 % 8 + 8 * n) 0 = w at hv
    have hcrc (fs : List (BitVec 128)) (c : Nat) : frameCrc fs c < 2 ^ 32 := BitVec.isLt _
    dsimp only
    rw [Nat.add_assoc _ (w * 2 ^ 42)]
    refine ctl_count (by omega) ?_ ?_
    · have := hcrc (fl.map (·.2) ++ List.replicate (16 - fl.length) 0#128)
        (k.txSeq * 2 ^ 116 + (k.expSeq + 4095) % 4096 * 2 ^ 104 + (if k.nak then 2 ^ 103 else 0) + k.xoff.toNat * 2 ^ 95 + fl.length * 2 ^ 90 + w * 2 ^ 42)
      omega
    · split
      · exact .inl rfl
      · exact .inr rfl
  unfold frameFlits
  rw [hbits]
  exact List.take_left' (List.length_map _)

/-! ### The flits of one frame -/

theorem Flow.stamp (h : Flow s t l v src) (p : Packet) : stampHead t src p = stampHead s src p := by
  unfold stampHead
  rw [h.frame]

/-- A frame takes the next flits of the buffer in their order. -/
theorem Sending.fills (m : Nat) (h : Sending s l v src ps n) (hs : ∀ p ∈ ps, stampHead s src p = p) (acc : List (Nat × BitVec 128)) : ∃ t ps' n',
    fillFrame s l acc m = (t, acc ++ (((ps.flatMap packetFlits).drop n).take m).map fun x => (v, x)) ∧ Flow s t l v src ∧ Sending t l v src ps' n' ∧
    (ps'.flatMap packetFlits).drop n' = ((ps.flatMap packetFlits).drop n).drop m ∧ ∀ p ∈ ps', p ∈ ps := by
  induction m generalizing s ps n acc with
  | zero => exact ⟨s, ps, n, by rw [List.take_zero, List.map_nil, List.append_nil]; rfl, .refl s, h, rfl, fun _ => id⟩
  | succ m ih =>
    cases ps with
    | nil =>
      refine ⟨s, [], n, ?_, .refl s, h, ?_, fun _ => id⟩
      · rw [fillFrame, h.picks_none, List.flatMap_nil, List.drop_nil, List.take_nil, List.map_nil, List.append_nil]
      · rw [List.flatMap_nil, List.drop_nil, List.drop_nil]
    | cons p r =>
      obtain ⟨fresh, hpick⟩ := h.picks
      obtain ⟨u, hsend, hflow, hsending⟩ := h.sends (hs p List.mem_cons_self) fresh
      have hsub (q : Packet) (hq : q ∈ if n = 4 then r else p :: r) : q ∈ p :: r := by
        split at hq
        · exact List.mem_cons_of_mem p hq
        · exact hq
      obtain ⟨t, ps', n', hfill, hflow', hsending', hdrop, hmem⟩ :=
        ih hsending (fun q hq => (hflow.stamp q).trans (hs q (hsub q hq))) (acc ++ [(v, (packetFlits p).getD n 0#128)])
      refine ⟨t, ps', n', ?_, hflow.trans hflow', hsending', ?_, fun q hq => hsub q (hmem q hq)⟩
      · rw [fillFrame, hpick]
        dsimp only
        rw [hsend, drop_flits_cons p r h.lt, List.take_succ_cons, List.map_cons]
        exact hfill.trans (congrArg _ (List.append_cons ..).symm)
      · rw [hdrop, drop_flits_cons p r h.lt, List.drop_succ_cons]

/-! ### The frames -/

/-- What the frames `fs` that link `l` sends of buffer `src` change. -/
structure Sent (s t : State) (l v src : Nat) (fs : List Frame) : Prop where
  frame : t = { s with fab := { s.fab with links := t.fab.links, inj := t.fab.inj, inj2 := t.fab.inj2, waiting := t.fab.waiting, injAt := t.fab.injAt }
                       sch := { s.sch with causes := t.sch.causes } }
  buf : (t.link l).replayBuf = (s.link l).replayBuf ++ fs
  others : src < 3 → ∀ h, h ≠ l → t.link h = s.link h
  inj : ∀ b, (src = 0 → b ≠ 8 * l + v) → fget t.fab.inj [] b = fget s.fab.inj [] b
  causes : src ≠ 0 → t.sch = s.sch

theorem Sent.refl (s : State) : Sent s s l v src [] := ⟨rfl, (List.append_nil _).symm, fun _ _ _ => rfl, fun _ _ => rfl, fun _ => rfl⟩

theorem Sent.trans {w : State} {fs gs : List Frame} (h : Sent s t l v src fs) (h' : Sent t w l v src gs) : Sent s w l v src (fs ++ gs) := by
  refine ⟨?_, by rw [h'.buf, h.buf, List.append_assoc], fun h3 i hi => (h'.others h3 i hi).trans (h.others h3 i hi),
    fun b hb => (h'.inj b hb).trans (h.inj b hb), fun h0 => (h'.causes h0).trans (h.causes h0)⟩
  rw [h'.frame, h.frame]

theorem Flow.sent (h : Flow s t l v src) : Sent s t l v src [] :=
  ⟨h.frame, (congrArg Link.replayBuf h.self).trans (List.append_nil _).symm, h.others, h.inj, h.causes⟩

theorem sendFrame_sent (f : Link → Frame) : Sent s (s.mapLink l fun k => sendFrame k (f k)) l v src [f (s.link l)] := by
  refine ⟨rfl, ?_, fun _ i hi => State.mapLink_link_ne _ _ _ _ hi, fun _ _ => rfl, fun _ => rfl⟩
  rw [State.mapLink_link_same]
  rfl

theorem Sending.sendFrame (h : Sending s l v src ps n) (f : Link → Frame) : Sending (s.mapLink l fun k => Machine.sendFrame k (f k)) l v src ps n := by
  have hl : (s.mapLink l fun k => Machine.sendFrame k (f k)).link l = Machine.sendFrame (s.link l) (f (s.link l)) := State.mapLink_link_same ..
  have hd (i : Nat) : ((s.mapLink l fun k => Machine.sendFrame k (f k)).link i).dateline = (s.link i).dateline := by
    rw [State.mapLink_link]
    split
    · next h => rw [h]; rfl
    · rfl
  refine ⟨h.alone.congr (fun _ _ => rfl) (fun _ _ => rfl) (by rw [hl]; rfl) rfl hd, ?_, h.mid, h.lt, h.vlt, ?_⟩
  · rw [hl]
    exact h.tx
  · rw [hl]
    exact h.clear

theorem Flow.frameWith (h : Flow s t l v src) (fl : List (Nat × BitVec 128)) : Machine.frameWith (t.link l) fl = Machine.frameWith (s.link l) fl := by
  have e (k : Link) : Machine.frameWith k fl = Machine.frameWith k.flowRest fl := rfl
  rw [e, h.self, ← e]

theorem Sending.eq_nil (h : Sending s l v src ps n) (hl : (ps.flatMap packetFlits).drop n = []) : ps = [] ∧ n = 0 := by
  cases ps with
  | nil => exact ⟨rfl, Classical.byContradiction fun h0 => h.mid h0 rfl⟩
  | cons p ps =>
    rw [drop_flits_cons p ps h.lt] at hl
    exact absurd hl (List.cons_ne_nil _ _)

/-- What a link sends of the flits `fl` of buffer `src`: whole frames and one for the rest. -/
structure Frames (s t : State) (l v src : Nat) (fl : List (BitVec 128)) (fs : List Frame) : Prop where
  sent : Sent s t l v src fs
  left : Sending t l v src [] 0
  length : fs.length = cdiv fl.length 16
  flits : fs.flatMap frameFlits = fl
  one : fl ≠ [] → fl.length ≤ 16 → fs = [frameWith (s.link l) (fl.map fun x => (v, x))]

theorem Sending.frames_none (h : Sending s l v src ps n) (hl : (ps.flatMap packetFlits).drop n = []) : Frames s s l v src ((ps.flatMap packetFlits).drop n) [] := by
  obtain ⟨rfl, rfl⟩ := h.eq_nil hl
  exact ⟨.refl s, h, rfl, rfl, fun hne => absurd hl hne⟩

/-- The link sends the packets of the buffer, 16 flits to the frame, and nothing else. -/
theorem Sending.pumps (m : Nat) (h : Sending s l v src ps n) (hs : ∀ p ∈ ps, stampHead s src p = p) (hm : cdiv ((ps.flatMap packetFlits).drop n).length 16 ≤ m) :
    ∃ fs, Frames s (pumpGo s l m) l v src ((ps.flatMap packetFlits).drop n) fs := by
  induction m generalizing s ps n with
  | zero =>
    have hl : (ps.flatMap packetFlits).drop n = [] := by
      refine List.eq_nil_of_length_eq_zero ?_
      unfold cdiv at hm
      omega
    exact ⟨[], h.frames_none hl⟩
  | succ m ih =>
    obtain ⟨t, ps', n', hfill, hflow, hsending, hdrop, hmem⟩ := h.fills 16 hs []
    rw [List.nil_append] at hfill
    rw [pumpGo, hfill]
    dsimp only
    by_cases hl : (ps.flatMap packetFlits).drop n = []
    · rw [if_pos (by rw [hl]; rfl)]
      exact ⟨[], h.frames_none hl⟩
    · generalize (ps.flatMap packetFlits).drop n = fl at *
      have hpos : 0 < fl.length := List.length_pos_iff.2 hl
      have htake : (fl.take 16).map (fun x => (v, x)) ≠ [] := by
        rw [Ne, List.map_eq_nil_iff, List.take_eq_nil_iff]
        exact fun h => hl (h.resolve_left (by decide))
      rw [if_neg (fun h => htake (List.isEmpty_iff.1 h))]
      have hlen : (fl.drop 16).length = fl.length - 16 := List.length_drop
      have hmap : ((fl.take 16).map fun x => (v, x)).map (·.2) = fl.take 16 := by
        rw [List.map_map]
        exact List.map_id _
      obtain ⟨gs, hgs⟩ := ih (hsending.sendFrame fun k => frameWith k ((fl.take 16).map fun x => (v, x))) (fun p hp => (hflow.stamp p).trans (hs p (hmem p hp))) (by
        rw [hdrop, hlen]
        unfold cdiv at hm ⊢
        omega)
      rw [hdrop] at hgs
      obtain ⟨hsent, hleft, hlength, hflits, -⟩ := hgs
      have hcount : gs.length = cdiv (fl.length - 16) 16 := by rw [hlength, hlen]
      refine ⟨_ :: gs, (hflow.sent.trans (sendFrame_sent fun k => frameWith k ((fl.take 16).map fun x => (v, x)))).trans hsent, hleft, ?_, ?_, fun _ h16 => ?_⟩
      · rw [List.length_cons, hcount]
        unfold cdiv
        omega
      · rw [List.flatMap_cons, hflits, frameFlits_frameWith _ _ (by rw [List.length_map, List.length_take]; omega), hmap, List.take_append_drop]
      · have hnil : gs = [] := List.eq_nil_of_length_eq_zero (by rw [hcount]; unfold cdiv; omega)
        rw [hnil, hflow.frameWith, List.take_of_length_le h16]

/-- A link whose frames fit sends the packets of the buffer at once (R309). -/
theorem Sending.pump (h : Sending s l v src ps 0) (hs : ∀ p ∈ ps, stampHead s src p = p) (hup : linkUp (s.link l) = true)
    (hfit : (s.link l).replayBuf.length + cdiv (5 * ps.length) 16 ≤ 1024) : ∃ fs, Frames s (Machine.pump s l) l v src (ps.flatMap packetFlits) fs := by
  unfold Machine.pump
  split
  · refine h.pumps _ hs ?_
    rw [List.drop_zero, length_flatMap_packetFlits]
    omega
  · next hr =>
    refine ⟨[], h.frames_none (List.eq_nil_of_length_eq_zero ?_)⟩
    have hfull : ¬ (s.link l).replayBuf.length < 1024 := fun hlt => hr (by rw [frameRoom, hup, decide_eq_true hlt]; rfl)
    rw [List.drop_zero, length_flatMap_packetFlits]
    unfold cdiv at hfit
    omega

/-- A lone packet leaves in one frame. -/
theorem Sending.pump_one (h : Sending s l v src [p] 0) (hs : stampHead s src p = p) (hroom : canSend (s.link l) p = true) (hv : hVcNo p = v) :
    Sent s (Machine.pump s l) l v src [frameOf (s.link l) p] ∧ Sending (Machine.pump s l) l v src [] 0 := by
  obtain ⟨hroom, -⟩ := (Bool.and_eq_true ..).mp hroom
  obtain ⟨hup, hlt⟩ := (Bool.and_eq_true ..).mp hroom
  have hlt := of_decide_eq_true hlt
  obtain ⟨fs, hsent, hleft, -, -, hone⟩ := h.pump (fun q hq => by rw [List.mem_singleton.1 hq]; exact hs) hup (by rw [List.length_singleton, show cdiv (5 * 1) 16 = 1 from rfl]; omega)
  have hfl : [p].flatMap packetFlits = packetFlits p := by rw [List.flatMap_cons, List.flatMap_nil, List.append_nil]
  rw [hfl] at hone
  rw [hone (List.cons_ne_nil _ _) (show 5 ≤ 16 by decide)] at hsent
  rw [frameOf, hv]
  exact ⟨hsent, hleft⟩

end

end Sys2Proof.Machine
end

section
/-! PROOFS. Fabric time (O43): beacons in and out, the reference and its loss. -/
namespace Sys2Proof.Machine

section
variable {s t : State} {l v n : Nat} {p q : Packet}

/-! ### A packet alone on an idle link -/

theorem hF_lt (p : Packet) (hi lo : Nat) : hF p hi lo < 2 ^ (hi + 1 - lo) := Nat.mod_lt _ (Nat.two_pow_pos _)

theorem hVcNo_lt (p : Packet) : hVcNo p < 8 := by
  have h1 : hTc p < 4 := hF_lt p 28 27
  have h2 : hVc p < 2 := hF_lt p 26 26
  unfold hVcNo
  omega

theorem Idle.first (h : Idle s l none) (hv : v < 8) : fget s.fab.inj [] (8 * l + v) = [] := by
  obtain ⟨-, -, -, -, -, h⟩ := h
  exact (h v hv).1 nofun

theorem Idle.second {b : Option Nat} (h : Idle s l b) (hv : v < 8) : fget s.fab.inj2 [] (8 * l + v) = [] := by
  obtain ⟨-, -, -, -, -, h⟩ := h
  exact (h v hv).2

/-- A packet that joins the second set of injection buffers of an idle link is the link's only one. -/
theorem Idle.sendingSecond (h : Idle s l none) (hx : (s.link l).peerXoff.getLsbD (hVcNo q) = false) :
    Sending (s.mapFab fun f => { f with injIn := [], inj2 := fset f.inj2 [] (8 * l + hVcNo q) [q] }) l (hVcNo q) 1 [q] 0 := by
  obtain ⟨hw, -, -, ho, ht, -⟩ := id h
  refine ⟨⟨fun u hu => (h.first hu).trans (if_neg fun h => absurd h.1 (by decide)).symm, fun u hu => ?_, ho, fun h => absurd h (by decide), .inl ⟨hw, fun h => absurd h (by decide)⟩⟩,
    ht, fun h => absurd rfl h, by decide, hVcNo_lt q, hx⟩
  refine (fget_fset ..).trans ?_
  by_cases huv : u = hVcNo q
  · rw [if_pos (by rw [huv]), if_pos ⟨rfl, huv⟩]
  · rw [if_neg (fun h => huv (Nat.add_left_cancel h)), if_neg fun h => huv h.2]
    exact h.second hu

/-- A packet that joins the queue of an idle link is the link's only one. -/
theorem Idle.sendingQueue (h : Idle s l none) (hx : (s.link l).peerXoff.getLsbD (hVcNo q) = false) :
    Sending (s.mapLink l fun k => { k with outQ := k.outQ ++ [q] }) l (hVcNo q) 2 [q] 0 := by
  obtain ⟨hw, -, -, ho, ht, -⟩ := id h
  have hl : (s.mapLink l fun k => { k with outQ := k.outQ ++ [q] }).link l = { s.link l with outQ := [q] } := by
    rw [State.mapLink_link_same, ho]
    rfl
  refine ⟨⟨fun u hu => (h.first hu).trans (if_neg fun h => absurd h.1 (by decide)).symm, fun u hu => (h.second hu).trans (if_neg fun h => absurd h.1 (by decide)).symm, ?_,
    fun _ x hx => by rw [List.mem_singleton.1 hx], .inl ⟨hw, fun h => absurd h (by decide)⟩⟩, ?_, fun h => absurd rfl h, by decide, hVcNo_lt q, ?_⟩
  · rw [hl]
    rfl
  · rw [hl]
    exact ht
  · rw [hl]
    exact hx

/-! ### A beacon -/

theorem raise_eq_now (hevr : t.evr = s.evr) (hsch : t.sch = s.sch) (hnow : t.now = s.now) (id n : Nat) (l : List Nat) :
    raise t id n l = { t with evr := (raise s id n l).evr } := by
  rw [raise_frame, raise_evr_now hevr hsch hnow]

theorem headOf_beacon (hl : l < 16) : (headOf (l * 2 ^ 47 + 2 ^ 40) 0 0 0 false 0x3FF 0).toNat = l * 2 ^ 47 + 2 ^ 40 + 0x3FF * 2 ^ 11 := by
  unfold headOf
  rw [BitVec.toNat_ofNat, bits_eq, bits_eq, if_neg Bool.false_ne_true]
  omega

theorem beaconHead (hl : l < 16) : hSegidx (beaconPacket s l) = 0 ∧ hRun (beaconPacket s l) 0 = 1 ∧ hPort (beaconPacket s l) 0 = l := by
  unfold hSegidx hRun hPort hF beaconPacket
  rw [headOf_beacon hl, bits_eq, bits_eq, bits_eq]
  omega

theorem hSet_data (p : Packet) (hi lo v : Nat) : (hSet p hi lo v).data = p.data := rfl

theorem hopOut_eq (dl : Nat → Bool) (p : Packet) (i : Nat) : (hopOut dl p i).2 = some (hPort p i) ∧ (hopOut dl p i).1.data = p.data := by
  refine ⟨rfl, ?_⟩
  unfold hopOut
  dsimp only
  split
  · rw [hSet_data, hSet_data]
  · rw [hSet_data]

/-- A beacon for link `l` leaves by it and carries fabric time (R343). -/
theorem route_beacon (hl : l < 16) : ∃ q, route s (beaconPacket s l) = (q, some l) ∧ q.data = padTo 64 (leBytes 8 s.fab.ftime) := by
  obtain ⟨hseg, hrun, hport⟩ := beaconHead (s := s) hl
  have e : route s (beaconPacket s l) = hopOut (fun l => (s.link l).dateline) (beaconPacket s l) 0 := by
    unfold route routeStep
    rw [hseg, if_neg (by rw [hrun]; decide)]
  obtain ⟨h2, h1⟩ := hopOut_eq (fun l => (s.link l).dateline) (beaconPacket s l) 0
  rw [e]
  exact ⟨_, Prod.ext rfl (h2.trans (congrArg some hport)), h1⟩

/-- A packet of the chip's own joins the second set of an idle link's buffers (R323). -/
theorem injOwn_idle (h : Idle s l none) (hr : route s p = (q, some l)) (hbad : hopBad s l (hTc q) = false) (o : Nat) :
    injOwn s o p = s.mapFab fun f => { f with injIn := [], inj2 := fset f.inj2 [] (8 * l + hVcNo q) [q] } := by
  obtain ⟨-, hin, -, -, ht, -⟩ := id h
  have hlt := hVcNo_lt q
  have hroom : injRoom (s.mapFab fun f => { f with injIn := [] }) true (8 * l + hVcNo q) = true := by
    refine decide_eq_true ?_
    unfold injFlits
    rw [if_pos rfl]
    show 5 * (fget s.fab.inj2 [] (8 * l + hVcNo q)).length - _ + 5 ≤ 64
    rw [h.second hlt]
    simp
  have hinj : (inject (s.mapFab fun f => { f with injIn := [] }) true p).1 = some (s.mapFab fun f => { f with injIn := [], inj2 := fset f.inj2 [] (8 * l + hVcNo q) [q] }) := by
    have hr : route (s.mapFab fun f => { f with injIn := [] }) p = (q, some l) := hr
    have hbad : hopBad (s.mapFab fun f => { f with injIn := [] }) l (hTc q) = false := hbad
    unfold inject
    rw [hr]
    dsimp only
    refine (congrArg Prod.fst ((if_neg (fun h => Bool.false_ne_true (hbad.symm.trans h))).trans (if_pos hroom))).trans (congrArg some ?_)
    show ({ s with fab := { s.fab with injIn := [], inj2 := fset s.fab.inj2 [] (8 * l + hVcNo q) (fget s.fab.inj2 [] (8 * l + hVcNo q) ++ [q]) } } : State) = _
    rw [h.second hlt]
    rfl
  unfold injOwn injRefill
  show List.foldl _ (s.mapFab fun f => { f with injIn := [] }) (s.fab.injIn ++ [(o, p)]) = _
  rw [hin, List.nil_append, List.foldl_cons, List.foldl_nil, hinj]

/-- The link of a child sends its beacon at once. -/
theorem beacon_leaves (h : Idle s l none) (hup : linkUp (s.link l) = true) (hg : (s.link l).gate = 0#8) (hx : (s.link l).peerXoff = 0#8)
    (hlt : (s.link l).replayBuf.length < 1024) (hr : route s (beaconPacket s l) = (q, some l)) (hd : q.data = padTo 64 (leBytes 8 s.fab.ftime)) :
    Sent (s.mapFab fun f => { f with injIn := [], inj2 := fset f.inj2 [] (8 * l + hVcNo q) [q] }) (pump (injOwn s 256 (beaconPacket s l)) l) l (hVcNo q) 1 [frameOf (s.link l) q] := by
  have hbad : hopBad s l (hTc q) = false := by
    unfold hopBad gateShut
    rw [hup, hg]
    simp
  rw [injOwn_idle h hr hbad]
  have hclear : (s.link l).peerXoff.getLsbD (hVcNo q) = false := by rw [hx]; simp
  refine ((h.sendingSecond hclear).pump_one ?_ ?_ rfl).1
  · unfold stampHead
    split
    · exact congrArg (Packet.mk q.head) hd.symm
    · rfl
  · show (frameRoom (s.link l) && !(s.link l).peerXoff.getLsbD (hVcNo q)) = true
    rw [frameRoom, hup, decide_eq_true hlt, hclear]
    rfl

theorem foldl_one {α β : Type} {f : β → α → β} {good : β → Prop} {a : α} (L : List α) (b : β) (hd : L.Nodup) (ha : a ∈ L)
    (hskip : ∀ b x, good b → x ≠ a → f b x = b) (hb : good b) (hfb : good (f b a)) : L.foldl f b = f b a := by
  have hrest (L : List α) (b : β) (hL : a ∉ L) (hb : good b) : L.foldl f b = b := by
    induction L with
    | nil => rfl
    | cons x L ih =>
      rw [List.foldl_cons, hskip b x hb (fun h => hL (h ▸ List.mem_cons_self))]
      exact ih fun h => hL (List.mem_cons_of_mem x h)
  induction L with
  | nil => exact absurd ha List.not_mem_nil
  | cons x L ih =>
    obtain ⟨hx, hd⟩ := List.nodup_cons.1 hd
    rw [List.foldl_cons]
    by_cases hxa : x = a
    · rw [hxa]
      exact hrest L _ (fun h => hx (hxa ▸ h)) hfb
    · rw [hskip b x hb hxa]
      exact ih hd ((List.mem_cons.1 ha).resolve_left (Ne.symm hxa))

@[simp] theorem beaconOut_netView : netView (beaconOut s) = netView s := by
  unfold beaconOut
  refine List.foldlRecOn (motive := fun t : State => netView t = netView s) _ _ rfl fun t h l _ => ?_
  split
  · exact ((pump_netView l).trans (injOwn_netView ..)).trans h
  · exact h

theorem beaconOut_one (hc : s.fab.childs = 1#16 <<< l) (hl : l < 16) : beaconOut s = pump (injOwn s 256 (beaconPacket s l)) l := by
  have hbit (i : Nat) : (1#16 <<< l).getLsbD i = decide (i = l) := by
    rw [BitVec.getLsbD_shiftLeft, BitVec.getLsbD_one, Bool.eq_iff_iff]
    simp
    omega
  unfold beaconOut
  refine (foldl_one (good := fun t : State => t.fab.childs = 1#16 <<< l) (a := l) _ _ List.nodup_range (List.mem_range.2 hl) (fun t i ht hi => ?_) hc ?_).trans ?_
  · rw [ht, hbit, decide_eq_false hi]
    rfl
  · rw [hc, hbit, decide_eq_true rfl, if_pos rfl]
    have h := congrArg (fun t : State => t.fab.childs) ((pump_netView (s := injOwn s 256 (beaconPacket s l)) l).trans (injOwn_netView ..))
    exact h.trans hc
  · rw [hc, hbit, decide_eq_true rfl, if_pos rfl]

/-- What beacons that are sent leave of fabric time. -/
theorem beaconOut_clock : (beaconOut s).fab.ftime = s.fab.ftime ∧ (beaconOut s).fab.slewNs = s.fab.slewNs ∧ (beaconOut s).fab.corrNs = s.fab.corrNs ∧
    (beaconOut s).fab.beaconLate = s.fab.beaconLate := by
  have h := congrArg State.fab (beaconOut_netView (s := s))
  have hf : netRest (beaconOut s).fab = netRest s.fab := h
  generalize (beaconOut s).fab = f at *
  have h1 := congrArg Fabric.ftime hf
  have h2 := congrArg Fabric.slewNs hf
  have h3 := congrArg Fabric.corrNs hf
  have h4 := congrArg Fabric.beaconLate hf
  exact ⟨h1, h2, h3, h4⟩

end

/-- Settles O43. -/
theorem fabricTimeAligns : Obligations.FabricTimeAligns := by
  intro s hoff
  have hpow : powered s = true := bne_iff_ne.2 hoff
  refine ⟨fun l b htakes hrole hparent => ?_, fun l b htakes hnot => ?_, fun l b htakes => ?_, fun l hrole hchild hup hgate hx hlt hidle => ?_, fun hrole => ?_, fun hearly => ?_,
    fun hrole hlate hdue => ?_, fun href => ?_, fun href => ?_, fun hearly => ?_, fun href hlong hdue => ?_, fun href => ?_, fun href => ?_⟩
  · intro new d
    have hnot : ¬ (s.fab.role = 1 ∨ s.fab.parent ≠ l.val ∨ s.dev.state = .off) := by
      rw [hrole, hparent]
      exact fun h => h.elim (fun h => absurd h (by decide)) fun h => h.elim (fun h => h rfl) hoff
    have e : exec (.beaconReceive l b) s = .next (beaconOut (s.mapFab fun f => { f with
        ftime := if decide (1000 ≤ d.natAbs) then new else f.ftime, slewNs := if decide (1000 ≤ d.natAbs) then 0 else d
        corrNs := max (-2147483648) (min 2147483647 d), lastBeacon := if decide (1000 ≤ d.natAbs) then new else f.ftime, beaconLate := false })) :=
      congrArg Host.Outcome.next ((if_pos htakes).trans (if_neg hnot))
    refine ⟨_, e, ?_⟩
    clear e
    clear_value new d
    obtain ⟨htime, hslew, hcorr, hlate⟩ := beaconOut_clock (s := s.mapFab fun f => { f with
        ftime := if decide (1000 ≤ d.natAbs) then new else f.ftime, slewNs := if decide (1000 ≤ d.natAbs) then 0 else d
        corrNs := max (-2147483648) (min 2147483647 d), lastBeacon := if decide (1000 ≤ d.natAbs) then new else f.ftime, beaconLate := false })
    rw [htime, hslew, hcorr, hlate]
    refine ⟨rfl, fun h => ⟨if_pos (decide_eq_true h), if_pos (decide_eq_true h)⟩, fun h => ?_, rfl⟩
    have h : ¬ decide (1000 ≤ d.natAbs) = true := by rw [decide_eq_true_iff]; omega
    exact ⟨if_neg h, if_neg h⟩
  · exact congrArg Host.Outcome.next ((if_pos htakes).trans (if_pos (hnot.imp id .inl)))
  · refine congrArg Host.Outcome.next (((if_neg (fun h => Bool.false_ne_true (htakes.symm.trans h))).trans (if_neg hoff)).trans ?_)
    rw [dropArr, raise_eq_now (s := s)] <;> rfl
  · obtain ⟨q, hr, hd⟩ := route_beacon (s := s) l.isLt
    have hsent := beacon_leaves hidle hup hgate hx hlt hr hd
    refine ⟨_, q, rfl, hr, hd, ?_⟩
    rw [if_pos ⟨hrole, hoff⟩, beaconOut_one hchild l.isLt]
    have htime := congrArg (fun u : State => u.fab.ftime) hsent.frame
    exact ⟨hsent.buf, hsent.others (by decide), htime⟩
  · exact congrArg Host.Outcome.next (if_neg fun h => absurd (hrole.symm.trans h.1) (by decide))
  · exact congrArg Host.Outcome.next (if_neg fun h => absurd h.2.2.2 (Nat.not_le.2 hearly))
  · refine congrArg Host.Outcome.next ((if_pos ⟨hrole, hoff, by rw [hlate]; rfl, hdue⟩).trans ?_)
    rw [raise_eq_now (s := s)] <;> rfl
  · refine congrArg Host.Outcome.next ((if_pos ⟨hpow, href⟩).trans ?_)
    rw [raise_eq (s := s)] <;> rfl
  · exact congrArg Host.Outcome.next (if_neg fun h => absurd (href.symm.trans h.2) (by decide))
  · exact congrArg Host.Outcome.next (if_neg fun h => absurd h.2.2.2 (Nat.not_le.2 hearly))
  · refine congrArg Host.Outcome.next ((if_pos ⟨hpow, href, by rw [hlong]; rfl, hdue⟩).trans ?_)
    rw [raise_eq (s := s)] <;> rfl
  · refine ⟨_, congrArg Host.Outcome.next ((if_neg (by rw [hpow]; exact Bool.false_ne_true)).trans (if_pos href)), ?_⟩
    have e := raise_eq_now (s := s) (t := s.mapPwr fun p => { p with refState := 0, holdMs := (s.now - p.holdAt) / 1000000, slewPpm := true }) rfl rfl rfl 0x0E02 0x12 []
    rw [e]
    exact ⟨rfl, rfl, rfl⟩
  · exact congrArg Host.Outcome.next (((if_neg (by rw [hpow]; exact Bool.false_ne_true)).trans (if_neg fun h => absurd (href.symm.trans h) (by decide))).trans rfl)

end Sys2Proof.Machine
end

section
/-! PROOFS. Sources, requests and the rescan of pieces (O45). -/
namespace Sys2Proof.Machine

section
variable {s t : State} {i k st n : Nat} {r : Refetch} {m : Manifest}

/-! ### Asking a source (R363) -/

theorem State.each_one {α : Type} (s : State) (x : α) (f : State → α → State) : s.each [x] f = f s x := rfl

/-- The state with no piece asked of source `k`. -/
theorem clearAsked_fget (h : fget s.wts.asked [] k = []) (j : Nat) : fget (fset s.wts.asked [] k []) [] j = fget s.wts.asked [] j := by
  rw [fget_fset]
  split
  · next hj => rw [hj, h]
  · rfl

theorem sourceAsk_clear (hm : s.wts.man = some m) (ha : fget s.wts.asked [] k = []) (hn : fget s.wts.nak [] k = []) {l : List Nat} (hl : missingPieces s = i :: l) :
    sourceAsk s k = askSource (s.mapWts fun w => { w with asked := fset w.asked [] k ((pieceRun (i :: l) i 1024).filter fun j => (pieceName s j).1 == (pieceName s i).1) }) m k i
      ((pieceRun (i :: l) i 1024).filter fun j => (pieceName s j).1 == (pieceName s i).1).length := by
  have hf : (missingPieces s).filter (fun i => !(fget s.wts.nak [] k).contains i) = i :: l := by
    rw [hl, hn]
    exact List.filter_eq_self.2 fun _ _ => rfl
  unfold sourceAsk
  rw [hm, hf]
  refine (if_neg ?_).trans rfl
  rw [ha]
  decide

theorem refetchLate_none (h : s.wts.refetch = []) : refetchLate s = s := by
  unfold refetchLate
  rw [h]
  rfl

/-- A round with one VALID source that owes nothing asks it for the first run of missing pieces. -/
theorem sourceRound_ask (hst : s.dev.state = .ready) (hq : s.wts.lastArrive + 1000000 * s.wts.quietMs ≤ s.fab.ftime) (hv : validSources s = [k]) (hr : s.wts.refetch = [])
    (hm : s.wts.man = some m) (ha : fget s.wts.asked [] k = []) (hn : fget s.wts.nak [] k = []) {l : List Nat} (hl : missingPieces s = i :: l) :
    let run := (pieceRun (i :: l) i 1024).filter fun j => (pieceName s j).1 == (pieceName s i).1
    sourceRound s = askSource (s.mapWts fun w => { w with asked := fset (fset w.asked [] k []) [] k run }) m k i run.length := by
  intro run
  have hquiet : sourceQuiet s = true := decide_eq_true hq
  have hmiss : missingPieces (s.mapWts fun w => { w with asked := fset w.asked [] k [] }) = i :: l := by
    refine Eq.trans ?_ hl
    have e (j : Nat) : fget (fset s.wts.asked [] k []) [] j = fget s.wts.asked [] j := clearAsked_fget ha j
    show (listedPieces s).filter (fun i => pieceOpen s i && pieceState s i != .filling && [1, 2, 3, 4].all fun j => !(fget (fset s.wts.asked [] k []) [] j).contains i) = _
    simp only [e]
    rfl
  have hok : ¬ ((!(s.dev.state == .ready || s.wts.swState == .filling || s.dev.state == .running || s.dev.state == .draining) || !sourceQuiet s) = true) := by
    rw [hst, hquiet]
    simp
  have h1 : s.each (validSources s) (fun s k => s.each (fget s.wts.asked [] k) fun s i => if pieceState s i = .filling ∨ pieceState s i = .valid then s else sourceNak s k i) = s := by
    rw [hv, State.each_one, ha]
    rfl
  have h2 : s.each (validSources s) (fun s k => s.mapWts fun w => { w with asked := fset w.asked [] k ((fget w.asked [] k).filter fun i => pieceState s i == .filling) }) =
      s.mapWts fun w => { w with asked := fset w.asked [] k [] } := by
    rw [hv, State.each_one]
    show ({ s with wts := { s.wts with asked := fset s.wts.asked [] k ((fget s.wts.asked [] k).filter fun i => pieceState s i == .filling) } } : State) = _
    rw [ha]
    rfl
  have h3 : validSources (s.mapWts fun w => { w with asked := fset w.asked [] k [] }) = [k] := hv
  unfold sourceRound
  refine (if_neg hok).trans ?_
  rw [refetchLate_none hr]
  dsimp only
  rw [h1, h2, h3, State.each_one]
  exact sourceAsk_clear (s := s.mapWts fun w => { w with asked := fset w.asked [] k [] }) hm ((clearAsked_fget ha k).trans ha) hn hmiss

/-! ### A refetch (R364, R365) -/

theorem refetchDrop_last (hr : s.wts.refetch = [r]) : refetchDrop s = s.mapWts fun w => { w with refetch := [] } := by
  have hd : (s.mapWts fun w => { w with refetch := w.refetch.drop 1 }) = s.mapWts fun w => { w with refetch := [] } := by
    show ({ s with wts := { s.wts with refetch := s.wts.refetch.drop 1 } } : State) = _
    rw [hr]
    rfl
  unfold refetchDrop
  dsimp only
  rw [hd]
  split <;> rfl

/-- With no source left the piece is reported (R364). -/
theorem refetchTurn_last (hr : s.wts.refetch = [r]) (hv : validSources s = [r.src]) :
    refetchTurn s = { s with wts := { s.wts with refetch := [] }, evr := (raise s 0x0B02 0x10 [linePiece r.line]).evr } := by
  unfold refetchTurn
  rw [hr]
  dsimp only
  rw [hv, List.find?_cons_of_neg (by rw [decide_eq_true_iff]; exact Nat.lt_irrefl _), List.find?_nil, refetchDrop_last hr]
  dsimp only
  rw [raise_eq (s := s)] <;> rfl

theorem intakeHeader_refetch {v : Fin 8} {h : List Byte} (ht : fabricTakes s = true) (hr : s.wts.refetch = [r]) (htake : refetchTakes s v.val true h = true)
    (hst : (s.wts.streams.find? fun x => x.1 == v.val) = none) :
    exec (.intakeHeader v h) s = .next (if byteAt h 9 = 1#8 then refetchTurn s else { s with wts := { s.wts with refetch := [{ r with next := some 0, buf := [] }] } }) := by
  refine congrArg Host.Outcome.next (((if_pos ht).trans (if_pos htake)).trans ?_)
  unfold refetchHead
  rw [abandon_none hst]
  dsimp only
  refine ite_congr rfl (fun _ => rfl) fun _ => ?_
  show ({ s with wts := { s.wts with refetch := match s.wts.refetch with
    | r :: q => { r with next := some 0, buf := [] } :: q
    | [] => [] } } : State) = _
  rw [hr]

theorem refetchTakes_body (hr : s.wts.refetch = [r]) (hm : s.wts.man ≠ none) (hsrc : (sourceOf s r.src).2.2.1 = st) (hn : r.next = some n) (bs : List Byte) :
    refetchTakes s st false bs = true := by
  obtain ⟨m, hm⟩ := Option.ne_none_iff_exists'.1 hm
  unfold refetchTakes
  rw [hr, hm]
  dsimp only
  rw [hsrc, hn]
  simp

theorem intakeData_refetch {v : Fin 8} {bs : List Byte} (ht : fabricTakes s = true) (htake : refetchTakes s v.val false bs = true) (tag : Nat) :
    exec (.intakeData v tag bs) s = .next (refetchBody s tag bs) :=
  congrArg Host.Outcome.next ((if_pos ht).trans (if_pos htake))

theorem refetchBody_eq (hr : s.wts.refetch = [r]) (tag : Nat) (bs : List Byte) : refetchBody s tag bs =
    if r.next ≠ some tag then refetchTurn s
    else if tag + 1 < 1024 then s.mapWts fun w => { w with refetch := [{ r with next := some (tag + 1), buf := r.buf ++ padTo 64 bs }] }
    else if pieceState s (linePiece r.line) ≠ .valid then refetchDrop s
    else if refetchOk s r.line (r.buf ++ padTo 64 bs) then (refetchDrop (refetchWrite s r.line (r.buf ++ padTo 64 bs))).mapWts fun w => { w with lastArrive := s.now }
    else refetchTurn s := by
  unfold refetchBody
  rw [hr]

/-- A piece that matches gives the lost line (R365). -/
theorem refetchWrite_eq (l : Nat) (bs : List Byte) : refetchWrite s l bs = { bedWrite s (1024 * l) ((bs.drop (1024 * l % 65536)).take 1024) with
    evr := (raise s 0x0808 (0x20 + (rowOf s l).1) [2, (rowOf s l).1, 1024 * l]).evr } := by
  unfold refetchWrite
  rw [raise_eq (s := s)] <;> rfl

/-! ### A request (R363) -/

/-- A packet sent on an idle link leaves by it at once. -/
theorem forward_idle {l : Nat} {q : Packet} (h : Idle s l none) (hbad : hopBad s l (hTc q) = false) (hroom : canSend (s.link l) q = true) :
    ((forward s l q).link l).replayBuf = (s.link l).replayBuf ++ [frameOf (s.link l) q] ∧ OtherLinks s (forward s l q) l := by
  have hx : (s.link l).peerXoff.getLsbD (hVcNo q) = false := by
    have hr := ((Bool.and_eq_true ..).mp hroom).2
    rwa [Bool.not_eq_true'] at hr
  have hl : (s.mapLink l fun k => { k with outQ := k.outQ ++ [q] }).link l = { s.link l with outQ := (s.link l).outQ ++ [q] } := State.mapLink_link_same ..
  have e : forward s l q = pump (s.mapLink l fun k => { k with outQ := k.outQ ++ [q] }) l := if_neg fun h => Bool.false_ne_true (hbad.symm.trans h)
  have hsent := ((h.sendingQueue hx).pump_one (if_neg fun h => absurd h.1 (by decide)) (by rw [hl]; exact hroom) rfl).1
  have hbuf := hsent.buf
  rw [hl] at hbuf
  rw [e]
  exact ⟨hbuf, fun i hi => (hsent.others (by decide) i hi).trans (State.mapLink_link_ne _ _ _ _ hi)⟩

theorem serviceSend_link {path tc queue tag l : Nat} {bs : List Byte} {q : Packet} (hval : pathValid (pathAt (pathBank s) path) = true)
    (hr : route s { head := headOf (pathAt (pathBank s) path) tc 0 0 false queue tag, data := padTo 64 bs } = (q, some l)) :
    serviceSend s path tc queue tag bs = forward s l q := by
  unfold serviceSend
  refine (if_neg (fun h => Bool.false_ne_true ((congrArg not hval).symm.trans h))).trans ?_
  generalize ({ head := headOf (pathAt (pathBank s) path) tc 0 0 false queue tag, data := padTo 64 bs } : Packet) = p at *
  dsimp only
  split
  · next q' l' h =>
    obtain ⟨rfl, h⟩ := Prod.ext_iff.1 (hr.symm.trans h)
    rw [Option.some.inj h]
  · next h => exact absurd (hr.symm.trans h) (by simp)

theorem servePiece_none (hman : s.wts.man = none) {q : Request1} (off : Nat) : servePiece q s off =
    serviceSend s q.bpath 2 q.queue 2047 (leBytes 8 q.shard ++ leBytes 1 q.ptype ++ leBytes 1 1 ++ [0#8, 0#8] ++ leBytes 4 off) := by
  unfold servePiece
  rw [hman]

/-- The only request is served where its link has no packet that waits, with one packet where the piece is not held. -/
theorem serveRequests_alone {u : State} {q : Request1} {l : Nat} (hu : u.wts.reqs = [q]) (hone : q.count = 1) (hempty : u.mapWts (fun w => { w with reqs := [] }) = s)
    (hhop : (routeStep (fun _ => false) { head := headOf (pathAt (pathBank u) q.bpath) 2 0 0 false q.queue 0, data := [] }).2 = some l)
    (hq : (u.link l).outQ = []) (hman : s.wts.man = none) : serveRequests u =
      serviceSend s q.bpath 2 q.queue 2047 (leBytes 8 q.shard ++ leBytes 1 q.ptype ++ leBytes 1 1 ++ [0#8, 0#8] ++ leBytes 4 q.first) := by
  unfold serveRequests
  rw [hu]
  dsimp only
  generalize routeStep (fun _ => false) { head := headOf (pathAt (pathBank u) q.bpath) 2 0 0 false q.queue 0, data := [] } = x at hhop
  obtain ⟨x, y⟩ := x
  cases hhop
  dsimp only
  rw [if_neg (by rw [hq]; decide), hone, hempty, List.range_one, List.foldl_cons, List.foldl_nil, Nat.add_zero]
  exact servePiece_none hman q.first

/-- The request that a packet asks for (R363). -/
def requestOf (d : List Byte) : Request1 :=
  { shard := fieldAt d 0 8, ptype := (byteAt d 8).toNat, bpath := fieldAt d 10 2 % 4096, queue := fieldAt d 12 2 % 1024, count := fieldAt d 14 2, first := fieldAt d 16 4 }

theorem requestTake_eq (d : List Byte) : requestTake s d = if s.dev.state = .halted ∨ 16 ≤ s.wts.reqs.length ∨ (requestOf d).count = 0 ∨ 1024 < (requestOf d).count then s
    else serveRequests (s.mapWts fun w => { w with reqs := w.reqs ++ [requestOf d] }) := rfl

/-- A request that is taken alone is served at once (R363). -/
theorem requestTake_alone {d : List Byte} {l : Nat} (hh : s.dev.state ≠ .halted) (hreqs : s.wts.reqs = []) (hone : (requestOf d).count = 1)
    (hhop : (routeStep (fun _ => false) { head := headOf (pathAt (pathBank s) (requestOf d).bpath) 2 0 0 false (requestOf d).queue 0, data := [] }).2 = some l)
    (hq : (s.link l).outQ = []) (hman : s.wts.man = none) : requestTake s d = serviceSend s (requestOf d).bpath 2 (requestOf d).queue 2047
      (leBytes 8 (requestOf d).shard ++ leBytes 1 (requestOf d).ptype ++ leBytes 1 1 ++ [0#8, 0#8] ++ leBytes 4 (requestOf d).first) := by
  rw [requestTake_eq]
  generalize requestOf d = q at *
  have hno : ¬ (s.dev.state = .halted ∨ 16 ≤ s.wts.reqs.length ∨ q.count = 0 ∨ 1024 < q.count) := by
    rw [hreqs, hone]
    exact fun h => h.elim hh (by decide)
  have hempty (f : List Request1) : (s.mapWts fun w => { w with reqs := f }).mapWts (fun w => { w with reqs := [] }) = s := by
    show ({ s with wts := { s.wts with reqs := [] } } : State) = s
    rw [← hreqs]
  have htake : s.mapWts (fun w => { w with reqs := w.reqs ++ [q] }) = s.mapWts fun w => { w with reqs := [q] } := by
    show ({ s with wts := { s.wts with reqs := s.wts.reqs ++ [q] } } : State) = _
    rw [hreqs]
    rfl
  rw [if_neg hno, htake]
  exact serveRequests_alone (u := s.mapWts fun w => { w with reqs := [q] }) rfl hone (hempty _) hhop hq hman

/-! ### The rescan (R366) -/

theorem lowest_spec (l : List Nat) : (lowest l = none ↔ l = []) ∧ ∀ i, lowest l = some i → i ∈ l ∧ ∀ j ∈ l, i ≤ j := by
  induction l with
  | nil => exact ⟨⟨fun _ => rfl, fun _ => rfl⟩, fun i h => absurd h nofun⟩
  | cons x l ih =>
    obtain ⟨hnone, hsome⟩ := ih
    unfold lowest
    cases hl : lowest l with
    | none =>
      rw [hnone.1 hl]
      refine ⟨⟨nofun, nofun⟩, fun i h => ?_⟩
      obtain rfl := Option.some.inj h
      exact ⟨List.mem_cons_self, fun j hj => Nat.le_of_eq (List.mem_singleton.1 hj).symm⟩
    | some y =>
      obtain ⟨hy, hle⟩ := hsome y hl
      refine ⟨⟨nofun, nofun⟩, fun i h => ?_⟩
      obtain rfl := Option.some.inj h
      refine ⟨?_, fun j hj => ?_⟩
      · rcases Nat.le_total x y with h | h
        · rw [Nat.min_eq_left h]
          exact List.mem_cons_self
        · rw [Nat.min_eq_right h]
          exact List.mem_cons_of_mem x hy
      · rcases List.mem_cons.1 hj with rfl | hj
        · exact Nat.min_le_left ..
        · exact Nat.le_trans (Nat.min_le_right ..) (hle j hj)

theorem mem_valid {j : Nat} : j ∈ (listedPieces s).filter (fun j => pieceState s j == .valid) ↔ j ∈ listedPieces s ∧ pieceState s j = .valid := by
  rw [List.mem_filter, beq_iff_eq]

/-- The rescan takes the valid pieces in ascending order. -/
theorem rescanNext_spec (h : rescanNext s = some i) : i ∈ listedPieces s ∧ pieceState s i = .valid ∧
    ∀ j ∈ listedPieces s, pieceState s j = .valid → s.wts.rescanAt ≤ j → s.wts.rescanAt ≤ i ∧ i ≤ j := by
  unfold rescanNext at h
  dsimp only at h
  split at h
  · next k hk =>
    obtain rfl := Option.some.inj h
    obtain ⟨hmem, hle⟩ := (lowest_spec _).2 k hk
    obtain ⟨hmem, hat⟩ := List.mem_filter.1 hmem
    obtain ⟨hlist, hval⟩ := mem_valid.1 hmem
    exact ⟨hlist, hval, fun j hj hv ha => ⟨of_decide_eq_true hat, hle j (List.mem_filter.2 ⟨mem_valid.2 ⟨hj, hv⟩, decide_eq_true ha⟩)⟩⟩
  · next hk =>
    obtain ⟨hlist, hval⟩ := mem_valid.1 ((lowest_spec _).2 i h).1
    refine ⟨hlist, hval, fun j hj hv ha => ?_⟩
    have hin : j ∈ ((listedPieces s).filter fun j => pieceState s j == .valid).filter fun j => decide (s.wts.rescanAt ≤ j) :=
      List.mem_filter.2 ⟨mem_valid.2 ⟨hj, hv⟩, decide_eq_true ha⟩
    rw [(lowest_spec _).1.1 hk] at hin
    exact absurd hin List.not_mem_nil

/-- What the rescan of a piece may change beside its own place and times. -/
def rescanView (s : State) : FMap PieceState × Nat × Recorder × Sched := (s.wts.pstate, s.wts.rescanFail, s.evr, s.sch)

/-- What the rescan does with a piece it has hashed. -/
def rescanVerdict (s : State) (i : Nat) : State := s.cond (!pieceMatches s i) fun s =>
  let s := raise ((setPiece s i .bad).mapWts fun w => { w with rescanFail := sat32 w.rescanFail }) 0x0B03 0x10 [i]
  s.cond (s.wts.rescanHalt && s.sch.job) fun s => haltNext s 0x0B03

theorem rescanVerdict_good (h : pieceMatches s i = true) : rescanVerdict s i = s := by
  rw [rescanVerdict, h]
  rfl

theorem rescanVerdict_bad (h : pieceMatches s i = false) : rescanVerdict s i = { s with
    wts := { s.wts with pstate := fset s.wts.pstate .none i .bad, rescanFail := min (s.wts.rescanFail + 1) 0xFFFFFFFF }
    evr := (raise s 0x0B03 0x10 [i]).evr
    sch := if s.wts.rescanHalt && s.sch.job then { s.sch with haltReq := s.sch.haltReq <|> some 0x0B03 } else s.sch } := by
  have e := raise_eq (s := s) (t := (setPiece s i .bad).mapWts fun w => { w with rescanFail := sat32 w.rescanFail }) rfl rfl rfl 0x0B03 0x10 [i]
  rw [rescanVerdict, h, Bool.not_false, State.cond_true, e]
  show State.cond _ (s.wts.rescanHalt && s.sch.job) _ = _
  cases s.wts.rescanHalt && s.sch.job <;> rfl

theorem rescanEnd_verdict : rescanView (rescanVerdict (rescanEnd s) i) = rescanView (rescanVerdict s i) := by
  have hm : pieceMatches (rescanEnd s) i = pieceMatches s i := rfl
  cases h : pieceMatches s i with
  | true =>
    rw [rescanVerdict_good h, rescanVerdict_good (hm.trans h)]
    rfl
  | false =>
    rw [rescanVerdict_bad h, rescanVerdict_bad (hm.trans h), raise_evr_congr (s := s) (t := rescanEnd s) rfl rfl rfl]
    rfl

theorem rescanOne_view (hsec : s.wts.rescanSec ≠ 0) (hnext : rescanNext s = some i) : rescanView (rescanOne s i) = rescanView (rescanVerdict s i) := by
  have hlast (t : State) : rescanView (if (listedPieces t).any (fun j => decide (i < j) && pieceState t j == .valid) then t else rescanEnd t) = rescanView t := by
    split <;> rfl
  unfold rescanOne
  rw [if_neg (fun h => h.elim hsec fun h => h hnext)]
  have hfirst : rescanView (rescanVerdict (s.cond (decide (i < s.wts.rescanAt)) rescanEnd) i) = rescanView (rescanVerdict s i) := by
    cases decide (i < s.wts.rescanAt)
    · rfl
    · exact rescanEnd_verdict
  refine Eq.trans ?_ hfirst
  generalize s.cond (decide (i < s.wts.rescanAt)) rescanEnd = u
  dsimp only
  rw [hlast]
  rfl

end

/-- Settles O45. -/
theorem piecesAreSourcedAndRescanned : Obligations.PiecesAreSourcedAndRescanned := by
  intro s
  refine ⟨fun k m i l hst hq hv hr hm ha hn hl => ?_, fun hst hsw => ?_, fun st r hb hst hr hv hsrc hm => ?_, fun hq => ?_, fun d q l hb hst hreqs hman hone => ?_,
    fun d hfull => ?_, fun i hfree hne => ?_, fun i h => rescanNext_spec h, fun i hfree hsec hnext => ?_, fun hsec hlate hdue hany => ?_⟩
  · have e : exec .sourceRequest s = .next (sourceRound s) := rfl
    rw [e, sourceRound_ask hst hq hv hr hm ha hn hl]
    refine ⟨_, rfl, ?_⟩
    generalize (pieceRun (i :: l) i 1024).filter (fun j => (pieceName s j).1 == (pieceName s i).1) = run
    have hwts := congrArg State.wts (askSource_netView (s := s.mapWts fun w => { w with asked := fset (fset w.asked [] k []) [] k run }) m k i run.length)
    have hwts : (askSource (s.mapWts fun w => { w with asked := fset (fset w.asked [] k []) [] k run }) m k i run.length).wts =
      { s.wts with asked := fset (fset s.wts.asked [] k []) [] k run } := hwts
    rw [hwts]
    exact ⟨fget_fset_same .., rfl, rfl⟩
  · refine congrArg Host.Outcome.next (if_pos ?_)
    rw [hst, beq_false_of_ne hsw]
    rfl
  · have ht := fabricTakes_of hb hst
    have hturn := refetchTurn_last hr hv
    have hgiven : ∃ t, (Host.Outcome.next (refetchTurn s) : Host.Outcome State Fault Refusal) = .next t ∧
        t.wts.refetch = [] ∧ t.evr = (raise s 0x0B02 0x10 [linePiece r.line]).evr ∧ t.beds = s.beds := by
      rw [hturn]
      exact ⟨_, rfl, rfl, rfl, rfl⟩
    refine ⟨fun h htake hnone => ?_, fun n tag bs hn => ?_⟩
    · rw [intakeHeader_refetch ht hr htake hnone]
      refine ⟨fun h0 => congrArg Host.Outcome.next (if_neg (by rw [h0]; decide)), fun h1 => ?_⟩
      rw [if_pos h1]
      exact hgiven
    · rw [intakeData_refetch ht (refetchTakes_body hr hm hsrc hn bs), refetchBody_eq hr]
      refine ⟨fun htag hlt => ?_, fun hne => ?_, fun htag hlast hval => ⟨fun hbad => ?_, fun hgood => ?_⟩⟩
      · rw [htag, if_neg (fun h => h hn), if_pos hlt]
        rfl
      · rw [if_pos (by rw [hn]; exact fun h => hne (Option.some.inj h).symm)]
        exact hgiven
      · rw [htag, if_neg (fun h => h hn), if_neg (by omega), if_neg (fun h => h hval), hbad]
        exact hgiven
      · rw [htag, if_neg (fun h => h hn), if_neg (by omega), if_neg (fun h => h hval), hgood,
          refetchDrop_last (s := refetchWrite ..) (r := r) (by rw [refetchWrite_eq]; exact hr), refetchWrite_eq, if_pos rfl]
        exact ⟨_, rfl, rfl, rfl, bedWrite_wrote _ _, rfl, rfl⟩
  · refine congrArg Host.Outcome.next (if_pos ?_)
    have hquiet : sourceQuiet s = false := decide_eq_false (Nat.not_le.2 hq)
    rw [hquiet]
    exact Bool.or_true _
  · intro e queue hval hhop hidle hroute hbad hroom
    have hhalt : s.dev.state ≠ .halted := by
      obtain h | h | h := hst <;> rw [h] <;> exact nofun
    obtain ⟨-, -, -, hq, -⟩ := id hidle
    have hex : exec (.pieceRequest d) s = .next (serviceSend s (fieldAt d 10 2 % 4096) 2 (fieldAt d 12 2 % 1024) 2047
        (leBytes 8 (fieldAt d 0 8) ++ leBytes 1 (byteAt d 8).toNat ++ leBytes 1 1 ++ [0#8, 0#8] ++ leBytes 4 (fieldAt d 16 4))) :=
      congrArg Host.Outcome.next ((if_pos (fabricTakes_of hb hst)).trans (requestTake_alone hhalt hreqs hone hhop hq hman))
    rw [hex]
    have hwts := congrArg State.wts (serviceSend_netView (s := s) (fieldAt d 10 2 % 4096) 2 (fieldAt d 12 2 % 1024) 2047
      (leBytes 8 (fieldAt d 0 8) ++ leBytes 1 (byteAt d 8).toNat ++ leBytes 1 1 ++ [0#8, 0#8] ++ leBytes 4 (fieldAt d 16 4)))
    refine ⟨_, rfl, hwts, ?_⟩
    rw [serviceSend_link hval hroute]
    exact forward_idle hidle hbad hroom
  · refine congrArg Host.Outcome.next ?_
    split
    · exact if_pos (.inr (.inl hfull))
    · rfl
  · exact congrArg Host.Outcome.next ((outsideDo_done hfree).trans (if_pos (.inr hne)))
  · have e : exec (.rescanPiece i) s = .next (rescanOne s i) := congrArg Host.Outcome.next (outsideDo_done hfree)
    have hview := rescanOne_view hsec hnext
    rw [e]
    refine ⟨_, rfl, fun hm => ?_, fun hm => ?_⟩
    · rw [rescanVerdict_good hm] at hview
      have hp := congrArg (fun v => v.1) hview
      have hf := congrArg (fun v => v.2.1) hview
      have he := congrArg (fun v => v.2.2.1) hview
      exact ⟨hp, hf, he⟩
    · rw [rescanVerdict_bad hm] at hview
      have hp := congrArg (fun v => v.1) hview
      have hf := congrArg (fun v => v.2.1) hview
      have he := congrArg (fun v => v.2.2.1) hview
      have hs := congrArg (fun v => v.2.2.2) hview
      refine ⟨(pieceState_of hp i).trans (if_pos rfl), hf, he, fun hhalt hjob hreq => ?_⟩
      have hs : (rescanOne s i).sch = if s.wts.rescanHalt && s.sch.job then { s.sch with haltReq := s.sch.haltReq <|> some 0x0B03 } else s.sch := hs
      rw [hs, hhalt, hjob, hreq]
      rfl
  · have hvalid : ((listedPieces s).any fun i => pieceState s i == .valid) = true := by
      obtain ⟨i, hi, hv⟩ := hany
      exact List.any_eq_true.2 ⟨i, hi, beq_iff_eq.2 hv⟩
    refine congrArg Host.Outcome.next ((if_pos ⟨hsec, by rw [hlate]; rfl, hdue, hvalid⟩).trans ?_)
    have e := raise_eq (s := s) (t := s.mapWts fun w => { w with rescanLate := true }) rfl rfl rfl 0x0B04 0x10 [s.wts.rescanAt]
    rw [e]
    rfl

end Sys2Proof.Machine
end

section
/-! PROOFS. What packets that end at the chip leave, and what is still while links send (R319, R325, R331, R333). -/
namespace Sys2Proof.Machine

section
variable {s t u : State} {l v src n o : Nat} {p q : Packet} {w : HeldPkt} {gs : List Group}

/-! ### Groups and standing packets while links send -/

/-- No packet stands in the router, and the groups are `gs`. -/
def Still (gs : List Group) (s : State) : Prop := s.fab.groups = gs ∧ s.fab.waiting = []

theorem Still.congr (h : Still gs s) (hg : t.fab.groups = s.fab.groups) (hw : t.fab.waiting = s.fab.waiting) : Still gs t := ⟨hg.trans h.1, hw.trans h.2⟩

theorem Still.raise (h : Still gs s) (id n : Nat) (items : List Nat) : Still gs (Machine.raise s id n items) := by
  rw [raise_frame]
  exact h

theorem Still.ite {c : Prop} [Decidable c] (hs : Still gs s) (ht : Still gs t) : Still gs (if c then s else t) := by
  split
  · exact hs
  · exact ht

theorem Still.cond (h : Still gs s) {b : Bool} {f : State → State} (hf : ∀ s, Still gs s → Still gs (f s)) : Still gs (s.cond b f) :=
  State.cond_keeps s (Still gs) b f (fun _ => hf s h) h

theorem Still.dropArr (h : Still gs s) (items : List Nat) : Still gs (Machine.dropArr s items) := Still.raise (s := s.mapFab _) h ..

theorem Still.dropAtLink (h : Still gs s) (l : Nat) : Still gs (Machine.dropAtLink s l) := Still.raise (s := s.mapLink l _) h ..

theorem Still.srcGone (h : Still gs s) (l v src n : Nat) : Still gs (Machine.srcGone s l v src n) := by
  unfold Machine.srcGone
  dsimp only
  split
  · exact h
  · split
    · exact h
    · exact h
    · exact h
    · refine ⟨h.1, ?_⟩
      show dropFirst _ s.fab.waiting = []
      rw [h.2]
      rfl

theorem Still.rxDrop (h : Still gs s) (o : Nat) (fl : BitVec 128) : Still gs (Machine.rxDrop s o fl) := by
  unfold Machine.rxDrop
  split <;> exact h

theorem Still.injFreed (h : Still gs s) (had : Bool) (b : Nat) : Still gs (Machine.injFreed had s b) := by
  obtain ⟨hfab, -⟩ := injFreed_keeps (s := s) had b
  exact h.congr (by rw [hfab]) (by rw [hfab])

theorem Still.sendFlit (h : Still gs s) (l v : Nat) (fresh : Bool) : Still gs (Machine.sendFlit s l v fresh).1 := by
  unfold Machine.sendFlit
  split
  · exact h
  · split
    · exact h
    · refine Still.cond (f := fun t => Machine.injFreed (injRoom s false (8 * l + v)) t (8 * l + v))
        (Still.srcGone (Still.cond ?_ fun _ h => h.rxDrop _ _) _ _ _ _) fun _ h => h.injFreed _ _
      refine Still.congr (s := if _ then _ else s) (Still.ite ?_ h) rfl rfl
      unfold srcStamp
      split <;> exact h

theorem Still.fillFrame (m : Nat) (h : Still gs s) (l : Nat) (acc : List (Nat × BitVec 128)) : Still gs (Machine.fillFrame s l acc m).1 := by
  induction m generalizing s acc with
  | zero => exact h
  | succ m ih =>
    unfold Machine.fillFrame
    split
    · exact h
    · exact ih (h.sendFlit ..) _

theorem Still.pumpGo (m : Nat) (h : Still gs s) (l : Nat) : Still gs (Machine.pumpGo s l m) := by
  induction m generalizing s with
  | zero => exact h
  | succ m ih =>
    unfold Machine.pumpGo
    dsimp only
    split
    · exact h
    · exact ih (Still.congr (h.fillFrame 16 l []) rfl rfl)

theorem Still.pump (h : Still gs s) (l : Nat) : Still gs (Machine.pump s l) := by
  unfold Machine.pump
  split
  · exact h.pumpGo _ l
  · exact h

theorem Still.forward (h : Still gs s) (l : Nat) (p : Packet) : Still gs (Machine.forward s l p) := by
  unfold Machine.forward
  split
  · exact h.dropAtLink l
  · exact Still.pump (s := s.mapLink l _) h l

theorem Still.inject (h : Still gs s) {set2 : Bool} (ht : (Machine.inject s set2 p).1 = some t) : Still gs t := by
  simp only [Machine.inject] at ht
  split_ifs at ht <;> cases ht
  · exact h.dropAtLink _
  · exact h
  · exact h

theorem Still.injRefill (h : Still gs s) : Still gs (Machine.injRefill s) := by
  unfold Machine.injRefill
  refine List.foldlRecOn (motive := Still gs) _ _ h fun t h p _ => ?_
  split
  · next u hu => exact h.inject hu
  · exact h

theorem Still.injOwn (h : Still gs s) (o : Nat) (p : Packet) : Still gs (Machine.injOwn s o p) := Still.injRefill (s := s.mapFab _) h

theorem Still.serviceSend (h : Still gs s) (path tc queue tag : Nat) (bs : List Byte) : Still gs (Machine.serviceSend s path tc queue tag bs) := by
  unfold Machine.serviceSend
  dsimp only
  split
  · exact h.dropArr _
  · split
    · exact h.forward ..
    · exact h.injOwn ..

/-! ### The load service -/

theorem Still.refetchAsk (h : Still gs s) (k : Nat) : Still gs (Machine.refetchAsk s k) := by
  unfold Machine.refetchAsk
  split
  · exact Still.serviceSend (s := s.mapWts _) h ..
  · exact h

theorem Still.refetchDrop (h : Still gs s) : Still gs (Machine.refetchDrop s) := by
  unfold Machine.refetchDrop
  dsimp only
  split
  · exact Still.refetchAsk (s := s.mapWts _) h _
  · exact h

theorem Still.refetchTurn (h : Still gs s) : Still gs (Machine.refetchTurn s) := by
  unfold Machine.refetchTurn
  split
  · exact h
  · split
    · exact h.refetchAsk _
    · exact h.refetchDrop.raise ..

theorem Still.abandon (h : Still gs s) (st : Nat) : Still gs (Machine.abandon s st) := by
  unfold Machine.abandon
  split <;> exact h

theorem Still.outsideDo (h : Still gs s) (i : Instr) {f : State → State} (hf : Still gs (f s)) : Still gs (Machine.outsideDo s i f) := by
  unfold Machine.outsideDo
  split
  · exact hf
  · split
    · exact h
    · exact hf

theorem Still.sourceNak (h : Still gs s) (k i : Nat) : Still gs (Machine.sourceNak s k i) := by
  unfold Machine.sourceNak
  dsimp only
  split
  · exact Still.raise (s := s.mapWts _) h ..
  · exact h

theorem Still.intakeHead (h : Still gs s) (st : Nat) (bs : List Byte) : Still gs (Machine.intakeHead s st bs) := by
  have hcut : Still gs (refetchCut (Machine.abandon s st) st) := Still.cond (h.abandon st) fun _ h => h.refetchTurn
  unfold Machine.intakeHead
  generalize refetchCut (Machine.abandon s st) st = u at *
  dsimp only
  split
  · exact hcut
  · split
    · split
      · exact List.foldlRecOn (motive := Still gs) _ _ hcut fun t h k _ => h.sourceNak ..
      · exact hcut
    · split <;> exact hcut

theorem Still.intakeBody (h : Still gs s) (st tag : Nat) (bs : List Byte) : Still gs (Machine.intakeBody s st tag bs) := by
  unfold Machine.intakeBody
  split
  · exact h
  · split
    · exact h.abandon st
    · split
      · exact h
      · dsimp only
        split <;> exact h

theorem Still.intakePacket (h : Still gs s) (st : Fin 8) (tag : Nat) (bs : List Byte) : Still gs (Machine.intakePacket s st tag bs) := by
  unfold Machine.intakePacket
  split
  · unfold intakeHeader
    split
    · unfold refetchHead
      dsimp only
      split
      · exact (h.abandon st).refetchTurn
      · exact h.abandon st
    · exact h.outsideDo _ (h.intakeHead ..)
  · unfold intakeData
    split
    · unfold refetchBody
      split
      · exact h
      · dsimp only
        split
        · exact h.refetchTurn
        · split
          · exact h
          · split
            · exact h.refetchDrop
            · split
              · exact Still.refetchDrop (s := refetchWrite s _ _) (Still.raise (s := bedWrite s _ _) h ..)
              · exact h.refetchTurn
    · exact h.outsideDo _ (h.intakeBody ..)

theorem Still.requestTake (h : Still gs s) (d : List Byte) : Still gs (Machine.requestTake s d) := by
  have hpiece (r : Request1) (off : Nat) (s : State) (h : Still gs s) : Still gs (servePiece r s off) := by
    unfold servePiece
    dsimp only
    split
    · exact List.foldlRecOn (motive := Still gs) _ _ (h.serviceSend ..) fun t h k _ => h.serviceSend ..
    · exact h.serviceSend ..
  have hserve (s : State) (h : Still gs s) : Still gs (serveRequests s) := by
    unfold serveRequests
    split
    · exact h
    · next r rs _ =>
      refine Still.ite h ?_
      exact List.foldlRecOn (motive := Still gs) _ _ h fun t h k _ => hpiece r _ t h
  rw [requestTake_eq]
  split
  · exact h
  · exact hserve _ h

theorem Still.swapNotice (h : Still gs s) : Still gs (Machine.swapNotice s) := by
  unfold Machine.swapNotice
  split
  · exact h
  · dsimp only
    split
    · exact Still.raise (s := (s.mapWts _).mapWts _) h ..
    · exact h

/-! ### Windows (R325) -/

theorem Still.spadWrite (h : Still gs s) (c a : Nat) (bs : List Byte) : Still gs (Machine.spadWrite s c a bs).1 := by
  unfold Machine.spadWrite
  dsimp only
  split
  · exact h
  · exact Still.raise (s := s.mapCore c _) h ..

theorem Still.windowPut (h : Still gs s) (k tag : Nat) (bs : List Byte) : Still gs (Machine.windowPut s k tag bs).1 := by
  unfold Machine.windowPut
  split
  · next c _ _ _ =>
    have hp := h.spadWrite c (4 * (halfBase s k + 16 * tag)) (padTo 64 bs)
    generalize Machine.spadWrite s c (4 * (halfBase s k + 16 * tag)) (padTo 64 bs) = x at *
    obtain ⟨t, off⟩ := x
    dsimp only
    split <;> exact hp
  · exact h

/-- A packet of the chip's own that goes to a queue leaves the groups and the router as they are. -/
theorem Still.queueTake (h : Still gs s) (tc q : Nat) (half : Bool) (tag : Nat) (bs : List Byte) : Still gs (Machine.queueTake s 256 tc q half tag bs) := by
  unfold Machine.queueTake
  split
  · unfold serviceTake
    split
    · exact h.intakePacket ..
    · split
      · exact h.requestTake _
      · split
        · exact h.swapNotice
        · split
          · exact h
          · exact h.dropArr _
  · generalize queueEntry s q = e
    obtain ⟨c, b, hs⟩ := e
    dsimp only
    split
    · exact h.dropArr _
    · split
      · exact h
      · split
        · exact h.windowPut ..
        · exact h.windowPut ..

theorem spadWrite_on {c a : Nat} {bs : List Byte} (h : segRangeOn (segTakes s c) (spadBytes c) a bs.length = true) : Machine.spadWrite s c a bs =
    (s.mapCore c fun k => { k with spad := mwrite k.spad a bs, bad := clearBad k.bad 8 a bs.length, wrote := markWrote k.wrote a bs.length }, false) :=
  if_pos h

theorem halfKey_div (q : Nat) (h : Bool) : halfKey q h / 2 = q := by
  unfold halfKey
  split <;> omega

section
variable {c a k : Nat}

/-- A packet for a window is written there, or waits for its banks in a job. -/
theorem queueTake_window (h : Window s p c a k) (o tc : Nat) : queueTake s o tc (hQueue p) (hHalf p) (hTag p) p.data =
    if s.sch.job then s.mapFab fun f => { f with narrow := f.narrow ++ [{ key := k, tag := hTag p, core := c, addr := a, data := padTo 64 p.data, atW := s.sch.wCycle }] }
    else halfCountUp (s.mapCore c fun x => { x with spad := mwrite x.spad a (padTo 64 p.data), bad := clearBad x.bad 8 a 64, wrote := markWrote x.wrote a 64 }) k (hTag p) p.data := by
  obtain ⟨-, -, hq, hrep, rfl, hc, htag, rfl, hon⟩ := h
  have hput : windowPut s (halfKey (hQueue p) (hHalf p)) (hTag p) p.data =
      (s.mapCore c fun x => { x with spad := mwrite x.spad (4 * (halfBase s (halfKey (hQueue p) (hHalf p)) + 16 * hTag p)) (padTo 64 p.data)
                                     bad := clearBad x.bad 8 (4 * (halfBase s (halfKey (hQueue p) (hHalf p)) + 16 * hTag p)) 64
                                     wrote := markWrote x.wrote (4 * (halfBase s (halfKey (hQueue p) (hHalf p)) + 16 * hTag p)) 64 }, true) := by
    unfold windowPut
    rw [halfKey_div]
    generalize queueEntry s (hQueue p) = e at *
    obtain ⟨c', b, hs⟩ := e
    cases hc
    dsimp only
    rw [spadWrite_on (by rw [padTo_length]; exact hon), padTo_length]
    rfl
  unfold queueTake
  rw [if_neg (Nat.not_le.2 hq)]
  generalize queueEntry s (hQueue p) = e at *
  obtain ⟨c', b, hs⟩ := e
  cases hc
  dsimp only at htag ⊢
  rw [if_neg (by rw [hrep]; exact fun h => h.elim nofun fun h => h.elim (Nat.not_le.2 htag) Bool.false_ne_true)]
  by_cases hj : s.sch.job = true
  · rw [if_pos ⟨hj, hon⟩, if_pos hj]
    rfl
  · rw [if_neg fun h => hj h.1, if_neg hj, hput]
    rfl

theorem halfCountUp_core (k tag : Nat) (bs : List Byte) (i : Nat) : (halfCountUp s k tag bs).core i = s.core i := rfl

theorem halfCountUp_halves (k tag : Nat) (bs : List Byte) : (halfCountUp s k tag bs).fab.halves = fset s.fab.halves 0 k (min 65535 (fget s.fab.halves 0 k + 1)) := rfl

/-- What a packet that has landed shows. -/
structure Landed (s t : State) (p : Packet) (c a k : Nat) : Prop where
  land : if s.sch.job then Waits s t p c a k else Delivered s t p c a k
  evr : t.evr = s.evr

theorem Landed.congr (h : Landed s t p c a k) (hc : u.cores = t.cores) (hh : u.fab.halves = t.fab.halves) (hn : u.fab.narrow = t.fab.narrow) (he : u.evr = t.evr) :
    Landed s u p c a k := by
  have hcore (i : Nat) : u.core i = t.core i := by rw [State.core, hc]; rfl
  obtain ⟨hl, hev⟩ := h
  refine ⟨?_, he.trans hev⟩
  split
  · next hj =>
    rw [if_pos hj] at hl
    obtain ⟨h1, h2, h3⟩ := hl
    exact ⟨hc.trans h1, hh.trans h2, hn.trans h3⟩
  · next hj =>
    rw [if_neg hj] at hl
    obtain ⟨h1, h2, h3⟩ := hl
    exact ⟨fun i => by rw [hcore]; exact h1 i, fun i hi => (hcore i).trans (h2 i hi), fun i => by rw [hh]; exact h3 i⟩

/-- A packet for a window lands there, wherever it comes from. -/
theorem queueTake_landed (h : Window s p c a k) (o tc : Nat) : Landed s (queueTake s o tc (hQueue p) (hHalf p) (hTag p) p.data) p c a k ∧
    (queueTake s o tc (hQueue p) (hHalf p) (hTag p) p.data).fab.waiting = s.fab.waiting ∧
    (queueTake s o tc (hQueue p) (hHalf p) (hTag p) p.data).fab.inj = s.fab.inj ∧
    (queueTake s o tc (hQueue p) (hHalf p) (hTag p) p.data).fab.injIn = s.fab.injIn ∧ (queueTake s o tc (hQueue p) (hHalf p) (hTag p) p.data).fab.groups = s.fab.groups := by
  rw [queueTake_window h]
  split
  · next hj =>
    refine ⟨⟨?_, rfl⟩, rfl, rfl, rfl, rfl⟩
    rw [if_pos hj]
    exact ⟨rfl, rfl, rfl⟩
  · next hj =>
    refine ⟨⟨?_, rfl⟩, rfl, rfl, rfl, rfl⟩
    rw [if_neg hj]
    refine ⟨fun i => ?_, fun i hi => ?_, fun i => ?_⟩
    · rw [halfCountUp_core, State.mapCore_core_same]
      exact mget_mwrite ..
    · rw [halfCountUp_core]
      exact State.mapCore_core_ne _ _ _ _ hi
    · rw [halfCountUp_halves, fget_fset]
      split
      · next hi => rw [hi]; rfl
      · rfl

end

/-! ### A packet at a head -/

/-- Of a packet that goes, its flits leave its input VC. -/
structure Dropped (s t : State) : Prop where
  frame : t = { s with fab := { s.fab with links := t.fab.links, waiting := t.fab.waiting } }
  dropped : ∀ h, (t.link h).dropped = (s.link h).dropped

theorem rxDrop_dropped (o : Nat) (fl : BitVec 128) : Dropped s (rxDrop s o fl) := by
  unfold rxDrop
  split
  · refine ⟨rfl, fun h => ?_⟩
    rw [State.mapLink_link]
    split
    · next e => rw [e]
    · rfl
  · exact ⟨rfl, fun _ => rfl⟩

theorem Dropped.trans (h : Dropped s t) (h' : Dropped t u) : Dropped s u :=
  ⟨by rw [h'.frame, h.frame], fun i => (h'.dropped i).trans (h.dropped i)⟩

theorem Dropped.fields (h : Dropped s t) : t.cores = s.cores ∧ t.fab.halves = s.fab.halves ∧ t.fab.narrow = s.fab.narrow ∧ t.evr = s.evr := by
  have h1 := congrArg State.cores h.frame
  have h2 := congrArg (fun t : State => t.fab.halves) h.frame
  have h3 := congrArg (fun t : State => t.fab.narrow) h.frame
  have h4 := congrArg State.evr h.frame
  exact ⟨h1, h2, h3, h4⟩

theorem heldDrop_dropped (w : HeldPkt) : Dropped s (heldDrop s w) ∧ (heldDrop s w).fab.waiting = dropFirst (fun x => x == w) s.fab.waiting := by
  unfold heldDrop
  have hfirst : Dropped s (s.mapFab fun f => { f with waiting := dropFirst (fun x => x == w) f.waiting }) := ⟨rfl, fun _ => rfl⟩
  refine List.foldlRecOn (motive := fun t : State => Dropped s t ∧ t.fab.waiting = dropFirst (fun x => x == w) s.fab.waiting) _ _ ⟨hfirst, rfl⟩ fun t h fl _ => ?_
  exact ⟨h.1.trans (rxDrop_dropped ..), (rxDrop_keeps w.origin fl).2.trans h.2⟩

/-- The one packet that stands at a head whose route ends here is handled and gone. -/
theorem headStep_end (hw : s.fab.waiting = [w]) (ht : w.told = false) (hr : (if w.origin < 128 then route s w.pkt else (w.pkt, none)) = (q, none))
    (ha : arrive s w.origin q = (t, false)) : headStep s w.origin = headGone t w := by
  unfold headStep
  rw [hw, List.find?_cons_of_pos (p := fun x : HeldPkt => x.origin == w.origin) (beq_self_eq_true _)]
  dsimp only
  rw [hr]
  dsimp only
  rw [ht, if_neg (fun h => Bool.false_ne_true h.1), ha]

/-- The one packet that stands at a head and has a link before it waits for it, or is dropped there. -/
theorem headStep_link {h : Nat} (hw : s.fab.waiting = [w]) (ht : w.told = false) (ho : w.origin < 128) (hr : route s w.pkt = (q, some h)) :
    headStep s w.origin = if hopBad s h (hTc q) then headGone (dropAtLink s h) w else s.mapFab fun f => { f with waiting := [{ w with told := true }] } := by
  have hkeep : (s.mapFab fun f => { f with waiting := mapFirst (fun x => x == w) (fun x => { x with told := true }) f.waiting }) =
      s.mapFab fun f => { f with waiting := [{ w with told := true }] } := by
    show ({ s with fab := { s.fab with waiting := mapFirst (fun x => x == w) (fun x => { x with told := true }) s.fab.waiting } } : State) = _
    rw [hw, mapFirst, if_pos (beq_self_eq_true _)]
    rfl
  unfold headStep
  rw [hw, List.find?_cons_of_pos (p := fun x : HeldPkt => x.origin == w.origin) (beq_self_eq_true _)]
  dsimp only
  rw [if_pos ho, hr]
  dsimp only
  rw [ht, if_neg Bool.false_ne_true, hkeep]

/-- One packet that is gone after a round leaves the router still. -/
theorem settle_gone (hw : s.fab.waiting = [w]) (h : (headStep s w.origin).fab.waiting = []) : settle s = headStep s w.origin := by
  unfold settle
  rw [hw]
  unfold settleGo
  rw [hw, if_neg (by exact Bool.false_ne_true)]
  show (if (headStep s w.origin).fab.waiting.isEmpty = true then headStep s w.origin else _) = _
  rw [h]
  rfl

/-- A packet that stays after a round waits for its link, which then sends. -/
theorem settle_stays (hw : s.fab.waiting = [w]) (h : (headStep s w.origin).fab.waiting ≠ []) :
    settle s = settleGo ((heldLinks (headStep s w.origin)).foldl pump (injSettle (headStep s w.origin))) 2 := by
  unfold settle
  rw [hw]
  show settleGo s (2 + 1) = _
  rw [settleGo, hw, if_neg (by exact Bool.false_ne_true)]
  exact if_neg fun he => h (List.isEmpty_iff.1 he)

theorem settle_still (h : s.fab.waiting = []) : settle s = s := by
  unfold settle settleGo
  rw [h]
  rfl

/-- Where nothing waits for a place, freed places change nothing. -/
theorem injSettle_idle (hin : s.fab.injIn = []) (hg : s.fab.groups = []) : injSettle s = s := by
  have e : injRefill s = s := by
    unfold injRefill
    rw [hin]
    show ({ s with fab := { s.fab with injIn := [] } } : State) = s
    rw [← hin]
  unfold injSettle
  rw [e]
  unfold groupsEmit
  rw [hg]
  rfl

end

end Sys2Proof.Machine
end

section
/-! PROOFS. Packets that arrive or are delivered locally, and reduce groups (O42). -/
namespace Sys2Proof.Machine

section
variable {s t u : State} {l v n c a k o : Nat} {p q pk : Packet} {w : HeldPkt} {g : Group}

/-! ### A packet from a link (R317, R319, R335) -/

/-- The state in which a packet stands alone in the router. -/
def standing (s : State) (o : Nat) (p : Packet) : State := s.mapFab fun f => { f with waiting := [{ origin := o, pkt := p }] }

theorem packetArrive_eq {l : LinkId} (h1 : (s.link l.val).state ≠ .off) (h2 : (s.link l.val).state ≠ .failed) (hw : s.fab.waiting = []) :
    exec (.packetArrive l pk) s = .next (settle (standing s (8 * l.val + hVcNo pk) pk)) := by
  have e : (s.mapFab fun f => { f with waiting := f.waiting ++ [{ origin := 8 * l.val + hVcNo pk, pkt := pk }] }) = standing s (8 * l.val + hVcNo pk) pk := by
    show ({ s with fab := { s.fab with waiting := s.fab.waiting ++ [{ origin := 8 * l.val + hVcNo pk, pkt := pk }] } } : State) = _
    rw [hw]
    rfl
  refine congrArg Host.Outcome.next ((if_neg (fun h => h.elim h1 h2)).trans ?_)
  rw [enterQueue, e]

theorem route_standing (o : Nat) (p : Packet) : route (standing s o p) pk = route s pk := rfl

theorem Window.standing (h : Window s p c a k) (o : Nat) (x : Packet) : Window (standing s o x) p c a k := h

theorem arrive_window (h : Window s p c a k) (o : Nat) : arrive s o p = (queueTake s o (hTc p) (hQueue p) (hHalf p) (hTag p) p.data, false) := by
  obtain ⟨ht, hk, -⟩ := h
  unfold arrive
  rw [if_neg (by rw [ht]; decide), hk]
  rfl

theorem arrive_closed (h : fabricTakes s = false) (o : Nat) : arrive s o p = (dropArr s [hQueue p], false) := by
  unfold arrive
  rw [if_pos (by rw [h]; rfl)]

theorem headGone_link (h : w.origin < 128) : headGone s w = heldDrop s w := by
  unfold headGone
  rw [decide_eq_false (Nat.not_le.2 h)]
  rfl

theorem dropFirst_self (w : HeldPkt) : dropFirst (fun x => x == w) [w] = [] := dropFirst_head (f := fun x => x == w) (beq_self_eq_true w)

/-- A packet from a link whose route ends here lands in its window. -/
theorem settle_window (ho : o < 128) (hr : route s pk = (q, none)) (hw : Window s q c a k) :
    Landed s (settle (standing s o pk)) q c a k := by
  obtain ⟨hland, hwait, -⟩ := queueTake_landed (hw.standing o pk) o (hTc q)
  have hstep := headStep_end (s := standing s o pk) (w := { origin := o, pkt := pk }) rfl rfl ((if_pos ho).trans ((route_standing ..).trans hr)) (arrive_window (hw.standing o pk) o)
  rw [headGone_link ho] at hstep
  obtain ⟨hdrop, hgone⟩ := heldDrop_dropped (s := queueTake (standing s o pk) o (hTc q) (hQueue q) (hHalf q) (hTag q) q.data) { origin := o, pkt := pk }
  rw [hwait] at hgone
  have hgone := hgone.trans (dropFirst_self { origin := o, pkt := pk })
  rw [settle_gone (w := { origin := o, pkt := pk }) rfl (by rw [hstep]; exact hgone), hstep]
  have hl : Landed s (queueTake (standing s o pk) o (hTc q) (hQueue q) (hHalf q) (hTag q) q.data) q c a k := ⟨hland.land, hland.evr⟩
  obtain ⟨hcores, hhalves, hnarrow, hevr⟩ := hdrop.fields
  exact hl.congr hcores hhalves hnarrow hevr

/-- A packet whose next link does not take it is dropped there (R319). -/
theorem settle_dead {h : Nat} (ho : o < 128) (hr : route s pk = (q, some h)) (hbad : hopBad s h (hTc q) = true) :
    let t := settle (standing s o pk)
    (t.link h).dropped = min ((s.link h).dropped + 1) 0xFFFFFFFF ∧ t.evr = (raise s 0x0A01 0x15 [h]).evr ∧ t.cores = s.cores := by
  intro t
  have hstep := headStep_link (s := standing s o pk) (w := { origin := o, pkt := pk }) rfl rfl ho hr
  have hbad' : hopBad (standing s o pk) h (hTc q) = true := hbad
  rw [if_pos hbad', headGone_link (w := { origin := o, pkt := pk }) ho] at hstep
  have he : dropAtLink (standing s o pk) h = { (standing s o pk).mapLink h fun k => { k with dropped := sat32 k.dropped } with evr := (raise s 0x0A01 0x15 [h]).evr } :=
    raise_eq_now (s := s) (t := (standing s o pk).mapLink h fun k => { k with dropped := sat32 k.dropped }) rfl rfl rfl 0x0A01 0x15 [h]
  rw [he] at hstep
  obtain ⟨hdrop, hgone⟩ := heldDrop_dropped
    (s := { (standing s o pk).mapLink h fun k => { k with dropped := sat32 k.dropped } with evr := (raise s 0x0A01 0x15 [h]).evr }) { origin := o, pkt := pk }
  have hgone := hgone.trans (dropFirst_self { origin := o, pkt := pk })
  have ht : t = _ := (settle_gone (s := standing s o pk) (w := { origin := o, pkt := pk }) rfl (by rw [hstep]; exact hgone)).trans hstep
  obtain ⟨hcores, -, -, hevr⟩ := hdrop.fields
  have hd := hdrop.dropped h
  rw [ht]
  refine ⟨hd.trans ?_, hevr, hcores⟩
  exact congrArg Link.dropped (State.mapLink_link_same (standing s o pk) h fun k => { k with dropped := sat32 k.dropped })

/-- The state in which a packet waits alone for its link. -/
def waitingFor (s : State) (o : Nat) (p : Packet) : State := s.mapFab fun f => { f with waiting := [{ origin := o, pkt := p, told := true }] }

theorem heldLinks_waitingFor {h : Nat} (ho : o < 128) (hr : route s pk = (q, some h)) : heldLinks (waitingFor s o pk) = [h] := by
  have hheld : heldFor (waitingFor s o pk) { origin := o, pkt := pk, told := true } = some h := by
    unfold heldFor
    rw [if_pos ⟨rfl, ho⟩]
    exact congrArg Prod.snd hr
  show uniq (List.filterMap (heldFor (waitingFor s o pk)) [{ origin := o, pkt := pk, told := true }]) = [h]
  rw [List.filterMap_cons, hheld]
  rfl

/-- A packet that waits for an idle link is the only one the link has. -/
theorem Idle.sendingWaiting {h : Nat} (hidle : Idle s h none) (ho : o < 128) (hne : h ≠ o / 8) (hr : route s pk = (q, some h))
    (hx : (s.link h).peerXoff.getLsbD (hVcNo q) = false) : Sending (waitingFor s o pk) h (hVcNo q) (o + 3) [q] 0 := by
  obtain ⟨-, -, -, hq, ht, -⟩ := id hidle
  refine ⟨⟨fun u hu => (hidle.first hu).trans (if_neg fun h => absurd h.1 (by omega)).symm, fun u hu => (hidle.second hu).trans (if_neg fun h => absurd h.1 (by omega)).symm,
    hq.trans (if_neg (by omega)).symm, fun h => absurd h (by omega),
      .inr ⟨_, q, rfl, rfl, ho, fun h => hne h.symm, rfl, hr, rfl, rfl⟩⟩, ht, fun h => absurd rfl h, by decide, hVcNo_lt q, hx⟩

/-- A packet whose next link is idle leaves by it at once (R335). -/
theorem settle_next {h : Nat} (ho : o < 128) (hne : h ≠ o / 8) (hr : route s pk = (q, some h)) (hbad : hopBad s h (hTc q) = false) (hidle : Idle s h none)
    (hroom : canSend (s.link h) q = true) :
    let t := settle (standing s o pk)
    (t.link h).replayBuf = (s.link h).replayBuf ++ [frameOf (s.link h) q] ∧ t.fab.waiting = [] ∧ t.cores = s.cores ∧ t.evr = s.evr := by
  intro t
  have hx : (s.link h).peerXoff.getLsbD (hVcNo q) = false := by
    have hr := ((Bool.and_eq_true ..).mp hroom).2
    rwa [Bool.not_eq_true'] at hr
  obtain ⟨-, hin, hg, -⟩ := id hidle
  have hstep : headStep (standing s o pk) o = waitingFor s o pk := by
    have hbad' : hopBad (standing s o pk) h (hTc q) = false := hbad
    have e := headStep_link (s := standing s o pk) (w := { origin := o, pkt := pk }) rfl rfl ho hr
    rw [if_neg (fun h => Bool.false_ne_true (hbad'.symm.trans h))] at e
    exact e
  obtain ⟨hsent, hleft⟩ := (hidle.sendingWaiting ho hne hr hx).pump_one (if_neg fun h => absurd h.1 (by omega)) hroom rfl
  have hgone : (pump (waitingFor s o pk) h).fab.waiting = [] := by
    obtain ⟨hw, -⟩ | ⟨_, _, _, _, _, _, _, _, _, hq⟩ := hleft.alone.held
    · exact hw
    · exact absurd hq.symm (List.cons_ne_nil _ _)
  have ht : t = pump (waitingFor s o pk) h := by
    have e : t = settleGo ((heldLinks (headStep (standing s o pk) o)).foldl pump (injSettle (headStep (standing s o pk) o))) 2 :=
      settle_stays (s := standing s o pk) (w := { origin := o, pkt := pk }) rfl (by rw [hstep]; exact List.cons_ne_nil _ _)
    rw [e, hstep, heldLinks_waitingFor ho hr, injSettle_idle (s := waitingFor s o pk) hin hg, List.foldl_cons, List.foldl_nil, settleGo, hgone]
    rfl
  have hcores := congrArg State.cores hsent.frame
  have hevr := congrArg State.evr hsent.frame
  rw [ht]
  exact ⟨hsent.buf, hgone, hcores, hevr⟩

/-! ### A packet of the local route (R323) -/

/-- The state a packet of the local route leaves once it has been handled. -/
def localGone (t : State) (v : Nat) (p : Packet) : State := headGone t { origin := 128 + v, pkt := p }

/-- A packet of the local route that goes leaves its buffer, and room for a handoff that waits. -/
theorem localGone_eq (hv : v < 8) (hwait : t.fab.waiting = [{ origin := 128 + v, pkt := p }]) :
    fget (localGone t v p).fab.inj [] (128 + v) = (fget t.fab.inj [] (128 + v)).tail ∧
    localGone t v p = { t with
      fab := { t.fab with links := (localGone t v p).fab.links, waiting := [], inj := (localGone t v p).fab.inj, injAt := (localGone t v p).fab.injAt }
      sch := { t.sch with causes := (localGone t v p).sch.causes } } := by
  obtain ⟨hdrop, hgone⟩ := heldDrop_dropped (s := t) { origin := 128 + v, pkt := p }
  rw [hwait, dropFirst_self] at hgone
  have hinj := congrArg (fun t : State => t.fab.inj) hdrop.frame
  have e : localGone t v p = injFreed (injRoom (heldDrop t { origin := 128 + v, pkt := p }) false (128 + v))
      ((heldDrop t { origin := 128 + v, pkt := p }).mapFab fun f => { f with inj := fset f.inj [] (128 + v) ((fget f.inj [] (128 + v)).drop 1) }) (128 + v) := by
    unfold localGone headGone
    dsimp only
    rw [decide_eq_true (Nat.le_add_right 128 v), State.cond_true, decide_eq_false (by omega), Nat.add_sub_cancel_left, Nat.mod_eq_of_lt hv]
    rfl
  have hframe := hdrop.frame
  rw [hgone] at hframe
  generalize heldDrop t { origin := 128 + v, pkt := p } = x at *
  generalize hy : (x.mapFab fun f => { f with inj := fset f.inj [] (128 + v) ((fget f.inj [] (128 + v)).drop 1) }) = y at *
  obtain ⟨hfab, hall⟩ := injFreed_keeps (s := y) (injRoom x false (128 + v)) (128 + v)
  rw [e]
  generalize injFreed (injRoom x false (128 + v)) y (128 + v) = z at *
  refine ⟨?_, ?_⟩
  · rw [hfab, ← hy]
    show fget (fset x.fab.inj [] (128 + v) ((fget x.fab.inj [] (128 + v)).drop 1)) [] (128 + v) = _
    rw [fget_fset_same, List.drop_one, show x.fab.inj = t.fab.inj from hinj]
  · rw [hall, hfab, ← hy, hframe]
    rfl

/-- The head packet of a local-route buffer that is handled leaves. -/
theorem localRoute_end {v : Fin 8} (hw : s.fab.waiting = []) (hp : (fget s.fab.inj [] (128 + v.val)).head? = some p)
    (ha : arrive (standing s (128 + v.val) p) (128 + v.val) p = (t, false)) (hwait : t.fab.waiting = [{ origin := 128 + v.val, pkt := p }])
    (hin : t.fab.injIn = []) (hg : t.fab.groups = []) : exec (.localRouteDeliver false v) s = .next (localGone t v.val p) := by
  have hhead : localHead s false v.val = some p := hp
  have hstep := headStep_end (s := standing s (128 + v.val) p) (w := { origin := 128 + v.val, pkt := p }) rfl rfl (if_neg (by show ¬ 128 + v.val < 128; omega)) ha
  obtain ⟨-, hframe⟩ := localGone_eq v.isLt hwait
  have hstep : headStep (standing s (128 + v.val) p) (128 + v.val) = localGone t v.val p := hstep
  have hgone := congrArg (fun t : State => t.fab.waiting) hframe
  have hin' := (congrArg (fun t : State => t.fab.injIn) hframe).trans hin
  have hg' := (congrArg (fun t : State => t.fab.groups) hframe).trans hg
  have hsettle := settle_gone (s := standing s (128 + v.val) p) (w := { origin := 128 + v.val, pkt := p }) rfl (by rw [hstep]; exact hgone)
  have hst : (s.mapFab fun f => { f with waiting := f.waiting ++ [{ origin := 128 + v.val, pkt := p }] }) = standing s (128 + v.val) p := by
    show ({ s with fab := { s.fab with waiting := s.fab.waiting ++ [{ origin := 128 + v.val, pkt := p }] } } : State) = _
    rw [hw]
    rfl
  refine congrArg Host.Outcome.next ?_
  unfold localDeliver
  rw [hhead]
  dsimp only
  have horigin : localOrigin false v.val = 128 + v.val := rfl
  rw [hw, if_neg (by exact Bool.false_ne_true), horigin, enterQueue, hst, hsettle]
  show injSettle (headStep (standing s (128 + v.val) p) (128 + v.val)) = _
  rw [hstep]
  exact injSettle_idle hin' hg'

/-! ### Reduction (R332) -/

theorem groupEmit_still {gs : List Group} (h : Still gs s) (he : groupEmit s g = some u) : Still gs u := by
  unfold groupEmit at he
  dsimp only at he
  split at he
  · rw [← Option.some.inj he]
    exact h.queueTake ..
  · split at he
    · rw [← Option.some.inj he]
      exact h.dropArr _
    · exact h.inject he

theorem fieldAt_blocks (f : Nat → Nat) (L : List Nat) (i : Nat) (h : i < L.length) :
    fieldAt (L.map fun x => leBytes 4 (f x)).flatten (4 * i) 4 = f (L.getD i 0) % 2 ^ 32 := by
  induction L generalizing i with
  | nil => exact absurd h (Nat.not_lt_zero i)
  | cons x L ih =>
    rw [List.map_cons, List.flatten_cons]
    cases i with
    | zero => exact fieldAt_leBytes 4 (f x) _
    | succ i =>
      rw [show 4 * (i + 1) = (leBytes 4 (f x)).length + 4 * i by rw [leBytes_length]; omega, fieldAt_append_right, ih i (by rw [List.length_cons] at h; omega)]
      rfl

theorem redCombine_sum (a b : List Byte) {i : Nat} (hi : i < 16) :
    fieldAt (redCombine 3 2 [(0, a), (1, b)]) (4 * i) 4 = (fieldAt a (4 * i) 4 + fieldAt b (4 * i) 4) % 2 ^ 32 := by
  have e : redCombine 3 2 [(0, a), (1, b)] = ((List.range 16).map fun i => leBytes 4 ((fieldAt a (4 * i) 4 + fieldAt b (4 * i) 4) % 2 ^ 32)).flatten := rfl
  rw [e, fieldAt_blocks (fun i => (fieldAt a (4 * i) 4 + fieldAt b (4 * i) 4) % 2 ^ 32) _ _ (by rw [List.length_range]; exact hi),
    List.getD_eq_getElem _ _ (by rw [List.length_range]; exact hi), List.getElem_range, Nat.mod_mod]

end

/-- Settles O42. -/
theorem packetsDeliver : Obligations.PacketsDeliver := by
  intro s
  refine ⟨fun l pk h1 h2 hw => ?_, fun v p hw hin hg hp => ?_, fun g u hw hg hfull hemit => ?_, fun a b i hi => redCombine_sum a b hi⟩
  · have ho : 8 * l.val + hVcNo pk < 128 := by
      have := l.isLt
      have := hVcNo_lt pk
      omega
    rw [packetArrive_eq h1 h2 hw]
    refine ⟨fun c a k hend hwin => ?_, fun h hnext hbad => ?_, fun h hnext hne hbad hidle hroom => ?_⟩
    · have hland := settle_window ho (Prod.ext rfl hend) hwin
      exact ⟨_, rfl, hland.land, hland.evr⟩
    · exact ⟨_, rfl, settle_dead ho (Prod.ext rfl hnext) hbad⟩
    · exact ⟨_, rfl, settle_next ho (by have := hVcNo_lt pk; omega) (Prod.ext rfl hnext) hbad hidle hroom⟩
  · refine ⟨fun c a k hwin => ?_, fun hclosed => ?_⟩
    · obtain ⟨hland, hwait, hinj, hin', hg'⟩ := queueTake_landed (hwin.standing (128 + v.val) p) (128 + v.val) (hTc p)
      have e := localRoute_end hw hp (arrive_window (hwin.standing (128 + v.val) p) (128 + v.val)) hwait (hin'.trans hin) (hg'.trans hg)
      obtain ⟨htail, hframe⟩ := localGone_eq v.isLt hwait
      have hl : Landed s (queueTake (standing s (128 + v.val) p) (128 + v.val) (hTc p) (hQueue p) (hHalf p) (hTag p) p.data) p c a k := ⟨hland.land, hland.evr⟩
      rw [e]
      refine ⟨_, rfl, ?_, by rw [htail, hinj]; rfl⟩
      rw [hframe]
      exact (hl.congr rfl rfl rfl rfl).land
    · have he : dropArr (standing s (128 + v.val) p) [hQueue p] =
          { (standing s (128 + v.val) p).mapFab fun f => { f with arrDrops := sat32 f.arrDrops } with evr := (raise s 0x0A02 0x15 [hQueue p]).evr } :=
        raise_eq_now (s := s) (t := (standing s (128 + v.val) p).mapFab fun f => { f with arrDrops := sat32 f.arrDrops }) rfl rfl rfl 0x0A02 0x15 [hQueue p]
      have ha := arrive_closed (s := standing s (128 + v.val) p) (p := p) hclosed (128 + v.val)
      rw [he] at ha
      have e := localRoute_end hw hp ha rfl hin hg
      obtain ⟨htail, hframe⟩ := localGone_eq
        (t := { (standing s (128 + v.val) p).mapFab fun f => { f with arrDrops := sat32 f.arrDrops } with evr := (raise s 0x0A02 0x15 [hQueue p]).evr }) v.isLt rfl
      have hdrops := congrArg (fun t : State => t.fab.arrDrops) hframe
      have hevr := congrArg State.evr hframe
      exact ⟨_, e, hdrops, htail, hevr⟩
  · have hstill : Still [g] u := groupEmit_still ⟨hg, hw⟩ hemit
    have he : groupsEmit s = { u with fab := { u.fab with groups := [], waiting := [] } } := by
      unfold groupsEmit
      rw [hg, List.foldl_cons, List.foldl_nil, if_pos hfull, hemit]
      show ({ u with fab := { u.fab with groups := dropFirst (fun h => h == g) u.fab.groups } } : State) = _
      rw [hstill.1, dropFirst_head (f := fun h => h == g) (beq_self_eq_true g), ← hstill.2]
    refine congrArg Host.Outcome.next ?_
    rw [he]
    exact settle_still rfl

end Sys2Proof.Machine
end

section
/-! PROOFS. What a W-cycle of an Eddy counts (R47). -/
namespace Sys2Proof.Machine

section
variable {s t : State} {n d : Nat}

/-! ### Counts -/

theorem mem_uniq {l : List Nat} {x : Nat} : x ∈ uniq l ↔ x ∈ l := by
  induction l with
  | nil => rfl
  | cons y l ih =>
    unfold uniq
    split
    · next h =>
      rw [ih, List.mem_cons]
      exact ⟨.inr, fun hx => hx.elim (fun e => e ▸ List.contains_iff_mem.1 h) id⟩
    · rw [List.mem_cons, List.mem_cons, ih]

theorem nodup_uniq (l : List Nat) : (uniq l).Nodup := by
  induction l with
  | nil => exact List.nodup_nil
  | cons y l ih =>
    unfold uniq
    split
    · exact ih
    · next h => exact List.nodup_cons.2 ⟨fun hy => h (List.contains_iff_mem.2 (mem_uniq.1 hy)), ih⟩

/-- Every number of a list without repetitions counts once. -/
theorem fget_count (L : List Nat) (hd : L.Nodup) (m : FMap Nat) (n : Nat) :
    fget (L.foldl (fun m c => fset m 0 c (fget m 0 c + 1)) m) 0 n = fget m 0 n + if n ∈ L then 1 else 0 := by
  induction L generalizing m with
  | nil => rfl
  | cons x L ih =>
    obtain ⟨hx, hd⟩ := List.nodup_cons.1 hd
    rw [List.foldl_cons, ih hd, fget_fset]
    by_cases hn : n = x
    · rw [if_pos hn, if_neg (hn ▸ hx), if_pos (hn ▸ List.mem_cons_self), hn]
    · rw [if_neg hn]
      exact congrArg _ (if_congr (by rw [List.mem_cons]; exact ⟨.inr, fun h => h.resolve_left hn⟩) rfl rfl)

theorem hasCause_iff : hasCause s n = true ↔ n ∈ s.sch.causes.map (·.no) := by
  unfold hasCause
  rw [List.any_eq_true, List.mem_map]
  exact exists_congr fun c => and_congr_right fun _ => beq_iff_eq

/-- A W-cycle of an Eddy counts once for every cause present (R47). -/
theorem eddyCount_perCause : fget (eddyCount d s).sch.perCause 0 n = fget s.sch.perCause 0 n + if hasCause s n then 1 else 0 :=
  (fget_count _ (nodup_uniq _) _ n).trans (congrArg _ (if_congr (mem_uniq.trans hasCause_iff.symm) rfl rfl))

theorem recvReady_no : (recvReady s).sch.causes.map (·.no) = s.sch.causes.map (·.no) := by
  show (s.sch.causes.map (recvReady.ready s)).map (·.no) = _
  rw [List.map_map]
  refine List.map_congr_left fun x _ => ?_
  show (recvReady.ready s x).no = x.no
  unfold recvReady.ready
  split
  · dsimp only
    split <;> rfl
  · rfl

theorem recvReady_hasCause : hasCause (recvReady s) n = hasCause s n := by
  rw [Bool.eq_iff_iff, hasCause_iff, hasCause_iff, recvReady_no]

/-! ### The rest of the W-cycle -/

/-- What the rest of a W-cycle of an Eddy keeps. -/
def eddyView (s : State) : Nat × Nat × Nat × FMap Nat × FMap Core := (s.sch.sCycle, s.sch.wCycle, s.sch.eddyW, s.sch.perCause, s.cores)

theorem tickHalts_eddyView : eddyView (tickHalts s) = eddyView s := by
  have hhalt (s : State) (c : Nat) : eddyView (debugHalt s c) = eddyView s := by
    unfold eddyView
    rw [debugHalt_sch, debugHalt_cores]
  unfold tickHalts
  split
  · split
    · exact hhalt ..
    · split
      · exact hhalt ..
      · split
        · exact hhalt ..
        · rfl
  · rfl

theorem eddyTrip_eddyView : eddyView (eddyTrip s) = eddyView s := by
  unfold eddyTrip
  split
  · rw [fatal_frame]
    rfl
  · rfl

theorem weirResume_idle (h : s.sch.weirPhase = 0) : weirResume s = s := by
  unfold weirResume
  rw [h]
  split <;> rfl

theorem replayTimer_none (h : s.sch.replay = none) : replayTimer s = s := by
  unfold replayTimer
  rw [h]

/-- The rest of a W-cycle of an Eddy: its limit, the causes that have come clear, what waits for them and halts. -/
def eddyEnd (s : State) : State := tickHalts (replayTimer (weirResume (eddyClear (if eddyOver s then eddyTrip s else s))))

theorem eddyClear_keeps : eddyView (eddyClear s) = eddyView s ∧ (eddyClear s).sch.weirPhase = s.sch.weirPhase ∧ (eddyClear s).sch.replay = s.sch.replay := ⟨rfl, rfl, rfl⟩

theorem eddyTrip_sch : (eddyTrip s).sch = s.sch := by
  unfold eddyTrip
  split
  · exact fatal_sch ..
  · rfl

theorem eddyRest_eddyView (hw : s.sch.weirPhase = 0) (hr : s.sch.replay = none) :
    eddyView (tickHalts (replayTimer (weirResume (eddyClear s)))) = eddyView s := by
  obtain ⟨hview, hphase, hreplay⟩ := eddyClear_keeps (s := s)
  rw [tickHalts_eddyView, weirResume_idle (hphase.trans hw), replayTimer_none (hreplay.trans hr), hview]

theorem eddyEnd_eddyView (hw : s.sch.weirPhase = 0) (hr : s.sch.replay = none) : eddyView (eddyEnd s) = eddyView s := by
  unfold eddyEnd
  split
  · exact (eddyRest_eddyView (by rw [eddyTrip_sch]; exact hw) (by rw [eddyTrip_sch]; exact hr)).trans eddyTrip_eddyView
  · exact eddyRest_eddyView hw hr

theorem outsideTurn_idle {act : Instr → State → State} {l : List WAcc} (h : s.beds.waiting = []) : outsideTurn act l s = s := by
  unfold outsideTurn
  rw [h]
  rfl

theorem narrowEddy_idle (h : s.fab.narrow = []) : narrowEddy s = s := by
  unfold narrowEddy narrowTurn
  rw [h]
  rfl

/-- A W-cycle of an Eddy with nothing outside the schedule waiting. -/
theorem eddyTick_eq (hf : s.pwr.newFreq = none) (hb : (narrowEddy s).beds.waiting = []) :
    eddyTick d s = eddyEnd (eddyCount d (recvReady (narrowEddy s))) := by
  unfold eddyTick
  rw [hf, if_neg (by exact Bool.false_ne_true), outsideTurn_idle hb]
  rfl

theorem eddyCount_recvReady : (eddyCount d (recvReady s)).sch.sCycle = s.sch.sCycle ∧ (eddyCount d (recvReady s)).sch.wCycle = s.sch.wCycle + 1 ∧
    (eddyCount d (recvReady s)).sch.eddyW = s.sch.eddyW + 1 ∧ (eddyCount d (recvReady s)).cores = s.cores ∧
    (eddyCount d (recvReady s)).sch.weirPhase = s.sch.weirPhase ∧ (eddyCount d (recvReady s)).sch.replay = s.sch.replay ∧
    ∀ n, fget (eddyCount d (recvReady s)).sch.perCause 0 n = fget s.sch.perCause 0 n + if hasCause s n then 1 else 0 := by
  refine ⟨rfl, rfl, rfl, rfl, rfl, rfl, fun n => ?_⟩
  rw [eddyCount_perCause, recvReady_hasCause]
  rfl

theorem eddyView_fields (h : eddyView t = eddyView s) : t.sch.sCycle = s.sch.sCycle ∧ t.sch.wCycle = s.sch.wCycle ∧ t.sch.eddyW = s.sch.eddyW ∧
    t.sch.perCause = s.sch.perCause ∧ t.cores = s.cores := by
  have h1 := congrArg (fun v => v.1) h
  have h2 := congrArg (fun v => v.2.1) h
  have h3 := congrArg (fun v => v.2.2.1) h
  have h4 := congrArg (fun v => v.2.2.2.1) h
  have h5 := congrArg (fun v => v.2.2.2.2) h
  exact ⟨h1, h2, h3, h4, h5⟩

/-- Where nothing else is due, a W-cycle of an Eddy counts in total and for the causes present, and the S-cycle stands (R44, R47). -/
theorem eddyTick_counts (hf : s.pwr.newFreq = none) (hb : (narrowEddy s).beds.waiting = []) (hs : (narrowEddy s).sch = s.sch) (hw : s.sch.weirPhase = 0)
    (hr : s.sch.replay = none) : (eddyTick d s).sch.sCycle = s.sch.sCycle ∧ (eddyTick d s).sch.wCycle = s.sch.wCycle + 1 ∧
    (eddyTick d s).sch.eddyW = s.sch.eddyW + 1 ∧ (∀ n, fget (eddyTick d s).sch.perCause 0 n = fget s.sch.perCause 0 n + if hasCause s n then 1 else 0) ∧
    (eddyTick d s).cores = (narrowEddy s).cores := by
  rw [eddyTick_eq hf hb]
  have hhas (n : Nat) : hasCause (narrowEddy s) n = hasCause s n := by rw [hasCause, hs]; rfl
  generalize narrowEddy s = u at *
  obtain ⟨c1, c2, c3, c4, c5, c6, c7⟩ := eddyCount_recvReady (s := u) (d := d)
  generalize eddyCount d (recvReady u) = x at *
  obtain ⟨h1, h2, h3, h4, h5⟩ := eddyView_fields (eddyEnd_eddyView (c5.trans (by rw [hs]; exact hw)) (c6.trans (by rw [hs]; exact hr)))
  refine ⟨h1.trans (c1.trans (by rw [hs])), h2.trans (c2.trans (by rw [hs])), h3.trans (c3.trans (by rw [hs])), fun n => ?_, h5.trans c4⟩
  rw [h4, c7, hhas n, hs]

end

end Sys2Proof.Machine
end

section
/-! PROOFS. Bank conflicts, arbitration, the Eddy's and Oxbow's limits, injection room and control messages (O29). -/
namespace Sys2Proof.Machine

section
variable {s t : State} {n c m l v : Nat}

/-! ### Bank conflicts (R257) -/

/-- A bank conflict of a core that has none yet holds the S-cycle for its length. -/
theorem bankConflict_fresh (h : ∀ x ∈ s.sch.causes, x.no = 5 → x.src ≠ c) (w : Nat) :
    (addCause s 5 c).mapSch (fun k => { k with causes := k.causes.map fun x => if x.no = 5 ∧ x.src = c ∧ x.untilW = none then { x with untilW := some (k.wCycle + w) } else x }) =
      { s with sch := { s.sch with causes := s.sch.causes ++ [{ no := 5, src := c, sinceW := s.sch.wCycle, untilW := some (s.sch.wCycle + w) }] } } := by
  have hno : s.sch.causes.any (fun x => x.no == 5 && x.src == c) = false := by
    refine List.any_eq_false.2 fun x hx hc => ?_
    obtain ⟨h5, hsrc⟩ := (Bool.and_eq_true ..).mp hc
    exact h x hx (beq_iff_eq.1 h5) (beq_iff_eq.1 hsrc)
  have hold : s.sch.causes.map (fun x => if x.no = 5 ∧ x.src = c ∧ x.untilW = none then { x with untilW := some (s.sch.wCycle + w) } else x) = s.sch.causes :=
    (List.map_congr_left fun x hx => if_neg fun hc => h x hx hc.1 hc.2.1).trans (List.map_id _)
  unfold addCause
  rw [if_neg (by rw [hno]; exact Bool.false_ne_true)]
  show ({ s with sch := { s.sch with causes := List.map _ (s.sch.causes ++ [_]) } } : State) = _
  rw [List.map_append]
  show ({ s with sch := { s.sch with causes := s.sch.causes.map (fun x => if x.no = 5 ∧ x.src = c ∧ x.untilW = none then { x with untilW := some (s.sch.wCycle + w) }
    else x) ++ _ } } : State) = _
  rw [hold, List.map_cons, List.map_nil, if_pos ⟨rfl, rfl, rfl⟩]
  rfl

/-- What held conflicts leave. -/
structure Conflicted (s t : State) : Prop where
  frame : t = { s with sch := t.sch }
  sch : t.sch = { s.sch with causes := t.sch.causes, arbS := t.sch.arbS, arbBusy := t.sch.arbBusy }

theorem addCauseUntil_conflicted (n src w : Nat) : Conflicted s (addCauseUntil s n src w) := by
  unfold addCauseUntil
  split <;> exact ⟨rfl, rfl⟩

theorem Conflicted.trans {u : State} (h : Conflicted s t) (h' : Conflicted t u) : Conflicted s u :=
  ⟨by rw [h'.frame, h.frame], by rw [h'.sch, h.sch]⟩

theorem addCauseUntil_hasCause {n k src w : Nat} (h : k = n ∨ hasCause s k = true) : hasCause (addCauseUntil s n src w) k = true := by
  unfold addCauseUntil
  split
  · next hany =>
    refine h.elim (fun hk => ?_) id
    obtain ⟨x, hx, hc⟩ := List.any_eq_true.1 hany
    exact List.any_eq_true.2 ⟨x, hx, by rw [hk]; exact (Bool.and_eq_true_iff.1 hc).1⟩
  · refine List.any_eq_true.2 ?_
    refine h.elim (fun hk => ⟨_, List.mem_append_right _ (List.mem_singleton.2 rfl), beq_iff_eq.2 hk.symm⟩) fun hk => ?_
    obtain ⟨x, hx, hc⟩ := List.any_eq_true.1 hk
    exact ⟨x, List.mem_append_left _ hx, hc⟩

/-- An S-cycle with conflicts is held by cause 5. -/
theorem conflictHold_leaves {l : List WAcc} {cs : List (Nat × Nat)} (h : cs ≠ []) : Conflicted s (conflictHold s l cs) ∧ hasCause (conflictHold s l cs) 5 = true := by
  have hfold (cs : List (Nat × Nat)) (u : State) (hu : Conflicted s u) (h : cs ≠ [] ∨ hasCause u 5 = true) :
      Conflicted s (cs.foldl (fun s p => addCauseUntil s 5 p.1 (s.sch.wCycle + (p.2 - 1))) u) ∧
      hasCause (cs.foldl (fun s p => addCauseUntil s 5 p.1 (s.sch.wCycle + (p.2 - 1))) u) 5 = true := by
    induction cs generalizing u with
    | nil => exact ⟨hu, h.resolve_left fun h => h rfl⟩
    | cons p cs ih => exact ih _ (hu.trans (addCauseUntil_conflicted ..)) (.inr (addCauseUntil_hasCause (.inl rfl)))
  obtain ⟨hc, h5⟩ := hfold cs s ⟨rfl, rfl⟩ (.inl h)
  unfold conflictHold
  generalize cs.foldl (fun s p => addCauseUntil s 5 p.1 (s.sch.wCycle + (p.2 - 1))) s = u at *
  exact ⟨hc.trans ⟨rfl, rfl⟩, h5⟩

/-! ### Arbitration (R259, R260, R261) -/

/-- A pool bank serves one request an S-cycle, unless it has served one. -/
theorem poolServe_count (b : Nat) (q : List PoolReq) (used : List Nat) : ((poolServe used q).filter fun y => rowBank 6 y.row == b).length =
    (q.filter fun y => rowBank 6 y.row == b).length - if b ∈ used then 0 else 1 := by
  induction q generalizing used with
  | nil => exact (Nat.zero_sub _).symm
  | cons x q ih =>
    have hkeep (L : List PoolReq) (h : rowBank 6 x.row = b) : (x :: L).filter (fun y => rowBank 6 y.row == b) = x :: L.filter fun y => rowBank 6 y.row == b :=
      List.filter_cons_of_pos (p := fun y : PoolReq => rowBank 6 y.row == b) (beq_iff_eq.2 h)
    have hskip (L : List PoolReq) (h : ¬ rowBank 6 x.row = b) : (x :: L).filter (fun y => rowBank 6 y.row == b) = L.filter fun y => rowBank 6 y.row == b :=
      List.filter_cons_of_neg (p := fun y : PoolReq => rowBank 6 y.row == b) fun he => h (beq_iff_eq.1 he)
    unfold poolServe
    dsimp only
    by_cases hb : rowBank 6 x.row = b
    · rw [hkeep q hb, hb]
      by_cases hu : b ∈ used
      · rw [if_pos (List.contains_iff_mem.2 hu), hkeep _ hb, List.length_cons, ih, if_pos hu]
        rfl
      · rw [if_neg fun h => hu (List.contains_iff_mem.1 h), ih, if_pos List.mem_cons_self, if_neg hu]
        rfl
    · rw [hskip q hb]
      split
      · rw [hskip _ hb, ih]
      · rw [ih]
        exact congrArg _ (if_congr (by rw [List.mem_cons]; exact ⟨fun h => h.resolve_left (Ne.symm hb), .inr⟩) rfl rfl)

theorem sumN_cons (x : Nat) (l : List Nat) : sumN (x :: l) = x + sumN l := by
  have h (l : List Nat) (a : Nat) : l.foldl (· + ·) a = a + sumN l := by
    induction l generalizing a with
    | nil => rfl
    | cons y l ih =>
      have e : sumN (y :: l) = l.foldl (· + ·) (0 + y) := rfl
      rw [List.foldl_cons, ih, e, ih]
      omega
  have e : sumN (x :: l) = l.foldl (· + ·) (0 + x) := rfl
  rw [e, h]
  omega

/-- A bulk port carries what fits, and nothing is lost exactly where all of it does. -/
theorem portLost_nil (n : Nat) (cs : List PortClaim) : portLost n cs = [] ↔ sumN (cs.map fun p => p.units) ≤ n := by
  induction cs generalizing n with
  | nil => exact ⟨fun _ => Nat.zero_le n, fun _ => rfl⟩
  | cons p cs ih =>
    unfold portLost
    rw [List.map_cons, sumN_cons]
    split
    · rw [ih]
      omega
    · exact ⟨fun h => absurd h (List.cons_ne_nil _ _), fun h => by omega⟩

/-- A bed stack carries the reads of one line. -/
theorem bedMissed_read (p : Nat × Nat × WAcc) (r : List (Nat × Nat × WAcc)) : bedMissed false (p :: r) = r.filter fun q => q.1 != p.1 := by
  have hfold (L : List (Nat × Nat × WAcc)) (a : Nat × List (Nat × Nat × WAcc)) :
      (L.foldl (fun (a : Nat × List (Nat × Nat × WAcc)) q => if q.1 ≠ p.1 then (a.1, a.2 ++ [q]) else if false ∧ 512 < a.1 + q.2.1 then (a.1, a.2 ++ [q]) else (a.1 + q.2.1, a.2)) a).2 =
        a.2 ++ L.filter fun q => q.1 != p.1 := by
    induction L generalizing a with
    | nil => exact (List.append_nil _).symm
    | cons q L ih =>
      rw [List.foldl_cons, ih]
      by_cases hq : q.1 = p.1
      · rw [if_neg (fun h => h hq), if_neg (fun h => Bool.false_ne_true h.1), List.filter_cons_of_neg (p := fun q : Nat × Nat × WAcc => q.1 != p.1) fun h => bne_iff_ne.1 h hq]
      · rw [if_pos hq, List.filter_cons_of_pos (by exact bne_iff_ne.2 hq), List.append_assoc]
        rfl
  have h := hfold (p :: r) (0, [])
  rw [List.filter_cons_of_neg (by simp)] at h
  unfold bedMissed
  simpa using h

/-! ### Injection room (R45, R323) -/

/-- A link that can take all of an injection buffer empties it into frames, and the wait for its room ends. -/
theorem injectionSpaceFree_leaves {b : Fin 136} (hb : b.val < 128) (hidle : Idle s (b.val / 8) (some b.val)) (hup : linkUp (s.link (b.val / 8)) = true)
    (hx : (s.link (b.val / 8)).peerXoff.getLsbD (b.val % 8) = false)
    (hfit : (s.link (b.val / 8)).replayBuf.length + cdiv (5 * (fget s.fab.inj [] b.val).length) 16 ≤ 1024) :
    ∃ t fs, exec (.injectionSpaceFree b) s = .next t ∧ fget t.fab.inj [] b.val = [] ∧ (t.link (b.val / 8)).replayBuf = (s.link (b.val / 8)).replayBuf ++ fs ∧
      fs.length = cdiv (5 * (fget s.fab.inj [] b.val).length) 16 ∧ fs.flatMap frameFlits = (fget s.fab.inj [] b.val).flatMap packetFlits ∧
      (∀ p, fget s.fab.inj [] b.val = [p] → hVcNo p = b.val % 8 → fs = [frameOf (s.link (b.val / 8)) p]) ∧
      (∀ h, h ≠ b.val → fget t.fab.inj [] h = fget s.fab.inj [] h) ∧ ∀ x ∈ t.sch.causes, x.no = 2 → x.src = b.val → x.untilW ≠ none := by
  have hkey : 8 * (b.val / 8) + b.val % 8 = b.val := Nat.div_add_mod b.val 8
  have hlt : b.val % 8 < 8 := Nat.mod_lt _ (by decide)
  obtain ⟨hw, hin, hg, hq, htx, hbufs⟩ := id hidle
  have hsend : Sending s (b.val / 8) (b.val % 8) 0 (fget s.fab.inj [] b.val) 0 := by
    refine ⟨⟨fun u hu => ?_, fun u hu => (hidle.second hu).trans (if_neg fun h => absurd h.1 (by decide)).symm, hq,
      fun h => absurd h (by decide), .inl ⟨hw, fun h => absurd h (by decide)⟩⟩,
      htx, fun h => absurd rfl h, by decide, hlt, hx⟩
    by_cases hu' : u = b.val % 8
    · rw [if_pos ⟨rfl, hu'⟩, hu', hkey]
    · rw [if_neg fun h => hu' h.2]
      exact (hbufs u hu).1 fun h => hu' (by have := Option.some.inj h; omega)
  obtain ⟨fs, hsent, hleft, hlen, hflits, hone⟩ := hsend.pump (fun _ _ => if_neg fun h => absurd h.1 (by decide)) hup hfit
  have hswitch : switched s (b.val / 8) = pump s (b.val / 8) := by
    have hin' := (congrArg (fun t : State => t.fab.injIn) hsent.frame).trans hin
    have hg' := (congrArg (fun t : State => t.fab.groups) hsent.frame).trans hg
    obtain ⟨hw', -⟩ | ⟨_, _, _, _, _, _, _, _, _, hq⟩ := hleft.alone.held
    · rw [switched, injSettle_idle hin' hg', settle_still hw']
    · exact absurd hq.symm (List.cons_ne_nil _ _)
  have hempty : fget (pump s (b.val / 8)).fab.inj [] b.val = [] := by
    have h := hleft.alone.first _ hlt
    rw [hkey, ite_self] at h
    exact h
  have hkeep (h : Nat) (hne : h ≠ b.val) : fget (pump s (b.val / 8)).fab.inj [] h = fget s.fab.inj [] h := hsent.inj h fun _ => by rw [hkey]; exact hne
  have hex : exec (.injectionSpaceFree b) s = .next (injFreed (injRoom s false b.val) (pump s (b.val / 8)) b.val) := by
    refine congrArg Host.Outcome.next ?_
    dsimp only
    rw [if_pos hb, hswitch]
  have hbuf := hsent.buf
  rw [length_flatMap_packetFlits] at hlen
  clear hsent hleft hsend hswitch
  generalize pump s (b.val / 8) = u at *
  obtain ⟨hfab, -⟩ := injFreed_keeps (s := u) (injRoom s false b.val) b.val
  have hroom : injRoom u false b.val = true := by
    refine decide_eq_true ?_
    unfold injFlits
    rw [if_neg Bool.false_ne_true, hempty]
    simp
  have hcause : ∀ x ∈ (injFreed (injRoom s false b.val) u b.val).sch.causes, x.no = 2 → x.src = b.val → x.untilW ≠ none := by
    unfold injFreed
    rw [if_pos hroom]
    exact endCause_ended
  rw [hex]
  generalize injFreed (injRoom s false b.val) u b.val = t at *
  refine ⟨t, fs, rfl, by rw [hfab]; exact hempty, ?_, hlen, hflits, fun p hp hv => ?_, fun h hne => by rw [hfab]; exact hkeep h hne, hcause⟩
  · rw [State.link, hfab]
    exact hbuf
  · rw [hp] at hone
    have hfl : [p].flatMap packetFlits = packetFlits p := by rw [List.flatMap_cons, List.flatMap_nil, List.append_nil]
    rw [hfl] at hone
    rw [hone (List.cons_ne_nil _ _) (show 5 ≤ 16 by decide), frameOf, hv]

/-! ### Control messages (R296, R299) -/

theorem holdRec_evr (he : t.evr = s.evr) (r : EvRec) : (holdRec t r).evr = (holdRec s r).evr := by
  unfold holdRec
  rw [he]
  dsimp only
  split
  · simp only [he]
  · split
    · simp only [countDrop, he]
    · simp only [countDrop, he]

/-- What a record says depends on the schedule by its S-cycle, its W-cycle and its replays alone. -/
theorem raise_evr_cycle (he : t.evr = s.evr) (hnow : t.now = s.now) (hj : t.sch.job = s.sch.job) (hs : t.sch.sCycle = s.sch.sCycle) (hw : t.sch.wCycle = s.sch.wCycle)
    (hr : t.sch.replayed = s.sch.replayed) (id n : Nat) (l : List Nat) : (raise t id n l).evr = (raise s id n l).evr := by
  have hscyc : evScyc t id = evScyc s id := by rw [evScyc, evScyc, hj, hs]
  have hrec : raise t id n l = holdRec t { sev := evSev id, scyc := evScyc s id, replay := s.sch.replayed, id := id, node := evNode id n, tick := s.now, items := l
                                           src := evSrc id n l, atW := s.sch.wCycle } := by rw [raise, hscyc, hnow, hw, hr]
  rw [hrec]
  exact holdRec_evr he _

theorem controlMessage_leaves (m : CtlMsg) : let d := max m.wcycles (ctlLeast m.src.val m.dst.val)
    ∃ t, exec (.controlMessage m) s = .next t ∧
      t = { s with evr := t.evr, sch := { s.sch with ctlMax := t.sch.ctlMax, ctlLate := t.sch.ctlLate, ctlAt := t.sch.ctlAt } } ∧
      (m.vc = 0 → ctlTaken s m d = true → t.sch.ctlMax = max s.sch.ctlMax (min d 65535) ∧
        (200 < d → t.sch.ctlLate = min (s.sch.ctlLate + 1) 0xFFFFFFFF ∧ t.evr = (raise s 0x0904 m.dst.val [m.src.val, m.dst.val]).evr) ∧
        (d ≤ 200 → t.sch.ctlLate = s.sch.ctlLate ∧ t.evr = s.evr)) ∧ (m.vc ≠ 0 ∨ ctlTaken s m d = false → t = s) := by
  intro d
  by_cases hc : m.vc.val = 0 ∧ ctlTaken s m d = true
  · have hnot (h : m.vc ≠ 0 ∨ ctlTaken s m d = false) : False := h.elim (fun h => h (Fin.ext hc.1)) fun h => Bool.false_ne_true (h.symm.trans hc.2)
    refine ⟨_, congrArg Host.Outcome.next (if_pos hc), ?_⟩
    by_cases hlate : 200 < d
    · have e := raise_evr_cycle (s := s) (t := (s.mapSch fun k => { k with ctlMax := max k.ctlMax (min d 65535), ctlAt := fset k.ctlAt 0 m.src.val (k.wCycle - d + 1) }).mapSch
        fun k => { k with ctlLate := sat32 k.ctlLate }) rfl rfl rfl rfl rfl rfl 0x0904 m.dst.val [m.src.val, m.dst.val]
      rw [if_pos hlate, raise_frame, e]
      exact ⟨rfl, fun _ _ => ⟨rfl, fun _ => ⟨rfl, rfl⟩, fun h => absurd hlate (Nat.not_lt.2 h)⟩, fun h => absurd h hnot⟩
    · rw [if_neg hlate]
      exact ⟨rfl, fun _ _ => ⟨rfl, fun h => absurd h hlate, fun _ => ⟨rfl, rfl⟩⟩, fun h => absurd h hnot⟩
  · refine ⟨s, congrArg Host.Outcome.next (if_neg hc), rfl, fun hv ht => absurd ⟨congrArg Fin.val hv, ht⟩ hc, fun _ => rfl⟩

end

/-- Settles O29. -/
theorem eddyAndControlEvents : Obligations.EddyAndControlEvents := by
  intro s
  refine ⟨fun c m hjob hst hm hno => ?_, fun d hrun hc harb hconf hf hw hr hn hb => ?_,
    ⟨by decide, fun q b => poolServe_count b q [], portLost_nil, bedMissed_read⟩, fun hle => ?_, fun hjob hst hcause hover => ?_, fun hrun hox => ?_, fun b hb => ?_,
    controlMessage_leaves⟩
  · exact congrArg Host.Outcome.next ((if_pos ⟨hjob, hst, hm⟩).trans (bankConflict_fresh hno (m - 1)))
  · intro t
    have hcs : conflicts (sWork s) (wideAccess (sWork s) (sWork s).sch.sCycle) ≠ [] := hconf
    have ht : t = eddyTick d (conflictHold s (wideAccess (sWork s) (sWork s).sch.sCycle) (conflicts (sWork s) (wideAccess (sWork s) (sWork s).sch.sCycle))) := by
      have hno : (sWork s).sch.causes.any (fun x => decide (x.no ≤ 4)) = false := List.any_eq_false.2 fun x hx h => absurd (of_decide_eq_true h) (Nat.not_le.2 (hc x hx))
      have hempty : (conflicts (sWork s) (wideAccess (sWork s) (sWork s).sch.sCycle)).isEmpty = false := List.isEmpty_eq_false_iff.2 hcs
      unfold t runTick
      dsimp only
      rw [hno, if_neg Bool.false_ne_true, if_pos hrun, if_neg harb, hempty, if_neg Bool.false_ne_true]
    obtain ⟨⟨hframe, hsch⟩, h5⟩ := conflictHold_leaves (s := s) (l := wideAccess (sWork s) (sWork s).sch.sCycle) hcs
    rw [ht]
    clear ht t
    generalize conflictHold s _ _ = u at *
    have hn' := (congrArg (fun t : State => t.fab.narrow) hframe).trans hn
    have hb' := (congrArg (fun t : State => t.beds.waiting) hframe).trans hb
    have hf' := (congrArg (fun t : State => t.pwr.newFreq) hframe).trans hf
    have hcores := congrArg State.cores hframe
    have hw' := (congrArg Sched.weirPhase hsch).trans hw
    have hr' := (congrArg Sched.replay hsch).trans hr
    have e1 := congrArg Sched.sCycle hsch
    have e2 := congrArg (fun k : Sched => k.wCycle + 1) hsch
    have e3 := congrArg (fun k : Sched => k.eddyW + 1) hsch
    have e4 := congrArg (fun k : Sched => fget k.perCause 0 5) hsch
    have hidle := narrowEddy_idle (s := u) hn'
    obtain ⟨h1, h2, h3, h4, hc⟩ := eddyTick_counts (d := d) (s := u) hf' (by rw [hidle]; exact hb') (by rw [hidle]) hw' hr'
    have h4 := h4 5
    rw [h5, if_pos rfl] at h4
    rw [hidle] at hc
    exact ⟨h1.trans e1, h2.trans e2, h3.trans e3, h4.trans (congrArg (· + 1) e4), hc.trans hcores⟩
  · refine congrArg Host.Outcome.next (if_neg ?_)
    rw [eddyOver, decide_eq_true_iff]
    exact Nat.not_lt.2 hle
  · obtain ⟨x, hx, hno⟩ := hcause
    have hlim : eddyLimited s = true := List.any_eq_true.2 ⟨x, hx, by rw [Bool.not_eq_true', ← Bool.not_eq_true, List.contains_iff_mem]; exact hno⟩
    have ho : eddyOver s = true := decide_eq_true hover
    obtain ⟨h1, h2⟩ := fatal_state (s := s) 0x0202 0x14 [s.sch.stepNo, sumN ((uniq (s.sch.causes.map (·.no))).map fun n => 2 ^ n)] (stagesNow_iff.1 hst)
    exact ⟨_, congrArg Host.Outcome.next ((if_pos ho).trans (if_pos ⟨hst, hjob, hlim⟩)), h1, h2, fatal_frame ..⟩
  · obtain ⟨c, hc, hring, hlim⟩ := hox
    have hmem : c ∈ oxbowAt s := List.mem_filter.2 ⟨List.mem_filter.2 ⟨List.mem_range.2 hc, hring⟩, decide_eq_true hlim⟩
    have hne : (!(oxbowAt s).isEmpty) = true := by
      rw [Bool.not_eq_true', List.isEmpty_eq_false_iff]
      exact List.ne_nil_of_mem hmem
    have hst : s.dev.state = .running ∨ s.dev.state = .draining := by
      simp only [sRun, Bool.and_eq_true, Bool.or_eq_true, beq_iff_eq] at hrun
      exact hrun.1.2
    obtain ⟨h1, h2⟩ := fatal_state (s := s) 0x0308 0x10 (coreSet (oxbowAt s) ++ [oxbowClusters s]) hst
    exact ⟨_, congrArg Host.Outcome.next (if_pos ⟨hrun, hne⟩), h1, h2, fatal_frame ..⟩
  · intro l ps hidle hup hx hfit
    exact injectionSpaceFree_leaves hb hidle hup hx hfit

end Sys2Proof.Machine
end

section
/-! PROOFS. A step on an empty queue (O59): waiting requests, time, and the W-cycles of an Eddy. -/
namespace Sys2Proof.Machine

section
variable {s t u : State} {p : Path} {n : NarrowWr} {d : Nat}

/-! ### Waiting requests (R427) -/

theorem nextPath_off (h : dictHart s = false) : nextPath s = none := by
  unfold nextPath
  refine List.find?_eq_none.2 fun p _ hp => ?_
  rw [h, Bool.and_false, Bool.false_and] at hp
  exact Bool.false_ne_true hp

theorem nextPath_empty (h : ∀ p, waitsOn s p = []) : nextPath s = none := by
  unfold nextPath
  refine List.find?_eq_none.2 fun p _ hp => ?_
  rw [h p, List.isEmpty_nil, Bool.not_true, Bool.and_false] at hp
  exact Bool.false_ne_true hp

theorem find_path {f : Path → Bool} {last : Nat} (hp : f p = true) (h : (∀ p', p' ≠ p → f p' = false) ∨ last = 1 - pathNo p) :
    (if last = 0 then [Path.segment, .tributary] else [.tributary, .segment]).find? f = some p := by
  have hno {p' : Path} (h : f p' = false) : ¬ f p' = true := fun ht => Bool.false_ne_true (h.symm.trans ht)
  cases p with
  | tributary =>
    split
    · next h0 => rw [List.find?_cons_of_neg (hno ((h.resolve_right (by rw [h0]; decide)) .segment nofun)), List.find?_cons_of_pos hp]
    · rw [List.find?_cons_of_pos hp]
  | segment =>
    split
    · rw [List.find?_cons_of_pos hp]
    · next h0 => rw [List.find?_cons_of_neg (hno ((h.resolve_right fun h => h0 (by rw [h]; rfl)) .tributary nofun)), List.find?_cons_of_pos hp]

/-- The path whose turn it is, or the only one on which a request waits, is served. -/
theorem nextPath_some (hu : pathUp s p = true) (hd : dictHart s = true) (hw : waitsOn s p ≠ [])
    (h : (∀ p', p' ≠ p → waitsOn s p' = []) ∨ s.mgm.lastPath = 1 - pathNo p) : nextPath s = some p := by
  refine find_path (f := fun p => pathUp s p && dictHart s && !(waitsOn s p).isEmpty) ?_ (h.imp_left fun h p' hp => ?_)
  · rw [hu, hd, List.isEmpty_eq_false_iff.2 hw]
    rfl
  · rw [h p' hp, List.isEmpty_nil, Bool.not_true, Bool.and_false]

/-! ### Time -/

theorem serveRequests_none (h : s.wts.reqs = []) : serveRequests s = s := by
  unfold serveRequests
  rw [h]

/-- What time that passes leaves where no request of the load service waits. -/
theorem timeTick_keeps (h : s.wts.reqs = []) : ∃ f : Fabric, timeTick s = { s with gau := gaugeTime (tickLen s) s.gau, fab := f } ∧ f.narrow = s.fab.narrow ∧ f.halves = s.fab.halves := by
  unfold timeTick
  dsimp only
  split
  · exact ⟨_, rfl, rfl, rfl⟩
  · rw [serveRequests_none (by split <;> exact h)]
    split
    · exact ⟨_, rfl, rfl, rfl⟩
    · exact ⟨_, rfl, rfl, rfl⟩

theorem tick_off (hoff : s.dev.state = .off) (hrun : sRun s = false) (hjob : s.sch.job = false) :
    tick s = { s with gau := gaugeTime (tickLen s) s.gau, fab := { s.fab with frac := (tickNs s.pwr.freq s.fab.frac).2 } } := by
  have e : timeTick s = { s with gau := gaugeTime (tickLen s) s.gau, fab := { s.fab with frac := (tickNs s.pwr.freq s.fab.frac).2 } } := by
    unfold timeTick
    dsimp only
    rw [if_pos hoff]
  have hpass : eddyPasses { s with gau := gaugeTime (tickLen s) s.gau, fab := { s.fab with frac := (tickNs s.pwr.freq s.fab.frac).2 } } = false := by
    unfold eddyPasses
    dsimp only
    rw [hjob]
    rfl
  unfold tick
  dsimp only
  rw [e]
  refine (if_neg fun h => Bool.false_ne_true (hrun.symm.trans h)).trans ((if_neg fun h => Bool.false_ne_true (hpass.symm.trans h)).trans (if_pos hoff))

theorem gaugeTime_on (h : s.gau.on = true) (d : Nat) :
    1000000 * (gaugeTime d s.gau).time + (gaugeTime d s.gau).frac = 1000000 * s.gau.time + s.gau.frac + d := by
  unfold gaugeTime
  rw [if_pos h]
  show 1000000 * (s.gau.time + (s.gau.frac + d) / 1000000) + (s.gau.frac + d) % 1000000 = _
  omega

/-! ### Router writes in an Eddy (R258, R325) -/

/-- What router writes change. -/
def NarrowKeeps (s t : State) : Prop := t = { s with cores := t.cores, fab := t.fab, evr := t.evr, free := t.free }

theorem NarrowKeeps.trans (h : NarrowKeeps s t) (h' : NarrowKeeps t u) : NarrowKeeps s u := by
  unfold NarrowKeeps at *
  rw [h', h]

theorem spadWrite_narrowKeeps (c a : Nat) (bs : List Byte) : NarrowKeeps s (spadWrite s c a bs).1 := by
  unfold NarrowKeeps
  rw [spadWrite_frame]

theorem narrowServe_keeps (free : Nat → Bool) (l : List WAcc) (n : NarrowWr) (o : Nat) (used : List (Nat × Nat)) : NarrowKeeps s (narrowServe free l n o s used).1 := by
  have hwrite (b : Bool) (v w : List (Nat × Nat)) (off : Bool) :
      NarrowKeeps s (if b = true then ((narrowRow s l n o).1, v, true, off) else (s, w, false, false)).1 := by
    split
    · exact spadWrite_narrowKeeps ..
    · exact rfl
  exact hwrite ..

theorem narrowOne_keeps (free : Nat → Bool) (l : List WAcc) (a : NarrowAcc) (n : NarrowWr) : NarrowKeeps a.st (narrowOne free l a n).st := by
  have h0 : NarrowKeeps a.st (if n.lo then (a.st, a.used, true, false) else narrowServe free l n 0 a.st a.used).1 := by
    split
    · exact rfl
    · exact narrowServe_keeps ..
  unfold narrowOne
  generalize (if n.lo then (a.st, a.used, true, false) else narrowServe free l n 0 a.st a.used) = x at *
  obtain ⟨x, u, ok0, off0⟩ := x
  dsimp only at h0 ⊢
  have h1 : NarrowKeeps a.st (if n.hi then (x, u, true, false) else narrowServe free l n 32 x u).1 := by
    split
    · exact h0
    · exact h0.trans (narrowServe_keeps ..)
  generalize (if n.hi then (x, u, true, false) else narrowServe free l n 32 x u) = y at *
  obtain ⟨y, v, ok1, off1⟩ := y
  dsimp only at h1 ⊢
  split
  · exact h1.trans rfl
  · split
    · exact h1.trans rfl
    · exact h1

theorem narrowClash_keeps (l : List WAcc) (r : List (Nat × Nat)) : NarrowKeeps s (narrowClash l s r) := by
  induction r generalizing s with
  | nil => exact rfl
  | cons p r ih =>
    unfold narrowClash
    refine NarrowKeeps.trans ?_ ih
    dsimp only
    split
    · refine List.foldlRecOn (motive := NarrowKeeps s) _ _ rfl fun t h i _ => h.trans (spadWrite_narrowKeeps ..)
    · exact rfl

theorem narrowEddy_keeps : NarrowKeeps s (narrowEddy s) := by
  unfold narrowEddy narrowTurn
  split
  · exact rfl
  · refine NarrowKeeps.trans ?_ (narrowClash_keeps ..)
    have h := List.foldlRecOn (motive := fun a : NarrowAcc => NarrowKeeps s a.st) s.fab.narrow (narrowOne (fun k => decide (fget s.sch.arbBusy 0 k ≤ s.sch.wCycle)) [])
      (b := ⟨s, [], []⟩) rfl fun a h n _ => h.trans (narrowOne_keeps ..)
    exact h.trans rfl

theorem segRangeOn_part {mask : BitVec 8} {size a k o m : Nat} (h : segRangeOn mask size a k = true) (hm : o + m ≤ k) (h0 : 0 < m) : segRangeOn mask size (a + o) m = true := by
  unfold segRangeOn at *
  rw [List.all_eq_true] at *
  intro i hi
  have h := h i hi
  simp only [Bool.or_eq_true, decide_eq_true_eq, beq_iff_eq] at h ⊢
  rcases h with ((h | h) | h) | h
  · exact .inl (.inl (.inl h))
  · exact .inl (.inl (.inr (by omega)))
  · exact .inl (.inr (by omega))
  · omega

/-- The bytes of a router write from byte `o` on. -/
def narrowBytes (n : NarrowWr) (o : Nat) : List Byte := (List.range 32).map fun i => byteAt n.data (o + i)

theorem length_narrowBytes (n : NarrowWr) (o : Nat) : (narrowBytes n o).length = 32 := by rw [narrowBytes, List.length_map, List.length_range]

theorem narrowBytes_getD (n : NarrowWr) (o : Nat) {i : Nat} (h : i < 32) : (narrowBytes n o).getD i 0#8 = n.data.getD (o + i) 0#8 := by
  rw [narrowBytes, List.getD_eq_getElem _ _ (by rw [List.length_map, List.length_range]; exact h), List.getElem_map, List.getElem_range]
  rfl

/-- A row in a bank that is free and that no other row has taken is written. -/
theorem narrowServe_free {free : Nat → Bool} {used : List (Nat × Nat)} {o : Nat} (hu : used.find? (fun p => p.1 == 64 * n.core + rowBank (bankBits n.core) ((n.addr + o) / 32)) = none)
    (hf : free (64 * n.core + rowBank (bankBits n.core) ((n.addr + o) / 32)) = true) (hon : segRangeOn (segTakes s n.core) (spadBytes n.core) (n.addr + o) 32 = true) :
    narrowServe free [] n o s used = ((spadWrite s n.core (n.addr + o) (narrowBytes n o)).1,
      (64 * n.core + rowBank (bankBits n.core) ((n.addr + o) / 32), (n.addr + o) / 32) :: used, true, false) := by
  have hrow : narrowRow s [] n o = ((spadWrite s n.core (n.addr + o) (narrowBytes n o)).1, false) := by
    have e : narrowRow s [] n o = spadWrite s n.core (n.addr + o) (narrowBytes n o) := rfl
    rw [e, spadWrite_on (by rw [length_narrowBytes]; exact hon)]
  unfold narrowServe
  dsimp only
  rw [hu]
  dsimp only
  rw [hf, hrow]
  rfl

theorem segTakes_spadWrite {c d a : Nat} {bs : List Byte} (hon : segRangeOn (segTakes s c) (spadBytes c) a bs.length = true) : segTakes (spadWrite s c a bs).1 d = segTakes s d := by
  rw [spadWrite_on hon]
  unfold segTakes
  dsimp only
  rw [State.mapCore_core]
  split
  · next h => rw [h]; rfl
  · rfl

theorem spadWrite_lands {c a : Nat} {bs : List Byte} (hon : segRangeOn (segTakes s c) (spadBytes c) a bs.length = true) :
    Stores s (spadWrite s c a bs).1 c a bs ∧ OtherCores s (spadWrite s c a bs).1 c ∧ (spadWrite s c a bs).1.fab = s.fab := by
  refine ⟨(spadWrite_puts c a hon).bytes, ?_, ?_⟩
  · rw [spadWrite_on hon]
    exact fun k hk => State.mapCore_core_ne _ _ _ _ hk
  · rw [spadWrite_frame]

/-- A waiting write whose two rows are in free banks is written and counted (R258, R325). -/
theorem narrowEddy_one (hn : s.fab.narrow = [n]) (hlo : n.lo = false) (hhi : n.hi = false) (harb : s.sch.arbBusy = []) (hlen : n.data.length = 64)
    (hbank : rowBank (bankBits n.core) (n.addr / 32) ≠ rowBank (bankBits n.core) ((n.addr + 32) / 32))
    (hon : segRangeOn (segTakes s n.core) (spadBytes n.core) n.addr 64 = true) :
    Stores s (narrowEddy s) n.core n.addr n.data ∧ OtherCores s (narrowEddy s) n.core ∧ (narrowEddy s).fab.narrow = [] ∧
      fget (narrowEddy s).fab.halves 0 n.key = min 65535 (fget s.fab.halves 0 n.key + 1) := by
  have hon0 : segRangeOn (segTakes s n.core) (spadBytes n.core) (n.addr + 0) (narrowBytes n 0).length = true := by
    rw [length_narrowBytes]
    exact segRangeOn_part hon (by decide) (by decide)
  obtain ⟨hst0, hoth0, hfab0⟩ := spadWrite_lands hon0
  have hseg := segTakes_spadWrite (d := n.core) hon0
  have hserve0 := narrowServe_free (free := fun k => decide (fget s.sch.arbBusy 0 k ≤ s.sch.wCycle)) (used := []) (s := s) (n := n) (o := 0) rfl
    (decide_eq_true (by rw [harb]; exact Nat.zero_le _)) (by rw [length_narrowBytes] at hon0; exact hon0)
  generalize (spadWrite s n.core (n.addr + 0) (narrowBytes n 0)).1 = s1 at *
  have hon1 : segRangeOn (segTakes s1 n.core) (spadBytes n.core) (n.addr + 32) (narrowBytes n 32).length = true := by
    rw [length_narrowBytes, hseg]
    exact segRangeOn_part hon (by decide) (by decide)
  obtain ⟨hst1, hoth1, hfab1⟩ := spadWrite_lands hon1
  have hserve1 := narrowServe_free (free := fun k => decide (fget s.sch.arbBusy 0 k ≤ s.sch.wCycle)) (s := s1) (n := n) (o := 32)
    (used := [(64 * n.core + rowBank (bankBits n.core) ((n.addr + 0) / 32), (n.addr + 0) / 32)])
    (by rw [List.find?_cons_of_neg (by rw [beq_iff_eq]; exact fun h => hbank (Nat.add_left_cancel h))]; rfl)
    (decide_eq_true (by rw [harb]; exact Nat.zero_le _)) (by rw [length_narrowBytes] at hon1; exact hon1)
  generalize (spadWrite s1 n.core (n.addr + 32) (narrowBytes n 32)).1 = s2 at *
  obtain ⟨v, hone⟩ : ∃ v, narrowOne (fun k => decide (fget s.sch.arbBusy 0 k ≤ s.sch.wCycle)) [] ⟨s, [], []⟩ n = { st := halfCountUp s2 n.key n.tag n.data, used := v, left := [] } := by
    unfold narrowOne
    rw [hlo, hhi]
    dsimp only
    rw [if_neg Bool.false_ne_true, hserve0]
    dsimp only
    rw [if_neg Bool.false_ne_true, hserve1]
    exact ⟨_, rfl⟩
  have hserved : rowsServed [n] [] = [(n.core, n.addr / 32), (n.core, n.addr / 32 + 1)] := by
    unfold rowsServed narrowRows
    rw [List.flatMap_cons, List.flatMap_nil, hlo, hhi]
    rfl
  have e : narrowEddy s = (halfCountUp s2 n.key n.tag n.data).mapFab fun f => { f with narrow := [] } := by
    unfold narrowEddy narrowTurn
    rw [hn, if_neg (by exact Bool.false_ne_true), List.foldl_cons, List.foldl_nil, hone]
    dsimp only
    rw [hserved]
    have hne : ([(n.core, n.addr / 32 + 1)] : List (Nat × Nat)).contains (n.core, n.addr / 32) = false := by
      rw [← Bool.not_eq_true, List.contains_iff_mem, List.mem_singleton]
      exact fun h => absurd (Prod.ext_iff.1 h).2 (by dsimp only; omega)
    unfold narrowClash
    dsimp only
    rw [hne, if_neg Bool.false_ne_true]
    unfold narrowClash
    dsimp only
    rw [if_neg (by exact Bool.false_ne_true)]
    rfl
  rw [e]
  refine ⟨fun i => ?_, fun k hk => (hoth1 k hk).trans (hoth0 k hk), rfl, ?_⟩
  · have h1 := hst1 i
    have h0 := hst0 i
    rw [length_narrowBytes] at h0 h1
    show mget (s2.core n.core).spad i = _
    rw [h1, hlen]
    by_cases hi : n.addr + 32 ≤ i ∧ i < n.addr + 32 + 32
    · rw [if_pos hi, if_pos (by omega), narrowBytes_getD n 32 (by omega)]
      exact congrArg (fun j => n.data.getD j 0#8) (by omega)
    · rw [if_neg hi, h0]
      by_cases hj : n.addr + 0 ≤ i ∧ i < n.addr + 0 + 32
      · rw [if_pos hj, if_pos (by omega), narrowBytes_getD n 0 (by omega)]
        exact congrArg (fun j => n.data.getD j 0#8) (by omega)
      · rw [if_neg hj, if_neg (by omega)]
  · show fget (fset s2.fab.halves 0 n.key (min 65535 (fget s2.fab.halves 0 n.key + 1))) 0 n.key = _
    rw [fget_fset_same, hfab1, hfab0]

/-! ### A W-cycle of an Eddy that lasts (R44, R47) -/

/-- Where every cause has its end behind the next W-cycle, none changes as it counts. -/
theorem recvReady_settled (h : ∀ c ∈ s.sch.causes, c.untilW ≠ none) : recvReady s = s := by
  have e : s.sch.causes.map (recvReady.ready s) = s.sch.causes := by
    refine (List.map_congr_left fun x hx => ?_).trans (List.map_id _)
    unfold recvReady.ready
    split
    · exact if_neg fun hc => h x hx hc.2.1
    · rfl
  show ({ s with sch := { s.sch with causes := s.sch.causes.map (recvReady.ready s) } } : State) = s
  rw [e]

theorem eddyClear_lasting (hne : s.sch.causes ≠ []) (h : ∀ c ∈ s.sch.causes, ∃ w, c.untilW = some w ∧ s.sch.wCycle < w) : eddyClear s = s := by
  have e : (eddyClear s).sch.causes = s.sch.causes := by
    refine List.filter_eq_self.2 fun c hc => ?_
    obtain ⟨w, hw, hlt⟩ := h c hc
    rw [hw]
    exact decide_eq_true hlt
  have hns : (eddyClear s).sch.eddyNs = if (eddyClear s).sch.causes.isEmpty then 0 else s.sch.eddyNs := rfl
  have hframe : eddyClear s = { s with sch := { s.sch with causes := (eddyClear s).sch.causes, eddyNs := (eddyClear s).sch.eddyNs } } := rfl
  rw [e, List.isEmpty_eq_false_iff.2 hne, if_neg Bool.false_ne_true] at hns
  rw [hframe, e, hns]

theorem sRun_eddy (h : s.sch.causes ≠ []) : sRun s = false := by
  unfold sRun inEddy
  rw [List.isEmpty_eq_false_iff.2 h]
  simp

/-- An Eddy that lasts longer changes nothing at the end of its W-cycle. -/
theorem eddyEnd_lasting (hne : s.sch.causes ≠ []) (h : ∀ c ∈ s.sch.causes, ∃ w, c.untilW = some w ∧ s.sch.wCycle < w) (ho : eddyOver s = false)
    (hw : s.sch.weirPhase = 0) (hr : s.sch.replay = none) : eddyEnd s = s := by
  unfold eddyEnd
  rw [ho, if_neg Bool.false_ne_true, eddyClear_lasting hne h, weirResume_idle hw, replayTimer_none hr]
  exact if_neg fun hc => Bool.false_ne_true ((sRun_eddy hne).symm.trans hc.1)

theorem eddyCount_over (hns : s.sch.eddyNs = 0) (hd : d ≤ s.sch.eddyLimit * 1000000) : eddyOver (eddyCount d s) = false := by
  refine decide_eq_false (Nat.not_lt.2 ?_)
  show (if eddyCounts s then s.sch.eddyNs + d else s.sch.eddyNs) ≤ s.sch.eddyLimit * 1000000
  split <;> omega

/-- A W-cycle of an Eddy whose causes all last (R44, R47). -/
theorem eddyTick_lasting (hf : s.pwr.newFreq = none) (hb : s.beds.waiting = []) (hw : s.sch.weirPhase = 0) (hr : s.sch.replay = none) (hns : s.sch.eddyNs = 0)
    (hd : d ≤ s.sch.eddyLimit * 1000000) (hne : s.sch.causes ≠ []) (h : ∀ c ∈ s.sch.causes, ∃ w, c.untilW = some w ∧ s.sch.wCycle + 1 < w) :
    eddyTick d s = eddyCount d (narrowEddy s) := by
  have hk : NarrowKeeps s (narrowEddy s) := narrowEddy_keeps
  have hbeds := congrArg (fun t : State => t.beds.waiting) hk
  have hsch := congrArg State.sch hk
  have hsch : (narrowEddy s).sch = s.sch := hsch
  rw [eddyTick_eq hf (hbeds.trans hb)]
  generalize narrowEddy s = u at *
  rw [← hsch] at hw hr hns hd hne h
  rw [recvReady_settled fun c hc => by
    obtain ⟨w, hw, -⟩ := h c hc
    rw [hw]
    exact Option.some_ne_none w]
  exact eddyEnd_lasting (s := eddyCount d u) hne h (eddyCount_over hns hd) hw hr

theorem eddyPasses_of (hjob : s.sch.job = true) (hst : s.dev.state = .running) (hne : s.sch.causes ≠ []) : eddyPasses s = true := by
  unfold eddyPasses inEddy
  rw [hjob, hst, List.isEmpty_eq_false_iff.2 hne]
  rfl

/-- What a W-cycle of an Eddy that lasts leaves. -/
theorem tick_eddy {f : Fabric} (hjob : s.sch.job = true) (hst : s.dev.state = .running) (hb : s.beds.waiting = []) (hr : s.sch.replay = none) (hf : s.pwr.newFreq = none)
    (hw : s.sch.weirPhase = 0) (hns : s.sch.eddyNs = 0) (hd : tickLen s ≤ s.sch.eddyLimit * 1000000) (hne : s.sch.causes ≠ [])
    (h : ∀ c ∈ s.sch.causes, ∃ w, c.untilW = some w ∧ s.sch.wCycle + 1 < w) (htime : timeTick s = { s with gau := gaugeTime (tickLen s) s.gau, fab := f })
    (hfn : f.narrow = s.fab.narrow) (hfh : f.halves = s.fab.halves) :
    (tick s).sch.wCycle = s.sch.wCycle + 1 ∧ (tick s).sch.eddyW = s.sch.eddyW + 1 ∧ (tick s).sch.sCycle = s.sch.sCycle ∧ (tick s).sch.causes = s.sch.causes ∧
      (s.fab.narrow = [] → (tick s).cores = s.cores) ∧
      (∀ n, s.fab.narrow = [n] → n.lo = false → n.hi = false → s.sch.arbBusy = [] → n.data.length = 64 →
        rowBank (bankBits n.core) (n.addr / 32) ≠ rowBank (bankBits n.core) ((n.addr + 32) / 32) → segRangeOn (segTakes s n.core) (spadBytes n.core) n.addr 64 = true →
        Stores s (tick s) n.core n.addr n.data ∧ OtherCores s (tick s) n.core ∧ (tick s).fab.narrow = [] ∧
          fget (tick s).fab.halves 0 n.key = min 65535 (fget s.fab.halves 0 n.key + 1)) ∧
      (∀ n, fget (tick s).sch.perCause 0 n = fget s.sch.perCause 0 n + if hasCause s n then 1 else 0) := by
  have htick : tick s = eddyCount (tickLen s) (narrowEddy { s with gau := gaugeTime (tickLen s) s.gau, fab := f }) := by
    unfold tick
    dsimp only
    rw [htime, if_neg (fun h => Bool.false_ne_true ((sRun_eddy (s := { s with gau := gaugeTime (tickLen s) s.gau, fab := f }) hne).symm.trans h)),
      if_pos (eddyPasses_of (s := { s with gau := gaugeTime (tickLen s) s.gau, fab := f }) hjob hst hne)]
    exact eddyTick_lasting (s := { s with gau := gaugeTime (tickLen s) s.gau, fab := f }) hf hb hw hr hns hd hne h
  have hk : NarrowKeeps { s with gau := gaugeTime (tickLen s) s.gau, fab := f } (narrowEddy { s with gau := gaugeTime (tickLen s) s.gau, fab := f }) := narrowEddy_keeps
  have hone (n : NarrowWr) := narrowEddy_one (s := { s with gau := gaugeTime (tickLen s) s.gau, fab := f }) (n := n)
  have hidle := narrowEddy_idle (s := { s with gau := gaugeTime (tickLen s) s.gau, fab := f })
  have hsch := congrArg State.sch hk
  rw [htick]
  generalize narrowEddy { s with gau := gaugeTime (tickLen s) s.gau, fab := f } = u at *
  have hsch : u.sch = s.sch := hsch
  have hhas (n : Nat) : hasCause u n = hasCause s n := by rw [hasCause, hsch]; rfl
  have e1 := congrArg (fun k : Sched => k.wCycle + 1) hsch
  have e2 := congrArg (fun k : Sched => k.eddyW + 1) hsch
  have e3 := congrArg Sched.sCycle hsch
  have e4 := congrArg Sched.causes hsch
  refine ⟨e1, e2, e3, e4, fun hn => ?_, fun n hn hlo hhi harb hlen hbank hon => ?_, fun n => ?_⟩
  · have hcores := congrArg State.cores (hidle (hfn.trans hn))
    exact hcores
  · obtain ⟨h1, h2, h3, h4⟩ := hone n (hfn.trans hn) hlo hhi harb hlen hbank hon
    exact ⟨h1, h2, h3, h4.trans (congrArg (fun m => min 65535 (fget m 0 n.key + 1)) hfh)⟩
  · rw [eddyCount_perCause, hhas n, hsch]

/-- Without a job a W-cycle with nothing waiting changes neither the schedule nor the cores. -/
theorem tick_ready {f : Fabric} (hjob : s.sch.job = false) (hst : s.dev.state = .ready) (hb : s.beds.waiting = [])
    (htime : timeTick s = { s with gau := gaugeTime (tickLen s) s.gau, fab := f }) (hfn : f.narrow = []) :
    tick s = { s with gau := gaugeTime (tickLen s) s.gau, fab := f } := by
  have hrun : sRun { s with gau := gaugeTime (tickLen s) s.gau, fab := f } = false := by
    unfold sRun
    rw [hjob]
    rfl
  have hpass : eddyPasses { s with gau := gaugeTime (tickLen s) s.gau, fab := f } = false := by
    unfold eddyPasses
    rw [hjob]
    rfl
  have hturn : narrowTurn (fun _ => true) [] { s with gau := gaugeTime (tickLen s) s.gau, fab := f } = { s with gau := gaugeTime (tickLen s) s.gau, fab := f } := by
    unfold narrowTurn
    rw [hfn]
    rfl
  unfold tick
  dsimp only
  rw [htime]
  refine (if_neg fun h => Bool.false_ne_true (hrun.symm.trans h)).trans ((if_neg fun h => Bool.false_ne_true (hpass.symm.trans h)).trans ((if_neg ?_).trans ?_))
  · rw [hst]
    exact nofun
  · rw [hturn]
    exact outsideTurn_idle hb

end

/-- Settles O59. -/
theorem idleStepIsOneWCycle : Obligations.IdleStepIsOneWCycle := by
  intro s hpend
  refine ⟨fun p i rest t hnext hwait hex => ?_, fun p hu hd hw => ⟨fun h => nextPath_some hu hd hw (.inl h), fun h => nextPath_some hu hd hw (.inr h)⟩,
    nextPath_off, nextPath_empty, fun hnone => ?_⟩
  · unfold step
    rw [hpend]
    dsimp only
    rw [hnext]
    dsimp only
    unfold serveWaiting
    rw [hwait]
    dsimp only
    have e : (setWaits s p []).mapMgm (fun m => { m with lastPath := pathNo p }) = setWaits { s with mgm := { s.mgm with lastPath := pathNo p } } p [] := rfl
    rw [e, hex]
  · have hstep : step s = .next (tick s) := by
      unfold step
      rw [hpend]
      dsimp only
      rw [hnone]
    intro d
    rw [hstep]
    refine ⟨fun hoff hrun hjob => ⟨_, rfl, ?_⟩, fun hjob hst hreqs hbeds hrep hfreq hphase hns hd hne hlast => ⟨_, rfl, ?_⟩, fun hjob hst hreqs hbeds hnarrow => ⟨_, rfl, ?_⟩⟩
    · rw [tick_off hoff hrun hjob]
      refine ⟨rfl, fun hon => gaugeTime_on hon _, fun hon => ?_⟩
      exact if_neg fun h => Bool.false_ne_true (hon.symm.trans h)
    · obtain ⟨f, htime, hfn, hfh⟩ := timeTick_keeps hreqs
      exact tick_eddy hjob hst hbeds hrep hfreq hphase hns hd hne hlast htime hfn hfh
    · obtain ⟨f, htime, hfn, -⟩ := timeTick_keeps hreqs
      rw [tick_ready hjob hst hbeds htime (hfn.trans hnarrow)]
      exact ⟨rfl, rfl⟩

end Sys2Proof.Machine
end

section
/-! PROOFS. Requests on the dictionary's paths and their answers (R425, R427, R429, R430). -/
namespace Sys2Proof.Machine

section
variable {s t u : State} {p : Path} {h : Pdu} {ab typ n : Nat} {r : ORow} {a : Resp} {bs data : List Byte} {lenOk : Bool} {q : Instr}

/-! ### Answers -/

/-- A response carries the type, the transaction and the object of its request (R425). -/
def answerTo (h : Pdu) (r : Resp) : Resp :=
  { r with typ := (h.typ.toNat + 0x80) % 65536, txn := h.txn.toNat, index := h.index.toNat, sub := h.sub.toNat }

theorem stamp_grown (hr : t.mgm.resp = s.mgm.resp ++ [a]) : stamp s h t = { t with mgm := { t.mgm with resp := s.mgm.resp ++ [answerTo h a] } } := by
  have hlt : s.mgm.resp.length < t.mgm.resp.length := by simp [hr]
  unfold stamp
  rw [if_pos hlt]
  simp [State.mapMgm, hr, answerTo]

/-- The last answer is on path `p` to the request `h`. -/
def Answers (p : Path) (h : Pdu) (t : State) (typ ab : Nat) (data : List Byte) : Prop := t.mgm.resp.getLast? = some
  { path := p, typ := typ, txn := h.txn.toNat, index := h.index.toNat, sub := h.sub.toNat, abort := ab, data := data }

/-- The request `h` is refused, and nothing else has changed. -/
def Refuses (p : Path) (h : Pdu) (s t : State) (ab : Nat) : Prop := Answers p h t ((h.typ.toNat + 0x80) % 65536) ab [] ∧
  t = { s with evr := (raise s 0x0D02 0x10 [h.index.toNat * 256 + h.sub.toNat, ab]).evr, mgm := { s.mgm with
    resp := t.mgm.resp, refusals := min (s.mgm.refusals + 1) 0xFFFFFFFF, lastAbort := ab, lastRef := h.index.toNat * 256 + h.sub.toNat } }

theorem stamp_refuse (p : Path) (h : Pdu) (s : State) (ab : Nat) : Refuses p h s (stamp s h (refuse s p (pduObj h) ab)) ab := by
  rw [refuse_eq, stamp_grown rfl]
  exact ⟨by simp [Answers, answerTo], rfl⟩

theorem stamp_respond (p : Path) (h : Pdu) (s : State) (data : List Byte) :
    Answers p h (stamp s h (respond s { path := p, data := data })) ((h.typ.toNat + 0x80) % 65536) 0 data ∧
    stamp s h (respond s { path := p, data := data }) =
      { s with mgm := { s.mgm with resp := (stamp s h (respond s { path := p, data := data })).mgm.resp } } := by
  rw [stamp_grown (t := respond s { path := p, data := data }) rfl]
  exact ⟨by simp [Answers, answerTo], rfl⟩

theorem stamp_okResp (hu : u.mgm.resp = s.mgm.resp) (o : Nat) :
    Answers p h (stamp s h (okResp u p o)) ((h.typ.toNat + 0x80) % 65536) 0 [] ∧
    stamp s h (okResp u p o) = { u with mgm := { u.mgm with resp := (stamp s h (okResp u p o)).mgm.resp } } := by
  have hr : (okResp u p o).mgm.resp = s.mgm.resp ++ [{ path := p, typ := 0x382, index := o / 256, sub := o % 256 }] := by
    rw [← hu]
    rfl
  rw [stamp_grown hr]
  exact ⟨by simp [Answers, answerTo], rfl⟩

/-! ### The check of a request -/

/-- What the checks of a request find before its object's own (R430). -/
def Finds (p : Path) (h : Pdu) (typ : Nat) (lenOk : Bool) (ab : Nat) : Prop :=
  if ¬(h.typ.toNat = typ ∧ h.rsvd = 0 ∧ lenOk = true ∧ h.length.toNat ≤ pduMax p) then ab = 0x05030001
  else if idxExists h.index.toNat = false then ab = 0x06020000
  else if objRow h.index.toNat h.sub.toNat = none then ab = 0x06090011 else ab = 0

theorem pduCheck_finds (hf : Finds p h typ lenOk ab) : pduCheck p h typ lenOk = ab := by
  unfold Finds at hf
  have hb : (h.typ.toNat == typ && h.rsvd == 0#8 && lenOk && decide (h.length.toNat ≤ pduMax p)) =
      decide (h.typ.toNat = typ ∧ h.rsvd = 0 ∧ lenOk = true ∧ h.length.toNat ≤ pduMax p) := by
    rw [Bool.eq_iff_iff]
    simp [and_assoc]
  unfold pduCheck
  rw [hb]
  split at hf
  case isTrue hn => rw [decide_eq_false hn, firstAbort_fail]; exact hf.symm
  case isFalse hn =>
    rw [decide_eq_true (not_not.1 hn), firstAbort_pass]
    split at hf
    case isTrue hi => rw [hi, firstAbort_fail]; exact hf.symm
    case isFalse hi =>
      rw [eq_true_of_ne_false hi, firstAbort_pass]
      split at hf
      case isTrue ho => rw [ho]; exact hf.symm
      case isFalse ho =>
        rw [Option.isSome_iff_ne_none.2 ho]
        exact hf.symm

theorem Finds.typ_eq (hf : Finds p h typ lenOk 0) : h.typ.toNat = typ := by
  by_contra hn
  unfold Finds at hf
  rw [if_pos fun hc => hn hc.1] at hf
  cases hf

/-! ### Requests that are not served -/

theorem odRead_served (hs : served s p = true) : exec (.odRead p h) s = .next (odRead s p h) := congrArg Host.Outcome.next (odTake_served _ _ _ _ _ hs)
theorem odWrite_served (hs : served s p = true) : exec (.odWrite p h bs) s = .next (odWrite s p h bs) :=
  congrArg Host.Outcome.next (odTake_served _ _ _ _ _ hs)
theorem odDescribe_served (hs : served s p = true) : exec (.odDescribe p h) s = .next (odDescribe s p h) :=
  congrArg Host.Outcome.next (odTake_served _ _ _ _ _ hs)

/-- A request found while its path is not up has no effect (R427). -/
theorem requests_down (hd : pathUp s p = false) : exec (.odRead p h) s = .next s ∧ exec (.odDescribe p h) s = .next s ∧
    ∀ bs, exec (.odWrite p h bs) s = .next s := by
  have hs : served s p = false := by rw [served, hd]; rfl
  refine ⟨?_, ?_, fun bs => ?_⟩
  · exact congrArg Host.Outcome.next ((odTake_down _ _ _ _ _ hd).trans (if_pos (by rw [hs]; rfl)))
  · exact congrArg Host.Outcome.next ((odTake_down _ _ _ _ _ hd).trans (if_pos (by rw [hs]; rfl)))
  · exact congrArg Host.Outcome.next ((odTake_down _ _ _ _ _ hd).trans (if_pos (by rw [hs]; rfl)))

/-- A request that has to wait joins its path's queue and pends the path's line (R427, R551). -/
def Queued (p : Path) (q : Instr) (s t : State) : Prop := waitsOn t p = waitsOn s p ++ [q] ∧ (∀ p', p' ≠ p → waitsOn t p' = waitsOn s p') ∧
  (t.isrc (if p = .tributary then 20 else 21)).pending = true ∧
  t = { s with mgm := { s.mgm with waitReq := t.mgm.waitReq, src := t.mgm.src, harts := t.mgm.harts } }

theorem pathNo_injective : Function.Injective pathNo := fun
  | .tributary, .tributary, _ => rfl
  | .segment, .segment, _ => rfl

theorem odTake_queues (hu : pathUp s p = true) (hs : served s p = false) (hw : (waitsOn s p).length < 16) (q : Instr) (full now : State) :
    Queued p q s (odTake s p q full now) := by
  rw [odTake_waits _ _ _ _ _ hu hs hw]
  generalize hv : setWaits s p (waitsOn s p ++ [q]) = v
  have hvq : v.mgm.waitReq = fset s.mgm.waitReq [] (pathNo p) (waitsOn s p ++ [q]) := by rw [← hv]; rfl
  have hvs : v = { s with mgm := { s.mgm with waitReq := v.mgm.waitReq } } := by rw [← hv]; rfl
  have he := pendLine_eq (s := v) 1 (4 + pathNo p)
  have hq : (pendLine v 1 (4 + pathNo p)).mgm.waitReq = v.mgm.waitReq := by rw [he]
  have hsrc := (pendLine_isrc (s := v) (g := 1) (n := 4 + pathNo p) (by cases p <;> decide)).1
  refine ⟨?_, fun p' hp => ?_, ?_, ?_⟩
  · rw [waitsOn, hq, hvq, fget_fset_same]
  · rw [waitsOn, hq, hvq, fget_fset_ne _ _ _ _ _ _ fun he => hp (pathNo_injective he), waitsOn]
  · cases p <;> exact hsrc
  · generalize pendLine v 1 (4 + pathNo p) = w at *
    rw [he, hvs]

theorem requests_queue (hu : pathUp s p = true) (hs : served s p = false) (hw : (waitsOn s p).length < 16) :
    ∀ q ∈ [.odRead p h, .odDescribe p h, .odWrite p h bs, .run p, .swapImageWrite p h.offset bs, .debugHalt p, .quoteRequest p bs],
      ∃ t, exec q s = .next t ∧ Queued p q s t := by
  have hq := odTake_queues hu hs hw
  intro q hm
  simp only [List.mem_cons, List.not_mem_nil, or_false] at hm
  rcases hm with rfl | rfl | rfl | rfl | rfl | rfl | rfl
  all_goals exact ⟨_, rfl, hq _ _ _⟩

/-- A request beyond the 16 that wait is answered with `BUSY` (R427). -/
theorem requests_busy (hu : pathUp s p = true) (hs : served s p = false) (hw : 16 ≤ (waitsOn s p).length) :
    (∀ q ∈ [.odRead p h, .odDescribe p h, .odWrite p h bs], ∃ t, exec q s = .next t ∧ Refuses p h s t 0x05040001) ∧
    ∃ t, exec (.run p) s = .next t ∧ Denied t p 0x180002 0x05040001 ∧ t.dev = s.dev ∧ t.mgm.waitReq = s.mgm.waitReq := by
  have hq := fun i full now => odTake_full (p := p) s i full now hu hs hw
  refine ⟨fun q hm => ?_, _, congrArg Host.Outcome.next (hq _ _ _), refuse_denied .., refuse_dev .., by rw [refuse_eq]⟩
  simp only [List.mem_cons, List.not_mem_nil, or_false] at hm
  rcases hm with rfl | rfl | rfl
  all_goals exact ⟨_, congrArg Host.Outcome.next (hq _ _ _), stamp_refuse p h s 0x05040001⟩

/-! ### Reads and descriptions -/

theorem odRead_malformed (hs : served s p = true) (hf : Finds p h 0x301 true ab) (hab : ab ≠ 0) :
    ∃ t, exec (.odRead p h) s = .next t ∧ Refuses p h s t ab := by
  refine ⟨_, odRead_served hs, ?_⟩
  simp only [odRead, hs, pduCheck_finds hf, ne_eq, hab, not_false_eq_true, if_true, Bool.not_true, Bool.false_eq_true, if_false]
  exact stamp_refuse p h s ab

theorem odDescribe_malformed (hs : served s p = true) (hf : Finds p h 0x303 (h.length == 0) ab) (hab : ab ≠ 0) :
    ∃ t, exec (.odDescribe p h) s = .next t ∧ Refuses p h s t ab := by
  refine ⟨_, odDescribe_served hs, ?_⟩
  have hc : pduCheck p h 0x303 (h.length == 0#32) = ab := pduCheck_finds hf
  simp only [odDescribe, hs, hc, ne_eq, hab, not_false_eq_true, if_true, Bool.not_true, Bool.false_eq_true, if_false]
  exact stamp_refuse p h s ab

theorem odWrite_malformed (hs : served s p = true) (hf : Finds p h 0x302 (h.length.toNat == bs.length) ab) (hab : ab ≠ 0) :
    ∃ t, exec (.odWrite p h bs) s = .next t ∧ Refuses p h s t ab := by
  refine ⟨_, odWrite_served hs, ?_⟩
  have hc : pduCheck p h 0x302 (decide (h.length.toNat = bs.length)) = ab := pduCheck_finds hf
  simp only [odWrite, hs, hc, ne_eq, hab, not_false_eq_true, if_true, Bool.not_true, Bool.false_eq_true, if_false]
  exact stamp_refuse p h s ab

theorem odWrite_readOnly (hs : served s p = true) (hf : Finds p h 0x302 (h.length.toNat == bs.length) 0)
    (hr : objRow h.index.toNat h.sub.toNat = some r) (hro : r.acc = .ro) :
    ∃ t, exec (.odWrite p h bs) s = .next t ∧ Refuses p h s t 0x06010002 := by
  refine ⟨_, odWrite_served hs, ?_⟩
  have hc : pduCheck p h 0x302 (decide (h.length.toNat = bs.length)) = 0 := pduCheck_finds hf
  simp only [odWrite, hs, hc, hr, Option.getD_some, hro, if_true, Bool.not_true, Bool.false_eq_true, if_false, ne_eq, not_true_eq_false]
  exact stamp_refuse p h s 0x06010002

theorem odWrite_writes (hs : served s p = true) (hf : Finds p h 0x302 (h.length.toNat == bs.length) 0)
    (hr : objRow h.index.toNat h.sub.toNat = some r) (hro : r.acc ≠ .ro) :
    exec (.odWrite p h bs) s = .next (stamp s h (writeObj s p r h.index.toNat h.sub.toNat h.offset.toNat bs)) := by
  have hc : pduCheck p h 0x302 (decide (h.length.toNat = bs.length)) = 0 := pduCheck_finds hf
  rw [odWrite_served hs]
  simp only [odWrite, hs, hc, hr, Option.getD_some, hro, if_false, Bool.not_true, Bool.false_eq_true, ne_eq, not_true_eq_false]

/-- The first check of a read of an object that fails (R425, R430). -/
def readAbort (s : State) (h : Pdu) (r : ORow) : Nat :=
  if r.acc = .wo then 0x06010001 else if readState s h.index.toNat = false then 0x08000020 else if r.typ ≠ .domain ∧ h.offset.toNat ≠ 0 then 0x06070010
  else if r.typ = .domain ∧ objSize s r h.sub.toNat < h.offset.toNat + h.length.toNat then 0x06070012
  else if h.index.toNat = 0xA010 ∧ h.sub.toNat = 2 ∧ targetOk s.dbg.target.toNat = false then 0x08000021
  else if readAvail s h.index.toNat h.sub.toNat = false then 0x08000023 else 0

theorem firstAbort_ite {b : Bool} {c : Prop} [Decidable c] (hb : b = false ↔ c) (l : List (Bool × Nat)) :
    firstAbort ((b, n) :: l) = if c then n else firstAbort l := by
  cases b
  · rw [if_pos (hb.1 rfl), firstAbort_fail]
  · rw [if_neg fun hc => Bool.noConfusion (hb.2 hc), firstAbort_pass]

theorem firstAbort_read (s : State) (h : Pdu) (r : ORow) : firstAbort [
    (r.acc != .wo, abWRITEONLY), (readState s h.index.toNat, abSTATE), (r.typ == .domain || h.offset.toNat == 0, abBADLEN),
    (r.typ != .domain || decide (h.offset.toNat + h.length.toNat ≤ objSize s r h.sub.toNat), abPASTEND),
    (!(h.index.toNat == 0xA010 && h.sub.toNat == 2) || targetOk s.dbg.target.toNat, abINCONS),
    (readAvail s h.index.toNat h.sub.toNat, abNOTAVAIL)] = readAbort s h r := by
  rw [firstAbort_ite (c := r.acc = .wo) (by simp), firstAbort_ite Iff.rfl, firstAbort_ite (c := r.typ ≠ .domain ∧ h.offset.toNat ≠ 0) (by simp),
    firstAbort_ite (c := r.typ = .domain ∧ objSize s r h.sub.toNat < h.offset.toNat + h.length.toNat) (by simp),
    firstAbort_ite (c := h.index.toNat = 0xA010 ∧ h.sub.toNat = 2 ∧ targetOk s.dbg.target.toNat = false) (by simp [and_assoc]), firstAbort_ite Iff.rfl]
  rfl

theorem odRead_reads (hs : served s p = true) (hf : Finds p h 0x301 true 0) (hr : objRow h.index.toNat h.sub.toNat = some r) :
    exec (.odRead p h) s = .next (stamp s h (if readAbort s h r ≠ 0 then refuse s p (pduObj h) (readAbort s h r)
      else respond s { path := p, data := readData s p r h.index.toNat h.sub.toNat h.offset.toNat h.length.toNat })) := by
  rw [odRead_served hs, ← firstAbort_read]
  simp only [odRead, hs, pduCheck_finds hf, hr, Option.getD_some, if_false, Bool.not_true, Bool.false_eq_true, ne_eq, not_true_eq_false]

theorem odRead_answers (hs : served s p = true) (hf : Finds p h 0x301 true 0) (hr : objRow h.index.toNat h.sub.toNat = some r) :
    ∃ t, exec (.odRead p h) s = .next t ∧ (readAbort s h r ≠ 0 → Refuses p h s t (readAbort s h r)) ∧
      (readAbort s h r = 0 → t = { s with mgm := { s.mgm with resp := t.mgm.resp } } ∧
        Answers p h t 0x381 0 (readData s p r h.index.toNat h.sub.toNat h.offset.toNat h.length.toNat)) := by
  refine ⟨_, odRead_reads hs hf hr, fun hab => ?_, fun hab => ?_⟩
  · rw [if_pos hab]
    exact stamp_refuse ..
  · rw [if_neg (not_not.2 hab)]
    have ha := stamp_respond p h s (readData s p r h.index.toNat h.sub.toNat h.offset.toNat h.length.toNat)
    rw [hf.typ_eq] at ha
    exact ⟨ha.2, ha.1⟩

/-- The first check of a description that fails (R425). -/
def describeAbort (s : State) (h : Pdu) : Nat := if readState s h.index.toNat = false then 0x08000020 else if h.offset ≠ 0 then 0x06070010 else 0

theorem firstAbort_describe (s : State) (h : Pdu) :
    firstAbort [(readState s h.index.toNat, abSTATE), (h.offset == 0#32, abBADLEN)] = describeAbort s h := by
  rw [firstAbort_ite Iff.rfl, firstAbort_ite (c := h.offset ≠ 0) (by simp)]
  rfl

theorem descBytes_length (s : State) (r : ORow) (sub : Nat) : (descBytes s r sub).length = 32 := by
  simp [descBytes, descField, leBytes_length]

theorem odDescribe_answers (hs : served s p = true) (hf : Finds p h 0x303 (h.length == 0) 0) (hr : objRow h.index.toNat h.sub.toNat = some r) :
    ∃ t, exec (.odDescribe p h) s = .next t ∧ (describeAbort s h ≠ 0 → Refuses p h s t (describeAbort s h)) ∧
      (describeAbort s h = 0 → Answers p h t 0x383 0 (descBytes s r h.sub.toNat) ∧ (descBytes s r h.sub.toNat).length = 32 ∧
        t = { s with mgm := { s.mgm with resp := t.mgm.resp } }) := by
  have he : odDescribe s p h = stamp s h (if describeAbort s h ≠ 0 then refuse s p (pduObj h) (describeAbort s h)
      else respond s { path := p, data := descBytes s r h.sub.toNat }) := by
    have hc : pduCheck p h 0x303 (h.length == 0#32) = 0 := pduCheck_finds hf
    rw [← firstAbort_describe]
    simp only [odDescribe, hs, hc, hr, Option.getD_some, if_false, Bool.not_true, Bool.false_eq_true, ne_eq, not_true_eq_false]
  refine ⟨_, (odDescribe_served hs).trans (congrArg _ he), fun hab => ?_, fun hab => ?_⟩
  · rw [if_pos hab]
    exact stamp_refuse ..
  · rw [if_neg (not_not.2 hab)]
    have ha := stamp_respond p h s (descBytes s r h.sub.toNat)
    rw [hf.typ_eq] at ha
    exact ⟨ha.1, descBytes_length .., ha.2⟩

end
end Sys2Proof.Machine
end

section
/-! PROOFS. What a write of an object leaves (R425, R430, R431). -/
namespace Sys2Proof.Machine

section
variable {s t u : State} {p : Path} {h : Pdu} {ab typ i sub off v : Nat} {r : ORow} {bs : List Byte} {lenOk : Bool}

/-! ### Values -/

theorem stage_resp (k : StageKind) : (stage s k).mgm.resp = s.mgm.resp := by
  unfold stage State.mapMgm
  dsimp only
  split
  · rfl
  · split <;> rfl

theorem putB_resp (i sub v : Nat) : (putB s i sub v).mgm.resp = s.mgm.resp := by
  unfold putB
  split
  case h_3 => exact (apply_ite (fun x : State => x.mgm.resp) _ _ _).trans (ite_eq_right_iff.2 fun _ => stage_resp _)
  case h_4 => exact (apply_ite (fun x : State => x.mgm.resp) _ _ _).trans (ite_self _)
  all_goals rfl

theorem mapBeds_resp (f : Beds → Beds) : (s.mapBeds f).mgm.resp = s.mgm.resp := rfl
theorem mapWts_resp (f : Weights → Weights) : (s.mapWts f).mgm.resp = s.mgm.resp := rfl
theorem mapFab_resp (f : Fabric → Fabric) : (s.mapFab f).mgm.resp = s.mgm.resp := rfl

theorem putC_resp (i sub v : Nat) : (putC s i sub v).mgm.resp = s.mgm.resp := by
  unfold putC
  split
  case h_1 | h_2 => exact mapBeds_resp _
  case h_3 | h_4 | h_5 | h_6 => exact mapWts_resp _
  case h_7 => rfl
  all_goals exact mapFab_resp _

theorem mapSrv_resp (f : Serving → Serving) : (s.mapSrv f).mgm.resp = s.mgm.resp := rfl
theorem mapPwr_resp (f : Power → Power) : (s.mapPwr f).mgm.resp = s.mgm.resp := rfl
theorem mapDbg_resp (f : Debug → Debug) : (s.mapDbg f).mgm.resp = s.mgm.resp := rfl

theorem putE_resp (i sub v : Nat) : (putE s i sub v).mgm.resp = s.mgm.resp := by
  unfold putE
  split
  case h_1 | h_2 | h_3 => rfl
  case h_4 | h_5 | h_6 | h_7 | h_8 => exact mapSrv_resp _
  case h_9 | h_10 | h_11 => exact mapPwr_resp _
  case h_12 | h_13 => rfl
  all_goals exact mapDbg_resp _

theorem objPut_resp (i sub v : Nat) : (objPut s i sub v).mgm.resp = s.mgm.resp := by
  unfold objPut
  split
  · exact putB_resp ..
  · split
    · exact putC_resp ..
    · exact putE_resp ..

/-- A value that was clamped is counted and reported (R430). -/
theorem clamped_eq (o : Nat) : clamped u o = { u with
    evr := (raise u 0x0D03 0x10 [o]).evr, mgm := { u.mgm with clamps := min (u.mgm.clamps + 1) 0xFFFFFFFF, lastClamp := o } } := by
  rw [clamped, raise_eq_now (s := u) (t := u.mapMgm fun m => { m with clamps := sat32 m.clamps, lastClamp := o }) rfl rfl rfl]
  rfl

theorem writeObj_value (hn : writeRoute s p i sub off (routePad r bs) = none) (hd : r.typ ≠ .domain) :
    writeObj s p r i sub off bs = writeValue s p r i sub off bs := by
  unfold writeObj
  rw [hn]
  exact if_neg hd

theorem writeObj_domain (hn : writeRoute s p i sub off (routePad r bs) = none) (hd : r.typ = .domain) :
    writeObj s p r i sub off bs = writeDomain s p r i sub off bs := by
  unfold writeObj
  rw [hn]
  exact if_pos hd

theorem writeObj_routed (hn : writeRoute s p i sub off (routePad r bs) = some u) (hl : routeLenOk r i off bs = true) : writeObj s p r i sub off bs = u := by
  unfold writeObj
  rw [hn]
  exact if_pos (.inl hl)

/-- A value that passes its checks is stored, clamped to its range (R430, R431). -/
theorem writeValue_stores (hk : Takes s p (i * 256 + sub)) (ha : accState s r = true) (ho : i = 0x1102 → p = .tributary)
    (hn : i = 0x2060 → stagesNow s = true → s.inp.replaying = false ∧ stageRoom s (.numctl (sub - 1) 0#32) = true)
    (hl : bs.length = typSize r.typ) (hv : valueOk r (leNat bs) = true) (hc : consistent s i sub (clampObj r (leNat bs)) = true) :
    writeValue s p r i sub 0 bs = okResp ((objPut s i sub (clampObj r (leNat bs))).cond (clampObj r (leNat bs) != leNat bs) fun s =>
      clamped s (i * 256 + sub)) p (i * 256 + sub) := by
  have hown : (i != 0x1102 || p == .tributary) = true := by
    by_cases hi : i = 0x1102
    · rw [ho hi]
      exact Bool.or_true _
    · rw [bne_iff_ne.2 hi]
      rfl
  have hst : (accState s r && !(i == 0x2060 && stagesNow s && s.inp.replaying)) = true := by
    by_cases hi : i = 0x2060 ∧ stagesNow s = true
    · rw [ha, (hn hi.1 hi.2).1, Bool.and_false]
      rfl
    · have hb : (i == 0x2060 && stagesNow s) = false := by
        rw [← Bool.not_eq_true, Bool.and_eq_true, beq_iff_eq]
        exact hi
      rw [ha, hb]
      rfl
  have hroom : (i != 0x2060 || !stagesNow s || stageRoom s (.numctl (sub - 1) 0#32)) = true := by
    by_cases hi : i = 0x2060 ∧ stagesNow s = true
    · rw [(hn hi.1 hi.2).2, Bool.or_true]
    · have hb : (i != 0x2060 || !stagesNow s) = true := by
        rw [Bool.or_eq_true, bne_iff_ne, Bool.not_eq_true', ← Bool.not_eq_true]
        exact not_and_or.1 hi
      rw [hb]
      rfl
  unfold writeValue
  dsimp only
  rw [hown, Bool.not_true, Bool.and_false, if_neg Bool.false_ne_true]
  refine odCmd_done _ _ _ _ _ _ hk hst ?_
  rw [hl, hv, hc, hroom, beq_self_eq_true, beq_self_eq_true]
  rfl

theorem odWrite_value (hs : served s p = true) (hf : Finds p h 0x302 (h.length.toNat == bs.length) 0)
    (hr : objRow h.index.toNat h.sub.toNat = some r) (hro : r.acc ≠ .ro)
    (hw : writeRoute s p h.index.toNat h.sub.toNat h.offset.toNat (routePad r bs) = none) (hd : r.typ ≠ .domain)
    (hk : Takes s p (h.index.toNat * 256 + h.sub.toNat)) (ha : accState s r = true) (ho : h.index.toNat = 0x1102 → p = .tributary)
    (hn : h.index.toNat = 0x2060 → stagesNow s = true → s.inp.replaying = false ∧ stageRoom s (.numctl (h.sub.toNat - 1) 0#32) = true)
    (hoff : h.offset.toNat = 0) (hl : bs.length = typSize r.typ) (hv : valueOk r (leNat bs) = true)
    (hc : consistent s h.index.toNat h.sub.toNat (clampObj r (leNat bs)) = true) (hu : objPut s h.index.toNat h.sub.toNat (clampObj r (leNat bs)) = u) :
    ∃ t, exec (.odWrite p h bs) s = .next t ∧ Answers p h t 0x382 0 [] ∧
      (clampObj r (leNat bs) = leNat bs → t = { u with mgm := { u.mgm with resp := t.mgm.resp } }) ∧
      (clampObj r (leNat bs) ≠ leNat bs → t = { u with
        evr := (raise u 0x0D03 0x10 [h.index.toNat * 256 + h.sub.toNat]).evr
        mgm := { u.mgm with resp := t.mgm.resp, clamps := min (u.mgm.clamps + 1) 0xFFFFFFFF, lastClamp := h.index.toNat * 256 + h.sub.toNat } }) := by
  have hur : u.mgm.resp = s.mgm.resp := by rw [← hu, objPut_resp]
  have he := odWrite_writes hs hf hr hro
  rw [writeObj_value hw hd, hoff, writeValue_stores hk ha ho hn hl hv hc, hu] at he
  refine ⟨_, he, ?_⟩
  by_cases hcl : clampObj r (leNat bs) = leNat bs
  · have hx := stamp_okResp (p := p) (h := h) hur (h.index.toNat * 256 + h.sub.toNat)
    rw [hf.typ_eq] at hx
    rw [bne_eq_false_iff_eq.2 hcl]
    exact ⟨hx.1, fun _ => hx.2, fun hne => absurd hcl hne⟩
  · have hcr : (clamped u (h.index.toNat * 256 + h.sub.toNat)).mgm.resp = s.mgm.resp := by rw [clamped_eq]; exact hur
    have hx := stamp_okResp (p := p) (h := h) hcr (h.index.toNat * 256 + h.sub.toNat)
    rw [hf.typ_eq] at hx
    have hcond : u.cond true (fun s => clamped s (h.index.toNat * 256 + h.sub.toNat)) = clamped u (h.index.toNat * 256 + h.sub.toNat) := rfl
    rw [bne_iff_ne.2 hcl, hcond]
    refine ⟨hx.1, fun heq => absurd heq hcl, fun _ => ?_⟩
    refine hx.2.trans ?_
    generalize (stamp s h (okResp (clamped u (h.index.toNat * 256 + h.sub.toNat)) p (h.index.toNat * 256 + h.sub.toNat))).mgm.resp = l
    rw [clamped_eq]

/-! ### Rows -/

theorem objRow_idx (hr : objRow i sub = some r) : r.idx = i ∧ (r ∈ objRows ∨ r = { idx := i, typ := .u8 }) := by
  unfold objRow at hr
  split at hr
  case h_1 x hx =>
    cases hr
    have hp := List.find?_some hx
    simp only [Bool.and_eq_true, beq_iff_eq] at hp
    exact ⟨hp.1, .inl (List.mem_of_find?_eq_some hx)⟩
  case h_2 =>
    split at hr
    · cases hr
      exact ⟨rfl, .inr rfl⟩
    · cases hr

/-- The tables of the router and the log partition are written in `STANDBY` (Table 13-1). -/
theorem tableRows : ∀ r ∈ objRows, r.idx ∈ [0x4060, 0x4061, 0x4062, 0x7032] → r.typ = .domain ∧ r.acc = .rws := by decide +kernel

theorem objRow_table (hr : objRow i sub = some r) (hro : r.acc ≠ .ro) (hi : i ∈ [0x4060, 0x4061, 0x4062, 0x7032]) :
    r.idx = i ∧ r.typ = .domain ∧ r.acc = .rws := by
  obtain ⟨hidx, hm | hu⟩ := objRow_idx hr
  · exact ⟨hidx, tableRows r hm (hidx ▸ hi)⟩
  · exact absurd (by rw [hu]) hro

/-- No command takes the writes of these objects. -/
theorem writeRoute_table (hi : i ∈ [0x4060, 0x4061, 0x4062, 0x7032]) (bs : List Byte) : writeRoute s p i sub off bs = none := by
  simp only [List.mem_cons, List.not_mem_nil, or_false] at hi
  rcases hi with rfl | rfl | rfl | rfl <;> rfl

theorem accState_standby (ha : r.acc = .rws) (hs : s.dev.state = .standby) : accState s r = true := by
  unfold accState
  rw [ha, hs]
  rfl

theorem odWrite_domain (hs : served s p = true) (hf : Finds p h 0x302 (h.length.toNat == bs.length) 0)
    (hr : objRow h.index.toNat h.sub.toNat = some r) (hro : r.acc ≠ .ro) (hi : h.index.toNat ∈ [0x4060, 0x4061, 0x4062, 0x7032])
    (hst : s.dev.state = .standby) (hk : Takes s p (h.index.toNat * 256 + h.sub.toNat)) (hl : h.offset.toNat + bs.length ≤ objSize s r h.sub.toNat) :
    exec (.odWrite p h bs) s = .next (stamp s h (okResp (match h.index.toNat with
      | 0x4060 => s.mapFab fun f => { f with queues := mwrite f.queues h.offset.toNat (maskBytes queueMask h.offset.toNat bs) }
      | 0x4061 => s.mapFab fun f => { f with fan := mwrite f.fan h.offset.toNat (maskBytes fanMask h.offset.toNat bs) }
      | 0x4062 => s.mapFab fun f => { f with red := mwrite f.red h.offset.toNat (maskBytes redMask h.offset.toNat bs) }
      | _ => logWrite s h.offset.toNat bs) p (h.index.toNat * 256 + h.sub.toNat))) := by
  obtain ⟨-, htyp, hacc⟩ := objRow_table hr hro hi
  rw [odWrite_writes hs hf hr hro, writeObj_domain (writeRoute_table hi _) htyp]
  refine congrArg (fun x => Host.Outcome.next (stamp s h x)) ?_
  exact odCmd_done _ _ _ _ _ _ hk (accState_standby hacc hst) (by rw [decide_eq_true hl]; rfl)

theorem maskBytes_getD (m : Nat → Byte) (off : Nat) (bs : List Byte) {j : Nat} (hj : off ≤ j ∧ j < off + bs.length) :
    (maskBytes m off bs).getD (j - off) 0#8 = byteAt bs (j - off) &&& m j := by
  have hlt : j - off < bs.length := by omega
  rw [maskBytes, List.getD_eq_getElem?_getD, List.getElem?_map, List.getElem?_range hlt, Option.map_some, Option.getD_some, Nat.add_sub_cancel' hj.1]

theorem mget_maskBytes (b : Mem) (m : Nat → Byte) (off : Nat) (bs : List Byte) (j : Nat) :
    mget (mwrite b off (maskBytes m off bs)) j = if off ≤ j ∧ j < off + bs.length then byteAt bs (j - off) &&& m j else mget b j := by
  have hlen : (maskBytes m off bs).length = bs.length := by rw [maskBytes, List.length_map, List.length_range]
  rw [mget_mwrite, hlen]
  split
  case isTrue hj => exact maskBytes_getD m off bs hj
  case isFalse => rfl

theorem objSize_table (hd : r.typ = .domain) (hi : r.idx ∈ [0x4060, 0x4061, 0x4062]) (sub : Nat) : objSize s r sub = r.size := by
  unfold objSize
  rw [if_neg (not_not.2 hd)]
  simp only [List.mem_cons, List.not_mem_nil, or_false] at hi
  rcases hi with h | h | h <;> rw [h] <;> rfl

theorem objSize_log (hd : r.typ = .domain) (hi : r.idx = 0x7032) (sub : Nat) {q : Nat × Nat} (hq : logPart s = some q) : objSize s r sub = q.2 := by
  unfold objSize
  rw [if_neg (not_not.2 hd), hi, hq]
  rfl

/-- An answer after a change of the router's tables. -/
theorem tables_answered {a b c : Mem} (hu : u = { s with fab := { s.fab with queues := a, fan := b, red := c } })
    (ht : t = { u with mgm := { u.mgm with resp := t.mgm.resp } }) : (t.fab.queues = a ∧ t.fab.fan = b ∧ t.fab.red = c) ∧
    t = { s with fab := { s.fab with queues := t.fab.queues, fan := t.fab.fan, red := t.fab.red }, mgm := { s.mgm with resp := t.mgm.resp } } := by
  subst hu
  generalize t.mgm.resp = l at ht
  subst ht
  exact ⟨⟨rfl, rfl, rfl⟩, rfl⟩

/-- The tables of the router are written byte by byte, without the bits that name nothing (R324, R330, R331). -/
theorem odWrite_tables (hs : served s p = true) (hf : Finds p h 0x302 (h.length.toNat == bs.length) 0)
    (hr : objRow h.index.toNat h.sub.toNat = some r) (hro : r.acc ≠ .ro) (hi : h.index.toNat ∈ [0x4060, 0x4061, 0x4062])
    (hk : Takes s p (h.index.toNat * 256 + h.sub.toNat)) (hst : s.dev.state = .standby) (hl : h.offset.toNat + bs.length ≤ r.size) :
    ∃ t, exec (.odWrite p h bs) s = .next t ∧ Answers p h t 0x382 0 [] ∧
      (∀ j, mget (if h.index.toNat = 0x4060 then t.fab.queues else if h.index.toNat = 0x4061 then t.fab.fan else t.fab.red) j =
        if h.offset.toNat ≤ j ∧ j < h.offset.toNat + bs.length
        then byteAt bs (j - h.offset.toNat) &&& (if h.index.toNat = 0x4060 then queueMask else if h.index.toNat = 0x4061 then fanMask else redMask) j
        else mget (if h.index.toNat = 0x4060 then s.fab.queues else if h.index.toNat = 0x4061 then s.fab.fan else s.fab.red) j) ∧
      t = { s with fab := { s.fab with queues := t.fab.queues, fan := t.fab.fan, red := t.fab.red }, mgm := { s.mgm with resp := t.mgm.resp } } := by
  have hi4 : h.index.toNat ∈ [0x4060, 0x4061, 0x4062, 0x7032] := List.mem_append_left [0x7032] hi
  obtain ⟨hidx, htyp, -⟩ := objRow_table hr hro hi4
  have he := odWrite_domain hs hf hr hro hi4 hst hk (by rwa [objSize_table htyp (hidx ▸ hi)])
  simp only [List.mem_cons, List.not_mem_nil, or_false] at hi
  refine ⟨_, he, ?_⟩
  rcases hi with h0 | h0 | h0
  · rw [h0]
    obtain ⟨ha, ht⟩ := stamp_okResp (s := s) (p := p) (h := h)
      (u := s.mapFab fun f => { f with queues := mwrite f.queues h.offset.toNat (maskBytes queueMask h.offset.toNat bs) }) rfl (0x4060 * 256 + h.sub.toNat)
    obtain ⟨hfab, he⟩ := tables_answered rfl ht
    rw [hf.typ_eq] at ha
    exact ⟨ha, fun j => (congrArg (mget · j) hfab.1).trans (mget_maskBytes ..), he⟩
  · rw [h0]
    obtain ⟨ha, ht⟩ := stamp_okResp (s := s) (p := p) (h := h)
      (u := s.mapFab fun f => { f with fan := mwrite f.fan h.offset.toNat (maskBytes fanMask h.offset.toNat bs) }) rfl (0x4061 * 256 + h.sub.toNat)
    obtain ⟨hfab, he⟩ := tables_answered rfl ht
    rw [hf.typ_eq] at ha
    exact ⟨ha, fun j => (congrArg (mget · j) hfab.2.1).trans (mget_maskBytes ..), he⟩
  · rw [h0]
    obtain ⟨ha, ht⟩ := stamp_okResp (s := s) (p := p) (h := h)
      (u := s.mapFab fun f => { f with red := mwrite f.red h.offset.toNat (maskBytes redMask h.offset.toNat bs) }) rfl (0x4062 * 256 + h.sub.toNat)
    obtain ⟨hfab, he⟩ := tables_answered rfl ht
    rw [hf.typ_eq] at ha
    exact ⟨ha, fun j => (congrArg (mget · j) hfab.2.2).trans (mget_maskBytes ..), he⟩

theorem logWrite_eq {q : Nat × Nat} (hq : logPart s = some q) (hl : off + bs.length ≤ q.2) : logWrite s off bs = bedWrite s (q.1 + off) bs := by
  have hle : bs.length ≤ q.2 - off := by omega
  unfold logWrite
  rw [hq]
  exact congrArg (bedWrite s (q.1 + off)) (List.take_of_length_le hle)

/-- The log partition is written where it stands (R537). -/
theorem odWrite_log {q : Nat × Nat} (hs : served s p = true) (hf : Finds p h 0x302 (h.length.toNat == bs.length) 0)
    (hr : objRow h.index.toNat h.sub.toNat = some r) (hro : r.acc ≠ .ro) (hi : h.index.toNat = 0x7032) (hq : logPart s = some q)
    (hk : Takes s p (h.index.toNat * 256 + h.sub.toNat)) (hst : s.dev.state = .standby) (hl : h.offset.toNat + bs.length ≤ q.2) :
    ∃ t, exec (.odWrite p h bs) s = .next t ∧ Answers p h t 0x382 0 [] ∧ Wrote s.beds.mem t.beds.mem (q.1 + h.offset.toNat) bs ∧
      t = { s with beds := { s.beds with mem := t.beds.mem, bad := t.beds.bad }, mgm := { s.mgm with resp := t.mgm.resp } } := by
  have hi4 : h.index.toNat ∈ [0x4060, 0x4061, 0x4062, 0x7032] := by rw [hi]; decide
  obtain ⟨hidx, htyp, -⟩ := objRow_table hr hro hi4
  have he := odWrite_domain hs hf hr hro hi4 hst hk (by rwa [objSize_log htyp (hidx.trans hi) _ hq])
  rw [hi] at he
  have hlog : exec (.odWrite p h bs) s = .next (stamp s h (okResp (logWrite s h.offset.toNat bs) p (0x7032 * 256 + h.sub.toNat))) := he
  rw [logWrite_eq hq hl] at hlog
  refine ⟨_, hlog, ?_⟩
  obtain ⟨ha, ht⟩ := stamp_okResp (s := s) (p := p) (h := h) (u := bedWrite s (q.1 + h.offset.toNat) bs) rfl (0x7032 * 256 + h.sub.toNat)
  rw [hf.typ_eq] at ha
  have hw := bedWrite_wrote (s := s) (q.1 + h.offset.toNat) bs
  have hb : bedWrite s (q.1 + h.offset.toNat) bs = { s with beds := { s.beds with
    mem := (bedWrite s (q.1 + h.offset.toNat) bs).beds.mem, bad := (bedWrite s (q.1 + h.offset.toNat) bs).beds.bad } } := rfl
  generalize bedWrite s (q.1 + h.offset.toNat) bs = u at *
  generalize stamp s h (okResp u p (0x7032 * 256 + h.sub.toNat)) = t at *
  have hbt : t.beds = u.beds := by rw [ht]
  refine ⟨ha, hbt ▸ hw, ?_⟩
  rw [hbt]
  generalize t.mgm.resp = l at ht
  exact ht.trans (by rw [hb])

/-! ### The rows that the statement names -/

theorem pduMax_ge (p : Path) : 1484 ≤ pduMax p := by cases p <;> decide

theorem Finds.of_wellFormed (ht : h.typ.toNat = typ) (hz : h.rsvd = 0) (hl : lenOk = true) (hm : h.length.toNat ≤ 1484)
    (hrest : if idxExists h.index.toNat = false then ab = 0x06020000 else if objRow h.index.toNat h.sub.toNat = none then ab = 0x06090011 else ab = 0) :
    Finds p h typ lenOk ab := by
  unfold Finds
  rwa [if_neg (not_not.2 ⟨ht, hz, hl, hm.trans (pduMax_ge p)⟩)]

theorem finds_zero (ht : h.typ.toNat = typ) (hz : h.rsvd = 0) (hl : lenOk = true) (hm : h.length.toNat ≤ 1484) (hi : idxExists h.index.toNat = true)
    (hr : objRow h.index.toNat h.sub.toNat = some r) : Finds p h typ lenOk 0 :=
  .of_wellFormed ht hz hl hm (by rw [hi, hr]; rfl)

theorem row_deviceState : idxExists 0x1800 = true ∧ objRow 0x1800 1 = some { idx := 0x1800, lo := 1, hi := 1, typ := .u8 } := by decide +kernel

theorem row_clockTarget : idxExists 0x6010 = true ∧
    objRow 0x6010 1 = some { idx := 0x6010, lo := 1, hi := 1, typ := .u16, acc := .rw, dflt := 1500, rng := .num 900 1800 } := by decide +kernel

end
end Sys2Proof.Machine
end

section
/-! PROOFS. The dictionary's requests (R425, R427, R429, R430). -/
namespace Sys2Proof.Machine

section
variable {s t u : State} {p : Path} {h : Pdu} {ab typ i sub off v : Nat} {r : ORow} {bs : List Byte} {lenOk : Bool}

theorem objGet_deviceState : objGet s 0x1800 1 = stateCode s.dev.state := rfl

theorem readState_deviceState : readState s 0x1800 = true := by simp [readState]

theorem readAvail_deviceState : readAvail s 0x1800 1 = true := by simp [readAvail]

theorem readState_read (hs : served s p = true) (ht : h.typ = 0x301) (hi : h.index = 0x1800) (hsub : h.sub = 1) (hz : h.rsvd = 0)
    (hl : h.length.toNat ≤ 1484) (ho : h.offset = 0) : ∃ t, exec (.odRead p h) s = .next t ∧
    Answers p h t 0x381 0 (leBytes 1 (stateCode s.dev.state)) ∧ t = { s with mgm := { s.mgm with resp := t.mgm.resp } } := by
  have hin : h.index.toNat = 0x1800 := by rw [hi]; rfl
  have hsn : h.sub.toNat = 1 := by rw [hsub]; rfl
  have hon : h.offset.toNat = 0 := by rw [ho]; rfl
  have hrow : objRow h.index.toNat h.sub.toNat = some { idx := 0x1800, lo := 1, hi := 1, typ := .u8 } := by rw [hin, hsn]; exact row_deviceState.2
  have hf := finds_zero (p := p) (typ := 0x301) (by rw [ht]; rfl) hz rfl hl (by rw [hin]; exact row_deviceState.1) hrow
  obtain ⟨t, he, -, ha⟩ := odRead_answers hs hf hrow
  have hab : readAbort s h { idx := 0x1800, lo := 1, hi := 1, typ := .u8 } = 0 := by
    unfold readAbort
    rw [hin, hsn, hon, readState_deviceState, readAvail_deviceState]
    rfl
  obtain ⟨hst, hans⟩ := ha hab
  rw [hin, hsn] at hans
  exact ⟨t, he, hans, hst⟩

theorem readState_described (hs : served s p = true) (ht : h.typ = 0x303) (hi : h.index = 0x1800) (hsub : h.sub = 1) (hz : h.rsvd = 0)
    (hl : h.length = 0) (ho : h.offset = 0) : ∃ t bs, exec (.odDescribe p h) s = .next t ∧
    Answers p h t 0x383 0 bs ∧ bs.length = 32 ∧ t = { s with mgm := { s.mgm with resp := t.mgm.resp } } := by
  have hin : h.index.toNat = 0x1800 := by rw [hi]; rfl
  have hsn : h.sub.toNat = 1 := by rw [hsub]; rfl
  have hrow : objRow h.index.toNat h.sub.toNat = some { idx := 0x1800, lo := 1, hi := 1, typ := .u8 } := by rw [hin, hsn]; exact row_deviceState.2
  have hf := finds_zero (p := p) (typ := 0x303) (lenOk := h.length == 0) (by rw [ht]; rfl) hz (by rw [hl]; rfl) (by rw [hl]; exact Nat.zero_le _)
    (by rw [hin]; exact row_deviceState.1) hrow
  obtain ⟨t, he, -, ha⟩ := odDescribe_answers hs hf hrow
  have hab : describeAbort s h = 0 := by
    unfold describeAbort
    rw [hin, ho, readState_deviceState]
    rfl
  obtain ⟨hans, hlen, hst⟩ := ha hab
  exact ⟨t, _, he, hans, hlen, hst⟩

theorem clockTarget_written (hs : served s p = true) (ht : h.typ = 0x302) (hi : h.index = 0x6010) (hsub : h.sub = 1) (hz : h.rsvd = 0)
    (ho : h.offset = 0) (hl : h.length = 2) (hlen : bs.length = 2) (hlo : 900 ≤ leNat bs) (hhi : leNat bs ≤ 1800) (hk : Takes s p 0x601001) :
    ∃ t, exec (.odWrite p h bs) s = .next t ∧ Answers p h t 0x382 0 [] ∧
      t = { s with pwr := { s.pwr with target := leNat bs / 25 * 25 }, mgm := { s.mgm with resp := t.mgm.resp } } := by
  have hin : h.index.toNat = 0x6010 := by rw [hi]; rfl
  have hsn : h.sub.toNat = 1 := by rw [hsub]; rfl
  have hon : h.offset.toNat = 0 := by rw [ho]; rfl
  have hln : h.length.toNat = 2 := by rw [hl]; rfl
  obtain ⟨r, hreq⟩ : ∃ r : ORow, r = { idx := 0x6010, lo := 1, hi := 1, typ := .u16, acc := .rw, dflt := 1500, rng := .num 900 1800 } := ⟨_, rfl⟩
  have hrow : objRow h.index.toNat h.sub.toNat = some r := by rw [hin, hsn, hreq]; exact row_clockTarget.2
  have hf := finds_zero (p := p) (typ := 0x302) (lenOk := h.length.toNat == bs.length) (by rw [ht]; rfl) hz (by rw [hln, hlen]; rfl)
    (by rw [hln]; decide) (by rw [hin]; exact row_clockTarget.1) hrow
  have hcl : clampObj r (leNat bs) = leNat bs := by
    rw [hreq]
    simp only [clampObj, clampN]
    rw [if_neg fun hx => absurd hx.1 (by decide)]
    omega
  have hput : objPut s h.index.toNat h.sub.toNat (clampObj r (leNat bs)) = s.mapPwr fun p => { p with target := leNat bs / 25 * 25 } := by
    rw [hcl, hin, hsn]
    rfl
  obtain ⟨t, he, ha, hst, -⟩ := odWrite_value (u := s.mapPwr fun p => { p with target := leNat bs / 25 * 25 }) hs hf hrow (by rw [hreq]; decide)
    (by rw [hin]; rfl) (by rw [hreq]; decide) (by rw [hin, hsn]; exact hk) (by rw [hreq]; rfl)
    (by rw [hin]; exact fun h => absurd h (by decide)) (by rw [hin]; exact fun h => absurd h (by decide)) hon (by rw [hlen, hreq]; rfl)
    (by rw [hreq]; rfl) (by rw [hin]; rfl) hput
  exact ⟨t, he, ha, hst hcl⟩

/-- A read whose PDU is malformed (R425). -/
theorem finds_badType (ht : h.typ.toNat ≠ typ) : Finds p h typ lenOk 0x05030001 := by
  unfold Finds
  rw [if_pos fun hc => ht hc.1]

theorem read_badType (hs : served s p = true) (ht : h.typ ≠ 0x301) : ∃ t, exec (.odRead p h) s = .next t ∧
    t.mgm.resp.getLast?.map (·.abort) = some 0x05030001 ∧ t.mgm.lastRef = h.index.toNat * 256 + h.sub.toNat := by
  have hn : h.typ.toNat ≠ 0x301 := fun hx => ht (BitVec.eq_of_toNat_eq hx)
  obtain ⟨t, he, ha, hst⟩ := odRead_malformed hs (finds_badType hn) (by decide)
  exact ⟨t, he, congrArg (Option.map _) ha, congrArg (fun u : State => u.mgm.lastRef) hst⟩

theorem Refuses.answers {n : Nat} (hr : Refuses p h s t ab) (ht : h.typ.toNat = typ) (hn : (typ + 0x80) % 65536 = n) : Answers p h t n ab [] := by
  rw [← hn, ← ht]
  exact hr.1

theorem read_noObject (hs : served s p = true) (ht : h.typ = 0x301) (hz : h.rsvd = 0) (hl : h.length.toNat ≤ 1484)
    (hi : idxExists h.index.toNat = false) : ∃ t, exec (.odRead p h) s = .next t ∧ Answers p h t 0x381 0x06020000 [] := by
  have hn : h.typ.toNat = 0x301 := by rw [ht]; rfl
  obtain ⟨t, he, hr⟩ := odRead_malformed hs (.of_wellFormed hn hz rfl hl (by rw [if_pos hi])) (by decide)
  exact ⟨t, he, hr.answers hn rfl⟩

theorem read_noSub (hs : served s p = true) (ht : h.typ = 0x301) (hz : h.rsvd = 0) (hl : h.length.toNat ≤ 1484)
    (hi : idxExists h.index.toNat = true) (hr : objRow h.index.toNat h.sub.toNat = none) :
    ∃ t, exec (.odRead p h) s = .next t ∧ Answers p h t 0x381 0x06090011 [] := by
  have hn : h.typ.toNat = 0x301 := by rw [ht]; rfl
  obtain ⟨t, he, hr⟩ := odRead_malformed hs (.of_wellFormed hn hz rfl hl (by rw [hi, hr]; rfl)) (by decide)
  exact ⟨t, he, hr.answers hn rfl⟩

theorem deviceState_readOnly (hs : served s p = true) (ht : h.typ = 0x302) (hi : h.index = 0x1800) (hsub : h.sub = 1) (hz : h.rsvd = 0)
    (hlen : bs.length ≤ 1484) (hl : h.length.toNat = bs.length) :
    ∃ t, exec (.odWrite p h bs) s = .next t ∧ Answers p h t 0x382 0x06010002 [] ∧ t.dev = s.dev := by
  have hin : h.index.toNat = 0x1800 := by rw [hi]; rfl
  have hsn : h.sub.toNat = 1 := by rw [hsub]; rfl
  have hn : h.typ.toNat = 0x302 := by rw [ht]; rfl
  have hrow : objRow h.index.toNat h.sub.toNat = some { idx := 0x1800, lo := 1, hi := 1, typ := .u8 } := by rw [hin, hsn]; exact row_deviceState.2
  have hf := finds_zero (p := p) hn hz (beq_iff_eq.2 hl) (hl ▸ hlen) (by rw [hin]; exact row_deviceState.1) hrow
  obtain ⟨t, he, hr⟩ := odWrite_readOnly hs hf hrow rfl
  have hdev : t.dev = s.dev := by rw [hr.2]
  exact ⟨t, he, hr.answers hn rfl, hdev⟩

/-- A read answers the whole value, or the bytes of a domain that were asked for (R425). -/
theorem odRead_values (hs : served s p = true) (hf : Finds p h 0x301 true 0) (hr : objRow h.index.toNat h.sub.toNat = some r) :
    ∃ t, exec (.odRead p h) s = .next t ∧ (readAbort s h r ≠ 0 → Refuses p h s t (readAbort s h r)) ∧
      (readAbort s h r = 0 → t = { s with mgm := { s.mgm with resp := t.mgm.resp } } ∧
        (r.typ ≠ .domain → Answers p h t 0x381 0 (leBytes (typSize r.typ) (objGet s h.index.toNat h.sub.toNat))) ∧
        (r.typ = .domain → Answers p h t 0x381 0 (domGet s h.index.toNat h.sub.toNat h.offset.toNat
          (if h.length.toNat = 0 then min (pduMax p) (objSize s r h.sub.toNat - h.offset.toNat) else h.length.toNat)))) := by
  obtain ⟨t, he, hab, ha⟩ := odRead_answers hs hf hr
  refine ⟨t, he, hab, fun h0 => ⟨(ha h0).1, fun hd => ?_, fun hd => ?_⟩⟩
  · have hx := (ha h0).2
    rwa [readData, if_neg hd] at hx
  · have hx := (ha h0).2
    rwa [readData, if_pos hd] at hx

end

/-- Settles O53. -/
theorem dictionaryRequests : Obligations.DictionaryRequests := by
  unfold Obligations.DictionaryRequests
  intro p h s
  refine ⟨requests_down, fun hu hs bs => ⟨requests_queue hu hs, requests_busy hu hs⟩, fun hs => ⟨fun ab hf hab => odRead_malformed hs hf hab,
    fun r hf hr => odRead_values hs hf hr, fun ab hf hab => odDescribe_malformed hs hf hab, fun r hf hr => odDescribe_answers hs hf hr,
    fun bs ab hf hab => odWrite_malformed hs hf hab, fun bs r hf hr hro => odWrite_readOnly hs hf hr hro,
    fun bs r hf hr hro => ⟨fun u hu hl => ?_, fun hw hd hk ha ho hn hoff hl hv hc => odWrite_value hs hf hr hro hw hd hk ha ho hn hoff hl hv hc rfl,
      fun hi hk hst hl => odWrite_tables hs hf hr hro hi hk hst hl, fun q hi hq hk hst hl => odWrite_log hs hf hr hro hi hq hk hst hl⟩⟩,
    fun hs => ⟨readState_read hs, readState_described hs, fun bs => clockTarget_written hs, read_badType hs, read_noObject hs, read_noSub hs,
      fun bs => deviceState_readOnly hs⟩⟩
  rw [odWrite_writes hs hf hr hro, writeObj_routed hu hl]
end Sys2Proof.Machine
end
